-- ==== Sys2Proof/Word.lean ====
section
/-! DEFINITION. The word types of the block and the sparse table that every addressed part of the state is held in. -/

namespace Sys2Proof

/-- A byte of any memory of the block (R6). -/
abbrev Byte := BitVec 8

/-- A register of the control window (R8). -/
abbrev Reg32 := BitVec 32

/-- A run of bytes, the lowest address first (R6). -/
abbrev Bytes := List Byte

/-- A sparse table: key and value pairs. `sget` and `sset` (Machine/Store.lean) keep its one form: keys strictly rising,
and no entry equal to what an unlisted key reads as. -/
abbrev Store (α : Type) := List (Nat × α)

/-- Saturating increase of a counter of `n` bits by `k` (R86, R192: counters saturate at their largest value). -/
def satAdd {n : Nat} (x : BitVec n) (k : Nat) : BitVec n :=
  if x.toNat + k < 2 ^ n then BitVec.ofNat n (x.toNat + k) else BitVec.allOnes n

end Sys2Proof
end

