-- ==== Sys2Proof/Syntax.lean ====
section
/-! DEFINITION. The commands of the AT96: one constructor of `Instr` for each row of spec/opcode_table.json.
A command's operands are what its sender chooses (a register, a word, a frame) or what the physical world supplies
(an error met on a read, a training result): notes/assumptions/6.md. -/

namespace Sys2Proof

/-- An array number (R86). -/
abbrev Ary := Fin 64
/-- A tenant number (R1). -/
abbrev Ten := Fin 32
/-- A queue of a tenant (R132). -/
abbrev Que := Fin 8
/-- An attention pipeline (R192). -/
abbrev Pipe := Fin 16

/-- Who writes a register of the control window: the host program over PCIe, planner firmware (ARY block, R86), or core 0
through the firmware port of the depot (R235). -/
inductive Agent where
  | host | planner | firmware
deriving DecidableEq, Repr

/-- The two command ports of the depot (R235). -/
inductive WscPort where
  | host | fw
deriving DecidableEq, Repr

/-- The two lanes of the safety link (R290). -/
inductive Lane where
  | a | b
deriving DecidableEq, Repr

/-- The hold sources of an array, bit i of ARY_HOLD_SRC (R69). -/
inductive HoldSrc where
  | sidCe | conCe | conLate | accCe | portBp | pair
deriving DecidableEq, Repr

/-- A word of a platform buffer: side (0 A, 1 B), buffer, K-step slot, row, K index (R60). -/
structure PlatAddr where
  side : Fin 2
  buf : Fin 2
  slot : Fin 16
  row : Fin 128
  k : Fin 32
deriving DecidableEq, Repr

/-- The operand registers of a depot port that continue a sequence (R236). -/
inductive WscReg where
  | cmd | addrLo | addrHi | len | data | stageLo | stageHi
deriving DecidableEq, Repr

/-- What a transfer descriptor of levels 1 and 2, or of a peer transfer, moves (R70, R153, R340). -/
inductive Move where
  /-- level 1: concourse partition offset to siding address -/
  | conToSid (a : Ary) (con sid len : Nat)
  /-- level 2: model address to concourse partition offset -/
  | memToCon (model con len : Nat)
  /-- level 2: concourse partition offset to model address -/
  | conToMem (con model len : Nat)
  /-- the same, packing a tensor plane into `slots` run-pack slots on the way (R211); read back, the slots keep their form, as the
  expander alone undoes it (R18) -/
  | conPack (con dst slots : Nat)
  /-- concourse partition offset to an offset of a peer window (R340) -/
  | conToPeer (con window off len : Nat)
  /-- level 2: concourse partition offset to the keys, or values, of tokens of a key-value sequence (R185) -/
  | conToKv (con handle layer head token n : Nat) (value : Bool)
  /-- offset of a peer window to a concourse partition offset, read under a tag (R339) -/
  | peerToCon (window off con len : Nat) (tag : BitVec 8)
deriving DecidableEq, Repr

/-- What the reads and flits of one access meet: concourse addresses with a corrected error, concourse words (address ÷ 8) found
uncorrectable, words of the data moved whose flit failed its CRC-16 after three resends (R198, R220, R295). -/
structure MoveErr where
  ce : List Nat
  ue : List Nat
  flits : List Nat
deriving DecidableEq, Repr

/-- What the reads of one depot unit meet: threshold sets used up before one decoded, more than 15 when none did, and whether the tags
came back whole. Units count from the first of the run read; a second entry of a unit is its second reading (R233, R255). -/
structure UnitErr where
  unit : Nat
  retries : Nat
  tagOk : Bool
deriving DecidableEq, Repr

/-- A transfer descriptor: its tenant, its DISPATCH, the wait counter it names (R111, R112). -/
structure Descriptor where
  tenant : Ten
  disp : Option Nat
  move : Move
  tq : Option (Ary × Fin 16)
deriving DecidableEq, Repr

/-- What the tiler makes for one array of a binding: an image for the bucket's shape, without presets (R153, R160, R162). -/
structure TileImage where
  img : Bytes
  /-- the bundles that handle the last partial tile in M, in N, and the last K-step (R160) -/
  lastM : List Nat
  lastN : List Nat
  lastK : List Nat
deriving DecidableEq, Repr

/-- What one LDP of a run brings: rows of an M tile of A or of an N tile of B, from a K-step on (R154). -/
structure LoadTag where
  tile : Nat
  step : Nat
deriving DecidableEq, Repr

/-- Keys and values that a kernel writes: handle, layer, first token, tokens (R185). -/
structure KvWrite where
  handle : Nat
  layer : Nat
  first : Nat
  tokens : Nat
deriving DecidableEq, Repr

/-- What a compiled kernel makes of one DISPATCH: the package leaves these layouts to Polide (R130, R257), so they arrive
with the command (notes/assumptions/13.md). -/
structure Emission where
  /-- bytes of the ARGS block (R130) -/
  argsLen : Nat
  /-- a kernel that is not tiled: the arrays that receive an image, one entry an image -/
  images : List Ary
  /-- a matrix kernel: what the tiler makes for each array of the tiling, used where no plan is stored (R149, R158, R162) -/
  tiles : List TileImage
  /-- the presets of the DISPATCH's own, i1 to i31, trip counts among them, and what the LDPs of its image bring in the order of the run,
  for each of those arrays (R88, R154, R160) -/
  presets : List (List Reg32)
  loads : List (List LoadTag)
  /-- pass legs, each with its 64-byte descriptor (R164) -/
  legs : List Bytes
  /-- how many transfer descriptors the DISPATCH issues besides those of the tiling's blocks (R153) -/
  descs : Nat
  /-- the length list of a ragged kernel (R161) -/
  lengths : List Nat
  /-- key-value writes (R185) -/
  kvWrites : List KvWrite
  /-- model ranges the descriptors read: address, length (R259) -/
  reads : List (Nat × Nat)
  /-- scale slots its drains name (R56) -/
  scales : List (Fin 16)
deriving DecidableEq, Repr

/-- A kernel of a package: what the tiler and the planner read of its entry (R129, R157, R158). -/
structure KernelEntry where
  kernel : BitVec 16
  /-- sequence buckets present -/
  seqs : List Nat
  /-- batch buckets present -/
  batches : List Nat
  n : Nat
  k : Nat
  afmt : BitVec 4
  bfmt : BitVec 4
  aq : Bool
  bq : Bool
  /-- output bytes of one drained tile, `eo` of R158 -/
  outBytes : Nat
  /-- 1: a matrix kernel, tiled under R158; 0: an attention kernel -/
  matrix : Bool
  /-- the tiling word -/
  tiling : Reg32
  /-- it declares peer traffic (R340) -/
  peer : Bool
deriving DecidableEq, Repr

/-- A scan, a read or a rebuilt value of a received SPDM certificate chain: whether its signatures verify and the SHA-384
digest of the root it ends at (R312, notes/assumptions/14.md). -/
structure ChainResult where
  verifies : Bool
  rootDigest : Bytes
deriving DecidableEq, Repr

/-- A received flit header's fields (R339). -/
structure FlitHdr where
  vc : Bool
  pack : Bool
  first : Bool
  last : Bool
  fseq : BitVec 12
  ackv : Bool
  ackseq : BitVec 12
  window : Fin 64
  tag : BitVec 8
  offset : BitVec 30
  mlen : BitVec 13
deriving DecidableEq, Repr

/-- The mailbox operations that pass an image (R324): what the verification of FW_STAGE finds. -/
structure ImageCheck where
  signatureOk : Bool
  secVersion : Nat
deriving DecidableEq, Repr

/-- One access of an MGT record: offset, write flag, value (R322). -/
structure MgtAccess where
  off : Nat
  write : Bool
  val : Reg32
deriving DecidableEq, Repr

/-- The firmware components (R299). -/
inductive Comp where
  | bootmon | spdm | keymgr | planner1 | planner2 | planner3 | planner4 | shunt | loader | mgmt | telem | express
deriving DecidableEq, Repr

/-- Why a component stops (R300). -/
inductive StopCause where
  | protection | illegal | fetch
deriving DecidableEq, Repr

/-- A line character of the safety link: K x.y, or a data byte (R345). -/
inductive LineChar where
  | k (x y : Nat)
  | d (b : Byte)
deriving DecidableEq, Repr

/-- What the host sets in the function's configuration space: MSI-X on, every vector masked, ECRC on (R328, R331). -/
structure PcieCfg where
  msixOn : Bool
  msixMasked : Bool
  ecrc : Bool
deriving DecidableEq, Repr

/-- The largest payload of a TLP and the largest read request that the function serves, in bytes (R328). -/
def maxPayload : Nat := 512
def maxRead : Nat := 4096

/-- How the packets of a connection to the management port come: the largest one's bytes, and 802.1Q tags (R347). -/
structure NetPacket where
  bytes : Nat
  tags : Nat
deriving DecidableEq, Repr

/-- The rails, in the row order of R365. -/
abbrev Rail := Fin 10

inductive Instr where
  -- Registers (R6 to R13)
  | lowHalfReadLatch (off size : Nat)
  | registerWrite (who : Agent) (off : Nat) (val : BitVec 64) (size : Nat)
  | unalignedAccess (write : Bool) (off size : Nat)
  -- Array slots (chapter 4)
  | bundleIssue (a : Ary) (ue : Bool)
  | lnop (a : Ary)
  | ldp (a : Ary) (ce : List (Nat × Nat)) (ue : List Nat)
  | ldc (a : Ary) (ce : List Nat) (ue : List Nat)
  | stc (a : Ary) (ce : List Nat) (ue : List Nat)
  | ldv (a : Ary) (ce : List Nat) (ue : List Nat)
  | stv (a : Ary)
  | loadMoveDue (a : Ary) (mv : Nat) (ce : Option Nat)
  | moveComplete (a : Ary) (mv : Nat) (held : Nat) (split : Bool) (flits : List Nat)
  | arrayHoldRelease (a : Ary) (src : HoldSrc) (held : Nat)
  | mnop (a : Ary)
  | mma (a : Ary) (ce : List Nat) (ue : List (Nat × Nat)) (par : List PlatAddr)
  | mmaz (a : Ary) (ce : List Nat) (ue : List (Nat × Nat)) (par : List PlatAddr)
  | vnop (a : Ary)
  | vadd (a : Ary)
  | vsub (a : Ary)
  | vmul (a : Ary)
  | vfma (a : Ary)
  | vmax (a : Ary)
  | vmin (a : Ary)
  | vmov (a : Ary)
  | vbcast (a : Ary)
  | vsplat (a : Ary)
  | vrcp (a : Ary)
  | vrsqrt (a : Ary)
  | vexp2 (a : Ary)
  | vrsum (a : Ary)
  | vrmax (a : Ary)
  | iset (a : Ary)
  | iseth (a : Ary)
  | iadd (a : Ary)
  | isub (a : Ary)
  | imin (a : Ary)
  | icmplt (a : Ary)
  | icmpeq (a : Ary)
  | dnop (a : Ary)
  | drain (a : Ary) (ce : List Nat) (ue : List Nat) (bp : List Nat) (sue : List Nat)
  | cnop (a : Ary)
  | loop (a : Ary)
  | br (a : Ary)
  | waitq (a : Ary)
  | waitqRelease (a : Ary) (waited : Nat)
  | sync (a : Ary) (split : Bool)
  | syncRelease (t : Ten) (bar : Fin 16) (waited : List (Ary × Nat))
  | halt (a : Ary)
  -- Array events
  | imageComplete (a : Ary)
  | segOverrun (a : Ary) (cycles : Nat)
  | arrayPause (a : Ary)
  | arrayResume (a : Ary)
  | timetableImageSubmit (a : Ary) (slot : Fin 2) (img : Bytes) (disp : Option Nat)
  | imageCheckDone (a : Ary) (slot : Fin 2)
  | imageStart (a : Ary)
  | avsStretch (a : Ary) (amount : BitVec 8)
  | avsStretchEnd (a : Ary)
  | transferDescriptorComplete (d : Descriptor) (e : MoveErr)
  -- Plan instructions (chapter 5): tenant, queue, the words read from the ring
  | reservedPlanOpcode (t : Ten) (q : Que) (w0 w1 : BitVec 64)
  | nop (t : Ten) (q : Que) (w0 w1 : BitVec 64)
  | dispatch (t : Ten) (q : Que) (w0 w1 : BitVec 64) (e : Emission)
  | dispatchComplete (d : Nat)
  | batch (t : Ten) (q : Que) (w0 w1 : BitVec 64)
  | waitev (t : Ten) (q : Que) (w0 w1 : BitVec 64)
  | signalev (t : Ten) (q : Que) (w0 w1 : BitVec 64)
  | fence (t : Ten) (q : Que) (w0 w1 : BitVec 64)
  | tstamp (t : Ten) (q : Que) (w0 w1 : BitVec 64)
  | planHalt (t : Ten) (q : Que) (w0 w1 : BitVec 64)
  | completionRecordWrite (t : Ten) (q : Que)
  | dblTailWrite (t : Ten) (q : Que) (v : Reg32)
  | dblCplHeadWrite (t : Ten) (q : Que) (v : Reg32)
  | skip (t : Ten) (q : Que)
  | retry (t : Ten) (q : Que)
  | flush (t : Ten) (q : Que)
  | queueEnable (t : Ten) (q : Que) (v : Reg32)
  | queueDisable (t : Ten) (q : Que) (v : Reg32)
  -- Tenants and bindings
  | start (t : Ten)
  | stop (t : Ten)
  | reset (t : Ten)
  | tenantResetDone (t : Ten)
  | resume (t : Ten)
  | bindingWrite (t : Ten) (off : Nat) (v : Reg32)
  | setcfg (t : Ten) (q : Que) (w0 w1 : BitVec 64)
  | getcfg (t : Ten) (q : Que) (w0 w1 : BitVec 64)
  | rebind (t : Ten) (q : Que) (w0 w1 : BitVec 64)
  | rebindAccept (t : Ten) (q : Que)
  | legQuiesceTimeout (p : Pipe)
  | scrub (t : Ten) (q : Que) (w0 w1 : BitVec 64)
  | scrubDone (t : Ten) (q : Que)
  | plannerBalance (shares : List Nat) (t : Ten)
  -- Key-value cache and attention (chapter 7)
  | kvopen (t : Ten) (q : Que) (w0 w1 : BitVec 64)
  | kvappend (t : Ten) (q : Que) (w0 w1 : BitVec 64)
  | kveditTrunc (t : Ten) (q : Que) (w0 w1 : BitVec 64)
  | kveditRemap (t : Ten) (q : Que) (w0 w1 : BitVec 64)
  | kveditDrop (t : Ten) (q : Que) (w0 w1 : BitVec 64)
  | kveditPos0 (t : Ten) (q : Que) (w0 w1 : BitVec 64)
  | kveditUnspill (t : Ten) (q : Que) (w0 w1 : BitVec 64)
  | kveditSeal (t : Ten) (q : Que) (w0 w1 : BitVec 64)
  | kvclose (t : Ten) (q : Que) (w0 w1 : BitVec 64)
  | pageSealFp8 (p : Pipe) (t : Ten) (h : BitVec 16) (page : Nat)
  | pageSealK3 (p : Pipe) (t : Ten) (h : BitVec 16) (page : Nat)
  | walkEnd (t : Ten) (h : BitVec 16) (walk : Nat)
  | spillhint (t : Ten) (q : Que) (w0 w1 : BitVec 64)
  | pageSpill (t : Ten) (h : BitVec 16)
  | attentionLegStart (p : Pipe) (ce ue : List Nat)
  | kvBlockArrival (p : Pipe) (stalled : Nat) (ce ue : List Nat)
  | attentionLegEnd (p : Pipe)
  -- Memory tiers (chapter 8)
  | migrate (t : Ten) (q : Que) (w0 w1 : BitVec 64)
  | prefetch (t : Ten) (q : Que) (w0 w1 : BitVec 64)
  | gather (d : Nat) (t : Ten) (list count rowBytes : Nat) (model : Bool) (src stride limit dst : Nat) (e : MoveErr)
  | yardPageWrite (t : Ten) (addr : Nat) (page : Bytes)
  | yardPageRead (t : Ten) (addr : Nat) (firstBad secondBad : List (Fin 8)) (recordUe : Bool)
  | stackedMemoryRead (t : Ten) (addr : Nat) (crcFails : Nat) (ue : Bool) (ce : Bool)
  | patrolScrub (unit : Nat) (row : Nat) (ce : Bool) (ue : List Nat)
  | stackedPhaseCal (ns : Nat)
  | yardDriftCheck (exceeds : Bool) (ns : Nat)
  | calWindowAbandon (yard : Bool)
  -- Depot (chapter 9)
  | wscKeyWrite (p : WscPort) (v : Reg32)
  | wscSequenceWrite (p : WscPort) (r : WscReg) (v : Reg32)
  | programSmall (p : WscPort) (v : Reg32)
  | programBulk (p : WscPort) (v : Reg32)
  | erase (p : WscPort) (v : Reg32)
  | wpset (p : WscPort) (v : Reg32)
  | suspend (p : WscPort)
  | depotResume (p : WscPort)
  | status (p : WscPort)
  | readid (p : WscPort)
  | readArrayLoad (p : WscPort) (v : Reg32)
  | readUnitLoaded (p : WscPort) (retries : Nat) (tagOk : Bool)
  | wscRdataRead (p : WscPort)
  | bulkRead (p : WscPort) (v : Reg32)
  | dieProgramUnitDone (die : Fin 16) (fail : Bool)
  | dieEraseDone (die : Fin 16) (fail : Bool)
  | dieReadDone (die : Fin 16) (media : List UnitErr)
  | depotReadRequest (die : Fin 16) (cls : Fin 5)
  | dieSuspended (die : Fin 16)
  | dieResumeDone (die : Fin 16)
  | depotUnitRead (sector unit : Nat) (retries : Nat) (tagOk : Bool)
  | instructionFetchMiss (core : Fin 8) (c : Option Comp) (addr : Nat)
  -- Weight copies (chapter 9)
  | loadw (t : Ten) (q : Que) (w0 w1 : BitVec 64)
  | shardDigestCheck (t : Ten) (copy : Fin 4) (shard : Nat) (media : List UnitErr)
  | digestw (t : Ten) (q : Que) (w0 w1 : BitVec 64)
  | armw (t : Ten) (q : Que) (w0 w1 : BitVec 64) (kernels : List KernelEntry) (initExps : List (BitVec 8))
  | points (t : Ten) (q : Que) (w0 w1 : BitVec 64)
  | releasew (t : Ten) (q : Que) (w0 w1 : BitVec 64)
  | shardReloadDone (t : Ten) (copy : Fin 4) (shard : Nat) (media : List UnitErr)
  -- Express (chapter 10)
  | xprarm (t : Ten) (q : Que) (w0 w1 : BitVec 64)
  | xprdisarm (t : Ten) (q : Que) (w0 w1 : BitVec 64)
  | req (lane : Lane) (slot : List LineChar)
  | keep (lane : Lane) (slot : List LineChar)
  | receivedFrameDiscard (lane : Lane) (slot : List LineChar)
  | laneCopyTimeout (x : Fin 4) (ce ue : List Nat)
  | expressRestart (x : Fin 4)
  | barrierTimeout (x : Fin 4) (role : Fin 8) (spare : Bool)
  | spareBarrier (x : Fin 4) (split : Bool) (ce ue : List Nat)
  | xprDeadline (x : Fin 4)
  | clockCompare (diverges : Bool)
  | spareProof (x : Fin 4) (role : Fin 8) (ce ue : List Nat)
  | sboxSelfCheck (reportsA reportsB : Bool)
  | alive (lane : Lane)
  | laneWatchdog (lane : Lane)
  | laneRecovery (lane : Lane)
  -- Control complex (chapter 11)
  | coreWatchdog (core : Fin 8) (late : Option Comp)
  | componentAccessFault (c : Comp) (cause : StopCause)
  | glbDrvverWrite (v : Reg32)
  | glbHeartbeatWrite (v : Reg32)
  | getCapabilities (ver : BitVec 8)
  | negotiateAlgorithms (supported : Bool)
  | getCertificate (slot : BitVec 8) (offset length : Nat)
  | challenge (slot : BitVec 8) (nonce : Bytes)
  | getMeasurements (index : BitVec 8) (nonce : Bytes)
  | keyExchange (reqId : BitVec 16) (random exchange : Bytes)
  | finish (sid : BitVec 32) (macOk : Bool)
  | heartbeat (sid : BitVec 32)
  | keyUpdate (sid : BitVec 32)
  | endSession (sid : BitVec 32)
  | getEncapsulatedRequest (sid : BitVec 32)
  | deliverEncapsulatedResponse (sid : BitVec 32) (chain : ChainResult)
  | unsupportedSpdmRequest (code : BitVec 8)
  | keyDeliver (sid : BitVec 32) (slot tenant : Nat) (flags : BitVec 8) (secret signer : Bytes) (nonce : Bytes)
  | keyUnwrap (sid : BitVec 32) (slot tenant : Nat) (flags : BitVec 8) (blob : Bytes)
  | keyErase (sid : BitVec 32) (slot tenant : Nat)
  | keyQuery (sid : BitVec 32)
  | mgtTlsHandshake (chain : ChainResult) (profileOk : Bool) (net : NetPacket)
  | mgtRecord (accesses : List MgtAccess)
  | mgtMboxDataWrite (v : Reg32)
  | fwStage (img : ImageCheck)
  -- Windows and PCIe (chapter 12)
  | hostWindowWrite (w : Fin 64) (off : Nat) (data : Bytes)
  | hostWindowRead (w : Fin 64) (off len : Nat)
  | winopen (t : Ten) (q : Que) (w0 w1 : BitVec 64)
  | winclose (t : Ten) (q : Que) (w0 w1 : BitVec 64)
  | windowRetire (peer : Bool) (w : Fin 64)
  -- Peer link (chapter 12)
  | peerLinkTrain (present : Bool) (version : Fin 3) (lanes : BitVec 8)
  | wr (h : FlitHdr) (payload : Bytes)
  | rdreq (h : FlitHdr)
  | rdcpl (h : FlitHdr) (payload : Bytes)
  | signal (h : FlitHdr) (payload : Bytes)
  | grad (h : FlitHdr) (payload : Bytes)
  | nak (h : FlitHdr) (payload : Bytes)
  | credit (h : FlitHdr) (payload : Bytes)
  | replay (h : FlitHdr)
  | idle (h : FlitHdr)
  | badFlit (flit : Bytes)
  -- SMBus and test port (chapter 12)
  | smbState (addr : BitVec 7) (pecOk : Bool)
  | smbIdent (addr : BitVec 7) (pecOk : Bool)
  | smbTemp (addr : BitVec 7) (pecOk : Bool)
  | smbPower (addr : BitVec 7) (pecOk : Bool)
  | smbXpr (addr : BitVec 7) (pecOk : Bool)
  | clearAlert (addr : BitVec 7) (pecOk : Bool)
  -- Clocks, power, start-up (chapter 13)
  | glbResetWrite (v : Reg32)
  | bootDone (bnonce : Bytes)
  | verifyDone (ok : Bool)
  | trainDone (ok : Bool) (channels : List (Nat × Nat × Nat)) (peerVersion : Fin 3) (peerLanes : BitVec 8)
  | selftestDone (ok : Bool) (sboxOk : Bool)
  | railFault (r : Rail)
  | thermAlert (temp : BitVec 16)
  | thermThrottle (temp : BitVec 16)
  | thermTrip (temp : BitVec 16)
  | bar0OversizeRead (off size : Nat)
  | safetyLinkAlign (lane : Lane)
  | laneSlot (lane : Lane) (ce ue : List Nat)
  | thermTripRelease (temp : BitVec 16)
  | throttleRelease (temp : BitVec 16)
  | xprarmComplete (x : Fin 4) (ce ue : List Nat)
  | zeroFillGranuleCleared (t : Ten) (g : Nat)
  -- Commands without operands, of every chapter (last, so that compiled code can hold every command)
  | heatDecay
  | migrationPolicyEval
  | granuleMove
  | granuleSwitch
  | backgroundDigestPass
  | spareProofDone (split : Bool)
  | lockstep
  | hold
  | heartbeatTimeout
  | getVersion
  | getDigests
  | mgtMboxDataRead
  | logRead
  | telemetry
  | setHostRoot
  | setMgtRoot
  | scanUnlock
  | scanLock
  | netcfg
  | pcieEcrc
  | d3hotEntry
  | bypass (tdi : List Bool)
  | idcode
  | samplePreload (tdi : List Bool)
  | extest (tdi : List Bool)
  | clamp (tdi : List Bool)
  | highz (tdi : List Bool)
  | porNAssert
  | porNRelease
  | pllLock (cfg : PcieCfg)
  | perstNAssert
  | glbResetSequenceTimeout
  | pllUnlock
  | railRecovery
  | vddAuxLoss
  | perstNRelease (cfg : PcieCfg)
  | d3hotExit (cfg : PcieCfg)
  | peerAcknowledge
deriving DecidableEq, Repr

end Sys2Proof
end

