-- ==== Sys2Proof/Decode.lean ====
section
/-! DEFINITION. The table's words: no row of spec/opcode_table.json gives a command any bits ("fields" is empty in every row), so
no word spells a command. -/

namespace Sys2Proof

/-- The command a word spells by the table's bits: none, for no row gives bits. -/
def decodeTableWord (_nbits _w : Nat) : Option Instr := none

end Sys2Proof
end

