-- ==== Sys2Proof/Config.lean ====
section
/-! DEFINITION. What the spec leaves open: constants without a body. Nothing in Lean can see a value of theirs, so a claim
that holds, holds whatever they are (notes/assumptions/8.md, 9.md, 10.md, 14.md, 21.md). -/

namespace Sys2Proof.Config

/-- R105: the A-cycle of a K-step, counted from its first, in which the grid takes word `k` of row `row` of a side's slot; a
fixed internal order of the hardware that the manual does not give. Arguments: A-cycles per K-step, side, row, K index. -/
opaque gridReadCycle : Nat → Nat → Nat → Nat → Nat

/-- R116 (move span), R381 (abandoned move): whether a byte whose value is open takes the later of its two values. Arguments:
array, A-cycle, byte address, the model's counter. -/
opaque moveTakesLater : Nat → Nat → Nat → Nat → Bool

/-- R76, R107, R169, R171: the correctly rounded result of a real function at an argument that the interval search of
Machine/Trans.lean has not decided within its precision. First argument: the function's number. -/
opaque realUndecided : Nat → BitVec 32 → BitVec 32 → BitVec 32

/-- R241: byte `i` of a unit of a sector whose erase failed, at the model's counter. -/
opaque erasedByte : Nat → Nat → Nat → BitVec 8

/-- R310: a signature of an identity key over a message, with the model's counter standing for its nonce. -/
opaque identitySign : List (BitVec 8) → List (BitVec 8) → Nat → List (BitVec 8)

/-- R312: the device's key-exchange response data, by the model's counter. -/
opaque exchangeData : Nat → List (BitVec 8)

/-- R310: the certificates of slot 0 above the device's: the root CA's and the manufacturing CA's. -/
opaque caCerts : List (BitVec 8)

/-- R310: the device certificate: it carries an identity public key, a serial number and the value of GLB_IDENT. -/
opaque deviceCert : List (BitVec 8) → BitVec 64 → BitVec 32 → List (BitVec 8)

/-- R321: the management identity key that a DSEED gives, and what its certificate says of it before it is signed. -/
opaque mgtKey : List (BitVec 8) → List (BitVec 8)
opaque mgtCert : List (BitVec 8) → List (BitVec 8)

/-- R230, R313: the firmware image that the device left the line with. -/
opaque lineImage : List (BitVec 8)

/-- R313: measurement blocks whose content the manual does not give: 1 (boot ROM), 4 and 5 (a root that is not provisioned). -/
opaque measurement : Nat → List (BitVec 8)

/-- R314, R319: the secrets core 0 gives the device slots 0x20 to 0x22 at BOOT. -/
opaque deviceSecret : Nat → List (BitVec 8)

/-- R319: the boot signing public key of device slot 0x22, 97 bytes uncompressed. -/
opaque bootSigner : List (BitVec 8)

/-- R348, R364: the package power in mW, a measurement that no rule states, by the model's counter. -/
opaque powerMilliwatts : Nat → BitVec 32

/-- R354: where fused speed data and the critical-path monitors put VDD_A between 0.65 and 0.80 V, by the model's counter. -/
opaque vddaSteps : Nat → Fin 31

/-- R328: the identity of the PCIe function: the vendor, whose number the manual does not print, the device and the class code. -/
opaque pcieVendor : BitVec 16
def pcieDevice : BitVec 16 := 0x0A96
def pcieClass : BitVec 24 := 0x120000

/-- R150: what a planner stores for a tiling and its images, by plan-cache key. -/
opaque residentPlan : List Nat → List (BitVec 8)

end Sys2Proof.Config
end

