-- ==== Sys2Proof/Machine/Store.lean ====
section
/-! DEFINITION. Reading and writing a sparse table in its one canonical form. -/

namespace Sys2Proof.Machine

/-- The value at a key; an unlisted key reads as `d`. -/
def sget {α : Type} (d : α) : Store α → Nat → α
  | [], _ => d
  | (k', v) :: r, k => if k' = k then v else sget d r k

/-- The table without a key's entry. -/
def sdel {α : Type} (m : Store α) (k : Nat) : Store α :=
  m.filter (fun e => e.1 != k)

/-- A table with an entry put before the first larger key. -/
def sins {α : Type} (k : Nat) (v : α) : Store α → Store α
  | [] => [(k, v)]
  | e :: r => if k < e.1 then (k, v) :: e :: r else e :: sins k v r

/-- The table with a key's value replaced; writing what an unlisted key reads as removes the entry. -/
def sset {α : Type} [DecidableEq α] (d : α) (m : Store α) (k : Nat) (v : α) : Store α :=
  if v = d then sdel m k else sins k v (sdel m k)

/-- A table with one value changed by a function. -/
def supd {α : Type} [DecidableEq α] (d : α) (m : Store α) (k : Nat) (f : α → α) : Store α :=
  sset d m k (f (sget d m k))

/-- Every listed value changed by a function of key and value. -/
def smap {α : Type} [DecidableEq α] (d : α) (m : Store α) (f : Nat → α → α) : Store α :=
  (m.map (fun e => (e.1, f e.1 e.2))).filter (fun e => decide (e.2 ≠ d))

/-- The canonical form: keys strictly rising and no entry equal to `d`. -/
def swf {α : Type} [DecidableEq α] (d : α) : Store α → Bool
  | [] => true
  | [e] => decide (e.2 ≠ d)
  | e :: e' :: r => decide (e.2 ≠ d) && decide (e.1 < e'.1) && swf d (e' :: r)

/-- Several consecutive values. -/
def sgetRun {α : Type} (d : α) (m : Store α) (k n : Nat) : List α :=
  (List.range n).map (fun i => sget d m (k + i))

/-- Several consecutive values written, the first at `k`: the entries below, those of the run that differ from `d`, those above. -/
def ssetRun {α : Type} [DecidableEq α] (d : α) (m : Store α) (k : Nat) (l : List α) : Store α :=
  m.filter (fun e => decide (e.1 < k)) ++
    ((l.zipIdx k).map (fun x => (x.2, x.1))).filter (fun e => decide (e.2 ≠ d)) ++
    m.filter (fun e => decide (k + l.length ≤ e.1))

/-- A run of keys returned to what an unlisted key reads as: all entries with `lo ≤ key < hi` removed. -/
def sclear {α : Type} (m : Store α) (lo hi : Nat) : Store α :=
  m.filter (fun e => !(decide (lo ≤ e.1) && decide (e.1 < hi)))

/-- A little-endian value of bytes (R6). -/
def leNat : Bytes → Nat
  | [] => 0
  | b :: r => b.toNat + 256 * leNat r

/-- `n` little-endian bytes of a value (R6). -/
def leBytes (n v : Nat) : Bytes :=
  (List.range n).map (fun i => BitVec.ofNat 8 (v >>> (8 * i)))

/-- Bits `hi` down to `lo` of a value. -/
def bitsOf (v hi lo : Nat) : Nat := (v >>> lo) % 2 ^ (hi + 1 - lo)

/-- One bit of a value. -/
def bitAt (v i : Nat) : Bool := v.testBit i

/-- A flag as a number. -/
def b2n (b : Bool) : Nat := if b then 1 else 0

/-- Division rounded up. -/
def cdiv (a b : Nat) : Nat := (a + b - 1) / b

/-- A value of `n` bits read as two's complement. -/
def signed (n v : Nat) : Int := if v % 2 ^ n < 2 ^ (n - 1) then (v % 2 ^ n : Nat) else (v % 2 ^ n : Nat) - (2 ^ n : Nat)

end Sys2Proof.Machine
end

