-- ==== Sys2Proof/Machine/Crypto.lean ====
section
/-! DEFINITION. The published algorithms the spec names: CRC-32C, CRC-32 and CRC-64 (R87, R231, R277, R290, R338), SHA-256 and
SHA-384 with HMAC and HKDF (R252, R314), AES-256 with XTS and GCM (R216, R217, R232, R318), ECDSA P-384 (R252). -/

namespace Sys2Proof.Machine

/-! ## Cyclic redundancy checks -/

/-- Eight steps of a reflected CRC register of 32 bits. -/
def crcStep (poly : Nat) : Nat → Nat → Nat
  | 0, c => c
  | n + 1, c => crcStep poly n (if c % 2 = 1 then (c >>> 1) ^^^ poly else c >>> 1)

/-- A reflected 32-bit CRC, initial value and final complement all ones. -/
def crc32With (poly : Nat) (bs : Bytes) : Nat :=
  (bs.foldl (fun c b => crcStep poly 8 (c ^^^ b.toNat)) 0xFFFFFFFF) ^^^ 0xFFFFFFFF

/-- CRC-32C, Castagnoli (R87, R231, R290). -/
def crc32c (bs : Bytes) : Nat := crc32With 0x82F63B78 bs

/-- CRC-32 of IEEE 802.3 (R338). -/
def crc32 (bs : Bytes) : Nat := crc32With 0xEDB88320 bs

/-- Steps of the unreflected 64-bit CRC register. -/
def crc64Step : Nat → Nat → Nat
  | 0, c => c
  | n + 1, c =>
    crc64Step n (if c.testBit 63 then ((c <<< 1) % 2 ^ 64) ^^^ 0x42F0E1EBA9EA3693 else (c <<< 1) % 2 ^ 64)

/-- CRC-64 with the ECMA-182 polynomial, the most significant bit first, continued from a register value (R277). -/
def crc64 (c : BitVec 64) (bs : Bytes) : BitVec 64 :=
  BitVec.ofNat 64 (bs.foldl (fun c b => crc64Step 8 (c ^^^ (b.toNat <<< 56))) c.toNat)

/-! ## Big-endian words -/

/-- A big-endian value. -/
def beNat (bs : Bytes) : Nat := bs.foldl (fun v b => v * 256 + b.toNat) 0

/-- `n` big-endian bytes of a value. -/
def beBytes (n v : Nat) : Bytes := (leBytes n v).reverse

/-- A list cut into runs of `n`, `fuel` of them. -/
def chunks {α : Type} (n : Nat) : Nat → List α → List (List α)
  | 0, _ => []
  | f + 1, l => l.take n :: chunks n f (l.drop n)

/-! ## SHA-2 -/

/-- What distinguishes SHA-256 from SHA-384: word width, rotations, constants, initial value, words of digest. -/
structure Sha where
  w : Nat
  s0 : Nat × Nat × Nat
  s1 : Nat × Nat × Nat
  g0 : Nat × Nat × Nat
  g1 : Nat × Nat × Nat
  k : List Nat
  init : List Nat
  out : Nat

def rotr (w n x : Nat) : Nat := (x >>> n) ||| ((x <<< (w - n)) % 2 ^ w)

/-- The round constants of SHA-256 (FIPS 180-4). -/
def sha256K : List Nat :=
  [0x428A2F98, 0x71374491, 0xB5C0FBCF, 0xE9B5DBA5, 0x3956C25B, 0x59F111F1, 0x923F82A4, 0xAB1C5ED5] ++
  [0xD807AA98, 0x12835B01, 0x243185BE, 0x550C7DC3, 0x72BE5D74, 0x80DEB1FE, 0x9BDC06A7, 0xC19BF174] ++
  [0xE49B69C1, 0xEFBE4786, 0x0FC19DC6, 0x240CA1CC, 0x2DE92C6F, 0x4A7484AA, 0x5CB0A9DC, 0x76F988DA] ++
  [0x983E5152, 0xA831C66D, 0xB00327C8, 0xBF597FC7, 0xC6E00BF3, 0xD5A79147, 0x06CA6351, 0x14292967] ++
  [0x27B70A85, 0x2E1B2138, 0x4D2C6DFC, 0x53380D13, 0x650A7354, 0x766A0ABB, 0x81C2C92E, 0x92722C85] ++
  [0xA2BFE8A1, 0xA81A664B, 0xC24B8B70, 0xC76C51A3, 0xD192E819, 0xD6990624, 0xF40E3585, 0x106AA070] ++
  [0x19A4C116, 0x1E376C08, 0x2748774C, 0x34B0BCB5, 0x391C0CB3, 0x4ED8AA4A, 0x5B9CCA4F, 0x682E6FF3] ++
  [0x748F82EE, 0x78A5636F, 0x84C87814, 0x8CC70208, 0x90BEFFFA, 0xA4506CEB, 0xBEF9A3F7, 0xC67178F2]

/-- The initial hash value of SHA-256. -/
def sha256Init : List Nat :=
  [0x6A09E667, 0xBB67AE85, 0x3C6EF372, 0xA54FF53A, 0x510E527F, 0x9B05688C, 0x1F83D9AB, 0x5BE0CD19]

/-- The round constants of SHA-384 (FIPS 180-4). -/
def sha512K : List Nat :=
  [0x428A2F98D728AE22, 0x7137449123EF65CD, 0xB5C0FBCFEC4D3B2F, 0xE9B5DBA58189DBBC] ++
  [0x3956C25BF348B538, 0x59F111F1B605D019, 0x923F82A4AF194F9B, 0xAB1C5ED5DA6D8118] ++
  [0xD807AA98A3030242, 0x12835B0145706FBE, 0x243185BE4EE4B28C, 0x550C7DC3D5FFB4E2] ++
  [0x72BE5D74F27B896F, 0x80DEB1FE3B1696B1, 0x9BDC06A725C71235, 0xC19BF174CF692694] ++
  [0xE49B69C19EF14AD2, 0xEFBE4786384F25E3, 0x0FC19DC68B8CD5B5, 0x240CA1CC77AC9C65] ++
  [0x2DE92C6F592B0275, 0x4A7484AA6EA6E483, 0x5CB0A9DCBD41FBD4, 0x76F988DA831153B5] ++
  [0x983E5152EE66DFAB, 0xA831C66D2DB43210, 0xB00327C898FB213F, 0xBF597FC7BEEF0EE4] ++
  [0xC6E00BF33DA88FC2, 0xD5A79147930AA725, 0x06CA6351E003826F, 0x142929670A0E6E70] ++
  [0x27B70A8546D22FFC, 0x2E1B21385C26C926, 0x4D2C6DFC5AC42AED, 0x53380D139D95B3DF] ++
  [0x650A73548BAF63DE, 0x766A0ABB3C77B2A8, 0x81C2C92E47EDAEE6, 0x92722C851482353B] ++
  [0xA2BFE8A14CF10364, 0xA81A664BBC423001, 0xC24B8B70D0F89791, 0xC76C51A30654BE30] ++
  [0xD192E819D6EF5218, 0xD69906245565A910, 0xF40E35855771202A, 0x106AA07032BBD1B8] ++
  [0x19A4C116B8D2D0C8, 0x1E376C085141AB53, 0x2748774CDF8EEB99, 0x34B0BCB5E19B48A8] ++
  [0x391C0CB3C5C95A63, 0x4ED8AA4AE3418ACB, 0x5B9CCA4F7763E373, 0x682E6FF3D6B2B8A3] ++
  [0x748F82EE5DEFB2FC, 0x78A5636F43172F60, 0x84C87814A1F0AB72, 0x8CC702081A6439EC] ++
  [0x90BEFFFA23631E28, 0xA4506CEBDE82BDE9, 0xBEF9A3F7B2C67915, 0xC67178F2E372532B] ++
  [0xCA273ECEEA26619C, 0xD186B8C721C0C207, 0xEADA7DD6CDE0EB1E, 0xF57D4F7FEE6ED178] ++
  [0x06F067AA72176FBA, 0x0A637DC5A2C898A6, 0x113F9804BEF90DAE, 0x1B710B35131C471B] ++
  [0x28DB77F523047D84, 0x32CAAB7B40C72493, 0x3C9EBE0A15C9BEBC, 0x431D67C49C100D4C] ++
  [0x4CC5D4BECB3E42B6, 0x597F299CFC657E2A, 0x5FCB6FAB3AD6FAEC, 0x6C44198C4A475817]

/-- The initial hash value of SHA-384. -/
def sha384Init : List Nat :=
  [0xCBBB9D5DC1059ED8, 0x629A292A367CD507, 0x9159015A3070DD17, 0x152FECD8F70E5939] ++
  [0x67332667FFC00B31, 0x8EB44A8768581511, 0xDB0C2E0D64F98FA7, 0x47B5481DBEFA4FA4]

def sha256P : Sha := ⟨32, (2, 13, 22), (6, 11, 25), (7, 18, 3), (17, 19, 10), sha256K, sha256Init, 8⟩
def sha384P : Sha := ⟨64, (28, 34, 39), (14, 18, 41), (1, 8, 7), (19, 61, 6), sha512K, sha384Init, 6⟩

/-- Σ of the compression function. -/
def shaBig (w : Nat) (r : Nat × Nat × Nat) (x : Nat) : Nat := rotr w r.1 x ^^^ rotr w r.2.1 x ^^^ rotr w r.2.2 x

/-- σ of the message schedule; its third part is a shift. -/
def shaSmall (w : Nat) (r : Nat × Nat × Nat) (x : Nat) : Nat := rotr w r.1 x ^^^ rotr w r.2.1 x ^^^ (x >>> r.2.2)

/-- The rounds over the constants left; the window holds the next 16 schedule words. -/
def shaRounds (p : Sha) : List Nat → List Nat → List Nat → List Nat
  | k :: ks, win, [a, b, c, d, e, f, g, h] =>
    let wt := win.headD 0
    let m := 2 ^ p.w
    let t1 := h + shaBig p.w p.s1 e + ((e &&& f) ^^^ ((m - 1 - e) &&& g)) + k + wt
    let t2 := shaBig p.w p.s0 a + ((a &&& b) ^^^ (a &&& c) ^^^ (b &&& c))
    let nw := (shaSmall p.w p.g1 (win.getD 14 0) + win.getD 9 0 + shaSmall p.w p.g0 (win.getD 1 0) + wt) % m
    shaRounds p ks (win.tail ++ [nw]) [(t1 + t2) % m, a, b, c, (d + t1) % m, e, f, g]
  | _, _, st => st

/-- A SHA-2 digest. -/
def shaDigest (p : Sha) (bs : Bytes) : Bytes :=
  let blk := 2 * p.w
  let lenB := p.w / 4
  let z := (blk - (bs.length + 1 + lenB) % blk) % blk
  let padded := bs ++ [0x80] ++ List.replicate z 0 ++ beBytes lenB (8 * bs.length)
  let blocks := chunks blk (padded.length / blk) padded
  let h := blocks.foldl
    (fun st b =>
      let win := (chunks (p.w / 8) 16 b).map beNat
      (st.zip (shaRounds p p.k win st)).map (fun x => (x.1 + x.2) % 2 ^ p.w)) p.init
  (h.take p.out).flatMap (beBytes (p.w / 8))

def sha256 (bs : Bytes) : Bytes := shaDigest sha256P bs
def sha384 (bs : Bytes) : Bytes := shaDigest sha384P bs

/-- HMAC with SHA-384 (RFC 2104). -/
def hmac384 (key msg : Bytes) : Bytes :=
  let k := if key.length > 128 then sha384 key else key
  let k := k ++ List.replicate (128 - k.length) 0
  sha384 (k.map (· ^^^ 0x5C) ++ sha384 (k.map (· ^^^ 0x36) ++ msg))

/-- The blocks of HKDF's expansion. -/
def hkdfBlocks (prk info : Bytes) : Nat → Nat → Bytes → Bytes
  | 0, _, _ => []
  | n + 1, i, prev =>
    let t := hmac384 prk (prev ++ info ++ [BitVec.ofNat 8 i])
    t ++ hkdfBlocks prk info n (i + 1) t

/-- HKDF with SHA-384 (RFC 5869): salt, input keying material, info, length. -/
def hkdf384 (salt ikm info : Bytes) (len : Nat) : Bytes :=
  (hkdfBlocks (hmac384 salt ikm) info (cdiv len 48) 1 []).take len

/-! ## AES-256 -/

/-- Multiplication by x in the field of AES. -/
def aesX (a : Nat) : Nat := if a < 128 then 2 * a else (2 * a % 256) ^^^ 0x1B

/-- Multiplication in the field of AES; the list holds the multiplier's bits, lowest first. -/
def aesMul (a b : Nat) : Nat :=
  ((List.range 8).foldl (fun (s : Nat × Nat) i => (if b.testBit i then s.1 ^^^ s.2 else s.1, aesX s.2)) (0, a)).1

/-- The inverse, a^254. -/
def aesInv (a : Nat) : Nat :=
  (List.range 6).foldl (fun r _ => aesMul (aesMul r r) a) a |> fun r => aesMul r r

/-- The S-box's value (FIPS 197, 5.1.1). -/
def aesSub (a : Nat) : Nat :=
  let b := aesInv a
  let rot (n : Nat) : Nat := ((b <<< n) ||| (b >>> (8 - n))) % 256
  b ^^^ rot 1 ^^^ rot 2 ^^^ rot 3 ^^^ rot 4 ^^^ 0x63

/-- The S-box. -/
def aesBox : List Nat := (List.range 256).map aesSub

/-- The inverse S-box. -/
def aesUnbox : List Nat := (List.range 256).map (fun v => aesBox.idxOf v)

/-- Words of the expanded key, the newest first, from `n` still to make and the number of the next. -/
def aesExpand : Nat → Nat → Nat → List (List Nat) → List (List Nat)
  | 0, _, _, ws => ws
  | n + 1, i, rcon, ws =>
    let t := ws.headD []
    let t1 := if i % 8 = 0 then
        (match t.map (fun v => aesBox.getD v 0) with
          | [a, b, c, d] => [b ^^^ rcon, c, d, a]
          | l => l)
      else if i % 8 = 4 then t.map (fun v => aesBox.getD v 0) else t
    let w := (t1.zip (ws.getD 7 [])).map (fun x => x.1 ^^^ x.2)
    aesExpand n (i + 1) (if i % 8 = 0 then aesX rcon else rcon) (w :: ws)

/-- The fifteen round keys of a 32-byte key, 16 bytes each. -/
def aesKeys (key : Bytes) : List (List Nat) :=
  let ws := (aesExpand 52 8 1 ((chunks 4 8 (key.map (·.toNat))).reverse)).reverse
  (chunks 4 15 ws).map (·.flatten)

def xorList (a b : List Nat) : List Nat := (a.zip b).map (fun x => x.1 ^^^ x.2)

/-- ShiftRows: byte i of the result is byte 5i mod 16; the inverse takes byte 13i mod 16. -/
def aesShift (k : Nat) (s : List Nat) : List Nat := (List.range 16).map (fun i => s.getD (k * i % 16) 0)

/-- MixColumns with the four coefficients of its circulant. -/
def aesMix (c : List Nat) (s : List Nat) : List Nat :=
  (List.range 16).map (fun i =>
    (List.range 4).foldl (fun v j => v ^^^ aesMul (c.getD j 0) (s.getD (i / 4 * 4 + (i + j) % 4) 0)) 0)

/-- The rounds of encryption after the first key addition. -/
def aesEncRounds : List (List Nat) → List Nat → List Nat
  | [], s => s
  | [k], s => xorList (aesShift 5 (s.map (fun v => aesBox.getD v 0))) k
  | k :: ks, s => aesEncRounds ks (xorList (aesMix [2, 3, 1, 1] (aesShift 5 (s.map (fun v => aesBox.getD v 0)))) k)

/-- One block encrypted under expanded keys. -/
def aesEnc (ks : List (List Nat)) (s : List Nat) : List Nat := aesEncRounds ks.tail (xorList s (ks.headD []))

/-- The rounds of decryption, the keys in reverse order after the last. -/
def aesDecRounds : List (List Nat) → List Nat → List Nat
  | [], s => s
  | [k], s => xorList ((aesShift 13 s).map (fun v => aesUnbox.getD v 0)) k
  | k :: ks, s => aesDecRounds ks (aesMix [14, 11, 13, 9] (xorList ((aesShift 13 s).map (fun v => aesUnbox.getD v 0)) k))

/-- One block decrypted under expanded keys. -/
def aesDec (ks : List (List Nat)) (s : List Nat) : List Nat :=
  let r := ks.reverse
  aesDecRounds r.tail (xorList s (r.headD []))

def toNats (bs : Bytes) : List Nat := bs.map (·.toNat)
def toBytes (l : List Nat) : Bytes := l.map (BitVec.ofNat 8)

/-- The tweak times α in the field of XTS, the lowest byte first (IEEE 1619). -/
def xtsAlpha (t : Nat) : Nat := if t.testBit 127 then ((t <<< 1) % 2 ^ 128) ^^^ 0x87 else t <<< 1

/-- The blocks of an XTS data unit, each with its tweak, passed through a block function. -/
def xtsBlocks (f : List Nat → List Nat) : List (List Nat) → Nat → List Nat
  | [], _ => []
  | b :: r, t =>
    let tb := toNats (leBytes 16 t)
    xorList (f (xorList b tb)) tb ++ xtsBlocks f r (xtsAlpha t)

/-- AES-256-XTS of whole blocks: a 64-byte key pair, the tweak's value, the number of the first block. -/
def xts (enc : Bool) (keys : Bytes) (tweak first : Nat) (data : Bytes) : Bytes :=
  let k1 := aesKeys (keys.take 32)
  let t0 := leNat (toBytes (aesEnc (aesKeys (keys.drop 32)) (toNats (leBytes 16 tweak))))
  let t := (List.range first).foldl (fun t _ => xtsAlpha t) t0
  toBytes (xtsBlocks (if enc then aesEnc k1 else aesDec k1) (chunks 16 (data.length / 16) (toNats data)) t)

/-! ## GCM -/

/-- Multiplication in the field of GCM, blocks as big-endian numbers (SP 800-38D, 6.3). -/
def gcmMul (x y : Nat) : Nat :=
  ((List.range 128).foldl
    (fun (s : Nat × Nat) i =>
      (if x.testBit (127 - i) then s.1 ^^^ s.2 else s.1,
       if s.2 % 2 = 1 then (s.2 >>> 1) ^^^ (0xE1 <<< 120) else s.2 >>> 1)) (0, y)).1

/-- Bytes padded with zeros to whole blocks, as big-endian numbers. -/
def gcmBlocks (bs : Bytes) : List Nat :=
  let n := cdiv bs.length 16
  (chunks 16 n (bs ++ List.replicate (16 * n - bs.length) 0)).map beNat

/-- The counter stream over data, the counter's first value in the last 32 bits of the block. -/
def gcmCtr (ks : List (List Nat)) (iv : Bytes) (data : Bytes) : Bytes :=
  let n := cdiv data.length 16
  let stream := (List.range n).flatMap (fun i => toBytes (aesEnc ks (toNats (iv ++ beBytes 4 (i + 2)))))
  (data.zip stream).map (fun x => x.1 ^^^ x.2)

/-- The 16-byte tag over additional data and ciphertext under a 96-bit IV. -/
def gcmTag (ks : List (List Nat)) (iv aad cipher : Bytes) : Bytes :=
  let h := beNat (toBytes (aesEnc ks (List.replicate 16 0)))
  let blocks := gcmBlocks aad ++ gcmBlocks cipher ++ [(8 * aad.length) * 2 ^ 64 + 8 * cipher.length]
  let g := blocks.foldl (fun y b => gcmMul (y ^^^ b) h) 0
  let e := toBytes (aesEnc ks (toNats (iv ++ beBytes 4 1)))
  ((beBytes 16 g).zip e).map (fun x => x.1 ^^^ x.2)

/-! ## P-384 -/

/-- The prime, the order, the coefficient b and the base point of P-384 (FIPS 186-4, D.1.2.4). -/
def p384P : Nat := 2 ^ 384 - 2 ^ 128 - 2 ^ 96 + 2 ^ 32 - 1
def p384N : Nat :=
  0xFFFFFFFFFFFFFFFFFFFFFFFFFFFFFFFFFFFFFFFFFFFFFFFFC7634D81F4372DDF581A0DB248B0A77AECEC196ACCC52973
def p384B : Nat :=
  0xB3312FA7E23EE7E4988E056BE3F82D19181D9C6EFE8141120314088F5013875AC656398D8A2ED19D2A85C8EDD3EC2AEF
def p384Gx : Nat :=
  0xAA87CA22BE8B05378EB1C71EF320AD746E1D3B628BA79B9859F741E082542A385502F25DBF55296C3A545E3872760AB7
def p384Gy : Nat :=
  0x3617DE4A96262C6F5D9E98BF9292DC29F8F41DBD289A147CE9DA3113B5F0B8C00A60B1CE1D7E819D7A431D7C90EA0E5F

/-- b^e mod m over the `n` lowest bits of e, the highest first. -/
def modPow (m b e : Nat) : Nat → Nat
  | 0 => 1
  | n + 1 =>
    -- bits n, n+1, … of e have been taken into the recursion's result
    let r := modPow m b (e >>> 1) n
    if e % 2 = 1 then r * r % m * b % m else r * r % m

/-- The inverse modulo a prime of 384 bits. -/
def modInv (m a : Nat) : Nat := modPow m a (m - 2) 384

/-- A point of the curve; none at infinity. -/
abbrev P384Point := Option (Nat × Nat)

/-- The point lies on the curve y² = x³ − 3x + b. -/
def p384OnCurve (x y : Nat) : Bool :=
  decide (x < p384P) && decide (y < p384P) &&
    y * y % p384P == (x * x % p384P * x + (p384P - 3) * x + p384B) % p384P

/-- The sum of two points. -/
def p384Add : P384Point → P384Point → P384Point
  | none, q => q
  | p, none => p
  | some (x1, y1), some (x2, y2) =>
    let m := p384P
    if x1 = x2 ∧ (y1 + y2) % m = 0 then none
    else
      let l := if x1 = x2 then (3 * x1 * x1 + (m - 3)) * modInv m (2 * y1 % m) % m
               else (y2 + m - y1) * modInv m ((x2 + m - x1) % m) % m
      let x3 := (l * l + (m - x1) + (m - x2)) % m
      some (x3, (l * (x1 + m - x3) + (m - y1)) % m)

/-- k times a point, over the `n` lowest bits of k. -/
def p384Mul (q : P384Point) (k : Nat) : Nat → P384Point
  | 0 => none
  | n + 1 =>
    let r := p384Mul q (k >>> 1) n
    let d := p384Add r r
    if k % 2 = 1 then p384Add d q else d

/-- ECDSA P-384 verification: the uncompressed public key of 97 bytes, r and s as 48 big-endian bytes each, the SHA-384 of the
message. -/
def ecdsaVerify (pub sig digest : Bytes) : Bool :=
  let x := beNat ((pub.drop 1).take 48)
  let y := beNat ((pub.drop 49).take 48)
  let r := beNat (sig.take 48)
  let s := beNat ((sig.drop 48).take 48)
  let w := modInv p384N s
  let u1 := beNat digest * w % p384N
  let u2 := r * w % p384N
  pub.length == 97 && pub.headD 0 == 4 && sig.length == 96 && p384OnCurve x y &&
  decide (0 < r) && decide (r < p384N) && decide (0 < s) && decide (s < p384N) &&
  (match p384Add (p384Mul (some (p384Gx, p384Gy)) u1 384) (p384Mul (some (x, y)) u2 384) with
    | none => false
    | some (vx, _) => vx % p384N == r)

end Sys2Proof.Machine
end

