-- ==== Sys2Proof/Machine/State.lean ====
section
/-! DEFINITION. The state of the AT96 as plain data: every register, memory, queue, counter, mode and pin the spec gives it,
the reasons a step can stop, and the machine right after reset. -/

namespace Sys2Proof.Machine

/-- Why the model stops. -/
inductive Fault where
  /-- Raised by a BAR0 access whose offset lies at or beyond 64 MiB: no such address exists (R328, R332). Safe. -/
  | outsideBar0
deriving DecidableEq, Repr

/-- Why a command has no meaning. -/
inductive Refusal where
  /-- Raised by an arm of `exec` that has no meaning yet, with the row's mnemonic. Safe. -/
  | notModelled (mnemonic : String)
deriving DecidableEq, Repr

/-! ## What the device sends -/

/-- What goes out of the device: the model's own record of it (notes/assumptions/5.md). -/
inductive Output where
  /-- an MSI-X message (R333) -/
  | msix (vector : Nat)
  /-- a completion record: tenant, queue, ring entry, four words (R135) -/
  | record (t q entry : Nat) (w0 w1 w2 w3 : BitVec 64)
  /-- the value of a register read, by offset (R6, R8) -/
  | regRead (off : Nat) (val : BitVec 64)
  /-- a BAR2 completion with data, one with EP set, Unsupported Request, Completer Abort (R329, R335, R337) -/
  | cplData (data : Bytes)
  | cplPoison (data : Bytes)
  | cplUnsupported
  | cplAbort
  /-- a TLP reported through AER (R331) -/
  | aer
  /-- the characters of a safety-link slot (R290, R345) -/
  | frame (lane : Lane) (chars : List LineChar)
  /-- the 256 bytes of a peer-link flit (R338) -/
  | flit (image : Bytes)
  /-- an SMBus answer, or no acknowledge (R348) -/
  | smb (data : Bytes)
  | smbNack
  /-- an SPDM response: its request's name and payload, or ERROR; ERROR with UnsupportedRequest (R311) -/
  | spdm (name : String) (payload : Bytes)
  | spdmError (name : String)
  | spdmUnsupported (name : String)
  /-- a key operation's response: status byte and data (R315) -/
  | keyResp (status : BitVec 8) (data : Bytes)
  /-- words answered on the management port, or the refusal of a connection (R321, R322) -/
  | mgt (words : List Reg32)
  | mgtRefused
  /-- the certificate that the management port presents, and its signature (R321) -/
  | mgtCert (cert sig : Bytes)
  /-- the test port's shifted-out word, or bits (R350) -/
  | jtag (word : Reg32)
  | jtagBits (bits : List Bool)
  /-- what the output balls of the boundary register carry under a test instruction; none: released (R350) -/
  | balls (l : List (Option Bool))
  /-- a TLP of the host port that carries ECRC (R331) -/
  | ecrc (tlp : Output)
deriving DecidableEq, Repr

/-! ## Numbers -/

/-- An expanded operand in a platform word: an exact dyadic number m × 2^e with its sign, an infinity, a NaN, or poison
(R45, R60, R65). -/
inductive Elem where
  | fin (neg : Bool) (m : Nat) (e : Int)
  | inf (neg : Bool)
  | nan
  | poison
deriving DecidableEq, Repr

/-- A 32-bit element with its poison bit: an accumulator element or a vector lane (R66, R96). -/
structure Cell32 where
  bits : Reg32
  poison : Bool
deriving DecidableEq, Repr

/-- A vector register's 64 lanes (R96). -/
abbrev Lanes := List Cell32

/-! ## Device-wide registers and pins -/

/-- The device states of R362. -/
inductive DevState where
  | off | reset | boot | verify | train | selftest | awaitHost | ready | degraded | safeHold | rejected
deriving DecidableEq, Repr

/-- What fuses fix at manufacture (R1, R86, R192, R227, R310, R324). -/
structure Fuses where
  stepMajor : BitVec 4
  stepMinor : BitVec 4
  grade : BitVec 4
  depot : BitVec 4
  /-- siding spares mapped at test, by 8 × array + MiB of the siding; concourse spares, by bank (R223) -/
  sidSpareTest : Store (BitVec 8)
  conSpareTest : Store (BitVec 8)
  /-- the identity key pair and the serial number of the device certificate -/
  idKey : Bytes
  idPub : Bytes
  serial : BitVec 64
  dseed : Bytes
  minSecVersion : Nat
  /-- fused express setpoint of VDD_A, 5 mV units (R354) -/
  vddaExpress : BitVec 8
deriving DecidableEq, Repr

/-- GLB registers, pins, clocks and rails (chapters 0, 11, 13). -/
structure Glb where
  devTime : Nat
  st : DevState
  prev : DevState
  cause : BitVec 8
  /-- time of the first unlock word of GLB_RESET, while the second is awaited (R364) -/
  resetKey : Option Nat
  temp : BitVec 16
  alertSeen : Bool
  throttle : Bool
  throttleSeen : Bool
  vdda : BitVec 8
  vddaFixed : Bool
  drvMajor : BitVec 8
  drvMinor : BitVec 8
  drvReject : Bool
  verOk : Bool
  heartbeat : Reg32
  /-- time of the last heartbeat write (R307) -/
  hbTime : Nat
  attached : Bool
  lost : Bool
  lostSeen : Bool
  losses : BitVec 16
  /-- an authenticated session was established after the version was accepted (R306) -/
  sessionOk : Bool
  fwRestarts : BitVec 16
  fwHeld : BitVec 8
  fwLast : BitVec 8
  /-- latched high halves by their offset (R6); none before the low half has been read -/
  latches : Store (Option Reg32)
  porN : Bool
  perstN : Bool
  safeHoldN : Bool
  thermN : Bool
  smbAlertN : Bool
  peerPrsntN : Bool
  vddAux : Bool
  railsOk : Bool
  pllLocked : Bool
  /-- the PCIe port logic is out of reset (R360) -/
  portUp : Bool
  d3hot : Bool
  /-- a device RESET is held until the die has cooled (R368) or the rails are back (R367) -/
  thermHeld : Bool
  railHeld : Bool
  /-- LOG_RESET has still to be written (R377) -/
  logResetDue : Bool
  scanUnlocked : Bool
  /-- the instruction of the test port, by its row of R350: 0 BYPASS to 5 HIGHZ -/
  tapInstr : Fin 6
  /-- MSI-X table: its address and data words by word number, its mask bits, the pending-bit array (R332, R333) -/
  msixTable : Store Reg32
  msixMask : BitVec 64
  msixPba : BitVec 64
  /-- the function's configuration space, as far as the host sets what acts here (R328, R331) -/
  pcie : PcieCfg
  /-- strap pins: the management port's interface, high for 1000BASE-X, and the two low bits of the SMBus address (R347, R348) -/
  mgtMode : Bool
  smbAddr : BitVec 2
  /-- the test port's boundary register, in the order of `State.cells`, and its bypass bit (R350) -/
  scanCells : List Bool
  bypassBit : Bool
deriving DecidableEq, Repr

/-! ## Fault records -/

/-- A log entry (R374). -/
structure LogEntry where
  time : BitVec 64
  seq : Reg32
  code : BitVec 16
  flags : BitVec 8
  rep : BitVec 8
  unit : BitVec 16
  arg : BitVec 16
  addr : BitVec 64
deriving DecidableEq, Repr

/-- The FRC block (R378). -/
structure Frc where
  /-- entries by number modulo 1,024 -/
  log : Store LogEntry
  /-- how many are held, at most 1,024 -/
  held : Nat
  logWr : Reg32
  summary : BitVec 10
  firstValid : Bool
  firstTenant : BitVec 5
  firstCode : BitVec 16
  starve : BitVec 64
  ceStall : Reg32
  poison : Reg32
  /-- the reference cycle of the latest fault, and the summary bits that its faults set (R11) -/
  setTime : Nat
  setBits : BitVec 10
deriving DecidableEq, Repr

/-! ## Tenants and queues -/

/-- TCX_STATE.STATE (R137). -/
inductive TenState where
  | free | stopped | running | paused | stopping | resetting
deriving DecidableEq, Repr

/-- DBL_QSTATE.STATE (R136). -/
inductive QState where
  | disabled | idle | active | waiting | paused | faulted | halted
deriving DecidableEq, Repr

/-- An instruction presented to its planner: index of its first slot, slots it occupies, its words (R120, R124). -/
structure Presented where
  idx : Reg32
  slots : Nat
  w0 : BitVec 64
  w1 : BitVec 64
deriving DecidableEq, Repr

/-- An instruction that has issued or completed and whose record is not yet written off (R124, R126, R135). -/
structure Issued where
  idx : Reg32
  opcode : BitVec 8
  cpl : Bool
  irq : Bool
  /-- none while incomplete -/
  status : Option (BitVec 16)
  value : BitVec 64
  detail : BitVec 64
deriving DecidableEq, Repr

/-- A batch and the weight copy it references (R128). -/
structure Batch where
  copy : Option (Fin 4)
  open_ : Bool
  /-- DISPATCHes of the batch not yet complete -/
  pendingDispatches : Nat
deriving DecidableEq, Repr

/-- The instruction a queue faulted or halted at (R136). -/
structure Stuck where
  idx : Reg32
  slots : Nat
  issued : Bool
deriving DecidableEq, Repr

/-- A command queue (R132 to R136). -/
structure Queue where
  /-- DISABLED, FAULTED, HALTED, or IDLE for a queue that runs; DBL_QSTATE tells ACTIVE, WAITING and PAUSED from the rest -/
  st : QState
  overrun : Bool
  cplFull : Bool
  fcode : BitVec 16
  qcmd : BitVec 4
  tail : Reg32
  head : Reg32
  cplHead : Reg32
  cplTail : Reg32
  base : BitVec 64
  cpl : BitVec 64
  enable : Bool
  vector : BitVec 6
  size : BitVec 4
  csize : BitVec 4
  issued : List Issued
  /-- the instruction presented that has still to issue -/
  waiting : Option Presented
  /-- the instruction RETRY presents again after it had issued (R136) -/
  retry : Option Presented
  /-- the instruction at DBL_HEAD is extended and the tail does not cover its second word (R133) -/
  short : Bool
  batch : Option Batch
  /-- closed batches whose DISPATCHes are not all complete -/
  closing : List Batch
  stuck : Option Stuck
deriving DecidableEq, Repr

/-- A memory range of a binding (R139). -/
structure MemRange where
  gbase : BitVec 27
  tier : BitVec 2
  granules : BitVec 16
deriving DecidableEq, Repr

/-- A dynamic scale slot (R56, R57). -/
structure ScaleSlot where
  windowShadow : BitVec 5
  window : BitVec 5
  initExp : BitVec 8
  /-- recorded amaxes, FP32, the newest first, at most 16 -/
  hist : List Reg32
deriving DecidableEq, Repr

/-- The states of a weight copy (R254). -/
inductive CopyState where
  | empty | loading | loaded | armed | failed | releasing
deriving DecidableEq, Repr

/-- A shard of a manifest (R252), with what is known of it in memory (R255, R259). -/
structure Shard where
  depotAddr : Nat
  length : Nat
  kind : BitVec 8
  offset : Nat
  digest : Bytes
  accepted : Bool
  poisoned : Bool
  /-- a reload runs, with the secrets by key slot that it took (R259, R317) -/
  reload : Option (Store Bytes)
deriving DecidableEq, Repr

/-- A weight copy (R254). -/
structure Copy where
  st : CopyState
  base : Nat
  bytes : Nat
  /-- the manifest's SHA-256 (R252) -/
  digest : Bytes
  express : Bool
  shards : List Shard
  kernels : List KernelEntry
  /-- the initial scales that the package gives its scale slots (R57) -/
  scales : List (BitVec 8)
  /-- the LOADW or RELEASEW that has still to complete: queue and index -/
  waiter : Option (Nat × Reg32)
deriving DecidableEq, Repr

/-- An arrival at a barrier: array, fingerprint and POISON flag passed to the signal box, whether it waits (R113, R277). -/
structure Arrival where
  ary : Nat
  /-- the number of participants that it names -/
  n : Nat
  fp : BitVec 64
  poison : Bool
  nowait : Bool
  /-- the array's unheld cycle of its registration -/
  cyc : Nat
deriving DecidableEq, Repr

/-- A tenant barrier (R113). -/
structure Barrier where
  /-- the arrivals of the current round, and of the next once the current is full -/
  arrivals : List Arrival
  /-- the N-th arrival has registered and the release is due -/
  full : Bool
deriving DecidableEq, Repr

/-- A REBIND or SCRUB in progress (R141, R145): the queue and index of its instruction, its words, whether accepted. -/
structure RebindJob where
  q : Nat
  idx : Reg32
  /-- DISPATCHes issued before it have smaller numbers -/
  mark : Nat
  isScrub : Bool
  kind : Nat
  now : Bool
  fromT : Option Ten
  toT : Option Ten
  item : Nat
  w1 : BitVec 64
  accepted : Bool
  acceptTime : Nat
deriving DecidableEq, Repr

/-- A MIGRATE or PREFETCH in progress: it waits for its granule moves, or for a copy from a model address to a partition offset of
so many bytes (R207, R208). -/
structure MigrateJob where
  q : Nat
  idx : Reg32
  copy : Option (Nat × Nat × Nat)
deriving DecidableEq, Repr

/-- A tiling chosen by R158, with the counts of tiles, K-steps and tiles of a unit that it divides. -/
structure Tiling where
  am : Nat
  an : Nat
  m0 : Nat
  n0 : Nat
  g : Nat
  ord0 : Nat
  overlap : Bool
  liveAcc : Nat
  mb : Nat
  nb : Nat
  kb : Nat
  mb2 : Nat
  nb2 : Nat
  k2 : Nat
  ord1 : Nat
  ord2 : Nat
  tm : Nat
  tn : Nat
  ks : Nat
  u : Nat
  /-- bytes per K-step of a row of A and of B -/
  ea : Nat
  eb : Nat
deriving DecidableEq, Repr

/-- A stored plan: its key, the tiling, and the images without presets, with the bundle fields that R160 patches (R149, R150,
R162). -/
structure PlanEntry where
  key : List Nat
  tiling : Option Tiling
  tiles : List TileImage
deriving DecidableEq, Repr

/-- A sequence of a ragged batch in its place: its number in the length list, row, first position, segment, length (R161). -/
structure Place where
  item : Nat
  row : Nat
  start : Nat
  seg : Nat
  len : Nat
deriving DecidableEq, Repr

/-- A tenant context (TCX). -/
structure Tenant where
  admin : Bool
  cls : BitVec 2
  st : TenState
  mkSlot : Option (Fin 32)
  whyRebind : Bool
  whyHost : Bool
  whyFw : Bool
  planner : BitVec 3
  movedAt : Nat
  cfgWrBusy : Bool
  bindConflict : Bool
  startRefused : Bool
  cfgOff : BitVec 15
  cmd : BitVec 4
  starve : BitVec 64
  pcHit : Reg32
  pcMiss : Reg32
  dseq : Reg32
  bindAry : BitVec 64
  bindAtp : BitVec 16
  conBase : BitVec 8
  conSize : BitVec 9
  bindKey : BitVec 32
  ranges : Store MemRange
  seedShadow : BitVec 64
  seed : BitVec 64
  res : BitVec 64
  scales : Store ScaleSlot
  events : Store Reg32
  queues : Store Queue
  copies : Store Copy
  points : Option (Fin 4)
  barriers : Store Barrier
  /-- resident plans by slot (R150) -/
  resident : Store (Option PlanEntry)
  /-- the queue that comes first when the tenant is served next (R147) -/
  turn : Nat
  rebind : Option RebindJob
  migrates : List MigrateJob
deriving DecidableEq, Repr

/-- A DISPATCH that has issued and is not complete (R125, R129 to R131). -/
structure Dispatch where
  id : Nat
  tenant : Nat
  q : Nat
  idx : Reg32
  cls : BitVec 2
  seed : BitVec 64
  dseq : Reg32
  kernel : BitVec 16
  copy : Option (Fin 4)
  arrays : BitVec 64
  tiling : Option Tiling
  /-- the images of a matrix kernel by array, patched and sealed (R160) -/
  images : Store Bytes
  /-- the packing of a ragged kernel (R161) -/
  packing : List Place
  started : Option Nat
  imagesLeft : List Nat
  legsLeft : Nat
  /-- level-1 descriptors of the tiling's blocks still due, by array, those of level 2, and the others (R153) -/
  blocks1 : Store Nat
  blocks2 : Nat
  descsLeft : Nat
  /-- the first fault and the unit it names -/
  fault : Option (BitVec 16 × BitVec 64)
  /-- a fault other than consumed poison has come: the rest is discarded (R131) -/
  discard : Bool
  /-- scale exponents fixed at the start: key 2 × slot for E4M3, 2 × slot + 1 for E5M2 (R57) -/
  scales : Store Int
  /-- windows of the scale slots in force at its issue (R57, R130) -/
  windows : Store (BitVec 5)
  /-- largest finite magnitude seen by slot, FP32 (R56) -/
  amax : Store Reg32
  /-- model ranges that its descriptors read (R259) -/
  reads : List (Nat × Nat)
  /-- keys and values that its kernel writes (R185) -/
  kvWrites : List KvWrite
  /-- its kernel declares peer traffic (R340) -/
  peer : Bool
  /-- it has pass legs; it reaches model memory by legs, descriptors or key-value writes (R141) -/
  usesLegs : Bool
  usesMem : Bool
deriving DecidableEq, Repr

/-! ## Arrays -/

/-- ARY_STATUS.STATE (R86). -/
inductive AryState where
  | idle | bound | loaded | run | hold | paused | scrub | fault
deriving DecidableEq, Repr

/-- An image slot's state (R119), with the check in progress. -/
inductive SlotState where
  | empty | checking | ready | running | rejected
deriving DecidableEq, Repr

/-- An image slot of the bundle store (R87, R88). -/
structure ImageSlot where
  st : SlotState
  img : Bytes
  disp : Option Nat
  /-- order of submission on this array (R125) -/
  order : Nat
deriving DecidableEq, Repr

/-- A K-step slot's tag: format and Q mark, or none (R100). -/
structure Tag where
  fmt : BitVec 4
  qm : Bool
deriving DecidableEq, Repr

/-- One row of a K-step slot of a platform buffer: 32 expanded elements and the block exponent of the exponent lane (R60). -/
structure PlatRow where
  elems : List Elem
  exp : Int
deriving DecidableEq, Repr

/-- An LDP in flight (R99). -/
structure LdpOp where
  start : Nat
  side : Nat
  buf : Nat
  pstep : Nat
  nk : Nat
  fmt : BitVec 4
  qm : Bool
  exp : Bool
  rows : Nat
  klast : Nat
  ebase : Nat
  sbase : Nat
  estride : Nat
  sstride : Nat
  kpos : Nat
  /-- granule addresses in reading order, four an A-cycle -/
  grans : List Nat
  /-- for each in-extent row, how many granules have been read when its last one has -/
  rowEnd : List Nat
  /-- granules read so far: address and 32 bytes, each with its poison mark -/
  got : List (Nat × List (Byte × Bool))
deriving DecidableEq, Repr

/-- A K-step of an MMA or MMAZ in flight (R105). -/
structure KstepOp where
  start : Nat
  p : Nat
  tile : Nat
  zero : Bool
  int : Bool
  afmt : BitVec 4
  bfmt : BitVec 4
  aq : Bool
  bq : Bool
  abuf : Nat
  bbuf : Nat
  aslot : Nat
  bslot : Nat
  /-- rows as the grid has taken them, once the step has begun -/
  a : Option (Store PlatRow)
  b : Option (Store PlatRow)
  /-- the whole A slot, or B slot, reads as poisoned (R106) -/
  badA : Bool
  badB : Bool
  /-- words that fail parity when the grid reads them (R62) -/
  parity : List PlatAddr
  /-- elements of the tile found uncorrectable when the K-step adds to them (R83) -/
  ue : List Nat
deriving DecidableEq, Repr

/-- A chain stage: operation and argument (R75). -/
structure Stage where
  op : BitVec 4
  arg : BitVec 12
deriving DecidableEq, Repr

/-- A drain row on its way to the siding: bytes with their poison marks, and the cycle it is written. -/
structure DrainRow where
  due : Nat
  /-- runs of bytes with their marks, each with the address of its first -/
  writes : List (Nat × List (Byte × Bool))
  markers : Nat
deriving DecidableEq, Repr

/-- A DRAIN in flight (R77, R109). -/
structure DrainOp where
  start : Nat
  tile : Nat
  stages : List Stage
  ofmt : BitVec 4
  sat : Bool
  sr : Bool
  ds : Option (Fin 16)
  ebase : Nat
  sbase : Nat
  estride : Nat
  sstride : Nat
  rows : Nat
  cols : Nat
  /-- vector registers read at issue, by register number (R77) -/
  vecs : Store Lanes
  /-- residual base addresses by stage (R75, R93) -/
  resid : Store Nat
  /-- register lanes being updated by RMSACC and ROWMAX: key register × 64 + lane -/
  acc : Store Cell32
  /-- columns that a NaN reached, for an INT8 output (R54) -/
  nanCols : List Nat
  out : List DrainRow
  disp : Option Nat
  scaleExp : Int
  /-- the scale is an express tenant's fixed one (R58) -/
  fixed : Bool
  amax : Reg32
  /-- accumulator elements found uncorrectable when their row is read (R83) -/
  ue : List Nat
  /-- vector registers that a write landing in the last cycle keeps from the update's final lanes (R77, R108) -/
  kept : List Nat
deriving DecidableEq, Repr

/-- What a load-slot move does (R101, R103). -/
inductive MoveKind where
  | ldc | stc | ldv | stv
deriving DecidableEq, Repr

/-- A load-slot move in flight. -/
structure MoveOp where
  id : Nat
  kind : MoveKind
  issue : Nat
  due : Nat
  sid : Nat
  con : Nat
  len : Nat
  vreg : Nat
  fmt : BitVec 4
  /-- the bytes it carries, as read at issue, with poison marks; open ones of R116 as they have been decided -/
  data : List (Byte × Bool)
  /-- a later-issued result has landed in the register of this LDV in its due cycle (R108) -/
  beaten : Bool
deriving DecidableEq, Repr

/-- A register result on its way: the cycles of its issue and of its landing, the register, the value (R93, R108). -/
inductive RegWrite where
  | idx (issued due : Nat) (r : Nat) (v : Reg32)
  | vec (issued due : Nat) (r : Nat) (v : Lanes)
deriving DecidableEq, Repr

/-- What the control slot of the bundle issued last makes the sequencer wait for (R111, R113, R115). -/
inductive SeqWait where
  | none
  | waitq (q : Nat) (count : Nat)
  | sync (bar : Nat)
  | halted
deriving DecidableEq, Repr

/-- The bundle issued last and the slots still to be carried out (R91, R92). -/
structure Cur where
  bundle : BitVec 256
  l : Bool
  m : Bool
  v : Bool
  d : Bool
  c : Bool
deriving DecidableEq, Repr

/-- A hold in force: its source and the held cycle, counted from the start of the hold, at which it ends when known (R69). -/
structure Hold where
  src : HoldSrc
  ends : Option Nat
deriving DecidableEq, Repr

/-- A hold source that becomes active in a later unheld cycle of an operation in flight, with the siding row of a corrected error
(R69). -/
structure DueHold where
  cycle : Nat
  src : HoldSrc
  row : Option Nat
deriving DecidableEq, Repr

/-- One entry of a corrected-error row log (R222). -/
structure RowLog where
  row : Nat
  count : Nat
  first : Nat
deriving DecidableEq, Repr

/-- An arrival of this array that waits for its STCs (R113): several can, with NOWAIT. -/
structure PendingSync where
  bar : Nat
  n : Nat
  nowait : Bool
  /-- moves that were outstanding at the SYNC -/
  stcs : List Nat
deriving DecidableEq, Repr

/-- One array (R14, R86). -/
structure Arr where
  paired : Bool
  partner : BitVec 6
  spare : Bool
  st : AryState
  liveAcc : BitVec 4
  next : Nat
  holds : List Hold
  /-- hold sources that operations in flight will meet (R69) -/
  dueHolds : List DueHold
  /-- held cycles counted in the hold now in force -/
  heldNow : Nat
  holdSeen : BitVec 6
  holdCyc : BitVec 64
  ceStall : Reg32
  poisonRd : BitVec 16
  poisonWr : BitVec 16
  faultValid : Bool
  faultCode : BitVec 16
  segLimit : BitVec 21
  stretch : BitVec 8
  avsEvents : BitVec 16
  avsSince : Nat
  spareField : BitVec 8
  /-- siding spare rows mapped in by field retirement, by MiB of the siding (R223) -/
  spareMib : Store Nat
  chainShadow : Store Reg32
  chains : Store (List Stage)
  chainOk : BitVec 8
  slot0 : ImageSlot
  slot1 : ImageSlot
  /-- the running slot -/
  active : Option (Fin 2)
  rejCode : BitVec 16
  submits : Nat
  tq : Store (BitVec 16)
  ireg : Store Reg32
  vreg : Store Cell32
  acc : Store Cell32
  /-- tiles that hold INT32 (R106) -/
  tileInt : BitVec 8
  plat : Store PlatRow
  tags : Store Tag
  sid : List Host.Cell
  /-- 64-bit words that carry the poison syndrome, by address ÷ 8 -/
  sidPoison : Store Bool
  cur : Option Cur
  wait : SeqWait
  /-- unheld A-cycles, and whether the reads and writes of this cycle are still to be made -/
  cyc : Nat
  nextIssue : Nat
  lastIssue : Nat
  /-- the next issue begins a segment -/
  segNew : Bool
  /-- a bundle with STOP has issued, and no bundle since -/
  stopHere : Bool
  segCount : Nat
  gridFree : Nat
  ldpFree : Nat
  drainFree : Nat
  moveId : Nat
  regw : List RegWrite
  ldps : List LdpOp
  ksteps : List KstepOp
  drains : List DrainOp
  moves : List MoveOp
  /-- siding bytes that an LDC has written before its due cycle: that cycle, the address, the previous content (R116) -/
  early : List (Nat × Nat × (Byte × Bool))
  syncs : List PendingSync
  rng : BitVec 64
  quiesce : Bool
  fp : BitVec 64
  fpPoison : Bool
  disp : Option Nat
  seed : BitVec 64
  dseq : Reg32
  amax : Store Reg32
  rowLog : List RowLog
deriving DecidableEq, Repr

/-! ## Attention -/

/-- ATP_STATUS.STATE (R192). -/
inductive PipeState where
  | idle | pass | stall | seal | scrub
deriving DecidableEq, Repr

/-- A row's running state (R171). -/
structure RowState where
  m : Reg32
  l : Reg32
  o : List Reg32
  bad : Bool
  poison : Bool
deriving DecidableEq, Repr

/-- A leg waiting for a pipeline: its descriptor, tenant, class, DISPATCH (R164, R173). -/
structure LegReq where
  pd : Bytes
  tenant : Nat
  cls : BitVec 2
  disp : Nat
deriving DecidableEq, Repr

/-- A leg running on a pipeline. -/
structure Leg where
  req : LegReq
  /-- the walk registered for it, when it reads a page list (R177) -/
  walk : Option Nat
  /-- blocks still to be read, ascending -/
  blocks : List Nat
  rows : List RowState
  /-- query rows as the product units take them, their tokens' positions and segments, the rotary table (R166, R169, R170) -/
  queries : List (List Elem)
  places : List (Nat × Nat)
  freqs : List Reg32
deriving DecidableEq, Repr

/-- An attention pipeline (R192). -/
structure PipeSt where
  st : PipeState
  tenant : BitVec 5
  cls : BitVec 2
  blocks : BitVec 16
  passes : Reg32
  late : BitVec 64
  sealSat : BitVec 16
  seals : BitVec 16
  faultValid : Bool
  faultTenant : BitVec 5
  faultCode : BitVec 16
  leg : Option Leg
  /-- the tenant served last of each class, regular and freight (R16) -/
  lastRegular : Nat
  lastFreight : Nat
deriving DecidableEq, Repr

/-- A walk registered with a page list (R177, R187). -/
structure Walk where
  id : Nat
  /-- its DISPATCH, and what tells its pass from the DISPATCH's others: layer, head and the offsets of query and state -/
  disp : Nat
  pass : List Nat
  gen : BitVec 16
  tokens : Nat
  unsealed : List Nat
  /-- the pass's last leg has ended -/
  done : Bool
deriving DecidableEq, Repr

/-- A deferred or waiting operation on a page list (R182, R187, R188, R189). -/
inductive KvOp where
  /-- with the pages whose seals it has begun -/
  | append (tokens : Nat) (pages : List Nat)
  | trunc (n : Nat)
  | remap (index log frame : Nat)
  | drop (pages : Nat)
  | pos0 (p : Nat)
  | unspill (index frame : Nat)
  | seal
  /-- the seals of these pages have still to finish; whether an edit then completes -/
  | sealWait (edit : Bool) (pages : List Nat)
  | close
  | spill (pages done : Nat)
deriving DecidableEq, Repr

/-- An operation waiting on a sequence, with the queue and index of its instruction. -/
structure KvWait where
  q : Nat
  idx : Reg32
  op : KvOp
deriving DecidableEq, Repr

/-- An open key-value sequence (R175 to R189). -/
structure KvSeq where
  addr : Nat
  /-- unsealed pages, ascending, and the pages that edits have removed below them: page k keeps slot (k + shift) mod slots -/
  unsealed : List Nat
  shift : Nat
  walks : List Walk
  /-- pages whose seal pass has still to run -/
  sealsDue : List Nat
  waits : List KvWait
deriving DecidableEq, Repr

/-- The key-value cache and the pass arbiter. -/
structure Kv where
  /-- key tenant × 65,536 + handle -/
  seqs : Store (Option KvSeq)
  legs : List LegReq
  walkId : Nat
deriving DecidableEq, Repr

/-! ## Memory tiers -/

/-- A physical granule: tier and number. -/
structure Loc where
  yard : Bool
  p : Nat
deriving DecidableEq, Repr

/-- The five states of a granule (R199, R206). `zeroFill` keeps the physical granule that has still to be cleared (R143). -/
inductive GState where
  | zeroFill (dirty : Option Loc)
  | stacked (p : Nat)
  | yard (p : Nat)
  | moving (src dst : Loc)
  | retired (p : Nat)
deriving DecidableEq, Repr

/-- A granule-map entry with its heat (R199, R202). -/
structure Granule where
  st : GState
  heat : BitVec 8
  /-- bytes counted towards the next unit of heat -/
  touched : Nat
deriving DecidableEq, Repr

/-- A stored yard page: record, stored units, tags (R215). -/
structure YPage where
  mode : BitVec 3
  len : BitVec 13
  epoch : BitVec 48
  units : List Bytes
  tags : List (BitVec 64)
  /-- 64-bit words of the page that were poisoned when it was written (R204) -/
  poison : List Nat
  /-- units that failed on both readings: they fail until the page is written (R219) -/
  lost : List Nat
deriving DecidableEq, Repr

/-- Why a granule moves (R203, R206, R207). -/
inductive MoveWhy where
  | policy | command (q : Nat) (idx : Reg32) | repair
deriving DecidableEq, Repr

/-- A granule move waiting or running (R204). -/
structure GMove where
  tenant : Nat
  g : Nat
  toYard : Bool
  why : MoveWhy
  running : Bool
deriving DecidableEq, Repr

/-- A concourse bank's repair state (R222, R223). -/
structure Bank where
  rowLog : List RowLog
  spareField : BitVec 8
deriving DecidableEq, Repr

/-- The MTC block and the memories below the sidings. -/
structure Mtc where
  con : List Host.Cell
  /-- concourse words that read as uncorrectable, by address ÷ 8 -/
  conPoison : Store Bool
  /-- key tenant × 2^27 + model granule -/
  map : Store Granule
  /-- stacked memory by physical address -/
  stk : List Host.Cell
  stkPoison : Store Bool
  yard : Store YPage
  stkNext : Nat
  stkBack : List Nat
  /-- spare granules returned by a move that was abandoned, or scrubbed (R206) -/
  spareBack : List Nat
  yardNext : Nat
  yardBack : List Nat
  stkFree : BitVec 16
  yardFree : BitVec 17
  spares : BitVec 7
  /-- stacked granules taken out of use (R206, R225) -/
  bad : List Nat
  yardGiB : Nat
  /-- data rate in MT/s and ranks of every yard channel (R349) -/
  yardRate : Nat
  yardRanks : Nat
  /-- corrected errors of stacked granules: times (R225) -/
  granCe : Store (List Nat)
  moves : List GMove
  throttled : Bool
  /-- the 1 ms that the move limit counts in, and bytes counted (R203) -/
  rateTime : Nat
  rateBytes : Nat
  autoSh : Bool
  promoteSh : BitVec 8
  hystSh : BitVec 8
  rateSh : BitVec 8
  auto : Bool
  promote : BitVec 8
  hyst : BitVec 8
  rate : BitVec 8
  moved : BitVec 64
  declined : Reg32
  tagFail : BitVec 16
  tagReread : BitVec 16
  linkFail : BitVec 16
  linkRetry : BitVec 16
  conRetired : BitVec 16
  sidRetired : BitVec 16
  smMax : BitVec 16
  yardMax : BitVec 16
  faultValid : Bool
  faultTenant : BitVec 5
  faultCode : BitVec 16
  faultAddr : BitVec 48
  banks : Store Bank
  heatTime : Nat
  evalTime : Nat
  phaseNext : Nat
  phaseTime : Nat
  /-- the channel a phase-tracking window, or a yard retraining window, holds out of service -/
  phaseOut : Option Nat
  driftNext : Nat
  driftTime : Nat
  driftOut : Option Nat
deriving DecidableEq, Repr

/-! ## Depot -/

/-- What a command port does besides an unlock sequence (R238). -/
inductive WscState where
  | ready | busy | suspended
deriving DecidableEq, Repr

/-- A command port (R235 to R243). -/
structure WscP where
  st : WscState
  /-- unlock state: 0 none, 1 first key seen, 2 unlocked, 3 in sequence (WSC_STATUS.STATE) -/
  step : Nat
  /-- the command of the sequence, and its next write, by its place in the row of R236 -/
  cmd : BitVec 8
  pos : Nat
  /-- data words of a small PROGRAM so far -/
  words : List Reg32
  key : BitVec 16
  op : BitVec 8
  /-- bytes completed by the command that runs or ran last -/
  done : Nat
  addr : BitVec 41
  len : Reg32
  data : Reg32
  stage : BitVec 48
  stageTenant : BitVec 5
  ksel : BitVec 6
  ageGuard : Bool
  secsel : BitVec 15
  rdata : Reg32
  /-- WSC_RDATA holds a STATUS or READID result -/
  shown : Bool
  err : BitVec 13
  rdReady : Bool
  /-- a unit is being loaded into the read buffer; its depot address -/
  rpend : Bool
  raddr : Nat
  rbuf : List Reg32
  rptr : Nat
  /-- the secrets by key slot that the unit being loaded is read with (R317) -/
  rkeys : Store Bytes
  /-- a bulk read: the next byte's depot address and the end, where it goes, its secrets by key slot (R317) -/
  bulkPos : Nat
  bulkEnd : Nat
  bulkTenant : Nat
  bulkStage : Nat
  bulkKeys : Store Bytes
  /-- sectors of the port's last ERASE still running or suspended, program units still to do -/
  eraseLeft : List Nat
  progLeft : Nat
  /-- how many ERASEs and PROGRAMs the port has started; the last ERASE has ended on a failure while other dies go on (R239, R241) -/
  eraseNo : Nat
  progNo : Nat
  eraseOver : Bool
  /-- a user suspension holds (R246) -/
  userSusp : Bool
deriving DecidableEq, Repr

/-- A sector's header, its CRC-32C included, and its write-protect bit (R231, R242). -/
structure Sector where
  erases : BitVec 32
  kslot : BitVec 6
  wptr : Nat
  crc : Reg32
  wp : Bool
  /-- an erase of this sector failed: its units are undefined (R241) -/
  undef : Bool
deriving DecidableEq, Repr

/-- A programmed 4 KiB unit: ciphertext, eight tags and the CRC-32C over both, or a filler (R232, R239). -/
inductive Unit4K where
  | data (cipher : Bytes) (tags : List (BitVec 64)) (crc : Reg32)
  | filler
deriving DecidableEq, Repr

/-- Die states (R245). -/
inductive DieState where
  | idle | reading | programming | erasing | suspending | suspended | suspProgramming | suspReading | resuming
deriving DecidableEq, Repr

/-- A program unit of 32 data units waiting at a die: those from `lo` to `hi` are programmed from bytes or from a stage (tenant and
model address of the first), the others filled; under a key slot and the secret it held (R239, R317). -/
structure ProgUnit where
  port : WscPort
  sector : Nat
  unit : Nat
  lo : Nat
  hi : Nat
  bytes : Bytes
  stage : Option (Nat × Nat)
  slot : BitVec 6
  secret : Bytes
  /-- which PROGRAM of the port it belongs to -/
  no : Nat
deriving DecidableEq, Repr

/-- An erase at a die, of which ERASE of its port (R241, R247). -/
structure EraseOp where
  port : WscPort
  sector : Nat
  autoSusp : Nat
  userSusp : Bool
  aged : Bool
  no : Nat
deriving DecidableEq, Repr

/-- Whose read waits at a die: an instruction fetch, a port's read buffer, its bulk read, a load's manifest, a load's shard or a shard's reload by
tenant, copy and shard, or another (R245). -/
inductive Reader where
  | fetch
  | port (p : WscPort)
  | bulk (p : WscPort)
  | manifest (t c : Nat)
  | shard (t c i : Nat)
  | reload (t c i : Nat)
  | other
deriving DecidableEq, Repr

/-- A read at a die by class: 0 fetch, 1 load of an express tenant, 2 of a regular one, 3 WSC read, 4 load of a freight tenant or reload
(R20, R245). -/
structure DieRead where
  cls : Fin 5
  who : Reader
  /-- units of the same run still to be read at this die once this one has come -/
  more : Nat
deriving DecidableEq, Repr

/-- A flash die (R244, R245). -/
structure Die where
  st : DieState
  erase : Option EraseOp
  eraseQ : List EraseOp
  progs : List ProgUnit
  reads : List DieRead
  reading : Option DieRead
deriving DecidableEq, Repr

/-- A load waiting or running: its manifest's sector, DEST, and the secrets by key slot it took when it started (R255, R317). -/
structure LoadJob where
  tenant : Nat
  copy : Fin 4
  cls : BitVec 2
  msector : Nat
  dest : Nat
  running : Bool
  /-- issued by firmware from the boot list (R370) -/
  fw : Bool
  keys : Store Bytes
  /-- its manifest has been read and accepted: shards are in flight -/
  ready : Bool
deriving DecidableEq, Repr

/-- A step of core 0's work in the device sectors (R224, R240, R324). -/
inductive FwStep where
  /-- an ERASE of `n` sectors -/
  | erase (first n : Nat)
  /-- a small PROGRAM -/
  | program (addr : Nat) (data : Bytes)
  /-- a 4 KiB unit read back and compared (R240) -/
  | check (addr : Nat) (data : Bytes)
  /-- a record of the configuration, written where the sector stands when the step is reached -/
  | record (data : Bytes)
deriving DecidableEq, Repr

/-- Work of core 0 in the device sectors, done through the firmware port (R224, R235, R242, R324). -/
structure FwJob where
  slot : BitVec 6
  /-- the sectors that it takes the write protection from, for as long as it lasts -/
  first : Nat
  count : Nat
  steps : List FwStep
  /-- the port has been given the first step -/
  running : Bool
  /-- the firmware image that it stages -/
  image : Option Bytes
  /-- the mailbox operation waits for its end -/
  mbox : Bool
  /-- its operation was aborted: it ends with the step that runs -/
  dead : Bool
deriving DecidableEq, Repr

/-- The depot and the load engine. -/
structure Dep where
  host : WscP
  fw : WscP
  sectors : Store Sector
  /-- key sector × 16,384 + unit -/
  units : Store (Option Unit4K)
  dies : Store Die
  eraseAged : Bool
  wearNear : Bool
  wearOut : Bool
  retryMax : BitVec 4
  mediaSector : BitVec 15
  intervalSh : BitVec 8
  interval : BitVec 8
  shareSh : BitVec 5
  share : BitVec 5
  passes : BitVec 16
  mismatch : BitVec 16
  faultValid : Bool
  faultCode : BitVec 16
  retried : BitVec 16
  uncorr : BitVec 16
  loads : List LoadJob
  passTime : Nat
  /-- instruction read cache: lines held, by 4 KiB unit key -/
  icache : List Nat
  /-- the copy of every header in stacked memory, from TRAIN on (R231) -/
  headers : Store Sector
  copied : Bool
  /-- device sectors that still hold what the device left the line with (R230) -/
  line : List Nat
  /-- core 0's work in the device sectors, the first in hand -/
  jobs : List FwJob
deriving DecidableEq, Repr

/-! ## Express -/

/-- Signal-box states (R283). -/
inductive SbState where
  | disarmed | arming | idle | running | rerun | held
deriving DecidableEq, Repr

/-- The fields of an express table kept while armed (R268). -/
structure XTable where
  pairs : Nat
  steps : Nat
  minPeriod : Nat
  invoke : Nat
  stepMax : Nat
  part : Nat
  reqFrags : Nat
  resFrags : Nat
  reqOff : Nat
  resOff : Nat
  wrOff : Nat
  wrSize : Nat
  /-- IMG_OFF and STEP_OFF by pair role -/
  roles : List (Nat × Nat)
deriving DecidableEq, Repr

/-- A request's copy on one lane as far as it has arrived (R274). -/
structure ReqCopy where
  seq : BitVec 16
  nfrag : Nat
  got : Nat
  complete : Bool
  dead : Bool
  time : Nat
  /-- its fragment 0 has been seen; INCOMPLETE has been sent for it -/
  first : Bool
  told : Bool
deriving DecidableEq, Repr

/-- An invocation (R276, R283). -/
structure Invocation where
  seq : BitVec 16
  /-- the time the request became available -/
  avail : Nat
  restarted : Bool
  step : Nat
  finalOk : Bool
  resStarted : Bool
  oneLane : Bool
  /-- the time its present step began (R279) -/
  stepTime : Nat
deriving DecidableEq, Repr

/-- The re-run of a step on the spare (R280). -/
structure Rerun where
  role : Nat
  step : Nat
  time : Nat
deriving DecidableEq, Repr

/-- Express index x (R297). -/
structure Xid where
  st : SbState
  window : Bool
  /-- the window closes when an invocation that started after the fault passes its final comparison (R281) -/
  windowSeq : Option (BitVec 16)
  tenant : BitVec 5
  seq : BitVec 16
  valid : Reg32
  mismatch : BitVec 8
  rerunOk : BitVec 8
  overrun : BitVec 8
  reqEarly : BitVec 8
  latMax : BitVec 16
  latLast : BitVec 16
  base : Nat
  mbase : Nat
  size : Nat
  period : Nat
  copy : Nat
  table : XTable
  /-- arrays of each pair role -/
  roles : List (Nat × Nat)
  first : Bool
  lastAccept : Nat
  inv : Option Invocation
  waitSeq : Option Invocation
  reqA : Option ReqCopy
  reqB : Option ReqCopy
  /-- complete copies that wait for the other lane's -/
  copies : List (Lane × ReqCopy)
  rerun : Option Rerun
  /-- fingerprints of the last step of the last invocation, by role -/
  record : Store (BitVec 64)
  /-- the XPRARM, and the XPRDISARMs, that have still to complete -/
  armJob : Option (Nat × Reg32)
  disarmJobs : List (Nat × Reg32)
  resetAfter : Bool
  /-- SEQs answered DISARMED, by lane (R274) -/
  answered : List (Lane × BitVec 16)
  /-- the arrays that arming forms a spare pair from (R270) -/
  form : Option (Fin 64 × Fin 64)
deriving DecidableEq, Repr

/-- A proof run of the spare (R284). -/
structure Proof where
  x : Nat
  role : Nat
deriving DecidableEq, Repr

/-- The lane of the safety link: receiver and transmitter (R290 to R293, R345). -/
structure LaneSt where
  aligned : Bool
  rxSeq : Option (BitVec 16)
  discards : BitVec 16
  discardTimes : List Nat
  lastValid : Option Nat
  faulted : Bool
  cleanSince : Nat
  txSeq : BitVec 16
  /-- frames to send by source: 0 to 3 the XIDs, 4 HOLD and ALIVE and answers to XIDs not armed -/
  txq : Store (List Bytes)
  txNext : Nat
  txTime : Option Nat
  /-- the time its latest slot began, a frame's or an idle one's (R345) -/
  slotTime : Option Nat
deriving DecidableEq, Repr

/-- The express path (R262 to R298). -/
structure Xpr where
  xids : Store Xid
  holdCode : BitVec 16
  spareValid : Bool
  spareReady : Bool
  formed : BitVec 8
  spa : BitVec 6
  spb : BitVec 6
  /-- the tenant the spare last ran, and the XIDs a proof has passed for -/
  spareRan : Option Nat
  proved : List Nat
  proof : Option Proof
  proofTime : Nat
  proofNext : Nat
  retired : List Nat
  laneA : LaneSt
  laneB : LaneSt
  /-- XPRARM has completed once since RESET: the lane watchdogs run (R292) -/
  watchdogFrom : Option Nat
  holdTime : Nat
  clockTime : Nat
  checkTime : Nat
deriving DecidableEq, Repr

/-! ## Control complex, keys, management -/

/-- Why a component restarts: it, or its core's kernel, missed its checkpoint, or it was stopped (R300, R302). -/
inductive RestartCause where
  | checkpoint | kernel | stop (c : StopCause)
deriving DecidableEq, Repr

/-- A component (R302, R304). -/
structure CompSt where
  restarts : List Nat
  held : Bool
  /-- the cause of its last restart (R302) -/
  cause : Option RestartCause
deriving DecidableEq, Repr

/-- A key slot inside the security engine (R314 to R316). -/
structure KeySlot where
  installed : Bool
  wrapped : Bool
  secret : Bytes
  signer : Option Bytes
  installs : BitVec 16
deriving DecidableEq, Repr

/-- Stages of an SPDM session (R311, R312). -/
inductive SessStage where
  | handshake | encap | verified | established
deriving DecidableEq, Repr

/-- An SPDM session. -/
structure Session where
  sid : BitVec 32
  stage : SessStage
  /-- it was established after the driver version was accepted (R306) -/
  afterVersion : Bool
  keyUpdates : Nat
deriving DecidableEq, Repr

/-- The security engine, SPDM responder and the firmware components. -/
structure Sec where
  engineOk : Bool
  hostRoot : Option Bytes
  mgtRoot : Option Bytes
  bnonce : Bytes
  slots : Store KeySlot
  faultValid : Bool
  faultTenant : BitVec 5
  faultCode : BitVec 16
  /-- SPDM connection: 0 none, 1 version, 2 capabilities, 3 algorithms -/
  conn : Nat
  sessions : List Session
  sidNext : BitVec 32
  comps : Store CompSt
  /-- plan caches by planner, the most recently used entry first (R149) -/
  caches : Store (List PlanEntry)
  /-- the tenant that comes first when a planner serves a class next, by 4 × core + class (R147) -/
  turns : Store Nat
  balanceTime : Nat
  /-- control SRAM: the clean images that BOOT has copied, those of core 7 and its twin among them (R249, R302) -/
  sram : Option Bytes
deriving DecidableEq, Repr

/-- The session of the management port (R321, R323). -/
inductive TlsState where
  | none | session | provisioning
deriving DecidableEq, Repr

/-- The MGT block (R324). -/
structure Mgt where
  tls : TlsState
  busy : Bool
  op : BitVec 4
  result : BitVec 4
  tx : List Reg32
  rx : List Reg32
  /-- input words that MGMT has taken, output words that wait for room in the receive FIFO -/
  inp : List Reg32
  pend : List Reg32
  overflow : Bool
  underflow : Bool
  net : List Reg32
  /-- a firmware image staged in the inactive half of the device sectors, for the next RESET (R324) -/
  staged : Option Bytes
  /-- the firmware image running, where one has been staged before; none: the image it left the line with (R313) -/
  image : Option Bytes
  /-- the half of the device sectors that it was read from -/
  half : Fin 2
deriving DecidableEq, Repr

/-! ## Windows and peer link -/

/-- A window (R334, R351). -/
structure Window where
  open_ : Bool
  closing : Bool
  access : BitVec 2
  tenant : BitVec 5
  pages : BitVec 18
  base : Nat
  /-- the WINCLOSE to complete at retirement -/
  closer : Option (Nat × Reg32)
deriving DecidableEq, Repr

/-- WIN_PEER_LINK.STATE (R351). -/
inductive LinkState where
  | down | training | up | legacy
deriving DecidableEq, Repr

/-- A message being received on a VC (R339, R340). -/
structure RxMsg where
  type : BitVec 8
  window : Nat
  offset : Nat
  mlen : Nat
  pack : Bool
  fseq : BitVec 12
  data : Bytes
  refused : Bool
deriving DecidableEq, Repr

/-- A flit to send, or in the replay buffer (R342). -/
structure TxFlit where
  type : BitVec 8
  h : FlitHdr
  payload : Bytes
deriving DecidableEq, Repr

/-- A peer read that awaits its completion: the partition offset and length of a descriptor, the data that has come, the FSEQs of
its requests not yet answered (R339). -/
structure PeerRead where
  disp : Nat
  con : Nat
  len : Nat
  data : List (Byte × Bool)
  reqs : List (BitVec 12)
deriving DecidableEq, Repr

/-- Windows and the peer link. -/
structure Win where
  hostW : Store Window
  peerW : Store Window
  faultValid : Bool
  faultPort : Bool
  faultWindow : BitVec 6
  faultCode : BitVec 16
  closedPeer : BitVec 16
  closedHost : BitVec 16
  link : LinkState
  lanes : BitVec 4
  /-- a link at half width runs on lanes 4 to 7 (R339) -/
  upper : Bool
  retrains : BitVec 16
  replays : BitVec 16
  crcErr : BitVec 16
  txNext : BitVec 12
  rxNext : BitVec 12
  credits0 : Nat
  credits1 : Nat
  /-- flits of messages that wait for a credit or for room in the replay buffer (R341, R342) -/
  txWait : List TxFlit
  replayBuf : List TxFlit
  replayCount : Nat
  /-- REPLAYs sent since the last flit received in order -/
  rxReplays : Nat
  /-- flits received whose credits have still to be returned -/
  owed0 : Nat
  owed1 : Nat
  sinceAck : Nat
  ackTime : Nat
  failTimes : List Nat
  rx0 : Option RxMsg
  rx1 : Option RxMsg
  /-- reads outstanding by tag -/
  tags : Store (Option PeerRead)
deriving DecidableEq, Repr

/-! ## The state -/

/-- The machine. -/
structure State where
  pending : List Instr
  fuse : Fuses
  glb : Glb
  frc : Frc
  ten : Store Tenant
  disp : List Dispatch
  dispNext : Nat
  ary : Store Arr
  pipe : Store PipeSt
  kv : Kv
  mtc : Mtc
  dep : Dep
  xpr : Xpr
  sec : Sec
  mgt : Mgt
  win : Win
  out : List Output
  /-- the model's own counter that fresh open values are taken from (notes/assumptions/8.md) -/
  free : Nat
deriving DecidableEq, Repr

/-! ## Reset values -/

/-- A queue after reset: disabled, every index zero (R132). -/
def Queue.init : Queue where
  st := .disabled
  overrun := false
  cplFull := false
  fcode := 0
  qcmd := 0
  tail := 0
  head := 0
  cplHead := 0
  cplTail := 0
  base := 0
  cpl := 0
  enable := false
  vector := 0
  size := 0
  csize := 0
  issued := []
  waiting := none
  retry := none
  short := false
  batch := none
  closing := []
  stuck := none

/-- An unused memory range (R139). -/
def MemRange.init : MemRange := ⟨0, 0, 0⟩

/-- A scale slot after reset: WINDOW 0x10, INIT_EXP 0 (R57). -/
def ScaleSlot.init : ScaleSlot := ⟨0x10, 0x10, 0, []⟩

/-- An EMPTY weight copy (R254). -/
def Copy.init : Copy where
  st := .empty
  base := 0
  bytes := 0
  digest := []
  express := false
  shards := []
  kernels := []
  scales := []
  waiter := none

/-- A barrier nobody has arrived at (R113). -/
def Barrier.init : Barrier := ⟨[], false⟩

/-- A tenant after reset: FREE (R137, TCX field maps). -/
def Tenant.init : Tenant where
  admin := false
  cls := 0
  st := .free
  mkSlot := none
  whyRebind := false
  whyHost := false
  whyFw := false
  planner := 0
  movedAt := 0
  cfgWrBusy := false
  bindConflict := false
  startRefused := false
  cfgOff := 0
  cmd := 0
  starve := 0
  pcHit := 0
  pcMiss := 0
  dseq := 0
  bindAry := 0
  bindAtp := 0
  conBase := 0
  conSize := 0
  bindKey := 0
  ranges := []
  seedShadow := 0
  seed := 0
  res := 0
  scales := []
  events := []
  queues := []
  copies := []
  points := none
  barriers := []
  resident := []
  turn := 0
  rebind := none
  migrates := []

/-- An empty image slot (R119). -/
def ImageSlot.init : ImageSlot := ⟨.empty, [], none, 0⟩

/-- A platform row as reset leaves it: +0 throughout (notes/assumptions/7.md). -/
def PlatRow.init : PlatRow := ⟨[], 0⟩

/-- A tag that names no format: the reserved code 0xF stands for "none" (R100). -/
def Tag.none : Tag := ⟨0xF, false⟩

/-- A 32-bit element holding +0, not poisoned. -/
def Cell32.init : Cell32 := ⟨0, false⟩

/-- The chain a reset leaves: NONE in stage 0, a lone CONV in stage 1 (ARY_CHAINc_Ww). -/
def chainWordInit (w : Nat) : Reg32 := if w = 0 then 0xF0000000 else 0

/-- The stages the reset words spell. -/
def chainInit : List Stage :=
  [⟨0, 0⟩, ⟨0xF, 0⟩, ⟨0, 0⟩, ⟨0, 0⟩, ⟨0, 0⟩, ⟨0, 0⟩, ⟨0, 0⟩, ⟨0, 0⟩]

/-- The substitute of a zero generator state (R55). -/
def rngSeed : BitVec 64 := 0x9E3779B97F4A7C15

/-- An array after reset (R86 field maps; R142 scrub). -/
def Arr.init : Arr where
  paired := false
  partner := 0
  spare := false
  st := .idle
  liveAcc := 0
  next := 0
  holds := []
  dueHolds := []
  heldNow := 0
  holdSeen := 0
  holdCyc := 0
  ceStall := 0
  poisonRd := 0
  poisonWr := 0
  faultValid := false
  faultCode := 0
  segLimit := 0x16E360
  stretch := 0
  avsEvents := 0
  avsSince := 0
  spareField := 0
  spareMib := []
  chainShadow := []
  chains := []
  chainOk := 0
  slot0 := ImageSlot.init
  slot1 := ImageSlot.init
  active := none
  rejCode := 0
  submits := 0
  tq := []
  ireg := []
  vreg := []
  acc := []
  tileInt := 0
  plat := []
  tags := []
  sid := []
  sidPoison := []
  cur := none
  wait := .none
  cyc := 0
  nextIssue := 0
  lastIssue := 0
  segNew := false
  stopHere := false
  segCount := 0
  gridFree := 0
  ldpFree := 0
  drainFree := 0
  moveId := 0
  regw := []
  ldps := []
  ksteps := []
  drains := []
  moves := []
  early := []
  syncs := []
  rng := rngSeed
  quiesce := false
  fp := BitVec.allOnes 64
  fpPoison := false
  disp := none
  seed := 0
  dseq := 0
  amax := []
  rowLog := []

/-- A pipeline after reset (R192). -/
def PipeSt.init : PipeSt where
  st := .idle
  tenant := 0
  cls := 0
  blocks := 0
  passes := 0
  late := 0
  sealSat := 0
  seals := 0
  faultValid := false
  faultTenant := 0
  faultCode := 0
  leg := none
  lastRegular := 0
  lastFreight := 0

/-- A granule no write has reached: ZERO_FILL, cold (R199). -/
def Granule.init : Granule := ⟨.zeroFill none, 0, 0⟩

/-- A yard frame nothing has written: a ZERO page with EPOCH 0 (R218, notes/assumptions/11.md). -/
def YPage.init : YPage := ⟨2, 0, 0, [], [], [], []⟩

/-- A bank with no field repair (R227). -/
def Bank.init : Bank := ⟨[], 0⟩

/-- The memory tiers after reset (R227 field maps). -/
def Mtc.init : Mtc where
  con := []
  conPoison := []
  map := []
  stk := []
  stkPoison := []
  yard := []
  stkNext := 0
  stkBack := []
  spareBack := []
  yardNext := 0
  yardBack := []
  stkFree := 0
  yardFree := 0
  spares := 0x40
  bad := []
  yardGiB := 0
  yardRate := 0
  yardRanks := 0
  granCe := []
  moves := []
  throttled := false
  rateTime := 0
  rateBytes := 0
  autoSh := true
  promoteSh := 0x40
  hystSh := 0x10
  rateSh := 0x30
  auto := true
  promote := 0x40
  hyst := 0x10
  rate := 0x30
  moved := 0
  declined := 0
  tagFail := 0
  tagReread := 0
  linkFail := 0
  linkRetry := 0
  conRetired := 0
  sidRetired := 0
  smMax := 0
  yardMax := 0
  faultValid := false
  faultTenant := 0
  faultCode := 0
  faultAddr := 0
  banks := []
  heatTime := 0
  evalTime := 0
  phaseNext := 0
  phaseTime := 0
  phaseOut := none
  driftNext := 0
  driftTime := 0
  driftOut := none

/-- A depot port after reset: READY, every register zero (R260). -/
def WscP.init : WscP where
  st := .ready
  step := 0
  cmd := 0
  pos := 0
  words := []
  key := 0
  op := 0
  done := 0
  addr := 0
  len := 0
  data := 0
  stage := 0
  stageTenant := 0
  ksel := 0
  ageGuard := false
  secsel := 0
  rdata := 0
  shown := false
  err := 0
  rdReady := false
  rpend := false
  raddr := 0
  rbuf := []
  rptr := 0
  rkeys := []
  bulkPos := 0
  bulkEnd := 0
  bulkTenant := 0
  bulkStage := 0
  bulkKeys := []
  eraseLeft := []
  progLeft := 0
  eraseNo := 0
  progNo := 0
  eraseOver := false
  userSusp := false

/-- A sector never erased nor programmed, write-protected (R242, notes/assumptions/12.md). -/
def Sector.init : Sector := ⟨0, 0x3F, 0, 0x6679B65F, true, false⟩

/-- The device sectors that hold a firmware image when the device leaves the line: one program unit of the first, every unit of the
others of its half, under slot 0x20, never erased (R230, notes/assumptions/61.md). -/
def lineSectors : Store Sector :=
  (0x7F00, ⟨0, 0x20, 1, 0x49D8090E, true, false⟩) ::
    ((List.range 15).map (fun i => (0x7F01 + i, ⟨0, 0x20, 512, 0xBB41E18E, true, false⟩)))

/-- An idle die (R245). -/
def Die.init : Die := ⟨.idle, none, [], [], [], none⟩

/-- The depot after reset (R260). -/
def Dep.init : Dep where
  host := WscP.init
  fw := WscP.init
  sectors := []
  units := []
  dies := []
  eraseAged := false
  wearNear := false
  wearOut := false
  retryMax := 0
  mediaSector := 0
  intervalSh := 0x0A
  interval := 0x0A
  shareSh := 0x14
  share := 0x14
  passes := 0
  mismatch := 0
  faultValid := false
  faultCode := 0
  retried := 0
  uncorr := 0
  loads := []
  passTime := 0
  icache := []
  headers := []
  copied := false
  line := []
  jobs := []

/-- No express table. -/
def XTable.init : XTable := ⟨0, 0, 0, 0, 0, 0, 0, 0, 0, 0, 0, 0, []⟩

/-- An express index that no tenant holds (R297). -/
def Xid.init : Xid where
  st := .disarmed
  window := false
  windowSeq := none
  tenant := 0
  seq := 0
  valid := 0
  mismatch := 0
  rerunOk := 0
  overrun := 0
  reqEarly := 0
  latMax := 0
  latLast := 0
  base := 0
  mbase := 0
  size := 0
  period := 0
  copy := 0
  table := XTable.init
  roles := []
  first := true
  lastAccept := 0
  inv := none
  waitSeq := none
  reqA := none
  reqB := none
  copies := []
  rerun := none
  record := []
  armJob := none
  disarmJobs := []
  resetAfter := false
  answered := []
  form := none

/-- A lane after reset: not aligned, silent (R292, R345). -/
def LaneSt.init : LaneSt where
  aligned := false
  rxSeq := none
  discards := 0
  discardTimes := []
  lastValid := none
  faulted := false
  cleanSince := 0
  txSeq := 0
  txq := []
  txNext := 0
  txTime := none
  slotTime := none

/-- The express path after reset (R297). -/
def Xpr.init : Xpr where
  xids := []
  holdCode := 0
  spareValid := false
  spareReady := false
  formed := 0
  spa := 0
  spb := 0
  spareRan := none
  proved := []
  proof := none
  proofTime := 0
  proofNext := 0
  retired := []
  laneA := LaneSt.init
  laneB := LaneSt.init
  watchdogFrom := none
  holdTime := 0
  clockTime := 0
  checkTime := 0

/-- An EMPTY key slot (R316). -/
def KeySlot.init : KeySlot := ⟨false, false, [], none, 0⟩

/-- A component that has not restarted. -/
def CompSt.init : CompSt := ⟨[], false, none⟩

/-- The security engine and the responder after reset (R326). -/
def Sec.init : Sec where
  engineOk := false
  hostRoot := none
  mgtRoot := none
  bnonce := []
  slots := []
  faultValid := false
  faultTenant := 0
  faultCode := 0
  conn := 0
  sessions := []
  sidNext := 0
  comps := []
  caches := []
  turns := []
  balanceTime := 0
  sram := none

/-- The management port after reset (R326). -/
def Mgt.init : Mgt where
  tls := .none
  busy := false
  op := 0
  result := 0
  tx := []
  rx := []
  inp := []
  pend := []
  overflow := false
  underflow := false
  net := []
  staged := none
  image := none
  half := 0

/-- A closed window (R351). -/
def Window.init : Window := ⟨false, false, 0, 0, 0, 0, none⟩

/-- Windows and peer link after reset (R351). -/
def Win.init : Win where
  hostW := []
  peerW := []
  faultValid := false
  faultPort := false
  faultWindow := 0
  faultCode := 0
  closedPeer := 0
  closedHost := 0
  link := .down
  lanes := 0
  upper := false
  retrains := 0
  replays := 0
  crcErr := 0
  txNext := 0
  rxNext := 0
  credits0 := 0
  credits1 := 0
  txWait := []
  replayBuf := []
  replayCount := 0
  rxReplays := 0
  owed0 := 0
  owed1 := 0
  sinceAck := 0
  ackTime := 0
  failTimes := []
  rx0 := none
  rx1 := none
  tags := []

/-- An empty log entry (notes/assumptions/7.md). -/
def LogEntry.init : LogEntry := ⟨0, 0, 0, 0, 0, 0, 0, 0⟩

/-- The FRC block after POR_N (R378). -/
def Frc.init : Frc where
  log := []
  held := 0
  logWr := 0
  summary := 0
  firstValid := false
  firstTenant := 0
  firstCode := 0
  starve := 0
  ceStall := 0
  poison := 0
  setTime := 0
  setBits := 0

/-- GLB after POR_N: state RESET, cause POR_N (R364); SAFE_HOLD_N low until the end of RESET (R346). -/
def Glb.init : Glb where
  devTime := 0
  st := .reset
  prev := .off
  cause := 0x01
  resetKey := none
  temp := 0
  alertSeen := false
  throttle := false
  throttleSeen := false
  vdda := 0x96
  vddaFixed := false
  drvMajor := 0
  drvMinor := 0
  drvReject := false
  verOk := false
  heartbeat := 0
  hbTime := 0
  attached := false
  lost := false
  lostSeen := false
  losses := 0
  sessionOk := false
  fwRestarts := 0
  fwHeld := 0
  fwLast := 0
  latches := []
  porN := false
  perstN := false
  safeHoldN := false
  thermN := true
  smbAlertN := true
  peerPrsntN := true
  vddAux := true
  railsOk := true
  pllLocked := false
  portUp := false
  d3hot := false
  thermHeld := false
  railHeld := false
  logResetDue := true
  scanUnlocked := false
  tapInstr := 1
  msixTable := []
  msixMask := BitVec.allOnes 64
  msixPba := 0
  pcie := ⟨false, false, false⟩
  mgtMode := false
  smbAddr := 0
  scanCells := List.replicate 9 false
  bypassBit := false

/-- The fuses of the model's device: stepping B1, grade X, D2 (R1's example 0x0A96_1122; notes/assumptions/7.md). -/
def Fuses.init : Fuses where
  stepMajor := 1
  stepMinor := 1
  grade := 2
  depot := 2
  sidSpareTest := []
  conSpareTest := []
  idKey := List.replicate 48 0
  idPub := List.replicate 97 0
  serial := 0
  dseed := List.replicate 32 0
  minSecVersion := 0
  vddaExpress := 0x96

/-- The machine right after reset: POR_N still low, every register at its reset value, no command waiting. -/
def State.reset : State where
  pending := []
  fuse := Fuses.init
  glb := Glb.init
  frc := Frc.init
  ten := []
  disp := []
  dispNext := 0
  ary := []
  pipe := []
  kv := ⟨[], [], 0⟩
  mtc := Mtc.init
  dep := { Dep.init with sectors := lineSectors, line := lineSectors.map (·.1) }
  xpr := Xpr.init
  sec := Sec.init
  mgt := Mgt.init
  win := Win.init
  out := []
  free := 0

end Sys2Proof.Machine
end

