-- ==== Sys2Proof/Machine/Flags.lean ====
section
/-! DEFINITION. The codes, their kinds, and what recording one changes: the log, the class bits, the first fault and the
message to the host (R333, R372 to R377). -/

namespace Sys2Proof.Machine

/-- ROW_RETIRED, event (R223). -/
def Code.rowRetired : BitVec 16 := 0x1101
/-- ROW_SPARES_OUT, event (R223). -/
def Code.rowSparesOut : BitVec 16 := 0x1102
/-- GRANULE_RETIRED, event (R206). -/
def Code.granuleRetired : BitVec 16 := 0x1103
/-- CE_STALL, event (R72). -/
def Code.ceStall : BitVec 16 := 0x1201
/-- UE_POISON, fault (R85, R90, R172, R219, R335). -/
def Code.uePoison : BitVec 16 := 0x1202
/-- YARD_TAG_FAIL, fault (R219). -/
def Code.yardTagFail : BitVec 16 := 0x1301
/-- SM_LINK_FAIL, fault (R220). -/
def Code.smLinkFail : BitVec 16 := 0x1302
/-- MEM_NO_KEY, fault (R200). -/
def Code.memNoKey : BitVec 16 := 0x1303
/-- GATHER_INDEX, fault (R209). -/
def Code.gatherIndex : BitVec 16 := 0x1304
/-- MEM_FULL, fault (R199). -/
def Code.memFull : BitVec 16 := 0x1305
/-- SEG_OVERRUN, fault (R74). -/
def Code.segOverrun : BitVec 16 := 0x2101
/-- CHAIN_INVALID, fault (R78). -/
def Code.chainInvalid : BitVec 16 := 0x2102
/-- ACC_OVERCOMMIT, fault (R68, R109, R119). -/
def Code.accOvercommit : BitVec 16 := 0x2103
/-- FORMAT_INVALID, fault (R30, R50, R119). -/
def Code.formatInvalid : BitVec 16 := 0x2104
/-- EXPRESS_NONDET, fault (R58, R119). -/
def Code.expressNondet : BitVec 16 := 0x2105
/-- K2_NOT_Q, event (R44). -/
def Code.k2NotQ : BitVec 16 := 0x2106
/-- TT_IMAGE, fault (R119). -/
def Code.ttImage : BitVec 16 := 0x2107
/-- TT_ENCODING, fault (R119). -/
def Code.ttEncoding : BitVec 16 := 0x2108
/-- SLOT_OVERLAP, fault (R104, R105, R109). -/
def Code.slotOverlap : BitVec 16 := 0x2109
/-- SID_RANGE, fault (R104). -/
def Code.sidRange : BitVec 16 := 0x210A
/-- CON_RANGE, fault (R104, R164, R208, R267). -/
def Code.conRange : BitVec 16 := 0x210B
/-- TAG_MISMATCH, event (R106). -/
def Code.tagMismatch : BitVec 16 := 0x210C
/-- SYNC_MISMATCH, fault (R113). -/
def Code.syncMismatch : BitVec 16 := 0x210D
/-- PLAN_OPCODE, fault (R122). -/
def Code.planOpcode : BitVec 16 := 0x3101
/-- PLAN_OPERAND, fault (R122, R334). -/
def Code.planOperand : BitVec 16 := 0x3102
/-- PLAN_PRIV, fault (R122, R273). -/
def Code.planPriv : BitVec 16 := 0x3103
/-- PLAN_RANGE, fault (R122, R145, R254, R334). -/
def Code.planRange : BitVec 16 := 0x3104
/-- KERNEL_MISSING, fault (R129). -/
def Code.kernelMissing : BitVec 16 := 0x3105
/-- TILING_NONE, fault (R157, R158). -/
def Code.tilingNone : BitVec 16 := 0x3106
/-- RAGGED_OVERFLOW, fault (R161). -/
def Code.raggedOverflow : BitVec 16 := 0x3107
/-- QUEUE_OVERRUN, event (R133). -/
def Code.queueOverrun : BitVec 16 := 0x3201
/-- CFG_WR_BUSY, event (R9, R138). -/
def Code.cfgWrBusy : BitVec 16 := 0x3204
/-- REBIND_REFUSED, fault (R144). -/
def Code.rebindRefused : BitVec 16 := 0x3301
/-- REBIND_LOST, fault (R141, R145). -/
def Code.rebindLost : BitVec 16 := 0x3302
/-- KV_HANDLE, fault (R183). -/
def Code.kvHandle : BitVec 16 := 0x4401
/-- KV_EDIT_DEFERRED, event (R187). -/
def Code.kvEditDeferred : BitVec 16 := 0x4402
/-- KV_EDIT_INVALID, fault (R186). -/
def Code.kvEditInvalid : BitVec 16 := 0x4403
/-- KV_NO_PAGE, fault (R184). -/
def Code.kvNoPage : BitVec 16 := 0x4404
/-- KV_LIST_INVALID, fault (R177, R183). -/
def Code.kvListInvalid : BitVec 16 := 0x4405
/-- ATT_SHAPE, fault (R163). -/
def Code.attShape : BitVec 16 := 0x4406
/-- KV_TAIL_FULL, fault (R182). -/
def Code.kvTailFull : BitVec 16 := 0x4407
/-- KV_WRITE_RANGE, fault (R185). -/
def Code.kvWriteRange : BitVec 16 := 0x4408
/-- WSC_SEQ, fault (R237, R246). -/
def Code.wscSeq : BitVec 16 := 0x5101
/-- WSC_PROTECTED, fault (R239, R241). -/
def Code.wscProtected : BitVec 16 := 0x5102
/-- WSC_RANGE, fault (R239, R241). -/
def Code.wscRange : BitVec 16 := 0x5103
/-- WSC_BUSY, fault (R238, R239, R241, R256). -/
def Code.wscBusy : BitVec 16 := 0x5104
/-- SECTOR_BUSY_FETCH, fault (R248). -/
def Code.sectorBusyFetch : BitVec 16 := 0x5105
/-- PROGRAM_FAIL, fault (R239). -/
def Code.programFail : BitVec 16 := 0x5106
/-- ERASE_FAIL, fault (R241). -/
def Code.eraseFail : BitVec 16 := 0x5107
/-- WSC_ORDER, fault (R239). -/
def Code.wscOrder : BitVec 16 := 0x5108
/-- DEPOT_KEY, fault (R239, R255). -/
def Code.depotKey : BitVec 16 := 0x5109
/-- DIGEST_MISMATCH, fault (R255, R258, R259). -/
def Code.digestMismatch : BitVec 16 := 0x5201
/-- MANIFEST_INVALID, fault (R253). -/
def Code.manifestInvalid : BitVec 16 := 0x5202
/-- COPY_STATE, fault (R254). -/
def Code.copyState : BitVec 16 := 0x5203
/-- WEIGHT_OVERLAP, fault (R254). -/
def Code.weightOverlap : BitVec 16 := 0x5204
/-- RELOAD_FAIL, event (R259). -/
def Code.reloadFail : BitVec 16 := 0x5205
/-- DEPOT_UE, fault (R233, R255). -/
def Code.depotUe : BitVec 16 := 0x5301
/-- DEPOT_TAG_FAIL, fault (R233, R255). -/
def Code.depotTagFail : BitVec 16 := 0x5302
/-- ERASE_AGED, event (R247). -/
def Code.eraseAged : BitVec 16 := 0x5303
/-- WEAR_NEAR, event (R251). -/
def Code.wearNear : BitVec 16 := 0x5304
/-- WEAR_OUT, event (R251). -/
def Code.wearOut : BitVec 16 := 0x5305
/-- PAIR_MISMATCH, event (R279). -/
def Code.pairMismatch : BitVec 16 := 0x6001
/-- SAFE_HOLD_ENTERED, fault (R288). -/
def Code.safeHoldEntered : BitVec 16 := 0x6002
/-- PAIR_RETIRED, event (R280). -/
def Code.pairRetired : BitVec 16 := 0x6003
/-- LOCKSTEP, fault (R286). -/
def Code.lockstep : BitVec 16 := 0x6004
/-- LANE_FAULT, event (R274, R292). -/
def Code.laneFault : BitVec 16 := 0x6005
/-- XPR_DEADLINE, fault (R283). -/
def Code.xprDeadline : BitVec 16 := 0x6006
/-- SPARE_FAULT, event (R280, R284). -/
def Code.spareFault : BitVec 16 := 0x6007
/-- XPR_ARM_FAIL, fault (R271). -/
def Code.xprArmFail : BitVec 16 := 0x6008
/-- XPR_DIGEST, fault (R271). -/
def Code.xprDigest : BitVec 16 := 0x6009
/-- REQ_OVERRUN, event (R275). -/
def Code.reqOverrun : BitVec 16 := 0x600A
/-- NO_SPARE, fault (R281). -/
def Code.noSpare : BitVec 16 := 0x600B
/-- LINK_LOST, fault (R292). -/
def Code.linkLost : BitVec 16 := 0x600C
/-- SBOX_FAULT, fault (R287). -/
def Code.sboxFault : BitVec 16 := 0x600D
/-- CLOCK_DIVERGE, fault (R283). -/
def Code.clockDiverge : BitVec 16 := 0x600E
/-- FW_RESTART, event (R302). -/
def Code.fwRestart : BitVec 16 := 0x7001
/-- VERSION_REJECT, fault (R305). -/
def Code.versionReject : BitVec 16 := 0x7002
/-- FW_HELD, fault (R304). -/
def Code.fwHeld : BitVec 16 := 0x7003
/-- FW_ACCESS, fault (R300). -/
def Code.fwAccess : BitVec 16 := 0x7004
/-- KEY_REFUSED, fault (R315). -/
def Code.keyRefused : BitVec 16 := 0x8101
/-- KEY_UNWRAP_FAIL, fault (R315). -/
def Code.keyUnwrapFail : BitVec 16 := 0x8102
/-- SPDM_AUTH_FAIL, fault (R312). -/
def Code.spdmAuthFail : BitVec 16 := 0x8103
/-- MGT_AUTH_FAIL, event (R321). -/
def Code.mgtAuthFail : BitVec 16 := 0x8201
/-- MGT_IMAGE, fault (R324). -/
def Code.mgtImage : BitVec 16 := 0x8202
/-- MGT_REFUSED, fault (R324). -/
def Code.mgtRefused : BitVec 16 := 0x8203
/-- HOST_LOST, fault (R308). -/
def Code.hostLost : BitVec 16 := 0x9101
/-- PCIE_ECRC, event (R331). -/
def Code.pcieEcrc : BitVec 16 := 0x9102
/-- PEER_DOWN, fault (R339). -/
def Code.peerDown : BitVec 16 := 0x9201
/-- PEER_RETRAIN, event (R339). -/
def Code.peerRetrain : BitVec 16 := 0x9202
/-- WIN_CLOSED_WR, event (R337). -/
def Code.winClosedWr : BitVec 16 := 0x9301
/-- WIN_ACCESS, event (R335, R340). -/
def Code.winAccess : BitVec 16 := 0x9302
/-- WIN_BUSY, fault (R334). -/
def Code.winBusy : BitVec 16 := 0x9303
/-- YARD_CONFIG, fault (R349). -/
def Code.yardConfig : BitVec 16 := 0x9401
/-- PLL_UNLOCK, fault (R367). -/
def Code.pllUnlock : BitVec 16 := 0xA001
/-- THERM_ALERT, event (R368). -/
def Code.thermAlert : BitVec 16 := 0xA101
/-- THERM_THROTTLE, event (R368). -/
def Code.thermThrottle : BitVec 16 := 0xA102
/-- THERM_TRIP, fault (R368). -/
def Code.thermTrip : BitVec 16 := 0xA103
/-- RAIL_FAULT, fault (R367). -/
def Code.railFault : BitVec 16 := 0xA201
/-- BOOT_FAIL, fault (R363). -/
def Code.bootFail : BitVec 16 := 0xA301
/-- BOOTLIST, event (R370). -/
def Code.bootlist : BitVec 16 := 0xA302
/-- LOG_RESET, event (R377). -/
def Code.logReset : BitVec 16 := 0xA303

/-- The codes that are events (R372); every other code is a fault. -/
def eventCodes : List (BitVec 16) :=
  [0x1101, 0x1102, 0x1103, 0x1201, 0x2106, 0x210C, 0x3201, 0x3204, 0x4402, 0x5205] ++
  [0x5303, 0x5304, 0x5305, 0x6001, 0x6003, 0x6005, 0x6007, 0x600A, 0x7001, 0x8201] ++
  [0x9102, 0x9202, 0x9301, 0x9302, 0xA101, 0xA102, 0xA302, 0xA303]

/-- The kind of a code (R372). -/
def isFault (c : BitVec 16) : Bool := !eventCodes.contains c

/-- The class of a code, its high nibble. -/
def codeClass (c : BitVec 16) : Nat := c.toNat / 4096

/-! UNIT values (R374). -/
def unitArray (a : Nat) : Nat := a
def unitPipe (p : Nat) : Nat := 0x0100 + p
def unitCore (c : Nat) : Nat := 0x0200 + c
def unitBank (b : Nat) : Nat := 0x0300 + b
def unitChannel (c : Nat) : Nat := 0x0400 + c
def unitYard (c : Nat) : Nat := 0x0500 + c
def unitDie (d : Nat) : Nat := 0x0600 + d
def unitHost : Nat := 0x0700
def unitPeer : Nat := 0x0701
def unitLaneA : Nat := 0x0702
def unitLaneB : Nat := 0x0703
def unitMgt : Nat := 0x0704
def unitSbox : Nat := 0x0800
def unitNone : Nat := 0xFFFF

/-- 1 ms in the 10 ns units of device time. -/
def ms : Nat := 100000
/-- 1 µs in the same units. -/
def us : Nat := 100

/-- FLAGS of a log entry: fault, tenant valid, tenant (R374). -/
def logFlags (c : BitVec 16) (t : Option Nat) : BitVec 8 :=
  BitVec.ofNat 8 ((if isFault c then 128 else 0) + (match t with | none => 0 | some n => 64 + n % 32))

/-- A TLP that the device sends to the host. -/
def Output.isTlp : Output → Bool
  | .msix _ => true
  | .record _ _ _ _ _ _ _ => true
  | .regRead _ _ => true
  | .cplData _ => true
  | .cplPoison _ => true
  | .cplUnsupported => true
  | .cplAbort => true
  | .aer => true
  | _ => false

/-- What the device sends; with ECRC on, its TLPs carry it (R331). -/
def emit (o : Output) (s : State) : State :=
  { s with out := s.out ++ [if o.isTlp && s.glb.pcie.ecrc then .ecrc o else o] }

/-- A vector is masked, by its own mask bit or the function's (R328, R332). -/
def State.vectorMasked (s : State) (v : Nat) : Bool := s.glb.pcie.msixMasked || s.glb.msixMask.getLsbD v

/-- An MSI-X message, or a pending bit where its vector is masked; nothing while no host is attached (R333), or MSI-X is off. -/
def msix (v : Nat) (s : State) : State :=
  if !s.glb.attached || !s.glb.pcie.msixOn then s
  else if s.vectorMasked v then
    { s with glb := { s.glb with msixPba := s.glb.msixPba ||| BitVec.ofNat 64 (2 ^ v) } }
  else emit (.msix v) s

/-- A new log entry: it overwrites the oldest, and no reader holds it back (R374). -/
def Frc.append (f : Frc) (time : Nat) (c : BitVec 16) (t : Option Nat) (unit arg addr : Nat) : Frc :=
  { f with
    log := sset LogEntry.init f.log (f.logWr.toNat % 1024)
      ⟨BitVec.ofNat 64 time, f.logWr, c, logFlags c t, 0, BitVec.ofNat 16 unit, BitVec.ofNat 16 arg, BitVec.ofNat 64 addr⟩
    held := min 1024 (f.held + 1)
    logWr := f.logWr + 1 }

/-- The class bit, the first fault and the poison counter of an occurrence in the reference cycle `now` (R11, R378). -/
def Frc.count (f : Frc) (now : Nat) (c : BitVec 16) (t : Option Nat) : Frc :=
  let g := if c = Code.uePoison then { f with poison := satAdd f.poison 1 } else f
  if isFault c then
    let bit : BitVec 10 := BitVec.ofNat 10 (2 ^ (codeClass c - 1))
    let h := { g with
      summary := g.summary ||| bit, setTime := now, setBits := if g.setTime = now then g.setBits ||| bit else bit }
    if h.firstValid then h
    else { h with firstValid := true, firstTenant := BitVec.ofNat 5 (t.getD 0), firstCode := c }
  else g

/-- The newest entry takes a new occurrence in when CODE, FLAGS, UNIT and ARG agree, it is at most 1 ms old and its REPEAT is
below 255 (R375). -/
def Frc.coalesces (f : Frc) (time : Nat) (c : BitVec 16) (t : Option Nat) (unit arg : Nat) : Bool :=
  let e := sget LogEntry.init f.log ((f.logWr - 1).toNat % 1024)
  decide (f.held ≠ 0) && e.code == c && e.flags == logFlags c t && e.unit == BitVec.ofNat 16 unit &&
    e.arg == BitVec.ofNat 16 arg && decide (time ≤ e.time.toNat + ms) && decide (e.rep.toNat < 255)

/-- The newest entry's REPEAT raised by one. -/
def Frc.bump (f : Frc) : Frc :=
  { f with log := supd LogEntry.init f.log ((f.logWr - 1).toNat % 1024) (fun e => { e with rep := e.rep + 1 }) }

/-- WIN_FAULT keeps the first window or port code while it is clear: port, window (R351). -/
def noteWin (c : BitVec 16) (port : Bool) (w : Nat) (s : State) : State :=
  if s.win.faultValid then s
  else { s with win := { s.win with
    faultValid := true, faultPort := port, faultWindow := BitVec.ofNat 6 w, faultCode := c } }

/-- The first depot or weights code while WSC_FAULT is clear (R260), the first security code while KEY_FAULT is (R326), the first
port code while WIN_FAULT is (R351): port and window by the log entry's UNIT and ARG. -/
def noteBlock (c : BitVec 16) (t : Option Nat) (unit arg : Nat) (s : State) : State :=
  if codeClass c = 5 ∧ !s.dep.faultValid then { s with dep := { s.dep with faultValid := true, faultCode := c } }
  else if codeClass c = 8 ∧ !s.sec.faultValid then
    { s with sec := { s.sec with faultValid := true, faultTenant := BitVec.ofNat 5 (t.getD 0), faultCode := c } }
  else if codeClass c = 9 then noteWin c (unit == unitPeer || bitAt arg 8) (arg % 64) s
  else s

/-- Recording a code: tenant concerned, unit, ARG, address (R372 to R375). A coalesced occurrence raises no message. -/
def record (c : BitVec 16) (t : Option Nat) (unit arg addr : Nat) (s : State) : State :=
  if s.frc.coalesces s.glb.devTime c t unit arg then
    noteBlock c t unit arg { s with frc := s.frc.bump.count s.glb.devTime c t }
  else msix 0 (noteBlock c t unit arg { s with frc := (s.frc.append s.glb.devTime c t unit arg addr).count s.glb.devTime c t })

/-- The ARG of an instruction's record: the ID of LOADER for what it completes with FW_HELD (R304, R374). -/
def fwArg (c : BitVec 16) : Nat := if c = Code.fwHeld then 0x22 else 0

/-- LOG_RESET, the first entry after each reset: always an entry of its own (R377). -/
def recordReset (s : State) : State :=
  msix 0 { s with frc :=
    (s.frc.append s.glb.devTime Code.logReset none unitNone s.glb.cause.toNat 0).count s.glb.devTime Code.logReset none }

end Sys2Proof.Machine
end

