-- ==== Sys2Proof/Machine/RunPack.lean ====
section
/-! DEFINITION. The run-pack encoding of tensor slots and yard pages (R210 to R213). -/

namespace Sys2Proof.Machine

/-- How often a byte value occurs. -/
def rpCount (bs : Bytes) (v : Byte) : Nat := (bs.filter (· == v)).length

/-- The symbol table: up to 13 values with count 3 or more, by count descending, ties by lower value (R210). -/
def rpTable (bs : Bytes) : Bytes :=
  let vals := ((List.range 256).map (fun v => (rpCount bs (BitVec.ofNat 8 v), v))).filter (fun e => decide (3 ≤ e.1))
  ((vals.mergeSort (fun a b => decide (b.1 < a.1) || (a.1 == b.1 && decide (a.2 ≤ b.2)))).take 13).map
    (fun e => BitVec.ofNat 8 e.2)

/-- The nibbles of the second pass (R210); each token takes at least one byte. -/
def rpTokens (tab : Bytes) : Nat → Byte → Bytes → List Nat
  | 0, _, _ => []
  | _ + 1, _, [] => []
  | n + 1, prev, b :: r =>
    let run := ((b :: r).takeWhile (· == prev)).length
    if 18 ≤ run then
      let k := min run 273
      0xE :: (k - 18) % 16 :: (k - 18) / 16 :: rpTokens tab n prev ((b :: r).drop k)
    else if 2 ≤ run then 0xD :: (run - 2) :: rpTokens tab n prev ((b :: r).drop run)
    else if tab.contains b then tab.idxOf b :: rpTokens tab n b r
    else 0xF :: b.toNat % 16 :: b.toNat / 16 :: rpTokens tab n b r

/-- Nibbles packed low nibble first, an odd last one followed by 0x0. -/
def rpPackNibbles : List Nat → Bytes
  | [] => []
  | [a] => [BitVec.ofNat 8 a]
  | a :: b :: r => BitVec.ofNat 8 (a + 16 * b) :: rpPackNibbles r

/-- The stream of a block under a table. -/
def rpStream (tab bs : Bytes) : Bytes := rpPackNibbles (rpTokens tab bs.length 0 bs)

/-- The nibbles of a stream. -/
def rpNibbles (bs : Bytes) : List Nat := bs.flatMap (fun b => [b.toNat % 16, b.toNat / 16])

/-- Decoding: nibbles left, the byte before, bytes still wanted, bytes so far in reverse. None for a stream that gives more or
fewer bytes than wanted (R213). -/
def rpDecodeGo (tab : Bytes) : Nat → List Nat → Byte → Nat → Bytes → Option Bytes
  | _, _, _, 0, acc => some acc.reverse
  | 0, _, _, _ + 1, _ => none
  | f + 1, l, prev, left + 1, acc =>
    match l with
    | [] => none
    | t :: r =>
      let a := r.getD 0 0
      let b := r.getD 1 0
      if t < 13 then rpDecodeGo tab f r (tab.getD t 0) left (tab.getD t 0 :: acc)
      else if t = 0xE then
        let k := 18 + a + 16 * b
        if k ≤ left + 1 && decide (2 ≤ r.length) then
          rpDecodeGo tab f (r.drop 2) prev (left + 1 - k) (List.replicate k prev ++ acc)
        else none
      else if t = 0xD then
        if a + 2 ≤ left + 1 && decide (1 ≤ r.length) then
          rpDecodeGo tab f r.tail prev (left + 1 - (a + 2)) (List.replicate (a + 2) prev ++ acc)
        else none
      else if decide (2 ≤ r.length) then
        let v := BitVec.ofNat 8 (a + 16 * b)
        rpDecodeGo tab f (r.drop 2) v left (v :: acc)
      else none

/-- The B bytes that a stream stands for. -/
def rpDecode (tab stream : Bytes) (B : Nat) : Option Bytes :=
  rpDecodeGo tab (2 * stream.length + 1) (rpNibbles stream) 0 B []

/-- The bytes of a tensor slot's payload, and of a yard page. -/
def slotPayload : Nat := 4064
def pageBytes : Nat := 4096

/-- A tensor slot's 4,096 bytes from its 4,064 logical bytes (R211). -/
def packSlot (bs : Bytes) : Bytes :=
  let tab := rpTable bs
  let stream := rpStream tab bs
  let head (mode len : Nat) (tab : Bytes) : Bytes :=
    tab ++ List.replicate (13 - tab.length) 0 ++ [BitVec.ofNat 8 tab.length] ++ leBytes 2 len ++ [BitVec.ofNat 8 mode] ++
      List.replicate 15 0
  if bs.all (· == 0) then head 2 0 [] ++ List.replicate slotPayload 0
  else if cdiv stream.length 32 < 127 then
    head 1 stream.length tab ++ stream ++ List.replicate (slotPayload - stream.length) 0
  else head 0 slotPayload [] ++ bs

/-- A tensor slot's logical bytes from its 4,096 stored bytes, each with its poison mark; a slot that cannot be decoded is
poisoned whole (R211, R213, notes/assumptions/18.md). -/
def unpackSlot (sl : List (Byte × Bool)) : List (Byte × Bool) :=
  let head := sl.take 32
  let pay := sl.drop 32
  let hb := head.map (·.1)
  let bad := List.replicate slotPayload ((0 : Byte), true)
  let len := leNat ((hb.drop 14).take 2)
  if head.any (·.2) then bad
  else if hb.getD 16 0 = 0 then pay.take slotPayload
  else if hb.getD 16 0 = 2 then List.replicate slotPayload (0, false)
  else if hb.getD 16 0 = 1 then
    let stream := pay.take len
    if decide (13 < (hb.getD 13 0).toNat) || decide (slotPayload < len) || stream.any (·.2) then bad
    else
      match rpDecode (hb.take 13) (stream.map (·.1)) slotPayload with
      | none => bad
      | some bs => bs.map (fun b => (b, false))
  else bad

/-- Granules of a slot that hold its header and its stored payload. -/
def slotStored (head : Bytes) : Nat :=
  let len := leNat ((head.drop 14).take 2)
  if head.getD 16 0 = 2 then 1 else 1 + min 127 (cdiv len 32)

end Sys2Proof.Machine
end

