-- ==== Sys2Proof/Machine/Num.lean ====
section
/-! DEFINITION. Number formats and exact arithmetic (chapter 2): decoding, exact sums and products, single roundings, and the
conversions of the drain. -/

namespace Sys2Proof.Machine

/-- A floating-point element type (R34): exponent bits, mantissa bits, bias, whether it has infinities, whether it has NaN. -/
structure FpFmt where
  eb : Nat
  mb : Nat
  bias : Int
  hasInf : Bool
  hasNan : Bool
deriving DecidableEq, Repr

def fp32 : FpFmt := ⟨8, 23, 127, true, true⟩
def bf16 : FpFmt := ⟨8, 7, 127, true, true⟩
def fp16 : FpFmt := ⟨5, 10, 15, true, true⟩
def e4m3 : FpFmt := ⟨4, 3, 7, false, true⟩
def e5m2 : FpFmt := ⟨5, 2, 15, true, true⟩
def e3m2 : FpFmt := ⟨3, 2, 3, false, false⟩
def e2m1 : FpFmt := ⟨2, 1, 1, false, false⟩

/-- The exact value of a code (R34). -/
def decodeFp (f : FpFmt) (code : Nat) : Elem :=
  let neg := bitAt code (f.eb + f.mb)
  let e := (code >>> f.mb) % 2 ^ f.eb
  let m := code % 2 ^ f.mb
  if f.hasInf && e == 2 ^ f.eb - 1 then (if m = 0 then .inf neg else .nan)
  else if !f.hasInf && f.hasNan && e == 2 ^ f.eb - 1 && m == 2 ^ f.mb - 1 then .nan
  else if e = 0 then .fin neg m (1 - f.bias - f.mb)
  else .fin neg (2 ^ f.mb + m) ((e : Int) - f.bias - f.mb)

/-- The code of the largest finite magnitude (R34). -/
def maxCode (f : FpFmt) : Nat :=
  if f.hasInf then (2 ^ f.eb - 1) * 2 ^ f.mb - 1
  else if f.hasNan then 2 ^ (f.eb + f.mb) - 2
  else 2 ^ (f.eb + f.mb) - 1

/-- The canonical NaN of a type (R36): positive, the quiet bit alone, or E4M3's all-ones code; E5M2's is 0x7E. -/
def nanCode (f : FpFmt) : Nat :=
  if f.hasInf then (2 ^ f.eb - 1) * 2 ^ f.mb + 2 ^ (f.mb - 1) else 2 ^ (f.eb + f.mb) - 1

/-- The code of infinity, without its sign. -/
def infCode (f : FpFmt) : Nat := (2 ^ f.eb - 1) * 2 ^ f.mb

/-- The exponent of the last place of the type at the magnitude m × 2^e, subnormal spacing included. -/
def lsbExp (f : FpFmt) (m : Nat) (e : Int) : Int :=
  max ((Nat.log2 m : Int) + e) (1 - f.bias) - f.mb

/-- The code, without its sign, of q units of 2^le: exact, and one past the largest code on a carry out of the top. -/
def packMag (f : FpFmt) (q : Nat) (le : Int) : Nat :=
  if q < 2 ^ f.mb then q else ((le + f.mb + f.bias).toNat) * 2 ^ f.mb + (q - 2 ^ f.mb)

/-- m × 2^e, `sticky` telling of a further part below the last bit, as units of 2^le, to nearest with ties to even (R51). -/
def rneUnits (m : Nat) (e le : Int) (sticky : Bool) : Nat :=
  if le ≤ e then m * 2 ^ (e - le).toNat
  else
    let k := (le - e).toNat
    let q := m >>> k
    let r := m % 2 ^ k
    let h := 2 ^ (k - 1)
    if r > h || (r == h && (sticky || q % 2 == 1)) then q + 1 else q

/-- The magnitude m × 2^e rounded to a type's code, to nearest with ties to even; it may lie beyond `maxCode`. -/
def roundMag (f : FpFmt) (m : Nat) (e : Int) (sticky : Bool) : Nat :=
  if m = 0 then 0 else let le := lsbExp f m e; packMag f (rneUnits m e le sticky) le

/-- The magnitude rounded up in the last place when anything is lost (toward +∞ for a positive value, R54, R179). -/
def roundMagUp (f : FpFmt) (m : Nat) (e : Int) (sticky : Bool) : Nat :=
  if m = 0 then (if sticky then 1 else 0) else
    let le := lsbExp f m e
    let k := (le - e).toNat
    let q := if le ≤ e then m * 2 ^ (e - le).toNat else m >>> k
    let lost := (decide (e < le) && m % 2 ^ k != 0) || sticky
    packMag f (if lost then q + 1 else q) le

/-- Stochastic rounding of a magnitude with the draw `r` (R55). -/
def roundMagSr (f : FpFmt) (m : Nat) (e : Int) (r : Nat) : Nat :=
  if m = 0 then 0 else
    let le := lsbExp f m e
    if le ≤ e then packMag f (m * 2 ^ (e - le).toNat) le
    else
      let k := (le - e).toNat
      let q := m >>> k
      let frac := (m % 2 ^ k) * 65536 / 2 ^ k
      packMag f (if frac > r then q + 1 else q) le

/-- A sign put before a magnitude code. -/
def withSign (f : FpFmt) (neg : Bool) (mag : Nat) : Nat := (if neg then 2 ^ (f.eb + f.mb) else 0) + mag

/-- Overflow of a rounded magnitude under R52. -/
def overflowed (f : FpFmt) (sat neg : Bool) (mag : Nat) : Nat :=
  if mag ≤ maxCode f then withSign f neg mag
  else if f.hasInf then (if sat then withSign f neg (maxCode f) else withSign f neg (infCode f))
  else if f.hasNan && !sat then nanCode f
  else withSign f neg (maxCode f)

/-- An exact value converted to a type, to nearest with ties to even (R51 to R53); a poisoned value gives NaN's code, and its
mark travels beside it. -/
def convertTo (f : FpFmt) (sat : Bool) : Elem → Nat
  | .fin neg m e => overflowed f sat neg (roundMag f m e false)
  | .inf neg =>
    if f.hasInf then withSign f neg (infCode f)
    else if f.hasNan && !sat then nanCode f
    else withSign f neg (maxCode f)
  | .nan => nanCode f
  | .poison => nanCode f

/-- An exact value rounded once to FP32 (R49, R76, R107); overflow gives infinity. -/
def toF32 (x : Elem) : Reg32 := BitVec.ofNat 32 (convertTo fp32 false x)

/-- The exact value of an FP32 word. -/
def ofF32 (b : Reg32) : Elem := decodeFp fp32 b.toNat

/-- The canonical FP32 NaN (R36). -/
def f32Nan : Reg32 := 0x7FC00000
def f32One : Reg32 := 0x3F800000
def f32NegInf : Reg32 := 0xFF800000
def f32PosInf : Reg32 := 0x7F800000

def Elem.isNan : Elem → Bool
  | .nan => true
  | _ => false

def Elem.isInf : Elem → Bool
  | .inf _ => true
  | _ => false

def Elem.isZero : Elem → Bool
  | .fin _ m _ => m == 0
  | _ => false

def Elem.isPoison : Elem → Bool
  | .poison => true
  | _ => false

def Elem.sign : Elem → Bool
  | .fin n _ _ => n
  | .inf n => n
  | _ => false

/-- A value with the opposite sign. -/
def eneg : Elem → Elem
  | .fin n m e => .fin (!n) m e
  | .inf n => .inf (!n)
  | x => x

/-- The magnitude of a value. -/
def eabs : Elem → Elem
  | .fin _ m e => .fin false m e
  | .inf _ => .inf false
  | x => x

/-- An integer as a value. -/
def ofInt (z : Int) : Elem := .fin (decide (z < 0)) z.natAbs 0

/-- The signed integer of a mantissa brought to exponent `e0 ≤ e`. -/
def alignTo (neg : Bool) (m : Nat) (e e0 : Int) : Int :=
  let v : Int := (m * 2 ^ (e - e0).toNat : Nat)
  if neg then -v else v

/-- The exact sum (R46, R47). A zero sum is +0 unless both terms are −0, as IEEE 754 has it to nearest. -/
def eadd : Elem → Elem → Elem
  | .poison, _ => .poison
  | _, .poison => .poison
  | .nan, _ => .nan
  | _, .nan => .nan
  | .inf a, .inf b => if a = b then .inf a else .nan
  | .inf a, _ => .inf a
  | _, .inf b => .inf b
  | .fin n1 m1 e1, .fin n2 m2 e2 =>
    let e0 := min e1 e2
    let z := alignTo n1 m1 e1 e0 + alignTo n2 m2 e2 e0
    if z = 0 then .fin (n1 && n2) 0 e0 else .fin (decide (z < 0)) z.natAbs e0

/-- The exact product (R45). -/
def emul : Elem → Elem → Elem
  | .poison, _ => .poison
  | _, .poison => .poison
  | .nan, _ => .nan
  | _, .nan => .nan
  | .inf a, .inf b => .inf (a != b)
  | .inf a, .fin n m _ => if m = 0 then .nan else .inf (a != n)
  | .fin n m _, .inf b => if m = 0 then .nan else .inf (n != b)
  | .fin n1 m1 e1, .fin n2 m2 e2 => .fin (n1 != n2) (m1 * m2) (e1 + e2)

/-- A value times 2^k, exact. -/
def escale (k : Int) : Elem → Elem
  | .fin n m e => .fin n m (e + k)
  | x => x

/-- Exact comparison of two finite or infinite values: −1, 0 or 1. -/
def ecmp : Elem → Elem → Int
  | .inf a, .inf b => if a = b then 0 else if a then -1 else 1
  | .inf a, _ => if a then -1 else 1
  | _, .inf b => if b then 1 else -1
  | .fin n1 m1 e1, .fin n2 m2 e2 =>
    let e0 := min e1 e2
    (alignTo n1 m1 e1 e0 - alignTo n2 m2 e2 e0).sign
  | _, _ => 0

/-- FP32 addition, subtraction, multiplication and fused multiply-add, each with one rounding (R107). -/
def fadd (a b : Reg32) : Reg32 := toF32 (eadd (ofF32 a) (ofF32 b))
def fsub (a b : Reg32) : Reg32 := toF32 (eadd (ofF32 a) (eneg (ofF32 b)))
def fmul (a b : Reg32) : Reg32 := toF32 (emul (ofF32 a) (ofF32 b))
def ffma (a b c : Reg32) : Reg32 := toF32 (eadd (emul (ofF32 a) (ofF32 b)) (ofF32 c))

/-- The larger of two values, NaN if either is NaN, +0 above −0 (R107; notes/assumptions/17.md). -/
def fmax (a b : Reg32) : Reg32 :=
  let x := ofF32 a
  let y := ofF32 b
  if x.isNan || y.isNan then f32Nan
  else
    let c := ecmp x y
    if c > 0 then a else if c < 0 then b else if x.sign then b else a

/-- The smaller of two values, NaN if either is NaN, −0 below +0. -/
def fmin (a b : Reg32) : Reg32 :=
  let x := ofF32 a
  let y := ofF32 b
  if x.isNan || y.isNan then f32Nan
  else
    let c := ecmp x y
    if c < 0 then a else if c > 0 then b else if x.sign then a else b

/-- The quotient of two magnitudes to more bits than any type keeps, with what is lost below. -/
def quotMag (m1 : Nat) (e1 : Int) (m2 : Nat) (e2 : Int) : Nat × Int × Bool :=
  let k := 72 + Nat.log2 m2
  let n := m1 * 2 ^ k
  (n / m2, e1 - e2 - k, n % m2 != 0)

/-- The quotient of two values rounded once to FP32 (R76, R171, R172). -/
def ediv (x y : Elem) : Reg32 :=
  match x, y with
  | .poison, _ => f32Nan
  | _, .poison => f32Nan
  | .nan, _ => f32Nan
  | _, .nan => f32Nan
  | .inf _, .inf _ => f32Nan
  | .inf a, .fin n _ _ => toF32 (.inf (a != n))
  | .fin n _ _, .inf b => toF32 (.fin (n != b) 0 0)
  | .fin n1 m1 e1, .fin n2 m2 e2 =>
    if m2 = 0 then (if m1 = 0 then f32Nan else toF32 (.inf (n1 != n2)))
    else
      let (q, e, st) := quotMag m1 e1 m2 e2
      BitVec.ofNat 32 (overflowed fp32 false (n1 != n2) (roundMag fp32 q e st))

def fdiv (a b : Reg32) : Reg32 := ediv (ofF32 a) (ofF32 b)

/-- VRCP: the correctly rounded reciprocal (R107). -/
def frcp (a : Reg32) : Reg32 := ediv (.fin false 1 0) (ofF32 a)

/-- VRSQRT: the correctly rounded reciprocal square root (R107): 1/√(m × 2^e) from the integer square root of 2^(2K) ÷ m. -/
def frsqrt (a : Reg32) : Reg32 :=
  match ofF32 a with
  | .nan => f32Nan
  | .poison => f32Nan
  | .inf n => if n then f32Nan else 0
  | .fin n m e =>
    if m = 0 then toF32 (.inf n)
    else if n then f32Nan
    else
      let m' := if e % 2 = 0 then m else 2 * m
      let e' := if e % 2 = 0 then e else e - 1
      let K := 64 + Nat.log2 m'
      let r := Nat.sqrt (2 ^ (2 * K) / m')
      BitVec.ofNat 32 (roundMag fp32 r (-(K : Int) - e' / 2) (r * r * m' != 2 ^ (2 * K)))

/-- An FP32 value rounded to BF16, to nearest with ties to even (R103, R170); NaN becomes 0x7FC0. -/
def toBf16 (a : Reg32) : Nat := convertTo bf16 false (ofF32 a)

/-- An exact value rounded to BF16 and read again. -/
def rneBf16 (x : Elem) : Elem := decodeFp bf16 (convertTo bf16 false x)

/-- num ÷ den rounded to the nearest integer, ties to even. -/
def rneDiv (num den : Nat) : Nat :=
  let q := num / den
  let r := num % den
  if 2 * r > den || (2 * r == den && q % 2 == 1) then q + 1 else q

/-- The value x ÷ y rounded to the nearest integer and held within ±limit (R51, R52, R54). -/
def divToInt (limit : Nat) (x y : Elem) : Int :=
  match x, y with
  | .fin n1 m1 e1, .fin n2 m2 e2 =>
    if m2 = 0 then 0 else
    let d := e1 - e2
    let q := if 0 ≤ d then rneDiv (m1 * 2 ^ d.toNat) m2 else rneDiv m1 (m2 * 2 ^ (-d).toNat)
    let q := min q limit
    if n1 != n2 then -(q : Int) else q
  | .inf n, _ => if n then -(limit : Int) else limit
  | _, _ => 0

/-- ⌊log₂⌋ of a non-zero finite magnitude. -/
def floorLog2 : Elem → Int
  | .fin _ m e => (Nat.log2 m : Int) + e
  | _ => 0

/-- The larger magnitude of two finite values. -/
def maxMag (x y : Elem) : Elem := if ecmp (eabs x) (eabs y) < 0 then eabs y else eabs x

end Sys2Proof.Machine
end

