-- ==== Sys2Proof/Machine/Trans.lean ====
section
/-! DEFINITION. The correctly rounded real functions: exp2 (R107, R171), SILU, GELU and SOFTCAP (R76, R382), sine and cosine
(R169). Each is enclosed between two dyadic numbers with growing precision until both ends round to the same FP32 value; an
argument undecided at the last precision would give an open value (notes/assumptions/10.md). -/

namespace Sys2Proof.Machine

/-- Precisions tried, in bits. -/
def precisions : List Nat := [64, 128, 256, 512]

/-- ln 2 in units of 2^−W, from Σ 1 ÷ (k × 2^k), each term rounded down. -/
def lnTwo (W : Nat) : Nat :=
  (List.range (W + 8)).foldl (fun s k => s + 2 ^ W / ((k + 1) * 2 ^ (k + 1))) 0

/-- arctan(1 ÷ q) in units of 2^−W. -/
def atanInv (W q : Nat) : Int :=
  (List.range (W / 4 + 8)).foldl
    (fun s i =>
      let t : Int := (2 ^ W / ((2 * i + 1) * q ^ (2 * i + 1)) : Nat)
      if i % 2 = 0 then s + t else s - t) 0

/-- π in units of 2^−W, by Machin's formula. -/
def piFix (W : Nat) : Int := 16 * atanInv W 5 - 4 * atanInv W 239

/-- Σ r^k ÷ k! over `n` more terms; `t` is the present term. -/
def taylorLoop (W r : Nat) : Nat → Nat → Nat → Nat → Nat
  | 0, _, _, s => s
  | n + 1, k, t, s =>
    let t' := t * r / 2 ^ W / k
    taylorLoop W r n (k + 1) t' (s + t')

/-- The guard bits of an enclosure: every rounding error below stays under 2^26 units. -/
def guardBits : Nat := 48

/-- e^z for z in units of 2^−W: mantissa in units of 2^−W and binary exponent. -/
def expFix (W : Nat) (z : Int) : Nat × Int :=
  let l : Int := (lnTwo W : Nat)
  let n := z.fdiv l
  let r := (z - n * l).toNat
  (taylorLoop W r (W / 4 + 24) 1 (2 ^ W) (2 ^ W), n)

/-- An enclosure of e^z when z lies between two values: lower mantissa and exponent, upper mantissa and exponent. -/
def expEncl (W : Nat) (zl zh : Int) : (Nat × Int) × (Nat × Int) :=
  let a := expFix W zl
  let b := expFix W zh
  ((a.1 - 2 ^ 26, a.2), (b.1 + 2 ^ 26, b.2))

/-- A value m × 2^e as a floor in units of 2^−W. -/
def toFix (W : Nat) (neg : Bool) (m : Nat) (e : Int) : Int :=
  let k := e + W
  let v : Int := if 0 ≤ k then (m * 2 ^ k.toNat : Nat) else (m / 2 ^ (-k).toNat : Nat)
  if neg then -v - 1 else v

/-- The search: the first precision at which both ends of the enclosure round alike. An enclosure is lower mantissa, upper
mantissa and exponent of the magnitude. -/
def decideMag (neg : Bool) (undecided : Reg32) (encl : Nat → Nat × Nat × Int) : List Nat → Reg32
  | [] => undecided
  | p :: rest =>
    let (lo, hi, e) := encl p
    let a := roundMag fp32 lo e false
    let b := roundMag fp32 hi e false
    if a = b then BitVec.ofNat 32 (overflowed fp32 false neg a) else decideMag neg undecided encl rest

/-- VEXP2 and exp2 (R107, R171): 2^x, correctly rounded. -/
def fexp2 (a : Reg32) : Reg32 :=
  match ofF32 a with
  | .nan => f32Nan
  | .poison => f32Nan
  | .inf n => if n then 0 else f32PosInf
  | .fin neg m e =>
    let n := (toFix 0 neg m e)
    if m = 0 then f32One
    else if 0 ≤ e || m % 2 ^ (-e).toNat = 0 then
      -- an integer argument: an exact power of two
      let k : Int := if 0 ≤ e then (if e < 12 then (m * 2 ^ e.toNat : Nat) else 4096) else (m / 2 ^ (-e).toNat : Nat)
      let k := if neg then -k else k
      if k > 128 then f32PosInf else if k < -160 then 0
      else BitVec.ofNat 32 (overflowed fp32 false false (roundMag fp32 1 k false))
    else if n > 128 then f32PosInf
    else if n < -160 then 0
    else
      -- x = n + f with f = F ÷ 2^k
      let k := (-e).toNat
      let F := ((if neg then -(m : Int) else m) - n * (2 ^ k : Nat)).toNat
      decideMag false (Config.realUndecided 0 a 0)
        (fun p =>
          let W := p + guardBits
          let z : Int := (F * lnTwo W / 2 ^ k : Nat)
          let r := taylorLoop W z.toNat (W / 4 + 24) 1 (2 ^ W) (2 ^ W)
          (r - 2 ^ 26, r + 2 ^ 26, n - W)) precisions

/-- An enclosure of |x| ÷ (1 + e^−z) for x of the sign of z, z between zl and zh in units of 2^−W. -/
def logisticEncl (W m : Nat) (e zl zh : Int) : Nat × Nat × Int :=
  if 0 ≤ zl then
    let ((sl, nl), (sh, nh)) := expEncl W (-zh) (-zl)
    let lo := 2 ^ W + sl / 2 ^ (-nl).toNat
    let hi := 2 ^ W + sh * 2 ^ nh.toNat / 2 ^ (-nh).toNat + 1
    (m * 2 ^ (2 * W) / hi, m * 2 ^ (2 * W) / lo + 1, e - W)
  else
    let ((sl, nl), (sh, nh)) := expEncl W zl zh
    -- s ÷ (1 + s), s = mantissa × 2^(n − W) with n at most 0; both ends in units of 2^(nl − 2W)
    let dl := 2 ^ W + sl * 2 ^ nl.toNat / 2 ^ (-nl).toNat
    let dh := 2 ^ W + sh * 2 ^ nh.toNat / 2 ^ (-nh).toNat + 1
    (m * sl * 2 ^ (2 * W) / dh, m * sh * 2 ^ (nh - nl).toNat * 2 ^ (2 * W) / dl + 1, e + nl - 2 * W)

/-- SILU: x ÷ (1 + e^−x) (R76, R382). -/
def fsilu (a : Reg32) : Reg32 :=
  match ofF32 a with
  | .nan => f32Nan
  | .poison => f32Nan
  | .inf n => if n then 0x80000000 else f32PosInf
  | .fin neg m e =>
    if m = 0 then a
    else if (Nat.log2 m : Int) + e > 9 then (if neg then 0x80000000 else a)
    else decideMag neg (Config.realUndecided 1 a 0)
      (fun p => let W := p + guardBits
                let z := toFix W neg m e
                logisticEncl W m e z (z + 1)) precisions

/-- √(2 ÷ π) in units of 2^−W, rounded down. -/
def sqrtTwoOverPi (W : Nat) : Nat := Nat.sqrt (2 * 2 ^ (3 * W) / ((piFix W).toNat + 2 ^ 12))

/-- GELU: 0.5 x (1 + tanh(√(2/π) (x + 0.044715 x³))), that is x ÷ (1 + e^−2y) (R76, R382). -/
def fgelu (a : Reg32) : Reg32 :=
  match ofF32 a with
  | .nan => f32Nan
  | .poison => f32Nan
  | .inf n => if n then 0x80000000 else f32PosInf
  | .fin neg m e =>
    if m = 0 then a
    else if (Nat.log2 m : Int) + e > 4 then (if neg then 0x80000000 else a)
    else decideMag neg (Config.realUndecided 2 a 0)
      (fun p =>
        let W := p + guardBits
        -- |x| + 0.044715 |x|³ in units of 2^−W, between u and u + 4
        let x1 := (toFix W false m e).toNat
        let x3 := (toFix W false (m ^ 3) (3 * e)).toNat
        let u : Nat := x1 + x3 * 44715 / 1000000
        let c := sqrtTwoOverPi W
        let yl : Nat := 2 * u * c / 2 ^ W
        let yh : Nat := 2 * (u + 4) * (c + 2 ^ 16) / 2 ^ W + 1
        let zl : Int := if neg then -(yh : Int) else (yl : Int)
        let zh : Int := if neg then -(yl : Int) else (yh : Int)
        logisticEncl W m e zl zh) precisions

/-- SOFTCAP: c × tanh(x ÷ c) (R76, R382). For |x ÷ c| below 2^−13 the cubic term lies under half a unit in the last place of x,
and x is the result. -/
def fsoftcap (x c : Reg32) : Reg32 :=
  match ofF32 x, ofF32 c with
  | .fin nx mx ex, .fin _ mc ec =>
    if mx = 0 || mc = 0 then toF32 (.fin nx 0 0)
    else
      let top : Int := ((Nat.log2 mx : Int) + ex) - ((Nat.log2 mc : Int) + ec)
      if top < -14 then x
      else if top > 9 then toF32 (.fin nx mc ec)
      else decideMag nx (Config.realUndecided 3 x c)
        (fun p =>
          let W := p + guardBits
          -- 2t in units of 2^−W
          let d := ex - ec + W + 1
          let t := if 0 ≤ d then mx * 2 ^ d.toNat / mc else mx / (mc * 2 ^ (-d).toNat)
          let ((sl, nl), (sh, nh)) := expEncl W (-((t : Int) + 1)) (-(t : Int))
          let el := sl / 2 ^ (-nl).toNat
          let eh := sh * 2 ^ nh.toNat / 2 ^ (-nh).toNat + 1
          let lo := mc * (2 ^ W - eh) * 2 ^ W / (2 ^ W + eh)
          let hi := mc * (2 ^ W - el) * 2 ^ W / (2 ^ W + el) + 1
          (lo, hi, ec - W)) precisions
  | .nan, _ => f32Nan
  | _, .nan => f32Nan
  | .poison, _ => f32Nan
  | _, .poison => f32Nan
  | .inf n, .fin _ mc ec => toF32 (.fin n mc ec)
  | _, .inf _ => x

/-- Terms of the sine or cosine series in units of 2^−W, alternating: `t` the present term, `k` its order. -/
def trigLoop (W r2 : Nat) : Nat → Nat → Nat → Bool → Int → Int
  | 0, _, _, _, s => s
  | n + 1, k, t, neg, s =>
    let t' := t * r2 / 2 ^ W / ((k + 1) * (k + 2))
    trigLoop W r2 n (k + 2) t' (!neg) (if neg then s - t' else s + t')

/-- sin (`cosine = false`) or cos of m × 2^e in units of 2^−W, after reduction by multiples of π ÷ 2. -/
def trigFix (cosine neg : Bool) (m : Nat) (e : Int) (W : Nat) : Int :=
  let V := W + 160
  let x := toFix V false m e
  let hp := piFix V / 2
  let q := (x + hp / 2) / hp
  let r := (x - q * hp) / (2 ^ 160 : Nat)
  let a := r.natAbs
  let r2 := a * a / 2 ^ W
  let s := trigLoop W r2 (W / 8 + 16) 1 a true a
  let s := if r < 0 then -s else s
  let c := trigLoop W r2 (W / 8 + 16) 0 (2 ^ W) true (2 ^ W : Nat)
  let quad := (q % 4).toNat
  if cosine then
    (match quad with | 0 => c | 1 => -s | 2 => -c | _ => s)
  else
    let v := match quad with | 0 => s | 1 => c | 2 => -s | _ => -c
    if neg then -v else v

/-- The correctly rounded sine or cosine of an FP32 angle (R169). -/
def ftrig (cosine : Bool) (a : Reg32) : Reg32 :=
  match ofF32 a with
  | .nan => f32Nan
  | .poison => f32Nan
  | .inf _ => f32Nan
  | .fin neg m e =>
    if m = 0 then (if cosine then f32One else a)
    else if (Nat.log2 m : Int) + e < -14 then (if cosine then f32One else a)
    else
      let sgn := decide (trigFix cosine neg m e (64 + guardBits) < 0)
      decideMag sgn (Config.realUndecided (if cosine then 5 else 4) a 0)
        (fun p => let W := p + guardBits
                  let v := (trigFix cosine neg m e W).natAbs
                  (v - 2 ^ 26, v + 2 ^ 26, -(W : Int))) precisions

def fsin (a : Reg32) : Reg32 := ftrig false a
def fcos (a : Reg32) : Reg32 := ftrig true a

end Sys2Proof.Machine
end

