-- ==== Sys2Proof/Machine/Operands.lean ====
section
/-! DEFINITION. Operand forms: the storage formats and their expansion, the row conversion of the drain, the rounding generator
(chapter 2), memories of bytes with poison marks (R65, R84). -/

namespace Sys2Proof.Machine

/-! ## Bytes with poison marks -/

/-- A byte and whether its 64-bit word reads as uncorrectable (R84). -/
abbrev MByte := Byte × Bool

/-- Bytes of a memory with their marks. -/
def getMarked (m : List Host.Cell) (p : Store Bool) (a n : Nat) : List MByte :=
  (List.range n).map (fun i => (sget 0 m (a + i), sget false p ((a + i) / 8)))

/-- Bytes written to a memory. -/
def putBytes (m : List Host.Cell) (a : Nat) (l : List MByte) : List Host.Cell := ssetRun 0 m a (l.map (·.1))

/-- The mark of word `w` after a write of `l` at `a`: set by a marked byte, cleared by a whole clean write, else as it was. -/
def markAfter (p : Store Bool) (a : Nat) (l : List MByte) (w : Nat) : Bool :=
  let part := (l.drop (8 * w - a)).take (8 * w + 8 - max a (8 * w))
  part.any (·.2) || (decide (part.length < 8) && sget false p w)

/-- The marks after a write. -/
def putMarks (p : Store Bool) (a : Nat) (l : List MByte) : Store Bool :=
  if l.isEmpty then p else
    (List.range ((a + l.length - 1) / 8 + 1 - a / 8)).foldl
      (fun q i => sset false q (a / 8 + i) (markAfter p a l (a / 8 + i))) p

/-- Words marked as uncorrectable. -/
def markWords (p : Store Bool) (addrs : List Nat) : Store Bool := addrs.foldl (fun q a => sset false q (a / 8) true) p

/-! ## Formats -/

/-- A storage format: element bits, block size, side bytes per block (R29). -/
structure Fmt where
  bits : Nat
  block : Nat
  side : Nat
deriving DecidableEq, Repr

/-- The format table (R29); INT8's channel scales are no block side value (R31). -/
def fmtTable : List Fmt :=
  [⟨32, 0, 0⟩, ⟨16, 0, 0⟩, ⟨16, 0, 0⟩, ⟨8, 0, 0⟩, ⟨8, 0, 0⟩, ⟨6, 32, 1⟩, ⟨4, 32, 1⟩, ⟨8, 0, 0⟩] ++
  [⟨4, 64, 2⟩, ⟨3, 128, 8⟩, ⟨2, 128, 4⟩, ⟨2, 64, 2⟩]

def fmtOf (c : Nat) : Fmt := fmtTable.getD c ⟨8, 0, 0⟩

/-- Codes 0xC to 0xF are reserved (R30). -/
def fmtReserved (c : Nat) : Bool := decide (12 ≤ c)

/-- The rate class: 0 Q, 1 O, 2 H, 3 FP32 (R29, R44). -/
def classOf (fmt : Nat) (q : Bool) : Nat :=
  if fmt = 0 then 3 else if fmt = 1 ∨ fmt = 2 then 2
  else if fmt = 6 ∨ fmt = 8 ∨ fmt = 11 ∨ (fmt = 10 ∧ q) then 0 else 1

/-- A-cycles per K-step of a class (R59). -/
def kstepCycles (cls : Nat) : Nat := [32, 64, 128, 512].getD cls 512

/-- The floating-point element type of a format, where its codes are one (R34). -/
def elemFp : Nat → FpFmt
  | 0 => fp32
  | 1 => bf16
  | 2 => fp16
  | 3 => e4m3
  | 4 => e5m2
  | 5 => e3m2
  | _ => e2m1

/-- The expanded value of one code under its block's side value (R34, R39 to R42, R46); the MX scale is kept aside (R60). -/
def expandCode (fmt code : Nat) (side : Bytes) : Elem :=
  if fmt ≤ 6 then decodeFp (elemFp fmt) code
  else if fmt = 7 then ofInt (signed 8 code)
  else if fmt = 8 then emul (ofInt (signed 4 code)) (decodeFp bf16 (leNat side))
  else if fmt = 11 then
    (if code = 2 then .poison
     else emul (ofInt (if code = 1 then 1 else if code = 3 then -1 else 0)) (decodeFp bf16 (leNat side)))
  else decodeFp e4m3 (side.getD code 0).toNat

/-- The shared exponent of an MX block; none for the scale 0xFF, which poisons it (R37, R38). -/
def mxExp (fmt : Nat) (side : Bytes) : Option Int :=
  if fmt = 5 ∨ fmt = 6 then
    (if side.getD 0 0 = 0xFF then none else some (((side.getD 0 0).toNat : Int) - 127))
  else some 0

/-- Every codebook entry of a K2 block read under a Q mark is one of the sixteen E2M1 values (R44). -/
def k2AllE2m1 (side : Bytes) : Bool :=
  side.all (fun b =>
    match decodeFp e4m3 b.toNat with
    | .fin n m e => (List.range 16).any (fun c =>
        match decodeFp e2m1 c with
        | .fin n' m' e' => ecmp (.fin n m e) (.fin n' m' e') == 0
        | _ => false)
    | _ => false)

/-- Code `i` of a little-endian element stream of width `w` (R32). -/
def streamCode (w : Nat) (v i : Nat) : Nat := (v >>> (w * i)) % 2 ^ w

/-- One K-step of one row: its 4w element bytes, how many of its 32 codes are in extent, and its block's side bytes, expanded.
A marked byte poisons the elements it holds bits of, a marked side byte all of them (R33, R65). -/
def expandKstep (fmt : Nat) (codes : List MByte) (nIn : Nat) (side : List MByte) : PlatRow :=
  let w := (fmtOf fmt).bits
  let v := leNat (codes.map (·.1))
  let sb := side.map (·.1)
  let whole := side.any (·.2)
  match mxExp fmt sb with
  | none => ⟨(List.range 32).map (fun i => if i < nIn then .poison else .fin false 0 0), 0⟩
  | some e =>
    ⟨(List.range 32).map (fun i =>
      if nIn ≤ i then .fin false 0 0
      else if whole || ((codes.drop (w * i / 8)).take ((w * i + w - 1) / 8 + 1 - w * i / 8)).any (·.2) then .poison
      else expandCode fmt (streamCode w v i) sb), e⟩

/-! ## The rounding generator -/

/-- One step of the xorshift (R55). -/
def xorshift (x : BitVec 64) : BitVec 64 :=
  let a := x ^^^ (x <<< 13)
  let b := a ^^^ (a >>> 7)
  b ^^^ (b <<< 17)

/-- `n` steps' draws, four a step, the low bits first, and the state after them. -/
def rngDraws : Nat → BitVec 64 → List Nat × BitVec 64
  | 0, x => ([], x)
  | n + 1, x =>
    let y := xorshift x
    let r := rngDraws n y
    ((List.range 4).map (fun i => (y.toNat >>> (16 * i)) % 65536) ++ r.1, r.2)

/-- The state at a descriptor boundary (R55). -/
def reseed (seed : BitVec 64) (array : Nat) (dseq : Reg32) : BitVec 64 :=
  let s := seed ^^^ BitVec.ofNat 64 (array * 2 ^ 56) ^^^ dseq.setWidth 64
  if s = 0 then rngSeed else s

/-! ## Conversion of a drain row -/

/-- What a drained row becomes: element-plane bytes and side bytes from the row's start, each with its mark, and how many
poison markers stand among them. -/
structure RowOut where
  elems : List MByte
  side : List MByte
  markers : Nat
deriving DecidableEq, Repr

/-- An element type's code of a value, divided by 2^k, rounded to nearest or by a draw (R51, R52, R55). -/
def convertElem (f : FpFmt) (sat : Bool) (draw : Option Nat) (k : Int) (x : Elem) : Nat :=
  match x with
  | .fin neg m e =>
    overflowed f sat neg
      (match draw with
       | none => roundMag f m (e - k) false
       | some r => roundMagSr f m (e - k) r)
  | y => convertTo f sat y

/-- Bits packed as a little-endian stream of bytes (R32). -/
def packCodes (w : Nat) (codes : List Nat) : Bytes :=
  leBytes (w * codes.length / 8) (codes.zipIdx.foldl (fun v c => v + c.1 <<< (w * c.2)) 0)

/-- The largest finite magnitude of values that are not poisoned. -/
def amaxOf (xs : List Elem) : Elem :=
  xs.foldl (fun a x => match x with | .fin _ m e => maxMag a (.fin false m e) | _ => a) (.fin false 0 0)

/-- A byte of an element stream of width `w` that holds bits of a poisoned element carries the poison syndrome (R84). -/
def poisonByte (w : Nat) (vals : List Elem) (b : Nat) : Bool :=
  vals.zipIdx.any (fun x => x.1.isPoison && decide (w * x.2 / 8 ≤ b) && decide (b ≤ (w * x.2 + w - 1) / 8))

/-- The codes of a block of `n` elements as bytes, each with its mark. -/
def markedCodes (w n : Nat) (vals : List Elem) (codes : List Nat) : List MByte :=
  (packCodes w (codes ++ List.replicate (n - codes.length) 0)).zipIdx.map (fun b => (b.1, poisonByte w vals b.2))

/-- The scale code that the elements of an MX block give that are not poisoned, and the codes under it; a NaN or an infinity among
them gives 0xFF, zeros give 0x00, each with zero codes. A poisoned element's code is zero (R52 to R54; DESIGN CHOICE,
notes/assumptions/52.md). -/
def mxCodes (fmt : Nat) (sat : Bool) (xs : List (Elem × Option Nat)) : Nat × List Nat :=
  let good := (xs.map (·.1)).filter (fun x => !x.isPoison)
  let a := amaxOf good
  if good.any (fun x => x.isNan || x.isInf) then (0xFF, [])
  else if a.isZero then (0, [])
  else
    let emax : Int := if fmt = 6 then 2 else 4
    let sc := max 0 (min 254 (floorLog2 a - emax + 127))
    (sc.toNat, xs.map (fun x =>
      let c : Nat := if x.1.isPoison then 0 else convertElem (elemFp fmt) sat x.2 (sc - 127) x.1
      if c % 2 ^ ((fmtOf fmt).bits - 1) = 0 then 0 else c))

/-- One MX block: its in-extent values and draws, padded to 32 codes; element bytes and scale. Poisoned elements take no part in
the scale, stand marked, and the scale written over the block is then 0xFF (R52 to R54, R84). -/
def convertMx (fmt : Nat) (sat : Bool) (xs : List (Elem × Option Nat)) : List MByte × MByte × Nat :=
  let vals := xs.map (·.1)
  let markers := (vals.filter Elem.isPoison).length
  let q := mxCodes fmt sat xs
  (markedCodes (fmtOf fmt).bits 32 vals q.2, (if markers = 0 then BitVec.ofNat 8 q.1 else 0xFF, false), markers)

/-- One INT4 group (R39, R53, R54). -/
def convertInt4 (vals : List Elem) : List MByte × List MByte × Nat :=
  let markers := (vals.filter Elem.isPoison).length
  let good := vals.filter (fun x => !x.isPoison)
  let out (codes : List Nat) (sc : Nat) : List MByte × List MByte × Nat :=
    (markedCodes 4 64 vals codes, (leBytes 2 sc).map (fun b => (b, false)), markers)
  if good.any (fun x => x.isNan || x.isInf) then out [] (nanCode bf16)
  else
    match amaxOf good with
    | .fin _ m e =>
      if m = 0 then out [] 0
      else
        let (q, qe, st) := quotMag m e 7 0
        let sc := roundMagUp bf16 q qe st
        out (vals.map (fun x => if x.isPoison then 0 else ((divToInt 7 x (decodeFp bf16 sc)) % 16).toNat)) sc
    | _ => out [] 0

/-- A drained row in its output format: the in-extent values (R82), SAT, a draw for each, and the exponent of the dynamic
scale (R50 to R57). An INT8 row's NaN becomes code zero; its channel's scale is the side plane's (R53). -/
def convertRow (fmt : Nat) (sat : Bool) (ds : Option Int) (xs : List (Elem × Option Nat)) : RowOut :=
  if fmt = 5 ∨ fmt = 6 then
    let blocks := (chunks2 xs).map (convertMx fmt sat)
    ⟨blocks.flatMap (·.1), blocks.map (·.2.1), (blocks.map (·.2.2)).sum⟩
  else if fmt = 8 then
    let (e, s, n) := convertInt4 (xs.map (·.1))
    ⟨e, s, n⟩
  else
    let w := (fmtOf fmt).bits / 8
    let k : Int := match ds with | some s => -s | none => 0
    ⟨xs.flatMap (fun x =>
        (leBytes w (if x.1.isPoison then 0
          else if fmt = 7 then ((divToInt 127 x.1 (.fin false 1 0)) % 256).toNat
          else convertElem (elemFp fmt) (sat || ds.isSome) x.2 k x.1)).map (fun b => (b, x.1.isPoison))),
     [], (xs.filter (fun x => x.1.isPoison)).length⟩
where
  /-- a row's blocks of 32 -/
  chunks2 (l : List (Elem × Option Nat)) : List (List (Elem × Option Nat)) :=
    if l.length ≤ 32 then [l] else [l.take 32, l.drop 32]

end Sys2Proof.Machine
end

