-- ==== Sys2Proof/Machine/Bundle.lean ====
section
/-! DEFINITION. The fields of a bundle and of a timetable image, and the checks at load (R87, R91, R119). -/

namespace Sys2Proof.Machine

/-! ## Slots of a bundle (R91) -/

def bHead (b : Nat) : Nat := bitsOf b 255 240
def bL (b : Nat) : Nat := bitsOf b 239 176
def bM (b : Nat) : Nat := bitsOf b 175 128
def bV (b : Nat) : Nat := bitsOf b 127 80
def bD (b : Nat) : Nat := bitsOf b 79 32
def bC (b : Nat) : Nat := bitsOf b 31 0

def hLen (b : Nat) : Nat := bitsOf (bHead b) 15 7
def hStop (b : Nat) : Bool := bitAt (bHead b) 6
def hPneg (b : Nat) : Bool := bitAt (bHead b) 5
def hPred (b : Nat) : Nat := bitsOf (bHead b) 4 0

/-! Load slot (R99, R101, R103). -/
def lOp (b : Nat) : Nat := bitsOf (bL b) 63 60
def lSide (b : Nat) : Nat := bitsOf (bL b) 59 59
def lBuf (b : Nat) : Nat := bitsOf (bL b) 58 58
def lExp (b : Nat) : Bool := bitAt (bL b) 57
def lInc (b : Nat) : Bool := bitAt (bL b) 56
def lFmt (b : Nat) : Nat := bitsOf (bL b) 55 52
def lQuad (b : Nat) : Nat := bitsOf (bL b) 51 49
def lPstep (b : Nat) : Nat := bitsOf (bL b) 48 45
def lNk (b : Nat) : Nat := bitsOf (bL b) 44 41 + 1
def lRows (b : Nat) : Nat := bitsOf (bL b) 40 34 + 1
def lKlast (b : Nat) : Nat := bitsOf (bL b) 33 29 + 1
def lQm (b : Nat) : Bool := bitAt (bL b) 28
def lSreg (b : Nat) : Nat := bitsOf (bL b) 59 55
def lCreg (b : Nat) : Nat := bitsOf (bL b) 54 50
def lLen (b : Nat) : Nat := bitsOf (bL b) 49 34 + 1
def lMoveInc (b : Nat) : Bool := bitAt (bL b) 33
def lVreg (b : Nat) : Nat := bitsOf (bL b) 59 55
def lAreg (b : Nat) : Nat := bitsOf (bL b) 54 50
def lVfmt (b : Nat) : Nat := bitsOf (bL b) 49 46

/-! Matrix slot (R105). -/
def mOp (b : Nat) : Nat := bitsOf (bM b) 47 44
def mTile (b : Nat) : Nat := bitsOf (bM b) 43 41
def mAbuf (b : Nat) : Nat := bitsOf (bM b) 40 40
def mBbuf (b : Nat) : Nat := bitsOf (bM b) 39 39
def mAfmt (b : Nat) : Nat := bitsOf (bM b) 38 35
def mBfmt (b : Nat) : Nat := bitsOf (bM b) 34 31
def mAq (b : Nat) : Bool := bitAt (bM b) 30
def mBq (b : Nat) : Bool := bitAt (bM b) 29
def mApstep (b : Nat) : Nat := bitsOf (bM b) 28 26
def mBpstep (b : Nat) : Nat := bitsOf (bM b) 25 22
def mNk (b : Nat) : Nat := bitsOf (bM b) 21 19 + 1

/-! Vector slot (R107). -/
def vOp (b : Nat) : Nat := bitsOf (bV b) 47 42
def vD (b : Nat) : Nat := bitsOf (bV b) 41 37
def vA (b : Nat) : Nat := bitsOf (bV b) 36 32
def vB (b : Nat) : Nat := bitsOf (bV b) 31 27
def vImm (b : Nat) : Nat := bitsOf (bV b) 23 0
/-- The immediate sign-extended to 32 bits. -/
def vImmS (b : Nat) : Reg32 := BitVec.ofInt 32 (signed 24 (vImm b))

/-! Drain slot (R109). -/
def dOp (b : Nat) : Nat := bitsOf (bD b) 47 44
def dTile (b : Nat) : Nat := bitsOf (bD b) 43 41
def dChain (b : Nat) : Nat := bitsOf (bD b) 40 38
def dOfmt (b : Nat) : Nat := bitsOf (bD b) 37 34
def dSat (b : Nat) : Bool := bitAt (bD b) 33
def dSr (b : Nat) : Bool := bitAt (bD b) 32
def dDs (b : Nat) : Bool := bitAt (bD b) 31
def dSlot (b : Nat) : Nat := bitsOf (bD b) 30 27
def dOquad (b : Nat) : Nat := bitsOf (bD b) 26 24
def dRows (b : Nat) : Nat := bitsOf (bD b) 23 17 + 1
def dCols (b : Nat) : Nat := bitsOf (bD b) 16 11 + 1

/-! Control slot (R110 to R115). -/
def cOp (b : Nat) : Nat := bitsOf (bC b) 31 28
def cCnt (b : Nat) : Nat := bitsOf (bC b) 27 23
def cLoopTarget (b : Nat) : Nat := bitsOf (bC b) 22 12
def cNeg (b : Nat) : Bool := bitAt (bC b) 22
def cBrTarget (b : Nat) : Nat := bitsOf (bC b) 21 11
def cQ (b : Nat) : Nat := bitsOf (bC b) 27 24
def cCount (b : Nat) : Nat := bitsOf (bC b) 23 12
def cBar (b : Nat) : Nat := bitsOf (bC b) 27 24
def cN (b : Nat) : Nat := bitsOf (bC b) 23 18 + 1
def cNowait (b : Nat) : Bool := bitAt (bC b) 17

/-- Index registers that a bundle's slots write, i0 left out (R95). -/
def idxWrites (b : Nat) : List Nat :=
  ((if lOp b = 1 ∧ lInc b then [4 * lQuad b + 3] else []) ++
   (if (lOp b = 2 ∨ lOp b = 3) ∧ lMoveInc b then [lSreg b, lCreg b] else []) ++
   (if 0x20 ≤ vOp b then [vD b] else []) ++
   (if cOp b = 1 then [cCnt b] else [])).filter (· != 0)

/-! ## Images (R87) -/

def imgWord (img : Bytes) (off : Nat) : Nat := leNat ((img.drop off).take 4)
def imgCount (img : Bytes) : Nat := bitsOf (imgWord img 4) 31 16
def imgLiveAcc (img : Bytes) : Nat := bitsOf (imgWord img 4) 15 12
def imgEntry (img : Bytes) : Nat := bitsOf (imgWord img 8) 10 0
def imgPreset (img : Bytes) (k : Nat) : Nat := imgWord img (0x40 + 4 * k)
def imgBundle (img : Bytes) (i : Nat) : Nat := leNat ((img.drop (0xC0 + 32 * i)).take 32)

/-- The CRC-32C that an image must carry. -/
def imgCrc (img : Bytes) : Nat := crc32c (img.take 0x3C ++ (img.drop 0x40).take (128 + 32 * imgCount img))

/-- An image with its CRC-32C recomputed (R160, R280). -/
def sealImage (img : Bytes) : Bytes := img.take 0x3C ++ leBytes 4 (imgCrc img) ++ img.drop 0x40

/-- An image with its preset block replaced; word 0 is zero (R87). -/
def setPresets (img : Bytes) (f : Nat → Nat) : Bytes :=
  img.take 0x40 ++ (List.range 32).flatMap (fun k => leBytes 4 (if k = 0 then 0 else f k)) ++ img.drop 0xC0

/-- One bundle of an image changed. -/
def modBundle (f : Nat → Nat) (img : Bytes) (i : Nat) : Bytes :=
  if i < imgCount img then
    img.take (0xC0 + 32 * i) ++ leBytes 32 (f (imgBundle img i)) ++ img.drop (0xC0 + 32 * i + 32)
  else img

/-- Bits `hi` to `lo` of a value replaced. -/
def setBits (v hi lo x : Nat) : Nat := v - bitsOf v hi lo * 2 ^ lo + x % 2 ^ (hi + 1 - lo) * 2 ^ lo

/-- A-cycles that a check takes: 32 + COUNT, a COUNT outside 1 to 2,048 taken as 0 (R119). -/
def checkCycles (img : Bytes) : Nat := 32 + (if 1 ≤ imgCount img ∧ imgCount img ≤ 2048 then imgCount img else 0)

/-- Check 1 fails. -/
def badHeader (img : Bytes) : Bool :=
  decide (img.length < 0xC0 + 32 * imgCount img) || imgWord img 0 != 0x54540096 ||
  decide (imgCount img < 1) || decide (2048 < imgCount img) || decide (imgCount img ≤ imgEntry img) ||
  imgPreset img 0 != 0 || bitsOf (imgWord img 4) 11 0 != 0 || bitsOf (imgWord img 8) 31 11 != 0 ||
  ((img.drop 0xC).take 48).any (· != 0) || imgWord img 0x3C != imgCrc img

/-- The K-step slots of a buffer, halved for FP32 (R60, R99). -/
def slotsOf (side fmt : Nat) : Nat := (if side = 0 then 8 else 16) / (if fmt = 0 then 2 else 1)

/-- Vector-slot opcodes that are not reserved. -/
def vOpKnown (op : Nat) : Bool := decide (op ≤ 0xE) || (decide (0x20 ≤ op) && decide (op ≤ 0x26))

/-- Check 3 fails in the load slot. -/
def badLoad (b : Nat) : Bool :=
  if lOp b = 0 then bitsOf (bL b) 59 0 != 0
  else if lOp b = 1 then
    bitsOf (bL b) 27 0 != 0 || lQuad b == 0 || decide (slotsOf (lSide b) (lFmt b) < lPstep b + lNk b) ||
      (lSide b == 1 && decide (64 < lRows b)) || (lQm b && lFmt b != 0xA)
  else if lOp b = 2 ∨ lOp b = 3 then bitsOf (bL b) 32 0 != 0
  else if lOp b = 4 then bitsOf (bL b) 45 0 != 0 || decide (2 < lVfmt b)
  else if lOp b = 5 then bitsOf (bL b) 45 0 != 0 || decide (1 < lVfmt b)
  else true

/-- Check 3 fails in the matrix slot: what it says of PSTEP + NK is taken of APSTEP and BPSTEP too (DESIGN CHOICE,
notes/assumptions/67.md). -/
def badMatrix (live b : Nat) : Bool :=
  if mOp b = 0 then bitsOf (bM b) 43 0 != 0
  else if mOp b = 1 ∨ mOp b = 2 then
    bitsOf (bM b) 18 0 != 0 || decide (live ≤ mTile b) ||
      decide (slotsOf 0 (mAfmt b) < mApstep b + mNk b) || decide (slotsOf 1 (mBfmt b) < mBpstep b + mNk b) ||
      (mAq b && mAfmt b != 0xA) || (mBq b && mBfmt b != 0xA)
  else true

/-- Check 3 fails in the vector slot. -/
def badVector (b : Nat) : Bool :=
  if vOp b = 0 then bitsOf (bV b) 41 0 != 0
  else bitsOf (bV b) 26 24 != 0 || !vOpKnown (vOp b)

/-- Check 3 fails in the drain slot. -/
def badDrain (live b : Nat) : Bool :=
  if dOp b = 0 then bitsOf (bD b) 43 0 != 0
  else if dOp b = 1 then bitsOf (bD b) 10 0 != 0 || decide (live ≤ dTile b) || dOquad b == 0
  else true

/-- Check 3 fails in the control slot of an image of `count` bundles. -/
def badControl (count b : Nat) : Bool :=
  if cOp b = 0 ∨ cOp b = 5 then bitsOf (bC b) 27 0 != 0
  else if cOp b = 1 then bitsOf (bC b) 11 0 != 0 || cCnt b == 0 || decide (count ≤ cLoopTarget b)
  else if cOp b = 2 then bitsOf (bC b) 10 0 != 0 || decide (count ≤ cBrTarget b)
  else if cOp b = 3 then bitsOf (bC b) 11 0 != 0 || cCount b == 0
  else if cOp b = 4 then bitsOf (bC b) 16 0 != 0
  else true

/-- Check 3 fails for a bundle (R119). -/
def badEncoding (live count b : Nat) : Bool :=
  badLoad b || badMatrix live b || badVector b || badDrain live b || badControl count b || !(idxWrites b).Nodup

/-- Check 4 fails for a bundle: a reserved format code, or an output format that a drain does not write (R30, R50). -/
def badFormat (b : Nat) : Bool :=
  (lOp b == 1 && fmtReserved (lFmt b)) ||
  ((mOp b == 1 || mOp b == 2) && (fmtReserved (mAfmt b) || fmtReserved (mBfmt b))) ||
  (dOp b == 1 && decide (9 ≤ dOfmt b))

/-- Check 6 fails: the last control slot neither halts nor branches unconditionally. -/
def badEnd (b : Nat) : Bool := !(cOp b == 5 || (cOp b == 2 && cCnt b == 0 && !cNeg b))

/-- The bundles of an image. -/
def imgBundles (img : Bytes) : List Nat := (List.range (imgCount img)).map (imgBundle img)

/-- The first failing check's code, in the order of R119; none for an image that passes. -/
def checkImage (img : Bytes) (express : Bool) : Option (BitVec 16) :=
  if badHeader img then some Code.ttImage
  else if 8 < imgLiveAcc img then some Code.accOvercommit
  else if imgLiveAcc img = 0 ∨ (imgBundles img).any (badEncoding (imgLiveAcc img) (imgCount img)) then some Code.ttEncoding
  else if (imgBundles img).any badFormat then some Code.formatInvalid
  else if express && (imgBundles img).any (fun b => dOp b == 1 && (dSr b || dDs b)) then some Code.expressNondet
  else if badEnd (imgBundle img (imgCount img - 1)) then some Code.ttEncoding
  else none

/-! ## Drain chains (R75, R78) -/

/-- The stages that four chain words spell, stage 0 first. -/
def chainStages (words : Nat → Reg32) : List Stage :=
  (List.range 8).map (fun i =>
    let h := bitsOf (words (i / 2)).toNat (16 * (i % 2) + 15) (16 * (i % 2))
    ⟨BitVec.ofNat 4 (h / 4096), BitVec.ofNat 12 h⟩)

/-- Stages whose vector register must be even: CLAMP, RMSACC, ROWSCALE, ROWMAX. -/
def evenStage (op : Nat) : Bool := op == 4 || op == 8 || op == 9 || op == 0xB

/-- A chain passes the check of R78. -/
def chainValid (st : List Stage) : Bool :=
  let n := st.findIdx (fun x => x.op == 0xF)
  decide (n < st.length) &&
  (st.take n).all (fun x =>
    let op := x.op.toNat
    op != 0 && decide (op < 0xC) && (!evenStage op || x.arg.toNat % 2 == 0) &&
      (op != 3 || decide (bitsOf x.arg.toNat 11 8 ≤ 2))) &&
  (st.drop (n + 1)).all (fun x => x.op == 0)

/-- The computing stages of a chain: those before its CONV. -/
def chainBody (st : List Stage) : List Stage := st.takeWhile (fun x => x.op != 0xF)

end Sys2Proof.Machine
end

