-- ==== Sys2Proof/Machine/ArrayOps.lean ====
section
/-! DEFINITION. One array from cycle to cycle (chapters 3 and 4): what the operations in flight do in an unheld A-cycle. An array
counts its own unheld cycles, and its commands make them pass (notes/assumptions/4.md). -/

namespace Sys2Proof.Machine

/-- An array and the codes its cycles have given to record, oldest first; UE_POISON stands for poison consumed (R85). -/
abbrev Noted := Arr × List (BitVec 16)

/-- The stretch of an array's A-clock at a time: none once it has lasted 50 µs (R73). -/
def Arr.stretchNow (x : Arr) (now : Nat) : BitVec 8 := if now < x.avsSince + 50 * us then x.stretch else 0

/-- The clock of an array that runs at a fixed voltage: never stretched (R73). -/
def Arr.fixedClock (x : Arr) : Arr := { x with stretch := 0 }

/-- The image whose bundles come next on a loaded array: of those checked, the one submitted first (R86, R125). -/
def Arr.loadedImage (x : Arr) : Bytes :=
  let ready (v : ImageSlot) : Bool := v.st == .ready
  if ready x.slot0 && !(ready x.slot1 && decide (x.slot1.order < x.slot0.order)) then x.slot0.img else x.slot1.img

/-! ## Registers -/

/-- An index register; i0 reads as zero (R95). -/
def Arr.ir (x : Arr) (r : Nat) : Reg32 := if r = 0 then 0 else sget 0 x.ireg r
/-- A write of an index register; i0 is never written (R95). -/
def Arr.setIr (x : Arr) (r : Nat) (v : Reg32) : Arr := if r = 0 then x else { x with ireg := sset 0 x.ireg r v }
/-- The 64 lanes of a vector register (R96). -/
def Arr.lanes (x : Arr) (v : Nat) : Lanes := sgetRun Cell32.init x.vreg (64 * v) 64
def Arr.setLanes (x : Arr) (v : Nat) (l : Lanes) : Arr := { x with vreg := ssetRun Cell32.init x.vreg (64 * v) l }

def RegWrite.due : RegWrite → Nat
  | .idx _ d _ _ => d
  | .vec _ d _ _ => d

def RegWrite.issued : RegWrite → Nat
  | .idx i _ _ _ => i
  | .vec i _ _ _ => i

/-- A vector result that lands beats an LDV of the same register and due cycle issued no later (R108; of one bundle, the load slot
counts as the earlier, DESIGN CHOICE, notes/assumptions/58.md). -/
def MoveOp.meetVec (issued due r : Nat) (m : MoveOp) : MoveOp :=
  if m.kind = .ldv ∧ m.vreg = r ∧ m.due = due ∧ m.issue ≤ issued then { m with beaten := true } else m

/-- The cycle at whose end a drain's register lanes are final (R77). -/
def DrainOp.lastCycle (d : DrainOp) : Nat := d.start + 135 + 2 * (chainBody d.stages).length

/-- A vector result that lands in a drain's last cycle stays over the drain's final lanes: R77 replaces only what lands before. -/
def DrainOp.meetVec (due r : Nat) (d : DrainOp) : DrainOp :=
  if d.lastCycle = due then { d with kept := r :: d.kept } else d

/-- A result reaches its register. -/
def RegWrite.apply : RegWrite → Arr → Arr
  | .idx _ _ r v, x => x.setIr r v
  | .vec i d r v, x =>
    { x.setLanes r v with moves := x.moves.map (MoveOp.meetVec i d r), drains := x.drains.map (DrainOp.meetVec d r) }

/-- The results due by the present cycle reach their registers, the later issued last (R93, R108). -/
def landRegs (x : Arr) : Arr :=
  (x.regw.filter (fun w => decide (w.due ≤ x.cyc))).foldl (fun y w => w.apply y)
    { x with regw := x.regw.filter (fun w => decide (x.cyc < w.due)) }

/-- A register result on its way, kept in the order of issue (R93, R108). -/
def Arr.later (x : Arr) (w : RegWrite) : Arr :=
  { x with regw := x.regw.takeWhile (fun v => decide (v.issued ≤ w.issued)) ++
      w :: x.regw.dropWhile (fun v => decide (v.issued ≤ w.issued)) }

/-! ## The siding and the move span (R116) -/

/-- A move writes the siding: LDC and STV. -/
def MoveKind.toSid : MoveKind → Bool
  | .ldc => true
  | .stv => true
  | _ => false

/-- Byte `addr` of the siding as it stands: an LDC's data is read from its due cycle on, before it the previous content (R116). -/
def Arr.sidNow (x : Arr) (addr : Nat) : MByte :=
  match x.early.find? (fun e => e.2.1 == addr && decide (x.cyc < e.1)) with
  | some e => e.2.2
  | none => (sget 0 x.sid addr, sget false x.sidPoison (addr / 8))

/-- Byte `addr` of the siding as array `a` reads it: inside the destination of a move that has not completed, either value. -/
def sidByte (a f : Nat) (x : Arr) (addr : Nat) : MByte :=
  let now : MByte := x.sidNow addr
  match x.moves.find? (fun m => m.kind.toSid && decide (m.sid ≤ addr) && decide (addr < m.sid + m.data.length)) with
  | none => now
  | some m => if Config.moveTakesLater a x.cyc addr f then m.data.getD (addr - m.sid) now else now

def sidRead (a f : Nat) (x : Arr) (addr n : Nat) : List MByte := (List.range n).map (fun i => sidByte a f x (addr + i))

/-- A move whose siding bytes another operation writes: each byte concerned is open between the two values. -/
def MoveOp.touched (a f cyc addr : Nat) (l : List MByte) (m : MoveOp) : MoveOp :=
  { m with data := m.data.zipIdx.map (fun b =>
      if addr ≤ m.sid + b.2 ∧ m.sid + b.2 < addr + l.length ∧ Config.moveTakesLater a cyc (m.sid + b.2) f then
        l.getD (m.sid + b.2 - addr) b.1
      else b.1) }

/-- Bytes written to the siding. -/
def sidWrite (a f : Nat) (addr : Nat) (l : List MByte) (x : Arr) : Arr :=
  { x with
    sid := putBytes x.sid addr l
    sidPoison := putMarks x.sidPoison addr l
    early := x.early.filter (fun e => !(decide (addr ≤ e.2.1) && decide (e.2.1 < addr + l.length)))
    moves := x.moves.map (MoveOp.touched a f x.cyc addr l) }

/-! ## Platform buffers (R60) -/

def tagKey (side buf slot : Nat) : Nat := (side * 2 + buf) * 16 + slot
def platKey (side buf slot row : Nat) : Nat := tagKey side buf slot * 128 + row
/-- The first unit slot of a K-step slot: an FP32 slot takes two. -/
def unitSlot (fmt slot : Nat) : Nat := if fmt = 0 then 2 * slot else slot
/-- Rows of a side. -/
def sideRows (side : Nat) : Nat := if side = 0 then 128 else 64

/-- A row's words as a K-step under way takes them when the row is written in the step's cycle `elapsed`: words that the grid
takes later are the new ones (R61, R105). -/
def mergeRow (p side row elapsed : Nat) (old new : PlatRow) : PlatRow :=
  let later (k : Nat) : Bool := decide (elapsed < Config.gridReadCycle p side row k % p)
  ⟨(List.range 32).map (fun k =>
      let z : Elem := .fin false 0 0
      if later k then new.elems.getD k z else old.elems.getD k z),
   if later 32 then new.exp else old.exp⟩

/-- A K-step under way meets the write of a platform row: word by word, as `mergeRow` has it. A write of another width meets only
the first unit slot, element by element; the second of an FP32 K-step keeps its words (DESIGN CHOICE, notes/assumptions/8.md). -/
def KstepOp.meet (cyc side buf slot row : Nat) (v : PlatRow) (k : KstepOp) : KstepOp :=
  if k.start ≤ cyc ∧ cyc < k.start + k.p then
    if side = 0 ∧ buf = k.abuf ∧ slot = k.aslot then
      { k with a := k.a.map (fun m => supd PlatRow.init m row (fun o => mergeRow k.p 0 row (cyc - k.start) o v)) }
    else if side = 1 ∧ buf = k.bbuf ∧ slot = k.bslot then
      { k with b := k.b.map (fun m => supd PlatRow.init m row (fun o => mergeRow k.p 1 row (cyc - k.start) o v)) }
    else k
  else k

/-- One platform row written. -/
def platWrite (side buf slot row : Nat) (v : PlatRow) (x : Arr) : Arr :=
  { x with
    plat := sset PlatRow.init x.plat (platKey side buf slot row) v
    ksteps := x.ksteps.map (KstepOp.meet x.cyc side buf slot row v) }

/-! ## LDP (R97 to R100) -/

/-- Granules of the bytes lo to hi − 1 of a plain plane. -/
def plainGrans (base lo hi : Nat) : List Nat :=
  (List.range ((base + hi - 1) / 32 + 1 - (base + lo) / 32)).map (fun i => ((base + lo) / 32 + i) * 32)

/-- Granules of the logical bytes lo to hi − 1 of a run-packed plane: each slot's header and its payload up to the last needed
byte (R99, R211). -/
def packedGrans (base lo hi : Nat) : List Nat :=
  (List.range ((hi - 1) / slotPayload + 1 - lo / slotPayload)).flatMap (fun i =>
    let n := lo / slotPayload + i
    let last := min hi ((n + 1) * slotPayload) - 1 - n * slotPayload
    (List.range (last / 32 + 2)).map (fun g => (base + 4096 * n) / 32 * 32 + 32 * g))

/-- Logical byte ranges of row `r` in the element plane and, for a format with block side values, in the side plane (R98). -/
def LdpOp.elemRange (o : LdpOp) (r : Nat) : Nat × Nat :=
  let w := (fmtOf o.fmt.toNat).bits
  let lo := 32 * o.estride * r + 4 * w * o.kpos
  (lo, lo + 4 * w * (o.nk - 1) + cdiv (o.klast * w) 8)

def LdpOp.sideRange (o : LdpOp) (r : Nat) : Option (Nat × Nat) :=
  let f := fmtOf o.fmt.toNat
  if f.block = 0 then none
  else some (o.sstride * r + 32 * o.kpos / f.block * f.side,
             o.sstride * r + (32 * (o.kpos + o.nk - 1) / f.block + 1) * f.side)

/-- The granules of row `r`, the element plane's first. -/
def LdpOp.rowGrans (o : LdpOp) (r : Nat) : List Nat :=
  let g (base : Nat) (q : Nat × Nat) : List Nat :=
    if o.exp then packedGrans base q.1 q.2 else plainGrans base q.1 q.2
  g o.ebase (o.elemRange r) ++ (match o.sideRange r with | none => [] | some q => g o.sbase q)

/-- Distinct granules in reading order, and for each row how many have been read when its last one has. -/
def LdpOp.schedule (o : LdpOp) : List Nat × List Nat :=
  (List.range o.rows).foldl
    (fun s r =>
      let gs := o.rowGrans r
      let all := s.1 ++ (gs.filter (fun g => !s.1.contains g)).eraseDups
      (all, s.2 ++ [(gs.map (fun g => all.idxOf g + 1)).foldl max 0]))
    ([], [])

/-- The A-cycle in which row `r`'s last granule is read; its words are written 6 later (R99). -/
def LdpOp.rowCycle (o : LdpOp) (r : Nat) : Nat := o.start + (o.rowEnd.getD r 0 - 1) / 4

/-- The cycle in which the LDP completes. -/
def LdpOp.endCycle (o : LdpOp) : Nat := o.start + cdiv o.grans.length 4 - 1 + 6

/-- A byte among those read. -/
def gotByte (got : List (Nat × List MByte)) (addr : Nat) : MByte :=
  match got.find? (fun g => g.1 == addr / 32 * 32) with
  | none => (0, false)
  | some g => g.2.getD (addr % 32) (0, false)

/-- Logical bytes of a plane out of what has been read. -/
def LdpOp.planeBytes (o : LdpOp) (base lo n : Nat) : List MByte :=
  if o.exp then
    let s0 := lo / slotPayload
    let slots := (List.range ((lo + n - 1) / slotPayload + 1 - s0)).flatMap (fun i =>
      unpackSlot ((List.range 4096).map (fun j => gotByte o.got (base + 4096 * (s0 + i) + j))))
    (slots.drop (lo - s0 * slotPayload)).take n
  else (List.range n).map (fun i => gotByte o.got (base + lo + i))

/-- Payload granules that a run-packed row's slots store beyond the counted ones: read with the row's last granule. -/
def LdpOp.extraGrans (o : LdpOp) (r : Nat) : List Nat :=
  if !o.exp then []
  else
    let g (base : Nat) (q : Nat × Nat) : List Nat :=
      (List.range ((q.2 - 1) / slotPayload + 1 - q.1 / slotPayload)).flatMap (fun i =>
        let at_ := (base + 4096 * (q.1 / slotPayload + i)) / 32 * 32
        let head := (List.range 32).map (fun j => (gotByte o.got (at_ + j)).1)
        (List.range (slotStored head)).map (fun j => at_ + 32 * j))
    (g o.ebase (o.elemRange r) ++ (match o.sideRange r with | none => [] | some q => g o.sbase q)).filter
      (fun a => !(o.got.any (fun e => e.1 == a)))

/-- Codes in extent in K-step `j` of the LDP. -/
def LdpOp.inExtent (o : LdpOp) (j : Nat) : Nat := if j + 1 = o.nk then o.klast else 32

/-- Row `r` expanded, one platform row for each K-step, and how many K2 codebooks broke the rule of the Q mark. Codes and codebooks
that come from a siding word that reads as uncorrectable are poisoned by R65 already and are not examined for R42's invalid code
nor for R44's rule (DESIGN CHOICE, notes/assumptions/58.md). -/
def LdpOp.expandRow (o : LdpOp) (r : Nat) : List PlatRow × Nat :=
  let fc := o.fmt.toNat
  let f := fmtOf fc
  let steps := (List.range o.nk).map (fun j =>
    let s := o.kpos + j
    let codes := o.planeBytes o.ebase (32 * o.estride * r + 4 * f.bits * s) (cdiv (o.inExtent j * f.bits) 8)
    let blk := if f.block = 0 then 0 else 32 * s / f.block
    let side := if f.block = 0 then [] else o.planeBytes o.sbase (o.sstride * r + blk * f.side) f.side
    let row := expandKstep fc codes (o.inExtent j) side
    -- an invalid T2 code poisons what the LDP takes of its block (R42)
    let bad := fc == 11 && (List.range (o.inExtent j)).any (fun i =>
      streamCode 2 (leNat (codes.map (·.1))) i == 2 && !(codes.getD (i / 4) (0, false)).2)
    let k2 := fc == 10 && o.qm && !(side.any (·.2)) && !k2AllE2m1 (side.map (·.1))
    (blk, row, bad, k2))
  let rows := steps.zipIdx.map (fun x =>
    let poisoned := x.1.2.2.2 || steps.any (fun y => y.1 == x.1.1 && y.2.2.1)
    if poisoned then
      (⟨(List.range 32).map (fun i => if i < o.inExtent x.2 then .poison else .fin false 0 0), x.1.2.1.exp⟩ : PlatRow)
    else x.1.2.1)
  (rows, ((steps.filter (fun x => x.2.2.2)).map (·.1)).dedup.length)

/-- Platform words that an element takes (R60). -/
def wordsPerElem (fmt : Nat) : Nat := if fmt = 0 then 2 else 1

/-- Row `r` of an LDP written to the platform, with the out-of-extent rows when it is the last in extent (R99, R100). The first row
written to a slot sets its tag: the moment is open in R106 (DESIGN CHOICE, notes/assumptions/67.md). -/
def LdpOp.writeRow (o : LdpOp) (r : Nat) (n : Noted) : Noted :=
  let fc := o.fmt.toNat
  let (rows, k2) := o.expandRow r
  let poisoned := (rows.map (fun v => (v.elems.filter Elem.isPoison).length)).sum * wordsPerElem fc
  let y := rows.zipIdx.foldl (fun y v => platWrite o.side o.buf (unitSlot fc (o.pstep + v.2)) r v.1 y) n.1
  let z := if r + 1 = o.rows then
      (List.range o.nk).foldl (fun y j =>
        (List.range (sideRows o.side - o.rows)).foldl (fun y i =>
          platWrite o.side o.buf (unitSlot fc (o.pstep + j)) (o.rows + i) PlatRow.init y) y) y
    else y
  let tagged := (List.range o.nk).foldl (fun t j =>
      let t := sset Tag.none t (tagKey o.side o.buf (unitSlot fc (o.pstep + j))) ⟨o.fmt, o.qm⟩
      if fc = 0 then sset Tag.none t (tagKey o.side o.buf (unitSlot fc (o.pstep + j) + 1)) ⟨o.fmt, o.qm⟩ else t) z.tags
  ({ z with tags := tagged, poisonRd := satAdd z.poisonRd poisoned },
   n.2 ++ List.replicate k2 Code.k2NotQ ++ (if poisoned = 0 then [] else [Code.uePoison]))

/-- Granules captured. -/
def captureGrans (a f : Nat) (x : Arr) (gs : List Nat) : List (Nat × List MByte) :=
  gs.map (fun g => (g, sidRead a f x g 32))

/-- The granules that an LDP reads in the present cycle, and the stored remainder of the slots of rows ending in it. -/
def LdpOp.readCycle (a f : Nat) (x : Arr) (o : LdpOp) : LdpOp :=
  let o1 := { o with got := o.got ++ captureGrans a f x ((o.grans.drop (4 * (x.cyc - o.start))).take 4) }
  (List.range o.rows).foldl
    (fun q r => if q.rowCycle r = x.cyc then { q with got := q.got ++ captureGrans a f x (q.extraGrans r) } else q) o1

/-- The rows that an LDP writes in the present cycle. -/
def LdpOp.writeCycle (o : LdpOp) (n : Noted) : Noted :=
  (List.range o.rows).foldl (fun n r => if o.rowCycle r + 6 = n.1.cyc then o.writeRow r n else n) n

/-! ## The grid (R105, R106) -/

/-- The unit slots of a K-step slot agree with a format and Q mark. -/
def tagsMatch (x : Arr) (side buf slot : Nat) (fmt : BitVec 4) (q : Bool) : Bool :=
  let t (i : Nat) : Bool := sget Tag.none x.tags (tagKey side buf (slot + i)) == ⟨fmt, q⟩
  if fmt = 0 then t 0 && t 1 else t 0

/-- The rows of a slot. -/
def slotRows (x : Arr) (side buf slot : Nat) : Store PlatRow :=
  ((List.range (sideRows side)).map (fun r => (r, sget PlatRow.init x.plat (platKey side buf slot r)))).filter
    (fun e => decide (e.2 ≠ PlatRow.init))

/-- The grid begins a K-step in the present cycle: it compares the tags and takes the words as they stand; later writes meet it
(R61, R105, R106). That the tags are compared in a K-step's first cycle is the model's (DESIGN CHOICE, notes/assumptions/67.md). -/
def KstepOp.begin (x : Arr) (k : KstepOp) : KstepOp × List (BitVec 16) :=
  if k.start = x.cyc then
    let badA := k.badA || !tagsMatch x 0 k.abuf k.aslot k.afmt k.aq
    let badB := k.badB || !tagsMatch x 1 k.bbuf k.bslot k.bfmt k.bq
    ({ k with a := some (slotRows x 0 k.abuf k.aslot), b := some (slotRows x 1 k.bbuf k.bslot), badA := badA, badB := badB },
     List.replicate (b2n badA + b2n badB) Code.tagMismatch)
  else (k, [])

/-- The 32 words of a row as the grid delivers them: all poisoned under a bad tag, those of a parity error poisoned (R62). -/
def gridWords (bad : Bool) (par : List PlatAddr) (side row : Nat) (r : PlatRow) : List Elem :=
  (List.range 32).map (fun k =>
    if bad || par.any (fun p => p.side.val == side && p.row.val == row && p.k.val == k) then .poison
    else r.elems.getD k (.fin false 0 0))

/-- An integer held within 32 bits (R48). -/
def satInt32 (z : Int) : Reg32 := BitVec.ofInt 32 (max (-(2 ^ 31)) (min (2 ^ 31 - 1) z))

/-- A finite integer element's value. -/
def elemInt : Elem → Int
  | .fin n m e => if n then -((m * 2 ^ e.toNat : Nat) : Int) else ((m * 2 ^ e.toNat : Nat) : Int)
  | _ => 0

/-- One accumulator element after a K-step, `e` the block exponent of its row and column: its products' exact sum under R46
and R49, one product at a time under R47, or INT32 under R48; poison under R83. -/
def accumulate (cls : Nat) (zero int : Bool) (old : Cell32) (a b : List Elem) (e : Int) : Cell32 :=
  let prods := (List.zipWith emul a b).map (escale e)
  if prods.any Elem.isPoison then ⟨if zero then 0 else old.bits, true⟩
  else
    let base : Reg32 := if zero then 0 else old.bits
    let v :=
      if int then satInt32 (signed 32 base.toNat + (prods.map elemInt).sum)
      else if 2 ≤ cls then prods.foldl (fun s x => toF32 (eadd (ofF32 s) x)) base
      else
        let s := prods.foldl eadd (.fin false 0 0)
        let s : Elem := if s.isZero then .fin false 0 0 else s
        if zero then toF32 s else toF32 (eadd (ofF32 base) s)
    ⟨v, !zero && old.poison⟩

/-- Accumulator elements found uncorrectable are marked poisoned; each by its number in the accumulator memory (R66, R83). -/
def poisonAcc (es : List Nat) (m : Store Cell32) : Store Cell32 :=
  es.foldl (fun m e => supd Cell32.init m e (fun c => { c with poison := true })) m

/-- The tile after a K-step commits (R67, R105); what it adds to and finds uncorrectable is poisoned (R83). -/
def KstepOp.commit (k : KstepOp) (acc : Store Cell32) : Store Cell32 :=
  let acc := if k.zero then acc else poisonAcc (k.ue.filter (fun e => decide (e / 8192 = k.tile))) acc
  let cls := max (classOf k.afmt.toNat k.aq) (classOf k.bfmt.toNat k.bq)
  let ra := k.a.getD []
  let rb := k.b.getD []
  let cols := (List.range 64).map (fun c =>
    let r := sget PlatRow.init rb c
    (gridWords k.badB k.parity 1 c r, r.exp))
  ssetRun Cell32.init acc (8192 * k.tile) ((List.range 128).flatMap (fun r =>
    let pr := sget PlatRow.init ra r
    let w := gridWords k.badA k.parity 0 r pr
    cols.zipIdx.map (fun c =>
      accumulate cls k.zero k.int (sget Cell32.init acc (8192 * k.tile + 64 * r + c.2)) w c.1.1 (pr.exp + c.1.2))))

/-- The cycle in which a K-step commits: cycle (j + 1) p + 4 of its operation. -/
def KstepOp.commitCycle (k : KstepOp) : Nat := k.start + k.p + 4

/-! ## DRAIN (R75 to R84) -/

/-- The computing stages of a drain, and the offset of a row's write from its read. -/
def DrainOp.body (d : DrainOp) : List Stage := chainBody d.stages
def DrainOp.delay (d : DrainOp) : Nat := 8 + 2 * d.body.length
/-- The tiles that a drain reads: its own and those of GATE (R75). -/
def DrainOp.tiles (d : DrainOp) : List Nat :=
  d.tile :: (d.body.filter (fun y => y.op == 7)).map (fun y => bitsOf y.arg.toNat 2 0)

/-- The vector register of a stage, as read at issue. -/
def DrainOp.vec (d : DrainOp) (k c : Nat) : Cell32 := (sget [] d.vecs k).getD c Cell32.init

/-- The lane of row `r` in the register pair from `k` (R75). -/
def rowLane (k r : Nat) : Nat := (k + r / 64) * 64 + r % 64

/-- A residual row's elements in FP32 (R75). -/
def residElems (fmt : Nat) (bytes : List MByte) (cols : Nat) : List Cell32 :=
  let w := (fmtOf fmt).bits / 8
  (List.range cols).map (fun c =>
    let l := (bytes.drop (w * c)).take w
    ⟨toF32 (decodeFp (elemFp fmt) (leNat (l.map (·.1)))), l.any (·.2)⟩)

/-- An accumulator element on entry to the chain: INT32 is converted (R76). -/
def chainEntry (int : Bool) (c : Cell32) : Cell32 :=
  if int then ⟨toF32 (ofInt (signed 32 c.bits.toNat)), c.poison⟩ else c

/-- One lane through a stage that works lane by lane: value, column, the register lane of its row, the residual, the partner. -/
def laneStage (d : DrainOp) (st : Stage) (r c : Nat) (x resid partner : Cell32) : Cell32 :=
  let k := bitsOf st.arg.toNat 4 0
  let op := st.op.toNat
  let v := d.vec k c
  if op = 1 then ⟨fadd x.bits v.bits, x.poison || v.poison⟩
  else if op = 2 then ⟨fmul x.bits v.bits, x.poison || v.poison⟩
  else if op = 3 then ⟨fadd x.bits resid.bits, x.poison || resid.poison⟩
  else if op = 4 then
    let hi := d.vec (k + 1) c
    ⟨fmin (fmax x.bits v.bits) hi.bits, x.poison || v.poison || hi.poison⟩
  else if op = 5 then ⟨fsilu x.bits, x.poison⟩
  else if op = 6 then ⟨fgelu x.bits, x.poison⟩
  else if op = 7 then ⟨fmul x.bits partner.bits, x.poison || partner.poison⟩
  else if op = 9 then
    let s := d.vec (k + r / 64) (r % 64)
    ⟨fmul x.bits s.bits, x.poison || s.poison⟩
  else if op = 0xA then
    let s := d.vec k 0
    ⟨fsoftcap x.bits s.bits, x.poison || s.poison⟩
  else x

/-- The register lane of a row after RMSACC or ROWMAX took the row's in-extent lanes (R75, R76, R81, R83). -/
def rowAccum (op : Nat) (xs : List Cell32) (lane : Cell32) : Cell32 :=
  let poison := lane.poison || xs.any (·.poison)
  if op = 8 then ⟨fadd lane.bits (xs.foldl (fun s x => fadd s (fmul x.bits x.bits)) 0), poison⟩
  else ⟨xs.foldl (fun m x => fmax m x.bits) lane.bits, poison⟩

/-- A row's in-extent lanes through the stages of a chain; `i` numbers the stages. -/
def chainRow (d : DrainOp) (r : Nat) (resid : Nat → List Cell32) (partner : Nat → List Cell32) :
    List Stage → Nat → List Cell32 → Store Cell32 → List Cell32 × Store Cell32
  | [], _, xs, acc => (xs, acc)
  | st :: rest, i, xs, acc =>
    let op := st.op.toNat
    let k := bitsOf st.arg.toNat 4 0
    if op = 8 ∨ op = 0xB then
      chainRow d r resid partner rest (i + 1) xs (supd Cell32.init acc (rowLane k r) (rowAccum op xs))
    else
      let rs := resid i
      let ps := partner (bitsOf st.arg.toNat 2 0)
      chainRow d r resid partner rest (i + 1)
        (xs.zipIdx.map (fun x =>
          laneStage d st r x.2 x.1 (rs.getD x.2 Cell32.init) (ps.getD x.2 Cell32.init))) acc

/-- The per-channel scale that an INT8 drain writes: 1 ÷ q_c, NaN where a NaN reached the channel (R53, R54). Where lane q_c is
poisoned, the channel's word is a poison marker (DESIGN CHOICE, notes/assumptions/58.md). -/
def int8Side (d : DrainOp) (nan : List Nat) : List MByte :=
  let scale := (d.body.filter (fun s => s.op == 2)).getLast?
  (List.range d.cols).flatMap (fun c =>
    let q : Cell32 := match scale with
      | none => ⟨f32One, false⟩
      | some s => d.vec (bitsOf s.arg.toNat 4 0) c
    (leBytes 4 (if nan.contains c then f32Nan else frcp q.bits).toNat).map (fun b => (b, q.poison)))

/-- Formats that a stochastic drain rounds by draws (R55). -/
def srFormat (f : Nat) : Bool := decide (3 ≤ f) && decide (f ≤ 6)

/-- A value as an element, poison kept. -/
def Cell32.elem (c : Cell32) : Elem := if c.poison then .poison else ofF32 c.bits

/-- Row `r` of a drain read in the present cycle: through the chain, converted, and set on its way to the siding. A GATE partner's
row enters as the chain's own does, an INT32 tile converted to FP32 (DESIGN CHOICE, notes/assumptions/58.md). The INT8 side plane
is written with the last in-extent row, the one-word plane of a scale with row 0 (DESIGN CHOICE, there too). -/
def DrainOp.readRow (a f : Nat) (d : DrainOp) (r : Nat) (x : Arr) : DrainOp × Arr :=
  let draws := if d.sr && srFormat d.ofmt.toNat then rngDraws 16 x.rng else ([], x.rng)
  let bad := d.ue.filter (fun e => decide (e % 8192 / 64 = r) && d.tiles.contains (e / 8192))
  let x1 := { x with rng := draws.2, acc := poisonAcc bad x.acc }
  if d.rows ≤ r then (d, x1)
  else
    let tileRow (t : Nat) : List Cell32 :=
      (sgetRun Cell32.init x1.acc (8192 * t + 64 * r) d.cols).map (chainEntry (x.tileInt.getLsbD t))
    let resid (i : Nat) : List Cell32 :=
      let st := d.body.getD i ⟨0, 0⟩
      if st.op = 3 then
        let fm := bitsOf st.arg.toNat 11 8
        let w := (fmtOf fm).bits / 8
        residElems fm (sidRead a f x ((sget 0 d.resid i) + r * 64 * w) (w * d.cols)) d.cols
      else []
    let (xs, acc) := chainRow d r resid tileRow d.body 0 (tileRow d.tile) d.acc
    let vals := xs.map Cell32.elem
    let scaled := d.ds.isSome || d.fixed
    let ds := if scaled then some d.scaleExp else none
    let out := convertRow d.ofmt.toNat d.sat ds (vals.zipIdx.map (fun v => (v.1, draws.1[v.2]?)))
    let nan := d.nanCols ++ (if d.ofmt = 7 then (vals.zipIdx.filter (fun v => v.1.isNan)).map (·.2) else [])
    let main := [(d.ebase + 32 * d.estride * r, out.elems)]
    let side := if out.side.isEmpty then [] else [(d.sbase + d.sstride * r, out.side)]
    let word := if scaled ∧ r = 0 then
        [(d.sbase, (leBytes 4 (toF32 (.fin false 1 (-d.scaleExp))).toNat).map (fun b => (b, false)))] else []
    let chan := if d.ofmt = 7 ∧ r + 1 = d.rows then [(d.sbase, int8Side d nan)] else []
    let am := match amaxOf vals with
      | .fin _ m e => if m = 0 then d.amax else fmax d.amax (toF32 (.fin false m e))
      | _ => d.amax
    ({ d with acc := acc, nanCols := nan, amax := am,
              out := d.out ++ [⟨x.cyc + d.delay, main ++ side ++ word ++ chan, out.markers⟩] },
     match d.ds, d.disp with
     | some sl, some id =>
       { x1 with amax := supd 0 x1.amax (id * 16 + sl.val) (fun v => fmax v am) }
     | _, _ => x1)

/-- A drain's read in the present cycle, if it has one. -/
def DrainOp.readCycle (a f : Nat) (d : DrainOp) (x : Arr) : DrainOp × Arr :=
  if d.start ≤ x.cyc ∧ x.cyc < d.start + 128 then d.readRow a f (x.cyc - d.start) x else (d, x)

/-- The rows of a drain that reach the siding in the present cycle; markers are counted, and make the DISPATCH a consumer of
poison (R84, R85). -/
def DrainOp.writeCycle (a f : Nat) (d : DrainOp) (n : Noted) : Noted :=
  (d.out.filter (fun o => o.due == n.1.cyc)).foldl
    (fun n o =>
      let y := o.writes.foldl (fun y w => sidWrite a f w.1 w.2 y) n.1
      ({ y with poisonWr := satAdd y.poisonWr o.markers }, n.2 ++ (if o.markers = 0 then [] else [Code.uePoison]))) n

/-- The register lanes that RMSACC and ROWMAX have updated, final at the end of the last cycle (R77). -/
def DrainOp.finish (d : DrainOp) (x : Arr) : Arr :=
  if x.cyc = d.lastCycle then
    let keys := ((d.body.filter (fun s => s.op == 8 || s.op == 0xB)).flatMap (fun s =>
      (List.range d.rows).map (rowLane (bitsOf s.arg.toNat 4 0)))).filter (fun k => !d.kept.contains (k / 64))
    { x with vreg := keys.foldl (fun v k => sset Cell32.init v k (sget Cell32.init d.acc k)) x.vreg }
  else x

/-! ## One cycle -/

/-- Reads of the present cycle: drain rows, LDP granules, K-steps that begin. -/
def cycleReads (a f : Nat) (n : Noted) : Noted :=
  let x := n.1
  let dr := x.drains.foldl (fun (s : List DrainOp × Arr) d =>
    let (d', y) := d.readCycle a f s.2
    (s.1 ++ [d'], y)) ([], x)
  let ks := x.ksteps.map (KstepOp.begin x)
  ({ dr.2 with
      drains := dr.1
      ldps := x.ldps.map (LdpOp.readCycle a f x)
      ksteps := ks.map (·.1) },
   n.2 ++ ks.flatMap (·.2))

/-- Writes of the present cycle: platform rows, commits, drained rows, register lanes; what has ended leaves. -/
def cycleWrites (a f : Nat) (n : Noted) : Noted :=
  let n1 := n.1.ldps.foldl (fun n o => o.writeCycle n) n
  let x1 := n1.1
  let acc := (x1.ksteps.filter (fun k => k.commitCycle == x1.cyc)).foldl (fun m k => k.commit m) x1.acc
  let n2 : Noted := ({ x1 with acc := acc }, n1.2)
  let n3 := n2.1.drains.foldl (fun n d => d.writeCycle a f n) n2
  let x3 := n3.1.drains.foldl (fun y d => d.finish y) n3.1
  ({ x3 with
      ldps := x3.ldps.filter (fun o => decide (x3.cyc < o.endCycle))
      ksteps := x3.ksteps.filter (fun k => decide (x3.cyc < k.commitCycle))
      drains := x3.drains.filter (fun d => decide (x3.cyc < d.lastCycle)) }, n3.2)

/-- The present cycle ends and the next begins. -/
def nextCycle (a f : Nat) (n : Noted) : Noted :=
  let m := cycleWrites a f (cycleReads a f n)
  (landRegs { m.1 with cyc := m.1.cyc + 1, segCount := m.1.segCount + 1 }, m.2)

/-- A number of unheld A-cycles pass. -/
def passCycles (a f : Nat) : Nat → Noted → Noted
  | 0, n => n
  | k + 1, n => passCycles a f k (nextCycle a f n)

/-! ## Descriptor boundaries and the start of an image (R78, R88, R89) -/

/-- SH fields take effect, the chains are checked, the generator is reseeded. -/
def boundary (a : Nat) (x : Arr) : Arr :=
  let ch := (List.range 8).map (fun c => chainStages (fun w => sget (chainWordInit w) x.chainShadow (4 * c + w)))
  { x with
    chains := (ch.zipIdx.map (fun e => (e.2, e.1))).filter (fun e => decide (e.2 ≠ chainInit))
    chainOk := BitVec.ofNat 8 ((ch.zipIdx.map (fun e => if chainValid e.1 then 2 ^ e.2 else 0)).sum)
    rng := reseed x.seed a x.dseq }

def Arr.slot (x : Arr) (i : Nat) : ImageSlot := if i = 0 then x.slot0 else x.slot1
def Arr.setSlot (x : Arr) (i : Nat) (v : ImageSlot) : Arr := if i = 0 then { x with slot0 := v } else { x with slot1 := v }
/-- The image in the running slot. -/
def Arr.img (x : Arr) : Bytes := match x.active with | none => [] | some i => (x.slot i.val).img

/-- An image starts: the preset block into i1 to i31, the first bundle in the next A-cycle. -/
def startImage (a i : Nat) (x : Arr) : Arr :=
  let sl := x.slot i
  let y := boundary a x
  { (y.setSlot i { sl with st := .running }) with
    active := some (if i = 0 then 0 else 1)
    st := .run
    liveAcc := BitVec.ofNat 4 (imgLiveAcc sl.img)
    ireg := ((List.range 31).map (fun k => (k + 1, (BitVec.ofNat 32 (imgPreset sl.img (k + 1)))))).filter
      (fun e => decide (e.2 ≠ 0))
    regw := []
    dueHolds := []
    next := imgEntry sl.img
    nextIssue := y.cyc + 1
    wait := .none
    cur := none
    segNew := true
    stopHere := false
    segCount := 0
    disp := sl.disp }

/-- No operation is in flight. -/
def Arr.quiet (x : Arr) : Bool :=
  x.ldps.isEmpty && x.ksteps.isEmpty && x.drains.isEmpty && x.moves.isEmpty && x.regw.isEmpty && x.syncs.isEmpty

/-- The cycle by which everything but moves has ended. -/
def Arr.lastBusy (x : Arr) : Nat :=
  ((x.ldps.map LdpOp.endCycle) ++ (x.ksteps.map KstepOp.commitCycle) ++ (x.drains.map DrainOp.lastCycle) ++
    (x.regw.map RegWrite.due)).foldl max x.cyc

/-- Every outstanding move stays before its due cycle up to, and in the strict case at, cycle `c`. -/
def Arr.movesAllow (x : Arr) (strict : Bool) (c : Nat) : Bool :=
  x.moves.all (fun m => if strict then decide (c < m.due) else decide (c ≤ m.due))

/-- What an array has in flight is dropped, with the slots and the waits that it occupied. -/
def Arr.dropOps (x : Arr) : Arr :=
  { x with
    active := none
    wait := .none
    cur := none
    holds := []
    dueHolds := []
    heldNow := 0
    regw := []
    ldps := []
    ksteps := []
    drains := []
    moves := []
    early := []
    syncs := []
    gridFree := 0
    ldpFree := 0
    drainFree := 0 }

/-- The array stops: nothing further issues, and every operation in flight is abandoned; an abandoned move leaves each byte of a
siding destination holding either content (R381). The register of an abandoned LDV keeps its previous content (DESIGN CHOICE,
notes/assumptions/9.md). -/
def stopArr (a f : Nat) (code : BitVec 16) (x : Arr) : Arr :=
  let sidAfter := x.moves.foldl (fun y m =>
    if m.kind.toSid then
      m.data.zipIdx.foldl (fun y b =>
        if Config.moveTakesLater a x.cyc (m.sid + b.2) f then
          { y with sid := sset 0 y.sid (m.sid + b.2) b.1.1, sidPoison := putMarks y.sidPoison (m.sid + b.2) [b.1] }
        else y) y
    else y) x
  { sidAfter.dropOps with
    st := .fault
    faultValid := true
    faultCode := if x.faultValid then x.faultCode else code }

/-- The scrub of an array (R142): siding, accumulators, platforms, vector registers and bundle store cleared, counters, tags,
index registers and wait counters at their reset values, sticky fields cleared (R86). Repairs, chain registers, the segment limit,
and the place in a pair stay. A stretch of the clock ends, whoever the array is bound to next (R73; DESIGN CHOICE,
notes/assumptions/58.md). -/
def scrubArr (x : Arr) : Arr :=
  { x.dropOps with
    st := .idle
    stretch := 0
    liveAcc := 0
    next := 0
    holdSeen := 0
    holdCyc := 0
    ceStall := 0
    poisonRd := 0
    poisonWr := 0
    faultValid := false
    faultCode := 0
    slot0 := ImageSlot.init
    slot1 := ImageSlot.init
    rejCode := 0
    tq := []
    ireg := []
    vreg := []
    acc := []
    tileInt := 0
    plat := []
    tags := []
    sid := []
    sidPoison := []
    nextIssue := 0
    lastIssue := 0
    cyc := 0
    segNew := false
    stopHere := false
    segCount := 0
    quiesce := false
    fp := BitVec.allOnes 64
    fpPoison := false
    disp := none
    amax := [] }

end Sys2Proof.Machine
end

