-- ==== Sys2Proof/Machine/Ops.lean ====
section
/-! DEFINITION. The named operations over the parts of the state that every family of commands uses. -/

namespace Sys2Proof.Machine

/-- What a command answers. -/
abbrev Res := Host.Outcome State Fault Refusal

/-- A vector's message that was masked goes out when no mask stands in its way any longer. -/
def sendPending (v : Nat) (s : State) : State :=
  if s.glb.msixPba.getLsbD v && s.glb.pcie.msixOn && !s.vectorMasked v then
    msix v { s with glb := { s.glb with msixPba := s.glb.msixPba &&& ~~~(BitVec.ofNat 64 (2 ^ v)) } }
  else s

/-- The host configures the function (R328, R331). -/
def setPcie (cfg : PcieCfg) (s : State) : State :=
  (List.range 64).foldl (fun s v => sendPending v s) { s with glb := { s.glb with pcie := cfg } }

/-! ## Tenants and queues -/

def State.tenant (s : State) (t : Nat) : Tenant := sget Tenant.init s.ten t
def State.setTenant (s : State) (t : Nat) (x : Tenant) : State := { s with ten := sset Tenant.init s.ten t x }
def State.modTenant (s : State) (t : Nat) (f : Tenant → Tenant) : State := s.setTenant t (f (s.tenant t))

def Tenant.queue (x : Tenant) (q : Nat) : Queue := sget Queue.init x.queues q
def Tenant.setQueue (x : Tenant) (q : Nat) (v : Queue) : Tenant := { x with queues := sset Queue.init x.queues q v }
def Tenant.copy (x : Tenant) (c : Nat) : Copy := sget Copy.init x.copies c
def Tenant.setCopy (x : Tenant) (c : Nat) (v : Copy) : Tenant := { x with copies := sset Copy.init x.copies c v }
def Tenant.range (x : Tenant) (r : Nat) : MemRange := sget MemRange.init x.ranges r
def Tenant.scale (x : Tenant) (i : Nat) : ScaleSlot := sget ScaleSlot.init x.scales i

/-- The initial scales of a package in the tenant's scale slots (R57). -/
def Tenant.takeScales (l : List (BitVec 8)) (y : Tenant) : Tenant :=
  { y with scales := (List.range 16).foldl (fun m k =>
      supd ScaleSlot.init m k (fun v => { v with initExp := l.getD k v.initExp })) y.scales }

def Tenant.barrier (x : Tenant) (b : Nat) : Barrier := sget Barrier.init x.barriers b

def State.queue (s : State) (t q : Nat) : Queue := (s.tenant t).queue q
def State.setQueue (s : State) (t q : Nat) (v : Queue) : State := s.modTenant t (fun x => x.setQueue q v)
def State.modQueue (s : State) (t q : Nat) (f : Queue → Queue) : State := s.setQueue t q (f (s.queue t q))

/-! ## Arrays and pipelines -/

def State.arr (s : State) (a : Nat) : Arr := sget Arr.init s.ary a
def State.setArr (s : State) (a : Nat) (x : Arr) : State := { s with ary := sset Arr.init s.ary a x }
def State.modArr (s : State) (a : Nat) (f : Arr → Arr) : State := s.setArr a (f (s.arr a))

def State.pipeline (s : State) (p : Nat) : PipeSt := sget PipeSt.init s.pipe p
def State.setPipe (s : State) (p : Nat) (x : PipeSt) : State := { s with pipe := sset PipeSt.init s.pipe p x }
def State.modPipe (s : State) (p : Nat) (f : PipeSt → PipeSt) : State := s.setPipe p (f (s.pipeline p))

/-- The tenant whose binding names an array, the lowest number first (R15: at most one). -/
def State.aryTenant (s : State) (a : Nat) : Option Nat :=
  (List.range 32).find? (fun t => (s.tenant t).bindAry.getLsbD a)

/-! ## Express indices -/

def State.xid (s : State) (x : Nat) : Xid := sget Xid.init s.xpr.xids x
def State.setXid (s : State) (x : Nat) (v : Xid) : State :=
  { s with xpr := { s.xpr with xids := sset Xid.init s.xpr.xids x v } }
def State.modXid (s : State) (x : Nat) (f : Xid → Xid) : State := s.setXid x (f (s.xid x))

/-! ## DISPATCHes -/

def State.dispatch? (s : State) (id : Nat) : Option Dispatch := s.disp.find? (fun d => d.id == id)

/-- The DISPATCHes with one changed. -/
def updDispatch (id : Nat) (f : Dispatch → Dispatch) (l : List Dispatch) : List Dispatch :=
  l.map (fun d => if d.id == id then f d else d)

def State.modDispatch (s : State) (id : Nat) (f : Dispatch → Dispatch) : State :=
  { s with disp := updDispatch id f s.disp }

/-- The first fault of a DISPATCH and the unit it names are kept; one that only consumed poison runs to its end (R131, R135). -/
def Dispatch.faulted (code : BitVec 16) (unit : BitVec 64) (d : Dispatch) : Dispatch :=
  { d with fault := d.fault.or (some (code, unit)), discard := d.discard || code != Code.uePoison }

/-- The re-bindings under way that take a resource of a tenant: its planner gives the resource no new work, and tiles without it
(R141). -/
def State.leavingJobs (s : State) (t : Nat) : List RebindJob :=
  s.ten.filterMap (fun e => e.2.rebind.filter (fun j => !j.isScrub && j.fromT.any (fun f => f.val == t)))

/-- A re-binding issued before a DISPATCH takes a resource of its tenant. -/
def State.leavingFor (s : State) (t kind item disp : Nat) : Bool :=
  (s.leavingJobs t).any (fun j => j.kind == kind && j.item == item && decide (j.mark ≤ disp))

/-- An accepted re-binding or scrub is at work on an array, pipeline or key slot (R15, R141). -/
def State.claimed (s : State) (kind item : Nat) : Bool :=
  s.ten.any (fun e => e.2.rebind.any (fun j => j.accepted && j.kind == kind && j.item == item))

/-- A DISPATCH uses the resource of a job: the array it was tiled for, the partition, a pipeline where it has legs, a memory range or
the memory key slot where it reaches model memory (R141; notes/assumptions/67.md). -/
def RebindJob.usedBy (j : RebindJob) (s : State) (d : Dispatch) : Bool :=
  (match j.fromT with | none => false | some f => d.tenant == f.val) && decide (d.id < j.mark) &&
    (if j.kind = 0 then d.arrays.getLsbD j.item
     else if j.kind = 1 then true
     else if j.kind = 2 then d.usesLegs
     else if j.kind = 3 then d.usesMem
     else d.usesMem && (s.tenant d.tenant).mkSlot.any (fun k => k.val == j.item))

/-- A re-binding or scrub of a partition or a memory range, accepted, quiesces all of a tenant. -/
def State.allQuiesce (s : State) (t : Nat) : Bool :=
  s.ten.any (fun e => e.2.rebind.any (fun j =>
    j.accepted && (j.kind == 1 || j.kind == 3) && j.fromT.any (fun f => f.val == t)))

/-- A DISPATCH, where there is one, faulted. -/
def faultDispatch (id : Option Nat) (code : BitVec 16) (unit : BitVec 64) (s : State) : State :=
  match id with
  | none => s
  | some i => s.modDispatch i (Dispatch.faulted code unit)

/-! ## Rows with corrected errors (R195, R222) -/

/-- 24 hours of device time. -/
def day : Nat := 24 * 3600 * 100000000

/-- The oldest entry of a log whose count is 1. -/
def oldestOnce (l : List RowLog) : Option RowLog :=
  l.foldl (fun b e => if e.count ≠ 1 then b else match b with
    | none => some e
    | some x => if e.first < x.first then some e else b) none

/-- A corrected error of a row in a log of 64: an old entry restarts, and in a full log the oldest entry with count 1 gives way. -/
def noteRow (row now : Nat) (l : List RowLog) : List RowLog :=
  if l.any (fun e => e.row == row) then
    l.map (fun e => if e.row ≠ row then e else if e.first + day < now then ⟨row, 1, now⟩ else { e with count := e.count + 1 })
  else if l.length < 64 then l ++ [⟨row, 1, now⟩]
  else match oldestOnce l with
    | none => l
    | some x => l.filter (· != x) ++ [⟨row, 1, now⟩]

def logSidRow (a row : Nat) (s : State) : State :=
  s.modArr a (fun x => { x with rowLog := noteRow row s.glb.devTime x.rowLog })

def logBankRow (b row : Nat) (s : State) : State :=
  let v := sget Bank.init s.mtc.banks b
  let w := { v with rowLog := noteRow row s.glb.devTime v.rowLog }
  { s with mtc := { s.mtc with banks := sset Bank.init s.mtc.banks b w } }

/-- The first memory fault while MTC_FAULT is clear (R227). -/
def Mtc.noteFault (m : Mtc) (code : BitVec 16) (t addr : Nat) : Mtc :=
  if m.faultValid then m
  else { m with faultValid := true, faultTenant := BitVec.ofNat 5 t, faultCode := code, faultAddr := BitVec.ofNat 48 addr }

/-- UE_POISON is a memory fault like any other (R227, R372). -/
def noteUe (t : Option Nat) (code : BitVec 16) (addr : Nat) (s : State) : State :=
  if code = Code.uePoison then { s with mtc := s.mtc.noteFault code (t.getD 0) addr } else s

/-- MEM_FULL and MEM_NO_KEY that an instruction completes with are memory faults (R199, R200, R227). -/
def noteMem (code : BitVec 16) (t addr : Nat) (s : State) : State :=
  if code = Code.memFull ∨ code = Code.memNoKey then { s with mtc := s.mtc.noteFault code t addr } else s

/-- Siding spare rows mapped at test. -/
def Fuses.sidTest (f : Fuses) (a : Nat) : Nat := ((List.range 6).map (fun m => (sget 0 f.sidSpareTest (8 * a + m)).toNat)).sum

/-- The bank and row of a concourse address. -/
def conBank (addr : Nat) : Nat := bitsOf addr 13 8
def conRow (addr : Nat) : Nat := bitsOf addr 27 14

def logConRow (addr : Nat) (s : State) : State := logBankRow (conBank addr) (conRow addr) s

/-! ## Components (R299, R304) -/

/-- A component's number in State. -/
def compIdx : Comp → Nat
  | .bootmon => 0
  | .spdm => 1
  | .keymgr => 2
  | .planner1 => 3
  | .planner2 => 4
  | .planner3 => 5
  | .planner4 => 6
  | .shunt => 7
  | .loader => 8
  | .mgmt => 9
  | .telem => 10
  | .express => 11

def State.compHeld (s : State) (c : Comp) : Bool := (sget CompSt.init s.sec.comps (compIdx c)).held

/-- The planner component of a core. -/
def plannerComp (core : Nat) : Comp :=
  if core = 1 then .planner1 else if core = 2 then .planner2 else if core = 3 then .planner3
  else if core = 4 then .planner4 else .express

/-! ## The device -/

/-- The operating states in which tenants may run (R362). -/
def State.serving (s : State) : Bool :=
  match s.glb.st with
  | .ready => true
  | .degraded => true
  | _ => false

/-- One 10 ns cycle of the 100 MHz reference: device time advances (R135, R358). -/
def tick (s : State) : State := { s with glb := { s.glb with devTime := s.glb.devTime + 1 } }

end Sys2Proof.Machine
end

