-- ==== Sys2Proof/Machine/Safe.lean ====
section
/-! DEFINITION. The device state, the safety link's transmit queues, SAFE_HOLD and DEGRADED (R288 to R291, R362, R363), express
members and their partitions (R265 to R267). -/

namespace Sys2Proof.Machine

/-! ## Device state -/

/-- A change of GLB_STATE: PREV keeps the state left, and vector 0 tells of it (R333, R362, R364). -/
def setDev (d : DevState) (s : State) : State :=
  if s.glb.st = d then s else msix 0 { s with glb := { s.glb with st := d, prev := s.glb.st } }

/-- The code of a device state (R362). -/
def devCode : DevState → Nat
  | .off => 0
  | .reset => 1
  | .boot => 2
  | .verify => 3
  | .train => 4
  | .selftest => 5
  | .awaitHost => 6
  | .ready => 7
  | .degraded => 8
  | .safeHold => 9
  | .rejected => 0xA

/-- The signal-box state codes (R297). -/
def sbCode : SbState → Nat
  | .disarmed => 0
  | .arming => 1
  | .idle => 2
  | .running => 3
  | .rerun => 4
  | .held => 5

/-! ## Armed tenants, members, the spare -/

/-- An express index whose tenant is armed: from the completion of XPRARM to disarming. HELD is left only by device RESET, so a
tenant disarmed in SAFE_HOLD shows it without pairs (R272, R283). -/
def Xid.armed (x : Xid) : Bool :=
  match x.st with
  | .disarmed => false
  | .arming => false
  | .held => !x.roles.isEmpty
  | _ => true

def State.armedXids (s : State) : List Nat := (List.range 4).filter (fun x => (s.xid x).armed)
def State.anyArmed (s : State) : Bool := !s.armedXids.isEmpty

/-- The armed index whose tenant is `t`. -/
def State.tenantXid (s : State) (t : Nat) : Option Nat :=
  s.armedXids.find? (fun x => (s.xid x).tenant.toNat == t)

/-- Index, pair role and member number of an array of an armed tenant (R265). -/
def State.memberOf (s : State) (a : Nat) : Option (Nat × Nat × Nat) :=
  s.armedXids.findSome? (fun x =>
    (s.xid x).roles.zipIdx.findSome? (fun r =>
      if r.1.1 = a then some (x, r.2, 0) else if r.1.2 = a then some (x, r.2, 1) else none))

/-- The member number of an array of the spare pair. -/
def State.spareOf (s : State) (a : Nat) : Option Nat :=
  if !s.xpr.spareValid then none
  else if s.xpr.spa.toNat = a then some 0 else if s.xpr.spb.toNat = a then some 1 else none

/-- An array whose images are express images: bound to an express tenant, or of the spare pair (R119). -/
def State.aryExpress (s : State) (a : Nat) : Bool :=
  (s.spareOf a).isSome ||
    (match s.aryTenant a with | none => false | some t => (s.tenant t).cls == 1)

/-- The coupled partner of an array (R71, R265). -/
def State.partner (s : State) (a : Nat) : Option Nat :=
  if (s.arr a).paired then some (s.arr a).partner.toNat else none

/-! ## Concourse partitions (R104, R266, R267) -/

/-- How an array resolves partition offsets: base in MiB, the mirror's XOR, size in MiB, and its writable region when armed. -/
structure Part where
  base : Nat
  flip : Bool
  size : Nat
  wr : Option (Nat × Nat)
deriving DecidableEq, Repr

def Xid.part (x : Xid) (member : Nat) : Part :=
  ⟨if member = 0 then x.base else x.mbase, member == 1, x.size, some (x.table.wrOff, x.table.wrSize)⟩

def State.part (s : State) (a : Nat) : Part :=
  match s.memberOf a with
  | some (x, _, m) => (s.xid x).part m
  | none =>
    match s.spareOf a, s.xpr.spareRan with
    | some m, some t =>
      (match s.tenantXid t with
       | some x => (s.xid x).part m
       | none => ⟨0, false, 0, none⟩)
    | _, _ =>
      match s.aryTenant a with
      | some t => ⟨(s.tenant t).conBase.toNat, false, (s.tenant t).conSize.toNat, none⟩
      | none => ⟨0, false, 0, none⟩

/-- The concourse address of a partition offset (R266). -/
def Part.addr (p : Part) (x : Nat) : Nat := p.base * 2 ^ 20 + (if p.flip then x ^^^ 0x2000 else x)

/-- A read, or a write, of `n` bytes at an offset stays in the partition and, written, in the writable region. -/
def Part.allows (p : Part) (write : Bool) (x n : Nat) : Bool :=
  decide (x + n ≤ p.size * 2 ^ 20) &&
    (match p.wr with
     | some (o, z) => !write || (decide (o ≤ x) && decide (x + n ≤ o + z))
     | none => true)

/-- Bytes at a partition offset cut into runs that stay contiguous under the XOR of R266: address and bytes. -/
def Part.runs (p : Part) : Nat → Nat → List MByte → List (Nat × List MByte)
  | 0, _, _ => []
  | f + 1, x, l =>
    if l.isEmpty then [] else
      let k := 0x2000 - x % 0x2000
      (p.addr x, l.take k) :: Part.runs p f (x + k) (l.drop k)

/-- A byte of the concourse as it is read: inside the destination of an STC that has not completed, either value (R116). -/
def State.conByte (s : State) (addr : Nat) : MByte :=
  let now : MByte := (sget 0 s.mtc.con addr, sget false s.mtc.conPoison (addr / 8))
  s.ary.foldl (fun v e =>
    let p := s.part e.1
    e.2.moves.foldl (fun v m =>
      if m.kind = .stc then
        let i := (m.data.zipIdx.find? (fun b => p.addr (m.con + b.2) == addr))
        match i with
        | some b => if Config.moveTakesLater e.1 e.2.cyc addr s.free then b.1 else v
        | none => v
      else v) v) now

/-- Bytes of the concourse by address; the moves of R116 are looked at only where there are any. -/
def State.conRead (s : State) (addr n : Nat) : List MByte :=
  if s.ary.any (fun e => e.2.moves.any (fun m => m.kind == .stc)) then
    (List.range n).map (fun i => s.conByte (addr + i))
  else getMarked s.mtc.con s.mtc.conPoison addr n

/-- A concourse move of an array whose bytes another operation writes (R116). -/
def MoveOp.conTouched (p : Part) (a f cyc addr : Nat) (l : List MByte) (m : MoveOp) : MoveOp :=
  if m.kind = .ldc ∨ m.kind = .stc then
    { m with data := m.data.zipIdx.map (fun b =>
        let at_ := p.addr (m.con + b.2)
        if addr ≤ at_ ∧ at_ < addr + l.length ∧ Config.moveTakesLater a cyc at_ f then l.getD (at_ - addr) b.1 else b.1) }
  else m

/-- Bytes written to the concourse by address. -/
def conWrite (addr : Nat) (l : List MByte) (s : State) : State :=
  { s with
    mtc := { s.mtc with con := putBytes s.mtc.con addr l, conPoison := putMarks s.mtc.conPoison addr l }
    ary := s.ary.map (fun e =>
      (e.1, { e.2 with moves := e.2.moves.map (MoveOp.conTouched (s.part e.1) e.1 s.free e.2.cyc addr l) })) }

/-- Data whose flits have failed for good is poison, by word (R220, R295). -/
def markLost (words : List Nat) (l : List MByte) : List MByte := l.zipIdx.map (fun b => (b.1.1, b.1.2 || words.contains (b.2 / 8)))

/-- Bytes at a partition offset, read and written. -/
def State.partRead (s : State) (p : Part) (x n : Nat) : List MByte :=
  (p.runs (n / 0x2000 + 2) x (List.replicate n (0, false))).flatMap (fun r => s.conRead r.1 r.2.length)

def partWrite (p : Part) (x : Nat) (l : List MByte) (s : State) : State :=
  (p.runs (l.length / 0x2000 + 2) x l).foldl (fun s r => conWrite r.1 r.2 s) s

/-- What reads of some MiB of the concourse meet: rows with a corrected error are logged, words found uncorrectable are poison until
they are written (R198, notes/assumptions/39.md). -/
def conErrsIn (base size : Nat) (ce ue : List Nat) (s : State) : State :=
  let bad := ue.filter (fun w => decide (base * 2 ^ 17 ≤ w) && decide (w < (base + size) * 2 ^ 17))
  ce.foldl (fun s a => logConRow a s)
    { s with mtc := { s.mtc with conPoison := markWords s.mtc.conPoison (bad.map (8 * ·)) } }

/-- What reads of a tenant's partition meet. -/
def conErrs (t : Nat) (ce ue : List Nat) (s : State) : State :=
  conErrsIn (s.tenant t).conBase.toNat (s.tenant t).conSize.toNat ce ue s

/-- What reads of an express index's partition and of its mirror meet. -/
def xidErrs (x : Nat) (ce ue : List Nat) (s : State) : State :=
  let v := s.xid x
  conErrsIn v.mbase v.size [] ue (conErrsIn v.base v.size ce ue s)

/-! ## Frames (R290, R291) -/

/-- A frame's first 60 bytes; the lane bit and LINKSEQ are put in when it is sent. -/
def mkFrame (type xid : Nat) (seq : BitVec 16) (frag nfrag : Nat) (payload : Bytes) : Bytes :=
  [BitVec.ofNat 8 type, BitVec.ofNat 8 (xid * 64)] ++ leBytes 2 seq.toNat ++
    [BitVec.ofNat 8 frag, BitVec.ofNat 8 nfrag, 0, 0] ++ payload.take 52 ++ List.replicate (52 - payload.length) 0

/-- The frame as sent on a lane: LANE, LINKSEQ and CRC-32C. -/
def sealFrame (lane : Lane) (seq : BitVec 16) (fr : Bytes) : Bytes :=
  let b1 := (fr.getD 1 0) ||| (match lane with | .a => 0 | .b => 0x20)
  let body := fr.take 1 ++ [b1] ++ (fr.drop 2).take 4 ++ leBytes 2 seq.toNat ++ fr.drop 8
  body ++ leBytes 4 (crc32c body)

/-- The character of an idle slot, and those that stand for a frame's TYPE (R345). -/
def idleChar : LineChar := .k 28 5
def typeChars : List (BitVec 8 × LineChar) :=
  [(0x11, .k 28 1), (0x1E, .k 28 2), (0x21, .k 28 3), (0x22, .k 28 4), (0x23, .k 28 6), (0x2E, .k 28 0)]

/-- A frame's 64 characters. -/
def frameChars (f : Bytes) : List LineChar :=
  (typeChars.find? (fun e => e.1 == f.headD 0)).elim idleChar (·.2) :: (f.drop 1).map .d

def State.lane (s : State) (l : Lane) : LaneSt := match l with | .a => s.xpr.laneA | .b => s.xpr.laneB
def State.setLane (s : State) (l : Lane) (v : LaneSt) : State :=
  match l with
  | .a => { s with xpr := { s.xpr with laneA := v } }
  | .b => { s with xpr := { s.xpr with laneB := v } }
def State.modLane (s : State) (l : Lane) (f : LaneSt → LaneSt) : State := s.setLane l (f (s.lane l))

/-- A frame put in the queue of a source of a lane. -/
def laneQueue (l : Lane) (src : Nat) (fr : Bytes) (s : State) : State :=
  s.modLane l (fun v => { v with txq := supd [] v.txq src (fun q => q ++ [fr]) })

/-- A frame put in the queue on both lanes. -/
def bothLanes (src : Nat) (fr : Bytes) (s : State) : State := laneQueue .b src fr (laneQueue .a src fr s)

/-- INVALID with a reason for a SEQ (R291). -/
def invalidFrame (x : Nat) (seq : BitVec 16) (reason : Nat) : Bytes := mkFrame 0x22 x seq 0 0 [BitVec.ofNat 8 reason]

/-- HOLD with its causing code. -/
def holdFrame (code : BitVec 16) : Bytes := mkFrame 0x23 0 0 0 0 (leBytes 2 code.toNat)

/-- RES frames leave a lane's queues (R288). -/
def dropRes (v : LaneSt) : LaneSt :=
  { v with txq := (v.txq.map (fun e => (e.1, e.2.filter (fun fr => fr.headD 0 != 0x21)))).filter (fun e => decide (e.2 ≠ [])) }

/-! ## SAFE_HOLD and DEGRADED -/

/-- An armed tenant's state when SAFE_HOLD is asserted. -/
def Xid.held (x : Xid) : Xid :=
  if x.armed then { x with st := .held, inv := none, waitSeq := none, rerun := none } else x

/-- SAFE_HOLD with its causing code; nothing while no tenant is armed, or when asserted already (R288, R289). -/
def safeHold (code : BitVec 16) (s : State) : State :=
  if !s.anyArmed || s.glb.st == .safeHold then s
  else
    let s1 := { s with
      glb := { s.glb with safeHoldN := false, smbAlertN := false }
      xpr := { s.xpr with
        holdCode := code
        holdTime := s.glb.devTime
        proof := none
        xids := (s.xpr.xids.map (fun e => (e.1, e.2.held))).filter (fun e => decide (e.2 ≠ Xid.init))
        laneA := dropRes s.xpr.laneA
        laneB := dropRes s.xpr.laneB } }
    bothLanes 4 (holdFrame code) (record Code.safeHoldEntered none unitSbox code.toNat 0 (setDev .safeHold s1))

/-- READY and DEGRADED follow the spare and the lanes while a tenant is armed (R289). -/
def updDegraded (s : State) : State :=
  let bad := s.anyArmed && (!s.xpr.spareReady || s.xpr.laneA.faulted || s.xpr.laneB.faulted)
  match s.glb.st with
  | .ready => if bad then setDev .degraded s else s
  | .degraded => if bad then s else setDev .ready s
  | _ => s

/-- An open recovery window turns a further fault into SAFE_HOLD (R281). -/
def State.windowOpen (s : State) : Bool := (List.range 4).any (fun x => (s.xid x).window)

/-! ## Cycles that pass -/

/-- The slots of the bundle issued last that still have something to do. -/
def Arr.curDone (x : Arr) : Bool :=
  match x.cur with
  | none => true
  | some c =>
    let b := c.bundle.toNat
    !((c.l && lOp b != 0) || (c.m && mOp b != 0) || (c.v && vOp b != 0) || (c.d && dOp b != 0) || (c.c && cOp b != 0))

/-- What cycles of an array gave to record: poison consumed faults the DISPATCH, and is recorded when it is the DISPATCH's first
fault; on a member, poison reaches the signal box by the fingerprint's flag (R85). -/
def noteCodes (a : Nat) : List (BitVec 16) → State → State
  | [], s => s
  | c :: r, s =>
    let s1 :=
      if c = Code.uePoison then
        match (s.arr a).disp.bind s.dispatch? with
        | none => s
        | some d =>
          let s1 := s.modDispatch d.id (Dispatch.faulted c (BitVec.ofNat 64 a))
          if d.fault.isNone then record c (s.aryTenant a) (unitArray a) 0 0 (noteUe (s.aryTenant a) c 0 s1) else s1
      else record c (s.aryTenant a) (unitArray a) 0 0 s
    noteCodes a r s1

/-- Unheld cycles of an array pass up to its cycle `c`. -/
def runTo (a c : Nat) (s : State) : State :=
  let x := s.arr a
  let n := passCycles a s.free (c - x.cyc) (x, [])
  noteCodes a n.2 (s.setArr a n.1)

/-! ## Holds of an array and its partner (R69 to R72) -/

def holdBit : HoldSrc → Nat
  | .sidCe => 0
  | .conCe => 1
  | .conLate => 2
  | .accCe => 3
  | .portBp => 4
  | .pair => 5

/-- Sources of the array's own. -/
def Arr.ownHolds (x : Arr) : List Hold := x.holds.filter (fun h => h.src != .pair)

/-- The sources in force, bit i for source i of ARY_HOLD_SRC (R69). -/
def Arr.activeSrcs (x : Arr) : BitVec 6 := x.holds.foldl (fun v h => v ||| BitVec.ofNat 6 (2 ^ holdBit h.src)) 0

/-- Corrected-error sources, counted and logged (R72). -/
def correctedSrc : HoldSrc → Bool
  | .sidCe => true
  | .conCe => true
  | .accCe => true
  | _ => false

/-- An array in force of a source: its bit in SEEN, its state HOLD. -/
def Arr.addHold (x : Arr) (h : Hold) : Arr :=
  { x with
    holds := x.holds.filter (fun g => g.src != .pair || h.src == .pair) ++ [h]
    holdSeen := x.holdSeen ||| BitVec.ofNat 6 (2 ^ holdBit h.src)
    st := if x.st = .run then .hold else x.st }

/-- An array that its partner alone holds, or that nothing holds any longer. -/
def Arr.followPartner (x : Arr) (held : Bool) : Arr :=
  if !x.ownHolds.isEmpty then x
  else if held then
    (if x.holds.isEmpty && (x.st == .run || x.st == .hold) then x.addHold ⟨.pair, none⟩ else x)
  else { x with holds := [], heldNow := 0, st := if x.st = .hold then .run else x.st }

/-- Held cycles of a hold up to its cycle `n`, each counted once (R72, R74). -/
def Arr.countHeld (x : Arr) (n : Nat) : Arr :=
  if x.holds.isEmpty then x
  else { x with holdCyc := satAdd x.holdCyc (n - x.heldNow), segCount := x.segCount + (n - x.heldNow), heldNow := max x.heldNow n }

/-- Both members of a pair, or the array alone, changed by a function of member and whether it is the array itself. -/
def modPair (a : Nat) (f : Arr → Arr) (g : Arr → Arr) (s : State) : State :=
  match s.partner a with
  | none => s.modArr a f
  | some b => (s.modArr a f).modArr b g

/-- The first cycle up to `c` in which a hold source becomes active. -/
def Arr.firstDue (x : Arr) (c : Nat) : Option Nat := ((x.dueHolds.map DueHold.cycle).filter (fun n => decide (n ≤ c))).min?

/-- The coupled partner of an array, while an image runs on it: the two count their unheld cycles from a common start, so that each
A-cycle of the pair has one number (R71). -/
def State.mate (s : State) (a : Nat) : Option Nat :=
  (s.partner a).filter (fun b => (s.arr b).active.isSome && ((s.arr b).st == .run || (s.arr b).st == .hold))

/-- A member has done all that precedes the present cycle of the other: nothing of it is left but to pass the cycles up to there. -/
def Arr.level (x y : Arr) : Bool :=
  y.curDone && y.lastIssue == x.lastIssue && decide (y.cyc ≤ x.cyc) && y.dueHolds.all (fun h => decide (x.cyc < h.cycle)) &&
    y.movesAllow false x.cyc

/-- A hold of an array can be settled for both members: the partner, where it runs, stands in the same A-cycle. -/
def State.abreast (s : State) (a : Nat) : Bool := (s.mate a).all (fun b => (s.arr a).level (s.arr b))

/-- A member may pass to a cycle, or to the cycle before it in which a hold source of its own becomes active: the other's bundles up to
there have issued, and no source of the other is active before (R71). -/
def State.pairAllows (s : State) (issue : Bool) (a c : Nat) : Bool :=
  match s.mate a with
  | none => true
  | some b =>
    let x := s.arr a
    let y := s.arr b
    let m := (x.firstDue c).getD c
    let whole := issue && (x.firstDue c).isNone
    y.curDone && (decide (m ≤ y.nextIssue) || y.wait != .none) && y.movesAllow whole m &&
      y.dueHolds.all (fun h => decide (m < h.cycle) || (!whole && h.cycle == m)) &&
      (y.ownHolds.isEmpty || decide (m < y.cyc) || (m == y.cyc && (!whole || y.lastIssue == m)))

/-- After the sources of `a` changed: who holds whom. A partner that is still to reach the cycle of the hold goes there first, and one
with bundles or sources before it is held when it has come there (`endHold`). -/
def settleHolds (a : Nat) (s : State) : State :=
  match s.partner a with
  | none => s.modArr a (fun x => if x.ownHolds.isEmpty then x.followPartner false else x)
  | some b =>
    let ha := !(s.arr a).ownHolds.isEmpty
    let hb := !(s.arr b).ownHolds.isEmpty
    let s1 := s.modArr a (fun x => x.followPartner hb)
    if !ha then s1.modArr b (fun x => x.followPartner false)
    else if (s.mate a).isSome && s.abreast a then (runTo b (s.arr a).cyc s1).modArr b (fun x => x.followPartner true)
    else s1

/-- A hold source becomes active on an array; `len` held cycles for one of fixed length (R69, R71, R72). -/
def startHold (a : Nat) (src : HoldSrc) (len : Option Nat) (s : State) : State :=
  let x := s.arr a
  let s1 := s.setArr a (x.addHold ⟨src, len.map (· + x.heldNow)⟩)
  let s2 := settleHolds a s1
  if correctedSrc src then
    let s3 := s2.modArr a (fun y => { y with ceStall := satAdd y.ceStall 1 })
    record Code.ceStall (s.aryTenant a) (unitArray a) (2 ^ holdBit src) 0
      { s3 with frc := { s3.frc with ceStall := satAdd s3.frc.ceStall 1 } }
  else s2

/-- Held cycles of a source of fixed length (R69). -/
def holdLength : HoldSrc → Option Nat
  | .sidCe => some 2
  | .accCe => some 1
  | _ => none

/-- A hold source that an operation in flight meets becomes active; a corrected siding error is logged by row (R69, R222). -/
def DueHold.start (a : Nat) (h : DueHold) (s : State) : State :=
  let s1 := match h.row with | none => s | some row => logSidRow a row s
  if (s1.arr a).holds.any (fun g => g.src == h.src) then s1 else startHold a h.src (holdLength h.src) s1

/-- The hold sources due by the present cycle become active. -/
def startDue (a : Nat) (s : State) : State :=
  let x := s.arr a
  (x.dueHolds.filter (fun h => decide (h.cycle ≤ x.cyc))).foldl (fun s h => h.start a s)
    (s.setArr a { x with dueHolds := x.dueHolds.filter (fun h => decide (x.cyc < h.cycle)) })

/-- Hold sources noted for an operation issued in the present cycle, by their cycles from it, those beyond its `n` cycles left
out. -/
def Arr.noteDue (x : Arr) (src : HoldSrc) (n : Nat) (offs : List (Nat × Option Nat)) : Arr :=
  { x with dueHolds := x.dueHolds ++
      (offs.filter (fun o => decide (o.1 < n))).map (fun o => ⟨x.cyc + o.1, src, o.2⟩) }

/-- A source of a hold ends after `n` held cycles of the hold in force, in which a partner has been held too (R71, R72). -/
def endHold (a : Nat) (src : HoldSrc) (n : Nat) (s : State) : State :=
  let count (x : Arr) : Arr := x.countHeld n
  let s1 := modPair a count count (settleHolds a s)
  settleHolds a (s1.modArr a (fun x => { x with holds := x.holds.filter (fun h => h.src != src) }))

end Sys2Proof.Machine
end

