-- ==== Sys2Proof/Machine/XprOps.lean ====
section
/-! DEFINITION. The signal box: restarts, member faults, the spare, the comparison at a barrier (R276 to R285), and how an array's
stop reaches it (R279, R381). -/

namespace Sys2Proof.Machine

/-! ## Images of members and of the spare -/

/-- An image with its entry and presets replaced and its CRC-32C recomputed (R280). -/
def patchImage (img : Bytes) (entry : Nat) (preset : Nat → Nat) : Bytes :=
  let w2 := imgWord img 8 / 2048 * 2048 + entry % 2048
  sealImage (setPresets (img.take 8 ++ leBytes 4 w2 ++ img.drop 12) preset)

/-- The image of a pair role in a copy of the partition. -/
def State.roleImage (s : State) (x role member : Nat) : Bytes :=
  let v := s.xid x
  let p := v.part member
  let off := (v.table.roles.getD role (0, 0)).1
  let head := (s.partRead p off 8).map (·.1)
  (s.partRead p off (0xC0 + 32 * min 2048 (imgCount head))).map (·.1)

/-- Word `k` of step `st` of a role's step table (R268). -/
def State.stepWord (s : State) (x role st k : Nat) : Nat :=
  let v := s.xid x
  let off := (v.table.roles.getD role (0, 0)).2
  leNat ((s.partRead (v.part 0) (off + 128 * st + 4 * k) 4).map (·.1))

/-- i30 and i31 for a SEQ (R276). -/
def Xid.resPreset (v : Xid) (seq : BitVec 16) : Nat := v.table.resOff + 1024 * (seq.toNat % 2)
def Xid.reqPreset (v : Xid) (seq : BitVec 16) : Nat := v.table.reqOff + 2048 * (seq.toNat % 2)

/-- A member or spare array takes an image into slot 0 and starts it. -/
def runImage (a : Nat) (img : Bytes) (x : Arr) : Arr :=
  startImage a 0 { x with slot0 := ⟨.ready, img, none, x.submits⟩, fp := BitVec.allOnes 64, fpPoison := false }

/-- The spare pair starts step `st` of a role of index `x`, scrubbed first when it last ran another tenant (R280, R284). -/
def startSpare (x role st : Nat) (seq : BitVec 16) (s : State) : State :=
  let v := s.xid x
  let t := v.tenant.toNat
  let clean (y : Arr) : Arr := if s.xpr.spareRan = some t then y else scrubArr y
  let preset (k : Nat) : Nat :=
    if k = 30 then v.resPreset seq else if k = 31 then v.reqPreset seq else s.stepWord x role st k
  let img (m : Nat) : Bytes := patchImage (s.roleImage x role m) (bitsOf (s.stepWord x role st 0) 10 0) preset
  let a := s.xpr.spa.toNat
  let b := s.xpr.spb.toNat
  let at_ := max (s.arr a).cyc (s.arr b).cyc
  let ready (y : Arr) : Arr := { clean y with cyc := at_, lastIssue := at_ }
  let s1 := (s.modArr a (fun y => runImage a (img 0) (ready y))).modArr b (fun y => runImage b (img 1) (ready y))
  { s1 with xpr := { s1.xpr with spareRan := some t } }

/-- A spare array comes to rest: it issues nothing further. -/
def Arr.rest (x : Arr) : Arr :=
  { x.dropOps with st := .idle }

def restSpare (s : State) : State :=
  (s.modArr s.xpr.spa.toNat Arr.rest).modArr s.xpr.spb.toNat Arr.rest

/-- The barriers that a tenant's arrays have arrived at are set back (R113). -/
def clearBarrier (t bar : Nat) (s : State) : State :=
  s.modTenant t (fun y => { y with barriers := sset Barrier.init y.barriers bar Barrier.init })

/-! ## Faults of members and of the spare -/

/-- An array retired from the express path: it stops and carries ARY_FAULT (R280). -/
def Arr.retire (x : Arr) : Arr :=
  { x.rest with st := .fault, faultValid := true, paired := false, partner := 0, spare := false
                slot0 := ImageSlot.init, slot1 := ImageSlot.init }

/-- The spare pair is retired: no spare until one is formed (R280, R284). -/
def retireSpare (s : State) : State :=
  let a := s.xpr.spa.toNat
  let b := s.xpr.spb.toNat
  let s1 := (s.modArr a Arr.retire).modArr b Arr.retire
  updDegraded { s1 with xpr := { s1.xpr with
    spareValid := false, spareReady := false, spa := 0, spb := 0, spareRan := none, proved := [], proof := none
    retired := s1.xpr.retired ++ [a, b] } }

/-- An array that a spare pair may be formed from: idle, bound to no tenant, not retired, not the spare (R271, R285). -/
def State.idleArray (s : State) (a : Nat) : Bool :=
  (s.aryTenant a).isNone && !s.xpr.retired.contains a && (s.spareOf a).isNone && !(s.arr a).paired

/-- An idle array that no re-binding or scrub is at work on. -/
def State.freeArray (s : State) (a : Nat) : Bool := s.idleArray a && !s.claimed 0 a

/-- Two arrays become the spare pair, scrubbed; it is ready once each armed tenant has passed a proof on it (R285). -/
def formSpare (a b : Nat) (s : State) : State :=
  let mk (p : Nat) (x : Arr) : Arr := { scrubArr x with paired := true, partner := BitVec.ofNat 6 p, spare := true }
  let s1 := (s.modArr a (mk b)).modArr b (mk a)
  { s1 with xpr := { s1.xpr with
      spareValid := true, spareReady := false, spa := BitVec.ofNat 6 a, spb := BitVec.ofNat 6 b
      formed := satAdd s1.xpr.formed 1, spareRan := none, proved := [], proof := none } }

/-- With a tenant armed and no spare pair, the two lowest-numbered idle arrays are taken, outside a recovery window (R285). -/
def autoForm (s : State) : State :=
  if s.xpr.spareValid || !s.anyArmed || s.windowOpen || s.glb.st == .safeHold then s
  else match (List.range 64).filter s.freeArray with
    | a :: b :: _ => formSpare a b s
    | _ => s

/-- A re-run fails: SPARE_FAULT, the spare retired, SAFE_HOLD (R280). -/
def rerunFails (x : Nat) (code : BitVec 16) (s : State) : State :=
  let s1 := record Code.spareFault (some (s.xid x).tenant.toNat) s.xpr.spa.toNat 0 0 s
  safeHold code (retireSpare s1)

/-- A member fault of step `st` of role `r` of index `x` (R279 to R281). Both members of a pair that stop in one step are one member
fault of it: the second adds nothing while the first is being re-run (DEDUCED, notes/assumptions/42.md). -/
def memberFault (x r st : Nat) (s : State) : State :=
  let v := s.xid x
  if v.rerun.any (fun k => k.role == r && k.step == st) then s else
  let t := v.tenant.toNat
  let a := (v.roles.getD r (0, 0)).1
  let s1 := record Code.pairMismatch (some t) (unitArray a) (st % 64 * 256 + r) 0
    (s.modXid x (fun v => { v with mismatch := satAdd v.mismatch 1 }))
  if !s.xpr.spareReady then safeHold Code.noSpare (record Code.noSpare (some t) unitSbox 0 0 s1)
  else if s.windowOpen then safeHold Code.pairMismatch s1
  else
    let seq := match v.inv with | some i => i.seq | none => v.seq
    let s2 := bothLanes x (invalidFrame x seq 0x01) s1
    let s3 := s2.modXid x (fun v => { v with
      st := .rerun, window := true, windowSeq := none, rerun := some ⟨r, st, s.glb.devTime⟩ })
    startSpare x r st seq { s3 with xpr := { s3.xpr with proof := none } }

/-- The step that an index's invocation is in. -/
def Xid.stepNow (v : Xid) : Nat := match v.inv with | some i => i.step | none => 0

/-! ## The stop of an array (R131, R381) -/

/-- Abandoned STCs leave each byte of their destination holding either content. -/
def abandonStores (a : Nat) (s : State) : State :=
  let x := s.arr a
  let p := s.part a
  (x.moves.filter (fun m => m.kind == .stc)).foldl (fun s m =>
    m.data.zipIdx.foldl (fun s b =>
      let at_ := p.addr (m.con + b.2)
      if Config.moveTakesLater a x.cyc at_ s.free then
        { s with mtc := { s.mtc with
            con := sset 0 s.mtc.con at_ b.1.1, conPoison := putMarks s.mtc.conPoison at_ [b.1] } }
      else s) s) s

/-- The images of a DISPATCH leave an array's slots; an image without one, or of another, stays. -/
def Arr.dropImages (id : Option Nat) (x : Arr) : Arr :=
  let drop (v : ImageSlot) : ImageSlot := if id.isSome && v.disp == id then ImageSlot.init else v
  { x with slot0 := drop x.slot0, slot1 := drop x.slot1 }

/-- One image of a DISPATCH fewer to end on an array; all of them when the DISPATCH has faulted there. -/
def Dispatch.imageGone (a : Nat) (all : Bool) (d : Dispatch) : Dispatch :=
  { d with imagesLeft := if all then d.imagesLeft.filter (· != a) else d.imagesLeft.erase a }

/-- The amaxes that an array holds for a DISPATCH join the DISPATCH's (R56). -/
def Dispatch.harvest (x : Arr) (d : Dispatch) : Dispatch :=
  { d with amax := (List.range 16).foldl (fun m k => supd 0 m k (fun v => fmax v (sget 0 x.amax (d.id * 16 + k)))) d.amax }

/-- DISPATCHes that had images to run on an array lose work (R141). -/
def loseArray (f a : Nat) (s : State) : State :=
  { s with disp := s.disp.map (fun d0 =>
      let d := d0.harvest (s.arr a)
      if d.tenant = f ∧ a ∈ d.imagesLeft then
        { (d.faulted Code.rebindLost (BitVec.ofNat 64 (unitArray a))) with imagesLeft := d.imagesLeft.filter (· != a) }
      else d) }

/-- An array is quiet for a quiesce. -/
def Arr.stopped (x : Arr) : Bool := x.active.isNone || x.st == .paused || x.st == .fault

/-- The quiesce of a job has come to its end (R141). -/
def State.quiesceOver (s : State) (j : RebindJob) : Bool :=
  match j.fromT with
  | none => true
  | some f =>
    let noLeg (p : Nat) : Bool := (s.pipeline p).leg.all (fun g => g.req.tenant != f.val)
    if j.kind = 0 then (s.arr j.item).stopped
    else if j.kind = 2 then noLeg j.item
    else if j.kind = 4 then true
    else (List.range 64).all (fun a => !(s.tenant f.val).bindAry.getLsbD a || (s.arr a).stopped) && (List.range 16).all noLeg

/-- The quiesce of a partition, a memory range or a key slot is over: the DISPATCHes that use it lose it (R131, R141). -/
def loseShared (j : RebindJob) (s : State) : State :=
  if j.accepted && (j.kind == 1 || j.kind == 3 || j.kind == 4) && s.quiesceOver j then
    { s with disp := s.disp.map (fun d =>
        if j.usedBy s d then d.faulted Code.rebindLost (BitVec.ofNat 64 unitNone) else d) }
  else s

def settleLost (s : State) : State := (s.ten.filterMap (·.2.rebind)).foldl (fun s j => loseShared j s) s

/-- The tenant that an accepted re-binding or scrub takes an array from. -/
def State.takenFrom (s : State) (a : Nat) : Option Nat :=
  s.ten.findSome? (fun e => match e.2.rebind with
    | none => none
    | some j => if j.accepted && j.kind == 0 && j.item == a then j.fromT.map (fun f => f.val) else none)

/-- A quiesced array that a re-binding or scrub takes has stopped: the DISPATCHes with images for it lose work, and its scrub begins
(R141). -/
def takeQuiet (a : Nat) (s : State) : State :=
  settleLost (match s.takenFrom a with
  | none => s
  | some f =>
    if (s.arr a).stopped ∧ (s.arr a).st ≠ .scrub then
      (loseArray f a s).modArr a (fun x =>
        { x with st := .scrub, active := none, wait := .none, slot0 := ImageSlot.init, slot1 := ImageSlot.init })
    else s)

/-- An array stops on a fault code: recorded, its DISPATCH faulted and discarded here, a member fault on a coupled pair. -/
def stopAry (a : Nat) (code : BitVec 16) (s : State) : State :=
  let x := s.arr a
  let running := match x.active with | none => x.disp | some i => (x.slot i.val).disp
  let s1 := abandonStores a s
  let gone (y : Arr) : Arr :=
    let z := stopArr a s.free code y
    let z := match y.active with
      | none => z
      | some i => z.setSlot i.val (if s.aryExpress a then { y.slot i.val with st := .ready } else ImageSlot.init)
    z.dropImages running
  let wasHeld := !x.ownHolds.isEmpty
  let s2 := s1.modArr a gone
  let s3 := if wasHeld then settleHolds a s2 else s2
  let s4 := { s3 with free := s3.free + 1 }
  let s5 := record code (s.aryTenant a) (unitArray a) 0 0 (noteUe (s.aryTenant a) code 0 s4)
  let s6 := match running with
    | none => s5
    | some id => s5.modDispatch id (fun d => (d.faulted code (BitVec.ofNat 64 a)).imageGone a true)
  match s6.memberOf a with
  | some (i, r, _) =>
    let v := s6.xid i
    if v.st = .running ∨ v.st = .rerun then memberFault i r v.stepNow s6 else s6
  | none =>
    match s6.spareOf a with
    | none => takeQuiet a s6
    | some _ =>
      match s6.xpr.proof with
      | some p => autoForm (retireSpare (record Code.spareFault (some (s6.xid p.x).tenant.toNat) s6.xpr.spa.toNat 0 0
          { s6 with xpr := { s6.xpr with proof := none } }))
      | none =>
        match (List.range 4).find? (fun i => (s6.xid i).rerun.isSome) with
        | some i => rerunFails i Code.spareFault s6
        | none => s6

/-- Unheld cycles pass up to cycle `c` and `k` follows; where a hold source becomes active on the way, the array holds there
instead (R69). -/
def passTo (a c : Nat) (k : State → State) (s : State) : State :=
  match (s.arr a).firstDue c with
  | none => k (runTo a c s)
  | some h => startDue a (runTo a h s)

/-! ## Restarts (R276) -/

/-- A member restarts its image: TQ15 falls, i1 to i29 from the preset block, i30 and i31 from the SEQ. -/
def restartMember (a : Nat) (v : Xid) (seq : BitVec 16) (x : Arr) : Arr :=
  let y := runImage a x.slot0.img { x with slot1 := x.slot1 }
  ((y.setIr 30 (BitVec.ofNat 32 (v.resPreset seq))).setIr 31 (BitVec.ofNat 32 (v.reqPreset seq))) |> fun y =>
    { y with tq := supd 0 y.tq 15 (fun n => n - 1) }

/-- The arrays of an armed tenant's pairs. -/
def Xid.arrays (v : Xid) : List Nat := v.roles.flatMap (fun r => [r.1, r.2])

/-- When TQ15 is at least 1 on every member and no invocation runs, all members restart together; a proof of this tenant is
abandoned (R276, R284). Nothing restarts once SAFE_HOLD is asserted. -/
def restartXid (x : Nat) (s : State) : State :=
  let v := s.xid x
  match v.st, v.inv with
  | .idle, none =>
    (match v.waitSeq with
     | none => s
     | some i =>
       if v.arrays.all (fun a => (s.arr a).active.isNone && decide (1 ≤ (sget 0 (s.arr a).tq 15).toNat)) then
         let at_ := (v.arrays.map (fun a => (s.arr a).cyc)).foldl max 0
         let s1 := v.arrays.foldl (fun s a => s.modArr a (fun x => restartMember a v i.seq { x with cyc := at_, lastIssue := at_ })) s
         let s2 := s1.modXid x (fun v => { v with
           st := .running, waitSeq := none, inv := some { i with restarted := true, step := 0, stepTime := s.glb.devTime }
           windowSeq := if v.window && v.windowSeq.isNone then some i.seq else v.windowSeq })
         match s2.xpr.proof with
         | some p => if p.x = x then restSpare { s2 with xpr := { s2.xpr with proof := none } } else s2
         | none => s2
       else s)
  | _, _ => s

/-! ## Barriers of express tenants (R278 to R282) -/

/-- The arrival of an array at a barrier. -/
def Barrier.arrival? (b : Barrier) (a : Nat) : Option Arrival := b.arrivals.find? (fun v => v.ary == a)

/-- The pair roles whose members disagree or carry a POISON flag. -/
def Xid.disagrees (v : Xid) (b : Barrier) : List Nat :=
  (List.range v.roles.length).filter (fun r =>
    let p := v.roles.getD r (0, 0)
    match b.arrival? p.1, b.arrival? p.2 with
    | some m, some n => m.fp != n.fp || m.poison || n.poison
    | _, _ => true)

/-- The fingerprints of a step's barrier by role, member 0's. -/
def Xid.fingerprints (v : Xid) (b : Barrier) : Store (BitVec 64) :=
  ((List.range v.roles.length).map (fun r =>
    (r, match b.arrival? (v.roles.getD r (0, 0)).1 with | some m => m.fp | none => 0))).filter (fun e => decide (e.2 ≠ 0))

/-- The final comparison has passed: each lane is given RES frames 0 to RES_FRAGS − 1 from its own copy (R282). -/
def finalPass (x : Nat) (s : State) : State :=
  let v := s.xid x
  match v.inv with
  | none => s
  | some i =>
    let n := v.table.resFrags
    let frame (m k : Nat) : Bytes :=
      mkFrame 0x21 x i.seq k (n - 1) ((s.partRead (v.part m) (v.resPreset i.seq + 52 * k) 52).map (·.1))
    let s1 := (List.range n).foldl (fun s k => laneQueue .b x (frame 1 k) (laneQueue .a x (frame 0 k) s)) s
    let closes := v.window && v.windowSeq == some i.seq
    autoForm <| s1.modXid x (fun v => { v with
      inv := some { i with finalOk := true }
      window := v.window && !closes
      windowSeq := if closes then none else v.windowSeq })

/-- The two channels' verdicts on a comparison disagree (R287). -/
def splitVerdict (s : State) : State := safeHold Code.sboxFault (record Code.sboxFault none unitSbox 0 0 s)

/-- The comparison when the last arrival of an express barrier has registered: agreement lets the barrier release, and passes
the final comparison in the last step; else a member fault (R278, R279, R282). While a step is re-run every release is withheld, and
what agrees waits for the spare's verdict (R280); in SAFE_HOLD nothing is released (R288). `split`: the channels' verdicts disagree
(R287). -/
def expressBarrier (x bar : Nat) (split : Bool) (s : State) : State :=
  let v := s.xid x
  let b := (s.tenant v.tenant.toNat).barrier bar
  let bad := v.disagrees b
  if split then splitVerdict s
  else if v.st = .held then s
  else if bad.isEmpty && v.st == .rerun then s
  else if bad.isEmpty then
    let s1 := s.modXid x (fun v => { v with record := v.fingerprints b })
    let s2 := s1.modTenant v.tenant.toNat (fun y =>
      { y with barriers := sset Barrier.init y.barriers bar { b with full := true } })
    if v.stepNow + 1 = v.table.steps then finalPass x s2 else s2
  else bad.foldl (fun s r => if s.glb.st = .safeHold then s else memberFault x r v.stepNow s) s

end Sys2Proof.Machine
end

