-- ==== Sys2Proof/Machine/Work.lean ====
section
/-! DEFINITION. The start of a DISPATCH's work (R57, R125), and the guards on what an array does next. -/

namespace Sys2Proof.Machine

/-- The largest finite magnitude of an element type as an exact value: 448 or 57,344 (R57). -/
def fmaxOf (e5 : Bool) : Nat := if e5 then 57344 else 448

/-- The exponent of a slot's scale: 2^⌊log₂(fmax ÷ A)⌋ with A the largest of the newest W amaxes, within ±64; the initial scale
where none is recorded (R57). -/
def ScaleSlot.exponent (v : ScaleSlot) (window : Nat) (e5 : Bool) : Int :=
  let w := max 1 (min 16 window)
  let big := (v.hist.take w).foldl fmax 0
  if v.hist.isEmpty then signed 8 v.initExp.toNat
  else
    match ofF32 big with
    | .fin _ m e =>
      if m = 0 then signed 8 v.initExp.toNat
      else
        let (q, qe, _) := quotMag (fmaxOf e5) 0 m e
        max (-64) (min 64 ((Nat.log2 q : Int) + qe))
    | _ => -64

/-- The exponents of a tenant's sixteen slots for both FP8 types, under the windows of a DISPATCH. -/
def Tenant.scaleExps (y : Tenant) (windows : Store (BitVec 5)) : Store Int :=
  ((List.range 32).map (fun k =>
    (k, (y.scale (k / 2)).exponent (sget 0x10 windows (k / 2)).toNat (k % 2 == 1)))).filter (fun e => decide (e.2 ≠ 0))

/-- A DISPATCH may start work: no earlier DISPATCH of its queue is incomplete (R125). -/
def State.mayStart (s : State) (id : Nat) : Bool :=
  match s.dispatch? id with
  | none => false
  | some d => !d.discard &&
      s.disp.all (fun e => decide (d.id ≤ e.id) || e.tenant != d.tenant || e.q != d.q)

/-- A descriptor of a DISPATCH may complete: one issued completes although its DISPATCH has been discarded since, so once a DISPATCH has
started its descriptors do (R112, R381; notes/assumptions/67.md). -/
def State.mayFinish (s : State) (id : Nat) : Bool :=
  match s.dispatch? id with
  | none => false
  | some d => (!d.discard || d.started.isSome) &&
      s.disp.all (fun e => decide (d.id ≤ e.id) || e.tenant != d.tenant || e.q != d.q)

/-- A DISPATCH starts: its scales are fixed (R57, R131). -/
def startDispatch (id : Nat) (s : State) : State :=
  s.modDispatch id (fun d =>
    if d.started.isSome then d
    else { d with started := some s.glb.devTime, scales := (s.tenant d.tenant).scaleExps d.windows })

/-- The rest of the image that runs is discarded: its DISPATCH has faulted, and the array stands at a STOP (R131). -/
def State.cutShort (s : State) (a : Nat) : Bool :=
  (s.arr a).stopHere && (match (s.arr a).disp.bind s.dispatch? with | none => false | some d => d.discard)

/-- SAFE_HOLD keeps members and spare arrays from issuing (R288). -/
def State.heldBack (s : State) (a : Nat) : Bool :=
  s.glb.st == .safeHold && ((s.memberOf a).isSome || (s.spareOf a).isSome)

/-- The segment does not reach its limit before cycle `c` (R74). -/
def Arr.segAllows (x : Arr) (c : Nat) : Bool := x.segNew || decide (x.segCount + (c - x.cyc) < x.segLimit.toNat)

/-- The sequencer can issue its next bundle at the cycle its schedule gives (R91, R94, R101). -/
def State.canIssue (s : State) (a : Nat) : Bool :=
  let x := s.arr a
  x.st == .run && x.holds.isEmpty && x.active.isSome && x.wait == .none && x.curDone && !(x.stopHere && x.quiesce) &&
    x.movesAllow true x.nextIssue && decide (x.cyc ≤ x.nextIssue) && x.segAllows x.nextIssue && !s.heldBack a && !s.cutShort a &&
    s.pairAllows true a x.nextIssue

/-- Unheld cycles can pass up to cycle `c` without a bundle. -/
def State.canPass (s : State) (a c : Nat) : Bool :=
  let x := s.arr a
  (x.st == .run || x.st == .fault || x.st == .bound || x.st == .loaded) && x.holds.isEmpty && x.curDone &&
    x.movesAllow false c && decide (x.cyc ≤ c) && x.segAllows c && s.pairAllows false a c

/-- The bundle's operation of one slot, while it has still to be carried out. -/
def Arr.slotOp (x : Arr) (flag : Cur → Bool) (op : Nat → Nat) (code : Nat) : Option Nat :=
  match x.cur with
  | none => none
  | some c => if flag c && op c.bundle.toNat == code then some c.bundle.toNat else none

/-- A slot of the bundle carried out. -/
def Arr.doneL (x : Arr) : Arr := { x with cur := x.cur.map (fun c => { c with l := false }) }
def Arr.doneM (x : Arr) : Arr := { x with cur := x.cur.map (fun c => { c with m := false }) }
def Arr.doneV (x : Arr) : Arr := { x with cur := x.cur.map (fun c => { c with v := false }) }
def Arr.doneD (x : Arr) : Arr := { x with cur := x.cur.map (fun c => { c with d := false }) }
def Arr.doneC (x : Arr) : Arr := { x with cur := x.cur.map (fun c => { c with c := false }) }

end Sys2Proof.Machine
end

