-- ==== Sys2Proof/Machine/ArrayLoad.lean ====
section
/-! DEFINITION. The load slot: LDP, LDC, STC, LDV, STV, and the completion of their moves (R97 to R104). -/

namespace Sys2Proof.Machine

/-- One past the last siding address (R97). -/
def sidEnd : Nat := 0x600000

/-- The LDP that a bundle's load slot makes in the present cycle (R98). -/
def makeLdp (x : Arr) (b : Nat) : LdpOp :=
  let q := 4 * lQuad b
  let st := (x.ir (q + 2)).toNat
  let o : LdpOp :=
    { start := x.cyc, side := lSide b, buf := lBuf b, pstep := lPstep b, nk := lNk b, fmt := BitVec.ofNat 4 (lFmt b),
      qm := lQm b, exp := lExp b, rows := lRows b, klast := lKlast b, ebase := (x.ir q).toNat, sbase := (x.ir (q + 1)).toNat,
      estride := bitsOf st 15 0, sstride := bitsOf st 31 16, kpos := (x.ir (q + 3)).toNat, grans := [], rowEnd := [], got := [] }
  let sc := o.schedule
  { o with grans := sc.1, rowEnd := sc.2 }

/-- The stop condition of an LDP; where several hold, SLOT_OVERLAP is recorded before SID_RANGE (R104; DESIGN CHOICE,
notes/assumptions/58.md). -/
def ldpStop (x : Arr) (o : LdpOp) : Option (BitVec 16) :=
  if x.cyc < x.ldpFree then some Code.slotOverlap
  else if o.grans.any (fun g => decide (sidEnd < g + 32)) then some Code.sidRange
  else none

/-- An LDP enters the operand port; KPOS advances by the K-steps loaded (R99). -/
def Arr.startLdp (x : Arr) (o : LdpOp) (b : Nat) : Arr :=
  let y := { x with ldps := x.ldps ++ [o], ldpFree := x.cyc + cdiv o.grans.length 4 }
  if lInc b then y.later (.idx x.cyc (x.cyc + 1) (4 * lQuad b + 3) (BitVec.ofNat 32 (o.kpos + o.nk))) else y

/-- LDP (R99). `ue`: siding bytes whose words are found uncorrectable; `ce`: the reading cycles, from the issue, and siding rows of
corrected errors, each of which holds the array there and is logged (R69, R222). -/
def execLdp (a : Ary) (ce : List (Nat × Nat)) (ue : List Nat) (s : State) : Host.Outcome State Fault Refusal :=
  let x := s.arr a.val
  match x.slotOp Cur.l lOp 1 with
  | none => .next s
  | some b =>
    let o := makeLdp x b
    match ldpStop x o with
    | some c => .next (stopAry a.val c s)
    | none =>
      let y := (x.doneL.startLdp o b).noteDue .sidCe (cdiv o.grans.length 4) (ce.map (fun c => (c.1, some c.2)))
      .next (startDue a.val (s.setArr a.val { y with sidPoison := markWords x.sidPoison ue }))

/-- A move enters the list of outstanding moves. -/
def Arr.startMove (x : Arr) (m : MoveOp) : Arr := { x with moves := x.moves ++ [m], moveId := x.moveId + 1 }

/-- The stop condition of a concourse move of `n` bytes (R104, R267); where several hold, SLOT_OVERLAP is recorded before SID_RANGE,
and that before CON_RANGE (DESIGN CHOICE, notes/assumptions/58.md). -/
def moveStop (x : Arr) (p : Part) (write : Bool) (sid con n : Nat) : Option (BitVec 16) :=
  if 8 ≤ x.moves.length then some Code.slotOverlap
  else if sidEnd < sid + n then some Code.sidRange
  else if !p.allows write con n then some Code.conRange
  else none

/-- Both registers of a move with INC advance by its byte count (R100). -/
def Arr.moveInc (x : Arr) (b : Nat) : Arr :=
  if lMoveInc b then
    (x.later (.idx x.cyc (x.cyc + 1) (lSreg b) (x.ir (lSreg b) + BitVec.ofNat 32 (32 * lLen b)))).later
      (.idx x.cyc (x.cyc + 1) (lCreg b) (x.ir (lCreg b) + BitVec.ofNat 32 (32 * lLen b)))
  else x

/-- The due cycle of a concourse move (R101). -/
def conDue (x : Arr) (b : Nat) : Nat := x.cyc + 48 + cdiv (lLen b) 8

/-- The DISPATCH of an array that reads marked bytes consumes poison (R85). -/
def notePoison (a : Nat) (l : List MByte) (s : State) : State := noteCodes a (if l.any (·.2) then [Code.uePoison] else []) s

/-- LDC (R101): the concourse bytes are read at issue; `ce` and `ue` name concourse addresses with a corrected error, which is logged
(R198), and those found uncorrectable. -/
def execLdc (a : Ary) (ce ue : List Nat) (s : State) : Host.Outcome State Fault Refusal :=
  let x := s.arr a.val
  match x.slotOp Cur.l lOp 2 with
  | none => .next s
  | some b =>
    let p := s.part a.val
    let sid := (x.ir (lSreg b)).toNat
    let con := (x.ir (lCreg b)).toNat
    let n := 32 * lLen b
    match moveStop x p false sid con n with
    | some c => .next (stopAry a.val c s)
    | none =>
      let s1 := ce.foldl (fun s c => logConRow c s)
        { s with mtc := { s.mtc with conPoison := markWords s.mtc.conPoison ue } }
      let data := s1.partRead p con n
      let m : MoveOp := ⟨x.moveId, .ldc, x.cyc, conDue x b, sid, con, n, 0, 0, data, false⟩
      .next (notePoison a.val data (s1.setArr a.val ((x.doneL.moveInc b).startMove m)))

/-- STC's bytes enter the fingerprint of a member or spare array in issue order: the offset, then the bytes (R277). -/
def Arr.fingerprint (x : Arr) (con : Nat) (data : List MByte) : Arr :=
  { x with
    fp := crc64 x.fp (leBytes 4 con ++ data.map (·.1))
    fpPoison := x.fpPoison || data.any (·.2) }

/-- Siding rows with a corrected error outside the operand port: logged, no hold (R69, R222). -/
def logSidRows (a : Nat) (rows : List Nat) (s : State) : State := rows.foldl (fun s r => logSidRow a r s) s

/-- STC (R101): the siding bytes are read at issue; `ce` names siding rows with a corrected error, `ue` bytes whose words are found
uncorrectable. -/
def execStc (a : Ary) (ce ue : List Nat) (s : State) : Host.Outcome State Fault Refusal :=
  let x := s.arr a.val
  match x.slotOp Cur.l lOp 3 with
  | none => .next s
  | some b =>
    let p := s.part a.val
    let sid := (x.ir (lSreg b)).toNat
    let con := (x.ir (lCreg b)).toNat
    let n := 32 * lLen b
    match moveStop x p true sid con n with
    | some c => .next (stopAry a.val c s)
    | none =>
      let w := { x with sidPoison := markWords x.sidPoison ue }
      let data := sidRead a.val s.free w sid n
      let m : MoveOp := ⟨x.moveId, .stc, x.cyc, conDue x b, sid, con, n, 0, 0, data, false⟩
      let y := if (s.memberOf a.val).isSome || (s.spareOf a.val).isSome then w.fingerprint con data else w
      .next (notePoison a.val data (logSidRows a.val ce (s.setArr a.val ((y.doneL.moveInc b).startMove m))))

/-- Bytes of a vector register in the siding (R103). -/
def vecBytes (fmt : Nat) : Nat := if fmt = 0 then 256 else 128

/-- The stop condition of LDV and STV, in the order of `moveStop`. -/
def vecStop (x : Arr) (sid n : Nat) : Option (BitVec 16) :=
  if 8 ≤ x.moves.length then some Code.slotOverlap
  else if sidEnd < sid + n then some Code.sidRange
  else none

/-- LDV (R103): due 8 unheld cycles after issue; `ce` and `ue` as for STC. -/
def execLdv (a : Ary) (ce ue : List Nat) (s : State) : Host.Outcome State Fault Refusal :=
  let x := s.arr a.val
  match x.slotOp Cur.l lOp 4 with
  | none => .next s
  | some b =>
    let sid := (x.ir (lAreg b)).toNat
    let n := vecBytes (lVfmt b)
    match vecStop x sid n with
    | some c => .next (stopAry a.val c s)
    | none =>
      let y := { x with sidPoison := markWords x.sidPoison ue }
      let m : MoveOp := ⟨x.moveId, .ldv, x.cyc, x.cyc + 8, sid, 0, n, lVreg b, BitVec.ofNat 4 (lVfmt b),
        sidRead a.val s.free y sid n, false⟩
      .next (logSidRows a.val ce (s.setArr a.val (y.doneL.startMove m)))

/-- The bytes that STV writes for a lane: FP32, or BF16 to nearest with ties to even; a poisoned lane is a marker. -/
def laneBytes (fmt : Nat) (c : Cell32) : List MByte :=
  (if fmt = 0 then leBytes 4 c.bits.toNat else leBytes 2 (toBf16 c.bits)).map (fun b => (b, c.poison))

/-- STV (R103): the register is read at issue. -/
def execStv (a : Ary) (s : State) : Host.Outcome State Fault Refusal :=
  let x := s.arr a.val
  match x.slotOp Cur.l lOp 5 with
  | none => .next s
  | some b =>
    let sid := (x.ir (lAreg b)).toNat
    let n := vecBytes (lVfmt b)
    match vecStop x sid n with
    | some c => .next (stopAry a.val c s)
    | none =>
      let m : MoveOp := ⟨x.moveId, .stv, x.cyc, x.cyc + 8, sid, 0, n, lVreg b, BitVec.ofNat 4 (lVfmt b),
        (x.lanes (lVreg b)).flatMap (laneBytes (lVfmt b)), false⟩
      .next (s.setArr a.val (x.doneL.startMove m))

/-- LOAD_MOVE_DUE (R70): the cycles up to a move's due cycle pass; it has not completed, so the array holds from then on with
CON_CE, where a corrected error at a concourse address delays it (logged, R198), or CON_LATE. -/
def execLoadMoveDue (a : Ary) (mv : Nat) (ce : Option Nat) (s : State) : Host.Outcome State Fault Refusal :=
  let x := s.arr a.val
  match x.moves.find? (fun m => m.id == mv) with
  | none => .next s
  | some m =>
    let err := if m.kind = .ldc then ce else none
    let src : HoldSrc := if err.isSome then .conCe else .conLate
    let started := x.cyc == m.due
    if (started && !x.holds.any (fun h => h.src == src)) || (s.canPass a.val m.due && decide (m.due ≤ x.nextIssue ∨ x.wait ≠ .none))
    then
      .next (passTo a.val m.due (fun s1 =>
        let s2 := startHold a.val src none s1
        match err with | none => s2 | some addr => logConRow addr s2) s)
    else .next s

/-- The lanes that an LDV's bytes give: converted exactly, NaN canonical, an uncorrectable word poisoning its lanes. -/
def ldvLanes (fmt : Nat) (data : List MByte) : Lanes :=
  let w := if fmt = 0 then 4 else 2
  (List.range 64).map (fun c =>
    let l := (data.drop (w * c)).take w
    ⟨toF32 (decodeFp (elemFp fmt) (leNat (l.map (·.1)))), l.any (·.2)⟩)

/-- Lanes written as poison markers. -/
def stvMarkers (fmt : Nat) (data : List MByte) : Nat :=
  let w := if fmt = 0 then 4 else 2
  ((List.range 64).filter (fun c => (data.getD (w * c) (0, false)).2)).length

/-- An LDC's data lands in the siding; before its due cycle, reads still give what was there (R116, R117). -/
def Arr.landLdc (a f : Nat) (m : MoveOp) (x : Arr) : Arr :=
  let y := sidWrite a f m.sid m.data x
  if m.due ≤ x.cyc then y
  else { y with early := y.early.filter (fun e => decide (x.cyc < e.1)) ++
      (List.range m.data.length).map (fun i => (m.due, m.sid + i, x.sidNow (m.sid + i))) }

/-- A completed move's data lands. An LDV's register is written in the due cycle. -/
def landMove (a : Nat) (m : MoveOp) (s : State) : State :=
  let x := s.arr a
  let y := { x with moves := x.moves.filter (fun n => n.id != m.id) }
  match m.kind with
  | .ldc => s.setArr a (y.landLdc a s.free m)
  | .stc => partWrite (s.part a) m.con m.data (s.setArr a y)
  | .stv =>
    let k := stvMarkers m.fmt.toNat m.data
    noteCodes a (if k = 0 then [] else [Code.uePoison])
      (s.setArr a { sidWrite a s.free m.sid m.data y with poisonWr := satAdd y.poisonWr k })
  | .ldv =>
    let ls := ldvLanes m.fmt.toNat m.data
    noteCodes a (if ls.any (·.poison) then [Code.uePoison] else [])
      (s.setArr a (if m.beaten then y else landRegs (y.later (.vec m.issue m.due m.vreg ls))))

/-- A registered arrival at a barrier (R113): one naming another N stops its array; the last one of a round makes the release due,
and on an armed tenant the signal box compares first (R278), `split` when its channels' verdicts disagree. -/
def registerArrival (a bar n : Nat) (nowait split : Bool) (s : State) : State :=
  match s.aryTenant a with
  | none => s
  | some t =>
    let x := s.arr a
    let b := (s.tenant t).barrier bar
    let round := if b.full then b.arrivals.drop ((b.arrivals.headD ⟨0, 0, 0, false, false, 0⟩).n) else b.arrivals
    if round.any (fun v => v.n != n) then stopAry a Code.syncMismatch s
    else
      let b1 : Barrier := { b with arrivals := b.arrivals ++ [⟨a, n, x.fp, x.fpPoison, nowait, x.cyc⟩] }
      let s1 := s.modTenant t (fun y => { y with barriers := sset Barrier.init y.barriers bar b1 })
      if b.full || decide (round.length + 1 < n) then s1
      else
        match s.tenantXid t with
        | some x => expressBarrier x bar split s1
        | none => s1.modTenant t (fun y => { y with barriers := sset Barrier.init y.barriers bar { b1 with full := true } })

/-- An arrival still waits for an STC of its array (R113). -/
def PendingSync.waits (p : PendingSync) (x : Arr) : Bool := x.moves.any (fun m => p.stcs.contains m.id)

/-- The SYNCs that waited for their array's STCs register, in order, once those have all completed; the spare's do not arrive. -/
def syncIfReady (a : Nat) (split : Bool) (s : State) : State :=
  let x := s.arr a
  (x.syncs.filter (fun p => !p.waits x)).foldl
    (fun s p => if (s.spareOf a).isSome || (s.arr a).st == .fault then s else registerArrival a p.bar p.n p.nowait split s)
    (s.setArr a { x with syncs := x.syncs.filter (fun p => p.waits x) })

/-- A move whose flits have failed for good: those words of an LDC or STC are poison (R220, R295). -/
def MoveOp.overFabric (flits : List Nat) (m : MoveOp) : MoveOp :=
  if m.kind = .ldc ∨ m.kind = .stc then { m with data := markLost flits m.data } else m

/-- MOVE_COMPLETE (R101): the move completes; a hold that waited on it ends after `held` held cycles. `flits`: the words whose fabric
flits failed for good; poison that an STC so delivers counts as a member fault of express work (R295). -/
def execMoveComplete (a : Ary) (mv : Nat) (held : Nat) (split : Bool) (flits : List Nat) (s : State) : Host.Outcome State Fault Refusal :=
  let x := s.arr a.val
  match x.moves.find? (fun m => m.id == mv) with
  | none => .next s
  | some m =>
    let late := x.moves.any (fun n => n.id != mv && decide (n.due ≤ x.cyc))
    let ends := !late && x.holds.any (fun h => h.src == .conLate || h.src == .conCe)
    if ends && !s.abreast a.val then .next s
    else
      let dark := m.kind == .stc && !flits.isEmpty
      let s0 := landMove a.val (m.overFabric flits) s
      let s1 := syncIfReady a.val split (if dark then s0.modArr a.val (fun x => { x with fpPoison := true }) else s0)
      .next (if ends then endHold a.val .conLate held (endHold a.val .conCe held s1) else s1)

/-- ARRAY_HOLD_RELEASE (R69): a source of fixed length, or the fabric port's back-pressure after `held` held cycles, ends. -/
def execArrayHoldRelease (a : Ary) (src : HoldSrc) (held : Nat) (s : State) : Host.Outcome State Fault Refusal :=
  match (s.arr a.val).holds.find? (fun h => h.src == src) with
  | none => .next s
  | some h =>
    if src = .conCe ∨ src = .conLate ∨ src = .pair ∨ !s.abreast a.val then .next s
    else .next (endHold a.val src (h.ends.getD held) s)

end Sys2Proof.Machine
end

