-- ==== Sys2Proof/Machine/ArrayControl.lean ====
section
/-! DEFINITION. The control slot: LOOP, BR, WAITQ, SYNC, HALT and their releases (R110 to R115). -/

namespace Sys2Proof.Machine

/-- LOOP (R110): the counter falls by one; unless it is then 0, TARGET is next. -/
def execLoop (a : Ary) (s : State) : Host.Outcome State Fault Refusal :=
  .next (s.modArr a.val (fun x =>
    match x.slotOp Cur.c cOp 1 with
    | none => x
    | some b =>
      let v := x.ir (cCnt b) - 1
      let y := x.doneC.later (.idx x.cyc (x.cyc + 1) (cCnt b) v)
      if v = 0 then y else { y with next := cLoopTarget b }))

/-- BR (R110): TARGET is next when (i[REG] = 0) XOR NEG. -/
def execBr (a : Ary) (s : State) : Host.Outcome State Fault Refusal :=
  .next (s.modArr a.val (fun x =>
    match x.slotOp Cur.c cOp 2 with
    | none => x
    | some b => if (x.ir (cCnt b) == 0) != cNeg b then { x.doneC with next := cBrTarget b } else x.doneC))

/-- Wait counter `q`. -/
def Arr.tqCount (x : Arr) (q : Nat) : BitVec 16 := sget 0 x.tq q

/-- COUNT taken from a wait counter. -/
def Arr.takeTq (x : Arr) (q n : Nat) : Arr := { x with tq := supd 0 x.tq q (fun v => v - BitVec.ofNat 16 n) }

/-- WAITQ (R111): with the counter high enough it takes COUNT at once; else, and always on a coupled pair, the sequencer waits for
the release (R114). -/
def execWaitq (a : Ary) (s : State) : Host.Outcome State Fault Refusal :=
  .next (s.modArr a.val (fun x =>
    match x.slotOp Cur.c cOp 3 with
    | none => x
    | some b =>
      if x.paired = false ∧ cCount b ≤ (x.tqCount (cQ b)).toNat then x.doneC.takeTq (cQ b) (cCount b)
      else { x.doneC with wait := .waitq (cQ b) (cCount b) }))

/-- The unheld cycles from a bundle's issue to the release of its wait: `n`, but never a cycle that has passed. -/
def Arr.waitCycles (x : Arr) (n : Nat) : Nat := max n (if x.cyc = x.lastIssue then 0 else x.cyc + 1 - x.lastIssue)

/-- A wait ends: the next bundle issues in the later of its scheduled cycle and the one `n` unheld cycles after its bundle's
issue. -/
def Arr.endWait (x : Arr) (n : Nat) : Arr := { x with wait := .none, nextIssue := max x.nextIssue (x.lastIssue + n) }

/-- The counter and count of a WAITQ whose condition holds. -/
def Arr.waitqMet (x : Arr) : Option (Nat × Nat) :=
  match x.wait with
  | .waitq q n => if n ≤ (x.tqCount q).toNat ∧ x.holds.isEmpty then some (q, n) else none
  | _ => none

/-- WAITQ_RELEASE (R111, R114): both members of a pair together, once both conditions hold, in the later of their cycles; the
condition is met `waited` cycles after the bundle's issue. -/
def execWaitqRelease (a : Ary) (waited : Nat) (s : State) : Host.Outcome State Fault Refusal :=
  let own (b : Nat) : Nat := (s.arr b).waitCycles (waited + 1)
  let both : Nat := match s.partner a.val with | none => own a.val | some b => max (own a.val) (own b)
  let release (x : Arr) : Arr := match x.waitqMet with
    | some (q, n) => (x.takeTq q n).endWait both
    | none => x
  let met (b : Nat) : Bool := (s.arr b).waitqMet.isSome && !s.heldBack b
  if met a.val && (match s.partner a.val with | none => true | some b => met b) then .next (modPair a.val release release s)
  else .next s

/-- SYNC (R113, R287): the arrival registers once every earlier STC of the array has completed; without NOWAIT the sequencer waits. An
STC of the same bundle counts as earlier, as its slot is carried out first (DESIGN CHOICE, notes/assumptions/67.md). -/
def execSync (a : Ary) (split : Bool) (s : State) : Host.Outcome State Fault Refusal :=
  let x := s.arr a.val
  match x.slotOp Cur.c cOp 4 with
  | none => .next s
  | some b =>
    let stcs := (x.moves.filter (fun m => m.kind == .stc)).map (·.id)
    let y := { x.doneC with
      wait := if cNowait b then .none else .sync (cBar b)
      syncs := x.syncs ++ [⟨cBar b, cN b, cNowait b, stcs⟩] }
    .next (syncIfReady a.val split (s.setArr a.val y))

/-- The participants of the full round of a barrier. -/
def Barrier.round (b : Barrier) : List Arrival := b.arrivals.take ((b.arrivals.headD ⟨0, 0, 0, false, false, 0⟩).n)

/-- The barrier after its round has released: the arrivals of the next round stay. -/
def Barrier.after (b : Barrier) : Barrier :=
  let rest := b.arrivals.drop b.round.length
  ⟨rest, decide (rest ≠ []) && decide ((rest.headD ⟨0, 0, 0, false, false, 0⟩).n ≤ rest.length)⟩

/-- The express index's next step after a barrier's release. -/
def Xid.nextStep (now : Nat) (v : Xid) : Xid :=
  match v.inv with
  | none => v
  | some i => { v with inv := some { i with
      step := if i.step + 1 < v.table.steps then i.step + 1 else i.step, stepTime := now } }

/-- The cycles from an array's SYNC to its release: 24 after the N-th arrival has registered, which for the array of that arrival
is 24 after its own; for another, the `waited` that is given, and no fewer than 24 after its own (R113). -/
def syncCycles (s : State) (round : List Arrival) (waited : List (Ary × Nat)) (v : Arrival) : Nat :=
  let x := s.arr v.ary
  let own := v.cyc + 24 - x.lastIssue
  x.waitCycles (if (round.getLast?.map (·.ary)) = some v.ary then own
    else max own (match waited.find? (fun e => e.1.val == v.ary) with | some e => e.2 | none => 0))

/-- The same for the two members of a pair: the later of their release cycles (R114). -/
def pairSyncCycles (s : State) (round : List Arrival) (waited : List (Ary × Nat)) (v : Arrival) : Nat :=
  match (s.partner v.ary).bind (fun p => round.find? (fun u => u.ary == p)) with
  | none => syncCycles s round waited v
  | some u => max (syncCycles s round waited v) (syncCycles s round waited u)

/-- SYNC_RELEASE (R113): every waiting participant of a full round releases; the barrier resets. An armed tenant's barrier is withheld
during a re-run and in SAFE_HOLD (R280, R288). -/
def execSyncRelease (t : Ten) (bar : Fin 16) (waited : List (Ary × Nat)) (s : State) : Host.Outcome State Fault Refusal :=
  let b := (s.tenant t.val).barrier bar.val
  let x := s.tenantXid t.val
  let open_ := match x with | none => true | some i => (s.xid i).st == .running
  if b.full && open_ then
    let release (z : State) (v : Arrival) : State :=
      z.modArr v.ary (fun y =>
        if !v.nowait && y.wait == .sync bar.val then y.endWait (pairSyncCycles s b.round waited v) else y)
    let s1 := b.round.foldl release s
    let s2 := s1.modTenant t.val (fun y => { y with barriers := sset Barrier.init y.barriers bar.val b.after })
    .next (match x with | none => s2 | some i => s2.modXid i (Xid.nextStep s.glb.devTime))
  else .next s

/-- HALT (R115): no further bundle issues. -/
def execHalt (a : Ary) (s : State) : Host.Outcome State Fault Refusal :=
  .next (s.modArr a.val (fun x => if (x.slotOp Cur.c cOp 5).isSome then { x.doneC with wait := .halted } else x))

end Sys2Proof.Machine
end

