-- ==== Sys2Proof/Machine/ArrayMatrix.lean ====
section
/-! DEFINITION. The matrix slot: MMA and MMAZ (R67, R105, R106). -/

namespace Sys2Proof.Machine

/-- Class, A-cycles per K-step, and integer accumulation of a matrix operation (R43, R48, R59). -/
def mmaCycles (b : Nat) : Nat := kstepCycles (max (classOf (mAfmt b) (mAq b)) (classOf (mBfmt b) (mBq b)))
def mmaInt (b : Nat) : Bool := mAfmt b == 7 && mBfmt b == 7

/-- The K-steps of a matrix operation issued in the present cycle; `accBad` says that its accumulation type differs from its
tile's (R106), `par` names words that fail parity when the grid reads them (R62), `ue` the K-steps and tile elements found uncorrectable
as they are added to (R83). An FP32 element's two words are taken to lie at one place of its two unit slots (DESIGN CHOICE,
notes/assumptions/58.md: R60 gives no layout). -/
def makeKsteps (x : Arr) (b : Nat) (zero accBad : Bool) (par : List PlatAddr) (ue : List (Nat × Nat)) : List KstepOp :=
  (List.range (mNk b)).map (fun j =>
    let as_ := unitSlot (mAfmt b) (mApstep b + j)
    let bs := unitSlot (mBfmt b) (mBpstep b + j)
    { start := x.cyc + j * mmaCycles b, p := mmaCycles b, tile := mTile b, zero := zero && j == 0, int := mmaInt b,
      afmt := BitVec.ofNat 4 (mAfmt b), bfmt := BitVec.ofNat 4 (mBfmt b), aq := mAq b, bq := mBq b, abuf := mAbuf b,
      bbuf := mBbuf b, aslot := as_, bslot := bs, a := none, b := none, badA := accBad, badB := accBad,
      parity := par.filter (fun p =>
        if p.side = 0 then p.buf.val == mAbuf b && inSlot (mAfmt b) as_ p.slot.val
        else p.buf.val == mBbuf b && inSlot (mBfmt b) bs p.slot.val)
      ue := (ue.filter (fun e => e.1 == j)).map (·.2) })
where
  /-- a unit slot is one that a K-step slot takes (R60) -/
  inSlot (fmt first slot : Nat) : Bool := slot == first || (fmt == 0 && slot == first + 1)

/-- The grid is taken by an operation's K-steps. -/
def Arr.startGrid (x : Arr) (b : Nat) (ks : List KstepOp) : Arr :=
  { x with ksteps := x.ksteps ++ ks, gridFree := x.cyc + mNk b * mmaCycles b }

/-- Corrected accumulator errors that a matrix operation meets up to its last commit, by their cycles from its issue (R69). -/
def Arr.accErrors (x : Arr) (b : Nat) (ce : List Nat) : Arr :=
  x.noteDue .accCe (mNk b * mmaCycles b + 5) (ce.map (fun c => (c, none)))

/-- MMA (R105): every K-step adds to the tile. `ue` names K-steps and tile elements found uncorrectable, by their numbers in the
accumulator memory; `ce` the cycles, from the issue, of corrected accumulator errors. -/
def execMma (a : Ary) (ce : List Nat) (ue : List (Nat × Nat)) (par : List PlatAddr) (s : State) :
    Host.Outcome State Fault Refusal :=
  let x := s.arr a.val
  match x.slotOp Cur.m mOp 1 with
  | none => .next s
  | some b =>
    if x.cyc < x.gridFree then .next (stopAry a.val Code.slotOverlap s)
    else
      let accBad := x.tileInt.getLsbD (mTile b) != mmaInt b
      let y := x.doneM.startGrid b (makeKsteps x b false accBad par ue)
      .next (startDue a.val (s.setArr a.val (y.accErrors b ce)))

/-- MMAZ (R67): the first K-step replaces the tile and clears its poison, the tile takes the operation's accumulation type, at the
issue and not at the first commit (DESIGN CHOICE, notes/assumptions/58.md). -/
def execMmaz (a : Ary) (ce : List Nat) (ue : List (Nat × Nat)) (par : List PlatAddr) (s : State) :
    Host.Outcome State Fault Refusal :=
  let x := s.arr a.val
  match x.slotOp Cur.m mOp 2 with
  | none => .next s
  | some b =>
    if x.cyc < x.gridFree then .next (stopAry a.val Code.slotOverlap s)
    else
      let bit := BitVec.ofNat 8 (2 ^ mTile b)
      let y := x.doneM.startGrid b (makeKsteps x b true false par ue)
      .next (startDue a.val (s.setArr a.val
        { y.accErrors b ce with tileInt := if mmaInt b then x.tileInt ||| bit else x.tileInt &&& ~~~bit }))

end Sys2Proof.Machine
end

