-- ==== Sys2Proof/Machine/ArrayDrain.lean ====
section
/-! DEFINITION. The drain slot: DRAIN (R75 to R84, R109). -/

namespace Sys2Proof.Machine

/-- A DRAIN's chain as in force (R78). -/
def Arr.chain (x : Arr) (c : Nat) : List Stage := sget chainInit x.chains c

/-- Vector registers that a chain reads at issue. -/
def stageRegs (st : Stage) : List Nat :=
  let k := bitsOf st.arg.toNat 4 0
  let op := st.op.toNat
  if op = 1 ∨ op = 2 ∨ op = 0xA then [k] else if op = 4 ∨ op = 9 then [k, k + 1] else []

/-- Register pairs that a chain updates. -/
def stageAccRegs (st : Stage) : List Nat :=
  let k := bitsOf st.arg.toNat 4 0
  if st.op = 8 ∨ st.op = 0xB then [k, k + 1] else []

/-- The express tenant whose images an array runs. -/
def State.expressOwner (s : State) (a : Nat) : Option Nat :=
  if (s.spareOf a).isSome then s.xpr.spareRan else (s.aryTenant a).filter (fun t => (s.tenant t).cls == 1)

/-- The DRAIN that a bundle makes in the present cycle: registers and scale as they stand (R57, R77, R97). On an express array an FP8
drain quantises with the fixed scale of SLOT and writes it unchanged, as R57 has it of a dynamic one (R58; DESIGN CHOICE,
notes/assumptions/63.md). -/
def makeDrain (a : Nat) (s : State) (x : Arr) (b : Nat) (ue : List Nat) : DrainOp :=
  let q := 4 * dOquad b
  let st := (x.ir (q + 2)).toNat
  let body := chainBody (x.chain (dChain b))
  let fp8 := dOfmt b == 3 || dOfmt b == 4
  let ds : Option (Fin 16) := if dDs b && fp8 then some ⟨dSlot b % 16, by omega⟩ else none
  let exps : Store Int := match x.disp.bind s.dispatch? with | some d => d.scales | none => []
  let fixed := if fp8 then (s.expressOwner a).map (fun t => signed 8 ((s.tenant t).scale (dSlot b)).initExp.toNat) else none
  { start := x.cyc, tile := dTile b, stages := x.chain (dChain b), ofmt := BitVec.ofNat 4 (dOfmt b), sat := dSat b,
    sr := dSr b, ds := ds, ebase := (x.ir q).toNat, sbase := (x.ir (q + 1)).toNat, estride := bitsOf st 15 0,
    sstride := bitsOf st 31 16, rows := dRows b, cols := dCols b,
    vecs := (body.flatMap stageRegs).foldl (fun m k => sset [] m k (x.lanes k)) [],
    resid := body.zipIdx.foldl (fun m y =>
      if y.1.op = 3 then sset 0 m y.2 (x.ir (bitsOf y.1.arg.toNat 4 0)).toNat else m) [],
    acc := (body.flatMap stageAccRegs).foldl (fun m k => ssetRun Cell32.init m (64 * k) (x.lanes k)) [],
    nanCols := [], out := [], disp := x.disp,
    scaleExp := fixed.getD (sget 0 exps (2 * dSlot b + (if dOfmt b = 4 then 1 else 0))), fixed := fixed.isSome
    amax := 0, ue := ue, kept := [] }

/-- One past the last siding byte that a DRAIN writes or reads, over every part that R109 lists. -/
def DrainOp.reach (d : DrainOp) : List Nat :=
  let f := fmtOf d.ofmt.toNat
  let blocks := if f.block = 0 then 0 else cdiv d.cols f.block
  let rowBytes := if f.block = 0 then d.cols * f.bits / 8 else blocks * (f.bits * f.block / 8)
  let last := d.rows - 1
  [d.ebase + 32 * d.estride * last + rowBytes] ++
    (if f.side = 0 then [] else [d.sbase + d.sstride * last + blocks * f.side]) ++
    (if d.ofmt = 7 then [d.sbase + 4 * d.cols] else []) ++
    (if d.ds.isSome || d.fixed then [d.sbase + 4] else []) ++
    d.body.zipIdx.flatMap (fun y =>
      if y.1.op = 3 then
        let w := (fmtOf (bitsOf y.1.arg.toNat 11 8)).bits / 8
        [sget 0 d.resid y.2 + last * 64 * w + d.cols * w]
      else [])

/-- The stop condition of a DRAIN, the first in the order of R109. -/
def drainStop (x : Arr) (b : Nat) (d : DrainOp) : Option (BitVec 16) :=
  if x.cyc < x.drainFree then some Code.slotOverlap
  else if !x.chainOk.getLsbD (dChain b) then some Code.chainInvalid
  else if d.body.any (fun y => y.op == 7 && decide (x.liveAcc.toNat ≤ bitsOf y.arg.toNat 2 0)) then some Code.accOvercommit
  else if d.reach.any (fun r => decide (sidEnd < r)) then some Code.sidRange
  else none

/-- A DRAIN enters the drain unit. -/
def Arr.startDrain (x : Arr) (d : DrainOp) : Arr := { x with drains := x.drains ++ [d], drainFree := x.cyc + 128 }

/-- DRAIN (R77, R109). `ue` names elements, by their numbers in the accumulator memory, found uncorrectable when their row of its
tile or of a GATE partner is read; `ce` the cycles, from its issue, of corrected accumulator errors; `bp` those in which the fabric
port cannot take a row's write or serve a residual read (R69); `sue` siding bytes of a residual found uncorrectable (R83). -/
def execDrain (a : Ary) (ce : List Nat) (ue : List Nat) (bp : List Nat) (sue : List Nat) (s : State) :
    Host.Outcome State Fault Refusal :=
  let x := s.arr a.val
  match x.slotOp Cur.d dOp 1 with
  | none => .next s
  | some b =>
    let d := makeDrain a.val s x b ue
    match drainStop x b d with
    | some c => .next (stopAry a.val c s)
    | none =>
      let y := (x.doneD.startDrain d).noteDue .accCe 128 (ce.map (fun c => (c, none)))
      let z := y.noteDue .portBp (128 + d.delay) (bp.map (fun c => (c, none)))
      .next (startDue a.val (s.setArr a.val { z with sidPoison := markWords z.sidPoison sue }))

end Sys2Proof.Machine
end

