-- ==== Sys2Proof/Machine/ArrayEvents.lean ====
section
/-! DEFINITION. Events of an array outside its bundles: images submitted, checked, started and completed, the segment limit, the
pause at a STOP and the resume, clock stretches (R73, R74, R87 to R89, R94, R115, R119, R131). -/

namespace Sys2Proof.Machine

/-- An image slot waits, checked. -/
def ImageSlot.isReady (v : ImageSlot) : Bool := v.st == .ready

/-- The state of an array on which no image runs (R86). -/
def Arr.restState (x : Arr) (bound : Bool) : AryState :=
  if x.slot0.isReady || x.slot1.isReady then .loaded else if bound then .bound else .idle

/-- The running image leaves its slot; an express image stays there, checked, for the next restart (R276). -/
def Arr.imageEnds (x : Arr) (keep bound : Bool) : Arr :=
  match x.active with
  | none => x
  | some i =>
    let y := x.setSlot i.val (if keep then { x.slot i.val with st := .ready } else ImageSlot.init)
    { y with active := none, wait := .none, st := y.restState bound }

/-- The image of an array has nothing further to issue: a HALT, or the STOP at which a faulted DISPATCH ends (R115, R131). -/
def State.imageOver (s : State) (a : Nat) : Bool := (s.arr a).wait == .halted || s.cutShort a

/-- What the end of an array's image brings: the slot, the restart of an express tenant, the DISPATCH (R88, R115, R276). -/
def imageDone (a : Nat) (s : State) : State :=
  let express := (s.memberOf a).isSome || (s.spareOf a).isSome
  let s1 := s.modArr a (fun y => y.imageEnds express (s.aryTenant a).isSome)
  match s.memberOf a with
  | some (i, _, _) => restartXid i s1
  | none =>
    match (s.arr a).disp with
    | none => s1
    | some id => s1.modDispatch id (Dispatch.imageGone a false)

/-- The cycles that an array's image takes to its end can pass: those of one that pauses too, where its DISPATCH has lost work. -/
def State.canEnd (s : State) (a c : Nat) : Bool :=
  s.canPass a c || ((s.arr a).st == .paused && s.cutShort a && decide ((s.arr a).cyc ≤ c))

/-- IMAGE_COMPLETE (R115): the cycles up to the end of the last operation pass, and the image completes in the next. -/
def execImageComplete (a : Ary) (s : State) : Host.Outcome State Fault Refusal :=
  let x := s.arr a.val
  let c := x.lastBusy + 1
  if s.imageOver a.val && x.active.isSome && x.moves.isEmpty && x.syncs.isEmpty && s.canEnd a.val c then
    .next (passTo a.val c (fun t => takeQuiet a.val (imageDone a.val t)) s)
  else .next s

/-- A-cycles that a segment has left to its limit. -/
def Arr.segLeft (x : Arr) : Nat := x.segLimit.toNat - x.segCount

/-- SEG_OVERRUN (R74): the `cycles` that the segment has left pass, held or not, and the array stops; they pass unheld up to the due
cycle of an outstanding move and no further (R70), and held they count on both members of a pair (R72). An array that SAFE_HOLD
keeps waiting takes no fault code (R288). -/
def execSegOverrun (a : Ary) (cycles : Nat) (s : State) : Host.Outcome State Fault Refusal :=
  let x := s.arr a.val
  if (x.st == .run || x.st == .hold) && x.active.isSome && !x.segNew && cycles == x.segLeft && x.curDone && !s.heldBack a.val then
    if x.holds.isEmpty then
      if (x.wait != .none || (x.stopHere && x.quiesce) || decide (x.cyc + cycles ≤ x.nextIssue)) &&
          x.movesAllow false (x.cyc + cycles) then
        .next (passTo a.val (x.cyc + cycles) (stopAry a.val Code.segOverrun) s)
      else .next s
    else
      let count (y : Arr) : Arr := y.countHeld (x.heldNow + cycles)
      .next (stopAry a.val Code.segOverrun (modPair a.val count count s))
  else .next s

/-- ARRAY_PAUSE (R94): at a STOP with a quiesce pending, once every operation in flight has completed and no hold is active; a wait
of the bundle with STOP goes on through the pause. An image that has issued HALT completes instead (R115). -/
def execArrayPause (a : Ary) (s : State) : Host.Outcome State Fault Refusal :=
  let x := s.arr a.val
  let c := x.lastBusy
  if x.st == .run && x.active.isSome && x.stopHere && x.quiesce && x.wait != .halted && x.moves.isEmpty &&
      s.canPass a.val c then
    .next (passTo a.val c (fun t =>
      takeQuiet a.val (t.modArr a.val (fun y => if y.st = .run then { y with st := .paused } else y))) s)
  else .next s

/-- A re-binding or scrub, accepted and not finished, that quiesces an array: the array itself, or, for a partition or a memory
range, every array of the losing tenant (R141). -/
def RebindJob.quiesces (j : RebindJob) (bound : BitVec 64) (a : Nat) : Bool :=
  j.accepted && (if j.kind = 0 then j.item == a else (j.kind == 1 || j.kind == 3) && bound.getLsbD a)

/-- A quiesce of an array still in force. -/
def State.quiesced (s : State) (a : Nat) : Bool :=
  s.ten.any (fun e => match e.2.rebind with
    | none => false
    | some j => match j.fromT with
      | none => false
      | some f => j.quiesces (s.tenant f.val).bindAry a) ||
  (match s.aryTenant a with
   | none => false
   | some t => (s.tenant t).whyHost || ((s.tenant t).whyFw && s.compHeld (plannerComp (s.tenant t).planner.toNat)))

/-- A tenant shows PAUSED while any cause to pause stands (R137). -/
def Tenant.settlePause (y : Tenant) : Tenant :=
  let why := y.whyRebind || y.whyHost || y.whyFw
  if y.st = .running ∧ why then { y with st := .paused }
  else if y.st = .paused ∧ !why then { y with st := .running }
  else y

/-- A DISPATCH still has an image to place on an array: fewer of its images are there than remain. -/
def Arr.awaitsImage (x : Arr) (a : Nat) (d : Dispatch) : Bool :=
  let here := ([x.slot0, x.slot1].filter (fun v => v.disp == some d.id && v.st != .rejected)).length
  decide (here < d.imagesLeft.count a)

/-- TIMETABLE_IMAGE_SUBMIT (R87, R119, R160): an image enters an idle slot and its check begins. `disp` is its DISPATCH, whose plan, for
a matrix kernel, made the image; an image without one is of the control complex's own. -/
def execTimetableImageSubmit (a : Ary) (slot : Fin 2) (img : Bytes) (disp : Option Nat) (s : State) :
    Host.Outcome State Fault Refusal :=
  let x := s.arr a.val
  let free := (x.slot slot.val).st == .empty || (x.slot slot.val).st == .rejected
  let fits := match disp with
    | none => true
    | some id => match s.dispatch? id with
      | none => false
      | some d => !d.discard && s.aryTenant a.val == some d.tenant && x.awaitsImage a.val d
  let planned := match disp.bind s.dispatch? with
    | none => true
    | some d => d.tiling.isNone || img == sget [] d.images a.val
  if free && fits && planned && x.st != .scrub then
    .next (s.modArr a.val (fun y =>
      { y.setSlot slot.val ⟨.checking, img, disp, y.submits⟩ with submits := y.submits + 1 }))
  else .next s

/-- IMAGE_CHECK_DONE (R119): READY, or REJECTED with the first failing check's code; a rejected image issues no bundle, and its
DISPATCH is told. -/
def execImageCheckDone (a : Ary) (slot : Fin 2) (s : State) : Host.Outcome State Fault Refusal :=
  let x := s.arr a.val
  let v := x.slot slot.val
  if v.st = .checking then
    match checkImage v.img (s.aryExpress a.val) with
    | none =>
      .next (s.modArr a.val (fun y =>
        let z := y.setSlot slot.val { v with st := .ready }
        { z with st := if z.st = .idle ∨ z.st = .bound then .loaded else z.st }))
    | some c =>
      let s1 := s.modArr a.val (fun y =>
        { y.setSlot slot.val ⟨.rejected, [], none, v.order⟩ with rejCode := c })
      let s2 := record c (s.aryTenant a.val) (unitArray a.val) 0 0 s1
      (match v.disp with
       | none => .next s2
       | some id => .next (s2.modDispatch id (fun d =>
           (d.faulted c (BitVec.ofNat 64 a.val)).imageGone a.val false)))
  else .next s

/-- A checked image may start: that of a DISPATCH when R125 and R131 let it. -/
def State.imageMayStart (s : State) (v : ImageSlot) : Bool :=
  v.isReady && (match v.disp with | none => true | some id => s.mayStart id)

/-- An image waits in its slot to run: submitted, not rejected, and not discarded with its DISPATCH. -/
def State.imageWaits (s : State) (v : ImageSlot) : Bool :=
  (v.st == .ready || v.st == .checking) &&
    (match v.disp with
     | none => true
     | some id => match s.dispatch? id with | none => false | some d => !d.discard)

/-- The slot whose image starts next: the one submitted first, once it may (R125). -/
def State.nextImage (s : State) (a : Nat) : Option (Fin 2) :=
  let x := s.arr a
  let first : Option (Fin 2) := match s.imageWaits x.slot0, s.imageWaits x.slot1 with
    | true, true => if x.slot1.order < x.slot0.order then some 1 else some 0
    | true, false => some 0
    | false, true => some 1
    | false, false => none
  first.filter (fun i => s.imageMayStart (x.slot i.val))

/-- IMAGE_START (R88, R89): with no image running, a waiting image starts, and its DISPATCH with it. Members and spare arrays
start under R276 and R280 instead. -/
def execImageStart (a : Ary) (s : State) : Host.Outcome State Fault Refusal :=
  let x := s.arr a.val
  let own := (s.memberOf a.val).isNone && (s.spareOf a.val).isNone
  match s.nextImage a.val with
  | none => .next s
  | some i =>
    if x.active.isNone && own && !x.quiesce && x.st != .scrub && x.st != .paused then
      match (x.slot i.val).disp.bind s.dispatch? with
      | none => .next (s.modArr a.val (startImage a.val i.val))
      | some d =>
        .next (startDispatch d.id (s.modArr a.val (fun y =>
          startImage a.val i.val { y with seed := d.seed, dseq := d.dseq })))
    else .next s

/-- AVS_STRETCH (R73): an array not bound to an express tenant, nor of the spare pair, has its A-clock stretched by at most 6 %,
`amount` in units of 0.1 %, for at most 50 µs; a further amount within them does not prolong them. -/
def execAvsStretch (a : Ary) (amount : BitVec 8) (s : State) : Host.Outcome State Fault Refusal :=
  if s.aryExpress a.val || decide (60 < amount.toNat) || amount == 0 then .next s
  else .next (s.modArr a.val (fun y =>
    if y.stretchNow s.glb.devTime = 0 then
      { y with stretch := amount, avsEvents := satAdd y.avsEvents 1, avsSince := s.glb.devTime }
    else { y with stretch := amount }))

/-- AVS_STRETCH_END (R73). -/
def execAvsStretchEnd (a : Ary) (s : State) : Host.Outcome State Fault Refusal :=
  .next (s.modArr a.val (fun y => { y with stretch := 0 }))

end Sys2Proof.Machine
end

