-- ==== Sys2Proof/Machine/ArrayIssue.lean ====
section
/-! DEFINITION. BUNDLE_ISSUE and the slots that do nothing (R90 to R94). -/

namespace Sys2Proof.Machine

/-- A new segment's first issue: SH fields take effect, the generator is reseeded, the fingerprint starts anew (R89, R277). -/
def Arr.atBoundary (a : Nat) (x : Arr) : Arr :=
  if x.stopHere then { boundary a x with fp := BitVec.allOnes 64, fpPoison := false } else x

/-- The predicate of a bundle (R92). -/
def Arr.cond (x : Arr) (b : Nat) : Bool := (x.ir (hPred b) == 0) != hPneg b

/-- The next bundle issues in the present cycle. -/
def issueBundle (a : Nat) (x : Arr) : Arr :=
  let y := x.atBoundary a
  let b := imgBundle y.img y.next
  let c := y.cond b
  { y with
    cur := some ⟨BitVec.ofNat 256 b, c, c, c, c, true⟩
    next := y.next + 1
    lastIssue := y.cyc
    nextIssue := y.cyc + hLen b + 1
    segCount := if y.stopHere || y.segNew then 0 else y.segCount
    segNew := false
    stopHere := hStop b }

/-- BUNDLE_ISSUE (R91): the cycles up to the next issue pass, and the bundle issues; an uncorrectable error in it stops the array
(R90). Where a hold source becomes active on the way, the array holds there and the bundle waits (R69). -/
def execBundleIssue (a : Ary) (ue : Bool) (s : State) : Host.Outcome State Fault Refusal :=
  if s.canIssue a.val then
    .next (passTo a.val (s.arr a.val).nextIssue (fun s1 =>
      if ue then stopAry a.val Code.uePoison s1 else s1.modArr a.val (issueBundle a.val)) s)
  else .next s

/-- LNOP (R91): the load slot does nothing. -/
def execLnop (a : Ary) (s : State) : Host.Outcome State Fault Refusal :=
  .next (s.modArr a.val (fun x => if (x.slotOp Cur.l lOp 0).isSome then x.doneL else x))

/-- MNOP (R91): the matrix slot does nothing. -/
def execMnop (a : Ary) (s : State) : Host.Outcome State Fault Refusal :=
  .next (s.modArr a.val (fun x => if (x.slotOp Cur.m mOp 0).isSome then x.doneM else x))

/-- VNOP (R91): the vector slot does nothing. -/
def execVnop (a : Ary) (s : State) : Host.Outcome State Fault Refusal :=
  .next (s.modArr a.val (fun x => if (x.slotOp Cur.v vOp 0).isSome then x.doneV else x))

/-- DNOP (R91): the drain slot does nothing. -/
def execDnop (a : Ary) (s : State) : Host.Outcome State Fault Refusal :=
  .next (s.modArr a.val (fun x => if (x.slotOp Cur.d dOp 0).isSome then x.doneD else x))

/-- CNOP (R91): the control slot does nothing. -/
def execCnop (a : Ary) (s : State) : Host.Outcome State Fault Refusal :=
  .next (s.modArr a.val (fun x => if (x.slotOp Cur.c cOp 0).isSome then x.doneC else x))

end Sys2Proof.Machine
end

