-- ==== Sys2Proof/Machine/ArrayVector.lean ====
section
/-! DEFINITION. The vector slot: operations on vector and index registers (R95, R96, R107, R108). -/

namespace Sys2Proof.Machine

/-- A 32-bit value with the NaN of an array canonical (R36). -/
def canonF32 (v : Reg32) : Reg32 := toF32 (ofF32 v)

/-- A lane-by-lane operation on one or two registers; a lane's poison enters every result computed from it (R83). -/
def lanes1 (f : Reg32 → Reg32) (p : Lanes) : Lanes := p.map (fun c => ⟨f c.bits, c.poison⟩)
def lanes2 (f : Reg32 → Reg32 → Reg32) (p q : Lanes) : Lanes :=
  List.zipWith (fun c d => ⟨f c.bits d.bits, c.poison || d.poison⟩) p q

/-- Every lane the same. -/
def splat (c : Cell32) : Lanes := List.replicate 64 c

/-- A reduction over the lanes in ascending order, from lane 0. -/
def reduceLanes (f : Reg32 → Reg32 → Reg32) (p : Lanes) : Lanes :=
  splat ⟨p.tail.foldl (fun v c => f v c.bits) (p.headD Cell32.init).bits, p.any (·.poison)⟩

/-- A vector-register operation of the bundle: its result lands `lat` cycles after issue (R108). -/
def vecStep (op lat : Nat) (f : Arr → Nat → Lanes) (x : Arr) : Arr :=
  match x.slotOp Cur.v vOp op with
  | none => x
  | some b => x.doneV.later (.vec x.cyc (x.cyc + lat) (vD b) (f x b))

/-- An index-register operation of the bundle: its result is there in the next cycle (R93). -/
def idxStep (op : Nat) (f : Arr → Nat → Reg32) (x : Arr) : Arr :=
  match x.slotOp Cur.v vOp op with
  | none => x
  | some b => x.doneV.later (.idx x.cyc (x.cyc + 1) (vD b) (f x b))

/-- Sources of a bundle's vector slot. -/
def srcA (x : Arr) (b : Nat) : Lanes := x.lanes (vA b)
def srcB (x : Arr) (b : Nat) : Lanes := x.lanes (vB b)

def execVadd (a : Ary) (s : State) : Host.Outcome State Fault Refusal :=
  .next (s.modArr a.val (vecStep 0x01 4 (fun x b => lanes2 fadd (srcA x b) (srcB x b))))

def execVsub (a : Ary) (s : State) : Host.Outcome State Fault Refusal :=
  .next (s.modArr a.val (vecStep 0x02 4 (fun x b => lanes2 fsub (srcA x b) (srcB x b))))

def execVmul (a : Ary) (s : State) : Host.Outcome State Fault Refusal :=
  .next (s.modArr a.val (vecStep 0x03 4 (fun x b => lanes2 fmul (srcA x b) (srcB x b))))

/-- VFMA: vA × vB + vD with one rounding. -/
def execVfma (a : Ary) (s : State) : Host.Outcome State Fault Refusal :=
  .next (s.modArr a.val (vecStep 0x04 4 (fun x b =>
    List.zipWith (fun (p : Cell32 × Cell32) d => ⟨ffma p.1.bits p.2.bits d.bits, p.1.poison || p.2.poison || d.poison⟩)
      ((srcA x b).zip (srcB x b)) (x.lanes (vD b)))))

def execVmax (a : Ary) (s : State) : Host.Outcome State Fault Refusal :=
  .next (s.modArr a.val (vecStep 0x05 4 (fun x b => lanes2 (fun p q => canonF32 (fmax p q)) (srcA x b) (srcB x b))))

def execVmin (a : Ary) (s : State) : Host.Outcome State Fault Refusal :=
  .next (s.modArr a.val (vecStep 0x06 4 (fun x b => lanes2 (fun p q => canonF32 (fmin p q)) (srcA x b) (srcB x b))))

def execVmov (a : Ary) (s : State) : Host.Outcome State Fault Refusal :=
  .next (s.modArr a.val (vecStep 0x07 4 (fun x b => lanes1 canonF32 (srcA x b))))

/-- VBCAST: lane IMM[5:0] of vA in every lane. -/
def execVbcast (a : Ary) (s : State) : Host.Outcome State Fault Refusal :=
  .next (s.modArr a.val (vecStep 0x08 4 (fun x b =>
    lanes1 canonF32 (splat ((srcA x b).getD (vImm b % 64) Cell32.init)))))

/-- VSPLAT: the BF16 value IMM[15:0] in every lane. -/
def execVsplat (a : Ary) (s : State) : Host.Outcome State Fault Refusal :=
  .next (s.modArr a.val (vecStep 0x09 4 (fun _ b => splat ⟨toF32 (decodeFp bf16 (vImm b % 65536)), false⟩)))

def execVrcp (a : Ary) (s : State) : Host.Outcome State Fault Refusal :=
  .next (s.modArr a.val (vecStep 0x0A 8 (fun x b => lanes1 frcp (srcA x b))))

def execVrsqrt (a : Ary) (s : State) : Host.Outcome State Fault Refusal :=
  .next (s.modArr a.val (vecStep 0x0B 8 (fun x b => lanes1 frsqrt (srcA x b))))

def execVexp2 (a : Ary) (s : State) : Host.Outcome State Fault Refusal :=
  .next (s.modArr a.val (vecStep 0x0C 8 (fun x b => lanes1 fexp2 (srcA x b))))

/-- VRSUM: lanes 0 to 63 added in ascending order, one rounding an addition. -/
def execVrsum (a : Ary) (s : State) : Host.Outcome State Fault Refusal :=
  .next (s.modArr a.val (vecStep 0x0D 12 (fun x b => reduceLanes fadd (srcA x b))))

def execVrmax (a : Ary) (s : State) : Host.Outcome State Fault Refusal :=
  .next (s.modArr a.val (vecStep 0x0E 12 (fun x b => lanes1 canonF32 (reduceLanes fmax (srcA x b)))))

/-- The result of an index operation (R107): ISET, ISETH (bits [31:24] from the immediate, the others unchanged), IADD, ISUB, IMIN, ICMPLT,
ICMPEQ. -/
def idxValue (op : Nat) (x : Arr) (b : Nat) : Reg32 :=
  if op = 0x20 then vImmS b
  else if op = 0x21 then (x.ir (vD b) &&& 0x00FFFFFF) ||| BitVec.ofNat 32 (vImm b % 256 * 2 ^ 24)
  else if op = 0x22 then x.ir (vA b) + x.ir (vB b) + vImmS b
  else if op = 0x23 then x.ir (vA b) - x.ir (vB b)
  else if op = 0x24 then (if x.ir (vA b) < x.ir (vB b) then x.ir (vA b) else x.ir (vB b))
  else if op = 0x25 then (if x.ir (vA b) < x.ir (vB b) + vImmS b then 1 else 0)
  else if x.ir (vA b) = x.ir (vB b) + vImmS b then 1 else 0

def execIset (a : Ary) (s : State) : Host.Outcome State Fault Refusal :=
  .next (s.modArr a.val (idxStep 0x20 (idxValue 0x20)))

def execIseth (a : Ary) (s : State) : Host.Outcome State Fault Refusal :=
  .next (s.modArr a.val (idxStep 0x21 (idxValue 0x21)))

def execIadd (a : Ary) (s : State) : Host.Outcome State Fault Refusal :=
  .next (s.modArr a.val (idxStep 0x22 (idxValue 0x22)))

def execIsub (a : Ary) (s : State) : Host.Outcome State Fault Refusal :=
  .next (s.modArr a.val (idxStep 0x23 (idxValue 0x23)))

def execImin (a : Ary) (s : State) : Host.Outcome State Fault Refusal :=
  .next (s.modArr a.val (idxStep 0x24 (idxValue 0x24)))

def execIcmplt (a : Ary) (s : State) : Host.Outcome State Fault Refusal :=
  .next (s.modArr a.val (idxStep 0x25 (idxValue 0x25)))

def execIcmpeq (a : Ary) (s : State) : Host.Outcome State Fault Refusal :=
  .next (s.modArr a.val (idxStep 0x26 (idxValue 0x26)))

end Sys2Proof.Machine
end

