-- ==== Sys2Proof/Machine/PlanOps.lean ====
section
/-! DEFINITION. Command queues: the check of a presented plan instruction, its issue, its completion, batches and their references,
and what a completion lets happen (R120 to R128, R134 to R137). -/

namespace Sys2Proof.Machine

/-! ## The opcode table (R123) -/

/-- Who may issue an opcode: every class, regular and freight, an admin tenant, an express tenant. -/
inductive OpClass where
  | all | rf | admin | express
deriving DecidableEq, Repr

/-- Bits `hi` to `lo` set. -/
def mask (hi lo : Nat) : Nat := (2 ^ (hi + 1 - lo) - 1) <<< lo

/-- An opcode's form, its operand bits in both words, and its classes. -/
structure PlanForm where
  op : Nat
  ext : Bool
  m0 : Nat
  m1 : Nat
  cls : OpClass
deriving DecidableEq, Repr

def planForms : List PlanForm :=
  [⟨0x00, false, 0, 0, .all⟩,
   ⟨0x01, true, mask 47 10, mask 63 56 + mask 47 0, .rf⟩,
   ⟨0x02, false, mask 31 0, 0, .rf⟩,
   ⟨0x03, false, mask 39 0, 0, .all⟩,
   ⟨0x04, false, mask 39 32 + mask 15 0, 0, .all⟩,
   ⟨0x05, false, 0, 0, .all⟩,
   ⟨0x06, false, 1, 0, .all⟩,
   ⟨0x07, false, 0, 0, .all⟩,
   ⟨0x10, true, mask 47 46 + mask 14 0, mask 47 21, .all⟩,
   ⟨0x11, false, mask 47 46 + mask 12 0, 0, .all⟩,
   ⟨0x12, false, mask 47 46, 0, .all⟩,
   ⟨0x13, false, mask 47 46, 0, .all⟩] ++
  [⟨0x14, false, mask 47 46, 0, .all⟩,
   ⟨0x18, true, mask 47 24, mask 47 0, .rf⟩,
   ⟨0x19, false, mask 47 32 + mask 23 0, 0, .rf⟩,
   ⟨0x1A, true, mask 47 28, mask 63 0, .rf⟩,
   ⟨0x1B, false, mask 47 32, 0, .rf⟩,
   ⟨0x20, true, mask 47 31 + mask 7 0, mask 34 32 + mask 26 0, .admin⟩,
   ⟨0x21, false, mask 47 44 + mask 7 0, 0, .all⟩,
   ⟨0x22, true, mask 47 46 + mask 15 0, mask 47 21, .rf⟩,
   ⟨0x23, false, mask 47 32 + mask 15 0, 0, .rf⟩,
   ⟨0x24, true, mask 47 0, mask 47 0, .rf⟩] ++
  [⟨0x28, true, mask 47 45 + mask 37 0, mask 47 12, .rf⟩,
   ⟨0x29, false, mask 47 47 + mask 37 32, 0, .rf⟩,
   ⟨0x30, true, mask 14 0, mask 31 0, .all⟩,
   ⟨0x31, false, mask 14 0, 0, .all⟩,
   ⟨0x38, false, mask 47 25 + mask 23 10, 0, .express⟩,
   ⟨0x39, false, 0, 0, .express⟩]

def planForm? (op : Nat) : Option PlanForm := planForms.find? (fun f => f.op == op)

/-! ## Fields of an instruction (R120, R121) -/

def pOp (w0 : BitVec 64) : Nat := bitsOf w0.toNat 63 56
def pExt (w0 : BitVec 64) : Bool := w0.getLsbD 55
def pCpl (w0 : BitVec 64) : Bool := w0.getLsbD 54
def pIrq (w0 : BitVec 64) : Bool := w0.getLsbD 53
def pSerial (w0 : BitVec 64) : Bool := w0.getLsbD 52
/-- Slots that an instruction occupies, by EXT alone. -/
def pSlots (w0 : BitVec 64) : Nat := if pExt w0 then 2 else 1
/-- A field of a word. -/
def pf (w : BitVec 64) (hi lo : Nat) : Nat := bitsOf w.toNat hi lo

/-- The operand bits of a KVEDIT's second word by OP (R186). -/
def kvEditMask (op : Nat) : Nat :=
  if op = 1 then mask 23 0 else if op = 2 then mask 47 28 + mask 26 0 else if op = 3 then mask 15 0
  else if op = 4 then mask 23 0 else if op = 5 then mask 47 32 + mask 26 0 else 0

/-- Largest ITEM by KIND of REBIND and SCRUB (R140). -/
def maxItem (kind : Nat) : Nat :=
  if kind = 0 then 63 else if kind = 1 then 0 else if kind = 2 then 15 else if kind = 3 then 7 else 31

/-- Operand bits of REBIND's second word by KIND (R140). -/
def rebindMask (kind : Nat) : Nat :=
  if kind = 1 then mask 16 0 else if kind = 3 then mask 34 32 + mask 26 0 else 0

/-- A reserved code in a field, or a bit that the code in another field reserves (R122). A FORM that R30 knows and a PSIZE above 8
are left to KVOPEN's own check (R183, notes/assumptions/49.md). -/
def badCode (w0 w1 : BitVec 64) : Bool :=
  let op := pOp w0
  if op = 0x18 then
    decide (12 ≤ pf w0 31 28)
  else if op = 0x1A then
    pf w0 31 28 == 0 || decide (6 < pf w0 31 28) || (w1.toNat &&& kvEditMask (pf w0 31 28)) != w1.toNat
  else if op = 0x20 then
    decide (4 < pf w0 47 44) || decide (maxItem (pf w0 47 44) < pf w0 7 0) ||
      (w1.toNat &&& rebindMask (pf w0 47 44)) != w1.toNat
  else if op = 0x21 then decide (4 < pf w0 47 44) || decide (maxItem (pf w0 47 44) < pf w0 7 0)
  else if op = 0x22 then decide (1 < pf w0 47 46)
  else if op = 0x24 then decide (1 < pf w0 47 46)
  else if op = 0x28 then pf w0 46 45 == 0 || pf w0 31 0 == 0 || decide (262144 < pf w0 31 0)
  else if op = 0x30 ∨ op = 0x31 then pf w0 14 0 % 4 != 0
  else false

/-- Check 2 of R122 fails for a form. -/
def badOperand (f : PlanForm) (w0 w1 : BitVec 64) : Bool :=
  pExt w0 != f.ext || pf w0 51 48 != 0 || (pf w0 47 0 &&& f.m0) != pf w0 47 0 ||
    (w1.toNat &&& f.m1) != (if f.ext then w1.toNat else 0) || badCode w0 w1

/-- Check 3 of R122 passes (R123, R139, R140). -/
def Tenant.mayIssue (y : Tenant) (c : OpClass) : Bool :=
  match c with
  | .all => true
  | .rf => y.cls == 2 || y.cls == 3
  | .admin => y.admin && y.cls != 1
  | .express => y.cls == 1

/-- Every byte of a span of model addresses lies in the tenant's memory ranges: range by range, at most eight (R122, R139). -/
def Tenant.spans (y : Tenant) : Nat → Nat → Nat → Bool
  | 0, pos, fin => decide (fin ≤ pos)
  | f + 1, pos, fin =>
    if fin ≤ pos then true
    else
      let hit := (List.range 8).find? (fun m =>
        let r := y.range m
        decide (r.gbase.toNat * 2 ^ 21 ≤ pos) && decide (pos < (r.gbase.toNat + r.granules.toNat) * 2 ^ 21))
      match hit with
      | none => false
      | some m => y.spans f (((y.range m).gbase.toNat + (y.range m).granules.toNat) * 2 ^ 21) fin

def Tenant.inRanges (y : Tenant) (addr n : Nat) : Bool := y.spans 8 addr (addr + n)

/-- The model address concerned when check 4 of R122 fails. -/
def badRange (y : Tenant) (w0 w1 : BitVec 64) : Option Nat :=
  let op := pOp w0
  let need (a n : Nat) : Option Nat := if y.inRanges a n then none else some a
  if op = 0x01 then need (pf w1 47 0) 64
  else if op = 0x10 then need (pf w1 47 21 * 2 ^ 21) 1
  else if op = 0x18 then need (pf w1 47 0) 64
  else if op = 0x22 then need (pf w1 47 21 * 2 ^ 21) ((pf w0 15 0 + 1) * 2 ^ 21)
  else if op = 0x24 then need (pf w1 47 0) (pf w0 29 0)
  else if op = 0x28 then need (pf w1 47 12 * 4096) (pf w0 31 0 * 4096)
  else if op = 0x30 ∨ op = 0x31 then (if pf w0 14 0 / 0x1000 = 1 then none else some 0)
  else none

/-- The first check of R122 that fails: code, and the model address concerned or 0. -/
def planCheck (y : Tenant) (w0 w1 : BitVec 64) : Option (BitVec 16 × Nat) :=
  match planForm? (pOp w0) with
  | none => some (Code.planOpcode, 0)
  | some f =>
    if badOperand f w0 w1 then some (Code.planOperand, 0)
    else if !y.mayIssue f.cls then some (Code.planPriv, 0)
    else (badRange y w0 w1).map (fun a => (Code.planRange, a))

/-! ## Queues -/

/-- Slots of the plan ring and entries of the completion ring (R132). -/
def Queue.cap (y : Queue) : Nat := 64 * 2 ^ y.size.toNat
def Queue.ccap (y : Queue) : Nat := 64 * 2 ^ y.csize.toNat

/-- An instruction's record is written (R126): CPL, a status, HALT, TSTAMP, GETCFG. -/
def Issued.records (e : Issued) : Bool :=
  e.cpl || (match e.status with | none => false | some c => c != 0) ||
    e.opcode == 0x06 || e.opcode == 0x07 || e.opcode == 0x31

/-- Complete instructions at the head that write no record leave. -/
def trimIssued (l : List Issued) : List Issued :=
  l.dropWhile (fun e => e.status.isSome && !e.records)

/-- No issued instruction is incomplete. -/
def Queue.allDone (y : Queue) : Bool := y.issued.all (fun e => e.status.isSome)

/-- No instruction earlier than the one at an index, in slot order, is incomplete (R124). -/
def Queue.earlierDone (idx : Reg32) (y : Queue) : Bool :=
  y.issued.all (fun e => e.status.isSome || decide ((y.head - e.idx).toNat ≤ (y.head - idx).toNat))

/-- Records held because they cannot be written (R308). -/
def Queue.heldRecords (y : Queue) : Nat := (y.issued.filter (fun e => e.status.isSome && e.records)).length

/-- No free completion entry (R134), or 64 records held while no host is attached (R308). -/
def Queue.blocked (y : Queue) (attached : Bool) : Bool :=
  decide (y.ccap ≤ (y.cplTail - y.cplHead).toNat) || (!attached && decide (64 ≤ y.heldRecords))

/-- An instruction put among the issued ones in slot order, seen from DBL_HEAD. -/
def insertIssued (head : Reg32) (e : Issued) : List Issued → List Issued
  | [] => [e]
  | x :: r => if (head - x.idx).toNat < (head - e.idx).toNat then e :: x :: r else x :: insertIssued head e r

/-- The entry of a presented instruction. -/
def Presented.entry (p : Presented) (status : Option (BitVec 16)) (value detail : BitVec 64) : Issued :=
  ⟨p.idx, BitVec.ofNat 8 (pOp p.w0), pCpl p.w0, pIrq p.w0, status, value, detail⟩

/-- An instruction issues: DBL_HEAD passes it, unless it is one presented again from below (R124, R136). -/
def Queue.issue (p : Presented) (status : Option (BitVec 16)) (value : BitVec 64) (y : Queue) : Queue :=
  let head := if p.idx = y.head then y.head + BitVec.ofNat 32 p.slots else y.head
  { y with
    head := head
    waiting := none
    retry := none
    issued := trimIssued (insertIssued head (p.entry status value 0) y.issued) }

/-- The queue faults at an instruction (R136). -/
def Queue.faultAt (st : Stuck) (code : BitVec 16) (y : Queue) : Queue :=
  if y.st = .faulted then y else { y with st := .faulted, fcode := code, stuck := some st, waiting := none }

/-- An instruction that fails before it issues completes at once (R122, R136). One presented again lies below DBL_HEAD. -/
def Queue.failUnissued (p : Presented) (code : BitVec 16) (detail : BitVec 64) (y : Queue) : Queue :=
  { (y.faultAt ⟨p.idx, p.slots, p.idx != y.head⟩ code) with
    retry := none
    issued := insertIssued y.head (p.entry (some code) 0 detail) y.issued }

/-- DETAIL: model address and unit (R135). -/
def detailOf (addr unit : Nat) : BitVec 64 := BitVec.ofNat 64 (addr * 65536 + unit)

/-! ## Batches and copies (R128, R254) -/

/-- The copy that the points select, while it is ARMED. -/
def Tenant.pointed (y : Tenant) : Option (Fin 4) :=
  match y.points with
  | none => none
  | some c => if (y.copy c.val).st = .armed then some c else none

/-- The open batch closes; one with DISPATCHes still to complete keeps its reference. -/
def Queue.closeBatch (y : Queue) : Queue :=
  match y.batch with
  | none => y
  | some b => { y with
      batch := none
      closing := if b.pendingDispatches = 0 then y.closing else y.closing ++ [{ b with open_ := false }] }

/-- A batch opens, with a reference to the copy pointed to. -/
def Queue.openBatch (copy : Option (Fin 4)) (y : Queue) : Queue := { y with batch := some ⟨copy, true, 0⟩ }

/-- A DISPATCH of the queue completes: those of a queue complete in order, the oldest batch's first. -/
def Queue.dropDispatch (y : Queue) : Queue :=
  match y.closing with
  | b :: r =>
    { y with closing := if b.pendingDispatches ≤ 1 then r else { b with pendingDispatches := b.pendingDispatches - 1 } :: r }
  | [] => { y with batch := y.batch.map (fun b => { b with pendingDispatches := b.pendingDispatches - 1 }) }

/-- References that batches hold to a copy. -/
def Tenant.refs (y : Tenant) (c : Fin 4) : Nat :=
  ((List.range 8).map (fun q =>
    let v := y.queue q
    ((v.batch.toList ++ v.closing).filter (fun b => b.copy == some c)).length)).sum

/-! ## Completion -/

/-- The queue of a stopping tenant, or one being disabled, has nothing incomplete (R128, R132, R137). -/
def Tenant.settleStop (y : Tenant) : Tenant :=
  let drained := (List.range 8).foldl (fun y q =>
    let v := y.queue q
    if v.st != .disabled && !v.enable && v.allDone then
      y.setQueue q { v.closeBatch with st := .disabled, fcode := 0, waiting := none, retry := none, stuck := none }
    else y) y
  if drained.st = .stopping ∧ (List.range 8).all (fun q => (drained.queue q).allDone) then { drained with st := .stopped }
  else drained

/-- An issued instruction completes with a status (R126, R135, R136); a fault status is recorded unless it has been. -/
def finish (t q : Nat) (idx : Reg32) (status : BitVec 16) (value : BitVec 64) (addr unit : Nat) (log : Bool) (s : State) :
    State :=
  let y := s.queue t q
  match y.issued.find? (fun e => e.idx == idx && e.status.isNone) with
  | none => s
  | some e =>
    let faulty := status != 0 && status != Code.cfgWrBusy
    let mark (v : Issued) : Issued :=
      if v.idx = idx ∧ v.status = none then
        { v with status := some status, value := value, detail := if status = 0 then 0 else detailOf addr unit }
      else v
    let y1 := { y with issued := trimIssued (y.issued.map mark) }
    let y2 := if faulty then y1.faultAt ⟨idx, 0, true⟩ status
      else if e.opcode = 0x07 ∧ y1.st != .disabled ∧ y1.st != .faulted then
        { y1 with st := .halted, stuck := some ⟨idx, 0, true⟩, waiting := none }
      else y1
    let s1 := (s.setQueue t q y2).modTenant t Tenant.settleStop
    if faulty && log then record status (some t) unit (fwArg status) addr (noteMem status t addr s1) else s1

/-- A RELEASING copy that no batch holds becomes EMPTY, and its RELEASEW completes (R254). -/
def settleCopy (t : Nat) (c : Fin 4) (s : State) : State :=
  let y := s.tenant t
  let v := y.copy c.val
  if v.st = .releasing ∧ y.refs c = 0 then
    let s1 := s.modTenant t (fun y => y.setCopy c.val Copy.init)
    match v.waiter with
    | none => s1
    | some w => finish t w.1 w.2 0 0 0 unitNone true s1
  else s

def settleCopies (t : Nat) (s : State) : State :=
  settleCopy t 3 (settleCopy t 2 (settleCopy t 1 (settleCopy t 0 s)))

/-! ## Issue -/

/-- Success at issue. -/
def issueDone (t q : Nat) (p : Presented) (value : BitVec 64) (s : State) : State :=
  finish t q p.idx 0 value 0 unitNone true (s.modQueue t q (Queue.issue p none 0))

/-- Issue; the instruction completes later. -/
def issueOpen (t q : Nat) (p : Presented) (s : State) : State := s.modQueue t q (Queue.issue p none 0)

/-- Issue, and completion with a fault found in the work, or with CFG_WR_BUSY. -/
def issueFault (t q : Nat) (p : Presented) (code : BitVec 16) (addr : Nat) (s : State) : State :=
  finish t q p.idx code 0 addr unitNone true (issueOpen t q p s)

/-- A fault found before issue: no effect, and the queue FAULTED (R136); `arg` is the log entry's ARG. -/
def failUnissued (t q : Nat) (p : Presented) (code : BitVec 16) (addr arg : Nat) (s : State) : State :=
  record code (some t) unitNone arg addr
    ((s.modQueue t q (Queue.failUnissued p code (detailOf addr unitNone))).modTenant t Tenant.settleStop)

/-- The value of an event counter, and its increase, saturating (R123, R127). -/
def Tenant.event (y : Tenant) (e : Nat) : Reg32 := sget 0 y.events e
def Tenant.addEvent (y : Tenant) (e n : Nat) : Tenant := { y with events := supd 0 y.events e (fun v => satAdd v n) }

/-- Opcodes whose effect takes nothing but their words, and that may wait to issue. -/
def simpleOp (op : Nat) : Bool := op == 0 || (decide (2 ≤ op) && decide (op ≤ 7))

/-- The condition at which an instruction issues (R124). -/
def issueReady (s : State) (t q : Nat) (p : Presented) : Bool :=
  let op := pOp p.w0
  let done := (s.queue t q).earlierDone p.idx
  (!pSerial p.w0 || done) &&
    (if op = 0x03 then decide (pf p.w0 31 0 ≤ ((s.tenant t).event (pf p.w0 39 32)).toNat)
     else if op = 0x04 ∨ op = 0x05 ∨ op = 0x07 ∨ (op = 0x06 ∧ pf p.w0 0 0 = 1) then done
     else true)

/-- What NOP, BATCH, WAITEV, SIGNALEV, FENCE, TSTAMP and HALT do when they issue (R123, R128, R135). -/
def simpleBody (t q : Nat) (p : Presented) (s : State) : State :=
  let op := pOp p.w0
  if op = 0x02 then
    let s1 := s.modQueue t q (fun y => y.closeBatch.openBatch (s.tenant t).pointed)
    issueDone t q p (BitVec.ofNat 64 (pf p.w0 31 0)) (settleCopies t s1)
  else if op = 0x04 then
    issueDone t q p 0 (s.modTenant t (fun y => y.addEvent (pf p.w0 39 32) (pf p.w0 15 0)))
  else if op = 0x06 then issueDone t q p (BitVec.ofNat 64 s.glb.devTime) s
  else issueDone t q p 0 s

/-- The queue may present or issue: enabled and running, tenant RUNNING, records not blocked, and a host attached unless the tenant
is express, whose instructions that have been taken go on (R308). -/
def State.queueRuns (s : State) (t q : Nat) : Bool :=
  let y := s.queue t q
  (s.glb.attached || (s.tenant t).cls == 1) && (s.tenant t).st == .running && y.enable && y.st == .idle &&
    !y.blocked s.glb.attached

/-- The waiting instruction of a queue issues when its condition has come (R124, R127). -/
def settleQueue (t q : Nat) (s : State) : State :=
  match (s.queue t q).waiting with
  | none => s
  | some p =>
    if s.queueRuns t q && simpleOp (pOp p.w0) && issueReady s t q p then simpleBody t q p s else s

def settleRound (t : Nat) (s : State) : State := (List.range 8).foldl (fun s q => settleQueue t q s) s

/-- Waiting instructions of a tenant issue, each at most once, in rounds over its eight queues. -/
def settle (t : Nat) (s : State) : State := (List.range 8).foldl (fun s _ => settleRound t s) s

/-- Completion, and what it lets issue. -/
def complete (t q : Nat) (idx : Reg32) (status : BitVec 16) (value : BitVec 64) (addr unit : Nat) (log : Bool) (s : State) :
    State :=
  settle t (settleCopies t (finish t q idx status value addr unit log s))

/-! ## Presentation (R122, R124, R133, R136, R147) -/

/-- A queue has an instruction to present: one to be presented again, or one in slots that the tail covers (R133, R136). Its slots are
read from host memory, so a host is attached (R306, R308). -/
def State.hasNext (s : State) (t q : Nat) : Bool :=
  let y := s.queue t q
  s.glb.attached && s.queueRuns t q && y.waiting.isNone && (y.retry.isSome || (y.tail != y.head && !y.short))

/-- The queue of a tenant that comes next, from the one whose turn it is (R147). -/
def State.nextQueue (s : State) (t : Nat) : Option Nat :=
  ((List.range 8).map (fun k => ((s.tenant t).turn + k) % 8)).find? (s.hasNext t)

/-- The tenant of a class that a planner serves next, from the one whose turn it is (R147). -/
def State.nextTenant (s : State) (core : Nat) (cls : BitVec 2) : Option Nat :=
  ((List.range 32).map (fun k => (sget 0 s.sec.turns (4 * core + cls.toNat) + k) % 32)).find? (fun t =>
    (s.tenant t).cls == cls && (s.tenant t).planner.toNat == core && (s.nextQueue t).isSome)

/-- It is the queue's turn at its planner: regular before freight, tenants and queues in turn; express queues have core 7 (R147,
R152). -/
def State.planTurn (s : State) (t q : Nat) : Bool :=
  let y := s.tenant t
  let core := y.planner.toNat
  y.cls == 1 ||
    (s.nextTenant core y.cls == some t && s.nextQueue t == some q && (y.cls != 3 || (s.nextTenant core 2).isNone))

/-- The turn passes on: at the planner to the next tenant of the class, in the tenant to the next queue (R147). -/
def passTurn (t q : Nat) (s : State) : State :=
  let y := s.tenant t
  let s1 := s.modTenant t (fun y => { y with turn := (q + 1) % 8 })
  { s1 with sec := { s1.sec with turns := sset 0 s1.sec.turns (4 * y.planner.toNat + y.cls.toNat) ((t + 1) % 32) } }

/-- The instruction that a command presents: the one waiting, or, from the ring in host memory, the one RETRY asked for or the one at
DBL_HEAD, when the tail covers it (R306, R308). -/
def State.presented? (s : State) (t q : Nat) (w0 w1 : BitVec 64) : Option Presented :=
  let y := s.queue t q
  if !s.queueRuns t q then none
  else match y.waiting with
    | some p => if p.w0 = w0 ∧ p.w1 = w1 then some p else none
    | none =>
      if !s.glb.attached then none
      else match y.retry with
        | some p => some ⟨p.idx, pSlots w0, w0, w1⟩
        | none =>
          if pSlots w0 ≤ (y.tail - y.head).toNat then some ⟨y.head, pSlots w0, w0, w1⟩ else none

/-- The first word at DBL_HEAD belongs to an extended instruction whose second word the tail does not cover (R133). -/
def State.cutOff (s : State) (t q : Nat) (w0 : BitVec 64) : Bool :=
  let y := s.queue t q
  s.glb.attached && s.queueRuns t q && y.waiting.isNone && y.retry.isNone && pExt w0 && (y.tail - y.head).toNat == 1

/-- The planner takes a queue's instruction: its turn passes, unless the instruction waits already, and a batch opens (R128, R147). -/
def taken (t q : Nat) (s : State) : State :=
  let s1 := if (s.queue t q).waiting.isSome then s else passTurn t q s
  if (s1.queue t q).batch.isNone then s1.modQueue t q (Queue.openBatch (s1.tenant t).pointed) else s1

/-- A queue presents an instruction whose opcode is one of a row's: checked, issued by `body` when it may, else waiting. One that the
planner does not take in its turn stays where it is (R147). -/
def present (t : Ten) (q : Que) (w0 w1 : BitVec 64) (mine : Bool) (body : Presented → State → State) (s : State) : State :=
  match s.presented? t.val q.val w0 w1 with
  | none => if s.cutOff t.val q.val w0 then s.modQueue t.val q.val (fun y => { y with short := true }) else s
  | some p =>
    let again := (s.queue t.val q.val).waiting.isSome
    if !mine || !(again || s.planTurn t.val q.val) then s
    else
      let s0 := taken t.val q.val s
      match planCheck (s0.tenant t.val) w0 w1 with
      | some (c, a) => failUnissued t.val q.val p c a 0 s0
      | none =>
        if issueReady s0 t.val q.val p then settle t.val (body p s0)
        else s0.modQueue t.val q.val (fun y => { y with waiting := some p })

end Sys2Proof.Machine
end

