-- ==== Sys2Proof/Machine/MemOps.lean ====
section
/-! DEFINITION. Model memory: the granule map, physical granules and their pools, yard pages with packing, encryption and tags,
reads and writes by model address, heat (R193, R199 to R206, R212 to R219, R314). -/

namespace Sys2Proof.Machine

/-! ## Keys (R314) -/

/-- The bytes of an ASCII label. -/
def label (x : String) : Bytes := x.toList.map (fun c => BitVec.ofNat 8 c.toNat)

def State.keySlot (s : State) (k : Nat) : KeySlot := sget KeySlot.init s.sec.slots k

/-- The XTS key pair and the tag key of a slot's memory keys. -/
def State.memKeys (s : State) (k : Nat) : Bytes × Bytes :=
  let salt := s.fuse.dseed ++ s.sec.bnonce
  let ikm := (s.keySlot k).secret
  (hkdf384 salt ikm (label "AT96 yard xts") 64, hkdf384 salt ikm (label "AT96 yard tag") 32)

/-- The memory keys of a tenant: those of its memory key slot, while it has one (R200). -/
def State.tenantKeys (s : State) (t : Nat) : Option (Bytes × Bytes) := (s.tenant t).mkSlot.map (fun k => s.memKeys k.val)

/-! ## Yard pages (R212 to R219) -/

/-- A page's stored form: MODE, and the stored bytes (R212). -/
def pageForm (page : Bytes) : Nat × Bytes :=
  if page.all (· == 0) then (2, [])
  else
    let tab := rpTable page
    let packed := tab ++ List.replicate (13 - tab.length) 0 ++ [BitVec.ofNat 8 tab.length, 0, 0] ++ rpStream tab page
    if packed.length ≤ 3584 then (1, packed) else (0, page)

/-- The XTS tweak of a page and the IV of a unit's tag (R216, R217). -/
def pageTweak (t f epoch : Nat) : Nat := f + t * 2 ^ 26 + epoch * 2 ^ 31
def unitIv (t f epoch u : Nat) : Bytes := leBytes 12 (f + u * 2 ^ 26 + t * 2 ^ 29 + epoch * 2 ^ 34)

/-- The tag of a unit: the leftmost 64 bits of the GCM tag of its model address and ciphertext (R217). -/
def unitTag (key : Bytes) (t f epoch addr u : Nat) (cipher : Bytes) : BitVec 64 :=
  BitVec.ofNat 64 (leNat ((gcmTag (aesKeys key) (unitIv t f epoch u) (leBytes 6 (addr + 512 * u) ++ cipher) []).take 8))

/-- A page as the yard stores it after a write of frame `f` at model address `addr`: packed, encrypted, tagged (R214). The last
stored unit is filled up with zeros. -/
def encodePage (keys : Bytes × Bytes) (t f addr : Nat) (old : YPage) (page : List MByte) : YPage :=
  let (mode, stored) := pageForm (page.map (·.1))
  let epoch := satAdd old.epoch 1
  let n := cdiv stored.length 512
  let plain := stored ++ List.replicate (512 * n - stored.length) 0
  let cipher := xts true keys.1 (pageTweak t f epoch.toNat) 0 plain
  let units := chunks 512 n cipher
  { mode := BitVec.ofNat 3 mode
    len := BitVec.ofNat 13 stored.length
    epoch := epoch
    units := units
    tags := units.zipIdx.map (fun u => unitTag keys.2 t f epoch.toNat addr u.2 u.1)
    lost := []
    poison := (List.range 512).filter (fun w => ((page.drop (8 * w)).take 8).any (·.2)) }

/-- What a page read delivers: bytes, units that failed twice, units good on the second reading, the first failed unit. -/
structure PageRead where
  bytes : List MByte
  fails : Nat
  rereads : Nat
  first : Nat
deriving DecidableEq, Repr

/-- A yard page read (R214, R219): `bad1` and `bad2` are units received with errors on the first and the second reading. Without
keys no tag verifies (R200). A page whose record is uncorrectable, MODE 3 here, is lost whole. -/
def decodePage (keys : Option (Bytes × Bytes)) (t f addr : Nat) (bad1 bad2 : List Nat) (p : YPage) : PageRead :=
  let marks (l : Bytes) : List MByte := l.zipIdx.map (fun b => (b.1, p.poison.contains (b.2 / 8)))
  let dark : List MByte := List.replicate 4096 (0, true)
  if p.mode = 2 then ⟨marks (List.replicate 4096 0), 0, 0, 0⟩
  else
    let verifies (u : Nat × Bytes) : Bool := match keys with
      | none => false
      | some k => p.tags[u.1]? == some (unitTag k.2 t f p.epoch.toNat addr u.1 u.2)
    let us := p.units.zipIdx.map (fun u => (u.2, u.1))
    let failed := us.filter (fun u => !verifies u || p.lost.contains u.1 || (bad1.contains u.1 && bad2.contains u.1))
    let again := us.filter (fun u => verifies u && !p.lost.contains u.1 && bad1.contains u.1 && !bad2.contains u.1)
    let plain := match keys with
      | none => List.replicate (512 * p.units.length) 0
      | some k => xts false k.1 (pageTweak t f p.epoch.toNat) 0 p.units.flatten
    let first := (failed.map (·.1)).headD 0
    if p.mode = 1 then
      if !failed.isEmpty then ⟨dark, p.units.length, again.length, first⟩
      else
        let body := plain.take p.len.toNat
        if 13 < (body.getD 13 0).toNat then ⟨dark, 0, again.length, 0⟩
        else match rpDecode (body.take 13) (body.drop 16) 4096 with
          | none => ⟨dark, 0, again.length, 0⟩
          | some bs => ⟨marks bs, 0, again.length, 0⟩
    else if p.mode = 0 then
      ⟨(marks plain).zipIdx.map (fun b => (b.1.1, b.1.2 || failed.any (fun u => u.1 == b.2 / 512))), failed.length,
        again.length, first⟩
    else ⟨dark, max 1 p.units.length, 0, 0⟩

/-! ## Granules and pools (R193, R199, R200) -/

def granuleBytes : Nat := 2 ^ 21
/-- Key of a model granule. -/
def gkey (t g : Nat) : Nat := t * 2 ^ 27 + g
def Mtc.granule (m : Mtc) (t g : Nat) : Granule := sget Granule.init m.map (gkey t g)
def Mtc.setGranule (m : Mtc) (t g : Nat) (v : Granule) : Mtc := { m with map := sset Granule.init m.map (gkey t g) v }

/-- Granules of stacked memory outside the reservations, and of the yard outside its tag region (R193). -/
def stackedPool (yardGiB : Nat) : Nat := 49152 - 192 - 64 - 64 - yardGiB
def yardPool (yardGiB : Nat) : Nat := 504 * yardGiB

/-- The range of a tenant that a model granule lies in. -/
def Tenant.rangeOf (y : Tenant) (g : Nat) : Option MemRange :=
  ((List.range 8).map y.range).find? (fun r => decide (r.gbase.toNat ≤ g) && decide (g < r.gbase.toNat + r.granules.toNat))

def MemRange.allowsYard (r : MemRange) : Bool := r.tier == 0 || r.tier == 2
def MemRange.allowsStacked (r : MemRange) : Bool := r.tier == 0 || r.tier == 1

/-- A free stacked granule taken from the pool: one returned before, else the next never used (notes/assumptions/16.md). -/
def Mtc.takeStacked (m : Mtc) : Option (Nat × Mtc) :=
  if m.stkFree = 0 then none
  else match m.stkBack with
    | p :: r => some (p, { m with stkBack := r, stkFree := m.stkFree - 1 })
    | [] => some (m.stkNext, { m with stkNext := m.stkNext + 1, stkFree := m.stkFree - 1 })

def Mtc.takeYard (m : Mtc) : Option (Nat × Mtc) :=
  if m.yardFree = 0 then none
  else match m.yardBack with
    | p :: r => some (p, { m with yardBack := r, yardFree := m.yardFree - 1 })
    | [] => some (m.yardNext, { m with yardNext := m.yardNext + 1, yardFree := m.yardFree - 1 })

/-- A yard frame has been written as often as its EPOCH can tell (R218). -/
def Mtc.wornFrame (m : Mtc) (p : Nat) : Bool :=
  m.yard.any (fun e => e.1 / 512 == p && decide (2 ^ 48 - 1 ≤ e.2.epoch.toNat))

/-- A physical granule returned to its pool; a retired one, or one with a frame at its last EPOCH, is not given out again. -/
def Mtc.giveBack (m : Mtc) (l : Loc) : Mtc :=
  if l.yard then
    if m.wornFrame l.p then m else { m with yardBack := l.p :: m.yardBack, yardFree := m.yardFree + 1 }
  else if l.p ∈ m.bad then m
  else if stackedPool m.yardGiB ≤ l.p then { m with spareBack := l.p :: m.spareBack, spares := m.spares + 1 }
  else { m with stkBack := l.p :: m.stkBack, stkFree := m.stkFree + 1 }

/-- A physical granule cleared: stacked bytes zero, yard pages that hold something written as ZERO (R143). -/
def Mtc.clearLoc (m : Mtc) (l : Loc) : Mtc :=
  if l.yard then
    { m with yard := (m.yard.map (fun e =>
        if e.1 / 512 = l.p ∧ e.2.mode ≠ 2 then (e.1, { YPage.init with epoch := satAdd e.2.epoch 1 })
        else if e.1 / 512 = l.p then (e.1, { e.2 with poison := [] }) else e)).filter (fun e => decide (e.2 ≠ YPage.init)) }
  else
    { m with
      stk := sclear m.stk (granuleBytes * l.p) (granuleBytes * (l.p + 1))
      stkPoison := sclear m.stkPoison (granuleBytes * l.p / 8) (granuleBytes * (l.p + 1) / 8) }

/-- A zero-fill granule's uncleared physical granule is cleared and returned. -/
def Mtc.settleDirty (m : Mtc) (d : Option Loc) : Mtc :=
  match d with
  | none => m
  | some l => (m.clearLoc l).giveBack l

/-- A granule of the tenant lies in the yard (R200). -/
def GState.inYard : GState → Bool
  | .yard _ => true
  | .moving src dst => src.yard || dst.yard
  | _ => false

def State.holdsYard (s : State) (t : Nat) : Bool :=
  s.mtc.map.any (fun e => e.1 / 2 ^ 27 == t && e.2.st.inYard)

/-- The memory key slot is released once the tenant holds no yard granule (R200). -/
def settleMk (t : Nat) (s : State) : State :=
  if (s.tenant t).mkSlot.isSome && !s.holdsYard t then s.modTenant t (fun y => { y with mkSlot := none }) else s

/-- The lowest-numbered bound slot that is INSTALLED (R200). -/
def State.firstKey (s : State) (t : Nat) : Option (Fin 32) :=
  (List.finRange 32).find? (fun k => (s.tenant t).bindKey.getLsbD k.val && (s.keySlot k.val).installed)

/-- A yard granule may be given: the memory key slot is fixed, or now is; none where there is no key. -/
def fixMk (t : Nat) (s : State) : Option State :=
  if (s.tenant t).mkSlot.isSome then some s
  else (s.firstKey t).map (fun k => s.modTenant t (fun y => { y with mkSlot := some k }))

/-- A yard granule for a zero-fill granule: a key, then a free granule. -/
def takeYardFor (t : Nat) (s : State) : Option (Nat × State) :=
  match fixMk t s with
  | none => none
  | some s1 => s1.mtc.takeYard.map (fun r => (r.1, { s1 with mtc := r.2 }))

/-- The physical granule that a first write gives a zero-fill granule: stacked when the range allows and one is free, else yard
(R199, R200). -/
def giveGranule (t g : Nat) (s : State) : Except (BitVec 16) State :=
  let v := s.mtc.granule t g
  match v.st with
  | .zeroFill d =>
    let m0 := s.mtc.settleDirty d
    let r := ((s.tenant t).rangeOf g).getD MemRange.init
    (match (if r.allowsStacked then m0.takeStacked else none) with
     | some (p, m1) =>
       .ok { s with mtc := (m1.clearLoc ⟨false, p⟩).setGranule t g { v with st := .stacked p } }
     | none =>
       if !r.allowsYard then .error Code.memFull
       else match fixMk t s with
         | none => .error Code.memNoKey
         | some _ =>
           match takeYardFor t { s with mtc := m0 } with
           | none => .error Code.memFull
           | some (p, s1) =>
             .ok { s1 with mtc := (s1.mtc.clearLoc ⟨true, p⟩).setGranule t g { v with st := .yard p } })
  | _ => .ok s

/-- Every zero-fill granule of a list is given a physical granule, or the first failure's code. -/
def giveGranules (t : Nat) : List Nat → State → Except (BitVec 16) State
  | [], s => .ok s
  | g :: r, s => match giveGranule t g s with
    | .ok s1 => giveGranules t r s1
    | .error c => .error c

/-! ## Reads and writes -/

/-- Where a granule is read, and where it is written until its move has switched (R201, R204). -/
def GState.home : GState → Option Loc
  | .zeroFill _ => none
  | .stacked p => some ⟨false, p⟩
  | .yard p => some ⟨true, p⟩
  | .moving src _ => some src
  | .retired p => some ⟨false, p⟩

/-- A run of bytes cut at 4 KiB pages: model address and length of each piece. -/
def pieces : Nat → Nat → Nat → List (Nat × Nat)
  | 0, _, _ => []
  | f + 1, a, n =>
    if n = 0 then [] else
      let k := min n (4096 - a % 4096)
      (a, k) :: pieces f (a + k) (n - k)

def piecesOf (a n : Nat) : List (Nat × Nat) := pieces (n / 4096 + 2) a n

/-- The page at a yard frame. -/
def Mtc.page (m : Mtc) (f : Nat) : YPage := sget YPage.init m.yard f

/-- A page of a physical granule as it is read for a tenant at a model address. -/
def State.locPage (s : State) (t : Nat) (l : Loc) (addr : Nat) (bad1 bad2 : List Nat) : PageRead :=
  let pg := addr % granuleBytes / 4096
  if l.yard then decodePage (s.tenantKeys t) t (l.p * 512 + pg) (addr / 4096 * 4096) bad1 bad2 (s.mtc.page (l.p * 512 + pg))
  else ⟨getMarked s.mtc.stk s.mtc.stkPoison (granuleBytes * l.p + pg * 4096) 4096, 0, 0, 0⟩

/-- What failed tags leave: YARD_TAG_FAIL recorded with the model address and the channel, which the unit's place in its 4 KiB frame
gives, counted (R194, R219). -/
def tagResult (t addr : Nat) (r : PageRead) (s : State) : State :=
  let s1 := { s with mtc := { s.mtc with tagReread := satAdd s.mtc.tagReread r.rereads } }
  if r.fails = 0 then s1
  else
    let a := addr / 4096 * 4096 + 512 * r.first
    record Code.yardTagFail (some t) (unitYard r.first) 0 a
      { s1 with mtc := { s1.mtc with tagFail := satAdd s1.mtc.tagFail r.fails }.noteFault Code.yardTagFail t a }

/-- Bytes at a model address, and what reading them leaves recorded. -/
def modelRead (t addr n : Nat) (s : State) : List MByte × State :=
  (piecesOf addr n).foldl (fun acc pc =>
    let g := pc.1 / granuleBytes
    match (acc.2.mtc.granule t g).st.home with
    | none => (acc.1 ++ List.replicate pc.2 (0, false), acc.2)
    | some l =>
      let off := pc.1 % granuleBytes
      if l.yard then
        let r := acc.2.locPage t l pc.1 [] []
        (acc.1 ++ (r.bytes.drop (off % 4096)).take pc.2, tagResult t pc.1 r acc.2)
      else (acc.1 ++ getMarked acc.2.mtc.stk acc.2.mtc.stkPoison (granuleBytes * l.p + off) pc.2, acc.2)) ([], s)

/-- Bytes written at a place inside one page of a physical granule. A part of a yard page is written after the page has been read, and
what that reading finds is recorded (R214, R219). -/
def writeLoc (t : Nat) (l : Loc) (addr : Nat) (data : List MByte) (s : State) : State :=
  let off := addr % granuleBytes
  if l.yard then
    let f := l.p * 512 + off / 4096
    let r := s.locPage t l addr [] []
    let new := r.bytes.take (off % 4096) ++ data ++ r.bytes.drop (off % 4096 + data.length)
    match s.tenantKeys t with
    | none => s
    | some k =>
      let s0 := if data.length = 4096 then s else tagResult t addr r s
      { s0 with mtc := { s0.mtc with
        yard := sset YPage.init s0.mtc.yard f (encodePage k t f (addr / 4096 * 4096) (s0.mtc.page f) new) } }
  else
    { s with mtc := { s.mtc with
        stk := putBytes s.mtc.stk (granuleBytes * l.p + off) data
        stkPoison := putMarks s.mtc.stkPoison (granuleBytes * l.p + off) data } }

/-- The granules that a span touches. -/
def granulesOf (addr n : Nat) : List Nat :=
  if n = 0 then [] else (List.range ((addr + n - 1) / granuleBytes + 1 - addr / granuleBytes)).map (fun i => addr / granuleBytes + i)

/-- A tenant whose memory key slot was scrubbed fixes a new one when it writes a yard page (R200). -/
def needsKey (t : Nat) (gs : List Nat) (s : State) : Bool :=
  (s.tenant t).mkSlot.isNone &&
    gs.any (fun g => match (s.mtc.granule t g).st.home with | some l => l.yard | none => false)

/-- One page copied from an old place to a new: checked, decrypted and unpacked as it leaves the yard, packed, encrypted and tagged as
it enters (R205). A poisoned word is copied as poison. -/
def copyLocPage (t : Nat) (src dst : Loc) (addr : Nat) (s : State) : State :=
  let r := s.locPage t src addr [] []
  let s1 := tagResult t addr r s
  let off := addr % granuleBytes
  if dst.yard then
    let f := dst.p * 512 + off / 4096
    match s1.tenantKeys t with
    | none => s1
    | some k =>
      let page := encodePage k t f addr (s1.mtc.page f) r.bytes
      { s1 with mtc := { s1.mtc with yard := sset YPage.init s1.mtc.yard f page } }
  else
    { s1 with mtc := { s1.mtc with
        stk := putBytes s1.mtc.stk (granuleBytes * dst.p + off) r.bytes
        stkPoison := putMarks s1.mtc.stkPoison (granuleBytes * dst.p + off) r.bytes } }

/-- A granule's move switches: its pages are in their new place, the old granule is free; none where the yard is to take it and no key
is there (R200, R204, R205). -/
def switchGranule (t g : Nat) (src dst : Loc) (s : State) : Option State :=
  (if dst.yard then fixMk t s else some s).map (fun s0 =>
    let s1 := (List.range 512).foldl (fun s i => copyLocPage t src dst (granuleBytes * g + 4096 * i) s) s0
    let m := s1.mtc.setGranule t g { s1.mtc.granule t g with st := if dst.yard then .yard dst.p else .stacked dst.p }
    settleMk t { s1 with mtc := { m.giveBack src with moved := satAdd m.moved 1 } })

/-- The SH fields of MTC_POLICY take effect (R227). -/
def Mtc.takePolicy (m : Mtc) : Mtc :=
  { m with auto := m.autoSh, promote := m.promoteSh, hyst := m.hystSh, rate := m.rateSh }

/-- A yard granule with a frame at its last EPOCH is left before it is written again: for a fresh one, or for the place that a move
under way takes it to (R218). The move begun here takes the policy's SH fields as any move does (R227). -/
def refreshGranule (t g : Nat) (s : State) : Except (BitVec 16) State :=
  match (s.mtc.granule t g).st with
  | .yard p =>
    if !s.mtc.wornFrame p then .ok s
    else (match takeYardFor t { s with mtc := s.mtc.takePolicy } with
      | none => .error Code.memFull
      | some (n, s1) =>
        match switchGranule t g ⟨true, p⟩ ⟨true, n⟩ s1 with
        | none => .error Code.memNoKey
        | some s2 => .ok s2)
  | .moving src dst =>
    if !(src.yard && s.mtc.wornFrame src.p) then .ok s
    else (match switchGranule t g src dst s with
      | none => .error Code.memNoKey
      | some s2 => .ok s2)
  | _ => .ok s

/-- The granules of a list are ready to be written, or the first failure's code. -/
def refreshGranules (t : Nat) : List Nat → State → Except (BitVec 16) State
  | [], s => .ok s
  | g :: r, s => match refreshGranule t g s with
    | .ok s1 => refreshGranules t r s1
    | .error c => .error c

/-- Bytes written at a model address; a code where a granule or a key fails, and then nothing is written (R199, R200). -/
def modelWrite (t addr : Nat) (data : List MByte) (s : State) : Except (BitVec 16) State :=
  let gs := granulesOf addr data.length
  let s0 := if needsKey t gs s then fixMk t s else some s
  match s0 with
  | none => .error Code.memNoKey
  | some s0 =>
    match (giveGranules t gs s0).bind (refreshGranules t gs) with
    | .error c => .error c
    | .ok s1 => .ok ((piecesOf addr data.length).foldl (fun st pc =>
        match (st.mtc.granule t (pc.1 / granuleBytes)).st.home with
        | none => st
        | some l => writeLoc t l pc.1 ((data.drop (pc.1 - addr)).take pc.2) st) s1)

/-- The fault that a failed write records, with its model address (R199, R200, R227). -/
def writeFault (t addr : Nat) (code : BitVec 16) (s : State) : State :=
  record code (some t) unitNone 0 addr { s with mtc := s.mtc.noteFault code t addr }

/-- Heat rises by one for every 64 KiB read or written (R202). -/
def Granule.heated (n : Nat) (v : Granule) : Granule :=
  { v with heat := satAdd v.heat ((v.touched + n) / 65536), touched := (v.touched + n) % 65536 }

def addHeat (t addr n : Nat) (s : State) : State :=
  (granulesOf addr n).foldl (fun s g =>
    let lo := max addr (granuleBytes * g)
    let hi := min (addr + n) (granuleBytes * (g + 1))
    { s with mtc := s.mtc.setGranule t g ((s.mtc.granule t g).heated (hi - lo)) }) s

/-- Moves of a granule that has become zero-fill leave the queue; those of commands are declined (R207). -/
def Mtc.dropMovesOf (t g : Nat) (m : Mtc) : Mtc :=
  let of (x : GMove) : Bool := x.tenant == t && x.g == g
  let told := m.moves.filter (fun x => of x && (match x.why with | .command _ _ => true | _ => false))
  { m with moves := m.moves.filter (fun x => !of x), declined := satAdd m.declined told.length }

/-- A granule of a scrubbed range: zero-fill, its physical granule still to be cleared, a move of it abandoned (R143, R206). -/
def scrubGranule (t g : Nat) (s : State) : State :=
  let v := s.mtc.granule t g
  let m := s.mtc
  let m1 := match v.st with
    | .moving src dst => ((m.giveBack dst).setGranule t g ⟨.zeroFill (some src), 0, 0⟩).dropMovesOf t g
    | .zeroFill d => m.setGranule t g ⟨.zeroFill d, 0, 0⟩
    | st => (m.setGranule t g ⟨.zeroFill st.home, 0, 0⟩).dropMovesOf t g
  { s with mtc := m1 }

/-- MIGRATEs of a tenant whose granules have all switched or been declined complete (R207). -/
def settleMigrates (t : Nat) (s : State) : State :=
  (s.tenant t).migrates.foldl (fun s j =>
    let waits := s.mtc.moves.any (fun m => m.tenant == t && (match m.why with
      | .command q idx => q == j.q && idx == j.idx
      | _ => false))
    if waits || j.copy.isSome then s
    else complete t j.q j.idx 0 0 0 unitNone true
      (s.modTenant t (fun y => { y with migrates := y.migrates.filter (· != j) }))) s

end Sys2Proof.Machine
end

