-- ==== Sys2Proof/Machine/KvOps.lean ====
section
/-! DEFINITION. Page lists: headers, entries, pages and tail slots, the sealing of pages, edits and their deferral, appends, the
choice of a pipeline's next work (R16, R175 to R189). -/

namespace Sys2Proof.Machine

/-! ## Headers and entries (R175, R176) -/

/-- A page-list header; `heads`, `layers` and `slots` are counts, the fields' values plus 1. -/
structure KvHdr where
  length : Nat
  gen : Nat
  isOpen : Bool
  form : Nat
  psize : Nat
  owner : Nat
  tokens : Nat
  pos0 : Nat
  capacity : Nat
  heads : Nat
  hdim : Nat
  layers : Nat
  frameBase : Nat
  spillBase : Nat
  spillGran : Nat
  spillHead : Nat
  spillTail : Nat
  tailBase : Nat
  slots : Nat
deriving DecidableEq, Repr

/-- The header that 64 bytes spell. -/
def kvHdrOf (b : Bytes) : KvHdr :=
  let f (o hi lo : Nat) : Nat := bitsOf (leNat ((b.drop o).take 4)) hi lo
  { length := f 0 31 16, gen := f 0 15 0, isOpen := f 4 31 31 == 1, form := f 4 23 20, psize := f 4 19 16, owner := f 4 12 8
    tokens := f 8 23 0, pos0 := f 0xC 23 0, capacity := f 0x10 31 16, heads := f 0x10 15 10 + 1, hdim := f 0x10 9 8
    layers := f 0x10 7 0 + 1, frameBase := f 0x14 26 0, spillBase := f 0x18 26 0, spillGran := f 0x1C 15 0
    spillHead := f 0x20 26 0, spillTail := f 0x24 26 0, tailBase := f 0x28 26 0, slots := f 0x2C 5 0 + 1 }

def readHdr (t addr : Nat) (s : State) : KvHdr := kvHdrOf ((modelRead t addr 64 s).1.map (·.1))

/-- Bytes without marks. -/
def unmarked (l : Bytes) : List MByte := l.map (fun b => (b, false))

/-- A write of the device's own to a model address; one that fails is recorded. -/
def putModel (t addr : Nat) (data : List MByte) (s : State) : State :=
  match modelWrite t addr data s with
  | .ok s1 => s1
  | .error c => writeFault t addr c s

/-- The fields that the device owns, and POS0, written to a list. -/
def writeHdr (t addr : Nat) (h : KvHdr) (s : State) : State :=
  let w0 := h.length * 65536 + h.gen % 65536
  let w1 := b2n h.isOpen * 2 ^ 31 + h.form * 2 ^ 20 + h.psize * 2 ^ 16 + h.owner * 256
  let s1 := putModel t addr (unmarked (leBytes 4 w0 ++ leBytes 4 w1 ++ leBytes 4 h.tokens ++ leBytes 4 (h.pos0 % 2 ^ 24))) s
  putModel t (addr + 0x20) (unmarked (leBytes 4 h.spillHead ++ leBytes 4 h.spillTail)) s1

/-- A page entry. -/
structure KvEntry where
  code : Nat
  spilled : Bool
  frame : Nat
deriving DecidableEq, Repr

def KvEntry.tokens (e : KvEntry) : Nat := 2 ^ (e.code + 4)

def readEntries (t addr first n : Nat) (s : State) : List KvEntry :=
  (chunks 4 n ((modelRead t (addr + 0x40 + 4 * first) (4 * n) s).1.map (·.1))).map (fun b =>
    let w := leNat b
    ⟨bitsOf w 31 28, w.testBit 27, bitsOf w 26 0⟩)

def KvEntry.bytes (e : KvEntry) : Bytes := leBytes 4 (e.code * 2 ^ 28 + b2n e.spilled * 2 ^ 27 + e.frame)

/-- First token of every page, and one past the last page's. -/
def pageStarts : Nat → List KvEntry → List Nat
  | n, [] => [n]
  | n, e :: r => n :: pageStarts (n + e.tokens) r

/-- The page that holds token `j`: its index, its entry, the token's place in it. -/
def pageAt : List KvEntry → Nat → Nat → Option (Nat × KvEntry × Nat)
  | [], _, _ => none
  | e :: r, i, j => if j < e.tokens then some (i, e, j) else pageAt r (i + 1) (j - e.tokens)

/-- Tokens that pages hold. -/
def holdTokens (es : List KvEntry) : Nat := (es.map KvEntry.tokens).sum

/-! ## Pages and tail slots (R176, R178) -/

def KvHdr.dim (h : KvHdr) : Nat := 64 * 2 ^ h.hdim
def KvHdr.slices (h : KvHdr) : Nat := h.layers * h.heads * 2
def KvHdr.slice (h : KvHdr) (layer head : Nat) (value : Bool) : Nat := (layer * h.heads + head) * 2 + b2n value

/-- Bytes of a slice's element plane for `n` tokens. -/
def planeBytes (form n d : Nat) : Nat := if form = 1 then 2 * n * d else if form = 3 then n * d else n * d * 3 / 8

/-- Bytes of a page of `n` tokens: element planes, then side planes. -/
def KvHdr.pageBytes (h : KvHdr) (n : Nat) : Nat :=
  h.slices * planeBytes h.form n h.dim +
    (if h.form = 3 then 2 * h.slices else if h.form = 9 then h.slices * (n * h.dim / 16) else 0)

def KvHdr.pageFrames (h : KvHdr) (n : Nat) : Nat := cdiv (h.pageBytes n) 4096

def KvHdr.pageBase (h : KvHdr) (e : KvEntry) : Nat :=
  granuleBytes * (if e.spilled then h.spillBase else h.frameBase) + e.frame * 4096

/-- Tokens and bytes of a tail slot: a BF16 page of size PSIZE. -/
def KvHdr.slotTokens (h : KvHdr) : Nat := 2 ^ (h.psize + 4)
def KvHdr.slotBytes (h : KvHdr) : Nat := h.slices * (2 * h.slotTokens * h.dim)
def KvHdr.slotBase (h : KvHdr) (k : Nat) : Nat :=
  granuleBytes * h.frameBase + (h.tailBase + k * cdiv h.slotBytes 4096) * 4096

/-- The tail slot of a page. -/
def KvSeq.slot (v : KvSeq) (h : KvHdr) (page : Nat) : Nat := (page + v.shift) % h.slots

/-- FP8 and K3 pages are sealed; BF16 ones are written directly. -/
def KvHdr.seals (h : KvHdr) : Bool := h.form != 1

/-- Unsealed pages that hold only tokens below `tokens` (R181). -/
def KvSeq.full (v : KvSeq) (es : List KvEntry) (tokens : Nat) : List Nat :=
  let ends := (pageStarts 0 es).drop 1
  v.unsealed.filter (fun p => decide (ends.getD p (tokens + 1) ≤ tokens))

/-- Entry `i` counts as sealed: full and not unsealed (R186; notes/assumptions/40.md). -/
def KvSeq.sealedAt (v : KvSeq) (es : List KvEntry) (tokens i : Nat) : Bool :=
  !v.unsealed.contains i && decide (((pageStarts 0 es).drop 1).getD i (tokens + 1) ≤ tokens)

/-! ## Open sequences (R183) -/

def kvKey (t h : Nat) : Nat := t * 65536 + h
def State.kvSeq (s : State) (t h : Nat) : Option KvSeq := sget none s.kv.seqs (kvKey t h)
def State.setKvSeq (s : State) (t h : Nat) (v : Option KvSeq) : State :=
  { s with kv := { s.kv with seqs := sset none s.kv.seqs (kvKey t h) v } }
def State.modKvSeq (s : State) (t h : Nat) (f : KvSeq → KvSeq) : State := s.setKvSeq t h ((s.kvSeq t h).map f)

/-- Every page of a list that `es` names lies in the tenant's ranges with a valid size code (R177). -/
def pagesValid (y : Tenant) (h : KvHdr) (es : List KvEntry) : Bool :=
  es.all (fun e => decide (e.code ≤ 8) && y.inRanges (h.pageBase e) (h.pageBytes e.tokens))

/-! ## Sealing (R179, R180) -/

/-- BF16 elements of a plane. -/
def bf16Elems (l : List MByte) : List Elem :=
  (chunks 2 (l.length / 2) l).map (fun b =>
    if b.any (·.2) then .poison else decodeFp bf16 (leNat (b.map (·.1))))

/-- A slice holds a NaN or an infinity. -/
def unfit (xs : List Elem) : Bool := xs.any (fun x => x.isNan || x.isInf)

/-- The largest magnitude of the elements that are numbers. -/
def sliceAmax (xs : List Elem) : Elem :=
  xs.foldl (fun m x => match x with | .fin _ _ _ => maxMag m x | _ => m) (.fin false 0 0)

/-- amax ÷ 448 rounded toward +∞ to BF16. -/
def sealScale : Elem → Nat
  | .fin _ m e => if m = 0 then 0 else let q := quotMag m e 448 0; roundMagUp bf16 q.1 q.2.1 q.2.2
  | _ => 0

/-- RNE(x ÷ scale) in E4M3, saturating: code, and whether it saturated. -/
def sealElem (scale : Elem) (x : Elem) : Nat × Bool :=
  match x, scale with
  | .fin n m e, .fin _ m2 e2 =>
    if m2 = 0 then (0, false)
    else
      let q := quotMag m e m2 e2
      let mag := roundMag e4m3 q.1 q.2.1 q.2.2
      (overflowed e4m3 true n mag, decide (maxCode e4m3 < mag))
  | _, _ => (0, false)

/-- An FP8 slice: element bytes, scale, elements saturated. -/
def sealFp8 (l : List MByte) : List MByte × List MByte × Nat :=
  let xs := bf16Elems l
  if unfit xs then (xs.map (fun x => (0, x.isPoison)), unmarked (leBytes 2 (nanCode bf16)), 0)
  else
    let sc := sealScale (sliceAmax xs)
    let out := xs.map (fun x => (sealElem (decodeFp bf16 sc) x, x.isPoison))
    (out.map (fun o => (BitVec.ofNat 8 o.1.1, o.2)), unmarked (leBytes 2 sc), (out.filter (·.1.2)).length)

/-- An element put into its place by value; equal ones keep their order. -/
def rankIns (x : Elem) : List Elem → List Elem
  | [] => [x]
  | y :: r => if ecmp x y ≤ 0 then x :: y :: r else y :: rankIns x r

/-- A codebook entry: the mean of sixteen ranks in E4M3, saturating, and whether it saturated, which is what SAT counts of a K3 page
(DESIGN CHOICE, notes/assumptions/67.md). -/
def k3Entry (xs : List Elem) : Nat × Bool :=
  let sum := ofF32 (toF32 (xs.foldl eadd (.fin false 0 0)))
  let mean := ofF32 (toF32 (escale (-4) sum))
  let c := convertTo e4m3 true mean
  let sat := match mean with
    | .fin _ m e => decide (maxCode e4m3 < roundMag e4m3 m e false)
    | .inf _ => true
    | _ => false
  (if c % 128 = 0 then 0 else c, sat)

/-- The entry with the least distance, the lowest on a tie. -/
def k3Code (book : List Elem) (x : Elem) : Nat :=
  let dist (c : Elem) : Elem := eabs (eadd x (eneg c))
  (book.zipIdx.foldl (fun best c => if ecmp (dist c.1) (dist (book.getD best .nan)) < 0 then c.2 else best) 0)

/-- A K3 block of 128 elements: 48 code bytes, 8 codebook bytes, saturations. A poisoned element poisons its block. -/
def sealK3Block (xs : List Elem) : List MByte × List MByte × Nat :=
  if xs.any Elem.isPoison then (List.replicate 48 (0, true), List.replicate 8 (0, true), 0)
  else if unfit xs then (List.replicate 48 (0, false), List.replicate 8 (0x7F, false), 0)
  else
    let ranked := xs.foldr rankIns []
    let book := (chunks 16 8 ranked).map k3Entry
    let vals := book.map (fun c => decodeFp e4m3 c.1)
    (unmarked (packCodes 3 (xs.map (k3Code vals))), unmarked (book.map (fun c => BitVec.ofNat 8 c.1)),
      (book.filter (·.2)).length)

/-- A K3 slice. -/
def sealK3 (l : List MByte) : List MByte × List MByte × Nat :=
  let xs := bf16Elems l
  let bs := (chunks 128 (xs.length / 128) xs).map sealK3Block
  (bs.flatMap (·.1), bs.flatMap (·.2.1), (bs.map (·.2.2)).sum)

/-- A page sealed from the bytes of its tail slot: the page's bytes and the elements saturated. -/
def sealPage (h : KvHdr) (slot : List MByte) : List MByte × Nat :=
  let all := (chunks (2 * h.slotTokens * h.dim) h.slices slot).map (fun l => if h.form = 3 then sealFp8 l else sealK3 l)
  (all.flatMap (·.1) ++ all.flatMap (·.2.1), (all.map (·.2.2)).sum)

/-! ## Appends (R182, R184) -/

/-- Pages that an append of `n` tokens opens. -/
def appendPages (h : KvHdr) (es : List KvEntry) (n : Nat) : Nat := cdiv (h.tokens + n - holdTokens es) h.slotTokens

/-- A slot of a page to be opened is still wanted by an earlier page: of a registered walk's snapshot, or one being sealed. -/
def KvSeq.slotBusy (v : KvSeq) (h : KvHdr) (opens : Nat) (pages : List Nat) : Bool :=
  h.seals && (List.range opens).any (fun i => pages.any (fun p => v.slot h p == v.slot h (h.length + i)))

def KvSeq.walkPages (v : KvSeq) : List Nat := v.walks.flatMap (·.unsealed)

/-- The tokens are added and the new pages opened. -/
def appendEffect (t hd n : Nat) (v : KvSeq) (s : State) : State :=
  let h := readHdr t v.addr s
  let opens := appendPages h (readEntries t v.addr 0 h.length s) n
  let s1 := writeHdr t v.addr { h with tokens := h.tokens + n, length := h.length + opens } s
  if h.seals then
    s1.setKvSeq t hd (some { v with unsealed := v.unsealed ++ (List.range opens).map (fun i => h.length + i) })
  else s1

/-! ## Edits (R186) -/

def KvOp.isEdit : KvOp → Bool
  | .append _ _ => false
  | .sealWait _ _ => false
  | _ => true

/-- A list rewritten: header and entries. What stands behind the entries written stays (DESIGN CHOICE, notes/assumptions/67.md). -/
def writeList (t : Nat) (v : KvSeq) (h : KvHdr) (es : List KvEntry) (s : State) : State :=
  putModel t (v.addr + 0x40) (unmarked (es.flatMap KvEntry.bytes))
    (writeHdr t v.addr { h with length := es.length, gen := h.gen + 1 } s)

/-- TRUNC. -/
def editTrunc (t : Nat) (v : KvSeq) (h : KvHdr) (es : List KvEntry) (n : Nat) (s : State) : Option (KvSeq × State) :=
  let starts := pageStarts 0 es
  let inside := v.unsealed.any (fun p => decide (starts.getD p n < n) && decide (n < starts.getD (p + 1) 0))
  if h.tokens < n || (h.seals && !starts.contains n && !inside) then none
  else
    let len := ((starts.take es.length).filter (fun b => decide (b < n))).length
    some ({ v with unsealed := v.unsealed.filter (fun p => decide (p < len)) },
      writeList t v { h with tokens := n } (es.take len) s)

/-- REMAP. -/
def editRemap (t : Nat) (v : KvSeq) (h : KvHdr) (es : List KvEntry) (index log frame : Nat) (s : State) :
    Option (KvSeq × State) :=
  let k := 2 ^ log
  let old := (es.drop index).take k
  let code := (old.headD ⟨0, false, 0⟩).code
  if 8 < log || 8 < code + log || old.length != k || !old.all (fun e => e.code == code) ||
      !(List.range k).all (fun i => v.sealedAt es h.tokens (index + i)) then none
  else
    some ({ v with
        unsealed := v.unsealed.map (fun p => if index < p then p - (k - 1) else p)
        shift := v.shift + (k - 1) },
      writeList t v h (es.take index ++ [⟨code + log, false, frame⟩] ++ es.drop (index + k)) s)

/-- DROP. -/
def editDrop (t : Nat) (v : KvSeq) (h : KvHdr) (es : List KvEntry) (n : Nat) (s : State) : Option (KvSeq × State) :=
  if es.length < n || !(List.range n).all (fun i => v.sealedAt es h.tokens i) then none
  else
    let gone := es.take n
    let k := holdTokens gone
    let ring := h.spillGran * 512
    let tail := gone.foldl (fun a e => if e.spilled then (e.frame + h.pageFrames e.tokens) % max ring 1 else a) h.spillTail
    some ({ v with unsealed := v.unsealed.map (· - n), shift := v.shift + n },
      writeList t v { h with tokens := h.tokens - k, pos0 := h.pos0 + k, spillTail := tail } (es.drop n) s)

/-- A granule of the spill ring is made a yard granule before a page goes there: a zero-fill one is given one, what lies in stacked
memory moves; one that its range keeps out of the yard stays (R189, R199; notes/assumptions/67.md). -/
def ringGranule (t g : Nat) (s : State) : Except (BitVec 16) State :=
  let v := s.mtc.granule t g
  if !(((s.tenant t).rangeOf g).getD MemRange.init).allowsYard then .ok s
  else
    let place (next : Nat → State → Except (BitVec 16) State) : Except (BitVec 16) State :=
      match fixMk t s with
      | none => .error Code.memNoKey
      | some _ => match takeYardFor t s with
        | none => .error Code.memFull
        | some (p, s1) => next p s1
    match v.st with
    | .zeroFill d =>
      place (fun p s1 =>
        let m := s1.mtc.settleDirty d
        .ok { s1 with mtc := (m.clearLoc ⟨true, p⟩).setGranule t g { v with st := .yard p } })
    | .stacked src =>
      place (fun p s1 => match switchGranule t g ⟨false, src⟩ ⟨true, p⟩ s1 with
        | none => .error Code.memNoKey
        | some s2 => .ok s2)
    | _ => .ok s

/-- The granules of a list are made yard granules, or the first failure's code. -/
def ringGranules (t : Nat) : List Nat → State → Except (BitVec 16) State
  | [], s => .ok s
  | g :: r, s => match ringGranule t g s with
    | .ok s1 => ringGranules t r s1
    | .error c => .error c

/-- Bytes of a page copied from one model address to another by the shunter, which heats nothing (R202). -/
def copyPage (t src dst n : Nat) (s : State) : Except (BitVec 16) State :=
  let r := modelRead t src n s
  modelWrite t dst r.1 r.2

/-- A page copied to the spill ring (R189). -/
def spillPage (t src dst n : Nat) (s : State) : Except (BitVec 16) State :=
  (ringGranules t (granulesOf dst n) s).bind (copyPage t src dst n)

/-! ## Spills (R189) -/

/-- The oldest sealed page not yet spilled. -/
def spillNext (v : KvSeq) (h : KvHdr) (es : List KvEntry) : Option Nat :=
  (List.range es.length).find? (fun i => v.sealedAt es h.tokens i && !(es.getD i ⟨0, true, 0⟩).spilled)

/-- Where a page of `n` frames goes in the ring: at its head, or at its start when it does not fit before the end; none when
the ring is full. -/
def spillPlace (h : KvHdr) (n : Nat) : Option Nat :=
  let ring := h.spillGran * 512
  let at_ := if h.spillHead + n ≤ ring then h.spillHead else 0
  let gap := if at_ = h.spillHead then 0 else ring - h.spillHead
  let used := (h.spillHead + ring - h.spillTail) % max ring 1
  if used + gap + n < ring then some at_ else none

/-- The page that a spill moves next, with its place. -/
def spillWork (t : Nat) (v : KvSeq) (s : State) : Option (Nat × KvEntry × Nat × KvHdr) :=
  let h := readHdr t v.addr s
  let es := readEntries t v.addr 0 h.length s
  match spillNext v h es with
  | none => none
  | some i =>
    let e := es.getD i ⟨0, true, 0⟩
    (spillPlace h (h.pageFrames e.tokens)).map (fun p => (i, e, p, h))

/-! ## Deferral (R187, R188) -/

/-- The waiting edit that is next, while no walk and no seal stands against it. -/
def KvSeq.editDue (v : KvSeq) : Option KvWait :=
  if v.walks.isEmpty && v.sealsDue.isEmpty then v.waits.find? (fun w => w.op.isEdit) else none

/-- A waiting append, or wait for seals, whose condition has come. -/
def KvSeq.waitDue (v : KvSeq) (h : KvHdr) (es : List KvEntry) : Option KvWait :=
  v.waits.find? (fun w => match w.op with
    | .append n _ => !v.slotBusy h (appendPages h es n) (v.walkPages ++ v.sealsDue)
    | .sealWait _ pages => pages.all (fun p => !v.sealsDue.contains p)
    | _ => false)

def KvSeq.drop (v : KvSeq) (w : KvWait) : KvSeq := { v with waits := v.waits.erase w }

/-- An edit carried out, when its condition holds. -/
def editRun (t : Nat) (v : KvSeq) (op : KvOp) (s : State) : Except (BitVec 16) (KvSeq × State) :=
  let h := readHdr t v.addr s
  let es := readEntries t v.addr 0 h.length s
  let need (r : Option (KvSeq × State)) : Except (BitVec 16) (KvSeq × State) :=
    match r with | none => .error Code.kvEditInvalid | some x => .ok x
  match op with
  | .trunc n => need (editTrunc t v h es n s)
  | .remap i l f => need (editRemap t v h es i l f s)
  | .drop n => need (editDrop t v h es n s)
  | .pos0 p => .ok (v, writeHdr t v.addr { h with pos0 := p, gen := h.gen + 1 } s)
  | .unspill i f =>
    let e := es.getD i ⟨0, false, 0⟩
    if e.spilled then
      (copyPage t (h.pageBase e) (h.pageBase ⟨e.code, false, f⟩) (h.pageBytes e.tokens) s).map (fun s1 =>
        (v, writeList t v h (es.set i ⟨e.code, false, f⟩) s1))
    else .error Code.kvEditInvalid
  | _ => .ok (v, s)

/-- Why an append cannot be (R182, R184): pages whose seal is due leave their slots, every other unsealed page keeps its own. -/
def appendFails (t : Nat) (v : KvSeq) (h : KvHdr) (es : List KvEntry) (n : Nat) (s : State) : Option (BitVec 16) :=
  let opens := appendPages h es n
  if 2 ^ 24 - 1 < h.tokens + n ∨ h.capacity < h.length + opens ∨
      (readEntries t v.addr h.length opens s).any (fun e => e.code != h.psize || e.spilled) then some Code.kvNoPage
  else if h.seals && decide (h.slots < (v.unsealed.filter (fun p => !v.sealsDue.contains p)).length + opens) then
    some Code.kvTailFull
  else none

/-- An append that has come to its turn: checked again, for another may have come first; it completes when the pages it seals are
sealed (R181, R182). -/
def appendTurn (t hd : Nat) (v : KvSeq) (w : KvWait) (n : Nat) (pages : List Nat) (s : State) : State :=
  let h := readHdr t v.addr s
  match appendFails t v h (readEntries t v.addr 0 h.length s) n s with
  | some c => complete t w.q w.idx c 0 v.addr unitNone true s
  | none =>
    if pages.all (fun p => !v.sealsDue.contains p) then complete t w.q w.idx 0 0 0 unitNone true (appendEffect t hd n v s)
    else
      let v1 := { v with waits := v.waits ++ [⟨w.q, w.idx, .sealWait false pages⟩] }
      appendEffect t hd n v1 (s.setKvSeq t hd (some v1))

/-- A closed list: its handle names no sequence, so whatever still waits on it faults (R183, R188). -/
def closeSeq (t hd : Nat) (v : KvSeq) (s : State) : State :=
  v.waits.foldl (fun s w => complete t w.q w.idx Code.kvHandle 0 v.addr unitNone true s) (s.setKvSeq t hd none)

/-- One operation that waits on a sequence is carried out. -/
def kvStep (t hd : Nat) (s : State) : State :=
  match s.kvSeq t hd with
  | none => s
  | some v =>
    let h := readHdr t v.addr s
    let es := readEntries t v.addr 0 h.length s
    match v.waitDue h es with
    | some w =>
      let v1 := v.drop w
      let s1 := s.setKvSeq t hd (some v1)
      (match w.op with
       | .append n pages => appendTurn t hd v1 w n pages s1
       | .sealWait true _ => complete t w.q w.idx 0 0 0 unitNone true (writeHdr t v.addr { h with gen := h.gen + 1 } s1)
       | _ => complete t w.q w.idx 0 0 0 unitNone true s1)
    | none =>
      match v.editDue with
      | none => s
      | some w =>
        let v1 := v.drop w
        match w.op with
        | .seal =>
          s.setKvSeq t hd (some { v1 with
            sealsDue := v.full es h.tokens, waits := v1.waits ++ [⟨w.q, w.idx, .sealWait true (v.full es h.tokens)⟩] })
        | .close =>
          complete t w.q w.idx 0 0 0 unitNone true (closeSeq t hd v1 (writeHdr t v.addr { h with isOpen := false } s))
        | .spill n done =>
          if done < n && (spillWork t v s).isSome && !s.compHeld .shunt then s
          else complete t w.q w.idx 0 (BitVec.ofNat 64 done) 0 unitNone true (s.setKvSeq t hd (some v1))
        | op =>
          match editRun t v1 op s with
          | .ok (v2, s1) => complete t w.q w.idx 0 0 0 unitNone true (s1.setKvSeq t hd (some v2))
          | .error c => complete t w.q w.idx c 0 v.addr unitNone true (s.setKvSeq t hd (some v1))

/-- Everything that can go on on a sequence goes on. -/
def settleSeq (t hd : Nat) (s : State) : State :=
  match s.kvSeq t hd with
  | none => s
  | some v => (List.range (2 * v.waits.length)).foldl (fun s _ => kvStep t hd s) s

end Sys2Proof.Machine
end

