-- ==== Sys2Proof/Machine/Attention.lean ====
section
/-! DEFINITION. Attention pipelines: pass descriptors, visibility, rotation, the online soft maximum, legs, and the choice of a
pipeline's next work (R16, R163 to R173, R177, R187, R192). -/

namespace Sys2Proof.Machine

/-! ## Pass descriptors (R164) -/

/-- A pass descriptor; `group`, `rows` are counts. -/
structure PassDesc where
  handle : Nat
  layer : Nat
  head : Nat
  packed : Bool
  hdim : Nat
  group : Nat
  rows : Nat
  causal : Bool
  rope : Nat
  ofmt : Nat
  first : Bool
  last : Bool
  window : Nat
  kseg : Nat
  scale : Reg32
  qOff : Nat
  tokOff : Nat
  qtok0 : Nat
  oOff : Nat
  flOff : Nat
  ropeOff : Nat
  stOff : Nat
  kOff : Nat
  vOff : Nat
  kstart : Nat
  kend : Nat
deriving DecidableEq, Repr

def passDesc (b : Bytes) : PassDesc :=
  let f (o hi lo : Nat) : Nat := bitsOf (leNat ((b.drop o).take 4)) hi lo
  let w (o : Nat) : Nat := leNat ((b.drop o).take 4)
  { handle := f 0 31 16, layer := f 0 15 8, head := f 0 7 0, packed := f 4 31 31 == 1, hdim := f 4 30 29
    group := f 4 28 25 + 1, rows := f 4 24 18 + 1, causal := f 4 17 17 == 1, rope := f 4 16 15, ofmt := f 4 14 11
    first := f 4 10 10 == 1, last := f 4 9 9 == 1, window := f 8 20 0, kseg := f 0xC 31 20, scale := BitVec.ofNat 32 (w 0x10)
    qOff := w 0x14, tokOff := w 0x18, qtok0 := f 0x1C 15 0, oOff := w 0x20, flOff := w 0x24, ropeOff := w 0x28
    stOff := w 0x2C, kOff := w 0x30, vOff := w 0x34, kstart := f 0x38 23 0, kend := f 0x3C 23 0 }

def PassDesc.dim (d : PassDesc) : Nat := 64 * 2 ^ d.hdim
/-- Query tokens of the pass. -/
def PassDesc.toks (d : PassDesc) : Nat := d.rows / d.group
/-- Bytes of an output element. -/
def PassDesc.outBytes (d : PassDesc) : Nat := if d.ofmt = 0 then 4 else 2
/-- What tells a pass from the others of its DISPATCH. -/
def PassDesc.key (d : PassDesc) : List Nat := [d.handle, d.layer, d.head, d.qOff, d.qtok0, d.stOff]

/-- Partition ranges that a leg reads and writes. -/
def PassDesc.ranges (d : PassDesc) : List (Nat × Nat) :=
  [(d.qOff, 2 * d.dim * d.rows), (d.tokOff + 8 * d.qtok0, 8 * d.toks)] ++
    (if d.last then [(d.oOff, d.dim * d.outBytes * d.rows), (d.flOff, d.rows)] else []) ++
    (if d.rope ≠ 0 then [(d.ropeOff, 2 * d.dim)] else []) ++
    (if d.first && d.last then [] else [(d.stOff, (16 + 4 * d.dim) * d.rows)]) ++
    (if d.packed then [(d.kOff, 2 * d.dim * d.kend), (d.vOff, 2 * d.dim * d.kend), (d.tokOff, 8 * d.kend)] else [])

/-- A tenant's partition. -/
def State.tenantPart (s : State) (t : Nat) : Part := ⟨(s.tenant t).conBase.toNat, false, (s.tenant t).conSize.toNat, none⟩

/-! ## Positions and visibility (R166, R167) -/

/-- A token word: position and segment. -/
def tokenWord (b : Bytes) : Nat × Nat := (bitsOf (leNat b) 23 0, bitsOf (leNat b) 35 24)

/-- A key's position and segment shown to a query token. -/
def PassDesc.sees (d : PassDesc) (q k : Nat × Nat) : Bool :=
  let dist := if k.1 ≤ q.1 then q.1 - k.1 else k.1 - q.1
  q.2 != 0 && k.2 == q.2 && (!d.causal || decide (k.1 ≤ q.1)) && (d.window == 0 || decide (dist < d.window))

/-! ## Rotation (R169) -/

/-- The FP32 value `i` of a rotated vector. -/
def rotElem (rope : Nat) (freqs : List Reg32) (pos : Nat) (x : List Elem) (k : Nat) : Elem :=
  let half := x.length / 2
  let i := if rope = 1 then k % half else k / 2
  let a := if rope = 1 then i else 2 * i
  let b := if rope = 1 then i + half else 2 * i + 1
  let angle := toF32 (emul (ofInt pos) (ofF32 (freqs.getD i 0)))
  let c := ofF32 (fcos angle)
  let s := ofF32 (fsin angle)
  let u := x.getD a .nan
  let v := x.getD b .nan
  ofF32 (toF32 (if k = a then eadd (emul u c) (eneg (emul v s)) else eadd (emul u s) (emul v c)))

def rotate (rope : Nat) (freqs : List Reg32) (pos : Nat) (x : List Elem) : List Elem :=
  if rope = 0 then x else (List.range x.length).map (rotElem rope freqs pos x)

/-! ## Keys and values (R170, R176, R178) -/

/-- A key with its value, its place, and whether any of it is poisoned. -/
structure KvVec where
  k : List Elem
  v : List Elem
  place : Nat × Nat
  poison : Bool
deriving DecidableEq, Repr

/-- Elements that 16-bit BF16 codes stand for, poison apart. -/
def rawBf16 (l : List MByte) : List Elem := (chunks 2 (l.length / 2) l).map (fun b => decodeFp bf16 (leNat (b.map (·.1))))

/-- Where the elements of a token lie in a slice of a page of `n` tokens, and its side value: offsets and lengths in the page. -/
def sliceSpans (h : KvHdr) (form n slice o : Nat) : (Nat × Nat) × (Nat × Nat) :=
  let d := h.dim
  let e := h.slices * planeBytes form n d
  let at_ := slice * planeBytes form n d + planeBytes form o d
  (⟨at_, planeBytes form 1 d⟩,
   if form = 1 then ⟨0, 0⟩ else if form = 3 then ⟨e + 2 * slice, 2⟩
   else ⟨e + slice * (n * d / 16) + 8 * (o * d / 128), 8 * ((o * d + d - 1) / 128 + 1 - o * d / 128)⟩)

/-- The exact values of a token's elements from their bytes and side bytes. -/
def sliceElems (form d o : Nat) (l side : Bytes) : List Elem :=
  if form = 1 then rawBf16 (unmarked l)
  else if form = 3 then l.map (fun b => emul (decodeFp e4m3 b.toNat) (decodeFp bf16 (leNat side)))
  else (List.range d).map (fun k =>
    decodeFp e4m3 (side.getD (8 * ((o * d + k) / 128 - o * d / 128) + streamCode 3 (leNat l) k) 0).toNat)

/-- A token of a slice read from model memory. -/
def readSlice (t base : Nat) (h : KvHdr) (form n slice o : Nat) (s : State) : List Elem × Bool × State :=
  let sp := sliceSpans h form n slice o
  let r1 := modelRead t (base + sp.1.1) sp.1.2 s
  let r2 := if sp.2.2 = 0 then ([], r1.2) else modelRead t (base + sp.2.1) sp.2.2 r1.2
  (sliceElems form h.dim o (r1.1.map (·.1)) (r2.1.map (·.1)), r1.1.any (·.2) || r2.1.any (·.2),
    addHeat t (base + sp.2.1) sp.2.2 (addHeat t (base + sp.1.1) sp.1.2 r2.2))

/-- Key `j` of a page list, as a walk reads it. -/
def listKey (t : Nat) (d : PassDesc) (v : KvSeq) (w : Walk) (h : KvHdr) (es : List KvEntry) (j : Nat) (s : State) :
    KvVec × State :=
  match pageAt es 0 j with
  | none => (⟨[], [], (0, 0), true⟩, s)
  | some (i, e, o) =>
    let tail := w.unsealed.contains i
    let base := if tail then h.slotBase (v.slot h i) else h.pageBase e
    let form := if tail then 1 else h.form
    let k := readSlice t base h form e.tokens (h.slice d.layer d.head false) o s
    let x := readSlice t base h form e.tokens (h.slice d.layer d.head true) o k.2.2
    (⟨k.1, x.1, ((h.pos0 + j) % 2 ^ 24, d.kseg), k.2.1 || x.2.1⟩, x.2.2)

/-- Key `j` of a packed row. -/
def packedKey (p : Part) (d : PassDesc) (s : State) (j : Nat) : KvVec :=
  let k := s.partRead p (d.kOff + 2 * d.dim * j) (2 * d.dim)
  let v := s.partRead p (d.vOff + 2 * d.dim * j) (2 * d.dim)
  let w := s.partRead p (d.tokOff + 8 * j) 8
  ⟨rawBf16 k, rawBf16 v, tokenWord (w.map (·.1)), (k ++ v ++ w).any (·.2)⟩

/-! ## The pass order (R170, R171) -/

/-- A row at its first leg. -/
def RowState.empty (d : Nat) : RowState := ⟨f32NegInf, 0, List.replicate d 0, false, false⟩

/-- A score: the exact sum of products, rounded, then scaled. -/
def score (scale : Reg32) (q k : List Elem) : Reg32 :=
  fmul (toF32 ((q.zip k).foldl (fun a x => eadd a (emul x.1 x.2)) (.fin false 0 0))) scale

/-- A block's visible keys come into a row. -/
def RowState.block (scale : Reg32) (q : List Elem) (keys : List KvVec) (r : RowState) : RowState :=
  let raw := keys.map (fun k => score scale q k.k)
  let wild (x : Reg32) : Bool := (ofF32 x).isNan || (ofF32 x).isInf
  let ss := raw.map (fun x => if wild x then f32NegInf else x)
  let r1 := { r with bad := r.bad || raw.any wild, poison := r.poison || keys.any (·.poison) }
  let mb := ss.foldl fmax f32NegInf
  if mb = f32NegInf then r1
  else
    let mn := fmax r.m mb
    let a := fexp2 (fsub r.m mn)
    let ps := ss.map (fun x => decodeFp bf16 (toBf16 (fexp2 (fsub x mn))))
    let l := ps.foldl (fun l p => toF32 (eadd (ofF32 l) p)) (fmul r.l a)
    let o := r.o.zipIdx.map (fun oc =>
      let sum := toF32 ((ps.zip keys).foldl (fun z pk => eadd z (emul pk.1 (pk.2.v.getD oc.2 .nan))) (.fin false 0 0))
      fadd (fmul oc.1 a) sum)
    { r1 with m := mn, l := l, o := o }

/-- Keys and values rounded to BF16, keys rotated first. -/
def KvVec.entered (d : PassDesc) (freqs : List Reg32) (x : KvVec) : KvVec :=
  { x with k := (rotate d.rope freqs x.place.1 x.k).map rneBf16, v := x.v.map rneBf16 }

/-- A block's keys come into every row. -/
def Leg.take (d : PassDesc) (keys : List KvVec) (g : Leg) : Leg :=
  let ks := keys.map (KvVec.entered d g.freqs)
  { g with
    blocks := g.blocks.drop 1
    rows := g.rows.zipIdx.map (fun r =>
      let seen := ks.filter (fun k => d.sees (g.places.getD (r.2 / d.group) (0, 0)) k.place)
      if seen.isEmpty then r.1 else r.1.block d.scale (g.queries.getD r.2 []) seen) }

/-! ## Saved state and output (R165, R172, R173) -/

def RowState.bytes (r : RowState) : Bytes :=
  leBytes 4 r.m.toNat ++ leBytes 4 r.l.toNat ++ leBytes 4 (b2n r.bad + 2 * b2n r.poison) ++ leBytes 4 0 ++
    r.o.flatMap (fun x => leBytes 4 x.toNat)

def rowStateOf (d : Nat) (b : Bytes) : RowState :=
  let w (i : Nat) : Reg32 := BitVec.ofNat 32 (leNat ((b.drop (4 * i)).take 4))
  ⟨w 0, w 1, (List.range d).map (fun c => w (4 + c)), (w 2).getLsbD 0, (w 2).getLsbD 1⟩

def outFmt (ofmt : Nat) : FpFmt := if ofmt = 0 then fp32 else if ofmt = 1 then bf16 else fp16

/-- A finished row: its bytes with their marks, and its flag byte. -/
def RowState.finish (d : PassDesc) (r : RowState) : List MByte × Nat :=
  let f := outFmt d.ofmt
  let enc (c : Nat) : Bytes := leBytes d.outBytes c
  if r.poison then ((r.o.flatMap (fun _ => enc (nanCode f))).map (fun b => (b, true)), 4)
  else if r.bad then (unmarked (r.o.flatMap (fun _ => enc (nanCode f))), 2)
  else if r.m = f32NegInf then (unmarked (r.o.flatMap (fun _ => enc 0)), 1)
  else (unmarked (r.o.flatMap (fun x => enc (convertTo f true (ofF32 (fdiv x r.l))))), 0)

/-! ## The choice of the next work (R16, R141, R177, R187) -/

/-- A re-binding or scrub accepted on a pipeline keeps work off it. -/
def State.pipeClaimed (s : State) (p : Nat) : Bool :=
  s.ten.any (fun e => match e.2.rebind with
    | none => false
    | some j => j.accepted && j.kind == 2 && j.item == p)

/-- A tenant has been served: the next of its class comes after it (R16). -/
def PipeSt.served (cls : BitVec 2) (t : Nat) (x : PipeSt) : PipeSt :=
  if cls = 3 then { x with lastFreight := t } else { x with lastRegular := t }

/-- Work of a tenant may go to a pipeline. -/
def State.pipeServes (s : State) (p t : Nat) : Bool :=
  let y := s.tenant t
  y.bindAtp.getLsbD p && (y.st == .running || y.st == .stopping) && (y.cls == 2 || y.cls == 3) && !s.allQuiesce t

/-- The walk that a pass has registered. -/
def KvSeq.walkOf (v : KvSeq) (disp : Nat) (key : List Nat) : Option Walk :=
  v.walks.find? (fun w => w.disp == disp && w.pass == key && !w.done)

/-- A leg may start: its DISPATCH may, no earlier leg of its pass waits or runs, no edit is deferred against a new walk. -/
def State.legReady (s : State) (p : Nat) (before : List LegReq) (r : LegReq) : Bool :=
  let d := passDesc r.pd
  let same (x : LegReq) : Bool := x.disp == r.disp && (passDesc x.pd).key == d.key
  s.pipeServes p r.tenant && !s.leavingFor r.tenant 2 p r.disp && s.mayStart r.disp && !before.any same &&
    !s.pipe.any (fun e => match e.2.leg with | none => false | some g => same g.req) &&
    (d.packed || !d.first || (match s.kvSeq r.tenant d.handle with
      | none => true
      | some v => !v.waits.any (fun w => w.op.isEdit)))

/-- The first leg of a list that may start, with its place. -/
def State.firstLeg (s : State) (p : Nat) (want : LegReq → Bool) : List LegReq → List LegReq → Option LegReq
  | _, [] => none
  | before, r :: rest =>
    if want r && s.legReady p before r then some r else s.firstLeg p want (before ++ [r]) rest

/-- A tenant has a page to seal. -/
def State.sealsWait (s : State) (p t : Nat) : Bool :=
  s.pipeServes p t && !s.leavingFor t 2 p s.dispNext &&
    s.kv.seqs.any (fun e => e.1 / 65536 == t && (match e.2 with | none => false | some v => !v.sealsDue.isEmpty))

/-- The tenant that a free pipeline serves next: regular before freight, in turn within a class. -/
def State.pipeTurn (s : State) (p : Nat) : Option Nat :=
  let wants (t : Nat) : Bool :=
    s.sealsWait p t || (s.firstLeg p (fun r => r.tenant == t) [] s.kv.legs).isSome
  let next (cls : BitVec 2) (last : Nat) : Option Nat :=
    ((List.range 32).map (fun k => (last + 1 + k) % 32)).find? (fun t => (s.tenant t).cls == cls && wants t)
  (next 2 (s.pipeline p).lastRegular).or (next 3 (s.pipeline p).lastFreight)

/-- A pipeline with nothing to do. -/
def State.pipeFree (s : State) (p : Nat) : Bool :=
  (s.pipeline p).leg.isNone && (s.pipeline p).st == .idle && !s.pipeClaimed p

/-! ## Legs -/

/-- The walks of a pass, or of a DISPATCH, have come to their end. -/
def endWalks (mine : Walk → Bool) (s : State) : State :=
  { s with kv := { s.kv with seqs := s.kv.seqs.map (fun e =>
      (e.1, e.2.map (fun v => { v with walks := v.walks.map (fun w => if mine w then { w with done := true } else w) }))) } }

/-- ATP_FAULT takes the first fault while VALID is clear. -/
def PipeSt.noteFault (t : Nat) (code : BitVec 16) (x : PipeSt) : PipeSt :=
  if x.faultValid then x else { x with faultValid := true, faultTenant := BitVec.ofNat 5 t, faultCode := code }

/-- A pipeline comes to rest. -/
def PipeSt.rest (x : PipeSt) : PipeSt := { x with st := .idle, tenant := 0, cls := 0, blocks := 0, leg := none }

/-- The legs that wait of DISPATCHes using a pipeline that a job takes are lost, with them their DISPATCHes, where the tenant has no
other pipeline that stays (R141). -/
def loseLegs (p : Nat) (j : RebindJob) (s : State) : State :=
  match j.fromT with
  | none => s
  | some f =>
    let others := (List.range 16).any (fun k =>
      k != p && (s.tenant f.val).bindAtp.getLsbD k && !(s.leavingJobs f.val).any (fun v => v.kind == 2 && v.item == k))
    if others || j.isScrub then s
    else
      let lost (d : Nat) : Bool := decide (d < j.mark) && s.kv.legs.any (fun r => r.disp == d && r.tenant == f.val)
      { s with disp := s.disp.map (fun d =>
          if lost d.id then d.faulted Code.rebindLost (BitVec.ofNat 64 (unitPipe p)) else d) }

/-- A pipeline that a re-binding or scrub takes is quiet: its scrub begins (R141, R142). -/
def takeQuietPipe (p : Nat) (s : State) : State :=
  settleLost (if s.claimed 2 p ∧ (s.pipeline p).leg = none then
    ((s.ten.filterMap (·.2.rebind)).filter (fun j => j.accepted && j.kind == 2 && j.item == p)).foldl (fun s j => loseLegs p j s)
      (s.modPipe p (fun x => { x with st := .scrub }))
  else s)

/-- A leg that faults: its DISPATCH faults under R131, and its walk is over. -/
def faultLeg (p : Nat) (r : LegReq) (code : BitVec 16) (s : State) : State :=
  let s1 := (s.modPipe p (fun x => x.rest.noteFault r.tenant code)).modDispatch r.disp (fun d =>
    { d.faulted code (BitVec.ofNat 64 (unitPipe p)) with legsLeft := d.legsLeft - 1 })
  takeQuietPipe p (record code (some r.tenant) (unitPipe p) 0 0
    (endWalks (fun w => w.disp == r.disp && w.pass == (passDesc r.pd).key) s1))

/-- The walk of a leg: the one registered for its pass, or a new one with a snapshot of GEN and TOKENS (R177). -/
def joinWalk (r : LegReq) (v : KvSeq) (h : KvHdr) (s : State) : Walk × State :=
  let d := passDesc r.pd
  match (if d.first then none else v.walkOf r.disp d.key) with
  | some w => (w, s)
  | none =>
    let w : Walk := ⟨s.kv.walkId, r.disp, d.key, BitVec.ofNat 16 h.gen, h.tokens, v.unsealed, false⟩
    (w, { (s.modKvSeq r.tenant d.handle (fun v => { v with walks := v.walks ++ [w] })) with
      kv := { (s.modKvSeq r.tenant d.handle (fun v => { v with walks := v.walks ++ [w] })).kv with walkId := s.kv.walkId + 1 } })

/-- Blocks of a leg with a key that some row sees (R168). -/
def legBlocks (d : PassDesc) (kend : Nat) (places : List (Nat × Nat)) (place : Nat → Nat × Nat) : List Nat :=
  ((List.range (cdiv kend 64)).drop (d.kstart / 64)).filter (fun b =>
    (List.range 64).any (fun i =>
      let j := 64 * b + i
      decide (d.kstart ≤ j) && decide (j < kend) && places.any (fun q => d.sees q (place j))))

/-- A leg begins on a pipeline: queries, tokens, table and rows are loaded (R164 to R171). -/
def beginLeg (p : Nat) (r : LegReq) (walk : Option Nat) (kend : Nat) (place : Nat → Nat × Nat) (s : State) : State :=
  let d := passDesc r.pd
  let part := s.tenantPart r.tenant
  let tok := (List.range d.toks).map (fun i => s.partRead part (d.tokOff + 8 * (d.qtok0 + i)) 8)
  let places := tok.map (fun b => tokenWord (b.map (·.1)))
  let table := if d.rope = 0 then [] else s.partRead part d.ropeOff (2 * d.dim)
  let freqs := (chunks 4 (d.dim / 2) (table.map (·.1))).map (fun b => BitVec.ofNat 32 (leNat b))
  let q (i : Nat) : List MByte := s.partRead part (d.qOff + 2 * d.dim * i) (2 * d.dim)
  let queries := (List.range d.rows).map (fun i =>
    (rotate d.rope freqs (places.getD (i / d.group) (0, 0)).1 (rawBf16 (q i))).map rneBf16)
  let rows := (List.range d.rows).map (fun i =>
    let old := if d.first then RowState.empty d.dim
      else rowStateOf d.dim ((s.partRead part (d.stOff + (16 + 4 * d.dim) * i) (16 + 4 * d.dim)).map (·.1))
    let bad := (q i).any (·.2) || (tok.getD (i / d.group) []).any (·.2) || table.any (·.2) ||
      (!d.first && (s.partRead part (d.stOff + (16 + 4 * d.dim) * i) (16 + 4 * d.dim)).any (·.2))
    { old with poison := old.poison || bad })
  s.modPipe p (fun x => { x with
    st := .pass, tenant := BitVec.ofNat 5 r.tenant, cls := r.cls, blocks := 0
    leg := some ⟨r, walk, legBlocks d kend places place, rows, queries, places, freqs⟩ })

/-- The shape limits of R163 that a descriptor states by itself. -/
def PassDesc.badShape (d : PassDesc) : Bool := d.hdim == 3 || d.rows % d.group != 0

/-- A reserved code in a descriptor, or a WINDOW above 2²⁰ tokens (R27, R30, R164). -/
def PassDesc.badCode (d : PassDesc) : Bool := d.rope == 3 || decide (2 < d.ofmt) || decide (2 ^ 20 < d.window)

/-- The chosen leg is checked, its walk registered, and begun (R163, R164, R177); the walker's reads of the header and the entries heat
their granules (R202). -/
def startLeg (p : Nat) (r : LegReq) (s : State) : State :=
  let d := passDesc r.pd
  let s0 := startDispatch r.disp ({ s with kv := { s.kv with legs := s.kv.legs.erase r } }.modPipe p (fun x =>
    x.served r.cls r.tenant))
  let part := s.tenantPart r.tenant
  if d.badShape then faultLeg p r Code.attShape s0
  else if d.badCode then faultLeg p r Code.planOperand s0
  else if !d.ranges.all (fun x => part.allows false x.1 x.2) then faultLeg p r Code.conRange s0
  else if d.packed then
    beginLeg p r none d.kend (fun j => tokenWord ((s.partRead part (d.tokOff + 8 * j) 8).map (·.1))) s0
  else match s.kvSeq r.tenant d.handle with
    | none => faultLeg p r Code.kvHandle s0
    | some v =>
      let h := readHdr r.tenant v.addr s
      let s1 := addHeat r.tenant v.addr 64 s0
      if h.layers ≤ d.layer ∨ h.heads ≤ d.head ∨ h.hdim ≠ d.hdim then faultLeg p r Code.attShape s1
      else
        let (w, s2) := joinWalk r v h s1
        let es := readEntries r.tenant v.addr 0 h.length s
        let used := es.take (((pageStarts 0 es).take es.length).filter (fun b => decide (b < w.tokens))).length
        let s3 := addHeat r.tenant (v.addr + 0x40) (4 * used.length) s2
        if h.owner ≠ r.tenant ∨ h.isOpen = false ∨ pagesValid (s.tenant r.tenant) h used = false then
          faultLeg p r Code.kvListInvalid s3
        else beginLeg p r (some w.id) (min d.kend w.tokens) (fun j => ((h.pos0 + j) % 2 ^ 24, d.kseg)) s3

/-- ATTENTION_LEG_START (R16): `ce` and `ue` are what its reads of the concourse meet (R198). -/
def execAttentionLegStart (p : Pipe) (ce ue : List Nat) (s : State) : Host.Outcome State Fault Refusal :=
  if !s.pipeFree p.val then .next s
  else match s.pipeTurn p.val with
    | none => .next s
    | some t => match s.firstLeg p.val (fun r => r.tenant == t) [] s.kv.legs with
      | none => .next s
      | some r => .next (startLeg p.val r (conErrs t ce ue s))

/-- The keys of a block that lie in a leg's range, in ascending order. -/
def blockKeys (g : Leg) (b : Nat) (s : State) : List KvVec × State :=
  let d := passDesc g.req.pd
  let t := g.req.tenant
  let part := s.tenantPart t
  let js (kend : Nat) : List Nat := ((List.range 64).map (64 * b + ·)).filter (fun j => decide (d.kstart ≤ j) && decide (j < kend))
  if d.packed then ((js d.kend).map (packedKey part d s), s)
  else match s.kvSeq t d.handle with
    | none => ([], s)
    | some v =>
      match v.walks.find? (fun w => g.walk == some w.id) with
      | none => ([], s)
      | some w =>
        let h := readHdr t v.addr s
        let es := readEntries t v.addr 0 h.length s
        (js (min d.kend w.tokens)).foldl (fun acc j =>
          let r := listKey t d v w h es j acc.2
          (acc.1 ++ [r.1], r.2)) ([], s)

/-- KV_BLOCK_ARRIVAL (R168, R171, R190): the next block, after `stalled` F-cycles in which its data had not arrived. Until the one
after it arrives, the pipeline shows STALL (notes/assumptions/49.md). -/
def execKvBlockArrival (p : Pipe) (stalled : Nat) (ce ue : List Nat) (s : State) : Host.Outcome State Fault Refusal :=
  match (s.pipeline p.val).leg with
  | none => .next s
  | some g =>
    match g.blocks with
    | [] => .next s
    | b :: _ =>
      let r := blockKeys g b (conErrs g.req.tenant ce ue s)
      .next (r.2.modPipe p.val (fun x => { x with
        st := if g.blocks.length = 1 then .pass else .stall
        leg := some (g.take (passDesc g.req.pd) r.1), blocks := x.blocks + 1, late := satAdd x.late stalled }))

/-- Poison that a DISPATCH consumes on a pipeline or in a transfer: it faults without being discarded, and each occurrence is recorded
(R85, R172, R372, R378). -/
def consumePoison (id unit : Nat) (s : State) : State :=
  match s.dispatch? id with
  | none => s
  | some d =>
    record Code.uePoison (some d.tenant) unit 0 0 (noteUe (some d.tenant) Code.uePoison 0
      (s.modDispatch id (Dispatch.faulted Code.uePoison (BitVec.ofNat 64 unit))))

/-- The output rows and flags, or the leg state, written to the concourse. -/
def writeLeg (g : Leg) (s : State) : State :=
  let d := passDesc g.req.pd
  let part := s.tenantPart g.req.tenant
  g.rows.zipIdx.foldl (fun s r =>
    if d.last then
      let o := r.1.finish d
      partWrite part (d.flOff + r.2) (unmarked [BitVec.ofNat 8 o.2])
        (partWrite part (d.oOff + d.dim * d.outBytes * r.2) o.1 s)
    else partWrite part (d.stOff + (16 + 4 * d.dim) * r.2) (unmarked r.1.bytes) s) s

/-- ATTENTION_LEG_END (R165, R172, R173): all blocks read. -/
def execAttentionLegEnd (p : Pipe) (s : State) : Host.Outcome State Fault Refusal :=
  match (s.pipeline p.val).leg with
  | none => .next s
  | some g =>
    if !g.blocks.isEmpty then .next s
    else
      let d := passDesc g.req.pd
      let dark := d.last && g.rows.any (·.poison)
      let s1 := (writeLeg g s).modPipe p.val (fun x =>
        let y := { x.rest with passes := satAdd x.passes 1 }
        if dark then y.noteFault g.req.tenant Code.uePoison else y)
      let s2 := s1.modDispatch g.req.disp (fun x => { x with legsLeft := x.legsLeft - 1 })
      let s3 := if d.last then endWalks (fun w => w.disp == g.req.disp && w.pass == d.key) s2 else s2
      .next (takeQuietPipe p.val (if dark then consumePoison g.req.disp (unitPipe p.val) s3 else s3))

end Sys2Proof.Machine
end

