-- ==== Sys2Proof/Machine/Kv.lean ====
section
/-! DEFINITION. Key-value instructions, the sealing and spilling of pages, the end of a walk (R178 to R189). -/

namespace Sys2Proof.Machine

/-- HANDLE of a key-value instruction. -/
def kvHandle (p : Presented) : Nat := pf p.w0 47 32

/-- An instruction waits to issue. -/
def waitIssue (t q : Nat) (p : Presented) (s : State) : State := s.modQueue t q (fun y => { y with waiting := some p })

/-! ## KVOPEN (R183) -/

/-- A list and its page area can be opened: aligned, in the tenant's ranges, with room for pages, of a form and a page size that
sequences have. The page area checked is the byte at FRAME_BASE and the tail slots (DESIGN CHOICE, notes/assumptions/67.md). -/
def listFits (y : Tenant) (addr : Nat) (h : KvHdr) : Bool :=
  (h.form == 1 || h.form == 3 || h.form == 9) && decide (h.psize ≤ 8) && decide (addr % 64 = 0) && decide (h.capacity ≠ 0) &&
    y.inRanges addr (64 + 4 * h.capacity) &&
    y.inRanges (granuleBytes * h.frameBase) 1 &&
    (!h.seals || y.inRanges (h.slotBase 0) (h.slots * (cdiv h.slotBytes 4096 * 4096)))

def kvopenBody (t q : Nat) (p : Presented) (s : State) : State :=
  let addr := pf p.w1 47 0
  let hd := kvHandle p
  let h := { readHdr t addr s with form := pf p.w0 31 28, psize := pf p.w0 27 24 }
  if !listFits (s.tenant t) addr h then failUnissued t q p Code.kvListInvalid addr 0 s
  else if (s.kvSeq t hd).isSome || decide (4096 ≤ (s.kv.seqs.filter (fun e => e.1 / 65536 == t)).length) then
    failUnissued t q p Code.kvHandle addr 0 s
  else
    let s1 := writeHdr t addr { h with
      gen := 0, length := 0, tokens := 0, owner := t, isOpen := true, spillHead := 0, spillTail := 0 } s
    issueDone t q p 0 (s1.setKvSeq t hd (some ⟨addr, [], 0, [], [], []⟩))

def execKvopen (t : Ten) (q : Que) (w0 w1 : BitVec 64) (s : State) : Host.Outcome State Fault Refusal :=
  .next (present t q w0 w1 (pOp w0 == 0x18) (kvopenBody t.val q.val) s)

/-! ## KVAPPEND (R181, R182, R184) -/

/-- Pages are to be sealed. -/
def KvSeq.sealNow (v : KvSeq) (pages : List Nat) : KvSeq :=
  { v with sealsDue := v.sealsDue ++ pages.filter (fun p => !v.sealsDue.contains p) }

/-- KVAPPEND: it takes effect when it issues, or, where it opens a page in a slot whose page it seals, after that seal. -/
def kvappendBody (t q : Nat) (p : Presented) (s : State) : State :=
  let hd := kvHandle p
  let n := pf p.w0 23 0
  match s.kvSeq t hd with
  | none => failUnissued t q p Code.kvHandle 0 0 s
  | some v =>
    let h := readHdr t v.addr s
    let es := readEntries t v.addr 0 h.length s
    let full := v.full es h.tokens
    let mine := full.filter (fun p => !v.sealsDue.contains p)
    let opens := appendPages h es n
    let v1 := v.sealNow full
    match appendFails t v1 h es n s with
    | some c => failUnissued t q p c v.addr 0 s
    | none =>
      let held := v1.slotBusy h opens v1.sealsDue
      if (!mine.isEmpty && !(s.queue t q).earlierDone p.idx) || v.slotBusy h opens v.walkPages then waitIssue t q p s
      else if mine.isEmpty && !held then issueDone t q p 0 (appendEffect t hd n v s)
      else
        let s1 := issueOpen t q p s
        let v2 := { v1 with waits := v1.waits ++ [⟨q, p.idx, if held then .append n mine else .sealWait false mine⟩] }
        let s2 := s1.setKvSeq t hd (some v2)
        if held then s2 else appendEffect t hd n v2 s2

def execKvappend (t : Ten) (q : Que) (w0 w1 : BitVec 64) (s : State) : Host.Outcome State Fault Refusal :=
  .next (present t q w0 w1 (pOp w0 == 0x19) (kvappendBody t.val q.val) s)

/-! ## KVEDIT and KVCLOSE (R181, R186 to R188) -/

/-- An operation joins those that wait on its sequence; one that a walk defers is recorded as an event. -/
def deferOp (t q hd : Nat) (p : Presented) (v : KvSeq) (op : KvOp) (s : State) : State :=
  let s1 := (issueOpen t q p s).setKvSeq t hd (some { v with waits := v.waits ++ [⟨q, p.idx, op⟩] })
  let s2 := if v.walks.isEmpty then s1 else record Code.kvEditDeferred (some t) unitNone 0 v.addr s1
  settleSeq t hd s2

/-- An edit: one that seals waits to issue until its queue's earlier instructions have completed. -/
def kveditBody (op : Presented → KvOp) (t q : Nat) (p : Presented) (s : State) : State :=
  let hd := kvHandle p
  match s.kvSeq t hd with
  | none => failUnissued t q p Code.kvHandle 0 0 s
  | some v =>
    let h := readHdr t v.addr s
    let full := v.full (readEntries t v.addr 0 h.length s) h.tokens
    let sealing := op p == .seal && !full.isEmpty
    if sealing && !(s.queue t q).earlierDone p.idx then waitIssue t q p s
    else deferOp t q hd p v (op p) s

/-- KVCLOSE: the seals begin at once, the close waits. -/
def kvcloseBody (t q : Nat) (p : Presented) (s : State) : State :=
  let hd := kvHandle p
  match s.kvSeq t hd with
  | none => failUnissued t q p Code.kvHandle 0 0 s
  | some v =>
    let h := readHdr t v.addr s
    let full := v.full (readEntries t v.addr 0 h.length s) h.tokens
    if !full.isEmpty && !(s.queue t q).earlierDone p.idx then waitIssue t q p s
    else deferOp t q hd p (v.sealNow full) .close s

/-- A KVEDIT with an OP of the row. -/
def isKvedit (w0 : BitVec 64) (op : Nat) : Bool := pOp w0 == 0x1A && pf w0 31 28 == op

/-- KVEDIT TRUNC; a reserved OP, which the check of R122 rejects, is presented by this row too. -/
def execKveditTrunc (t : Ten) (q : Que) (w0 w1 : BitVec 64) (s : State) : Host.Outcome State Fault Refusal :=
  .next (present t q w0 w1 (isKvedit w0 1 || (pOp w0 == 0x1A && (pf w0 31 28 == 0 || decide (6 < pf w0 31 28))))
    (kveditBody (fun p => .trunc (pf p.w1 23 0)) t.val q.val) s)

/-- KVEDIT REMAP. -/
def execKveditRemap (t : Ten) (q : Que) (w0 w1 : BitVec 64) (s : State) : Host.Outcome State Fault Refusal :=
  .next (present t q w0 w1 (isKvedit w0 2)
    (kveditBody (fun p => .remap (pf p.w1 47 32) (pf p.w1 31 28) (pf p.w1 26 0)) t.val q.val) s)

/-- KVEDIT DROP. -/
def execKveditDrop (t : Ten) (q : Que) (w0 w1 : BitVec 64) (s : State) : Host.Outcome State Fault Refusal :=
  .next (present t q w0 w1 (isKvedit w0 3) (kveditBody (fun p => .drop (pf p.w1 15 0)) t.val q.val) s)

/-- KVEDIT POS0. -/
def execKveditPos0 (t : Ten) (q : Que) (w0 w1 : BitVec 64) (s : State) : Host.Outcome State Fault Refusal :=
  .next (present t q w0 w1 (isKvedit w0 4) (kveditBody (fun p => .pos0 (pf p.w1 23 0)) t.val q.val) s)

/-- KVEDIT UNSPILL. -/
def execKveditUnspill (t : Ten) (q : Que) (w0 w1 : BitVec 64) (s : State) : Host.Outcome State Fault Refusal :=
  .next (present t q w0 w1 (isKvedit w0 5)
    (kveditBody (fun p => .unspill (pf p.w1 47 32) (pf p.w1 26 0)) t.val q.val) s)

/-- KVEDIT SEAL. -/
def execKveditSeal (t : Ten) (q : Que) (w0 w1 : BitVec 64) (s : State) : Host.Outcome State Fault Refusal :=
  .next (present t q w0 w1 (isKvedit w0 6) (kveditBody (fun _ => .seal) t.val q.val) s)

/-- KVCLOSE. -/
def execKvclose (t : Ten) (q : Que) (w0 w1 : BitVec 64) (s : State) : Host.Outcome State Fault Refusal :=
  .next (present t q w0 w1 (pOp w0 == 0x1B) (kvcloseBody t.val q.val) s)

/-! ## Seals (R178 to R181) -/

/-- The instructions that wait for seals complete with a code. -/
def failSeals (t hd : Nat) (v : KvSeq) (code : BitVec 16) (s : State) : State :=
  let mine (w : KvWait) : Bool := match w.op with
    | .sealWait _ _ => true
    | .append _ pages => !pages.isEmpty
    | .close => true
    | _ => false
  (v.waits.filter mine).foldl (fun s w => complete t w.q w.idx code 0 v.addr unitNone false s)
    (s.setKvSeq t hd (some { v with waits := v.waits.filter (fun w => !mine w), sealsDue := [] }))

/-- A page sealed on a pipeline: read from its tail slot, written to its frames. -/
def sealRow (form : Nat) (p : Pipe) (t : Ten) (hd : BitVec 16) (page : Nat) (s : State) : State :=
  match s.kvSeq t.val hd.toNat with
  | none => s
  | some v =>
    let h := readHdr t.val v.addr s
    let e := (readEntries t.val v.addr 0 h.length s).getD page ⟨0, false, 0⟩
    if h.form = form ∧ s.pipeFree p.val ∧ s.pipeTurn p.val = some t.val ∧ v.sealsDue.contains page then
      let r := modelRead t.val (h.slotBase (v.slot h page)) h.slotBytes s
      let o := sealPage h r.1
      let s1 := addHeat t.val (h.slotBase (v.slot h page)) h.slotBytes r.2
      match modelWrite t.val (h.pageBase e) o.1 s1 with
      | .error c =>
        settleSeq t.val hd.toNat (failSeals t.val hd.toNat v c
          ((writeFault t.val (h.pageBase e) c s1).modPipe p.val (fun x => x.served (s.tenant t.val).cls t.val)))
      | .ok s2 =>
        let s3 := (addHeat t.val (h.pageBase e) o.1.length s2).modPipe p.val (fun x =>
          { x with seals := satAdd x.seals 1, sealSat := satAdd x.sealSat o.2 }.served (s.tenant t.val).cls t.val)
        settleSeq t.val hd.toNat (s3.setKvSeq t.val hd.toNat (some { v with
          unsealed := v.unsealed.erase page, sealsDue := v.sealsDue.erase page }))
    else s

/-- PAGE_SEAL_FP8 (R179). -/
def execPageSealFp8 (p : Pipe) (t : Ten) (h : BitVec 16) (page : Nat) (s : State) : Host.Outcome State Fault Refusal :=
  .next (sealRow 3 p t h page s)

/-- PAGE_SEAL_K3 (R180). -/
def execPageSealK3 (p : Pipe) (t : Ten) (h : BitVec 16) (page : Nat) (s : State) : Host.Outcome State Fault Refusal :=
  .next (sealRow 9 p t h page s)

/-! ## Walks and spills -/

/-- WALK_END (R187): a walk whose pass is over leaves its list, and what it deferred takes effect. -/
def execWalkEnd (t : Ten) (h : BitVec 16) (walk : Nat) (s : State) : Host.Outcome State Fault Refusal :=
  match s.kvSeq t.val h.toNat with
  | none => .next s
  | some v =>
    if v.walks.any (fun w => w.id == walk && w.done) then
      .next (settleSeq t.val h.toNat (s.setKvSeq t.val h.toNat
        (some { v with walks := v.walks.filter (fun w => w.id != walk) })))
    else .next s

/-- SPILLHINT (R189). -/
def spillBody (t q : Nat) (p : Presented) (s : State) : State :=
  match s.kvSeq t (kvHandle p) with
  | none => failUnissued t q p Code.kvHandle 0 0 s
  | some v => deferOp t q (kvHandle p) p v (.spill (pf p.w0 15 0) 0) s

def execSpillhint (t : Ten) (q : Que) (w0 w1 : BitVec 64) (s : State) : Host.Outcome State Fault Refusal :=
  .next (present t q w0 w1 (pOp w0 == 0x23) (spillBody t.val q.val) s)

/-- One page of a due spill moves to the ring, and its entry names it. -/
def spillOne (t hd : Nat) (v : KvSeq) (w : KvWait) (n done : Nat) (s : State) : State :=
  match spillWork t v s with
  | none => s
  | some (i, e, at_, h) =>
    let bytes := h.pageBytes e.tokens
    let e1 : KvEntry := ⟨e.code, true, at_⟩
    match spillPage t (h.pageBase e) (h.pageBase e1) bytes s with
    | .error c =>
      settleSeq t hd (complete t w.q w.idx c 0 (h.pageBase e1) unitNone false
        (writeFault t (h.pageBase e1) c (s.setKvSeq t hd (some (v.drop w)))))
    | .ok s1 =>
      let s2 := putModel t (v.addr + 0x40 + 4 * i) (unmarked e1.bytes) s1
      let s3 := writeHdr t v.addr { h with spillHead := (at_ + h.pageFrames e.tokens) % max (h.spillGran * 512) 1 } s2
      settleSeq t hd (s3.setKvSeq t hd (some { v with
        waits := v.waits.map (fun x => if x = w then { x with op := .spill n (done + 1) } else x) }))

/-- PAGE_SPILL (R189): the shunter moves the next page of the spill that is due. -/
def execPageSpill (t : Ten) (h : BitVec 16) (s : State) : Host.Outcome State Fault Refusal :=
  match s.kvSeq t.val h.toNat with
  | none => .next s
  | some v => match v.editDue with
    | none => .next s
    | some w => match w.op with
      | .spill n done =>
        if done < n && !s.compHeld .shunt then .next (spillOne t.val h.toNat v w n done s) else .next s
      | _ => .next s

end Sys2Proof.Machine
end

