-- ==== Sys2Proof/Machine/Plan.lean ====
section
/-! DEFINITION. Plan instructions of no resource, completion records, doorbells and queue commands (R122 to R128, R132 to R136). -/

namespace Sys2Proof.Machine

/-- RESERVED_PLAN_OPCODE (R122): completes with PLAN_OPCODE. -/
def execReservedPlanOpcode (t : Ten) (q : Que) (w0 w1 : BitVec 64) (s : State) : Host.Outcome State Fault Refusal :=
  .next (present t q w0 w1 (planForm? (pOp w0)).isNone (fun _ s => s) s)

/-- NOP (R123). -/
def execNop (t : Ten) (q : Que) (w0 w1 : BitVec 64) (s : State) : Host.Outcome State Fault Refusal :=
  .next (present t q w0 w1 (pOp w0 == 0x00) (simpleBody t.val q.val) s)

/-- BATCH (R128). -/
def execBatch (t : Ten) (q : Que) (w0 w1 : BitVec 64) (s : State) : Host.Outcome State Fault Refusal :=
  .next (present t q w0 w1 (pOp w0 == 0x02) (simpleBody t.val q.val) s)

/-- WAITEV (R127). -/
def execWaitev (t : Ten) (q : Que) (w0 w1 : BitVec 64) (s : State) : Host.Outcome State Fault Refusal :=
  .next (present t q w0 w1 (pOp w0 == 0x03) (simpleBody t.val q.val) s)

/-- SIGNALEV (R123). -/
def execSignalev (t : Ten) (q : Que) (w0 w1 : BitVec 64) (s : State) : Host.Outcome State Fault Refusal :=
  .next (present t q w0 w1 (pOp w0 == 0x04) (simpleBody t.val q.val) s)

/-- FENCE (R123): every write of this model is visible when it is made. -/
def execFence (t : Ten) (q : Que) (w0 w1 : BitVec 64) (s : State) : Host.Outcome State Fault Refusal :=
  .next (present t q w0 w1 (pOp w0 == 0x05) (simpleBody t.val q.val) s)

/-- TSTAMP (R123, R135). -/
def execTstamp (t : Ten) (q : Que) (w0 w1 : BitVec 64) (s : State) : Host.Outcome State Fault Refusal :=
  .next (present t q w0 w1 (pOp w0 == 0x06) (simpleBody t.val q.val) s)

/-- PLAN_HALT (R123). -/
def execPlanHalt (t : Ten) (q : Que) (w0 w1 : BitVec 64) (s : State) : Host.Outcome State Fault Refusal :=
  .next (present t q w0 w1 (pOp w0 == 0x07) (simpleBody t.val q.val) s)

/-! ## Completion records (R134, R135) -/

/-- Word 0 of a record. -/
def recordWord0 (t q : Nat) (e : Issued) (phase : Bool) : BitVec 64 :=
  BitVec.ofNat 64 ((e.status.getD 0).toNat * 2 ^ 48 + e.opcode.toNat * 2 ^ 40 + t * 2 ^ 35 + q * 2 ^ 32 + b2n phase)

/-- PHASE: 1 on the first pass through the ring, inverted on each wrap. -/
def Queue.phase (y : Queue) : Bool := y.cplTail.toNat / y.ccap % 2 == 0

/-- The completion ring is full. -/
def Queue.ringFull (y : Queue) : Bool := decide (y.ccap ≤ (y.cplTail - y.cplHead).toNat)

/-- A record may reach host memory: a host is attached, and the tenant does not wait for RESUME (R306, R308, R309). -/
def State.recordsFlow (s : State) (t : Nat) : Bool := s.glb.attached && !(s.tenant t).whyHost

/-- The record of the first instruction in slot order, once complete, is written into a free entry, with the queue's vector for
IRQ or a status. -/
def writeRecord (t q : Nat) (s : State) : State :=
  let y := s.queue t q
  match trimIssued y.issued with
  | [] => s
  | e :: rest =>
    if e.status.isNone || !s.recordsFlow t then s
    else if y.ringFull then s.modQueue t q (fun y => { y with cplFull := true })
    else
      let y1 := { y with issued := trimIssued rest, cplTail := y.cplTail + 1 }
      let s1 := s.setQueue t q { y1 with cplFull := y1.cplFull || y1.ringFull }
      let s2 := emit (.record t q (y.cplTail.toNat % y.ccap) (recordWord0 t q e y.phase)
        (BitVec.ofNat 64 e.idx.toNat) e.value e.detail) s1
      if e.irq || (e.status.getD 0) != 0 then msix y.vector.toNat s2 else s2

/-- COMPLETION_RECORD_WRITE (R126, R134). -/
def execCompletionRecordWrite (t : Ten) (q : Que) (s : State) : Host.Outcome State Fault Refusal :=
  .next (writeRecord t.val q.val s)

/-- Every record of a queue that can be written is, in order (R309). -/
def writeRecords (t q : Nat) (s : State) : State := (s.queue t q).issued.foldl (fun s _ => writeRecord t q s) s

/-! ## Doorbells (R133, R134) -/

/-- Host writes reach the blocks that need an attached host (R306, R308, R330). -/
def State.hostWrites (s : State) : Bool := s.glb.portUp && !s.glb.d3hot && s.glb.attached

/-- DBL_TAIL_WRITE (R133). -/
def execDblTailWrite (t : Ten) (q : Que) (v : Reg32) (s : State) : Host.Outcome State Fault Refusal :=
  let y := s.queue t.val q.val
  if !s.hostWrites then .next s
  else if (v - y.head).toNat ≤ y.cap ∧ (v - y.tail).toNat ≤ y.cap then
    .next (s.setQueue t.val q.val { y with tail := v, short := false })
  else .next (record Code.queueOverrun (some t.val) unitNone 0 0 (s.setQueue t.val q.val { y with overrun := true }))

/-- DBL_CPL_HEAD_WRITE (R134): ignored where it passes DBL_CPL_TAIL. -/
def execDblCplHeadWrite (t : Ten) (q : Que) (v : Reg32) (s : State) : Host.Outcome State Fault Refusal :=
  let y := s.queue t.val q.val
  if s.hostWrites && decide ((v - y.cplHead).toNat ≤ (y.cplTail - y.cplHead).toNat) then
    .next (settle t.val (s.setQueue t.val q.val { y with cplHead := v }))
  else .next s

/-! ## Queue commands (R136) -/

/-- The queue takes a command. -/
def Queue.stoppedShort (y : Queue) : Bool := y.st == .faulted || y.st == .halted

/-- The queue runs again. -/
def Queue.rerun (y : Queue) : Queue := { y with st := .idle, fcode := 0, stuck := none, waiting := none, short := false }

/-- SKIP (R136). -/
def execSkip (t : Ten) (q : Que) (s : State) : Host.Outcome State Fault Refusal :=
  if !s.hostWrites then .next s
  else .next (s.modQueue t.val q.val (fun y =>
    let z := { y with qcmd := 1 }
    if !y.stoppedShort then z
    else match y.stuck with
      | some k => if k.issued then z.rerun else { z.rerun with head := k.idx + BitVec.ofNat 32 k.slots }
      | none => z.rerun))

/-- RETRY (R136): ignored in HALTED. -/
def execRetry (t : Ten) (q : Que) (s : State) : Host.Outcome State Fault Refusal :=
  if !s.hostWrites then .next s
  else .next (s.modQueue t.val q.val (fun y =>
    let z := { y with qcmd := 2 }
    if y.st != .faulted then z
    else match y.stuck with
      | some k => if k.issued then { z.rerun with retry := some ⟨k.idx, k.slots, 0, 0⟩ } else z.rerun
      | none => z.rerun))

/-- FLUSH (R128, R136): a new batch opens with the next instruction presented. -/
def execFlush (t : Ten) (q : Que) (s : State) : Host.Outcome State Fault Refusal :=
  if !s.hostWrites then .next s
  else .next (settleCopies t.val (s.modQueue t.val q.val (fun y =>
    let z := { y with qcmd := 3 }
    if !y.stoppedShort then z else { z.rerun.closeBatch with head := y.tail, retry := none })))

/-! ## TCX_Qq_CFG (R128, R132, R138) -/

/-- An LB write ignored while busy: TCX_FAULT and the log (R10, R138). -/
def tcxBusy (t off : Nat) (s : State) : State :=
  record Code.cfgWrBusy (some t) unitNone (off / 4) 0
    (s.modTenant t (fun y => { y with cfgWrBusy := true, cfgOff := BitVec.ofNat 15 off }))

/-- Enabled: indices zero, PHASE 1, a batch open (R128, R132, R379). -/
def Queue.enabled (copy : Option (Fin 4)) (y : Queue) : Queue :=
  { Queue.init with
    base := y.base, cpl := y.cpl, vector := y.vector, size := y.size, csize := y.csize, qcmd := y.qcmd
    enable := true, st := .idle, batch := some ⟨copy, true, 0⟩ }

/-- A write of TCX_Qq_CFG. ENABLE set while a disabled queue still drains is ignored, so that its batch keeps its reference until its
DISPATCHes have completed (DESIGN CHOICE, notes/assumptions/67.md). -/
def writeQcfg (t q : Nat) (v : Reg32) (s : State) : State :=
  let y := s.queue t q
  let vec := BitVec.ofNat 6 (bitsOf v.toNat 25 20)
  let size := BitVec.ofNat 4 (bitsOf v.toNat 19 16)
  let csize := BitVec.ofNat 4 (bitsOf v.toNat 15 12)
  let differs := y.enable && (vec != y.vector || size != y.size || csize != y.csize)
  let s1 := if y.enable then s else s.setQueue t q { y with vector := vec, size := size, csize := csize }
  let s2 := if differs then tcxBusy t (0x2000 + 0x40 * q + 0x10) s1 else s1
  if v.getLsbD 31 then
    if y.enable || y.st != .disabled || decide (10 < size.toNat) || decide (10 < csize.toNat) then s2
    else settleCopies t (s2.modQueue t q (Queue.enabled (s.tenant t).pointed))
  else if y.enable then
    settle t (settleCopies t ((s2.modQueue t q (fun y => { y with enable := false, waiting := none })).modTenant t
      Tenant.settleStop))
  else s2

/-- QUEUE_ENABLE (R132): a write of TCX_Qq_CFG that sets ENABLE. -/
def execQueueEnable (t : Ten) (q : Que) (v : Reg32) (s : State) : Host.Outcome State Fault Refusal :=
  if s.hostWrites && v.getLsbD 31 then .next (writeQcfg t.val q.val v s) else .next s

/-- QUEUE_DISABLE (R128): a write of TCX_Qq_CFG that clears ENABLE. -/
def execQueueDisable (t : Ten) (q : Que) (v : Reg32) (s : State) : Host.Outcome State Fault Refusal :=
  if s.hostWrites && !v.getLsbD 31 then .next (writeQcfg t.val q.val v s) else .next s

end Sys2Proof.Machine
end

