-- ==== Sys2Proof/Machine/XprArm.lean ====
section
/-! DEFINITION. Arming and disarming express tenants (R265 to R273, R285, R354). -/

namespace Sys2Proof.Machine

/-- Core 7 as a unit of DETAIL (R271). -/
def unitCore7 : Nat := 0x0207

/-- The bound arrays in ascending order. -/
def Tenant.arrays (y : Tenant) : List Nat := (List.range 64).filter (fun a => y.bindAry.getLsbD a)

/-- Consecutive arrays paired (R265). -/
def pairUp : List Nat → List (Nat × Nat)
  | a :: b :: r => (a, b) :: pairUp r
  | _ => []

/-- MiB spans overlap. -/
def overlaps (b1 n1 b2 n2 : Nat) : Bool := decide (0 < n1) && decide (0 < n2) && decide (b1 < b2 + n2) && decide (b2 < b1 + n1)

/-- Mirrors of indices that arm or are armed. -/
def State.mirrors (s : State) : List (Nat × Nat) :=
  ((List.range 4).map s.xid).filterMap (fun v => if v.st = .arming ∨ v.armed then some (v.mbase, v.size) else none)

/-- The raw bytes of a copy at an offset, and whether any is poisoned. -/
def State.copyBytes (s : State) (t base off n : Nat) : List MByte := (modelRead t (base + off) n s).1

/-- The express table of a copy (R268): MAGIC, PAIRS, STEPS and the rest. -/
def State.xtable (s : State) (t base : Nat) : Nat × XTable :=
  let b := (s.copyBytes t base 0 (0x40 + 16 * 8)).map (·.1)
  let w (o n : Nat) : Nat := leNat ((b.drop o).take n)
  (w 0 4,
   { pairs := w 4 1, steps := w 5 1, minPeriod := w 6 2, invoke := w 8 4, stepMax := w 0xC 4, part := w 0x10 1
     reqFrags := w 0x11 1, resFrags := w 0x12 1, reqOff := w 0x20 4, resOff := w 0x24 4, wrOff := w 0x28 4
     wrSize := w 0x2C 4
     roles := (List.range (w 4 1)).map (fun r => (w (0x40 + 16 * r) 4, w (0x44 + 16 * r) 4)) })

/-- MiB pinned by armed and arming tenants (R144, R271). -/
def State.pinned (s : State) : Nat :=
  (((List.range 4).map s.xid).map (fun v => if v.st = .arming ∨ v.armed then v.size else 0)).sum

/-- The unit of the first failing condition of R271, in its order. -/
def armFails (t : Nat) (w0 : BitVec 64) (s : State) : Option Nat :=
  let y := s.tenant t
  let c := y.copy (pf w0 47 46)
  let tab := s.xtable t c.base
  let x := pf w0 11 10
  let size := y.conSize.toNat
  let mb := pf w0 45 38
  let arrs := y.arrays
  let spans := (List.range 32).map (fun u => ((s.tenant u).conBase.toNat, (s.tenant u).conSize.toNat)) ++ s.mirrors
  let spa := pf w0 37 32
  let spb := pf w0 31 26
  if c.st ≠ .armed ∨ c.express = false then some unitCore7
  else if tab.1 ≠ 0x58500096 ∨ tab.2.pairs < 1 ∨ 8 < tab.2.pairs ∨ tab.2.steps < 1 ∨ 64 < tab.2.steps then some unitCore7
  else if arrs.length ≠ 2 * tab.2.pairs then some (arrs.getD (2 * tab.2.pairs) unitCore7)
  else if size < tab.2.part ∨ 96 < s.pinned + size then some unitCore7
  else if 256 < mb + size ∨ spans.any (fun p => overlaps mb size p.1 p.2) then some unitCore7
  else if pf w0 23 12 < 100 ∨ pf w0 23 12 < tab.2.minPeriod then some unitCore7
  else if 592000 < tab.2.invoke ∨ 102400 < tab.2.stepMax then some unitCore7
  else if (s.xid x).st ≠ .disarmed ∧ (s.xid x).tenant.toNat ≠ t then some unitCore7
  else if s.xpr.spareValid = false ∧ w0.getLsbD 25 = false then some unitCore7
  else if s.xpr.spareValid = false ∧ s.freeArray spa = false then some spa
  else if s.xpr.spareValid = false ∧ (s.freeArray spb = false ∨ spa = spb) then some spb
  else if ((List.range 4).map s.xid).any (fun v => v.st != .disarmed && v.tenant.toNat == t) then some unitCore7
  else if s.glb.st = .safeHold ∨ s.compHeld .express then some unitCore7
  else none

/-- The 500 µs watchdogs of the lanes run from the completion of the first XPRARM at the latest (R292). -/
def armWatch (s : State) : State :=
  { s with xpr := { s.xpr with watchdogFrom := s.xpr.watchdogFrom.or (some s.glb.devTime) } }

/-- XPRARM (R270): checked under R271; else the index is ARMING, and XPRARM_COMPLETE ends it. -/
def armBody (t q : Nat) (p : Presented) (s : State) : State :=
  match armFails t p.w0 s with
  | some u =>
    armWatch (finish t q p.idx Code.xprArmFail 0 0 u true (issueOpen t q p s))
  | none =>
    let y := s.tenant t
    let c := pf p.w0 47 46
    let tab := (s.xtable t (y.copy c).base).2
    let x := pf p.w0 11 10
    let old := s.xid x
    (issueOpen t q p s).setXid x { Xid.init with
      st := .arming, tenant := BitVec.ofNat 5 t, base := y.conBase.toNat, mbase := pf p.w0 45 38, size := y.conSize.toNat
      period := pf p.w0 23 12, copy := c, table := tab, roles := pairUp y.arrays, armJob := some (q, p.idx)
      form := if p.w0.getLsbD 25 && !s.xpr.spareValid then
          some (Fin.ofNat 64 (pf p.w0 37 32), Fin.ofNat 64 (pf p.w0 31 26)) else none
      valid := old.valid, mismatch := old.mismatch, rerunOk := old.rerunOk, overrun := old.overrun
      reqEarly := old.reqEarly, latMax := old.latMax, latLast := old.latLast }

def execXprarm (t : Ten) (q : Que) (w0 w1 : BitVec 64) (s : State) : Host.Outcome State Fault Refusal :=
  .next (present t q w0 w1 (pOp w0 == 0x38) (armBody t.val q.val) s)

/-- A MiB range of the concourse zeroed with valid SECDED (R142). -/
def zeroCon (base size : Nat) (s : State) : State :=
  { s with mtc := { s.mtc with
      con := sclear s.mtc.con (base * 2 ^ 20) ((base + size) * 2 ^ 20)
      conPoison := sclear s.mtc.conPoison (base * 2 ^ 17) ((base + size) * 2 ^ 17) } }

/-- The partition image in both copies: byte x of the package at x of the primary, and at x XOR 0x2000 of the mirror. -/
def copyImage (x : Nat) (s : State) : State :=
  let v := s.xid x
  let t := v.tenant.toNat
  let r := modelRead t ((s.tenant t).copy v.copy).base (v.table.part * 2 ^ 20) s
  partWrite (v.part 1) 0 r.1 (partWrite (v.part 0) 0 r.1 r.2)

/-- Both concourse images agree with the manifest's digests, shard by shard (R270). -/
def State.imagesMatch (s : State) (x : Nat) : Bool :=
  let v := s.xid x
  let c := (s.tenant v.tenant.toNat).copy v.copy
  (c.shards.filter (fun h => decide (h.offset + h.length ≤ v.table.part * 2 ^ 20))).all (fun h =>
    [0, 1].all (fun m =>
      let b := s.partRead (v.part m) h.offset h.length
      !b.any (·.2) && sha256 (b.map (·.1)) == h.digest))

/-- The first member whose image fails the checks of R119, and the code of its failure, EXPRESS_NONDET among them (R58). -/
def State.badMember (s : State) (x : Nat) : Option (Nat × BitVec 16) :=
  let v := s.xid x
  (List.range v.roles.length).findSome? (fun r =>
    let p := v.roles.getD r (0, 0)
    match checkImage (s.roleImage x r 0) true with
    | some c => some (p.1, c)
    | none => (checkImage (s.roleImage x r 1) true).map (fun c => (p.2, c)))

/-- The unit of the array that keeps an arming from its spare pair, or core 7: no spare pair exists, and none is to be formed or it
cannot be (R271). -/
def State.spareBars (s : State) (v : Xid) : Option Nat :=
  if s.xpr.spareValid then none
  else match v.form with
    | none => some unitCore7
    | some (a, b) =>
      if !s.freeArray a.val then some a.val else if !s.freeArray b.val || a == b then some b.val else none

/-- A member of a pair: coupled, its image in slot 0, checked (R265, R270). -/
def Arr.joinPair (partner : Nat) (img : Bytes) (x : Arr) : Arr :=
  { x.fixedClock with
    paired := true
    partner := BitVec.ofNat 6 partner
    slot0 := ⟨.ready, img, none, x.submits⟩
    slot1 := ImageSlot.init
    st := .loaded
    tq := sset 0 x.tq 15 0
    fp := BitVec.allOnes 64
    fpPoison := false }

/-- Every pair formed and loaded. -/
def loadMembers (x : Nat) (s : State) : State :=
  let v := s.xid x
  (List.range v.roles.length).foldl (fun s r =>
    let p := v.roles.getD r (0, 0)
    (s.modArr p.1 (Arr.joinPair p.2 (s.roleImage x r 0))).modArr p.2 (Arr.joinPair p.1 (s.roleImage x r 1))) s

/-- The signal-box state of an index by number, and the payload of ALIVE (R291). -/
def State.alivePayload (s : State) : Bytes :=
  let bits := ((List.range 4).map (fun x => if (s.xid x).armed then 2 ^ x else 0)).sum
  [BitVec.ofNat 8 bits] ++ (List.range 4).map (fun x => BitVec.ofNat 8 (sbCode (s.xid x).st)) ++
    [BitVec.ofNat 8 (devCode s.glb.st),
     BitVec.ofNat 8 (b2n s.xpr.spareReady + 2 * b2n s.xpr.laneA.faulted + 4 * b2n s.xpr.laneB.faulted)]

/-- An ALIVE frame; its payload is that of the slot it is sent in. -/
def aliveFrame (s : State) : Bytes := mkFrame 0x2E 0 0 0 0 s.alivePayload

/-- Both lanes faulted while a tenant is armed (R292). -/
def linkLost (s : State) : State :=
  if s.xpr.laneA.faulted && s.xpr.laneB.faulted && s.anyArmed then
    safeHold Code.linkLost (record Code.linkLost none unitNone 0 0 s)
  else s

/-- An arming that fails is undone (R271). -/
def armUndone (x : Nat) (code : BitVec 16) (unit : Nat) (s : State) : State :=
  let v := s.xid x
  let s1 := (zeroCon v.mbase v.size s).modXid x (fun v => { v with st := .disarmed, roles := [], armJob := none, form := none })
  match v.armJob with
  | none => s1
  | some j => armWatch (complete v.tenant.toNat j.1 j.2 code 0 0 unit true s1)

/-- XPRARM_COMPLETE (R270, R271): the copy, the hash, the loads, the spare, the scales; then IDLE, and ALIVE with the index armed. What
fails has no effect on the partition; an image's own code is recorded (R58). `ce`, `ue`: what the hash engines' reads of the concourse
meet (R198). -/
def execXprarmComplete (x : Fin 4) (ce ue : List Nat) (s : State) : Host.Outcome State Fault Refusal :=
  let v := s.xid x.val
  if v.st ≠ .arming then .next s
  else if s.glb.st = .safeHold then .next (armUndone x.val Code.xprArmFail unitCore7 s)
  else match s.spareBars v with
  | some a => .next (armUndone x.val Code.xprArmFail a s)
  | none =>
    let s1 := xidErrs x.val ce ue (copyImage x.val s)
    let read := xidErrs x.val ce ue s
    if !s1.imagesMatch x.val then .next (armUndone x.val Code.xprDigest unitCore7 read)
    else match s1.badMember x.val with
      | some (a, c) =>
        .next (armUndone x.val Code.xprArmFail a (record c (some v.tenant.toNat) (unitArray a) 0 0 read))
      | none =>
        let s2 := (loadMembers x.val s1).modTenant v.tenant.toNat (fun y => y.takeScales (y.copy v.copy).scales)
        let s3 := s2.modXid x.val (fun v => { v with st := .idle, armJob := none, form := none, first := true })
        let s4 := match v.form with
          | none => s3
          | some f => if s3.xpr.spareValid then s3 else formSpare f.1.val f.2.val s3
        let s5 := { s4 with glb := { s4.glb with vdda := s4.fuse.vddaExpress, vddaFixed := true } }
        let s6 := bothLanes 4 (aliveFrame s5) (armWatch (updDegraded (autoForm s5)))
        match v.armJob with
        | none => .next (linkLost s6)
        | some j => .next (linkLost (complete v.tenant.toNat j.1 j.2 0 0 0 unitNone true s6))

/-- A member leaves its pair; its image leaves the slot (R272). -/
def Arr.leavePair (x : Arr) : Arr :=
  { x.rest with paired := false, partner := 0, spare := false, slot0 := ImageSlot.init, slot1 := ImageSlot.init
                st := if x.st = .fault then .fault else .bound }

/-- The spare pair returns to idle, scrubbed (R15, R272). -/
def freeSpare (s : State) : State :=
  if !s.xpr.spareValid then s
  else
    let drop (x : Arr) : Arr := { scrubArr x with paired := false, partner := 0, spare := false }
    let s1 := (s.modArr s.xpr.spa.toNat drop).modArr s.xpr.spb.toNat drop
    { s1 with xpr := { s1.xpr with
        spareValid := false, spareReady := false, spa := 0, spb := 0, spareRan := none, proved := [], proof := none } }

/-- The spare is ready once each armed tenant has passed a proof on it (R285). -/
def judgeSpare (s : State) : State :=
  { s with xpr := { s.xpr with spareReady :=
    s.xpr.spareReady || (s.xpr.spareValid && s.armedXids.all (fun x => s.xpr.proved.contains x)) } }

/-- Disarming ends: pairs unmarked, mirror scrubbed, XPRDISARM completes; the last armed tenant's frees the spare and VDD_A
(R272, R354). -/
def disarmNow (x : Nat) (s : State) : State :=
  let v := s.xid x
  let t := v.tenant.toNat
  let s0 := match s.xpr.proof with
    | some p => if p.x = x then restSpare { s with xpr := { s.xpr with proof := none } } else s
    | none => s
  let s1 := v.arrays.foldl (fun s a => s.modArr a Arr.leavePair) s0
  let s2 := s1.modTenant t (fun y => { y with barriers := [] })
  let s3 := (zeroCon v.mbase v.size s2).modXid x (fun v => { v with
    st := if v.st = .held then .held else .disarmed
    roles := [], inv := none, waitSeq := none, rerun := none, record := [], reqA := none, reqB := none, copies := []
    window := false, windowSeq := none, disarmJobs := [], resetAfter := false })
  let s4 := if s3.anyArmed then judgeSpare (autoForm { s3 with xpr := { s3.xpr with proved := s3.xpr.proved.filter (· != x) } })
    else freeSpare { s3 with glb := { s3.glb with vddaFixed := false } }
  let s5 := updDegraded s4
  v.disarmJobs.foldl (fun s j => complete t j.1 j.2 0 0 0 unitNone true s) s5

/-- A disarming asked for ends once no invocation is in progress; in SAFE_HOLD every invocation has stopped. -/
def tryDisarm (x : Nat) (s : State) : State :=
  let v := s.xid x
  if v.armed && (!v.disarmJobs.isEmpty || v.resetAfter) && (v.inv.isNone || v.st == .held) then disarmNow x s else s

/-- The SEQs of requests that have come in part or whole and have neither been accepted nor answered. -/
def Xid.openSeqs (v : Xid) : List (BitVec 16) :=
  (v.copies.map (fun c => c.2.seq) ++
    ([v.reqA, v.reqB].filterMap (fun c => c.bind (fun c => if c.first && !c.told then some c.seq else none)))).eraseDups

/-- Disarming begins: requests that wait to start, or have not been accepted, are not run, and are answered DISARMED (R272). -/
def beginDisarm (x : Nat) (job : Option (Nat × Reg32)) (s : State) : State :=
  let v := s.xid x
  let seqs := v.openSeqs
  let s0 := seqs.foldl (fun s q => bothLanes x (invalidFrame x q 0x05) s) s
  let s1 := match v.waitSeq with
    | none => s0
    | some i =>
      bothLanes x (invalidFrame x i.seq 0x05)
        (v.arrays.foldl (fun s a => s.modArr a (fun y => { y with tq := sset 0 y.tq 15 0 })) s0)
  tryDisarm x (s1.modXid x (fun v => { v with
    waitSeq := none, disarmJobs := v.disarmJobs ++ job.toList, resetAfter := v.resetAfter || job.isNone, reqA := none, reqB := none, copies := []
    answered := v.answered ++ seqs.map (fun q => (.a, q)) }))

/-- XPRDISARM (R272): for a tenant that is not armed, success and no effect. -/
def disarmBody (t q : Nat) (p : Presented) (s : State) : State :=
  match s.tenantXid t with
  | none => issueDone t q p 0 s
  | some x => beginDisarm x (some (q, p.idx)) (issueOpen t q p s)

def execXprdisarm (t : Ten) (q : Que) (w0 w1 : BitVec 64) (s : State) : Host.Outcome State Fault Refusal :=
  .next (present t q w0 w1 (pOp w0 == 0x39) (disarmBody t.val q.val) s)

end Sys2Proof.Machine
end

