-- ==== Sys2Proof/Machine/Tenants.lean ====
section
/-! DEFINITION. Tenant commands, bindings, the configuration page, re-binding and scrubbing, the balance of the planners (R15, R19,
R137 to R146). -/

namespace Sys2Proof.Machine

/-! ## Planners (R146, R304) -/

/-- The core that serves a tenant: its own, or, while that planner is held, the next one that runs. -/
def State.livePlanner (s : State) (core : Nat) : Nat :=
  let next := (List.range 4).map (fun k => 1 + (core + 3 + k) % 4)
  if core = 7 then 7 else (next.find? (fun c => !s.compHeld (plannerComp c))).getD core

/-- The planner of a tenant at START. -/
def State.planTenant (s : State) (t : Nat) (y : Tenant) : Nat :=
  if y.cls = 1 then 7
  else if y.planner = 0 ∨ y.planner = 7 then s.livePlanner (1 + (t ^^^ (t / 4)) % 4)
  else s.livePlanner y.planner.toNat

/-- PLANNER_BALANCE (R146): `shares` are the busy percentages of cores 1 to 4 over the last 100 ms. -/
def execPlannerBalance (shares : List Nat) (t : Ten) (s : State) : Host.Outcome State Fault Refusal :=
  let y := s.tenant t.val
  let now := s.glb.devTime
  let least := ([2, 3, 4].foldl (fun b c => if shares.getD (c - 1) 0 < shares.getD (b - 1) 0 then c else b) 1)
  let busy := shares.getD (y.planner.toNat - 1) 0
  let rested := y.movedAt == 0 || decide (y.movedAt + 1000 * ms ≤ now)
  if s.sec.balanceTime + 100 * ms ≤ now ∧ 1 ≤ y.planner.toNat ∧ y.planner.toNat ≤ 4 ∧ rested ∧
      shares.getD (least - 1) 0 + 25 < busy ∧ !s.compHeld .mgmt ∧ !s.compHeld (plannerComp least) ∧
      (List.range 8).all (fun q => (y.queue q).waiting.isNone) then
    .next { (s.setTenant t.val { y with planner := BitVec.ofNat 3 least, movedAt := now }) with
      sec := { s.sec with balanceTime := now } }
  else .next s

/-! ## TCX_CMD (R137) -/

/-- A tenant command is read back. -/
def setCmd (t : Nat) (v : BitVec 4) (s : State) : State := s.modTenant t (fun y => { y with cmd := v })

/-- Express tenants that have started, apart from one. -/
def State.otherExpress (s : State) (t : Nat) : Nat :=
  ((List.range 32).filter (fun u => u != t && (s.tenant u).cls == 1 && (s.tenant u).st != .free)).length

/-- START. -/
def execStart (t : Ten) (s : State) : Host.Outcome State Fault Refusal :=
  if !s.hostWrites then .next s
  else
    let s1 := setCmd t.val 1 s
    let y := s1.tenant t.val
    if y.st = .free ∨ y.st = .stopped then
      if y.cls = 0 ∨ (y.cls = 1 ∧ 4 ≤ s1.otherExpress t.val) then
        .next (s1.setTenant t.val { y with startRefused := true })
      else
        let core := s1.planTenant t.val y
        .next (s1.setTenant t.val ({ y with
          st := .running, planner := BitVec.ofNat 3 core, whyFw := y.whyFw || s1.compHeld (plannerComp core) }.settlePause))
    else .next s1

/-- The queue disabled with its rings' registers kept (R137, R138). -/
def Queue.shut (y : Queue) : Queue :=
  { Queue.init with
    base := y.base, cpl := y.cpl, vector := y.vector, size := y.size, csize := y.csize, qcmd := y.qcmd
    overrun := y.overrun, cplFull := y.cplFull, tail := y.tail, head := y.head, cplHead := y.cplHead, cplTail := y.cplTail }

/-- An array comes to rest with no image. -/
def Arr.emptied (bound : Bool) (x : Arr) : Arr :=
  { x.rest with st := if bound then .bound else .idle, slot0 := ImageSlot.init, slot1 := ImageSlot.init, quiesce := false }

/-- A tenant shows WHY_REBIND while an accepted re-binding or scrub quiesces it (R141). -/
def State.rebindHolds (s : State) (f : Nat) : Bool :=
  s.ten.any (fun e => match e.2.rebind with
    | none => false
    | some j => j.accepted && j.kind != 4 && (match j.fromT with | none => false | some u => u.val == f))

/-- A tenant whose planner has started again goes on once none of its arrays quiesces (R151). -/
def settleFw (t : Nat) (s : State) : State :=
  let y := s.tenant t
  if y.whyFw && !s.compHeld (plannerComp y.planner.toNat) && y.arrays.all (fun a => !(s.arr a).quiesce) then
    settle t (s.modTenant t (fun y => { y with whyFw := false }.settlePause))
  else s

/-- ARRAY_RESUME (R94, R141, R151): the quiesce is over; a paused array issues its next bundle in the first A-cycle after. A tenant
that a firmware restart had paused goes on with it, one without such arrays at any resume (notes/assumptions/60.md). -/
def execArrayResume (a : Ary) (s : State) : Host.Outcome State Fault Refusal :=
  let x := s.arr a.val
  let s1 := if x.quiesce && (x.st == .paused || x.active.isNone) && !s.quiesced a.val then
      s.modArr a.val (fun y =>
        { y with quiesce := false, st := if y.st = .paused then .run else y.st, nextIssue := y.cyc + 1 })
    else s
  .next ((List.range 32).foldl (fun s t => settleFw t s) s1)

/-- A losing tenant pauses, or runs again. -/
def settleFrom (f : Nat) (s : State) : State :=
  settle f (s.modTenant f (fun y => { y with whyRebind := s.rebindHolds f }.settlePause))

/-- Everything that a tenant has issued is abandoned: DISPATCHes with their images, legs and walks; what waits on sequences,
copies and windows goes on without a record (R137). -/
def abandonWork (t : Nat) (s : State) : State :=
  let y := s.tenant t
  let lost := match y.rebind with | none => none | some j => j.fromT
  let mine (w : Window) : Window := if w.tenant.toNat = t then { w with closer := none } else w
  let s1 := { s with
    disp := s.disp.filter (fun d => d.tenant != t)
    ary := smap Arr.init s.ary (fun a x => if y.bindAry.getLsbD a then x.emptied true else x)
    pipe := smap PipeSt.init s.pipe (fun _ (x : PipeSt) => if x.leg.any (fun (g : Leg) => g.req.tenant == t) then x.rest else x)
    kv := { s.kv with
      legs := s.kv.legs.filter (fun r => r.tenant != t)
      seqs := smap none s.kv.seqs (fun k (v : Option KvSeq) =>
        if k / 65536 = t then v.map (fun (v : KvSeq) => { v with walks := [], sealsDue := [], waits := [] }) else v) }
    win := { s.win with
      hostW := smap Window.init s.win.hostW (fun _ w => mine w)
      peerW := smap Window.init s.win.peerW (fun _ w => mine w) } }
  let s2 := s1.modTenant t (fun y => { y with
    rebind := none, migrates := [], barriers := []
    copies := smap Copy.init y.copies (fun _ c => { c with waiter := none }) })
  match lost with
  | none => s2
  | some f => settleFrom f.val s2

/-- Every queue of a tenant disabled. -/
def Tenant.shutQueues (y : Tenant) : Tenant :=
  { y with queues := smap Queue.init y.queues (fun _ v => v.shut) }

/-- STOP. -/
def execStop (t : Ten) (s : State) : Host.Outcome State Fault Refusal :=
  if !s.hostWrites then .next s
  else
    let s1 := setCmd t.val 2 s
    let y := s1.tenant t.val
    if y.st = .paused ∧ y.whyHost then
      .next (settleCopies t.val ((abandonWork t.val s1).modTenant t.val (fun y =>
        { y.shutQueues with st := .stopped, whyHost := false })))
    else if y.st = .running ∨ y.st = .paused then
      .next (s1.setTenant t.val { y with
        st := .stopping, queues := smap Queue.init y.queues (fun _ v => { v with waiting := none }) }.settleStop)
    else .next s1

/-- RESET: the tenant is RESETTING until TENANT_RESET_DONE; an armed one disarms (R137, R273). -/
def execReset (t : Ten) (s : State) : Host.Outcome State Fault Refusal :=
  if !s.hostWrites then .next s
  else
    let s1 := setCmd t.val 3 s
    let y := s1.tenant t.val
    if y.st = .stopped ∨ y.st = .free then
      let s2 := s1.setTenant t.val { y with st := .resetting }
      match s2.tenantXid t.val with
      | none => .next s2
      | some x => .next (beginDisarm x none s2)
    else .next s1

/-- Key material zeroised; the install count since RESET stays (R142, R326). -/
def zeroKey (k : Nat) (s : State) : State :=
  { s with sec := { s.sec with
      slots := supd KeySlot.init s.sec.slots k (fun v => { KeySlot.init with installs := v.installs }) } }

/-- Granules of a range. -/
def MemRange.list (r : MemRange) : List Nat := (List.range r.granules.toNat).map (fun i => r.gbase.toNat + i)

/-- The resident plans of a tenant whose slots lie in a range are gone with its scrub (R150). -/
def dropResident (t : Nat) (r : MemRange) (s : State) : State :=
  s.modTenant t (fun y => { y with resident := y.resident.filter (fun e =>
    !overlaps (y.res.toNat + e.1 * 2 ^ 20) (2 ^ 20) (granuleBytes * r.gbase.toNat) (granuleBytes * r.granules.toNat)) })

/-- The granules of a range return to zero-fill (R142, R143). -/
def scrubRange (t : Nat) (r : MemRange) (s : State) : State :=
  dropResident t r (settleMigrates t (settleMk t (r.list.foldl (fun s g => scrubGranule t g s) s)))

/-- No re-binding or scrub names the tenant. -/
def State.unnamed (s : State) (t : Nat) : Bool :=
  !s.ten.any (fun e => match e.2.rebind with
    | none => false
    | some j => (match j.fromT with | none => false | some u => u.val == t) ||
        (match j.toT with | none => false | some u => u.val == t))

/-- What tenant RESET leaves of a context: the planner that serves it (R137). -/
def Tenant.wiped (y : Tenant) : Tenant :=
  { Tenant.init with
    planner := y.planner, movedAt := y.movedAt, cmd := y.cmd
    seedShadow := y.seedShadow, seed := y.seed, res := y.res, cfgOff := y.cfgOff
    scales := smap ScaleSlot.init y.scales (fun _ v => { v with hist := [] })
    queues := y.shutQueues.queues }

/-- TENANT_RESET_DONE (R137, R142): every resource of the binding scrubbed and idle, the tenant FREE. -/
def execTenantResetDone (t : Ten) (s : State) : Host.Outcome State Fault Refusal :=
  let y := s.tenant t.val
  let arming := (List.range 4).any (fun x => (s.xid x).st == .arming && (s.xid x).tenant.toNat == t.val)
  if y.st != .resetting || (s.tenantXid t.val).isSome || arming || !s.unnamed t.val then .next s
  else
    let s1 := abandonWork t.val s
    let s2 := y.arrays.foldl (fun s a => s.modArr a scrubArr) s1
    let s3 := zeroCon y.conBase.toNat y.conSize.toNat s2
    let s4 := (List.range 8).foldl (fun s m => scrubRange t.val (y.range m) s) s3
    let s5 := ((List.range 32).filter (fun k => y.bindKey.getLsbD k)).foldl (fun s k => zeroKey k s) s4
    let s6 := { s5 with
      kv := { s5.kv with seqs := s5.kv.seqs.filter (fun e => e.1 / 65536 != t.val) }
      dep := { s5.dep with loads := s5.dep.loads.filter (fun j => j.tenant != t.val) } }
    .next (autoForm (s6.setTenant t.val (s6.tenant t.val).wiped))

/-- RESUME (R137, R309): the held records are written in order, and the queues go on. -/
def execResume (t : Ten) (s : State) : Host.Outcome State Fault Refusal :=
  if !s.hostWrites then .next s
  else
    let s1 := setCmd t.val 4 s
    let y := s1.tenant t.val
    if y.st = .paused ∧ y.whyHost then
      let s2 := s1.setTenant t.val { y with whyHost := false }.settlePause
      .next (settle t.val ((List.range 8).foldl (fun s q => writeRecords t.val q s) s2))
    else .next s1

/-! ## Binding registers (R15, R139) -/

/-- An array that a binding may take. -/
def State.mayBindAry (s : State) (t a : Nat) : Bool := (s.tenant t).bindAry.getLsbD a || s.freeArray a

/-- A key slot that no other tenant holds, and one that a binding may take. -/
def State.keyFree (s : State) (t k : Nat) : Bool :=
  (List.range 32).all (fun u => u == t || !(s.tenant u).bindKey.getLsbD k)
def State.mayBindKey (s : State) (t k : Nat) : Bool := s.keyFree t k && !s.claimed 4 k

/-- SIZE and BASE of the MiB moved. -/
def RebindJob.mib (j : RebindJob) : Nat × Nat := (pf j.w1 16 8, pf j.w1 7 0)

/-- A span of MiB that no other tenant's partition and no mirror holds (R139, R266), and one that a binding may take. -/
def State.conFree (s : State) (t base size : Nat) : Bool :=
  (List.range 32).all (fun u => u == t || !overlaps base size (s.tenant u).conBase.toNat (s.tenant u).conSize.toNat) &&
    s.mirrors.all (fun p => !overlaps base size p.1 p.2)
def State.mayBindCon (s : State) (t base size : Nat) : Bool :=
  s.conFree t base size &&
    s.ten.all (fun e => e.2.rebind.all (fun j => !(j.accepted && j.kind == 1 && !j.isScrub) || !overlaps base size j.mib.2 j.mib.1))

/-- A binding was refused in part. -/
def noteConflict (t : Nat) (bad : Bool) (s : State) : State :=
  if bad then s.modTenant t (fun y => { y with bindConflict := true }) else s

/-- Half `hi` of TCX_BIND_ARY takes a value: bits of arrays that may not be bound are not set. -/
def bindArrays (t : Nat) (hi : Bool) (v : Reg32) (s : State) : State :=
  let base := if hi then 32 else 0
  let want (i : Nat) : Bool := v.getLsbD i && s.mayBindAry t (base + i)
  let refused := (List.range 32).any (fun i => v.getLsbD i && !s.mayBindAry t (base + i))
  let old := (s.tenant t).bindAry
  let half : Nat := ((List.range 32).map (fun i => if want i then 2 ^ i else 0)).sum
  let new : Nat := if hi then old.toNat % 2 ^ 32 + half * 2 ^ 32 else old.toNat / 2 ^ 32 * 2 ^ 32 + half
  let s1 := (List.range 32).foldl (fun s i =>
    let a := base + i
    if want i && !old.getLsbD a then s.modArr a (fun x => { scrubArr x with st := .bound })
    else if !want i && old.getLsbD a then s.modArr a scrubArr else s) s
  noteConflict t refused (s1.modTenant t (fun y => { y with bindAry := BitVec.ofNat 64 new }))

/-- TCX_BIND_KEY takes a value; a slot that changes hands is empty. -/
def bindKeys (t : Nat) (v : Reg32) (s : State) : State :=
  let want (i : Nat) : Bool := v.getLsbD i && s.mayBindKey t i
  let refused := (List.range 32).any (fun i => v.getLsbD i && !s.mayBindKey t i)
  let old := (s.tenant t).bindKey
  let new : Nat := ((List.range 32).map (fun i => if want i then 2 ^ i else 0)).sum
  let s1 := (List.range 32).foldl (fun s i => if want i != old.getLsbD i then zeroKey i s else s) s
  noteConflict t refused (s1.modTenant t (fun y => { y with bindKey := BitVec.ofNat 32 new }))

/-- TCX_BIND_CON takes a value; a span that is new to the tenant is clear. -/
def bindCon (t : Nat) (v : Reg32) (s : State) : State :=
  let size := bitsOf v.toNat 16 8
  let base := bitsOf v.toNat 7 0
  let y := s.tenant t
  if 256 < base + size || !s.mayBindCon t base size then noteConflict t true s
  else
    let s1 := if base = y.conBase.toNat ∧ size = y.conSize.toNat then s
      else zeroCon base size (zeroCon y.conBase.toNat y.conSize.toNat s)
    s1.modTenant t (fun y => { y with conBase := BitVec.ofNat 8 base, conSize := BitVec.ofNat 9 size })

/-- TCX_MRm_BASE and TCX_MRm_SIZE. -/
def bindRange (t off : Nat) (v : Reg32) (s : State) : State :=
  let m := (off - 0x120) / 8
  s.modTenant t (fun y => { y with ranges := supd MemRange.init y.ranges m (fun r =>
    if off % 8 = 0 then { r with gbase := BitVec.ofNat 27 (bitsOf v.toNat 26 0) }
    else { r with tier := BitVec.ofNat 2 (bitsOf v.toNat 31 30), granules := BitVec.ofNat 16 (bitsOf v.toNat 15 0) }) })

/-- The value of a binding register. -/
def Tenant.bindReg (y : Tenant) (off : Nat) : Nat :=
  if off = 0x100 then y.bindAry.toNat % 2 ^ 32
  else if off = 0x104 then y.bindAry.toNat / 2 ^ 32
  else if off = 0x108 then y.bindAtp.toNat
  else if off = 0x10C then y.conSize.toNat * 256 + y.conBase.toNat
  else if off = 0x110 then y.bindKey.toNat
  else if 0x120 ≤ off ∧ off < 0x160 then
    let r := y.range ((off - 0x120) / 8)
    if off % 8 = 0 then r.gbase.toNat else r.tier.toNat * 2 ^ 30 + r.granules.toNat
  else 0

/-- The bits of a binding register that are fields. -/
def bindMask (off : Nat) : Nat :=
  if off = 0x108 then mask 15 0
  else if off = 0x10C then mask 16 0
  else if 0x120 ≤ off ∧ off < 0x160 then (if off % 8 = 0 then mask 26 0 else mask 31 30 + mask 15 0)
  else mask 31 0

def isBindOff (off : Nat) : Bool :=
  decide (off % 4 = 0) && (off == 0x100 || off == 0x104 || off == 0x108 || off == 0x10C || off == 0x110 ||
    (decide (0x120 ≤ off) && decide (off < 0x160)))

/-- A write of a binding register: busy unless the tenant is FREE (R138, R139). -/
def writeBind (t off : Nat) (v : Reg32) (s : State) : State :=
  let y := s.tenant t
  if y.st ≠ .free then
    (if v.toNat &&& bindMask off = y.bindReg off then s else tcxBusy t off s)
  else if off = 0x100 then autoForm (bindArrays t false v s)
  else if off = 0x104 then autoForm (bindArrays t true v s)
  else if off = 0x108 then s.modTenant t (fun y => { y with bindAtp := BitVec.ofNat 16 v.toNat })
  else if off = 0x10C then bindCon t v s
  else if off = 0x110 then bindKeys t v s
  else bindRange t off v s

/-- BINDING_WRITE (R139). -/
def execBindingWrite (t : Ten) (off : Nat) (v : Reg32) (s : State) : Host.Outcome State Fault Refusal :=
  if s.hostWrites && isBindOff off then .next (writeBind t.val off v s) else .next s

/-! ## The configuration page (R57, R130, R138, R150) -/

/-- The value of a register of the configuration page. -/
def Tenant.cfgReg (y : Tenant) (off : Nat) : Nat :=
  if off = 0x1000 then y.seedShadow.toNat % 2 ^ 32
  else if off = 0x1004 then y.seedShadow.toNat / 2 ^ 32
  else if off = 0x1008 then y.res.toNat % 2 ^ 32
  else if off = 0x100C then y.res.toNat / 2 ^ 32
  else if 0x1100 ≤ off ∧ off < 0x1180 ∧ off % 4 = 0 then
    let v := y.scale ((off - 0x1100) / 8)
    if off % 8 = 0 then v.windowShadow.toNat * 65536 + v.initExp.toNat else (v.hist.headD 0).toNat
  else 0

/-- A 64-bit value with one half replaced. -/
def setHalf (hi : Bool) (x : BitVec 64) (v : Reg32) : BitVec 64 :=
  if hi then BitVec.ofNat 64 (x.toNat % 2 ^ 32 + v.toNat * 2 ^ 32) else BitVec.ofNat 64 (x.toNat / 2 ^ 32 * 2 ^ 32 + v.toNat)

/-- W of R57 as it is stored: 0 taken as 1, above 16 as 16. -/
def windowTaken (v : Reg32) : BitVec 5 := BitVec.ofNat 5 (max 1 (min 16 (bitsOf v.toNat 20 16)))

/-- A write of the configuration page ignored because the field is busy. -/
def Tenant.cfgBusy (y : Tenant) (off : Nat) (v : Reg32) : Bool :=
  (off == 0x1008 || off == 0x100C) && y.st != .free && y.st != .stopped && v.toNat != y.cfgReg off

/-- A write of the configuration page. -/
def Tenant.cfgWrite (y : Tenant) (off : Nat) (v : Reg32) : Tenant :=
  if off = 0x1000 ∨ off = 0x1004 then { y with seedShadow := setHalf (off == 0x1004) y.seedShadow v }
  else if off = 0x1008 ∨ off = 0x100C then
    let res := setHalf (off == 0x100C) y.res v
    { y with res := res, resident := if res = y.res then y.resident else [] }
  else if 0x1100 ≤ off ∧ off < 0x1180 ∧ off % 8 = 0 then
    { y with scales := supd ScaleSlot.init y.scales ((off - 0x1100) / 8) (fun z => { z with windowShadow := windowTaken v }) }
  else y

def writeCfg (t off : Nat) (v : Reg32) (s : State) : State :=
  if (s.tenant t).cfgBusy off v then tcxBusy t off s else s.modTenant t (fun y => y.cfgWrite off v)

/-- SETCFG. -/
def setcfgBody (t q : Nat) (p : Presented) (s : State) : State :=
  let off := pf p.w0 14 0
  let v := BitVec.ofNat 32 (pf p.w1 31 0)
  if (s.tenant t).cfgBusy off v then issueFault t q p Code.cfgWrBusy 0 (tcxBusy t off s)
  else issueDone t q p 0 (writeCfg t off v s)

def execSetcfg (t : Ten) (q : Que) (w0 w1 : BitVec 64) (s : State) : Host.Outcome State Fault Refusal :=
  .next (present t q w0 w1 (pOp w0 == 0x30) (setcfgBody t.val q.val) s)

/-- GETCFG. -/
def execGetcfg (t : Ten) (q : Que) (w0 w1 : BitVec 64) (s : State) : Host.Outcome State Fault Refusal :=
  .next (present t q w0 w1 (pOp w0 == 0x31) (fun p s =>
    issueDone t.val q.val p (BitVec.ofNat 64 ((s.tenant t.val).cfgReg (pf p.w0 14 0))) s) s)

/-! ## REBIND and SCRUB (R140 to R145) -/

/-- The job that a REBIND's words ask for. -/
def rebindJobOf (q : Nat) (p : Presented) (mark : Nat) : RebindJob where
  q := q
  idx := p.idx
  mark := mark
  isScrub := false
  kind := pf p.w0 47 44
  now := p.w0.getLsbD 43
  fromT := if p.w0.getLsbD 42 then none else some (Fin.ofNat 32 (pf p.w0 41 37))
  toT := if p.w0.getLsbD 36 then none else some (Fin.ofNat 32 (pf p.w0 35 31))
  item := pf p.w0 7 0
  w1 := p.w1
  accepted := false
  acceptTime := 0

/-- The memory range that moves: FROM's, or, idle, of the size and tier of TO's range ITEM (notes/assumptions/41.md). -/
def RebindJob.range (j : RebindJob) (s : State) : MemRange :=
  match j.fromT, j.toT with
  | some f, _ => (s.tenant f.val).range j.item
  | none, some u => (s.tenant u.val).range j.item
  | none, none => MemRange.init

/-- The tenant is armed, or arms. -/
def State.armsNow (s : State) (t : Option Ten) : Bool :=
  match t with
  | none => false
  | some u => (List.range 4).any (fun x =>
      ((s.xid x).armed || (s.xid x).st == .arming) && (s.xid x).tenant.toNat == u.val)

/-- A partition that loses, or gains, MiB at one of its ends. -/
def losesEnd (base size b n : Nat) : Bool :=
  decide (base ≤ b) && decide (b + n ≤ base + size) && (b == base || b + n == base + size)
def gainsEnd (base size b n : Nat) : Bool := size == 0 || b + n == base || base + size == b

/-- The concourse part of R144. -/
def conRefused (j : RebindJob) (s : State) : Bool :=
  let (n, b) := j.mib
  let lose := match j.fromT with
    | some f => losesEnd (s.tenant f.val).conBase.toNat (s.tenant f.val).conSize.toNat b n
    | none => decide (b + n ≤ 256) && s.conFree 32 b n
  let gain := match j.toT with
    | some u => gainsEnd (s.tenant u.val).conBase.toNat (s.tenant u.val).conSize.toNat b n &&
        ((s.tenant u.val).cls != 1 || decide (s.pinned + (s.tenant u.val).conSize.toNat + n ≤ 96))
    | none => true
  !lose || !gain

/-- A window of a tenant lies over model granules. -/
def State.windowOver (s : State) (t : Nat) (r : MemRange) : Bool :=
  let lo := granuleBytes * r.gbase.toNat
  let hi := lo + granuleBytes * r.granules.toNat
  (s.win.hostW ++ s.win.peerW).any (fun e => (e.2.open_ || e.2.closing) && e.2.tenant.toNat == t &&
    decide (e.2.base < hi) && decide (lo < e.2.base + (e.2.pages.toNat + 1) * 4096))

/-- The memory-range part of R144. -/
def rangeRefused (j : RebindJob) (s : State) : Bool :=
  let r := j.range s
  let k := pf j.w1 34 32
  let g := pf j.w1 26 0
  (match j.fromT with
   | some f => r.granules == 0 || s.windowOver f.val r
   | none => false) ||
  (match j.toT with
   | none => false
   | some u =>
     let own (m : Nat) : Bool := j.fromT == some u && m == j.item
     ((s.tenant u.val).range k).granules != 0 && !own k ||
       (List.range 8).any (fun m => !own m &&
         overlaps g r.granules.toNat ((s.tenant u.val).range m).gbase.toNat ((s.tenant u.val).range m).granules.toNat))

/-- REBIND is refused (R144). -/
def rebindRefused (j : RebindJob) (s : State) : Bool :=
  let held (f : Ten → Bool) (idle : Bool) : Bool := match j.fromT with | some u => f u | none => idle
  s.armsNow j.fromT || s.armsNow j.toT ||
    (match j.toT with | none => false | some u => (s.tenant u.val).st == .resetting) ||
    (if j.kind = 0 then
       !held (fun u => (s.tenant u.val).bindAry.getLsbD j.item) (s.idleArray j.item) ||
         (s.arr j.item).paired || (s.spareOf j.item).isSome
     else if j.kind = 1 then conRefused j s
     else if j.kind = 2 then
       !held (fun u => (s.tenant u.val).bindAtp.getLsbD j.item)
         ((List.range 32).all (fun u => !(s.tenant u).bindAtp.getLsbD j.item))
     else if j.kind = 3 then rangeRefused j s
     else !held (fun u => (s.tenant u.val).bindKey.getLsbD j.item) (s.keyFree 32 j.item))

/-- The model granules that a range gets in TO's space: first, count. -/
def RebindJob.target (j : RebindJob) (s : State) : Nat × Nat := (pf j.w1 26 0, (j.range s).granules.toNat)

/-- Two jobs are about one resource (R15). -/
def RebindJob.clash (j k : RebindJob) (s : State) : Bool :=
  j.kind == k.kind &&
    (if j.kind = 1 then overlaps j.mib.2 j.mib.1 k.mib.2 k.mib.1
     else if j.kind = 3 then
       (j.fromT == k.fromT && j.item == k.item) ||
         (j.toT == k.toT && (pf j.w1 34 32 == pf k.w1 34 32 ||
           overlaps (j.target s).1 (j.target s).2 (k.target s).1 (k.target s).2))
     else j.item == k.item)

/-- Another tenant's job, accepted and not done, is about the resource: a job waits for it (notes/assumptions/41.md). -/
def State.contested (s : State) (t : Nat) (j : RebindJob) : Bool :=
  s.ten.any (fun e => e.1 != t && e.2.rebind.any (fun k => k.accepted && j.clash k s))

/-- A tenant's job is at its end without effect: refused because what R144 asks no longer holds (R15, R144). -/
def refuseJob (t : Nat) (j : RebindJob) (s : State) : State :=
  let s1 := complete t j.q j.idx Code.rebindRefused 0 0 unitNone true (s.modTenant t (fun y => { y with rebind := none }))
  match j.fromT with
  | none => s1
  | some f => settleFrom f.val s1

/-- A job that R144 lets go on, its own claim apart. -/
def State.jobStands (s : State) (t : Nat) (j : RebindJob) : Bool :=
  j.isScrub || !rebindRefused j (s.modTenant t (fun y => { y with rebind := none }))

/-- Acceptance: the quiesce begins (R141). -/
def acceptJob (t : Nat) (s : State) : State :=
  match (s.tenant t).rebind with
  | none => s
  | some j =>
    if s.contested t j then s
    else if !s.jobStands t j then refuseJob t j s
    else
      let s1 := s.modTenant t (fun y => { y with rebind := some { j with accepted := true, acceptTime := s.glb.devTime } })
      match j.fromT with
      | none => s1
      | some f =>
        let b := (s1.tenant f.val).bindAry
        let s2 := (List.range 64).foldl (fun s a =>
          if RebindJob.quiesces { j with accepted := true } b a then
            takeQuiet a (s.modArr a (fun x => { x with quiesce := true })) else s) s1
        settleFrom f.val (if j.kind = 2 then takeQuietPipe j.item s2 else settleLost s2)

/-- REBIND: one at a time for a tenant; refused, or begun, and with NOW accepted at once. -/
def rebindBody (t q : Nat) (p : Presented) (s : State) : State :=
  let j := rebindJobOf q p s.dispNext
  if (s.tenant t).rebind.isSome then waitIssue t q p s
  else if rebindRefused j s then failUnissued t q p Code.rebindRefused 0 0 s
  else
    let s1 := (issueOpen t q p s).modTenant t (fun y => { y with rebind := some j })
    if j.now then acceptJob t s1 else s1

def execRebind (t : Ten) (q : Que) (w0 w1 : BitVec 64) (s : State) : Host.Outcome State Fault Refusal :=
  .next (present t q w0 w1 (pOp w0 == 0x20) (rebindBody t.val q.val) s)

/-- REBIND_ACCEPT (R141): every DISPATCH of FROM that issued before and uses the resource has completed; with NOW, what another job
had claimed is free. -/
def execRebindAccept (t : Ten) (q : Que) (s : State) : Host.Outcome State Fault Refusal :=
  match (s.tenant t.val).rebind with
  | none => .next s
  | some j =>
    if j.q = q.val ∧ j.accepted = false ∧ (j.now || s.disp.all (fun d => !j.usedBy s d)) then .next (acceptJob t.val s) else .next s

/-- A leg stops and its state is discarded: its DISPATCH has lost work (R141). -/
def discardLeg (p : Nat) (s : State) : State :=
  match (s.pipeline p).leg with
  | none => s
  | some g =>
    let s1 := (s.modPipe p PipeSt.rest).modDispatch g.req.disp (fun d =>
      { d.faulted Code.rebindLost (BitVec.ofNat 64 (unitPipe p)) with legsLeft := d.legsLeft - 1 })
    takeQuietPipe p (endWalks (fun w => w.disp == g.req.disp && w.pass == (passDesc g.req.pd).key) s1)

/-- An accepted job that quiesces a leg of a tenant on a pipeline. -/
def RebindJob.stopsLeg (j : RebindJob) (p t : Nat) : Bool :=
  j.accepted && (match j.fromT with | none => false | some f => f.val == t) &&
    ((j.kind == 2 && j.item == p) || j.kind == 1 || j.kind == 3)

/-- LEG_QUIESCE_TIMEOUT (R141): a leg still running 1 ms after acceptance. -/
def execLegQuiesceTimeout (p : Pipe) (s : State) : Host.Outcome State Fault Refusal :=
  match (s.pipeline p.val).leg with
  | none => .next s
  | some g =>
    if s.ten.any (fun e => match e.2.rebind with
        | none => false
        | some j => j.stopsLeg p.val g.req.tenant && decide (j.acceptTime + ms ≤ s.glb.devTime)) then
      .next (discardLeg p.val s)
    else .next s

/-- The code that stops a SCRUB before it issues: an armed tenant's arrays and partition, a resource not in the binding
(R145, R273). -/
def scrubFails (t kind item : Nat) (s : State) : Option (BitVec 16) :=
  let y := s.tenant t
  if (s.tenantXid t).isSome ∧ kind ≤ 1 then some Code.planPriv
  else if kind = 0 then (if y.bindAry.getLsbD item then none else some Code.planRange)
  else if kind = 1 then (if y.conSize ≠ 0 then none else some Code.planRange)
  else if kind = 2 then (if y.bindAtp.getLsbD item then none else some Code.planRange)
  else if kind = 3 then (if (y.range item).granules ≠ 0 then none else some Code.planRange)
  else if y.bindKey.getLsbD item then none else some Code.planRange

/-- SCRUB: accepted when it issues. -/
def scrubBody (t q : Nat) (p : Presented) (s : State) : State :=
  let kind := pf p.w0 47 44
  let item := pf p.w0 7 0
  match scrubFails t kind item s with
  | some c => failUnissued t q p c 0 0 s
  | none =>
    if (s.tenant t).rebind.isSome then waitIssue t q p s
    else
      let me : Ten := Fin.ofNat 32 t
      let j : RebindJob := ⟨q, p.idx, s.dispNext, true, kind, true, some me, some me, item, 0, false, 0⟩
      acceptJob t ((issueOpen t q p s).modTenant t (fun y => { y with rebind := some j }))

def execScrub (t : Ten) (q : Que) (w0 w1 : BitVec 64) (s : State) : Host.Outcome State Fault Refusal :=
  .next (present t q w0 w1 (pOp w0 == 0x21) (scrubBody t.val q.val) s)

/-- One bit of a binding mask switched. -/
def setBit {n : Nat} (b : BitVec n) (i : Nat) (on : Bool) : BitVec n :=
  if on then b ||| BitVec.ofNat n (2 ^ i) else b &&& ~~~(BitVec.ofNat n (2 ^ i))

/-- The granules of a scrubbed range go over to the gaining tenant, with what is still to be cleared in them (R143). -/
def moveGranules (f u : Nat) (r : MemRange) (base : Nat) (s : State) : State :=
  let olds := r.list.map (s.mtc.granule f)
  let cleared := r.list.foldl (fun m g => m.setGranule f g Granule.init) s.mtc
  { s with mtc := olds.zipIdx.foldl (fun m v => m.setGranule u (base + v.2) v.1) cleared }

/-- A tenant, where the job names one, changed. -/
def modSide (u : Option Ten) (f : Tenant → Tenant) (s : State) : State :=
  match u with
  | none => s
  | some t => s.modTenant t.val f

/-- The partition of a tenant that loses, or gains, MiB. -/
def Tenant.loseCon (b n : Nat) (y : Tenant) : Tenant :=
  { y with
    conSize := BitVec.ofNat 9 (y.conSize.toNat - n)
    conBase := if y.conBase.toNat = b then BitVec.ofNat 8 (b + n) else y.conBase }
def Tenant.gainCon (b n : Nat) (y : Tenant) : Tenant :=
  { y with
    conSize := BitVec.ofNat 9 (y.conSize.toNat + n)
    conBase := if y.conSize = 0 ∨ b < y.conBase.toNat then BitVec.ofNat 8 b else y.conBase }

/-- The resource scrubbed and both bindings switched (R141, R142). -/
def switchJob (j : RebindJob) (s : State) : State :=
  let same := j.isScrub
  if j.kind = 0 then
    let s1 := match j.fromT with | none => s | some f => loseArray f.val j.item s
    let s2 := s1.modArr j.item (fun x => { scrubArr x with st := if j.toT.isSome then .bound else .idle })
    modSide j.toT (fun y => { y with bindAry := setBit y.bindAry j.item true })
      (modSide j.fromT (fun y => { y with bindAry := setBit y.bindAry j.item false }) s2)
  else if j.kind = 1 then
    let own := match j.fromT with | none => (0, 0) | some f => ((s.tenant f.val).conSize.toNat, (s.tenant f.val).conBase.toNat)
    let (n, b) := if same then own else j.mib
    let s1 := zeroCon b n s
    if same then s1 else modSide j.toT (Tenant.gainCon b n) (modSide j.fromT (Tenant.loseCon b n) s1)
  else if j.kind = 2 then
    modSide j.toT (fun y => { y with bindAtp := setBit y.bindAtp j.item true })
      (modSide j.fromT (fun y => { y with bindAtp := setBit y.bindAtp j.item false }) (s.modPipe j.item PipeSt.rest))
  else if j.kind = 3 then
    let r := j.range s
    let s1 := match j.fromT with | none => s | some f => scrubRange f.val r s
    if same then s1
    else
      let moved := { r with gbase := BitVec.ofNat 27 (pf j.w1 26 0) }
      let s2 := match j.fromT, j.toT with
        | some f, some u => moveGranules f.val u.val r (pf j.w1 26 0) s1
        | _, _ => s1
      modSide j.toT (fun y => { y with ranges := sset MemRange.init y.ranges (pf j.w1 34 32) moved })
        (modSide j.fromT (fun y => { y with ranges := sset MemRange.init y.ranges j.item MemRange.init }) s2)
  else
    let s1 := zeroKey j.item s
    let s2 := modSide j.fromT (fun y => { y with
      bindKey := setBit y.bindKey j.item false
      mkSlot := if y.mkSlot.any (fun k => k.val == j.item) then none else y.mkSlot }) s1
    modSide j.toT (fun y => { y with bindKey := setBit y.bindKey j.item true }) s2

/-- An array or pipeline whose scrub a refused job had begun is scrubbed and stays with its tenant. -/
def endScrub (j : RebindJob) (s : State) : State :=
  if j.kind = 0 ∧ (s.arr j.item).st = .scrub then
    s.modArr j.item (fun x => { scrubArr x with st := if j.fromT.isSome then .bound else .idle })
  else if j.kind = 2 ∧ (s.pipeline j.item).st = .scrub then s.modPipe j.item PipeSt.rest
  else s

/-- SCRUB_DONE (R141, R142): quiesced, the resource is scrubbed, the bindings switch in one cycle, FROM goes on, and the REBIND or
SCRUB completes. -/
def execScrubDone (t : Ten) (q : Que) (s : State) : Host.Outcome State Fault Refusal :=
  match (s.tenant t.val).rebind with
  | none => .next s
  | some j =>
    if j.q = q.val ∧ j.accepted ∧ !s.jobStands t.val j then .next (refuseJob t.val j (endScrub j s))
    else if j.q = q.val ∧ j.accepted ∧ s.quiesceOver j then
      let s1 := (switchJob j s).modTenant t.val (fun y => { y with rebind := none })
      let s2 := match j.fromT with | none => s1 | some f => settleFrom f.val s1
      .next (autoForm (complete t.val q.val j.idx 0 0 0 unitNone true s2))
    else .next s

end Sys2Proof.Machine
end

