-- ==== Sys2Proof/Machine/Tiling.lean ====
section
/-! DEFINITION. Buckets, the tiler and the packing of ragged batches (R129, R153 to R161). -/

namespace Sys2Proof.Machine

/-! ## The tiling word (R156, R157) -/

def twOrd2 (w : Reg32) : Nat := bitsOf w.toNat 31 29
def twOrd1 (w : Reg32) : Nat := bitsOf w.toNat 28 26
def twOrd0 (w : Reg32) : Nat := bitsOf w.toNat 25 23
def twPairn (w : Reg32) : Bool := w.getLsbD 22
def twRagged (w : Reg32) : Bool := w.getLsbD 21
/-- LMAX, where 0 means 8; the values 9 to 15, which R157 does not give, are taken as 8 (DESIGN CHOICE, notes/assumptions/67.md). -/
def twLmax (w : Reg32) : Nat := let v := bitsOf w.toNat 20 17; if v = 0 then 8 else min v 8
def twConNeed (w : Reg32) : Nat := bitsOf w.toNat 16 8

/-- The live product of level 0: the trip counts of the loops that an order places inside K (R155, R157). -/
def liveOf (ord m0 n0 : Nat) : Nat :=
  if ord = 0 ∨ ord = 1 then 1 else if ord = 2 then n0 else if ord = 3 then m0 else m0 * n0

/-- A fixed order of level 1 or 2 is legal for its trip counts; code 6 is reserved (R155, R157). -/
def orderLegal (ord msteps nsteps : Nat) : Bool :=
  if ord = 7 ∨ ord ≤ 1 then true
  else if ord = 2 then nsteps == 1
  else if ord = 3 then msteps == 1
  else if ord = 6 then false
  else msteps == 1 && nsteps == 1

/-! ## Rows, bytes and granules -/

/-- Bytes per K-step of a row, side plane included. -/
def stepBytes (fmt : Nat) : Nat :=
  let f := fmtOf fmt
  4 * f.bits + (if f.block = 0 then 0 else f.side * 32 / f.block)

/-- Granules that R99 reads for one row of `g` K-steps. -/
def rowGranules (fmt g : Nat) : Nat :=
  let f := fmtOf fmt
  cdiv (4 * f.bits * g) 32 + (if f.block = 0 then 0 else cdiv (cdiv (32 * g) f.block * f.side) 32)

/-- The largest power of two at most `n` that passes a test that smaller ones pass too, 0 where 1 does not. -/
def largestPow (ok : Nat → Bool) : Nat → Nat → Nat
  | 0, p => if ok p then p else 0
  | f + 1, p => if ok (2 * p) then largestPow ok f (2 * p) else if ok p then p else 0

/-- A count grown in steps while it stays within a limit and a test passes. -/
def growBy (step limit : Nat) (ok : Nat → Bool) : Nat → Nat → Nat
  | 0, v => v
  | f + 1, v => if v + step ≤ limit ∧ ok (v + step) then growBy step limit ok f (v + step) else v

/-- A count shrunk in steps until a test passes; none below one step. -/
def shrinkBy (step : Nat) (ok : Nat → Bool) : Nat → Nat → Option Nat
  | 0, v => if ok v then some v else none
  | f + 1, v => if ok v then some v else if v < 2 * step then none else shrinkBy step ok f (v - step)

/-! ## Level 0 -/

/-- A level-0 block: tiles in M and N, K-steps, A-cycles of loading and of grid work. -/
structure Block0 where
  m0 : Nat
  n0 : Nat
  g : Nat
  ld : Nat
  work : Nat
deriving DecidableEq, Repr

def pairs0 : List (Nat × Nat) := [(1, 1), (1, 2), (2, 1), (2, 2), (1, 4), (4, 1), (2, 4), (4, 2), (1, 8), (8, 1)]

/-- The admissible blocks, in the order of R158. With one operand of FP32 the limits of both sides are halved (DESIGN CHOICE,
notes/assumptions/67.md). -/
def blocks0 (k : KernelEntry) (p mt nt ks : Nat) : List Block0 :=
  let u := if twPairn k.tiling then 2 else 1
  let half := k.afmt == 0 || k.bfmt == 0
  pairs0.filterMap (fun mn =>
    let (m0, n0) := mn
    if m0 ≤ mt ∧ n0 ≤ nt ∧ n0 % u = 0 ∧ liveOf (if twOrd0 k.tiling = 7 then 4 else twOrd0 k.tiling) m0 n0 ≤ twLmax k.tiling then
      let ok (g : Nat) : Bool := decide (g ≤ ks) &&
        (if half then decide (m0 * g ≤ 4) && decide (n0 * g ≤ 8) else decide (m0 * g ≤ 8) && decide (n0 * g ≤ 16))
      let g := largestPow ok 4 1
      if g = 0 then none
      else some ⟨m0, n0, g, cdiv (m0 * 128 * rowGranules k.afmt.toNat g + n0 * 64 * rowGranules k.bfmt.toNat g) 4, m0 * n0 * g * p⟩
    else none)

/-- The first block whose loads hide under its grid work, else the one with the least ratio, the earlier on a tie. -/
def choose0 (l : List Block0) : Option Block0 :=
  (l.find? (fun b => decide (b.ld ≤ b.work))).or
    (match l with
     | [] => none
     | b :: r => some (r.foldl (fun best c => if c.ld * best.work < best.ld * c.work then c else best) b))

/-! ## Levels 1 and 2 -/

/-- MNK where its traffic is less than NMK's, else NMK (R158). -/
def chooseOrder (ord bytesA bytesB msteps nsteps : Nat) : Nat :=
  if ord ≠ 7 then ord
  else
    let nmk := bytesB + bytesA * (if 1 < msteps then nsteps else 1)
    let mnk := bytesA + bytesB * (if 1 < nsteps then msteps else 1)
    if mnk < nmk then 0 else 1

/-- The blocks of the loops of an order, outermost loop first, K ascending in each (R153, R154): M, N and K steps. -/
def visits (ord ms ns ks : Nat) : List (Nat × Nat × Nat) :=
  let m (f : Nat → List (Nat × Nat × Nat)) := (List.range ms).flatMap f
  let n (f : Nat → List (Nat × Nat × Nat)) := (List.range ns).flatMap f
  let k (f : Nat → List (Nat × Nat × Nat)) := (List.range ks).flatMap f
  if ord = 0 then m (fun a => n (fun b => k (fun c => [(a, b, c)])))
  else if ord = 1 then n (fun b => m (fun a => k (fun c => [(a, b, c)])))
  else if ord = 2 then m (fun a => k (fun c => n (fun b => [(a, b, c)])))
  else if ord = 3 then n (fun b => k (fun c => m (fun a => [(a, b, c)])))
  else if ord = 4 then k (fun c => m (fun a => n (fun b => [(a, b, c)])))
  else k (fun c => n (fun b => m (fun a => [(a, b, c)])))

/-- The tiling of a matrix kernel for `m` bucket rows and `arrays` arrays, or none (R158). Under PAIRN an odd last N tile belongs to no
array's share (DESIGN CHOICE, notes/assumptions/67.md). -/
def tile (k : KernelEntry) (m arrays : Nat) : Option Tiling :=
  let w := k.tiling
  let u := if twPairn w then 2 else 1
  let p := kstepCycles (max (classOf k.afmt.toNat k.aq) (classOf k.bfmt.toNat k.bq))
  let tm := cdiv m 128
  let tn := cdiv k.n 64
  let ks := cdiv k.k 32
  let units := tn / u
  let an := min arrays units
  let am := min (arrays / an) tm
  let mt := cdiv tm am
  let nt := cdiv units an * u
  let ea := stepBytes k.afmt.toNat
  let eb := stepBytes k.bfmt.toNat
  if an = 0 ∨ am = 0 ∨ ks = 0 then none
  else match choose0 (blocks0 k p mt nt ks) with
    | none => none
    | some b =>
      let ord0 := if twOrd0 w = 7 then 4 else twOrd0 w
      let live := liveOf ord0 b.m0 b.n0
      let overlap := decide (2 * live ≤ twLmax w)
      let fits1 (mb nb kb : Nat) : Bool :=
        decide (2 * kb * mb * 128 * ea + 2 * kb * nb * 64 * eb + mb * (nb / u) * k.outBytes * (if overlap then 2 else 1) ≤
          6 * 2 ^ 20 - 512 * 1024)
      let nb := growBy b.n0 nt (fun v => fits1 b.m0 v ks) nt b.n0
      let mb := growBy b.m0 mt (fun v => fits1 v nb ks) mt b.m0
      match shrinkBy b.g (fun v => fits1 mb nb v) ks ks with
      | none => none
      | some kb =>
        let fits2 (mb2 nb2 k2 : Nat) : Bool :=
          decide (2 * k2 * (am * mb2 * 128 * ea + an * nb2 * 64 * eb) ≤ (twConNeed w - 1) * 2 ^ 20)
        if !fits2 mb nb kb then none
        else
          let nb2 := growBy nb nt (fun v => fits2 mb v kb) nt nb
          let mb2 := growBy mb mt (fun v => fits2 v nb2 kb) mt mb
          let k2 := growBy kb ks (fun v => fits2 mb2 nb2 v) ks kb
          let ms2 := cdiv mt mb2
          let ns2 := cdiv nt nb2
          let ms1 := cdiv mb2 mb
          let ns1 := cdiv nb2 nb
          if ord0 = 6 || !orderLegal (twOrd2 w) ms2 ns2 || !orderLegal (twOrd1 w) ms1 ns1 then none
          else some {
            am := am, an := an, m0 := b.m0, n0 := b.n0, g := b.g, ord0 := ord0, overlap := overlap
            liveAcc := if overlap then 2 * live else live
            mb := mb, nb := nb, kb := kb, mb2 := mb2, nb2 := nb2, k2 := k2
            ord1 := chooseOrder (twOrd1 w) (mb2 * 128 * ea) (nb2 * 64 * eb) ms1 ns1
            ord2 := chooseOrder (twOrd2 w) (tm * 128 * ea) (tn * 64 * eb) ms2 ns2
            tm := tm, tn := tn, ks := ks, u := u, ea := ea, eb := eb }

/-! ## Shares and transfers (R153, R154, R158, R160) -/

/-- The array of row `i` and column `j` of a tiling is the binding's array number i × an + j, ascending (DESIGN CHOICE,
notes/assumptions/59.md). -/
def Tiling.row (tl : Tiling) (x : Nat) : Nat := x / tl.an
def Tiling.col (tl : Tiling) (x : Nat) : Nat := x % tl.an

/-- The M tiles that array `x` takes, every K-step of them. -/
def Tiling.shareM (tl : Tiling) (x : Nat) : List Nat :=
  let lo := tl.row x * tl.tm / tl.am
  (List.range ((tl.row x + 1) * tl.tm / tl.am - lo)).map (fun i => lo + i)

/-- The N tiles that array `x` takes, in whole units. -/
def Tiling.shareN (tl : Tiling) (x : Nat) : List Nat :=
  let units := tl.tn / tl.u
  let lo := tl.col x * units / tl.an
  (List.range (((tl.col x + 1) * units / tl.an - lo) * tl.u)).map (fun i => lo * tl.u + i)

/-- How often a sequence of block indices begins a new block. -/
def changes (l : List (Nat × Nat)) : Nat := min 1 l.length + ((l.zip l.tail).filter (fun p => decide (p.1 ≠ p.2))).length

/-- Blocks of A and of B that a sequence of steps transfers: one whose index does not change is not transferred again (R158). -/
def transfers (l : List (Nat × Nat × Nat)) : Nat := changes (l.map (fun b => (b.1, b.2.2))) + changes (l.map (fun b => b.2))

/-- The actual shape: the sequence bucket, the positions in use of each of its rows, the rows in use (R160, R161). -/
structure Shape where
  bucket : Nat
  seq : Nat
  rows : Nat
deriving DecidableEq, Repr

/-- Rows in extent of M tile `t`: a bucket row holds a whole number of tiles (R160). -/
def Shape.extent (z : Shape) (t : Nat) : Nat :=
  let p := z.bucket / 128
  if t / p < z.rows then min 128 (z.seq - 128 * (t % p)) else 0

/-- The M tiles of array `x` with a row in extent. -/
def Tiling.issued (tl : Tiling) (z : Shape) (x : Nat) : Nat := ((tl.shareM x).filter (fun t => decide (0 < z.extent t))).length

/-- Some of the `w` M tiles of array `x` from its `a`-th on have a row in extent. -/
def Tiling.inExtent (tl : Tiling) (z : Shape) (x a w : Nat) : Bool := (((tl.shareM x).drop a).take w).any (fun t => decide (0 < z.extent t))

/-- The level-1 blocks of array `x` that have a row in extent, in the order of levels 2 and 1: first M tile, N tile and K-step of each,
within the share. -/
def Tiling.blocks (tl : Tiling) (z : Shape) (x : Nat) : List (Nat × Nat × Nat) :=
  let mc := (tl.shareM x).length
  let nc := (tl.shareN x).length
  (visits tl.ord2 (cdiv mc tl.mb2) (cdiv nc tl.nb2) (cdiv tl.ks tl.k2)).flatMap (fun o =>
    ((visits tl.ord1 (cdiv tl.mb2 tl.mb) (cdiv tl.nb2 tl.nb) (cdiv tl.k2 tl.kb)).map (fun i =>
      (o.1 * tl.mb2 + i.1 * tl.mb, o.2.1 * tl.nb2 + i.2.1 * tl.nb, o.2.2 * tl.k2 + i.2.2 * tl.kb))).filter
      (fun b => tl.inExtent z x b.1 tl.mb && decide (b.2.1 < nc) && decide (b.2.2 < tl.ks)))

/-- Level-1 transfers of array `x`, and level-2 transfers of the whole binding, each one descriptor (DESIGN CHOICE,
notes/assumptions/59.md). -/
def Tiling.level1 (tl : Tiling) (z : Shape) (x : Nat) : Nat := transfers (tl.blocks z x)

def Tiling.level2 (tl : Tiling) (z : Shape) : Nat :=
  let all := List.range (tl.am * tl.an)
  let mc := (all.map (fun x => (tl.shareM x).length)).foldl max 0
  let nc := (all.map (fun x => (tl.shareN x).length)).foldl max 0
  transfers ((visits tl.ord2 (cdiv mc tl.mb2) (cdiv nc tl.nb2) (cdiv tl.ks tl.k2)).filter
    (fun o => all.any (fun x => tl.inExtent z x (o.1 * tl.mb2) tl.mb2)))

/-- The most bytes that a block of level 1, and of level 2, has of one operand (R153, R158). -/
def Tiling.bytes1 (tl : Tiling) : Nat := tl.kb * max (tl.mb * 128 * tl.ea) (tl.nb * 64 * tl.eb)
def Tiling.bytes2 (tl : Tiling) : Nat := tl.k2 * max (tl.am * tl.mb2 * 128 * tl.ea) (tl.an * tl.nb2 * 64 * tl.eb)

/-! ## Images (R160) -/

/-- ROWEXT of the A side and M_EXT, ROWEXT of the B side and N_EXT, KLAST of a bundle, each holding a count minus 1. -/
def patchM (e b : Nat) : Nat :=
  let c := if lOp b = 1 ∧ lSide b = 0 then setBits b 216 210 (e - 1) else b
  if dOp c = 1 then setBits c 55 49 (e - 1) else c
def patchN (e b : Nat) : Nat :=
  let c := if lOp b = 1 ∧ lSide b = 1 then setBits b 216 210 (e - 1) else b
  if dOp c = 1 then setBits c 48 43 (e - 1) else c
def patchK (e b : Nat) : Nat := if lOp b = 1 then setBits b 209 205 (e - 1) else b

/-- The extent of the last partial piece of `n` in pieces of `w`. -/
def lastExtent (n w : Nat) : Nat := (n - 1) % w + 1

/-- The extent in M of array `x`: that of the last tile of a bucket row, where its share has one (R160). -/
def Tiling.lastM (tl : Tiling) (z : Shape) (x : Nat) : Nat :=
  if (tl.shareM x).any (fun t => decide (0 < z.extent t) && decide (z.extent t < 128)) then lastExtent z.seq 128 else 128

/-- The image of array `x` for the actual shape: extents patched, presets put in, the CRC-32C recomputed (R160). -/
def patchedImage (tl : Tiling) (z : Shape) (n k x : Nat) (presets : List Reg32) (v : TileImage) : Bytes :=
  let nExt := if tl.tn - 1 ∈ tl.shareN x then lastExtent n 64 else 64
  let i1 := v.lastM.foldl (modBundle (patchM (tl.lastM z x))) v.img
  let i2 := v.lastN.foldl (modBundle (patchN nExt)) i1
  let i3 := v.lastK.foldl (modBundle (patchK (lastExtent k 32))) i2
  sealImage (setPresets i3 (fun r => (presets.getD (r - 1) 0).toNat))

/-- The arrays of a binding that a DISPATCH runs on, with their places in the tiling; one whose share has no row in extent receives no
image (R158, R160). -/
def issuedArrays (tl : Tiling) (z : Shape) (arrays : List Nat) : List (Nat × Nat) :=
  arrays.zipIdx.filter (fun a => decide (a.2 < tl.am * tl.an) && decide (0 < tl.issued z a.2))

/-- The images of a DISPATCH by array (R160). -/
def planImages (tl : Tiling) (z : Shape) (n k : Nat) (arrays : List Nat) (presets : List (List Reg32)) (tiles : List TileImage) :
    Store Bytes :=
  (issuedArrays tl z arrays).map (fun a =>
    (a.1, patchedImage tl z n k a.2 (presets.getD a.2 []) (tiles.getD a.2 ⟨[], [], [], []⟩)))

/-! ## Buckets and ragged batches (R129, R161) -/

def seqBuckets : List Nat := [128, 256, 512, 1024, 2048, 4096, 8192, 16384, 32768]
def batchBuckets : List Nat := [1, 2, 4, 8, 16, 32]

/-- The smallest bucket at or above a count, when the count is at least 1 and the package has it. -/
def bucketOf (all got : List Nat) (n : Nat) : Option Nat :=
  if n = 0 then none else (all.find? (fun b => decide (n ≤ b))).filter (fun b => got.contains b)

/-- A length, with its number in the list, put before the first shorter one. -/
def lengthIns (l : Nat × Nat) : List (Nat × Nat) → List (Nat × Nat)
  | [] => [l]
  | x :: r => if x.1 < l.1 then l :: x :: r else x :: lengthIns l r

/-- The positions taken, and the sequences placed, in a row of a packing. -/
def rowUse (row : Nat) (l : List Place) : Nat × Nat :=
  let mine := l.filter (fun p => p.row == row)
  ((mine.map Place.len).sum, mine.length)

/-- A sequence placed in the first row with room, else in a new row of `s` positions: at the row's first free position, with its
next segment number. -/
def placeLength (s : Nat) (placed : List Place) (l : Nat × Nat) : List Place :=
  let rows := (placed.map (fun p => p.row + 1)).foldl max 0
  let row := ((List.range rows).find? (fun r => decide ((rowUse r placed).1 + l.1 ≤ s))).getD rows
  let u := rowUse row placed
  placed ++ [⟨l.2, row, u.1, u.2 + 1, l.1⟩]

/-- The packing of a length list in rows of `s` positions (R161). -/
def packLengths (s : Nat) (lengths : List Nat) : List Place :=
  ((lengths.zipIdx).foldl (fun a l => lengthIns l a) []).foldl (placeLength s) []

/-- Rows that a packing uses. -/
def packRows (l : List Place) : Nat := (l.map (fun p => p.row + 1)).foldl max 0

/-- The segment of a position of a row: 0 where no sequence lies (R161). -/
def segmentAt (l : List Place) (row pos : Nat) : Nat :=
  match l.find? (fun p => p.row == row && decide (p.start ≤ pos) && decide (pos < p.start + p.len)) with
  | none => 0
  | some p => p.seg

end Sys2Proof.Machine
end

