-- ==== Sys2Proof/Machine/TileWalk.lean ====
section
/-! DEFINITION. What the images of a DISPATCH do, followed bundle by bundle from their timetable and presets, and held to its tiling: the
tiles of an array's share that are in extent, each with all its K-steps in ascending order, block by block; the sets of tiles, the
segments, the extents (R153 to R156, R159, R160, notes/assumptions/59.md). -/

namespace Sys2Proof.Machine

/-- An image's work: the tiling, the shape in use, the kernel's columns and K, and the place of the array in the tiling. -/
structure TileJob where
  tl : Tiling
  z : Shape
  n : Nat
  k : Nat
  x : Nat

/-! ## Extents and blocks -/

/-- Rows of an M tile, columns of an N tile, and K of the last of `nk` K-steps, that are in extent (R79, R160). -/
def TileJob.extM (j : TileJob) (m : Nat) : Nat := j.z.extent m
def TileJob.extN (j : TileJob) (n : Nat) : Nat := if n + 1 = j.tl.tn then lastExtent j.n 64 else 64
def TileJob.extK (j : TileJob) (step nk : Nat) : Nat := if step + nk = j.tl.ks then lastExtent j.k 32 else 32

/-- The tiles in M and in N that level 0 accumulates at once: those of the loops that its order places inside K (R155). -/
def Tiling.liveM (tl : Tiling) : Nat := if tl.ord0 = 3 ∨ tl.ord0 = 4 ∨ tl.ord0 = 5 then tl.m0 else 1
def Tiling.liveN (tl : Tiling) : Nat := if tl.ord0 = 2 ∨ tl.ord0 = 4 ∨ tl.ord0 = 5 then tl.n0 else 1

/-- The number of a tile within its array's share. -/
def TileJob.inM (j : TileJob) (m : Nat) : Nat := m - (j.tl.shareM j.x).headD 0
def TileJob.inN (j : TileJob) (n : Nat) : Nat := n - (j.tl.shareN j.x).headD 0

/-- The level-1 block, and the level-0 block, of a K-step of a tile: first M tile, N tile and K-step (R153). -/
def TileJob.block1 (j : TileJob) (m n step : Nat) : Nat × Nat × Nat :=
  (j.inM m - j.inM m % j.tl.mb2 % j.tl.mb, j.inN n - j.inN n % j.tl.nb2 % j.tl.nb, step - step % j.tl.k2 % j.tl.kb)

def TileJob.block0 (j : TileJob) (m n step : Nat) : Nat × Nat × Nat :=
  (j.inM m - j.inM m % j.tl.mb2 % j.tl.mb % j.tl.liveM, j.inN n - j.inN n % j.tl.nb2 % j.tl.nb % j.tl.liveN,
    step - step % j.tl.k2 % j.tl.kb % j.tl.g)

/-- The blocks of R158 leave no partial sum beyond the tiles of level 0; where they would, no order of the blocks is held to (R155,
notes/assumptions/59.md). -/
def Tiling.ordered (tl : Tiling) : Bool :=
  decide (tl.kb = tl.ks ∨ (tl.mb ≤ tl.liveM ∧ tl.nb ≤ tl.liveN ∧ (tl.k2 = tl.ks ∨ (tl.mb2 = tl.mb ∧ tl.nb2 = tl.nb))))

/-! ## A run -/

/-- An output tile in accumulator memory: the K-steps that it has received, whether it has been drained. -/
structure TileRun where
  m : Nat
  n : Nat
  steps : Nat
  drained : Bool
deriving DecidableEq, Repr

/-- A run on its way. -/
structure TileWalk where
  pc : Nat
  /-- the index registers, of an array that does nothing else -/
  x : Arr
  /-- A-cycles of the timetable since the segment began; the last bundle closed it -/
  seg : Nat
  stop : Bool
  /-- what the LDPs to come bring; what the slots of the platform hold -/
  loads : List LoadTag
  slots : Store (Option LoadTag)
  runs : Store (Option TileRun)
  /-- the level-0 block in work, the set of tiles that it takes -/
  block : Option (Nat × Nat × Nat)
  set : Nat
  /-- the level-1 blocks to visit, that in work first -/
  due : List (Nat × Nat × Nat)
  /-- the output tiles drained -/
  out : List (Nat × Nat)
  /-- siding spans that LDCs have filled -/
  moved : List (Nat × Nat)

/-- The tile in an accumulator, and the slots of a side. -/
def TileWalk.run (w : TileWalk) (t : Nat) : Option TileRun := sget none w.runs t
def TileWalk.live (w : TileWalk) : List TileRun := w.runs.filterMap (·.2)
def slotKey (side buf step : Nat) : Nat := 64 * side + 32 * buf + step
def TileWalk.holds (w : TileWalk) (side buf step nk : Nat) (t : LoadTag) : Bool :=
  (List.range nk).all (fun i => sget none w.slots (slotKey side buf (step + i)) == some ⟨t.tile, t.step + i⟩)

/-- A drain: of a tile that has all its K-steps, over its extent, a pair of N tiles together (R75, R154, R160). -/
def TileJob.drain (j : TileJob) (b : Nat) (w : TileWalk) : Option TileWalk :=
  match w.run (dTile b) with
  | none => none
  | some r =>
    let mine (v : TileRun) : Bool := v.m == r.m && v.n / j.tl.u == r.n / j.tl.u
    let whole := (w.live.filter mine).all (fun v => v.steps == j.tl.ks)
    if whole && dRows b == j.extM r.m && dCols b == j.extN r.n then
      some { w with
        out := w.out ++ ((w.live.filter (fun v => mine v && !v.drained)).map (fun v => (v.m, v.n)))
        runs := smap none w.runs (fun _ v => v.map (fun v => { v with drained := v.drained || mine v })) }
    else none

/-- A new level-0 block follows in the order of the blocks, in the other set of tiles where drains overlap; the tiles before it have all
their K-steps (R153 to R156). -/
def TileJob.enter (j : TileJob) (m n step t : Nat) (w : TileWalk) : Option TileWalk :=
  let b0 := j.block0 m n step
  let b1 := j.block1 m n step
  let fresh := match w.block with | none => true | some c => c.1 != b0.1 || c.2.1 != b0.2.1
  let set := if j.tl.overlap then t / (j.tl.liveAcc / 2) else 0
  let sets := if w.block.isNone || !j.tl.overlap then true else (set != w.set) == fresh
  let due := if w.due.head? = some b1 then w.due else w.due.drop 1
  if !j.tl.ordered || (sets && due.head? == some b1 && (!fresh || w.live.all (fun v => v.steps == j.tl.ks))) then
    some { w with block := some b0, set := set, due := due }
  else none

/-- MMA and MMAZ: the next K-steps of one tile, out of the slots that hold them, within one level-0 block (R154, R158). -/
def TileJob.multiply (j : TileJob) (b : Nat) (w : TileWalk) : Option TileWalk :=
  let t := mTile b
  let nk := mNk b
  match sget none w.slots (slotKey 0 (mAbuf b) (mApstep b)), sget none w.slots (slotKey 1 (mBbuf b) (mBpstep b)) with
  | some p, some q =>
    let old := w.run t
    let free := match old with | none => true | some r => r.drained
    let again := (p.tile, q.tile) ∈ w.out ∨ w.live.any (fun r => r.m == p.tile && r.n == q.tile)
    let step := if mOp b = 2 then 0 else match old with | none => j.tl.ks | some r => r.steps
    let same := match old with | none => false | some r => r.m == p.tile && r.n == q.tile && !r.drained
    let starts := free && decide (p.tile ∈ j.tl.shareM j.x) && decide (0 < j.extM p.tile) && decide (q.tile ∈ j.tl.shareN j.x) && !decide again
    if p.step = step ∧ q.step = step ∧ step + nk ≤ j.tl.ks ∧ (if mOp b = 2 then starts else same) = true ∧
        w.holds 0 (mAbuf b) (mApstep b) nk p = true ∧ w.holds 1 (mBbuf b) (mBpstep b) nk q = true ∧
        j.block0 p.tile q.tile step = j.block0 p.tile q.tile (step + nk - 1) then
      (j.enter p.tile q.tile step t w).map (fun w => { w with runs := sset none w.runs t (some ⟨p.tile, q.tile, step + nk, false⟩) })
    else none
  | _, _ => none

/-- LDP: a tile's next K-steps over their extent, none of it where an LDC has put something (R153, R160). -/
def TileJob.load (j : TileJob) (b : Nat) (w : TileWalk) : Option TileWalk :=
  match w.loads with
  | [] => none
  | t :: r =>
    let ext := if lSide b = 0 then j.extM t.tile else j.extN t.tile
    let block := w.moved.isEmpty ||
      (makeLdp w.x b).grans.all (fun g => !w.moved.any (fun v => overlaps g 32 v.1 v.2))
    if lRows b = ext ∧ lKlast b = j.extK t.step (lNk b) ∧ block = true then
      some { w with
        loads := r
        slots := (List.range (lNk b)).foldl (fun l i =>
          sset none l (slotKey (lSide b) (lBuf b) (lPstep b + i)) (some ⟨t.tile, t.step + i⟩)) w.slots }
    else none

/-- What a bundle writes to index registers (R95). -/
def idxResults (x : Arr) (b : Nat) (c : Bool) : List (Nat × Reg32) :=
  (if c && lOp b == 1 && lInc b then [(4 * lQuad b + 3, x.ir (4 * lQuad b + 3) + BitVec.ofNat 32 (lNk b))] else []) ++
  (if c && (lOp b == 2 || lOp b == 3) && lMoveInc b then
    [lSreg b, lCreg b].map (fun r => (r, x.ir r + BitVec.ofNat 32 (32 * lLen b))) else []) ++
  (if c && decide (0x20 ≤ vOp b) then [(vD b, idxValue (vOp b) x b)] else []) ++
  (if cOp b = 1 then [(cCnt b, x.ir (cCnt b) - 1)] else [])

/-- The bundle after one (R91, R110). -/
def nextBundle (x : Arr) (b pc : Nat) : Nat :=
  if cOp b = 1 then (if x.ir (cCnt b) - 1 = 0 then pc + 1 else cLoopTarget b)
  else if cOp b = 2 then (if (x.ir (cCnt b) == 0) != cNeg b then cBrTarget b else pc + 1)
  else pc + 1

/-- The work of a bundle: the drain of a tile before the matrix work that may begin the next one in it, that before the load of a slot
which it reads. -/
def TileJob.bundle (j : TileJob) (b : Nat) (w : TileWalk) : Option TileWalk :=
  let c := w.x.cond b
  let w1 := if c ∧ dOp b = 1 then j.drain b w else some w
  let w2 := if c ∧ (mOp b = 1 ∨ mOp b = 2) then w1.bind (j.multiply b) else w1
  let w3 := if c ∧ lOp b = 1 then w2.bind (j.load b) else w2
  w3.map (fun v => if c ∧ lOp b = 2 then { v with moved := ((v.x.ir (lSreg b)).toNat, 32 * lLen b) :: v.moved } else v)

/-- STOP stands at the first level-0 block boundary at which the segment has reached 1,000,000 A-cycles, and nowhere else: the bundle
before the next block's first matrix work closes it (R159). -/
def TileWalk.closesRight (v w : TileWalk) : Bool := w.stop == (decide (v.block ≠ w.block) && decide (1000000 ≤ w.seg))

/-- The run has done its work: every tile of the share in extent is drained. -/
def TileJob.over (j : TileJob) (w : TileWalk) : Bool :=
  w.loads.isEmpty && w.live.all (·.drained) && w.out.length == j.tl.issued j.z j.x * (j.tl.shareN j.x).length &&
    (!j.tl.ordered || decide (w.due.length ≤ 1))

/-- A run from a bundle to its HALT. -/
def TileJob.walk (j : TileJob) (img : Bytes) : Nat → TileWalk → Bool
  | 0, _ => false
  | f + 1, w =>
    let b := imgBundle img w.pc
    if imgCount img ≤ w.pc then false
    else match j.bundle b w with
      | none => false
      | some v =>
        v.closesRight w &&
          (if cOp b = 5 then j.over v
           else j.walk img f { v with
             pc := nextBundle w.x b w.pc
             x := (idxResults w.x b (w.x.cond b)).foldl (fun x r => x.setIr r.1 r.2) w.x
             seg := (if w.stop then 0 else w.seg) + hLen b + 1
             stop := hStop b })

/-- A run at its first bundle, the presets in the index registers (R88). -/
def TileJob.begin (j : TileJob) (img : Bytes) (loads : List LoadTag) : TileWalk := {
  pc := imgEntry img
  x := (List.range 32).foldl (fun x r => x.setIr r (BitVec.ofNat 32 (imgPreset img r))) Arr.init
  seg := 0, stop := false, loads := loads, slots := [], runs := [], block := none, set := 0
  due := j.tl.blocks j.z j.x, out := [], moved := [] }

/-- An image that the tiler makes: LIVE_ACC is the tiling's, HALT stands last, and the run does the work. -/
def TileJob.fits (j : TileJob) (img : Bytes) (loads : List LoadTag) : Bool :=
  imgLiveAcc img == j.tl.liveAcc && cOp (imgBundle img (imgCount img - 1)) == 5 && (checkImage img false).isNone &&
    j.walk img (2 ^ 26) (j.begin img loads)

/-- The images of a DISPATCH are the tiler's. -/
def Tiling.fits (tl : Tiling) (z : Shape) (n k : Nat) (arrays : List Nat) (loads : List (List LoadTag)) (images : Store Bytes) : Bool :=
  (issuedArrays tl z arrays).all (fun a => TileJob.fits ⟨tl, z, n, k, a.2⟩ (sget [] images a.1) (loads.getD a.2 []))

end Sys2Proof.Machine
end

