-- ==== Sys2Proof/Machine/Dispatching.lean ====
section
/-! DEFINITION. DISPATCH and its completion (R125, R128 to R131, R149, R150, R157, R161, R185, R254, R259). -/

namespace Sys2Proof.Machine

/-! ## What a DISPATCH is given -/

/-- A tenant without the resource that a re-binding takes (R141). -/
def Tenant.without (y : Tenant) (j : RebindJob) : Tenant :=
  if j.kind = 0 then { y with bindAry := setBit y.bindAry j.item false }
  else if j.kind = 1 then y.loseCon j.mib.2 j.mib.1
  else if j.kind = 2 then { y with bindAtp := setBit y.bindAtp j.item false }
  else if j.kind = 3 then { y with ranges := sset MemRange.init y.ranges j.item MemRange.init }
  else y

/-- The binding that a new DISPATCH is tiled for: without what a re-binding takes (R141). -/
def State.staying (s : State) (t : Nat) : Tenant := (s.leavingJobs t).foldl Tenant.without (s.tenant t)

def State.tileArrays (s : State) (t : Nat) : List Nat := (s.staying t).arrays

def State.tilePipes (s : State) (t : Nat) : List Nat :=
  (List.range 16).filter (fun p => (s.staying t).bindAtp.getLsbD p)

/-- The buckets of a DISPATCH: for a ragged kernel from its length list, which is packed, else from SEQ and BATCH (R129, R161). Lists
outside R161's ranges: an empty one, and one with a length above the largest bucket, have no kernel, and a length of 0 beside others is
placed like any (DESIGN CHOICE, notes/assumptions/67.md). -/
def bucketsOf (k : KernelEntry) (seq batch : Nat) (lengths : List Nat) : Except (BitVec 16) (Nat × Nat × List Place) :=
  let ragged := twRagged k.tiling
  let long := if ragged then lengths.foldl max 0 else seq
  match bucketOf seqBuckets k.seqs long with
  | none => .error Code.kernelMissing
  | some b =>
    let packing := if ragged then packLengths b lengths else []
    let rows := if ragged then packRows packing else batch
    if ragged && decide (32 < rows) then .error Code.raggedOverflow
    else match bucketOf batchBuckets k.batches rows with
      | none => .error Code.kernelMissing
      | some c => .ok (b, c, packing)

/-- The shape in use within the buckets (R160, R161). -/
def shapeOf (k : KernelEntry) (seq batch bucket : Nat) (packing : List Place) : Shape :=
  if twRagged k.tiling then ⟨bucket, bucket, packRows packing⟩ else ⟨bucket, seq, batch⟩

/-- A write of keys and values to tokens of a sequence is refused (R183, R185); a layer that the sequence does not have counts as a
token that it does not have (notes/assumptions/49.md). -/
def kvWriteFails (t : Nat) (w : KvWrite) (s : State) : Option (BitVec 16) :=
  match s.kvSeq t w.handle with
  | none => some Code.kvHandle
  | some v =>
    let h := readHdr t v.addr s
    let es := readEntries t v.addr 0 h.length s
    let ok (j : Nat) : Bool := match pageAt es 0 j with
      | none => false
      | some (i, e, _) => if h.seals then v.unsealed.contains i else !e.spilled
    if w.layer < h.layers ∧ w.first + w.tokens ≤ h.tokens ∧ (List.range w.tokens).all (fun i => ok (w.first + i)) then none
    else some Code.kvWriteRange

/-- The model address of a token's keys or values in one layer and head of a sequence: in its tail slot while its page is unsealed, else
in its page (R176, R178, R185). -/
def kvPlace (v : KvSeq) (h : KvHdr) (es : List KvEntry) (layer head : Nat) (value : Bool) (token : Nat) : Option Nat :=
  (pageAt es 0 token).map (fun e =>
    (if v.unsealed.contains e.1 then h.slotBase (v.slot h e.1) else h.pageBase e.2.1) +
      (sliceSpans h 1 e.2.1.tokens (h.slice layer head value) e.2.2).1.1)

/-- The part of a span outside another. -/
def spanLess (a n b m : Nat) : List (Nat × Nat) :=
  if !overlaps a n b m then [(a, n)]
  else (if a < b then [(a, b - a)] else []) ++ (if b + m < a + n then [(b + m, a + n - (b + m))] else [])

/-- The model bytes that a transfer reads. -/
def moveReads : Move → List (Nat × Nat)
  | .memToCon m _ n => [(m, n)]
  | _ => []

/-- A span of model memory that a DISPATCH's descriptors read has been read. -/
def Dispatch.haveRead (l : List (Nat × Nat)) (d : Dispatch) : Dispatch :=
  { d with reads := l.foldl (fun rs r => rs.flatMap (fun x => spanLess x.1 x.2 r.1 r.2)) d.reads }

/-- The first model address that a DISPATCH would read of a poisoned shard (R259). -/
def poisonedRead (c : Copy) (reads : List (Nat × Nat)) : Option Nat :=
  c.shards.findSome? (fun h =>
    if !h.poisoned then none
    else (reads.find? (fun r => overlaps r.1 r.2 (c.base + h.offset) h.length)).map (fun r => max r.1 (c.base + h.offset)))

/-! ## The plan cache and resident plans (R149, R150) -/

/-- The key of a plan-cache entry. -/
def planKey (c : Copy) (kernel sb bb arrays pipes : Nat) : List Nat :=
  [leNat (c.digest.take 8), kernel, sb, bb, arrays, pipes]

/-- A lookup in the cache of the tenant's planner, counted: the entry found, else a fresh one, is now the most recently used of 4,096
(R149, R162). -/
def cacheLookup (t : Nat) (fresh : PlanEntry) (s : State) : PlanEntry × State :=
  let core := (s.tenant t).planner.toNat
  let l := sget [] s.sec.caches core
  let hit := l.find? (fun e => e.key == fresh.key)
  let s1 := s.modTenant t (fun y =>
    if hit.isSome then { y with pcHit := satAdd y.pcHit 1 } else { y with pcMiss := satAdd y.pcMiss 1 })
  let v := hit.getD fresh
  (v, { s1 with sec := { s1.sec with
    caches := sset [] s1.sec.caches core ((v :: l.filter (fun e => e.key != fresh.key)).take 4096) } })

/-- A plan stored in a resident slot, unless it is larger than 1 MiB: that a write fails there is the DISPATCH's fault, with the model
address (R150, R199). -/
def pinPlan (t slot : Nat) (v : PlanEntry) (s : State) : Option (BitVec 16 × Nat) × State :=
  let bytes := Config.residentPlan v.key
  let addr := (s.tenant t).res.toNat + slot * 2 ^ 20
  if 2 ^ 20 < bytes.length then (none, s)
  else match modelWrite t addr (unmarked bytes) s with
    | .error c => (some (c, addr), writeFault t addr c s)
    | .ok s1 => (none, s1.modTenant t (fun y => { y with resident := sset none y.resident slot (some v) }))

/-- The cache, the resident slot, or both (R150): the plan, what went wrong in pinning it, the state. -/
def planPath (t : Nat) (w1 : BitVec 64) (fresh : PlanEntry) (s : State) : PlanEntry × Option (BitVec 16 × Nat) × State :=
  let slot := pf w1 61 56
  let use := w1.getLsbD 62
  match (sget none (s.tenant t).resident slot).filter (fun v => use && v.key == fresh.key) with
  | some v => (v, none, s)
  | none =>
    let (v, s1) := cacheLookup t fresh s
    if use || w1.getLsbD 63 then (v, pinPlan t slot v s1) else (v, none, s1)

/-- The plan that the tiler makes, with the images it emits (R149, R158, R162). -/
def freshPlan (key : List Nat) (tl : Option Tiling) (tiles : List TileImage) : PlanEntry := ⟨key, tl, if tl.isSome then tiles else []⟩

/-! ## DISPATCH -/

/-- Arrays as a mask. -/
def maskOf (l : List Nat) : BitVec 64 := BitVec.ofNat 64 ((l.map (fun a => 2 ^ a)).sum)

/-- The SH fields of the context take effect, and the sequence number rises (R130). -/
def Tenant.atIssue (y : Tenant) : Tenant :=
  { y with
    seed := y.seedShadow
    dseq := y.dseq + 1
    scales := smap ScaleSlot.init y.scales (fun _ v => { v with window := v.windowShadow }) }

/-- A DISPATCH found in order: its copy, kernel, shape in use and packing, its plan, what pinning the plan met, the state after. -/
structure Dispatchable where
  copy : Fin 4
  kernel : KernelEntry
  shape : Shape
  packing : List Place
  plan : PlanEntry
  bad : Option (BitVec 16 × Nat)
  s : State

/-- The faults found at the point of issue, in order, with the address of PLAN_RANGE: COPY_STATE, KERNEL_MISSING, PLAN_RANGE, RAGGED_OVERFLOW,
TILING_NONE, the key-value writes (R129, R130, R157, R161, R185). -/
def planDispatch (e : Emission) (t q : Nat) (w0 w1 : BitVec 64) (s : State) : Except (BitVec 16 × Nat) Dispatchable :=
  let y := s.staying t
  match (s.queue t q).batch.bind (·.copy) with
  | none => .error (Code.copyState, 0)
  | some c =>
    match (y.copy c.val).kernels.find? (fun k => k.kernel.toNat == pf w0 47 32) with
    | none => .error (Code.kernelMissing, 0)
    | some k =>
      let args := pf w1 47 0
      let seq := pf w0 31 16
      let batch := pf w0 15 10
      let early := if twRagged k.tiling then none else
        match bucketsOf k seq batch [] with | .error c => some c | .ok _ => none
      match early with
      | some c => .error (c, 0)
      | none =>
        if !y.inRanges args (max 64 e.argsLen) then .error (Code.planRange, args)
        else match bucketsOf k seq batch e.lengths with
          | .error c => .error (c, 0)
          | .ok (sb, bb, packing) =>
            let n := (s.tileArrays t).length
            let tl := if k.matrix then tile k (sb * bb) n else none
            if k.matrix && (tl.isNone || decide (y.conSize.toNat < twConNeed k.tiling)) then .error (Code.tilingNone, 0)
            else match e.kvWrites.findSome? (fun w => kvWriteFails t w s) with
              | some c => .error (c, 0)
              | none =>
                let key := planKey (y.copy c.val) (pf w0 47 32) sb bb n (s.tilePipes t).length
                let (plan, bad, s1) := planPath t w1 (freshPlan key tl e.tiles) s
                .ok ⟨c, k, shapeOf k seq batch sb packing, packing, plan, bad, s1⟩

/-- The images of a plan for a DISPATCH, by array. -/
def Dispatchable.images (r : Dispatchable) (t : Nat) (e : Emission) : Store Bytes :=
  match r.plan.tiling with
  | none => []
  | some tl => planImages tl r.shape r.kernel.n r.kernel.k (r.s.tileArrays t) e.presets r.plan.tiles

/-- The images are what the tiler makes of the plan (R153 to R160); those of a kernel that is not tiled are the package's. -/
def Dispatchable.fits (r : Dispatchable) (t : Nat) (e : Emission) : Bool :=
  match r.plan.tiling with
  | none => true
  | some tl => tl.fits r.shape r.kernel.n r.kernel.k (r.s.tileArrays t) e.loads (r.images t e)

/-- A DISPATCH issues: its images, legs and descriptors are to be done. -/
def issueDispatch (t q : Nat) (p : Presented) (e : Emission) (r : Dispatchable) : State :=
  let arrays := r.s.tileArrays t
  let z := r.shape
  let images := r.images t e
  let s1 := issueOpen t q p (r.s.modTenant t Tenant.atIssue)
  let y := s1.tenant t
  let lost := poisonedRead (y.copy r.copy.val) e.reads
  let fault := r.bad.or (lost.map (fun a => (Code.digestMismatch, a)))
  let d : Dispatch := {
    id := r.s.dispNext, tenant := t, q := q, idx := p.idx, cls := y.cls, seed := y.seed, dseq := y.dseq
    kernel := BitVec.ofNat 16 (pf p.w0 47 32), copy := some r.copy, arrays := maskOf arrays, tiling := r.plan.tiling
    images := images, packing := r.packing, started := none
    imagesLeft := if r.plan.tiling.isSome then images.map (·.1)
      else (e.images.map (fun a => a.val)).filter (fun a => arrays.contains a)
    legsLeft := e.legs.length
    blocks1 := match r.plan.tiling with
      | none => []
      | some tl => (issuedArrays tl z arrays).map (fun a => (a.1, tl.level1 z a.2))
    blocks2 := match r.plan.tiling with | none => 0 | some tl => tl.level2 z
    descsLeft := e.descs
    fault := fault.map (fun f => (f.1, BitVec.ofNat 64 (f.2 * 65536 + unitNone))), discard := fault.isSome
    scales := [], windows := (List.range 16).foldl (fun m k => sset 0x10 m k (y.scale k).window) [], amax := []
    reads := e.reads, kvWrites := e.kvWrites, peer := r.kernel.peer
    usesLegs := !e.legs.isEmpty
    usesMem := !e.legs.isEmpty || e.descs != 0 || !e.kvWrites.isEmpty || (match r.plan.tiling with | none => false | some tl => tl.level2 z != 0) }
  let s2 := s1.modQueue t q (fun y => { y with batch := y.batch.map (fun b => { b with pendingDispatches := b.pendingDispatches + 1 }) })
  { s2 with
    disp := s2.disp ++ [d]
    dispNext := s2.dispNext + 1
    kv := { s2.kv with legs := s2.kv.legs ++ e.legs.map (fun pd => ⟨pd, t, y.cls, d.id⟩) } }

def dispatchBody (e : Emission) (t q : Nat) (p : Presented) (s : State) : State :=
  match planDispatch e t q p.w0 p.w1 s with
  | .error c => failUnissued t q p c.1 c.2 0 s
  | .ok r => issueDispatch t q p e r

/-- A DISPATCH that issues is given what the tiler may make of it. -/
def State.emits (s : State) (t q : Nat) (w0 w1 : BitVec 64) (e : Emission) : Bool :=
  let s0 := taken t q s
  match s.presented? t q w0 w1 with
  | none => true
  | some p =>
    (planCheck (s0.tenant t) w0 w1).isSome || !issueReady s0 t q p ||
      (match planDispatch e t q w0 w1 s0 with
       | .error _ => true
       | .ok r => r.fits t e)

/-- DISPATCH (R129): `e` is what the package's kernel makes of it. -/
def execDispatch (t : Ten) (q : Que) (w0 w1 : BitVec 64) (e : Emission) (s : State) : Host.Outcome State Fault Refusal :=
  .next (present t q w0 w1 (pOp w0 == 0x01 && s.emits t.val q.val w0 w1 e) (dispatchBody e t.val q.val) s)

/-! ## DISPATCH_COMPLETE (R56, R128, R131) -/

/-- Something of a DISPATCH still runs. -/
def State.runsStill (s : State) (id : Nat) : Bool :=
  s.ary.any (fun e => match e.2.active with | none => false | some i => (e.2.slot i.val).disp == some id) ||
    s.pipe.any (fun e => match e.2.leg with | none => false | some g => g.req.disp == id)

/-- A DISPATCH has come to its end: all its work has, or, discarded, what ran. -/
def State.dispatchOver (s : State) (d : Dispatch) : Bool :=
  s.disp.all (fun e => decide (d.id ≤ e.id) || e.tenant != d.tenant || e.q != d.q) && !s.runsStill d.id &&
    (d.discard || (d.imagesLeft.isEmpty && d.legsLeft == 0 && d.blocks1.all (fun b => b.2 == 0) && d.blocks2 == 0 &&
      d.descsLeft == 0))

/-- Nothing of a DISPATCH is left on arrays, pipelines or lists. -/
def clearDispatch (id : Nat) (s : State) : State :=
  endWalks (fun w => w.disp == id) { s with
    disp := s.disp.filter (fun d => d.id != id)
    ary := smap Arr.init s.ary (fun a x =>
      let y := { x.dropImages (some id) with amax := (List.range 16).foldl (fun m k => sdel m (id * 16 + k)) x.amax }
      if y.active.isNone && y.st == .loaded then { y with st := y.restState (s.aryTenant a).isSome } else y)
    kv := { s.kv with legs := s.kv.legs.filter (fun r => r.disp != id) } }

/-- The amaxes of a DISPATCH enter the slots' histories (R56). -/
def recordAmax (d : Dispatch) (s : State) : State :=
  let all := (s.ary.foldl (fun d e => d.harvest e.2) d).amax
  s.modTenant d.tenant (fun y => all.foldl (fun y e =>
    { y with scales := supd ScaleSlot.init y.scales e.1 (fun v => { v with hist := (e.2 :: v.hist).take 16 }) }) y)

/-- An issued DISPATCH after a faulted one of its queue is discarded (R131). It leaves the queue without a completion record, and
DBL_HEAD stays past it (DESIGN CHOICE, notes/assumptions/67.md). -/
def discardNext (t q : Nat) (s : State) : State :=
  (s.disp.filter (fun d => d.tenant == t && d.q == q)).foldl (fun s d =>
    (clearDispatch d.id s).modQueue t q (fun y =>
      { y.dropDispatch with issued := trimIssued (y.issued.filter (fun e => !(e.idx == d.idx && e.status.isNone))) })) s

/-- Codes that a DISPATCH's completion itself records; the others were when their cause arose. -/
def loggedAtEnd (c : BitVec 16) : Bool := c == Code.rebindLost || c == Code.digestMismatch

/-- DISPATCH_COMPLETE (R131, R135): the record tells the time since its first start, or its first fault and the unit. -/
def execDispatchComplete (d : Nat) (s : State) : Host.Outcome State Fault Refusal :=
  match s.dispatch? d with
  | none => .next s
  | some x =>
    if !s.dispatchOver x then .next s
    else
      let s1 := (clearDispatch d (recordAmax x s)).modQueue x.tenant x.q Queue.dropDispatch
      let time := match x.started with | none => 0 | some b => s.glb.devTime - b
      match x.fault with
      | none => .next (complete x.tenant x.q x.idx 0 (BitVec.ofNat 64 time) 0 unitNone true s1)
      | some f =>
        let s2 := discardNext x.tenant x.q s1
        .next (complete x.tenant x.q x.idx f.1 (BitVec.ofNat 64 time) (f.2.toNat / 65536) (f.2.toNat % 65536)
          (loggedAtEnd f.1) s2)

end Sys2Proof.Machine
end

