-- ==== Sys2Proof/Machine/Memory.lean ====
section
/-! DEFINITION. The shunter: granule moves, migration by command and by policy, heat; cleared granules; yard page accesses, stacked
memory errors, patrol scrub and row repair, live calibration (R199 to R207, R214 to R226). -/

namespace Sys2Proof.Machine

/-! ## Granule moves (R203, R204, R206) -/

/-- RATE as the shunter takes it: GB/s (MTC_POLICY). -/
def Mtc.gbs (m : Mtc) : Nat := max 1 (min 128 m.rate.toNat)

/-- The bytes counted towards RATE, carried to the 1 ms that device time is in (R203). -/
def Mtc.rateNow (now : Nat) (m : Mtc) : Mtc :=
  { m with rateTime := now / ms, rateBytes := m.rateBytes - (now / ms - m.rateTime) * (m.gbs * 1000000) }

/-- A further granule may move within RATE in this 1 ms; one alone always may. -/
def Mtc.rateAllows (m : Mtc) : Bool :=
  m.rateBytes == 0 || decide (m.rateBytes + granuleBytes ≤ m.gbs * 1000000)

/-- What a waiting move meets when its turn comes: it waits for an earlier move of its granule, starts with these two places, or is
not made (R206, R207). -/
inductive Turn where
  | wait
  | go (src : Loc)
  | no
deriving DecidableEq, Repr

def State.turn (s : State) (v : GMove) : Turn :=
  let r := ((s.tenant v.tenant).rangeOf v.g).getD MemRange.init
  let keyed := (s.tenant v.tenant).mkSlot.isSome || (s.firstKey v.tenant).isSome
  let into (src : Loc) : Turn :=
    if v.toYard && src.yard && v.why != .repair then .no
    else if !v.toYard && !src.yard && v.why != .repair then .no
    else if v.why = .repair then .go src
    else if v.toYard then (if r.allowsYard && keyed && s.mtc.yardFree != 0 then .go src else .no)
    else (if r.allowsStacked && s.mtc.stkFree != 0 then .go src else .no)
  match (s.mtc.granule v.tenant v.g).st with
  | .zeroFill _ => .no
  | .moving _ _ => .wait
  | .stacked p => into ⟨false, p⟩
  | .yard p => into ⟨true, p⟩
  | .retired p => into ⟨false, p⟩

/-- A move not made leaves the queue; that of a command is declined (R207). -/
def dropMove (v : GMove) (s : State) : State :=
  let n := match v.why with | .command _ _ => 1 | _ => 0
  settleMigrates v.tenant { s with mtc := { s.mtc with moves := s.mtc.moves.erase v, declined := satAdd s.mtc.declined n } }

/-- Moves at the front of the queue that cannot be made leave it. -/
def trimMoves (s : State) : State :=
  s.mtc.moves.foldl (fun acc v =>
    if acc.2 || v.running then acc
    else match acc.1.turn v with
      | .no => (dropMove v acc.1, false)
      | _ => (acc.1, true)) (s, false) |>.1

/-- A spare granule taken (R193, R206). -/
def Mtc.takeSpare (m : Mtc) : Option (Nat × Mtc) :=
  if m.spares = 0 then none
  else match m.spareBack with
    | p :: r => some (p, { m with spareBack := r, spares := m.spares - 1 })
    | [] => some (stackedPool m.yardGiB + (64 - m.spares.toNat), { m with spares := m.spares - 1 })

/-- The new physical granule of a move; MIGRATE to stacked memory sets heat to 255 (R202, R204). -/
def beginMove (v : GMove) (src : Loc) (s : State) : State :=
  let got : Option (Nat × State) :=
    if v.why = .repair ∧ !src.yard then s.mtc.takeSpare.map (fun r => (r.1, { s with mtc := r.2 }))
    else if v.toYard then takeYardFor v.tenant s
    else s.mtc.takeStacked.map (fun r => (r.1, { s with mtc := r.2 }))
  match got with
  | none =>
    let s1 := dropMove v s
    if v.why = .repair then record Code.granuleRetired (some v.tenant) unitNone 0 (granuleBytes * v.g) s1 else s1
  | some (p, s1) =>
    let old := s1.mtc.granule v.tenant v.g
    let heat := match v.why with
      | .command _ _ => if v.toYard then old.heat else 0xFF
      | _ => old.heat
    let m := s1.mtc.setGranule v.tenant v.g { old with st := .moving src ⟨v.toYard, p⟩, heat := heat }
    { s1 with mtc := { m with moves := m.moves.map (fun x => if x = v then { x with running := true } else x) } }

/-- Yard granules with a frame at its last EPOCH are retired: a move to another yard granule is put first (R218). -/
def queueWorn (s : State) : State :=
  let worn := s.mtc.map.filterMap (fun e => match e.2.st with
    | .yard p => if s.mtc.wornFrame p && !s.mtc.bad.contains (2 ^ 32 + p) then some (e.1, p) else none
    | _ => none)
  { s with mtc := { s.mtc with
    bad := s.mtc.bad ++ worn.map (fun e => 2 ^ 32 + e.2)
    moves := worn.map (fun e => (⟨e.1 / 2 ^ 27, e.1 % 2 ^ 27, true, .repair, false⟩ : GMove)) ++ s.mtc.moves } }

/-- A failing stacked granule moves to a spare at once, the shunter taking its policy's SH fields as for any move; with none left it stays
in use, and the event says so. While SHUNT is held the move waits (R206, R227, R304). -/
def retireGranule (t g p : Nat) (s : State) : State :=
  if p ∈ s.mtc.bad then s
  else
    let m := { s.mtc with bad := s.mtc.bad ++ [p], granCe := sdel s.mtc.granCe p }
    match (m.granule t g).st with
    | .stacked _ =>
      if m.spares = 0 then
        record Code.granuleRetired (some t) unitNone 0 (granuleBytes * g)
          { s with mtc := m.setGranule t g { m.granule t g with st := .retired p } }
      else
        let v : GMove := ⟨t, g, false, .repair, false⟩
        let s1 := { s with mtc := { m with moves := v :: m.moves } }
        if s.compHeld .shunt then s1 else beginMove v ⟨false, p⟩ { s1 with mtc := s1.mtc.takePolicy }
    | _ => { s with mtc := m }

/-- A move under way is given up: the granule stays in its old place, the new one is free. A move of a command is declined; that of a
stacked granule which was retired meanwhile, or is being moved to a spare, is put again (R206). -/
def abandonMove (v : GMove) (s : State) : State :=
  let g := s.mtc.granule v.tenant v.g
  match g.st with
  | .moving src dst =>
    let m := (s.mtc.giveBack dst).setGranule v.tenant v.g { g with st := if src.yard then .yard src.p else .stacked src.p }
    let s1 := { s with mtc := m }
    if v.why = .repair then
      { s1 with mtc := { m with moves := m.moves.map (fun x => if x = v then { x with running := false } else x) } }
    else
      let s2 := dropMove v s1
      if src.yard ∨ src.p ∉ s2.mtc.bad then s2
      else retireGranule v.tenant v.g src.p { s2 with mtc := { s2.mtc with bad := s2.mtc.bad.erase src.p } }
  | _ => dropMove v s

/-- GRANULE_MOVE (R204, R206, R227): the next waiting move starts, while none runs and RATE allows it. -/
def execGranuleMove (s : State) : Host.Outcome State Fault Refusal :=
  if s.compHeld .shunt || s.mtc.moves.any (·.running) then .next s
  else
    let s0 := trimMoves (queueWorn { s with mtc := s.mtc.rateNow s.glb.devTime })
    match s0.mtc.moves.find? (fun v => s0.turn v != .wait) with
    | none => .next s0
    | some v =>
      match s0.turn v with
      | .go src =>
        if v.why != .repair && !s0.mtc.takePolicy.rateAllows then .next { s0 with mtc := { s0.mtc with throttled := true } }
        else .next (beginMove v src { s0 with mtc := { s0.mtc.takePolicy with
          throttled := false, rateBytes := s0.mtc.rateBytes + granuleBytes } })
      | _ => .next (dropMove v s0)

/-- GRANULE_SWITCH (R204, R205): the running move's copy is complete, the map entry names the new granule, the old one is free. A move
to the yard whose tenant has lost its keys meanwhile is not made (R200). With SHUNT held none runs (R304). -/
def execGranuleSwitch (s : State) : Host.Outcome State Fault Refusal :=
  match s.mtc.moves.find? (fun v => v.running && !s.compHeld .shunt) with
  | none => .next s
  | some v =>
    let g := s.mtc.granule v.tenant v.g
    let ended (s : State) : State :=
      trimMoves (settleMigrates v.tenant { s with mtc := { s.mtc with moves := s.mtc.moves.erase v } })
    match g.st with
    | .moving src dst =>
      (match switchGranule v.tenant v.g src dst s with
       | some s1 => .next (ended s1)
       | none => .next (trimMoves (abandonMove v s)))
    | _ => .next (ended s)

/-! ## MIGRATE and PREFETCH (R207, R208) -/

/-- Moves of named granules to a tier, in ascending order; with SHUNT held every one is declined (R304). -/
def migrateBody (t q : Nat) (p : Presented) (gs : List Nat) (toYard : Bool) (s : State) : State :=
  if s.compHeld .shunt then
    issueDone t q p 0 { s with mtc := { s.mtc with declined := satAdd s.mtc.declined gs.length } }
  else
    let s1 := (issueOpen t q p s).modTenant t (fun y => { y with migrates := y.migrates ++ [⟨q, p.idx, none⟩] })
    let new := gs.map (fun g => (⟨t, g, toYard, .command q p.idx, false⟩ : GMove))
    settleMigrates t (trimMoves { s1 with mtc := { s1.mtc with moves := s1.mtc.moves ++ new } })

def execMigrate (t : Ten) (q : Que) (w0 w1 : BitVec 64) (s : State) : Host.Outcome State Fault Refusal :=
  .next (present t q w0 w1 (pOp w0 == 0x22) (fun p s =>
    migrateBody t.val q.val p ((List.range (pf w0 15 0 + 1)).map (pf w1 47 21 + ·)) (pf w0 47 46 == 1) s) s)

/-- PREFETCH: as MIGRATE to stacked memory, or a copy to the partition that a level-2 transfer makes; no bytes are resident at once. -/
def prefetchBody (t q : Nat) (p : Presented) (s : State) : State :=
  let src := pf p.w1 47 0
  let n := pf p.w0 29 0
  let con := pf p.w0 45 30 * 4096
  if pf p.w0 47 46 = 0 then migrateBody t q p (granulesOf src n) false s
  else if (s.tenant t).conSize.toNat * 2 ^ 20 < con + n then failUnissued t q p Code.conRange src 0 s
  else if n = 0 then issueDone t q p 0 s
  else (issueOpen t q p s).modTenant t (fun y => { y with migrates := y.migrates ++ [⟨q, p.idx, some (src, con, n)⟩] })

def execPrefetch (t : Ten) (q : Que) (w0 w1 : BitVec 64) (s : State) : Host.Outcome State Fault Refusal :=
  .next (present t q w0 w1 (pOp w0 == 0x24) (prefetchBody t.val q.val) s)

/-! ## Heat and policy (R202, R203) -/

/-- HEAT_DECAY (R202): every 100 ms every heat is halved. -/
def execHeatDecay (s : State) : Host.Outcome State Fault Refusal :=
  if s.glb.devTime < s.mtc.heatTime + 100 * ms then .next s
  else .next { s with mtc := { s.mtc with
    heatTime := s.glb.devTime
    map := smap Granule.init s.mtc.map (fun _ (v : Granule) => { v with heat := v.heat >>> 1 }) } }

/-- A granule that the policy weighs: tenant, number, heat. -/
structure Cand where
  tenant : Nat
  g : Nat
  heat : Nat
deriving DecidableEq, Repr

/-- Granules in one tier whose range, and for the yard whose tenant's key, lets them move to the other; none that has a move to
come. Ascending by tenant and address. -/
def State.candidates (s : State) (yard : Bool) : List Cand :=
  s.mtc.map.filterMap (fun e =>
    let t := e.1 / 2 ^ 27
    let g := e.1 % 2 ^ 27
    let r := ((s.tenant t).rangeOf g).getD ⟨0, 3, 0⟩
    let keyed := (s.tenant t).mkSlot.isSome || (s.firstKey t).isSome
    let fits := match e.2.st with
      | .stacked _ => !yard && r.allowsYard && keyed
      | .retired _ => !yard && r.allowsYard && keyed
      | .yard _ => yard && r.allowsStacked
      | _ => false
    if fits && !s.mtc.moves.any (fun m => m.tenant == t && m.g == g) then some ⟨t, g, e.2.heat.toNat⟩ else none)

def coldest (l : List Cand) : Option Cand :=
  l.foldl (fun b c => match b with | none => some c | some x => if c.heat < x.heat then some c else b) none
def hottest (l : List Cand) : Option Cand :=
  l.foldl (fun b c => match b with | none => some c | some x => if x.heat < c.heat then some c else b) none

def Cand.move (c : Cand) (toYard : Bool) : GMove := ⟨c.tenant, c.g, toYard, .policy, false⟩

/-- The first loop of R203: demotions until 256 stacked granules are free. -/
def demotions : Nat → Nat → List Cand → List GMove × Nat × List Cand
  | 0, free, cold => ([], free, cold)
  | f + 1, free, cold =>
    if 256 ≤ free then ([], free, cold)
    else match coldest cold with
      | none => ([], free, cold)
      | some v =>
        let r := demotions f (free + 1) (cold.erase v)
        (v.move true :: r.1, r.2)

/-- The second loop of R203. -/
def promotions (hyst promote : Nat) : Nat → Nat → List Cand → List Cand → List GMove
  | 0, _, _, _ => []
  | f + 1, free, cold, hot =>
    match hottest hot with
    | none => []
    | some c =>
      if c.heat < promote then []
      else if 256 ≤ free then c.move false :: promotions hyst promote f (free - 1) cold (hot.erase c)
      else match coldest cold with
        | none => []
        | some v =>
          if v.heat + hyst ≤ c.heat then
            v.move true :: c.move false :: promotions hyst promote f free (cold.erase v) (hot.erase c)
          else []

/-- MIGRATION_POLICY_EVAL (R203, R227): every 1 ms, with AUTO set; policy moves that have not started are weighed anew. -/
def execMigrationPolicyEval (s : State) : Host.Outcome State Fault Refusal :=
  if s.glb.devTime < s.mtc.evalTime + ms ∨ s.compHeld .shunt then .next s
  else
    let m := if s.mtc.moves.any (·.running) then s.mtc else s.mtc.takePolicy
    if !m.auto then .next { s with mtc := { m with evalTime := s.glb.devTime } }
    else
      let m1 := { m with evalTime := s.glb.devTime, moves := m.moves.filter (fun x => x.running || x.why != .policy) }
      let s1 := { s with mtc := m1 }
      let cold := s1.candidates false
      let hot := s1.candidates true
      let d := demotions 256 m1.stkFree.toNat cold
      let up := promotions m1.hyst.toNat m1.promote.toNat (hot.length + 1) d.2.1 d.2.2 hot
      .next (trimMoves { s1 with mtc := { m1 with moves := m1.moves ++ d.1 ++ up } })

/-! ## Retirement of granules (R206, R225) -/

/-- A corrected error of a stacked granule: three within 24 hours retire it. -/
def noteGranCe (t g p : Nat) (s : State) : State :=
  let l := (sget [] s.mtc.granCe p).filter (fun x => decide (s.glb.devTime ≤ x + day)) ++ [s.glb.devTime]
  if 3 ≤ l.length then retireGranule t g p s
  else { s with mtc := { s.mtc with granCe := sset [] s.mtc.granCe p l } }

/-- STACKED_MEMORY_READ (R220, R225): `crcFails` transmissions in a row fail their link CRC, `ue` and `ce` are what the on-die ECC
reports. Three retries are made; the word that a read delivers as poison stays so until it is written
(notes/assumptions/39.md). -/
def execStackedMemoryRead (t : Ten) (addr : Nat) (crcFails : Nat) (ue ce : Bool) (s : State) :
    Host.Outcome State Fault Refusal :=
  let g := addr / granuleBytes
  match (s.mtc.granule t.val g).st.home with
  | none => .next s
  | some l =>
    if l.yard then .next s
    else
      let phys := granuleBytes * l.p + addr % granuleBytes
      let s1 := { s with mtc := { s.mtc with linkRetry := satAdd s.mtc.linkRetry (min crcFails 3) } }
      let s2 := if crcFails ≤ 3 then s1 else
        record Code.smLinkFail (some t.val) (unitChannel (phys / 512 % 64)) 0 addr
          { s1 with mtc := { s1.mtc with linkFail := satAdd s1.mtc.linkFail 1 }.noteFault Code.smLinkFail t.val addr }
      let s3 := if ue || decide (3 < crcFails) then
          { s2 with mtc := { s2.mtc with stkPoison := sset false s2.mtc.stkPoison (phys / 8) true } }
        else s2
      if ue then .next (retireGranule t.val g l.p s3)
      else if ce then .next (noteGranCe t.val g l.p s3)
      else .next s3

/-- ZERO_FILL_GRANULE_CLEARED (R143): the physical granule left in a zero-fill granule is cleared, and free. -/
def execZeroFillGranuleCleared (t : Ten) (g : Nat) (s : State) : Host.Outcome State Fault Refusal :=
  match (s.mtc.granule t.val g).st with
  | .zeroFill (some l) =>
    .next { s with mtc := (s.mtc.settleDirty (some l)).setGranule t.val g { s.mtc.granule t.val g with st := .zeroFill none } }
  | _ => .next s

/-! ## Yard pages (R214, R219) -/

/-- A model address that lies in the yard. -/
def State.inYardAt (s : State) (t addr : Nat) : Option Loc :=
  match (s.mtc.granule t (addr / granuleBytes)).st.home with
  | some l => if l.yard then some l else none
  | none => none

/-- YARD_PAGE_WRITE (R200, R212, R214): a page of the yard is packed, encrypted and tagged. -/
def execYardPageWrite (t : Ten) (addr : Nat) (page : Bytes) (s : State) : Host.Outcome State Fault Refusal :=
  if (s.inYardAt t.val addr).isNone || addr % 4096 != 0 || page.length != 4096 then .next s
  else match modelWrite t.val addr (unmarked page) s with
    | .ok s1 => .next s1
    | .error c => .next (writeFault t.val addr c s)

/-- Units of a page that fail for good. -/
def YPage.broken (units : List Nat) (p : YPage) : YPage := { p with lost := (p.lost ++ units).eraseDups }

/-- YARD_PAGE_READ (R214, R219): units received with errors on the first and the second reading, and whether the page's record is
uncorrectable. A unit that failed twice, or such a record, stays so until the page is written: every consumer reads poison
(notes/assumptions/39.md). -/
def execYardPageRead (t : Ten) (addr : Nat) (firstBad secondBad : List (Fin 8)) (recordUe : Bool) (s : State) :
    Host.Outcome State Fault Refusal :=
  match s.inYardAt t.val addr with
  | none => .next s
  | some l =>
    let f := l.p * 512 + addr % granuleBytes / 4096
    let put (p : YPage) (s : State) : State := { s with mtc := { s.mtc with yard := sset YPage.init s.mtc.yard f p } }
    if recordUe then
      let s1 := put { s.mtc.page f with mode := 3 } s
      .next (tagResult t.val addr (s1.locPage t.val l addr [] []) s1)
    else
      let b1 := firstBad.map (·.val)
      let b2 := secondBad.map (·.val)
      let lost := (b1.filter b2.contains).filter (fun u => decide (u < (s.mtc.page f).units.length))
      let s1 := tagResult t.val addr (s.locPage t.val l addr b1 b2) s
      if lost.isEmpty then .next s1 else .next (put ((s.mtc.page f).broken lost) s1)

/-! ## Row repair (R222, R223) -/

/-- What a scrub's visit does to a log: whether the row is to be retired. -/
def rowDue (row : Nat) (l : List RowLog) : Bool := l.any (fun e => e.row == row && decide (3 ≤ e.count))

/-- Bytes of a siding row: a granule (notes/assumptions/39.md). -/
def sidRowBytes : Nat := 32

/-- A visit of the patrol scrub (R222, R223): units 0 to 63 are the banks, 64 to 127 the sidings. A row that has reached three errors
is retired, before an error found on this visit is logged; words that it finds uncorrectable, by their number in the row, are poison. -/
def patrolVisit (unit row : Nat) (ce : Bool) (ue : List Nat) (s0 : State) : State :=
  if unit < 64 then
    let s := { s0 with mtc := { s0.mtc with
      conPoison := markWords s0.mtc.conPoison ((ue.filter (· < 32)).map (fun w => row * 2 ^ 14 + unit * 256 + 8 * w)) } }
    let b := sget Bank.init s.mtc.banks unit
    let used := (sget 0 s.fuse.conSpareTest unit).toNat + b.spareField.toNat
    let s1 :=
      if !rowDue row b.rowLog then s
      else if 32 ≤ used then record Code.rowSparesOut none (unitBank unit) 0 0 s
      else
        let c : Bank := ⟨b.rowLog.filter (fun e => e.row != row), b.spareField + 1⟩
        record Code.rowRetired none (unitBank unit) 0 0 { s with mtc := { s.mtc with
          banks := sset Bank.init s.mtc.banks unit c, conRetired := satAdd s.mtc.conRetired 1 } }
    if ce then logBankRow unit row s1 else s1
  else if unit < 128 then
    let a := unit - 64
    let s := s0.modArr a (fun x => { x with
      sidPoison := markWords x.sidPoison ((ue.filter (· < 4)).map (fun w => row * sidRowBytes + 8 * w)) })
    let x := s.arr a
    let mib := row * sidRowBytes / 2 ^ 20
    let used := (sget 0 s.fuse.sidSpareTest (8 * a + mib)).toNat + sget 0 x.spareMib mib
    let s1 :=
      if !rowDue row x.rowLog then s
      else if 16 ≤ used then record Code.rowSparesOut (s.aryTenant a) (unitArray a) 0 0 s
      else
        let s2 := s.setArr a { x with
          rowLog := x.rowLog.filter (fun e => e.row != row), spareField := x.spareField + 1
          spareMib := supd 0 x.spareMib mib (· + 1) }
        record Code.rowRetired (s.aryTenant a) (unitArray a) 0 0
          { s2 with mtc := { s2.mtc with sidRetired := satAdd s2.mtc.sidRetired 1 } }
    if ce then logSidRow a row s1 else s1
  else s0

/-! ## Live calibration (R226) -/

/-- The longest window seen. -/
def maxNs (v : BitVec 16) (ns : Nat) : BitVec 16 := BitVec.ofNat 16 (max v.toNat ns)

/-- STACKED_PHASE_CAL (R226): one channel every 2 ms, out of service for at most 1.2 µs; a longer window stays open until abandoned. -/
def execStackedPhaseCal (ns : Nat) (s : State) : Host.Outcome State Fault Refusal :=
  if s.glb.devTime < s.mtc.phaseTime + 2 * ms ∨ s.mtc.phaseOut.isSome then .next s
  else
    let m := { s.mtc with phaseTime := s.glb.devTime, phaseNext := (s.mtc.phaseNext + 1) % 64 }
    if ns ≤ 1200 then .next { s with mtc := { m with smMax := maxNs m.smMax ns } }
    else .next { s with mtc := { m with phaseOut := some s.mtc.phaseNext } }

/-- YARD_DRIFT_CHECK (R226): one channel every 2 ms, each every 16 ms; retrained when its drift exceeds the margin, for at most 4 µs. -/
def execYardDriftCheck (exceeds : Bool) (ns : Nat) (s : State) : Host.Outcome State Fault Refusal :=
  if s.glb.devTime < s.mtc.driftTime + 2 * ms ∨ s.mtc.driftOut.isSome then .next s
  else
    let m := { s.mtc with driftTime := s.glb.devTime, driftNext := (s.mtc.driftNext + 1) % 8 }
    if !exceeds then .next { s with mtc := m }
    else if ns ≤ 4000 then .next { s with mtc := { m with yardMax := maxNs m.yardMax ns } }
    else .next { s with mtc := { m with driftOut := some s.mtc.driftNext } }

/-- CAL_WINDOW_ABANDON (R226): the window at its limit ends, the channel in service on its previous settings. -/
def execCalWindowAbandon (yard : Bool) (s : State) : Host.Outcome State Fault Refusal :=
  if yard then
    if s.mtc.driftOut.isNone then .next s
    else .next { s with mtc := { s.mtc with driftOut := none, yardMax := maxNs s.mtc.yardMax 4000 } }
  else
    if s.mtc.phaseOut.isNone then .next s
    else .next { s with mtc := { s.mtc with phaseOut := none, smMax := maxNs s.mtc.smMax 1200 } }

/-! ## Transfers and gathers (R70, R201, R209, R211) -/

/-- A tensor slot written with poisoned bytes is stored plain, with their marks (R211, notes/assumptions/18.md). -/
def packMarked (l : List MByte) : List MByte :=
  if l.any (·.2) then
    unmarked (List.replicate 13 0 ++ [0] ++ leBytes 2 slotPayload ++ [0] ++ List.replicate 15 0) ++ l
  else unmarked (packSlot (l.map (·.1)))

/-- The move of a transfer descriptor stays where its tenant may read and write. -/
def State.moveFits (s : State) (t : Nat) (v : Move) : Bool :=
  let y := s.tenant t
  let con (o n : Nat) : Bool := (s.tenantPart t).allows false o n
  match v with
  | .conToSid a c sid n => s.aryTenant a.val == some t && con c n && decide (sid + n ≤ sidEnd)
  | .memToCon m c n => y.inRanges m n && con c n
  | .conToMem c m n => y.inRanges m n && con c n
  | .conPack c m k => con c (slotPayload * k) && y.inRanges m (4096 * k)
  | .conToKv c hd _ _ _ n _ =>
    (match s.kvSeq t hd with
     | none => false
     | some v => con c (2 * (readHdr t v.addr s).dim * n))
  | .conToPeer c _ _ n => con c n
  | .peerToCon _ _ c n _ => con c n

/-- Bytes of a partition written by a transfer. -/
def conPut (t off : Nat) (l : List MByte) (s : State) : State := partWrite (s.tenantPart t) off l s

/-- The keys, or the values, of tokens written where the sequence holds them, BF16 as its tail slots and BF16 pages do: none where one
of them may not be written (R178, R185). -/
def kvStore (t con hd layer head tok n : Nat) (value : Bool) (s : State) : Except (BitVec 16 × Nat) State :=
  match kvWriteFails t ⟨hd, layer, tok, n⟩ s, s.kvSeq t hd with
  | none, some v =>
    let h := readHdr t v.addr s
    let es := readEntries t v.addr 0 h.length s
    let l := s.partRead (s.tenantPart t) con (2 * h.dim * n)
    (List.range n).foldl (fun r i => r.bind (fun s1 =>
      match kvPlace v h es layer head value (tok + i) with
      | none => .ok s1
      | some a =>
        match modelWrite t a ((l.drop (2 * h.dim * i)).take (2 * h.dim)) s1 with
        | .ok s2 => .ok (addHeat t a (2 * h.dim) s2)
        | .error c => .error (c, a))) (.ok s)
  | some c, _ => .error (c, 0)
  | none, none => .error (Code.kvHandle, 0)

/-- A level-1 or level-2 transfer's bytes moved; a code where a write to model memory fails (R199, R200, R211). -/
def moveBytes (t : Nat) (v : Move) (e : MoveErr) (s0 : State) : Except (BitVec 16 × Nat) State :=
  let s := conErrs t e.ce e.ue s0
  let store (m : Nat) (l0 : List MByte) : Except (BitVec 16 × Nat) State :=
    let l := markLost e.flits l0
    match modelWrite t m l s with
    | .ok s1 => .ok (addHeat t m l.length s1)
    | .error c => .error (c, m)
  match v with
  | .conToSid a c sid n =>
    let l := s.partRead (s.tenantPart t) c n
    .ok (s.modArr a.val (sidWrite a.val s.free sid (markLost e.flits l)))
  | .memToCon m c n =>
    let r := modelRead t m n s
    .ok (conPut t c (markLost e.flits r.1) (addHeat t m n r.2))
  | .conToMem c m n => store m (s.partRead (s.tenantPart t) c n)
  | .conPack c m k =>
    store m ((chunks slotPayload k (s.partRead (s.tenantPart t) c (slotPayload * k))).flatMap packMarked)
  | .conToKv c hd layer head tok n value => kvStore t c hd layer head tok n value s
  | .conToPeer _ _ _ _ => .ok s
  | .peerToCon _ _ _ _ _ => .ok s

/-- The index list of a gather: the values, each with whether it is poisoned. -/
def gatherIndices (l : List MByte) : List (Nat × Bool) :=
  (chunks 4 (l.length / 4) l).map (fun b => (leNat (b.map (·.1)), b.any (·.2)))

/-- GATHER (R209): rows named by an index list, in list order, to consecutive places of the partition. An index at or above the limit
faults the DISPATCH before any row is written; a poisoned index is consumed, and its row is poison. -/
def execGather (d : Nat) (t : Ten) (list count rowBytes : Nat) (model : Bool) (src stride limit dst : Nat) (e : MoveErr)
    (s : State) : Host.Outcome State Fault Refusal :=
  let part := s.tenantPart t.val
  let fits := decide (1 ≤ count) && decide (count ≤ 65536) && rowBytes % 32 == 0 && decide (32 ≤ rowBytes) &&
    decide (rowBytes ≤ 65536) && part.allows false list (4 * count) && part.allows true dst (rowBytes * count)
  match s.dispatch? d with
  | none => .next s
  | some x =>
    if x.tenant != t.val || x.descsLeft == 0 || !s.mayFinish d || !fits then .next s
    else
      let s0 := (startDispatch d (conErrs t.val e.ce e.ue s)).modDispatch d (fun x => { x with descsLeft := x.descsLeft - 1 })
      let idx := gatherIndices (s0.partRead part list (4 * count))
      let named := (idx.filter (fun i => !i.2)).map (fun i => src + i.1 * stride)
      let inside (a : Nat) : Bool := if model then (s.tenant t.val).inRanges a rowBytes else part.allows false a rowBytes
      if idx.any (fun i => !i.2 && decide (limit ≤ i.1)) then
        let s1 := s0.modDispatch d (Dispatch.faulted Code.gatherIndex (BitVec.ofNat 64 unitNone))
        .next (record Code.gatherIndex (some t.val) unitNone 0 0
          { s1 with mtc := s1.mtc.noteFault Code.gatherIndex t.val 0 })
      else if !named.all inside then .next s
      else
      match x.copy.bind (fun c =>
        poisonedRead ((s.tenant t.val).copy c.val) (if model then named.map (fun a => (a, rowBytes)) else [])) with
      | some a => .next (s0.modDispatch d (Dispatch.faulted Code.digestMismatch (detailOf a unitNone)))
      | none =>
        let row (k : Nat × Bool) (s : State) : List MByte × State :=
          if k.2 then (List.replicate rowBytes (0, true), s)
          else if model then
            let r := modelRead t.val (src + k.1 * stride) rowBytes s
            (r.1, addHeat t.val (src + k.1 * stride) rowBytes r.2)
          else (s.partRead part (src + k.1 * stride) rowBytes, s)
        let s1 := idx.zipIdx.foldl (fun s k =>
          let r := row k.1 s
          let lost := e.flits.filterMap (fun w => if k.2 * rowBytes / 8 ≤ w then some (w - k.2 * rowBytes / 8) else none)
          partWrite part (dst + k.2 * rowBytes) (markLost lost r.1) r.2) s0
        .next (if idx.any (·.2) then consumePoison d unitNone s1 else s1)

end Sys2Proof.Machine
end

