-- ==== Sys2Proof/Machine/DepotOps.lean ====
section
/-! DEFINITION. The depot: geometry, sectors and units, die scheduling, reading a unit (R229 to R234, R244 to R251). -/

namespace Sys2Proof.Machine

/-! ## Geometry (R229, R230) -/

def State.dies (s : State) : Nat := if s.fuse.depot = 1 then 8 else 16
def State.userSectors (s : State) : Nat := if s.fuse.depot = 1 then 14720 else 29440
def State.deviceSectors (s : State) : Nat := if s.fuse.depot = 1 then 16 else 32

def sectorBytes : Nat := 2 ^ 26

def State.isUser (s : State) (sec : Nat) : Bool := decide (sec < s.userSectors)
def State.isDevice (s : State) (sec : Nat) : Bool := decide (0x7F00 ≤ sec) && decide (sec < 0x7F00 + s.deviceSectors)

/-- A sector that a port may address. -/
def State.portSector (s : State) (p : WscPort) (sec : Nat) : Bool := s.isUser sec || (p == .fw && s.isDevice sec)

/-- A run of bytes lies in sectors of a port, user or device sectors throughout. -/
def State.portRange (s : State) (p : WscPort) (addr n : Nat) : Bool :=
  let a := addr / sectorBytes
  let b := (addr + max n 1 - 1) / sectorBytes
  s.portSector p a && s.portSector p b && s.isUser a == s.isUser b

/-- The sectors that a run of bytes touches. -/
def sectorsOf (addr n : Nat) : List Nat :=
  if n = 0 then [] else (List.range ((addr + n - 1) / sectorBytes + 1 - addr / sectorBytes)).map (fun i => addr / sectorBytes + i)

def State.sector (s : State) (k : Nat) : Sector := sget Sector.init s.dep.sectors k
def State.modSector (s : State) (k : Nat) (f : Sector → Sector) : State :=
  { s with dep := { s.dep with sectors := supd Sector.init s.dep.sectors k f } }

/-- The CRC-32C over a header's fields, in the order R231 names them (notes/assumptions/61.md). -/
def headerCrc (h : Sector) : Reg32 :=
  BitVec.ofNat 32 (crc32c (leBytes 4 h.erases.toNat ++ leBytes 1 h.kslot.toNat ++ leBytes 2 h.wptr))

/-- A header as flash and stacked memory hold it, without what is no part of it. -/
def Sector.header (h : Sector) : Sector := { h with wp := true, undef := false }

/-- A sector's header written: with its CRC-32C, and, from TRAIN on, to the copy in stacked memory (R231). -/
def State.writeHeader (s : State) (k : Nat) (f : Sector → Sector) : State :=
  let h := f (s.sector k)
  let h1 := { h with crc := headerCrc h }
  let s1 := s.modSector k (fun _ => h1)
  { s1 with dep := { s1.dep with
    headers := if s1.dep.copied then sset Sector.init s1.dep.headers k h1.header else s1.dep.headers } }

/-- Core 5 copies every header into stacked memory (R231). -/
def Dep.copyHeaders (d : Dep) : Dep :=
  { d with headers := smap Sector.init d.sectors (fun _ (h : Sector) => h.header), copied := true }

def State.die (s : State) (d : Nat) : Die := sget Die.init s.dep.dies d
def State.modDie (s : State) (d : Nat) (f : Die → Die) : State :=
  { s with dep := { s.dep with dies := supd Die.init s.dep.dies d f } }
def State.dieOf (s : State) (sec : Nat) : Nat := sec % s.dies

def State.wsc (s : State) (p : WscPort) : WscP := match p with | .host => s.dep.host | .fw => s.dep.fw
def State.setWsc (s : State) (p : WscPort) (v : WscP) : State :=
  match p with
  | .host => { s with dep := { s.dep with host := v } }
  | .fw => { s with dep := { s.dep with fw := v } }
def State.modWsc (s : State) (p : WscPort) (f : WscP → WscP) : State := s.setWsc p (f (s.wsc p))

/-! ## Sectors in use -/

/-- An erase of a sector runs, is suspended or waits. -/
def Die.erases (x : Die) (sec : Nat) : Bool :=
  (match x.erase with | none => false | some e => e.sector == sec) || x.eraseQ.any (fun e => e.sector == sec)
def Die.programs (x : Die) (sec : Nat) : Bool := x.progs.any (fun u => u.sector == sec)

def State.sectorErasing (s : State) (sec : Nat) : Bool := (s.die (s.dieOf sec)).erases sec
/-- A program or erase of a sector is in progress, suspended or accepted. -/
def State.sectorBusy (s : State) (sec : Nat) : Bool :=
  (s.die (s.dieOf sec)).erases sec || (s.die (s.dieOf sec)).programs sec

/-- The die holds a suspended erase. -/
def Die.isSuspended (x : Die) : Bool := x.st == .suspended || x.st == .suspProgramming || x.st == .suspReading
/-- The die carries out an operation. -/
def Die.isBusy (x : Die) : Bool := x.st != .idle && x.st != .suspended

/-- The erase of a sector is suspended. -/
def State.sectorSusp (s : State) (sec : Nat) : Bool :=
  let x := s.die (s.dieOf sec)
  x.isSuspended && (match x.erase with | none => false | some e => e.sector == sec)

/-- A program of the sector is in progress, or an erase of it that is neither suspended nor waiting (R260). -/
def State.sectorWorks (s : State) (sec : Nat) : Bool :=
  let x := s.die (s.dieOf sec)
  x.programs sec || (x.erase.any (fun e => e.sector == sec) && !x.isSuspended)

/-! ## Units (R231 to R234) -/

def unitKey (sec unit : Nat) : Nat := sec * 16384 + unit

/-- Tweak and tag IV of a depot unit (R232). -/
def depotTweak (sec unit erases : Nat) : Nat := sec + unit * 2 ^ 15 + erases * 2 ^ 29
def depotIv (sec unit u erases : Nat) : Bytes := leBytes 12 (sec + unit * 2 ^ 15 + u * 2 ^ 29 + erases * 2 ^ 32)

/-- The depot keys of a slot's secret (R314). -/
def State.depotKeys (s : State) (secret : Bytes) : Bytes × Bytes :=
  (hkdf384 s.fuse.dseed secret (label "AT96 depot xts") 64, hkdf384 s.fuse.dseed secret (label "AT96 depot tag") 32)

/-- The secrets that an operation of the depot takes when it starts, by key slot (R317). -/
def State.secrets (s : State) : Store Bytes :=
  (s.sec.slots.filter (fun e => e.2.installed)).map (fun e => (e.1, e.2.secret))

def depotTag (key : Bytes) (sec unit u erases : Nat) (part : Bytes) : BitVec 64 :=
  let addr := sectorBytes * sec + unit * 4096 + u * 512
  BitVec.ofNat 64 (leNat ((gcmTag (aesKeys key) (depotIv sec unit u erases) (leBytes 6 addr ++ part) []).take 8))

/-- The CRC-32C over a unit's ciphertext and its eight tags (R232). -/
def unitCrc (cipher : Bytes) (tags : List (BitVec 64)) : Reg32 :=
  BitVec.ofNat 32 (crc32c (cipher ++ tags.flatMap (fun t => leBytes 8 t.toNat)))

/-- A data unit as the depot stores it (R232). -/
def State.encodeUnit (s : State) (secret : Bytes) (sec unit : Nat) (plain : Bytes) : Unit4K :=
  let k := s.depotKeys secret
  let e := (s.sector sec).erases.toNat
  let cipher := xts true k.1 (depotTweak sec unit e) 0 plain
  let tags := (chunks 512 8 cipher).zipIdx.map (fun x => depotTag k.2 sec unit x.2 e x.1)
  .data cipher tags (unitCrc cipher tags)

/-- What a unit's checks come to. -/
inductive UnitGot where
  | blank | good (data : Bytes) | badTag | lost
deriving DecidableEq, Repr

/-- The bytes of an image's record: its number and its length (notes/assumptions/61.md). -/
def imageRecord (seq n : Nat) : Bytes := leBytes 8 seq ++ leBytes 8 n ++ List.replicate 4080 0

/-- A unit of a sector that still holds what the device left the line with: in the first sector the record of the image, then the image,
64 KiB of it a program unit, the rest filled up (R230, notes/assumptions/61.md). -/
def State.lineUnit (s : State) (sec unit : Nat) : Unit4K :=
  let off := ((sec - 0x7F01) * 512 + unit / 32) * 65536 + unit % 32 * 4096
  let plain := if sec = 0x7F00 then (if unit = 0 then imageRecord 0 Config.lineImage.length else [])
    else if unit % 32 < 16 then (Config.lineImage.drop off).take 4096 else []
  if plain.isEmpty then .filler
  else s.encodeUnit (Config.deviceSecret 0x20) sec unit (plain ++ List.replicate (4096 - plain.length) 0)

/-- What the flash holds of a unit. -/
def State.storedUnit (s : State) (sec unit : Nat) : Option Unit4K :=
  (sget none s.dep.units (unitKey sec unit)).or (if s.dep.line.contains sec then some (s.lineUnit sec unit) else none)

/-- What a unit holds, read with a set of secrets: beyond the write pointer nothing, fillers 0xFF, a sector whose erase failed bytes
that nothing tells (R233, R234, R241, notes/assumptions/21.md). -/
def State.unitAt (s : State) (keys : Store Bytes) (sec unit : Nat) : UnitGot :=
  let h := s.sector sec
  if h.wptr * 32 ≤ unit then .blank
  else if h.undef then .good ((List.range 4096).map (fun i => Config.erasedByte s.free (unitKey sec unit) i))
  else match s.storedUnit sec unit with
    | none => .lost
    | some .filler => .good (List.replicate 4096 0xFF)
    | some (.data c tags crc) =>
      let k := s.depotKeys (sget [] keys h.kslot.toNat)
      let e := h.erases.toNat
      if crc != unitCrc c tags then .lost
      else if (chunks 512 8 c).zipIdx.all (fun x => tags[x.2]? == some (depotTag k.2 sec unit x.2 e x.1)) then
        .good (xts false k.1 (depotTweak sec unit e) 0 c)
      else .badTag

/-- A unit is a filler: no tags are checked. -/
def State.isFiller (s : State) (sec unit : Nat) : Bool := s.storedUnit sec unit == some .filler

/-- A unit as a read delivers it, with `retries` threshold sets used up before one decoded, more than 15 when none did, and whether
the stored tags came back whole: bytes or poison, and the code reported. -/
def State.readUnit (s : State) (keys : Store Bytes) (sec unit retries : Nat) (tagOk : Bool) :
    List MByte × Option (BitVec 16) :=
  let dark : List MByte := List.replicate 4096 (0, true)
  let plain (l : Bytes) : List MByte := l.map (fun b => (b, false))
  match s.unitAt keys sec unit with
  | .blank => (plain (List.replicate 4096 0xFF), none)
  | .lost => (dark, some Code.depotUe)
  | .badTag => if 15 < retries then (dark, some Code.depotUe) else (dark, some Code.depotTagFail)
  | .good l =>
    if 15 < retries then (dark, some Code.depotUe)
    else if !tagOk && !s.isFiller sec unit then (dark, some Code.depotTagFail)
    else (plain l, none)

/-- The retry counters of a unit read below the write pointer (R233, R260). -/
def noteRetries (sec unit retries : Nat) (s : State) : State :=
  let lost := s.unitAt [] sec unit == .lost
  let n := if lost then 16 else retries
  if (s.sector sec).wptr * 32 ≤ unit then s
  else { s with dep := { s.dep with
    retryMax := BitVec.ofNat 4 (max s.dep.retryMax.toNat (min n 15))
    retried := if n = 0 then s.dep.retried else satAdd s.dep.retried 1
    uncorr := if 15 < n then satAdd s.dep.uncorr 1 else s.dep.uncorr } }

/-! ## Runs of units (R233, R255, R256) -/

/-- What the first, or the second, reading of a unit of a run meets. -/
def unitErr (m : List UnitErr) (i k : Nat) : UnitErr := ((m.filter (fun e => e.unit == i))[k]?).getD ⟨i, 0, true⟩

/-- A run of bytes as it comes from the depot: the bytes up to the first unit that fails, that failure's code and depot address, and
the readings of units done, each with its retries. -/
structure DepotGot where
  data : Bytes
  fail : Option (BitVec 16 × Nat)
  readings : List (Nat × Nat)
deriving DecidableEq, Repr

/-- Why no unit of a sector is read for a load: it is being programmed or erased, or its key slot is not one of the load's; a manifest
in an erased sector reads as 0xFF (R234, R255, R256). -/
def State.sectorBars (s : State) (keys : Store Bytes) (shard : Bool) (k : Nat) : Option (BitVec 16) :=
  if s.sectorBusy k then some Code.wscBusy
  else if !keys.any (fun e => e.1 == (s.sector k).kslot.toNat) && (shard || (s.sector k).wptr != 0) then some Code.depotKey
  else none

/-- Units read one after another, each with its number in the run; one that is poison is read once more. -/
def State.readRun (s : State) (keys : Store Bytes) (shard : Bool) (m : List UnitErr) : List (Nat × Nat) → DepotGot
  | [] => ⟨[], none, []⟩
  | (u, i) :: r =>
    let sec := u / 16384
    match s.sectorBars keys shard sec with
    | some c => ⟨[], some (c, sectorBytes * sec), []⟩
    | none =>
      let one (k : Nat) := s.readUnit keys sec (u % 16384) (unitErr m i k).retries (unitErr m i k).tagOk
      let again := (one 0).2.isSome
      let got := if again then one 1 else one 0
      let seen := (u, (unitErr m i 0).retries) :: (if again then [(u, (unitErr m i 1).retries)] else [])
      match got.2 with
      | some c => ⟨[], some (c, u * 4096), seen⟩
      | none =>
        let x := s.readRun keys shard m r
        ⟨got.1.map (·.1) ++ x.data, x.fail, seen ++ x.readings⟩

/-- Bytes of the depot under a load's keys. -/
def State.depotRead (s : State) (keys : Store Bytes) (shard : Bool) (addr n : Nat) (m : List UnitErr) : DepotGot :=
  let first := addr / 4096
  let x := s.readRun keys shard m ((List.range ((addr + n - 1) / 4096 + 1 - first)).map (fun i => (first + i, i)))
  { x with data := (x.data.drop (addr % 4096)).take n }

/-- The retry counters after a run's readings. -/
def noteReadings (l : List (Nat × Nat)) (s : State) : State :=
  l.foldl (fun s r => noteRetries (r.1 / 16384) (r.1 % 16384) r.2 s) s

/-! ## The fields of a manifest (R252) -/

def manifestBytes (shards : Nat) : Nat := 64 + 64 * shards + 96

/-- A field of a manifest. -/
def mfNat (m : Bytes) (off n : Nat) : Nat := leNat ((m.drop off).take n)

/-- A shard's row of a manifest. -/
def shardAt (m : Bytes) (i : Nat) : Shard :=
  let o := 64 + 64 * i
  { depotAddr := mfNat m o 8, length := mfNat m (o + 8) 4, kind := m.getD (o + 12) 0, offset := mfNat m (o + 24) 8
    digest := (m.drop (o + 32)).take 32, accepted := false, poisoned := false, reload := none }

def manifestShards (m : Bytes) : List Shard := (List.range (mfNat m 6 2)).map (shardAt m)

/-- The secrets that a tenant's reloads take: those of its bound slots and of the device slots. -/
def State.loadKeys (s : State) (t : Nat) : Store Bytes :=
  ((List.range 36).filter (fun k => decide (32 ≤ k) || (s.tenant t).bindKey.getLsbD k)).map (fun k => (k, (s.keySlot k).secret))

/-- The secret under which firmware loads: that of device slot 0x22 (R319, R370). -/
def State.bootKeys (s : State) : Store Bytes := [(0x22, (s.keySlot 0x22).secret)]

/-- The secrets a load takes when it starts. -/
def State.jobKeys (s : State) (j : LoadJob) : Store Bytes := if j.fw then s.bootKeys else s.loadKeys j.tenant

/-- The sectors of the shards that the manifest in a load's sector names, as far as it can be read (R256). -/
def State.jobShards (s : State) (j : LoadJob) : List Nat :=
  let addr := sectorBytes * j.msector
  let keys := s.jobKeys j
  let head := s.depotRead keys false addr 64 []
  let m := s.depotRead keys false addr (manifestBytes (mfNat head.data 6 2)) []
  if head.fail.isSome || m.fail.isSome || mfNat head.data 0 4 != 0x4D460096 then []
  else (manifestShards m.data).flatMap (fun h => sectorsOf h.depotAddr h.length)

/-! ## Dies (R244, R245, R247) -/

/-- The highest-ranking read. -/
def firstRead (l : List DieRead) : Option DieRead :=
  l.foldl (fun b c => match b with | none => some c | some x => if c.cls < x.cls then some c else b) none

/-- The die's next step when it is free; whether an erase begins. -/
def Die.choose (x : Die) : Die × Option EraseOp :=
  match x.st with
  | .idle =>
    (match firstRead x.reads with
     | some c => ({ x with st := .reading, reading := some c, reads := x.reads.erase c }, none)
     | none =>
       if !x.progs.isEmpty then ({ x with st := .programming }, none)
       else match x.eraseQ.find? (fun e => !e.userSusp) with
         | some e => ({ x with st := .erasing, erase := some e, eraseQ := x.eraseQ.erase e }, some e)
         | none => (x, none))
  | .suspended =>
    (match firstRead x.reads, x.erase with
     | some c, _ => ({ x with st := .suspReading, reading := some c, reads := x.reads.erase c }, none)
     | none, some e =>
       (match x.progs.find? (fun u => u.sector != e.sector) with
        | some u => ({ x with st := .suspProgramming, progs := u :: x.progs.erase u }, none)
        | none => if e.userSusp || !x.progs.isEmpty then (x, none) else ({ x with st := .resuming }, none))
     | none, none => (x, none))
  | _ => (x, none)

/-- The erase count rises before an erase begins, and wear is told (R231, R251). -/
def beginErase (sec : Nat) (s : State) : State :=
  let s1 := s.writeHeader sec (fun h => { h with erases := h.erases + 1 })
  let n := (s1.sector sec).erases.toNat
  let die := unitDie (s.dieOf sec)
  if n = 2700 then
    record Code.wearNear none die sec (sectorBytes * sec)
      { s1 with dep := { s1.dep with wearNear := true, mediaSector := BitVec.ofNat 15 sec } }
  else if n = 3000 then
    record Code.wearOut none die sec (sectorBytes * sec)
      { s1 with dep := { s1.dep with wearOut := true, mediaSector := BitVec.ofNat 15 sec } }
  else s1

/-- A die goes on. -/
def dieNext (d : Nat) (s : State) : State :=
  let r := (s.die d).choose
  let s1 := s.modDie d (fun _ => r.1)
  match r.2 with
  | none => s1
  | some e => beginErase e.sector s1

/-- An automatic suspension, counted; at 10,000 the erase is aged (R247). -/
def autoSuspend (d : Nat) (e : EraseOp) (s : State) : State :=
  let n := e.autoSusp + 1
  let s1 := s.modDie d (fun x => { x with st := .suspending, erase := some { e with autoSusp := n, aged := e.aged || n == 10000 } })
  if n = 10000 then
    record Code.eraseAged none (unitDie d) e.sector (sectorBytes * e.sector)
      { s1 with dep := { s1.dep with eraseAged := true, mediaSector := BitVec.ofNat 15 e.sector } }
  else s1

/-- A read is queued at a die (R245): it suspends a running or resuming erase, unless that is aged and guarded. -/
def queueRead (d : Nat) (r : DieRead) (s : State) : State :=
  let s1 := s.modDie d (fun x => { x with reads := x.reads ++ [r] })
  let x := s1.die d
  match x.erase with
  | some e =>
    if x.st = .erasing ∨ x.st = .resuming then
      (if e.aged && (s.wsc e.port).ageGuard then s1 else autoSuspend d e s1)
    else dieNext d s1
  | none => dieNext d s1

/-- A die has still to serve a read. -/
def Die.owes (x : Die) (w : Reader) : Bool := x.reads.any (fun r => r.who == w) || x.reading.any (fun r => r.who == w)

/-- A die has still to serve a read of somebody's. -/
def State.awaits (s : State) (w : Reader) : Bool := s.dep.dies.any (fun e => e.2.owes w)

/-- The dies that a run of bytes lies on. -/
def State.diesOf (s : State) (addr n : Nat) : List Nat := ((sectorsOf addr n).map s.dieOf).eraseDups

/-- How many units of a run of bytes lie on a die. -/
def State.unitsOn (s : State) (addr n d : Nat) : Nat :=
  (((sectorsOf addr n).filter (fun k => s.dieOf k == d)).map (fun k =>
    min ((addr + n - 1) / 4096) (k * 16384 + 16383) + 1 - max (addr / 4096) (k * 16384))).sum

/-- A run of bytes is read: at each die it lies on one unit after the other, the die choosing anew after each (R245). -/
def queueReads (addr n : Nat) (cls : Fin 5) (who : Reader) (s : State) : State :=
  (s.diesOf addr n).foldl (fun s d => queueRead d ⟨cls, who, s.unitsOn addr n d - 1⟩ s) s

/-- Somebody's reads that no die has begun are withdrawn; of one that runs, the units to come. -/
def dropReads (w : Reader) (s : State) : State :=
  { s with dep := { s.dep with
    dies := smap Die.init s.dep.dies (fun _ (x : Die) => { x with
      reads := x.reads.filter (fun r => r.who != w)
      reading := x.reading.map (fun r => if r.who = w then { r with more := 0 } else r) }) } }

/-! ## A port's state (R238, R246) -/

/-- The erase of a sector stands suspended, or waits behind another with the user's suspension. -/
def State.eraseRests (s : State) (sec : Nat) : Bool :=
  let x := s.die (s.dieOf sec)
  s.sectorSusp sec || x.eraseQ.any (fun e => e.sector == sec && e.userSusp)

/-- A command of a port ends: the host port's is a device event (R333). -/
def wscEnds (p : WscPort) (s : State) : State :=
  match p with
  | .host => msix 0 s
  | .fw => s

/-- A port is BUSY, SUSPENDED or READY by what it still has to do; an ERASE that has ended on a failure keeps it from READY only while
its other erases are suspended or have been resumed (R241, R246, notes/assumptions/62.md). -/
def settlePort (p : WscPort) (s : State) : State :=
  let v := s.wsc p
  let works := decide (v.progLeft ≠ 0) || decide (v.bulkPos < v.bulkEnd)
  let st : WscState :=
    if v.eraseLeft.isEmpty then (if works then .busy else .ready)
    else if !works && v.userSusp && v.eraseLeft.all s.eraseRests then .suspended
    else if !works && !v.userSusp && v.eraseOver then .ready
    else .busy
  let s1 := s.setWsc p { v with st := st, userSusp := v.userSusp && !v.eraseLeft.isEmpty }
  if v.st = .busy ∧ st ≠ .busy then wscEnds p s1 else s1

def settlePorts (s : State) : State := settlePort .fw (settlePort .host s)

/-- An error of a port: its bit of WSC_ERR and its code. -/
def wscFail (p : WscPort) (bit : Nat) (code : BitVec 16) (unit addr : Nat) (s : State) : State :=
  record code none unit 0 addr (s.modWsc p (fun v => { v with err := v.err ||| BitVec.ofNat 13 (2 ^ bit) }))

end Sys2Proof.Machine
end

