-- ==== Sys2Proof/Machine/Depot.lean ====
section
/-! DEFINITION. The depot's command ports, its dies, reads of the depot and instruction fetches (R235 to R250). -/

namespace Sys2Proof.Machine

/-! ## Which row a port write belongs to (R236, R237, R243) -/

/-- What a write to a sequence register does. -/
inductive WscAct where
  /-- an unlock word in its place -/
  | key
  /-- the next write of a sequence, or an operand written in read-array state -/
  | operand
  /-- a write out of sequence -/
  | bad
  | readArray | bulkRead
  | programSmall | programBulk | erase | wpset | suspend | resume | status | readid
deriving DecidableEq, Repr

/-- The action of a write: `none` is WSC_KEY. -/
def WscP.act (v : WscP) (r : Option WscReg) (x : Reg32) : WscAct :=
  match v.step, r with
  | 0, none => if x.toNat % 65536 = 0x5A3C then .key else .bad
  | 1, none => if x.toNat % 65536 = 0xC3A5 then .key else .bad
  | _, none => .bad
  | 2, some .cmd =>
    let c := x.toNat % 256
    if c = 0x10 ∨ c = 0x20 ∨ c = 0x60 then .operand
    else if c = 0xB0 then .suspend else if c = 0xD0 then .resume else if c = 0x70 then .status
    else if c = 0x90 then .readid else .bad
  | 0, some r =>
    if v.st ≠ .ready then .bad
    else match r with
      | .addrHi => .readArray
      | .stageHi => .bulkRead
      | .addrLo => .operand
      | .len => .operand
      | .stageLo => .operand
      | _ => .bad
  | 3, some r =>
    let erase := v.cmd == 0x20
    let prog := v.cmd == 0x10
    (match v.pos, r with
     | 0, .addrLo => .operand
     | 1, .addrHi => .operand
     | 2, .len => if erase then .erase else .operand
     | 3, .data => if prog then (if v.len.toNat / 4 ≤ 1 then .programSmall else .operand) else if erase then .bad else .wpset
     | 3, .stageLo => if prog then .operand else .bad
     | 4, .data => if v.len.toNat / 4 ≤ v.words.length + 1 then .programSmall else .operand
     | 5, .stageHi => .programBulk
     | _, _ => .bad)
  | _, _ => .bad

/-- A write latched in its register; the registers of R260 hold what was written. -/
def WscP.latch (r : Option WscReg) (x : Reg32) (v : WscP) : WscP :=
  match r with
  | none => { v with key := BitVec.ofNat 16 x.toNat }
  | some .cmd => { v with cmd := BitVec.ofNat 8 x.toNat }
  | some .addrLo => { v with addr := BitVec.ofNat 41 (v.addr.toNat / 2 ^ 32 * 2 ^ 32 + x.toNat) }
  | some .addrHi => { v with addr := BitVec.ofNat 41 (x.toNat % 512 * 2 ^ 32 + v.addr.toNat % 2 ^ 32) }
  | some .len => { v with len := x }
  | some .data => { v with data := x, words := v.words ++ [x] }
  | some .stageLo => { v with stage := BitVec.ofNat 48 (v.stage.toNat / 2 ^ 32 * 2 ^ 32 + x.toNat) }
  | some .stageHi =>
    { v with stage := BitVec.ofNat 48 (x.toNat % 65536 * 2 ^ 32 + v.stage.toNat % 2 ^ 32), stageTenant := BitVec.ofNat 5 (x.toNat / 65536) }

/-- The sequence goes on by one write. -/
def WscP.advance (r : Option WscReg) (v : WscP) : WscP :=
  match r with
  | none => { v with step := v.step + 1 }
  | some .cmd => { v with step := 3, pos := 0, words := [] }
  | some .stageLo => if v.step = 3 then { v with pos := 5 } else v
  | some .data => { v with pos := 4 }
  | some _ => if v.step = 3 then { v with pos := v.pos + 1 } else v

/-- The sequence is over, and the port as it was before the first unlock write. -/
def WscP.ended (v : WscP) : WscP := { v with step := 0, pos := 0, words := [] }

/-! ## Starting commands (R238 to R242, R246, R256) -/

/-- Sectors that a running or waiting load, or a reload, has yet to read (R256). -/
def State.toRead (s : State) (sec : Nat) : Bool :=
  let shard (h : Shard) : Bool := (sectorsOf h.depotAddr h.length).contains sec
  s.dep.loads.any (fun j =>
    if j.ready then ((s.tenant j.tenant).copy j.copy.val).shards.any (fun h => !h.accepted && shard h)
    else j.msector == sec || (s.jobShards j).contains sec) ||
  s.ten.any (fun e => e.2.copies.any (fun c => c.2.shards.any (fun h => h.reload.isSome && shard h)))

/-- Every granule of a stage is STACKED. -/
def State.stageStacked (s : State) (t addr n : Nat) : Bool :=
  (granulesOf addr n).all (fun g => match (s.mtc.granule t g).st with | .stacked _ => true | _ => false)

/-- Cached lines of a sector are dropped when a program or an erase of it starts (R248). -/
def dropLines (secs : List Nat) (s : State) : State :=
  { s with dep := { s.dep with icache := s.dep.icache.filter (fun k => !secs.contains (k / 16384)) } }

/-- The end of what is programmed of a sector, or accepted to be (R231, R232, R239). -/
def State.wptrDue (s : State) (k : Nat) : Nat :=
  ((s.die (s.dieOf k)).progs.filter (fun u => u.sector == k)).foldl (fun m u => max m (u.unit + 1)) (s.sector k).wptr

/-- The program units of a range, ascending: `data` are a small program's bytes, else the stage. -/
def programUnits (p : WscPort) (addr n : Nat) (data : Option Bytes) (t stage : Nat) (slot : BitVec 6) (secret : Bytes) (no : Nat) :
    List ProgUnit :=
  (List.range ((addr + n - 1) / 131072 + 1 - addr / 131072)).map (fun i =>
    let k := addr / 131072 + i
    let lo := max addr (k * 131072)
    let hi := min (addr + n) ((k + 1) * 131072)
    { port := p, sector := k / 512, unit := k % 512, lo := lo / 4096 % 32, hi := (hi - 1) / 4096 % 32 + 1
      bytes := (match data with | none => [] | some b => (b.drop (lo - addr)).take (hi - lo))
      stage := if data.isSome then none else some (t, stage + (lo - addr)), slot := slot, secret := secret, no := no })

/-- PROGRAM at its starting write (R238, R239, R256). -/
def startProgram (p : WscPort) (small : Bool) (s : State) : State :=
  let v := s.wsc p
  let addr := v.addr.toNat
  let n := v.len.toNat
  let t := v.stageTenant.toNat
  let secs := sectorsOf addr n
  let badLen := n % 4096 != 0 || n == 0 || decide ((if small then 65536 else 2 ^ 30) < n)
  let badStage := !small && (v.stage.toNat % 4096 != 0 || !s.stageStacked t v.stage.toNat n)
  let starts (k : Nat) : Nat := if k = addr / sectorBytes then addr % sectorBytes else 0
  if v.st = .busy then wscFail p 3 Code.wscBusy unitNone addr s
  else if addr % 4096 != 0 || badLen || !s.portRange p addr n || badStage then wscFail p 2 Code.wscRange unitNone addr s
  else if secs.any (fun k => (s.sector k).wp) then wscFail p 1 Code.wscProtected unitNone addr s
  else if secs.any (fun k => decide (starts k < s.wptrDue k * 131072)) then wscFail p 4 Code.wscOrder unitNone addr s
  else if secs.any (fun k => s.sectorErasing k || s.toRead k) then wscFail p 3 Code.wscBusy unitNone addr s
  else if !(s.keySlot v.ksel.toNat).installed then wscFail p 5 Code.depotKey unitNone addr s
  else
    let data := if small then some (v.words.flatMap (fun w => leBytes 4 w.toNat)) else none
    let us := programUnits p addr n data t v.stage.toNat v.ksel (s.keySlot v.ksel.toNat).secret (v.progNo + 1)
    let s1 := s.setWsc p { v with op := 0x10, done := 0, progLeft := us.length, progNo := v.progNo + 1 }
    let s2 := us.foldl (fun s u => s.modDie (s.dieOf u.sector) (fun x => { x with progs := x.progs ++ [u] })) (dropLines secs s1)
    settlePort p ((List.range s.dies).foldl (fun s d => dieNext d s) s2)

/-- ERASE at its starting write (R238, R241, R256). -/
def startErase (p : WscPort) (s : State) : State :=
  let v := s.wsc p
  let addr := v.addr.toNat
  let n := v.len.toNat
  let secs := sectorsOf addr n
  if v.st ≠ .ready then wscFail p 3 Code.wscBusy unitNone addr s
  else if addr % sectorBytes != 0 || n % sectorBytes != 0 || n == 0 || decide (sectorBytes * s.dies < n) || !s.portRange p addr n then
    wscFail p 2 Code.wscRange unitNone addr s
  else if secs.any (fun k => (s.sector k).wp) then wscFail p 1 Code.wscProtected unitNone addr s
  else if secs.any (fun k => s.sectorBusy k || s.toRead k) then wscFail p 3 Code.wscBusy unitNone addr s
  else
    let s1 := s.setWsc p { v with
      op := 0x20, done := 0, eraseLeft := secs, userSusp := false, eraseNo := v.eraseNo + 1, eraseOver := false }
    let s2 := secs.foldl (fun s k => s.modDie (s.dieOf k) (fun x => { x with
        eraseQ := x.eraseQ ++ [⟨p, k, 0, false, false, v.eraseNo + 1⟩] }))
      (dropLines secs s1)
    settlePort p ((List.range s.dies).foldl (fun s d => dieNext d s) s2)

/-- WPSET at its starting write (R238, R242): the bits of the port's sectors among those named. -/
def startWpset (p : WscPort) (s : State) : State :=
  let v := s.wsc p
  let first := v.addr.toNat / sectorBytes
  let n := v.len.toNat
  if v.st = .busy then wscFail p 3 Code.wscBusy unitNone v.addr.toNat s
  else
    let named := ((List.range (s.userSectors)) ++ (List.range s.deviceSectors).map (0x7F00 + ·)).filter (fun k =>
      decide (first ≤ k) && decide (k < first + n) && s.portSector p k)
    named.foldl (fun s k => s.modSector k (fun h => { h with wp := v.data.getLsbD 0 }))
      (s.setWsc p { v with op := 0x60, done := 0 })

/-- An erase is one of its port's last ERASE. -/
def WscP.owns (v : WscP) (p : WscPort) (e : EraseOp) : Bool := e.port == p && e.no == v.eraseNo && v.eraseLeft.contains e.sector

/-- Erases of a port's last ERASE changed at their dies. -/
def modErases (p : WscPort) (f : EraseOp → EraseOp) (s : State) : State :=
  let on (e : EraseOp) : EraseOp := if (s.wsc p).owns p e then f e else e
  let dies := smap Die.init s.dep.dies (fun _ (x : Die) => { x with erase := x.erase.map on, eraseQ := x.eraseQ.map on })
  { s with dep := { s.dep with dies := dies } }

/-- SUSPEND (R246): every erase of the port's last ERASE that runs. -/
def startSuspend (p : WscPort) (s : State) : State :=
  let v := s.wsc p
  if v.eraseLeft.isEmpty || v.userSusp then wscFail p 0 Code.wscSeq unitNone 0 s
  else
    let s1 := modErases p (fun e => { e with userSusp := true }) (s.setWsc p { v with op := 0xB0, userSusp := true })
    let stop (x : Die) : Die :=
      match x.erase with
      | some e =>
        if v.owns p e ∧ (x.st = .erasing ∨ x.st = .resuming) then { x with st := .suspending } else x
      | none => x
    settlePort p { s1 with dep := { s1.dep with dies := smap Die.init s1.dep.dies (fun _ (x : Die) => stop x) } }

/-- RESUME (R246). -/
def startResume (p : WscPort) (s : State) : State :=
  let v := s.wsc p
  if v.eraseLeft.isEmpty || !v.userSusp then wscFail p 0 Code.wscSeq unitNone 0 s
  else
    let s1 := modErases p (fun e => { e with userSusp := false })
      (s.setWsc p { v with op := 0xD0, userSusp := false, eraseOver := false })
    settlePort p ((List.range s.dies).foldl (fun s d => dieNext d s) s1)

/-- The die-busy bitmap over the erase-suspended bitmap (R236). -/
def State.dieMaps (s : State) : Reg32 :=
  BitVec.ofNat 32 (((List.range s.dies).map (fun d =>
    2 ^ (16 + d) * b2n (s.die d).isBusy + 2 ^ d * b2n (s.die d).isSuspended)).sum)

/-- The READID word (R236). -/
def State.depotId (s : State) : Reg32 := if s.fuse.depot = 1 then 0x48D008E6 else 0x48D010E6

/-- A result shown in WSC_RDATA. -/
def showWord (p : WscPort) (op : BitVec 8) (w : Reg32) (s : State) : State :=
  s.modWsc p (fun v => { v with op := op, rdata := w, shown := true })

/-! ## Reads (R243) -/

/-- The unit at a depot address begins to load into the port's read buffer; one of no sector of the port does not. -/
def loadUnit (p : WscPort) (addr : Nat) (s : State) : State :=
  let fits := s.portSector p (addr / sectorBytes)
  let s1 := s.modWsc p (fun v => { v with
    raddr := addr / 4096 * 4096, rptr := addr % 4096 / 4, rbuf := [], rdReady := false, rpend := fits, shown := false
    rkeys := s.secrets })
  if fits && !s.sectorBusy (addr / sectorBytes) then
    queueRead (s.dieOf (addr / sectorBytes)) ⟨3, .port p, 0⟩ (dropReads (.port p) s1)
  else dropReads (.port p) s1

/-- The next unit of a bulk read is queued at its die (R245); a bulk read that is over gives up its keys (R317). -/
def bulkNext (p : WscPort) (s : State) : State :=
  let v := s.wsc p
  let sec := v.bulkPos / sectorBytes
  if v.bulkEnd ≤ v.bulkPos then s.modWsc p (fun v => { v with bulkKeys := [] })
  else if s.sectorBusy sec then s
  else queueRead (s.dieOf sec) ⟨3, .bulk p, 0⟩ s

/-- A bulk read begins, with the key slots' secrets as they stand; one outside the port's sectors, or with a stage not 4 KiB aligned
or a length out of R236's range, is refused. -/
def startBulkRead (p : WscPort) (s : State) : State :=
  let v := s.wsc p
  let n := v.len.toNat
  if n = 0 ∨ 2 ^ 30 < n ∨ v.stage.toNat % 4096 ≠ 0 ∨ !s.portRange p v.addr.toNat n then
    wscFail p 2 Code.wscRange unitNone v.addr.toNat s
  else settlePort p (bulkNext p (s.setWsc p { v with
    done := 0, bulkPos := v.addr.toNat, bulkEnd := v.addr.toNat + n, bulkTenant := v.stageTenant.toNat
    bulkStage := v.stage.toNat, bulkKeys := s.secrets }))

/-! ## The port write -/

/-- Who may write a port: the host program, and core 0's BOOTMON (R235, R304, R306). -/
def State.portOpen (s : State) (p : WscPort) : Bool :=
  match p with
  | .host => s.hostWrites
  | .fw => !s.compHeld .bootmon

/-- A command is over with its last write (R246, R333): one that leaves the port as it was, but for a SUSPEND whose dies do not rest yet,
and a RESUME. -/
def WscP.overAtOnce (v w : WscP) : Bool := (decide (w.st = v.st) && (v.userSusp || !w.userSusp)) || (v.userSusp && !w.userSusp)

/-- A write to a sequence register of a port (R236, R237); one out of sequence has no effect but on the register, which reads what was
last written to it (R9). A code that R236 does not list counts as out of sequence, and leaves CODE as it was, which takes effect only
after unlock (DESIGN CHOICE, notes/assumptions/67.md). -/
def wscWrite (p : WscPort) (r : Option WscReg) (x : Reg32) (s : State) : State :=
  let v := s.wsc p
  let next := s.setWsc p ((v.latch r x).advance r)
  let go := s.setWsc p (v.latch r x)
  let run (f : State → State) : State := if v.overAtOnce ((f go).wsc p) then wscEnds p (f go) else f go
  let ends (f : State → State) : State := (run f).modWsc p WscP.ended
  match v.act r x with
  | .key => next
  | .operand => next
  | .bad => wscFail p 0 Code.wscSeq unitNone 0 (s.setWsc p (if r = some .cmd then v else v.latch r x).ended)
  | .readArray => loadUnit p (go.wsc p).addr.toNat go
  | .bulkRead => run (startBulkRead p)
  | .programSmall => ends (startProgram p true)
  | .programBulk => ends (startProgram p false)
  | .erase => ends (startErase p)
  | .wpset => ends (startWpset p)
  | .suspend => ends (startSuspend p)
  | .resume => ends (startResume p)
  | .status => ends (fun s => showWord p 0x70 s.dieMaps s)
  | .readid => ends (fun s => showWord p 0x90 s.depotId s)

/-- A port write of one row: carried out where it is that row's. -/
def portRow (p : WscPort) (r : Option WscReg) (x : Reg32) (mine : WscAct → Bool) (s : State) : State :=
  if s.portOpen p && mine ((s.wsc p).act r x) then wscWrite p r x s else s

/-! ## The mailbox's end (R324) -/

def State.modMgt (s : State) (f : Mgt → Mgt) : State := { s with mgt := f s.mgt }

/-- RX_AVAIL at most 256: words move up as there is room; BUSY clears with the last. -/
def Mgt.refill (m : Mgt) : Mgt :=
  let k := 256 - m.rx.length
  if m.pend.isEmpty then m
  else { m with rx := m.rx ++ m.pend.take k, pend := m.pend.drop k, busy := m.busy && !(m.pend.drop k).isEmpty }

/-- An operation of the mailbox ends with a result and output words. -/
def mgtEnd (result : BitVec 4) (out : List Reg32) (s : State) : State :=
  s.modMgt (fun m =>
    { m with result := result, inp := [], pend := m.pend ++ out, busy := !(m.pend ++ out).isEmpty }.refill)

/-! ## Core 0's work in the device sectors (R224, R240, R242, R324, notes/assumptions/61.md) -/

/-- The words of a unit as WSC_RDATA shows them. -/
def unitWords (l : List MByte) : List Reg32 := (chunks 4 1024 l).map (fun b => BitVec.ofNat 32 (leNat (b.map (·.1))))

/-- The writes of a command up to its LEN (R236). -/
def wscCommand (code addr len : Nat) : List (Option WscReg × Reg32) :=
  [(none, 0x5A3C), (none, 0xC3A5), (some .cmd, BitVec.ofNat 32 code), (some .addrLo, BitVec.ofNat 32 addr),
   (some .addrHi, BitVec.ofNat 32 (addr / 2 ^ 32)), (some .len, BitVec.ofNat 32 len)]

/-- The writes of a step. -/
def FwStep.writes : FwStep → List (Option WscReg × Reg32)
  | .erase first n => wscCommand 0x20 (sectorBytes * first) (sectorBytes * n)
  | .program addr data => wscCommand 0x10 addr data.length ++
      (chunks 4 (data.length / 4) data).map (fun b => (some .data, BitVec.ofNat 32 (leNat b)))
  | .check addr _ => [(some .addrLo, BitVec.ofNat 32 addr), (some .addrHi, BitVec.ofNat 32 (addr / 2 ^ 32))]
  | .record _ => []

/-- Core 0 writes to its port. -/
def fwWrites (l : List (Option WscReg × Reg32)) (s : State) : State := l.foldl (fun s w => wscWrite .fw w.1 w.2 s) s

/-- The write protection of a job's sectors set, or taken away (R242). -/
def FwJob.protect (j : FwJob) (v : Bool) (s : State) : State :=
  fwWrites (wscCommand 0x60 (sectorBytes * j.first) j.count ++ [(some .data, BitVec.ofNat 32 (b2n v))]) s

/-- The sector of the configuration: the last device sector. -/
def State.configSector (s : State) : Nat := 0x7F00 + s.deviceSectors - 1

/-- Bytes of a program unit. -/
def progBytes : Nat := 131072

/-- The reading back of what a PROGRAM has written, unit by unit (R240). -/
def checksOf (addr : Nat) (data : Bytes) : List FwStep :=
  (chunks 4096 (data.length / 4096) data).zipIdx.map (fun x => .check (addr + 4096 * x.2) x.1)

/-- The steps still to do, a record of the configuration at its place: the next program unit of the sector, which is erased when it is
full. -/
def State.stepsOf (s : State) (j : FwJob) : List FwStep :=
  match j.steps with
  | .record data :: r =>
    let k := s.configSector
    let addr := sectorBytes * k + progBytes * s.wptrDue k
    if 512 ≤ s.wptrDue k ∨ (s.sector k).undef then .erase k 1 :: .record data :: r
    else .program addr data :: (checksOf addr data ++ r)
  | l => l

/-- A sector of a step is in use: it waits. -/
def FwStep.waits (f : FwStep) (s : State) : Bool :=
  match f with
  | .erase first n => (List.range n).any (fun i => s.sectorBusy (first + i) || s.toRead (first + i))
  | .program addr data => (sectorsOf addr data.length).any (fun k => s.sectorErasing k || s.toRead k)
  | _ => false

/-- The firmware port takes a command of core 0's own. -/
def State.fwFree (s : State) : Bool := s.dep.fw.st == .ready && s.dep.fw.step == 0 && !s.compHeld .bootmon

/-- The error bits of WSC_ERR that a command of R236 sets. -/
def wscFailed (e : BitVec 13) : BitVec 13 := e &&& 0x0FE

/-- The first job in hand changed. -/
def State.setJob (s : State) (j : FwJob) : State := { s with dep := { s.dep with jobs := j :: s.dep.jobs.tail } }

/-- The port is given the next step of the job in hand; its error bits are cleared first. -/
def fwStart (s : State) : State :=
  match s.dep.jobs.head? with
  | none => s
  | some j =>
    match s.stepsOf j with
    | [] => s
    | f :: r =>
      if j.running || !s.fwFree || f.waits s then s
      else
        (fwWrites f.writes (j.protect false (s.modWsc .fw (fun v => { v with err := v.err - wscFailed v.err, ksel := j.slot })))).setJob
          { j with steps := f :: r, running := true }

/-- A job is over: its sectors are protected again; its mailbox operation ends with OK, or with ABORTED (notes/assumptions/61.md). -/
def fwEnd (j : FwJob) (ok : Bool) (s : State) : State :=
  let s1 := j.protect true s
  let s2 := { s1 with dep := { s1.dep with jobs := s1.dep.jobs.tail } }
  let s3 := if ok && j.image.isSome then s2.modMgt (fun m => { m with staged := j.image }) else s2
  if j.mbox then mgtEnd (if ok then 0 else 2) [] s3 else s3

/-- The step in hand has been done. -/
def fwDone (j : FwJob) (s : State) : State :=
  if j.dead then fwEnd j false s
  else if j.steps.tail.isEmpty then fwEnd j true s
  else s.setJob { j with steps := j.steps.tail, running := false }

/-- What has become of the step in hand: its command has ended, with an error or without; the unit read back is what was programmed, or
it is not. -/
def fwSettle (s : State) : State :=
  match s.dep.jobs.head? with
  | none => s
  | some j =>
    if !j.running || !s.fwFree then s
    else match j.steps.head? with
      | some (.check addr data) =>
        if s.dep.fw.raddr ≠ addr then s.setJob { j with running := false }
        else if !s.dep.fw.rdReady then s
        else if s.dep.fw.rbuf = unitWords (data.map (fun b => (b, false))) then fwDone j s
        else fwEnd j false s
      | _ => if wscFailed s.dep.fw.err ≠ 0 then fwEnd j false s else fwDone j s

/-- Core 0 goes on with its work. -/
def fwGo (s : State) : State := fwStart (fwSettle s)

/-- WSC_KEY_WRITE (R236): an unlock word, in or out of its place. -/
def execWscKeyWrite (p : WscPort) (v : Reg32) (s : State) : Host.Outcome State Fault Refusal :=
  .next (portRow p none v (fun _ => true) s)

/-- WSC_SEQUENCE_WRITE (R237): the next operand, or a write that ends the sequence. -/
def execWscSequenceWrite (p : WscPort) (r : WscReg) (v : Reg32) (s : State) : Host.Outcome State Fault Refusal :=
  .next (portRow p (some r) v (fun a => a == .operand || a == .bad) s)

/-- PROGRAM_SMALL (R239): the last WSC_DATA write. -/
def execProgramSmall (p : WscPort) (v : Reg32) (s : State) : Host.Outcome State Fault Refusal :=
  .next (portRow p (some .data) v (· == .programSmall) s)

/-- PROGRAM_BULK (R239): the WSC_STAGE_HI write. -/
def execProgramBulk (p : WscPort) (v : Reg32) (s : State) : Host.Outcome State Fault Refusal :=
  .next (portRow p (some .stageHi) v (· == .programBulk) s)

/-- ERASE (R241): the WSC_LEN write. -/
def execErase (p : WscPort) (v : Reg32) (s : State) : Host.Outcome State Fault Refusal :=
  .next (portRow p (some .len) v (· == .erase) s)

/-- WPSET (R242): the WSC_DATA write. -/
def execWpset (p : WscPort) (v : Reg32) (s : State) : Host.Outcome State Fault Refusal :=
  .next (portRow p (some .data) v (· == .wpset) s)

/-- SUSPEND (R246). -/
def execSuspend (p : WscPort) (s : State) : Host.Outcome State Fault Refusal :=
  .next (portRow p (some .cmd) 0xB0 (· == .suspend) s)

/-- RESUME of the depot (R246). -/
def execDepotResume (p : WscPort) (s : State) : Host.Outcome State Fault Refusal :=
  .next (portRow p (some .cmd) 0xD0 (· == .resume) s)

/-- STATUS (R236). -/
def execStatus (p : WscPort) (s : State) : Host.Outcome State Fault Refusal :=
  .next (portRow p (some .cmd) 0x70 (· == .status) s)

/-- READID (R236). -/
def execReadid (p : WscPort) (s : State) : Host.Outcome State Fault Refusal :=
  .next (portRow p (some .cmd) 0x90 (· == .readid) s)

/-- READ_ARRAY_LOAD (R243): the WSC_ADDR_HI write in read-array state. -/
def execReadArrayLoad (p : WscPort) (v : Reg32) (s : State) : Host.Outcome State Fault Refusal :=
  .next (portRow p (some .addrHi) v (· == .readArray) s)

/-- BULK_READ (R243): the WSC_STAGE_HI write in read-array state. -/
def execBulkRead (p : WscPort) (v : Reg32) (s : State) : Host.Outcome State Fault Refusal :=
  .next (portRow p (some .stageHi) v (· == .bulkRead) s)

/-- A failed unit's bit of WSC_ERR, and its record (R233, R243). -/
def noteUnit (p : WscPort) (sec unit : Nat) (c : Option (BitVec 16)) (s : State) : State :=
  match c with
  | none => s
  | some c =>
    wscFail p (if c = Code.depotUe then 8 else 9) c (unitDie (s.dieOf sec)) (sectorBytes * sec + unit * 4096) s

/-- READ_UNIT_LOADED (R233, R243): the unit comes, and RD_READY is set. -/
def execReadUnitLoaded (p : WscPort) (retries : Nat) (tagOk : Bool) (s : State) : Host.Outcome State Fault Refusal :=
  let v := s.wsc p
  let sec := v.raddr / sectorBytes
  let unit := v.raddr / 4096 % 16384
  if !v.rpend || s.sectorBusy sec || (s.die (s.dieOf sec)).owes (.port p) then .next s
  else
    let r := s.readUnit v.rkeys sec unit retries tagOk
    let words := if r.2.isSome then List.replicate 1024 (BitVec.allOnes 32) else unitWords r.1
    .next (fwGo (noteUnit p sec unit r.2 ((noteRetries sec unit retries s).modWsc p (fun v => { v with
      rdReady := true, rpend := false, rbuf := words, rkeys := [] }))))

/-- What a read of WSC_RDATA returns, and what it changes (R236, R243). -/
def rdataRead (p : WscPort) (s : State) : Reg32 × State :=
  let v := s.wsc p
  let ones : Reg32 := BitVec.allOnes 32
  let fail (bit : Nat) : Reg32 × State := (ones, s.modWsc p (fun v => { v with err := v.err ||| BitVec.ofNat 13 (2 ^ bit) }))
  if v.shown || v.st != .ready || v.step != 0 then (v.rdata, s)
  else if s.sectorBusy (v.raddr / sectorBytes) && (v.rpend || v.rdReady) then fail 11
  else if !v.rdReady then fail 10
  else
    let w := v.rbuf.getD v.rptr ones
    let s1 := s.modWsc p (fun v => { v with rptr := v.rptr + 1, rdata := w })
    (w, if v.rptr + 1 < 1024 then s1 else loadUnit p (v.raddr + 4096) s1)

/-- A read of a port's registers reaches them. -/
def State.portReads (s : State) (p : WscPort) : Bool :=
  match p with
  | .host => s.glb.portUp && !s.glb.d3hot
  | .fw => !s.compHeld .bootmon

/-- WSC_RDATA_READ (R243); in D3hot the host's read ends with Unsupported Request (R330). -/
def execWscRdataRead (p : WscPort) (s : State) : Host.Outcome State Fault Refusal :=
  if p = .host ∧ s.glb.portUp ∧ s.glb.d3hot then .next (emit .cplUnsupported s)
  else if !s.portReads p then .next s
  else
    let r := rdataRead p s
    .next (match p with
      | .host => emit (.regRead 0x40004C (r.1.setWidth 64)) r.2
      | .fw => r.2)

/-- DEPOT_UNIT_READ (R233, R243, R245): a unit read; the next one of a bulk read goes to its stage when its die has served it, poison as
markers, a busy sector's as 0xFF. -/
def execDepotUnitRead (sector unit : Nat) (retries : Nat) (tagOk : Bool) (s : State) : Host.Outcome State Fault Refusal :=
  let addr := sectorBytes * sector + unit * 4096
  if !(s.isUser sector || s.isDevice sector) || decide (16384 ≤ unit) then .next s
  else
    let mine (p : WscPort) : Bool := decide ((s.wsc p).bulkPos < (s.wsc p).bulkEnd) && (s.wsc p).bulkPos / 4096 * 4096 == addr
    match (if mine .host then some WscPort.host else if mine .fw then some WscPort.fw else none) with
    | none =>
      if s.sectorBusy sector then .next s
      else
        let r := s.readUnit s.secrets sector unit retries tagOk
        let s1 := noteRetries sector unit retries s
        .next (match r.2 with
          | none => s1
          | some c => record c none (unitDie (s.dieOf sector)) 0 addr s1)
    | some p =>
      let v := s.wsc p
      let busy := s.sectorBusy sector
      if !busy && (s.die (s.dieOf sector)).owes (.bulk p) then .next s else
      let r : List MByte × Option (BitVec 16) :=
        if busy then (List.replicate 4096 (0xFF, false), none) else s.readUnit v.bulkKeys sector unit retries tagOk
      let off := v.bulkPos - addr
      let n := min (4096 - off) (v.bulkEnd - v.bulkPos)
      let s1 := if busy then s.modWsc p (fun v => { v with err := v.err ||| BitVec.ofNat 13 (2 ^ 11) })
        else noteUnit p sector unit r.2 (noteRetries sector unit retries s)
      let s2 := match modelWrite v.bulkTenant v.bulkStage ((r.1.drop off).take n) s1 with
        | .ok s2 => s2
        | .error c => writeFault v.bulkTenant v.bulkStage c s1
      .next (settlePort p (bulkNext p (dropReads (.bulk p) (s2.modWsc p (fun v => { v with
        bulkPos := v.bulkPos + n, bulkStage := v.bulkStage + n, done := v.done + n })))))

/-! ## Die events (R239, R241, R244, R245) -/

/-- The data units of a program unit, filled to 32 (R239). -/
def State.unitData (s : State) (u : ProgUnit) (i : Nat) : Unit4K :=
  if i < u.lo ∨ u.hi ≤ i then .filler
  else
    let off := (i - u.lo) * 4096
    let plain := match u.stage with
      | none => (u.bytes.drop off).take 4096
      | some (t, a) => (modelRead t (a + off) 4096 s).1.map (·.1)
    s.encodeUnit u.secret u.sector (u.unit * 32 + i) plain

/-- The 32 units of a program unit stand in the sector. -/
def putUnits (u : ProgUnit) (s : State) : State :=
  let new := (List.range 32).map (fun i => some (s.unitData u i))
  { s with dep := { s.dep with units := ssetRun none s.dep.units (unitKey u.sector (u.unit * 32)) new } }

/-- A program unit's sector: its write pointer and its key slot (R231, R239). -/
def touchUnit (u : ProgUnit) (s : State) : State :=
  s.writeHeader u.sector (fun h => { h with wptr := max h.wptr (u.unit + 1), kslot := u.slot })

/-- The running program unit of a die. -/
def Die.running (x : Die) : Option ProgUnit :=
  if x.st = .programming ∨ x.st = .suspProgramming then x.progs.head? else none

/-- The die stands free after a step. -/
def Die.free (x : Die) : Die :=
  { x with
    st := (match x.st with
      | .suspProgramming | .suspReading => .suspended
      | .reading | .programming => .idle
      | st => st)
    reading := none }

/-- A program unit is one of the PROGRAM that its port carries out. -/
def State.inHand (s : State) (u : ProgUnit) : Bool := u.no == (s.wsc u.port).progNo && (s.wsc u.port).progLeft != 0

/-- DIE_PROGRAM_UNIT_DONE (R239, R244): the unit is written, or its PROGRAM ends with PROGRAM_FAIL. Units of a PROGRAM that has ended so
which other dies have begun are written all the same. -/
def execDieProgramUnitDone (die : Fin 16) (fail : Bool) (s : State) : Host.Outcome State Fault Refusal :=
  match (s.die die.val).running with
  | none => .next s
  | some u =>
    let s1 := touchUnit u (s.modDie die.val (fun x => { x.free with progs := x.progs.tail }))
    let s2 := if !fail then
        (putUnits u s1).modWsc u.port (fun v =>
          if s.inHand u then { v with progLeft := v.progLeft - 1, done := v.done + 4096 * (u.hi - u.lo) } else v)
      else if !s.inHand u then s1
      else
        let keep (d : Nat) (x : Die) : List ProgUnit := x.progs.zipIdx.filterMap (fun e =>
          if e.1.port ≠ u.port ∨ e.1.no ≠ u.no ∨ (e.2 = 0 ∧ (s1.die d).running.isSome) then some e.1 else none)
        let s2 := { s1 with dep := { s1.dep with dies := smap Die.init s1.dep.dies (fun d (x : Die) => { x with progs := keep d x }) } }
        wscFail u.port 6 Code.programFail (unitDie die.val) (sectorBytes * u.sector + u.unit * 131072)
          (s2.modWsc u.port (fun v => { v with progLeft := 0 }))
    .next (fwGo (settlePorts ((List.range s.dies).foldl (fun s d => dieNext d s) s2)))

/-- DIE_ERASE_DONE (R241, R244, R246): write pointer, key slot and units cleared, or the ERASE ends with ERASE_FAIL and the sector is
undefined; the other erases of that ERASE go on, and SUSPEND still reaches them. -/
def execDieEraseDone (die : Fin 16) (fail : Bool) (s : State) : Host.Outcome State Fault Refusal :=
  let x := s.die die.val
  match (if x.st = .erasing then x.erase else none) with
  | none => .next s
  | some e =>
    let s1 := s.modDie die.val (fun x => { x with st := .idle, erase := none })
    let s2 := if fail then
        wscFail e.port 7 Code.eraseFail (unitDie die.val) (sectorBytes * e.sector)
          ((s1.modSector e.sector (fun h => { h with undef := true })).modWsc e.port (fun v =>
            if v.owns e.port e then { v with eraseLeft := v.eraseLeft.erase e.sector, eraseOver := true } else v))
      else
        let s2 := (s1.writeHeader e.sector (fun h => { h with wptr := 0, kslot := 0x3F })).modSector e.sector
          (fun h => { h with undef := false })
        { s2 with dep := { s2.dep with
            units := sclear s2.dep.units (unitKey e.sector 0) (unitKey (e.sector + 1) 0)
            line := s2.dep.line.filter (fun k => k != e.sector) } }.modWsc e.port
          (fun v => if v.owns e.port e then { v with
              eraseLeft := v.eraseLeft.erase e.sector
              done := if v.eraseOver then v.done else v.done + sectorBytes }
            else v)
    .next (fwGo (settlePorts ((List.range s.dies).foldl (fun s d => dieNext d s) { s2 with free := s2.free + 1 })))

/-- DEPOT_READ_REQUEST (R245). -/
def execDepotReadRequest (die : Fin 16) (cls : Fin 5) (s : State) : Host.Outcome State Fault Refusal :=
  if die.val < s.dies then .next (settlePorts (queueRead die.val ⟨cls, .other, 0⟩ s)) else .next s

/-- DIE_SUSPENDED (R245). -/
def execDieSuspended (die : Fin 16) (s : State) : Host.Outcome State Fault Refusal :=
  if (s.die die.val).st = .suspending then
    .next (settlePorts (dieNext die.val (s.modDie die.val (fun x => { x with st := .suspended }))))
  else .next s

/-- DIE_RESUME_DONE (R245). -/
def execDieResumeDone (die : Fin 16) (s : State) : Host.Outcome State Fault Refusal :=
  if (s.die die.val).st = .resuming then .next (s.modDie die.val (fun x => { x with st := .erasing })) else .next s

end Sys2Proof.Machine
end

