-- ==== Sys2Proof/Machine/Weights.lean ====
section
/-! DEFINITION. Manifests and weight copies: loading, digests, arming, the points, releasing, background checks and reloads (R128,
R252 to R259). -/

namespace Sys2Proof.Machine

/-! ## Manifests (R252, R253) -/

/-- The shard rows match R252, lie in user sectors and in the copy. -/
def State.shardOk (s : State) (m : Bytes) (i : Nat) (h : Shard) : Bool :=
  let o := 64 + 64 * i
  decide (h.depotAddr < 2 ^ 41) && h.depotAddr % 4096 == 0 && decide (1 ≤ h.length) && decide (h.length ≤ 2 ^ 30) &&
    (h.kind == 2 || h.kind == 3 || (h.kind == 1 && i == 0)) && mfNat m (o + 13) 11 == 0 && h.offset % 4096 == 0 &&
    decide (h.offset + h.length ≤ mfNat m 8 8) && decide (h.depotAddr + h.length ≤ sectorBytes * s.userSectors)

/-- No two spans of a list overlap. -/
def disjointSpans : List (Nat × Nat) → Bool
  | [] => true
  | x :: r => r.all (fun y => !overlaps x.1 x.2 y.1 y.2) && disjointSpans r

/-- Public keys that a manifest's SIGNER names: those delivered to the tenant's slots, or the boot signing key. -/
def State.signers (s : State) (t : Nat) (m : Bytes) : List Bytes :=
  if m.getD 0x20 0 = 0 then
    ((List.range 32).filter (fun k => (s.tenant t).bindKey.getLsbD k)).filterMap (fun k => (s.keySlot k).signer)
  else [Config.bootSigner]

/-- The checks of R253 on a whole manifest. -/
def State.manifestOk (s : State) (t : Nat) (m : Bytes) : Bool :=
  let n := mfNat m 6 2
  let hs := manifestShards m
  let body := m.take (64 + 64 * n)
  mfNat m 0 4 == 0x4D460096 && mfNat m 4 2 == 1 && decide (1 ≤ n) && decide (n ≤ 4096) && mfNat m 8 8 % granuleBytes == 0 &&
    decide (m.getD 0x20 0 ≤ 1) && decide (m.getD 0x21 0 ≤ 1) && mfNat m 0x22 30 == 0 &&
    hs.zipIdx.all (fun h => s.shardOk m h.2 h.1) && disjointSpans (hs.map (fun h => (h.offset, h.length))) &&
    (m.getD 0x21 0 == 1) == ((s.tenant t).cls == 1) &&
    (s.signers t m).any (fun k => ecdsaVerify k ((m.drop (64 + 64 * n)).take 96) (sha384 body))

/-! ## LOADW (R254, R255) -/

def State.modCopy (s : State) (t c : Nat) (f : Copy → Copy) : State := s.modTenant t (fun y => y.setCopy c (f (y.copy c)))

/-- A load ends: its instruction completes with a status; what a load of the boot list, which has no instruction, meets is recorded. -/
def endLoad (t c : Nat) (st : CopyState) (code : BitVec 16) (addr : Nat) (s : State) : State :=
  let v := (s.tenant t).copy c
  let s0 := dropReads (.manifest t c) ((List.range v.shards.length).foldl (fun s i => dropReads (.shard t c i) s) s)
  let s1 := { s0 with dep := { s0.dep with loads := s0.dep.loads.filter (fun j => !(j.tenant == t && j.copy.val == c)) } }
  let s2 := s1.modCopy t c (fun v => { v with st := st, waiter := none })
  match v.waiter with
  | none => if code = 0 then s2 else record code (some t) unitNone (fwArg code) addr s2
  | some w => complete t w.1 w.2 code 0 addr unitNone true s2

/-- The range of a copy overlaps that of another copy that is not EMPTY (R254). -/
def Tenant.weightOverlap (y : Tenant) (c base n : Nat) : Bool :=
  (List.range 4).any (fun i => i != c && (y.copy i).st != .empty && overlaps base n (y.copy i).base (y.copy i).bytes)

/-- The class of a load's reads at a die (R20, R245). -/
def LoadJob.readClass (j : LoadJob) : Fin 5 := if j.cls = 1 then 1 else if j.cls = 3 then 4 else 2

/-- Shards in flight at once (R255). -/
def inFlight : Nat := 8

/-- The shards of a load in flight: the first eight of the manifest that are not accepted yet. -/
def Copy.flying (v : Copy) : List Nat :=
  (((List.range v.shards.length).filter (fun i => v.shards[i]?.any (fun h => !h.accepted)))).take inFlight

/-- The bytes of the manifest at a depot address as its count of shards gives them; where that cannot be read, its first unit. -/
def State.manifestSpan (s : State) (keys : Store Bytes) (addr : Nat) : Nat :=
  let head := s.depotRead keys false addr 64 []
  let n := mfNat head.data 6 2
  if head.fail.isSome ∨ 4096 < n then 4096 else manifestBytes n

/-- A load starts: its keys are taken and its manifest's read is queued (R255, R317). -/
def beginLoad (j : LoadJob) (s : State) : State :=
  let addr := sectorBytes * j.msector
  if !s.isUser j.msector && !(j.fw && s.isDevice j.msector) then
    endLoad j.tenant j.copy.val .failed Code.manifestInvalid addr s
  else
    let keys := s.jobKeys j
    settlePorts (queueReads addr (s.manifestSpan keys addr) j.readClass (.manifest j.tenant j.copy.val)
      { s with dep := { s.dep with loads := s.dep.loads.map (fun k =>
          if k = j then { k with running := true, keys := keys } else k) } })

/-- The load that starts next: express first (R20), regular before freight, in issue order. -/
def nextLoad (l : List LoadJob) : Option LoadJob :=
  let of (p : BitVec 2 → Bool) : Option LoadJob := l.find? (fun j => !j.running && p j.cls)
  ((of (· == 1)).or (of (· != 3))).or (of (fun _ => true))

/-- Waiting loads start while fewer than four run. -/
def startLoads (s : State) : State :=
  s.dep.loads.foldl (fun s _ =>
    if 4 ≤ (s.dep.loads.filter (·.running)).length then s
    else match nextLoad s.dep.loads with
      | none => s
      | some j => beginLoad j s) s

/-- The reads of a load's shards are queued at their dies. -/
def queueShards (j : LoadJob) (shards : List Shard) (is : List Nat) (s : State) : State :=
  settlePorts (is.foldl (fun s i => match shards[i]? with
    | none => s
    | some h => queueReads h.depotAddr h.length j.readClass (.shard j.tenant j.copy.val i) s) s)

/-- What the depot gives for a load's manifest: its first part alone where that fails or counts too many shards. -/
def State.manifestRead (s : State) (j : LoadJob) (m : List UnitErr) : DepotGot :=
  let addr := sectorBytes * j.msector
  let head := s.depotRead j.keys false addr 64 m
  let n := mfNat head.data 6 2
  if head.fail.isSome ∨ 4096 < n then head else s.depotRead j.keys false addr (manifestBytes n) m

/-- A manifest passes R253; one that firmware loads is signed with the boot key (R370). -/
def State.manifestFits (s : State) (j : LoadJob) (m : Bytes) : Bool :=
  s.manifestOk j.tenant m && (!j.fw || m.getD 0x20 0 == 1)

/-- A load's manifest has come: it is checked, its range checked, the first shards are queued (R253 to R255). -/
def takeManifest (j : LoadJob) (m : List UnitErr) (s0 : State) : State :=
  let t := j.tenant
  let c := j.copy.val
  let got := s0.manifestRead j m
  let s := noteReadings got.readings s0
  let fail (code : BitVec 16) (a : Nat) : State := endLoad t c .failed code a s
  match got.fail with
  | some e => fail e.1 e.2
  | none =>
    let bytes := mfNat got.data 8 8
    if !s.manifestFits j got.data then fail Code.manifestInvalid (sectorBytes * j.msector)
    else if !(s.tenant t).inRanges j.dest bytes then fail Code.planRange j.dest
    else if (s.tenant t).weightOverlap c j.dest bytes then fail Code.weightOverlap j.dest
    else
      let v : Copy := { (s.tenant t).copy c with
        base := j.dest, bytes := bytes, digest := sha256 got.data, express := got.data.getD 0x21 0 == 1
        shards := manifestShards got.data }
      let s1 := s.modCopy t c (fun _ => v)
      queueShards j v.shards v.flying { s1 with dep := { s1.dep with loads := s1.dep.loads.map (fun k =>
        if k = j then { k with ready := true } else k) } }

/-- What is left of a run once the unit being read has come. -/
def Die.rest (x : Die) : List DieRead :=
  match x.reading with
  | some r => if r.more = 0 then [] else [{ r with more := r.more - 1 }]
  | none => []

/-- DIE_READ_DONE (R244, R245): the die chooses anew, what is left of the run among its reads; a manifest that has been read is taken.
`media` is what the units of the manifest meet. -/
def execDieReadDone (die : Fin 16) (media : List UnitErr) (s : State) : Host.Outcome State Fault Refusal :=
  let x := s.die die.val
  if x.st = .reading ∨ x.st = .suspReading then
    let s1 := settlePorts (dieNext die.val (s.modDie die.val (fun x => { x.free with reads := x.rest ++ x.reads })))
    .next (match (if x.rest = [] then x.reading.map DieRead.who else none) with
      | some (Reader.manifest t c) =>
        (match s1.dep.loads.find? (fun j => j.tenant == t && j.copy.val == c && j.running && !j.ready) with
         | some j => if s1.compHeld .loader then s1 else startLoads (takeManifest j media s1)
         | none => s1)
      | _ => s1)
  else .next s

/-- The loader is held: LOADW, DIGESTW and reloads complete with FW_HELD (R304). -/
def loaderHeld (t q : Nat) (p : Presented) (s : State) : State :=
  failUnissued t q p Code.fwHeld 0 0x22 s

/-- COPY of a copy instruction. -/
def copyOf (p : Presented) : Fin 4 := ⟨pf p.w0 47 46 % 4, Nat.mod_lt _ (by decide)⟩

def loadwBody (t q : Nat) (p : Presented) (s : State) : State :=
  let c := copyOf p
  if s.compHeld .loader then loaderHeld t q p s
  else if ((s.tenant t).copy c.val).st ≠ .empty then failUnissued t q p Code.copyState 0 0 s
  else
    let s1 := (issueOpen t q p s).modCopy t c.val (fun _ => { Copy.init with st := .loading, waiter := some (q, p.idx) })
    let j : LoadJob := ⟨t, c, (s.tenant t).cls, pf p.w0 14 0, granuleBytes * pf p.w1 47 21, false, false, [], false⟩
    startLoads { s1 with dep := { s1.dep with loads := s1.dep.loads ++ [j] } }

def execLoadw (t : Ten) (q : Que) (w0 w1 : BitVec 64) (s : State) : Host.Outcome State Fault Refusal :=
  .next (present t q w0 w1 (pOp w0 == 0x10) (loadwBody t.val q.val) s)

/-- SHARD_DIGEST_CHECK (R255, R256): a shard in flight of a running load has been read, decrypted, written and hashed; the last
accepted makes the copy LOADED. What came before a unit that fails is written all the same. `media` is what its units meet. -/
def execShardDigestCheck (t : Ten) (copy : Fin 4) (shard : Nat) (media : List UnitErr) (s : State) :
    Host.Outcome State Fault Refusal :=
  let s0 := if s.compHeld .loader then s else startLoads s
  let v := (s0.tenant t.val).copy copy.val
  match s0.dep.loads.find? (fun j => j.tenant == t.val && j.copy == copy && j.ready), v.shards[shard]? with
  | some j, some h =>
    if !v.flying.contains shard || v.st != .loading || s0.compHeld .loader || s0.awaits (.shard t.val copy.val shard) then .next s0
    else
      let got := s0.depotRead j.keys true h.depotAddr h.length media
      let s1 := noteReadings got.readings s0
      let at_ := v.base + h.offset
      let fail (c : BitVec 16) (a : Nat) (s : State) : State := startLoads (endLoad t.val copy.val .failed c a s)
      match modelWrite t.val at_ (unmarked got.data) s1 with
      | .error c => .next (fail c at_ s1)
      | .ok s2 =>
        match got.fail with
        | some e => .next (fail e.1 e.2 s2)
        | none =>
          if sha256 got.data != h.digest then .next (fail Code.digestMismatch at_ s2)
          else
            let w := { v with shards := v.shards.set shard { h with accepted := true } }
            let s3 := s2.modCopy t.val copy.val (fun v => { v with shards := v.shards.set shard { h with accepted := true } })
            .next (if w.shards.all (·.accepted) then startLoads (endLoad t.val copy.val .loaded 0 0 s3)
              else queueShards j w.shards (w.flying.filter (fun i => !v.flying.contains i)) s3)
  | _, _ => .next s0

/-! ## Digests after loading (R258, R259) -/

/-- A shard's bytes in memory match its digest; a poisoned byte does not. -/
def shardMatches (t : Nat) (v : Copy) (h : Shard) (s : State) : Bool × State :=
  let r := modelRead t (v.base + h.offset) h.length s
  (!r.1.any (·.2) && sha256 (r.1.map (·.1)) == h.digest, r.2)

/-- A DISPATCH has descriptors to come that may read model memory. -/
def Dispatch.readsOn (d : Dispatch) : Bool := d.descsLeft != 0 || d.blocks2 != 0

/-- DISPATCHes that have still to read a poisoned shard complete with DIGEST_MISMATCH; what a descriptor has read already counts as
read (notes/assumptions/62.md). -/
def loseReads (t : Nat) (c : Fin 4) (base n : Nat) (s : State) : State :=
  { s with disp := s.disp.map (fun d =>
      if d.tenant = t ∧ d.copy = some c ∧ d.readsOn then
        match d.reads.find? (fun r => overlaps r.1 r.2 base n) with
        | none => d
        | some r => d.faulted Code.digestMismatch (detailOf (max r.1 base) unitNone)
      else d) }

/-- A mismatch found: the shard is poisoned, counted, and reloads (R259). -/
def poisonShard (t : Nat) (c : Fin 4) (i : Nat) (h : Shard) (s : State) : State :=
  let v := (s.tenant t).copy c.val
  let keys := s.loadKeys t
  let s1 := s.modCopy t c.val (fun v => { v with shards := v.shards.set i { h with poisoned := true, reload := some keys } })
  loseReads t c (v.base + h.offset) h.length
    (settlePorts (queueReads h.depotAddr h.length 4 (.reload t c.val i)
      { s1 with dep := { s1.dep with mismatch := satAdd s1.dep.mismatch 1 } }))

/-- One shard of a copy checked; the address of the first mismatch is kept. The record of the first one that a DIGESTW finds is that of
its completion (R259). -/
def checkShard (t : Nat) (c : Fin 4) (i : Nat) (pass : Bool) (acc : State × Option Nat) : State × Option Nat :=
  let v := (acc.1.tenant t).copy c.val
  match v.shards[i]? with
  | none => acc
  | some h =>
    if h.poisoned then (acc.1, acc.2.or (some (v.base + h.offset)))
    else
      let r := shardMatches t v h acc.1
      if r.1 then (r.2, acc.2)
      else
        let s1 := poisonShard t c i h r.2
        (if pass || acc.2.isSome then record Code.digestMismatch (some t) unitNone 0 (v.base + h.offset) s1 else s1,
          acc.2.or (some (v.base + h.offset)))

def Copy.checkable (v : Copy) : Bool := v.st == .loaded || v.st == .armed

/-- DIGESTW: one shard, or all; a shard number the manifest does not have is refused as an operand. -/
def digestwBody (t q : Nat) (p : Presented) (s : State) : State :=
  let c := copyOf p
  let v := (s.tenant t).copy c.val
  let n := pf p.w0 11 0
  if s.compHeld .loader then loaderHeld t q p s
  else if !v.checkable then failUnissued t q p Code.copyState 0 0 s
  else if !p.w0.getLsbD 12 && decide (v.shards.length ≤ n) then failUnissued t q p Code.planOperand 0 0 s
  else
    let which := if p.w0.getLsbD 12 then List.range v.shards.length else [n]
    let r := which.foldl (fun acc i => checkShard t c i false acc) (s, none)
    match r.2 with
    | none => issueDone t q p 0 r.1
    | some a => issueFault t q p Code.digestMismatch a r.1

def execDigestw (t : Ten) (q : Que) (w0 w1 : BitVec 64) (s : State) : Host.Outcome State Fault Refusal :=
  .next (present t q w0 w1 (pOp w0 == 0x11) (digestwBody t.val q.val) s)

/-- BACKGROUND_DIGEST_PASS (R258): INTERVAL minutes after the previous pass started, every LOADED or ARMED copy is checked. -/
def execBackgroundDigestPass (s : State) : Host.Outcome State Fault Refusal :=
  let minutes := if s.dep.interval = 0 then s.dep.intervalSh else s.dep.interval
  if minutes = 0 ∨ s.glb.devTime < s.dep.passTime + minutes.toNat * 60000 * ms ∨ s.compHeld .loader then .next s
  else
    let s0 := { s with dep := { s.dep with
      interval := s.dep.intervalSh, share := s.dep.shareSh, passTime := s.glb.devTime } }
    if s0.dep.interval = 0 then .next s0
    else
      let work := (List.range 32).flatMap (fun t => (List.finRange 4).flatMap (fun c =>
        let v := (s.tenant t).copy c.val
        if v.checkable then (List.range v.shards.length).map (fun i => (t, c, i)) else []))
      let r := work.foldl (fun acc w => checkShard w.1 w.2.1 w.2.2 true acc) (s0, none)
      .next { r.1 with dep := { r.1.dep with passes := satAdd r.1.dep.passes 1 } }

/-- A reload that does not restore its shard (R259, R304). -/
def reloadFails (t c i : Nat) (h : Shard) (code : BitVec 16) (addr : Nat) (s : State) : State :=
  record code (some t) unitNone (fwArg code) addr
    (dropReads (.reload t c i) (s.modCopy t c (fun v => { v with shards := v.shards.set i { h with reload := none } })))

/-- A failed unit of a reload is reported (R233). -/
def reportUnit (t : Nat) (e : BitVec 16 × Nat) (s : State) : State :=
  if e.1 = Code.depotUe ∨ e.1 = Code.depotTagFail then record e.1 (some t) (unitDie (s.dieOf (e.2 / sectorBytes))) 0 e.2 s else s

/-- SHARD_RELOAD_DONE (R259): the reloaded digest matches and the poison lifts, or the shard stays poisoned. -/
def execShardReloadDone (t : Ten) (copy : Fin 4) (shard : Nat) (media : List UnitErr) (s : State) :
    Host.Outcome State Fault Refusal :=
  let v := (s.tenant t.val).copy copy.val
  match v.shards[shard]? with
  | none => .next s
  | some h =>
    let addr := v.base + h.offset
    let fails := reloadFails t.val copy.val shard h Code.reloadFail addr
    match h.reload with
    | none => .next s
    | some keys =>
      if s.awaits (.reload t.val copy.val shard) then .next s
      else
        let got := s.depotRead keys true h.depotAddr h.length media
        let s1 := noteReadings got.readings s
        match got.fail, modelWrite t.val addr (unmarked got.data) s1 with
        | some e, .ok s2 => .next (fails (reportUnit t.val e s2))
        | some e, .error _ => .next (fails (reportUnit t.val e s1))
        | none, .error _ => .next (fails s1)
        | none, .ok s2 =>
          if sha256 got.data != h.digest then .next (fails s2)
          else .next (s2.modCopy t.val copy.val (fun v => { v with
            shards := v.shards.set shard { h with poisoned := false, reload := none } }))

/-! ## ARMW, POINTS, RELEASEW (R128, R254, R257) -/

/-- ARMW: the kernels of shard 0's table are registered, and the scale slots take their initial scales (R57). -/
def armwBody (kernels : List KernelEntry) (initExps : List (BitVec 8)) (t q : Nat) (p : Presented) (s : State) : State :=
  let c := copyOf p
  if ((s.tenant t).copy c.val).st ≠ .loaded then failUnissued t q p Code.copyState 0 0 s
  else
    let s1 := s.modCopy t c.val (fun v => { v with st := .armed, kernels := kernels, scales := initExps })
    issueDone t q p 0 (if (s.tenantXid t).isSome then s1 else s1.modTenant t (Tenant.takeScales initExps))

def execArmw (t : Ten) (q : Que) (w0 w1 : BitVec 64) (kernels : List KernelEntry) (initExps : List (BitVec 8)) (s : State) :
    Host.Outcome State Fault Refusal :=
  .next (present t q w0 w1 (pOp w0 == 0x12) (armwBody kernels initExps t.val q.val) s)

def pointsBody (t q : Nat) (p : Presented) (s : State) : State :=
  let c := copyOf p
  if ((s.tenant t).copy c.val).st ≠ .armed then failUnissued t q p Code.copyState 0 0 s
  else issueDone t q p 0 (s.modTenant t (fun y => { y with points := some c }))

def execPoints (t : Ten) (q : Que) (w0 w1 : BitVec 64) (s : State) : Host.Outcome State Fault Refusal :=
  .next (present t q w0 w1 (pOp w0 == 0x13) (pointsBody t.val q.val) s)

/-- RELEASEW: RELEASING, then EMPTY when no batch holds the copy. -/
def releasewBody (t q : Nat) (p : Presented) (s : State) : State :=
  let c := copyOf p
  let v := (s.tenant t).copy c.val
  let may := v.st == .loaded || v.st == .failed || (v.st == .armed && (s.tenant t).points != some c)
  if !may then failUnissued t q p Code.copyState 0 0 s
  else settleCopies t ((issueOpen t q p s).modCopy t c.val (fun v => { v with st := .releasing, waiter := some (q, p.idx) }))

def execReleasew (t : Ten) (q : Que) (w0 w1 : BitVec 64) (s : State) : Host.Outcome State Fault Refusal :=
  .next (present t q w0 w1 (pOp w0 == 0x14) (releasewBody t.val q.val) s)

end Sys2Proof.Machine
end

