-- ==== Sys2Proof/Machine/Control.lean ====
section
/-! DEFINITION. Components with their watchdogs and restarts, and the attachment of a host (R299 to R309). -/

namespace Sys2Proof.Machine

/-! ## Components (R299) -/

/-- The ID of a component. -/
def compId : Comp → Nat
  | .bootmon => 0x01
  | .spdm => 0x02
  | .keymgr => 0x03
  | .planner1 => 0x11
  | .planner2 => 0x12
  | .planner3 => 0x13
  | .planner4 => 0x14
  | .shunt => 0x21
  | .loader => 0x22
  | .mgmt => 0x31
  | .telem => 0x32
  | .express => 0x41

/-- The core that carries a component. -/
def compCore : Comp → Nat
  | .bootmon => 0
  | .spdm => 0
  | .keymgr => 0
  | .planner1 => 1
  | .planner2 => 2
  | .planner3 => 3
  | .planner4 => 4
  | .shunt => 5
  | .loader => 5
  | .mgmt => 6
  | .telem => 6
  | .express => 7

def allComps : List Comp :=
  [.bootmon, .spdm, .keymgr, .planner1, .planner2, .planner3, .planner4, .shunt, .loader, .mgmt, .telem, .express]

/-- The firmware runs from BOOT to the next RESET (R362). -/
def State.firmwareRuns (s : State) : Bool :=
  match s.glb.st with
  | .off => false
  | .reset => false
  | .boot => false
  | .verify => false
  | .rejected => false
  | _ => true

/-! ## What a restart, or a held component, does (R151, R304) -/

/-- The arrays of a tenant come to rest at their next STOP (R94). -/
def quiesceTenant (t : Nat) (s : State) : State :=
  (s.tenant t).arrays.foldl (fun s a => s.modArr a (fun x => { x with quiesce := true })) s

/-- The tenants of a planner show WHY_FW until their arrays have resumed; one with no array resumes within the step (R151). -/
def pausePlanner (core : Nat) (s : State) : State :=
  (List.range 32).foldl (fun s t =>
    let y := s.tenant t
    if y.planner.toNat = core ∧ (y.st = .running ∨ y.st = .paused ∨ y.st = .stopping) then
      quiesceTenant t (s.setTenant t { y with whyFw := true }.settlePause)
    else s) s

/-- The plan cache of a planner is rebuilt empty: it is no hardware-held state (R149, R303). -/
def dropCache (core : Nat) (s : State) : State := { s with sec := { s.sec with caches := sset [] s.sec.caches core [] } }

/-- Every open SPDM session ends, and with it what a host had met of R306 since its version was accepted. -/
def endSessions (s : State) : State :=
  { s with
    sec := { s.sec with sessions := [] }
    glb := { s.glb with sessionOk := false } }

/-- The management session ends; an operation in progress ends with RESULT ABORTED, and an image that it was staging is given up. -/
def abortMgt (s : State) : State :=
  { s with
    mgt := { s.mgt with
      tls := .none
      busy := false
      result := if s.mgt.busy then 2 else s.mgt.result
      tx := [], rx := [], inp := [], pend := [] }
    dep := { s.dep with jobs := s.dep.jobs.map (fun j => { j with mbox := false, dead := j.dead || (j.mbox && j.image.isSome) }) } }

/-- An XPRARM in progress completes with XPR_ARM_FAIL. -/
def failArming (s : State) : State :=
  (List.range 4).foldl (fun s x => if (s.xid x).st = .arming then armUndone x Code.xprArmFail unitCore7 s else s) s

/-- Shards that were read or hashed are read again from their start (R303). -/
def rereadShards (s : State) : State :=
  let s1 := s.dep.loads.foldl (fun s j =>
    let v := (s.tenant j.tenant).copy j.copy.val
    if !j.ready then s
    else queueShards j v.shards v.flying (v.flying.foldl (fun s i => dropReads (.shard j.tenant j.copy.val i) s) s)) s
  (List.range 32).foldl (fun s t =>
    (List.range 4).foldl (fun s c =>
      ((s.tenant t).copy c).shards.zipIdx.foldl (fun s h =>
        if h.1.reload.isSome then
          settlePorts (queueReads h.1.depotAddr h.1.length 4 (.reload t c h.2) (dropReads (.reload t c h.2) s))
        else s) s) s) s1

/-- A component starts again from its clean image. -/
def onRestart (c : Comp) (s : State) : State :=
  match c with
  | .planner1 => pausePlanner 1 (dropCache 1 s)
  | .planner2 => pausePlanner 2 (dropCache 2 s)
  | .planner3 => pausePlanner 3 (dropCache 3 s)
  | .planner4 => pausePlanner 4 (dropCache 4 s)
  | .spdm => endSessions s
  | .mgmt => abortMgt s
  | .express => failArming s
  | .loader => rereadShards s
  | _ => s

/-- The tenants of a held planner go to the planners that still run; with all four held they stay PAUSED with WHY_FW. -/
def leavePlanner (core : Nat) (s : State) : State :=
  let live := s.livePlanner core
  if s.compHeld (plannerComp live) then
    (List.range 32).foldl (fun s t =>
      let y := s.tenant t
      if y.st ≠ .free ∧ 1 ≤ y.planner.toNat ∧ y.planner.toNat ≤ 4 then
        quiesceTenant t (s.setTenant t { y with whyFw := true }.settlePause)
      else s) s
  else
    { s with ten := smap Tenant.init s.ten (fun _ (y : Tenant) =>
        if y.planner.toNat = core then { y with planner := BitVec.ofNat 3 live } else y) }

/-- With SHUNT held: the move under way is given up, moves of commands are declined, spills end with what they have done (R207, R304,
notes/assumptions/39.md). -/
def leaveShunt (s : State) : State :=
  let s1 := s.mtc.moves.foldl (fun s v =>
    if v.running then abandonMove v s
    else match v.why with
      | .command _ _ => dropMove v s
      | _ => s) s
  s1.kv.seqs.foldl (fun s e => settleSeq (e.1 / 65536) (e.1 % 65536) s) s1

/-- With LOADER held: LOADWs and reloads complete with FW_HELD. -/
def leaveLoader (s : State) : State :=
  let s1 := s.dep.loads.foldl (fun s j => endLoad j.tenant j.copy.val .failed Code.fwHeld 0 s) s
  (List.range 32).foldl (fun s t =>
    (List.range 4).foldl (fun s c =>
      ((s.tenant t).copy c).shards.zipIdx.foldl (fun s h =>
        if h.1.reload.isSome then reloadFails t c h.2 h.1 Code.fwHeld h.1.depotAddr s else s) s) s) s1

/-- With BOOTMON held no work in the device sectors goes on; a mailbox operation that waits for it ends with RESULT ABORTED. -/
def leaveBootmon (s : State) : State :=
  let s1 := { s with dep := { s.dep with jobs := [] } }
  if s.dep.jobs.any (·.mbox) then mgtEnd 2 [] s1 else s1

/-- What follows when a component stays stopped. -/
def onHeld (c : Comp) (s : State) : State :=
  match c with
  | .planner1 => leavePlanner 1 s
  | .planner2 => leavePlanner 2 s
  | .planner3 => leavePlanner 3 s
  | .planner4 => leavePlanner 4 s
  | .shunt => leaveShunt s
  | .loader => leaveLoader s
  | .bootmon => leaveBootmon s
  | .spdm => endSessions s
  | .mgmt => abortMgt s
  | .express => failArming s
  | _ => s

/-- Device time of 60 s. -/
def minute : Nat := 60000 * ms

/-- A component stopped and restarted for a cause, or held at its fourth restart within 60 s (R302, R304). EXPRESS is not restarted
while a tenant is armed: LOCKSTEP and SAFE_HOLD (R286). -/
def restartComp (c : Comp) (why : RestartCause) (s : State) : State :=
  let v := sget CompSt.init s.sec.comps (compIdx c)
  let now := s.glb.devTime
  let recent := v.restarts.filter (fun t => decide (now ≤ t + minute))
  if v.held then s
  else if c = .express ∧ s.anyArmed then safeHold Code.lockstep (record Code.lockstep none unitCore7 0 0 s)
  else if 3 ≤ recent.length then
    onHeld c (record Code.fwHeld none (unitCore (compCore c)) (compId c) 0 { s with
      sec := { s.sec with comps := sset CompSt.init s.sec.comps (compIdx c) { v with held := true } }
      glb := { s.glb with fwHeld := s.glb.fwHeld ||| BitVec.ofNat 8 (2 ^ compCore c) } })
  else
    onRestart c (record Code.fwRestart none (unitCore (compCore c)) (compId c) 0 { s with
      sec := { s.sec with comps := sset CompSt.init s.sec.comps (compIdx c) { v with restarts := recent ++ [now], cause := some why } }
      glb := { s.glb with fwRestarts := satAdd s.glb.fwRestarts 1, fwLast := BitVec.ofNat 8 (compId c) } })

/-- CORE_WATCHDOG (R302): the component that missed its checkpoint is restarted, or, when the kernel missed it, every component of
the core. Core 7's watchdog with a tenant armed is a LOCKSTEP (R286). -/
def execCoreWatchdog (core : Fin 8) (late : Option Comp) (s : State) : Host.Outcome State Fault Refusal :=
  let mine := allComps.filter (fun c => compCore c == core.val)
  if !s.firmwareRuns then .next s
  else match late with
    | some c => if mine.contains c then .next (restartComp c .checkpoint s) else .next s
    | none => .next (mine.foldl (fun s c => restartComp c .kernel s) s)

/-- COMPONENT_ACCESS_FAULT (R300): the component is stopped at once and restarted; a protection violation records FW_ACCESS too. -/
def execComponentAccessFault (c : Comp) (cause : StopCause) (s : State) : Host.Outcome State Fault Refusal :=
  if !s.firmwareRuns || s.compHeld c then .next s
  else
    let s1 := if cause = .protection then record Code.fwAccess none (unitCore (compCore c)) (compId c) 0 s else s
    .next (restartComp c (.stop cause) s1)

/-- INSTRUCTION_FETCH_MISS (R248, R249): a fetch of a component, or of the kernel, is queued at the die; into a sector that is programmed
or erased it is an instruction access fault, which stops the component, or every component of the core (R300, R302). Core 7 fetches
nothing from the depot. -/
def execInstructionFetchMiss (core : Fin 8) (c : Option Comp) (addr : Nat) (s : State) : Host.Outcome State Fault Refusal :=
  let sec := addr / sectorBytes
  let key := unitKey sec (addr / 4096 % 16384)
  let mine := allComps.filter (fun c => compCore c == core.val)
  let who := match c with | none => mine | some c => mine.filter (· == c)
  if core.val = 7 || who.isEmpty || !s.firmwareRuns || !s.isDevice sec || s.dep.icache.contains key then .next s
  else if s.sectorBusy sec then
    .next (who.foldl (fun s c => restartComp c (.stop .fetch) s) (record Code.sectorBusyFetch none (unitCore core.val) sec addr s))
  else .next (settlePorts (queueRead (s.dieOf sec) ⟨0, .fetch, 0⟩
    { s with dep := { s.dep with icache := (key :: s.dep.icache).take 64 } }))

/-! ## The host (R305 to R309) -/

/-- The version range of this firmware: 1.2 to 1.4. -/
def versionOk (major minor : BitVec 8) : Bool := major == 1 && decide (2 ≤ minor.toNat) && decide (minor.toNat ≤ 4)

/-- Host writes reach the registers of R305 and R307: the port answers and the function is in D0 (R330, R360). -/
def State.hostReaches (s : State) : Bool := s.glb.portUp && !s.glb.d3hot

/-- A write to GLB_DRVVER: REJECT is write-one-to-clear; the version is checked only in AWAIT_HOST or while the host is lost (R305). A
session counts from the acceptance of the version that stands. -/
def writeDrvver (v : Reg32) (s : State) : State :=
  let major := v.extractLsb' 24 8
  let minor := v.extractLsb' 16 8
  let g := if v.getLsbD 1 then { s.glb with drvReject := false } else s.glb
  if g.st != .awaitHost && !g.lost then { s with glb := g }
  else if versionOk major minor then { s with glb := { g with drvMajor := major, drvMinor := minor, verOk := true } }
  else
    let s1 := { s with
      glb := { g with drvMajor := major, drvMinor := minor, verOk := false, drvReject := true, sessionOk := false }
      sec := { s.sec with sessions := s.sec.sessions.map (fun x => { x with afterVersion := false }) } }
    record Code.versionReject none unitHost 0 0 s1

def execGlbDrvverWrite (v : Reg32) (s : State) : Host.Outcome State Fault Refusal :=
  .next (if s.hostReaches then writeDrvver v s else s)

/-- A host window closes as WINCLOSE closes it (R308, R337). -/
def Window.shut (w : Window) : Window := if w.open_ then { w with open_ := false, closing := true } else w

/-- A RUNNING regular or freight tenant pauses with WHY_HOST. -/
def pauseForHost (t : Nat) (s : State) : State :=
  let y := s.tenant t
  if y.st = .running ∧ y.cls ≠ 1 then quiesceTenant t (s.setTenant t { y with whyHost := true }.settlePause) else s

/-- The host is lost (R308). -/
def hostLost (s : State) : State :=
  if !s.glb.attached then s
  else
    let g := { s.glb with
      attached := false, lost := true, lostSeen := true, losses := satAdd s.glb.losses 1
      verOk := false, sessionOk := false }
    let s1 := record Code.hostLost none unitHost 0 0 { s with glb := g }
    let s2 := endSessions { s1 with win := { s1.win with
      hostW := smap Window.init s1.win.hostW (fun _ (w : Window) => w.shut) } }
    (List.range 32).foldl (fun s t => pauseForHost t s) s2

/-- 300 ms without a heartbeat write have passed (R307). -/
def State.heartbeatLate (s : State) : Bool := s.glb.attached && decide (s.glb.hbTime + 300 * ms ≤ s.glb.devTime)

/-- The device states in which a host may attach. -/
def State.mayAttach (s : State) : Bool :=
  s.glb.verOk && s.glb.sessionOk && !s.glb.scanUnlocked &&
    (match s.glb.st with
     | .awaitHost => true
     | .ready => true
     | .degraded => true
     | .safeHold => true
     | _ => false)

/-- The host attaches; the first attachment leads from AWAIT_HOST to READY (R306). -/
def attach (s : State) : State :=
  let s1 := { s with glb := { s.glb with attached := true, lost := false, hbTime := s.glb.devTime } }
  if s1.glb.st = .awaitHost then updDegraded (setDev .ready s1) else s1

/-- A write to GLB_HEARTBEAT (R306, R307): in the reference cycle in which the timer reaches 300 ms it is late. -/
def writeHeartbeat (v : Reg32) (s : State) : State :=
  let s1 := if s.heartbeatLate then hostLost s else s
  let s2 := { s1 with glb := { s1.glb with heartbeat := v } }
  if s2.glb.attached then { s2 with glb := { s2.glb with hbTime := s2.glb.devTime } }
  else if s2.mayAttach then attach s2
  else s2

def execGlbHeartbeatWrite (v : Reg32) (s : State) : Host.Outcome State Fault Refusal :=
  .next (if s.hostReaches then writeHeartbeat v s else s)

/-- HEARTBEAT_TIMEOUT (R307, R308). -/
def execHeartbeatTimeout (s : State) : Host.Outcome State Fault Refusal :=
  .next (if s.heartbeatLate then hostLost s else s)

end Sys2Proof.Machine
end

