-- ==== Sys2Proof/Machine/DeviceSectors.lean ====
section
/-! DEFINITION. What core 0 keeps in the device sectors: firmware images in two halves, the configuration record (R224, R230, R313,
R319, R323, R324). The layout is the model's (notes/assumptions/61.md). -/

namespace Sys2Proof.Machine

/-! ## Writing and reading as BOOTMON does -/

/-- Bytes filled up to whole units. -/
def padUnits (l : Bytes) : Bytes := l ++ List.replicate ((4096 - l.length % 4096) % 4096) 0

/-- A job of core 0 queued, and begun where the port is free. -/
def storeJob (j : FwJob) (s : State) : State := fwStart { s with dep := { s.dep with jobs := s.dep.jobs ++ [j] } }

/-- The secret of a device slot as core 0 fills it (R319). -/
def deviceKey (slot : Nat) : Store Bytes := [(slot, Config.deviceSecret slot)]

/-! ## Firmware images (R324) -/

/-- The first sector of a half, and how many of it hold an image: the last device sector is the configuration's. -/
def State.halfBase (s : State) (h : Fin 2) : Nat := 0x7F00 + h.val * (s.deviceSectors / 2)
def State.halfRoom (s : State) (h : Fin 2) : Nat := s.deviceSectors / 2 - h.val

/-- The most bytes of a small PROGRAM (R236): so many of an image, or of a record, stand in a program unit. -/
def pieceBytes : Nat := 65536

/-- The sectors that an image takes after the first of its half, which holds its record. -/
def imageSectors (n : Nat) : Nat := (n + 512 * pieceBytes - 1) / (512 * pieceBytes)

/-- Number and length of the image in a half, where there is one. -/
def State.halfHead (s : State) (h : Fin 2) : Option (Nat × Nat) :=
  let x := s.depotRead (deviceKey 0x20) true (sectorBytes * s.halfBase h) 16 []
  let n := leNat (x.data.drop 8)
  if x.fail.isSome || (s.sector (s.halfBase h)).undef || decide (s.halfRoom h < 1 + imageSectors n) then none
  else some (leNat (x.data.take 8), n)

/-- The half whose image the boot ROM reads: the one with the higher number. -/
def State.bootHalf (s : State) : Option (Fin 2 × Nat) :=
  match s.halfHead 0, s.halfHead 1 with
  | none, none => none
  | some a, none => some (0, a.2)
  | none, some b => some (1, b.2)
  | some a, some b => if a.1 < b.1 then some (1, b.2) else some (0, a.2)

/-- Where a piece of the image of a half stands. -/
def State.pieceAddr (s : State) (h : Fin 2) (i : Nat) : Nat := sectorBytes * (s.halfBase h + 1) + progBytes * i

/-- The image that the boot ROM reads, and its half. -/
def State.bootImage (s : State) : Option (Fin 2 × Bytes) :=
  match s.bootHalf with
  | none => none
  | some (h, n) => some (h, (List.range ((n + pieceBytes - 1) / pieceBytes)).flatMap (fun i =>
      (s.depotRead (deviceKey 0x20) true (s.pieceAddr h i) (min pieceBytes (n - pieceBytes * i)) []).data))

/-- The half that the running image does not stand in, and the number of a new image. -/
def State.spareHalf (s : State) : Fin 2 := if s.mgt.half = 0 then 1 else 0
def State.newNumber (s : State) : Nat := max ((s.halfHead 0).getD (0, 0)).1 ((s.halfHead 1).getD (0, 0)).1 + 1

/-- The image fits its half. -/
def State.imageFits (s : State) (img : Bytes) : Bool := decide (1 + imageSectors img.length ≤ s.halfRoom s.spareHalf)

/-- The steps that write an image: its half's sectors erased, the image programmed and read back, then its record (R240, R324). -/
def State.imageSteps (s : State) (img : Bytes) : List FwStep :=
  let h := s.spareHalf
  let ps := (chunks pieceBytes ((img.length + pieceBytes - 1) / pieceBytes) img).zipIdx.map (fun x => (s.pieceAddr h x.2, padUnits x.1))
  let top := sectorBytes * s.halfBase h
  let rec_ := imageRecord s.newNumber img.length
  .erase (s.halfBase h) (1 + imageSectors img.length) :: ps.map (fun p => FwStep.program p.1 p.2) ++
    ps.flatMap (fun p => checksOf p.1 p.2) ++ .program top rec_ :: checksOf top rec_

/-- A firmware image for the inactive half, under slot 0x20. -/
def storeImage (img : Bytes) (s : State) : State :=
  storeJob ⟨0x20, s.halfBase s.spareHalf, 1 + imageSectors img.length, s.imageSteps img, false, some img, true, false⟩ s

/-! ## The configuration record (R224, R319, R323, R324) -/

/-- What the configuration holds: the two roots, the network settings, spare rows in use by bank and by siding and MiB. -/
structure Stored where
  hostRoot : Option Bytes
  mgtRoot : Option Bytes
  net : List Reg32
  banks : List Nat
  sidings : List Nat
deriving DecidableEq, Repr

/-- What of the state belongs into the configuration. -/
def State.toStore (s : State) : Stored where
  hostRoot := s.sec.hostRoot
  mgtRoot := s.sec.mgtRoot
  net := s.mgt.net
  banks := (List.range 64).map (fun b => (sget Bank.init s.mtc.banks b).spareField.toNat)
  sidings := (List.range 384).map (fun k => sget 0 (s.arr (k / 6)).spareMib (k % 6))

/-- A root as it is stored, and as it is read. -/
def rootBytes : Option Bytes → Bytes
  | none => [0]
  | some b => 1 :: b
def takeRoot : Bytes → Option Bytes × Bytes
  | [] => (none, [])
  | f :: r => if f = 0 then (none, r) else (some (r.take 48), r.drop 48)

/-- The configuration in bytes, its length before it. -/
def Stored.bytes (c : Stored) : Bytes :=
  let body := rootBytes c.hostRoot ++ rootBytes c.mgtRoot ++ leBytes 4 c.net.length ++ c.net.flatMap (fun w => leBytes 4 w.toNat) ++
    (c.banks ++ c.sidings).flatMap (fun n => leBytes 1 n)
  leBytes 4 body.length ++ body

/-- The configuration that bytes spell. -/
def parseStored (l : Bytes) : Stored :=
  let (hr, l1) := takeRoot l
  let (mr, l2) := takeRoot l1
  let n := leNat (l2.take 4)
  let rest := (l2.drop 4).drop (4 * n)
  { hostRoot := hr, mgtRoot := mr
    net := (chunks 4 n ((l2.drop 4).take (4 * n))).map (fun b => BitVec.ofNat 32 (leNat b))
    banks := (rest.take 64).map (·.toNat), sidings := ((rest.drop 64).take 384).map (·.toNat) }

/-- The record that was written last, where the sector holds one. -/
def State.storedConfig (s : State) : Option Stored :=
  let h := s.sector s.configSector
  let addr := sectorBytes * s.configSector + progBytes * (h.wptr - 1)
  let n := leNat (s.depotRead (deviceKey 0x21) true addr 4 []).data
  let x := s.depotRead (deviceKey 0x21) true addr (4 + n) []
  if h.wptr = 0 ∨ h.undef ∨ pieceBytes < 4 + n ∨ x.fail.isSome then none else some (parseStored (x.data.drop 4))

/-- Core 0 stores the configuration as it stands, under slot 0x21; `mbox`: an operation of the mailbox ends with it. -/
def storeConfig (mbox : Bool) (s : State) : State :=
  storeJob ⟨0x21, s.configSector, 1, [.record (padUnits s.toStore.bytes)], false, none, mbox, false⟩ s

/-- The roots and network settings of the configuration are taken at BOOT. -/
def takeRoots (s : State) : State :=
  match s.storedConfig with
  | none => s
  | some c => { s with
      sec := { s.sec with hostRoot := c.hostRoot, mgtRoot := c.mgtRoot }
      mgt := { s.mgt with net := c.net } }

/-- The field retirements of the configuration are reapplied at TRAIN (R224). -/
def reapplyRows (s : State) : State :=
  match s.storedConfig with
  | none => s
  | some c =>
    let banks := (List.range 64).foldl (fun m b =>
      supd Bank.init m b (fun v => { v with spareField := BitVec.ofNat 8 (c.banks.getD b 0) })) s.mtc.banks
    (List.range 64).foldl (fun s a =>
      let l := (List.range 6).map (fun m => c.sidings.getD (6 * a + m) 0)
      s.modArr a (fun x => { x with
        spareField := BitVec.ofNat 8 l.sum
        spareMib := l.zipIdx.foldl (fun m e => sset 0 m e.2 e.1) [] }))
      { s with mtc := { s.mtc with banks := banks } }

/-! ## The patrol scrub (R223, R224) -/

/-- PATROL_SCRUB: a visit; a row retired is stored in the configuration, while BOOTMON runs. -/
def execPatrolScrub (unit row : Nat) (ce : Bool) (ue : List Nat) (s : State) : Host.Outcome State Fault Refusal :=
  let s1 := patrolVisit unit row ce ue s
  .next (if s1.toStore = s.toStore ∨ s.compHeld .bootmon then fwGo s1 else storeConfig false s1)

end Sys2Proof.Machine
end

