-- ==== Sys2Proof/Machine/Attest.lean ====
section
/-! DEFINITION. The SPDM responder and the measurements (R310 to R313), tenant key slots and wrapped blobs (R314 to R320). -/

namespace Sys2Proof.Machine

/-! ## What the device tells of itself -/

/-- GLB_IDENT (R1). -/
def State.ident (s : State) : Reg32 :=
  BitVec.ofNat 32 (0x0A96 * 2 ^ 16 + s.fuse.stepMajor.toNat * 2 ^ 12 + s.fuse.stepMinor.toNat * 2 ^ 8 +
    s.fuse.grade.toNat * 16 + s.fuse.depot.toNat)

/-- The device certificate, the SHA-384 digest of it, and the chain of slot 0 (R310). -/
def State.deviceCert (s : State) : Bytes := Config.deviceCert s.fuse.idPub s.fuse.serial s.ident
def State.idDigest (s : State) : Bytes := sha384 s.deviceCert
def State.certChain (s : State) : Bytes := Config.caCerts ++ s.deviceCert

/-- A signature of the identity key (R310). -/
def State.sign (s : State) (msg : Bytes) : Bytes := Config.identitySign s.fuse.idKey msg s.free

/-- The manifest digest of the package armed for an XID, or 32 zero bytes. -/
def State.armedDigest (s : State) (x : Nat) : Bytes :=
  let v := s.xid x
  if v.armed then ((s.tenant v.tenant.toNat).copy v.copy).digest else List.replicate 32 0

/-- Measurement blocks by index (R313): 1, the boot ROM, is no value of the manual's; 2 is the image that control SRAM holds; 3 is raw; a
root not provisioned has no digest. -/
def State.measure (s : State) (i : Nat) : Option Bytes :=
  if i = 1 then some (Config.measurement 1)
  else if i = 2 then some (sha384 (s.sec.sram.getD []))
  else if i = 3 then
    some (leBytes 4 s.ident.toNat ++ leBytes 4 s.fuse.minSecVersion ++ [BitVec.ofNat 8 (b2n (!s.glb.scanUnlocked))])
  else if i = 4 then some (s.sec.hostRoot.getD (Config.measurement 4))
  else if i = 5 then some (s.sec.mgtRoot.getD (Config.measurement 5))
  else if 0x10 ≤ i ∧ i ≤ 0x13 then some (s.armedDigest (i - 0x10))
  else none

def measureIndices : List Nat := [1, 2, 3, 4, 5, 0x10, 0x11, 0x12, 0x13]

/-- A measurement block as it is listed: index, length, content. -/
def measureBlock (i : Nat) (b : Bytes) : Bytes := [BitVec.ofNat 8 i] ++ leBytes 2 b.length ++ b

/-! ## The SPDM connection (R311) -/

/-- SPDM requests reach the responder: the port is in D0 and the component runs. -/
def State.responds (s : State) : Bool := s.hostReaches && s.firmwareRuns && !s.compHeld .spdm

/-- An answer, or ERROR; no answer while the responder is not there. -/
def answer (name : String) (ok : Bool) (payload : Bytes) (f : State → State) (s : State) : State :=
  if !s.responds then s
  else if ok then emit (.spdm name payload) (f s)
  else emit (.spdmError name) s

/-- An answer to a request of the profile; one outside it gets ERROR with UnsupportedRequest. -/
def answerIn (profile : Bool) (name : String) (ok : Bool) (payload : Bytes) (f : State → State) (s : State) : State :=
  if s.responds && !profile then emit (.spdmUnsupported name) s else answer name ok payload f s

/-- The connection has come so far: 1 version, 2 capabilities, 3 algorithms. -/
def setConn (n : Nat) (s : State) : State := { s with sec := { s.sec with conn := n } }

/-- A counter for a value drawn afresh. -/
def drawn (s : State) : State := { s with free := s.free + 1 }

/-- GET_VERSION: 1.2 only. -/
def execGetVersion (s : State) : Host.Outcome State Fault Refusal :=
  .next (answer "GET_VERSION" true [0x00, 0x12] (setConn 1) s)

/-- The capabilities of R311 in the flag positions of the SPDM standard. -/
def spdmFlags : Nat := 0x73F6

/-- GET_CAPABILITIES. -/
def execGetCapabilities (ver : BitVec 8) (s : State) : Host.Outcome State Fault Refusal :=
  .next (answerIn (ver == 0x12) "GET_CAPABILITIES" (decide (1 ≤ s.sec.conn)) (leBytes 4 spdmFlags) (setConn 2) s)

/-- The algorithms of R311 in the layout of the SPDM standard: measurements, signatures and hash, then DHE, AEAD, the requester's
signatures and the key schedule. -/
def spdmAlgorithms : Bytes :=
  [0x01, 0x00] ++ leBytes 4 0x04 ++ leBytes 4 0x80 ++ leBytes 4 0x02 ++
    [0x02, 0x20, 0x10, 0x00, 0x03, 0x20, 0x02, 0x00, 0x04, 0x20, 0x80, 0x00, 0x05, 0x20, 0x01, 0x00]

/-- NEGOTIATE_ALGORITHMS: `supported` when the requester offers the algorithms of R311. -/
def execNegotiateAlgorithms (supported : Bool) (s : State) : Host.Outcome State Fault Refusal :=
  .next (answerIn supported "NEGOTIATE_ALGORITHMS" (decide (2 ≤ s.sec.conn)) spdmAlgorithms (setConn 3) s)

/-- The algorithms are agreed. -/
def State.agreed (s : State) : Bool := decide (3 ≤ s.sec.conn)

/-- GET_DIGESTS: slot 0 only. -/
def execGetDigests (s : State) : Host.Outcome State Fault Refusal :=
  .next (answer "GET_DIGESTS" s.agreed (sha384 s.certChain) id s)

/-- What an object of 4 KiB has room for beside its header and the response's (R311). -/
def certPortion : Nat := 4080

/-- GET_CERTIFICATE: a portion of the chain of slot 0 (R310). -/
def execGetCertificate (slot : BitVec 8) (offset length : Nat) (s : State) : Host.Outcome State Fault Refusal :=
  .next (answerIn (slot == 0) "GET_CERTIFICATE" s.agreed ((s.certChain.drop offset).take (min length certPortion)) id s)

/-- CHALLENGE: signed by the identity key over the requester's nonce (R310). -/
def execChallenge (slot : BitVec 8) (nonce : Bytes) (s : State) : Host.Outcome State Fault Refusal :=
  .next (answerIn (slot == 0) "CHALLENGE" s.agreed
    (sha384 s.certChain ++ s.sign (sha384 s.certChain ++ nonce)) drawn s)

/-- GET_MEASUREMENTS (R313): index 0 the number of blocks, 0xFF all blocks, else the block named, signed over the nonce. -/
def execGetMeasurements (index : BitVec 8) (nonce : Bytes) (s : State) : Host.Outcome State Fault Refusal :=
  let blocks : Option Bytes :=
    if index = 0 then some [BitVec.ofNat 8 measureIndices.length]
    else if index = 0xFF then some (measureIndices.flatMap (fun i => measureBlock i ((s.measure i).getD [])))
    else (s.measure index.toNat).map (measureBlock index.toNat)
  let b := blocks.getD []
  .next (answer "GET_MEASUREMENTS" (s.agreed && blocks.isSome) (b ++ s.sign (b ++ nonce)) drawn s)

/-- A request outside the profile (R311). -/
def execUnsupportedSpdmRequest (code : BitVec 8) (s : State) : Host.Outcome State Fault Refusal :=
  .next (answerIn false "UNSUPPORTED_SPDM_REQUEST" false [code] id s)

/-! ## Sessions (R306, R312) -/

def State.session? (s : State) (sid : BitVec 32) : Option Session := s.sec.sessions.find? (fun x => x.sid == sid)

def State.modSession (s : State) (sid : BitVec 32) (f : Session → Session) : State :=
  { s with sec := { s.sec with sessions := s.sec.sessions.map (fun x => if x.sid == sid then f x else x) } }

/-- A session ends; before attachment that takes the host back to condition 2 of R306 unless another counts. -/
def dropSession (sid : BitVec 32) (s : State) : State :=
  let l := s.sec.sessions.filter (fun x => x.sid != sid)
  { s with
    sec := { s.sec with sessions := l }
    glb := { s.glb with sessionOk := l.any (fun x => x.stage == .established && x.afterVersion) } }

/-- A session that waits at a stage. -/
def State.atStage (s : State) (sid : BitVec 32) (st : SessStage) : Bool := (s.session? sid).any (fun x => x.stage == st)

/-- A refusal of authentication (R312). -/
def authFails (name : String) (s : State) : State :=
  emit (.spdmError name) (record Code.spdmAuthFail none (unitCore 0) 0 0 s)

/-- KEY_EXCHANGE (R312): refused while no HOST_ROOT is provisioned; at most 4 sessions. The device's half of the session identifier
counts up. -/
def execKeyExchange (reqId : BitVec 16) (random exchange : Bytes) (s : State) : Host.Outcome State Fault Refusal :=
  if s.responds && s.agreed && s.sec.hostRoot.isNone then .next (authFails "KEY_EXCHANGE" s)
  else
    let sid := BitVec.ofNat 32 ((s.sec.sidNext.toNat % 2 ^ 16) * 2 ^ 16 + reqId.toNat)
    let out := leBytes 4 sid.toNat ++ Config.exchangeData s.free ++
      s.sign (random ++ exchange ++ Config.exchangeData s.free)
    .next (answerIn (decide (s.sec.sessions.length < 4)) "KEY_EXCHANGE" (s.agreed && (s.session? sid).isNone) out
      (fun s => drawn { s with sec := { s.sec with
        sidNext := s.sec.sidNext + 1, sessions := s.sec.sessions ++ [⟨sid, .handshake, false, 0⟩] } }) s)

/-- GET_ENCAPSULATED_REQUEST: the device asks for the requester's certificate chain. -/
def execGetEncapsulatedRequest (sid : BitVec 32) (s : State) : Host.Outcome State Fault Refusal :=
  .next (answer "GET_ENCAPSULATED_REQUEST" (s.atStage sid .handshake) []
    (fun s => s.modSession sid (fun x => { x with stage := .encap })) s)

/-- The requester's chain verifies and ends at HOST_ROOT. -/
def State.hostChain (s : State) (c : ChainResult) : Bool := c.verifies && s.sec.hostRoot == some c.rootDigest

/-- DELIVER_ENCAPSULATED_RESPONSE (R312): a chain that does not verify ends the session. -/
def execDeliverEncapsulatedResponse (sid : BitVec 32) (chain : ChainResult) (s : State) : Host.Outcome State Fault Refusal :=
  if s.responds && s.atStage sid .encap && !s.hostChain chain then
    .next (authFails "DELIVER_ENCAPSULATED_RESPONSE" (dropSession sid s))
  else
    .next (answer "DELIVER_ENCAPSULATED_RESPONSE" (s.atStage sid .encap) []
      (fun s => s.modSession sid (fun x => { x with stage := .verified })) s)

/-- The session is established: it counts for R306 when the version has been accepted. -/
def establish (sid : BitVec 32) (s : State) : State :=
  let s1 := s.modSession sid (fun x => { x with stage := .established, afterVersion := s.glb.verOk })
  if s.glb.verOk then { s1 with glb := { s1.glb with sessionOk := true } } else s1

/-- FINISH: a verified requester whose message authentication holds; one whose does not loses the session. -/
def execFinish (sid : BitVec 32) (macOk : Bool) (s : State) : Host.Outcome State Fault Refusal :=
  if s.responds && s.atStage sid .verified && !macOk then .next (emit (.spdmError "FINISH") (dropSession sid s))
  else .next (answer "FINISH" (s.atStage sid .verified) [] (establish sid) s)

/-- HEARTBEAT of a session; it does not restart the timer of R307. -/
def execHeartbeat (sid : BitVec 32) (s : State) : Host.Outcome State Fault Refusal :=
  .next (answer "HEARTBEAT" (s.atStage sid .established) [] id s)

/-- KEY_UPDATE of a session's keys. -/
def execKeyUpdate (sid : BitVec 32) (s : State) : Host.Outcome State Fault Refusal :=
  .next (answer "KEY_UPDATE" (s.atStage sid .established) []
    (fun s => s.modSession sid (fun x => { x with keyUpdates := x.keyUpdates + 1 })) s)

/-- END_SESSION. -/
def execEndSession (sid : BitVec 32) (s : State) : Host.Outcome State Fault Refusal :=
  .next (answer "END_SESSION" (s.atStage sid .established) [] (dropSession sid) s)

/-! ## Key slots (R314 to R319) -/

/-- Key operations are carried inside an established session only, while KEYMGR runs. -/
def State.keysOpen (s : State) (sid : BitVec 32) : Bool :=
  s.responds && !s.compHeld .keymgr && s.atStage sid .established

/-- A key operation's response; any status but 0 records KEY_REFUSED (R315). -/
def keyStatus (status : BitVec 8) (tenant : Nat) (data : Bytes) (s : State) : State :=
  let who := if tenant < 32 then some tenant else none
  emit (.keyResp status data) (if status = 0 then s else record Code.keyRefused who (unitCore 0) 0 0 s)

/-- A tenant slot bound to a tenant (R315); device slots are reached by no key operation (R319). -/
def State.keyBound (s : State) (slot tenant : Nat) : Bool :=
  decide (slot < 32) && decide (tenant < 32) && (s.tenant tenant).bindKey.getLsbD slot

/-- Why a slot takes no install: 1 NOT_BOUND, 2 NOT_EMPTY; 0 when it may. -/
def State.installStatus (s : State) (slot tenant : Nat) : BitVec 8 :=
  if !s.keyBound slot tenant then 1 else if (s.keySlot slot).installed then 2 else 0

/-- A signer key is a point on P-384, uncompressed. -/
def signerOk (k : Bytes) : Bool :=
  k.length == 97 && k.headD 0 == 4 && p384OnCurve (beNat ((k.drop 1).take 48)) (beNat ((k.drop 49).take 48))

/-- A slot becomes INSTALLED; its installs since RESET are counted (R316). -/
def installKey (slot : Nat) (wrapped : Bool) (secret : Bytes) (signer : Option Bytes) (s : State) : State :=
  { s with sec := { s.sec with
      slots := supd KeySlot.init s.sec.slots slot (fun v => ⟨true, wrapped, secret, signer, satAdd v.installs 1⟩) } }

/-- The wrapping key of the device (R318). -/
def State.wrapKey (s : State) : Bytes := hkdf384 [] s.fuse.dseed (label "AT96 wrap") 32

/-- A wrapped blob: 16 bytes of header, the ciphertext of the secret and the signer key, the tag. -/
def State.wrap (s : State) (flags : BitVec 8) (secret signer nonce : Bytes) : Bytes :=
  let head := leBytes 2 0x4B42 ++ [0x01, flags] ++ nonce.take 12
  let ks := aesKeys s.wrapKey
  let c := gcmCtr ks (nonce.take 12) (secret ++ signer)
  head ++ c ++ gcmTag ks (nonce.take 12) head c

/-- What a blob holds, when it verifies: its secret, and its signer key when its flags tell of one. -/
def State.unwrap (s : State) (blob : Bytes) : Option (Bytes × Option Bytes) :=
  let head := blob.take 16
  let iv := head.drop 4
  let c := (blob.drop 16).take 129
  let ks := aesKeys s.wrapKey
  if blob.length == 161 && head.take 3 == [0x42, 0x4B, 0x01] && gcmTag ks iv head c == blob.drop 145 then
    let p := gcmCtr ks iv c
    some (p.take 32, if (head.getD 3 0).getLsbD 0 then some (p.drop 32) else none)
  else none

/-- KEY_DELIVER (R315): a secret of 32 bytes, a signer key when flagged, a blob back when asked for. -/
def execKeyDeliver (sid : BitVec 32) (slot tenant : Nat) (flags : BitVec 8) (secret signer nonce : Bytes) (s : State) :
    Host.Outcome State Fault Refusal :=
  if !s.keysOpen sid || secret.length != 32 then .next (answer "VENDOR_DEFINED_REQUEST" false [] id s)
  else
    let k := if flags.getLsbD 0 then some signer else none
    let st := s.installStatus slot tenant
    if st ≠ 0 then .next (keyStatus st tenant [] s)
    else if k.any (fun k => !signerOk k) then .next (keyStatus 4 tenant [] s)
    else
      let blob := if flags.getLsbD 1 then s.wrap flags secret (k.getD (List.replicate 97 0)) nonce else []
      .next (keyStatus 0 tenant blob (installKey slot false secret k s))

/-- KEY_UNWRAP (R315, R318). -/
def execKeyUnwrap (sid : BitVec 32) (slot tenant : Nat) (flags : BitVec 8) (blob : Bytes) (s : State) :
    Host.Outcome State Fault Refusal :=
  if !s.keysOpen sid then .next (answer "VENDOR_DEFINED_REQUEST" false [flags] id s)
  else
    let st := s.installStatus slot tenant
    if st ≠ 0 then .next (keyStatus st tenant [] s)
    else match s.unwrap blob with
      | none => .next (keyStatus 3 tenant [] (record Code.keyUnwrapFail (some tenant) (unitCore 0) 0 0 s))
      | some (k, sg) =>
        if sg.any (fun x => !signerOk x) then .next (keyStatus 4 tenant [] s)
        else .next (keyStatus 0 tenant [] (installKey slot true k sg s))

/-- A slot zeroised on the way: the memory key slot that it was is released (R200, R316). -/
def eraseKey (slot tenant : Nat) (s : State) : State :=
  (zeroKey slot s).modTenant tenant (fun y => { y with mkSlot := if y.mkSlot.any (fun k => k.val == slot) then none else y.mkSlot })

/-- KEY_ERASE (R315). -/
def execKeyErase (sid : BitVec 32) (slot tenant : Nat) (s : State) : Host.Outcome State Fault Refusal :=
  if !s.keysOpen sid then .next (answer "VENDOR_DEFINED_REQUEST" false [] id s)
  else if !s.keyBound slot tenant then .next (keyStatus 1 tenant [] s)
  else .next (keyStatus 0 tenant [] (eraseKey slot tenant s))

/-- The tenant that a key slot is bound to. -/
def State.keyTenant (s : State) (n : Nat) : Option Nat :=
  if n < 32 then (List.range 32).find? (fun t => (s.tenant t).bindKey.getLsbD n) else none

/-- KEY_SLOTn (R326). -/
def State.keySlotReg (s : State) (n : Nat) : Nat :=
  let v := s.keySlot n
  let who := match s.keyTenant n with
    | none => 0
    | some t => 2 ^ 28 + t * 2 ^ 23
  b2n v.installed * 2 ^ 31 + b2n v.signer.isSome * 2 ^ 30 + b2n v.wrapped * 2 ^ 29 + who + v.installs.toNat

/-- KEY_QUERY (R315): the states of the 32 tenant slots, each as KEY_SLOTn shows it. -/
def execKeyQuery (sid : BitVec 32) (s : State) : Host.Outcome State Fault Refusal :=
  if !s.keysOpen sid then .next (answer "VENDOR_DEFINED_REQUEST" false [] id s)
  else .next (keyStatus 0 0 ((List.range 32).flatMap (fun n => leBytes 4 (s.keySlotReg n))) s)

end Sys2Proof.Machine
end

