-- ==== Sys2Proof/Machine/Express.lean ====
section
/-! DEFINITION. The safety link's frames, requests, re-runs, proofs, watchdogs and SAFE_HOLD's causes (R274 to R293). -/

namespace Sys2Proof.Machine

/-! ## Received frames (R290 to R292) -/

def laneBit : Lane → Nat
  | .a => 0
  | .b => 1

def unitLane : Lane → Nat
  | .a => unitLaneA
  | .b => unitLaneB

def otherLane : Lane → Lane
  | .a => .b
  | .b => .a

def frType (f : Bytes) : Nat := (f.getD 0 0).toNat
def frXid (f : Bytes) : Nat := (f.getD 1 0).toNat / 64
def frSeq (f : Bytes) : BitVec 16 := BitVec.ofNat 16 (leNat ((f.drop 2).take 2))
def frFrag (f : Bytes) : Nat := (f.getD 4 0).toNat
def frNfrag (f : Bytes) : Nat := (f.getD 5 0).toNat
def frLinkSeq (f : Bytes) : BitVec 16 := BitVec.ofNat 16 (leNat ((f.drop 6).take 2))
def frPayload (f : Bytes) : Bytes := (f.drop 8).take 52

/-- The bytes of a slot's 64 characters: character 0 is the K-character of a TYPE, the others are data characters; an idle slot, and
characters that spell no frame, give none (R345). -/
def slotBytes (slot : List LineChar) : Option Bytes :=
  match slot with
  | .k x y :: rest =>
    if (LineChar.k x y) = idleChar then none
    else
      let body := rest.map (fun c => match c with
        | .d b => some b
        | .k _ _ => none)
      if rest.length = 63 ∧ body.all Option.isSome then
        some ((typeChars.find? (fun e => e.2 == .k x y)).elim 0 (·.1) :: body.map (·.getD 0))
      else none
  | _ => none

/-- A frame that a receiver takes: 64 bytes, good CRC, its lane's bit, a TYPE sent to the device (R291, R292). -/
def frameOk (l : Lane) (f : Bytes) : Bool :=
  f.length == 64 && leNat (f.drop 60) == crc32c (f.take 60) && (f.getD 1 0).toNat / 32 % 2 == laneBit l &&
    (frType f == 0x11 || frType f == 0x1E)

/-- The safety link runs from BOOT onward, on VDD_AUX (R293, R345). -/
def State.linkUp (s : State) : Bool := s.glb.vddAux && !(s.glb.st == .off || s.glb.st == .reset)

/-- A valid frame: LINKSEQ out of order is counted, and the receiver resynchronises on it. After 500 µs without one, clean frames
begin anew (R292). -/
def LaneSt.receive (seq : BitVec 16) (now : Nat) (v : LaneSt) : LaneSt :=
  { v with
    cleanSince := if v.lastValid.all (fun t => decide (t + 500 * us ≤ now)) then now else v.cleanSince
    discards := if v.rxSeq.any (fun p => p + 1 != seq) then satAdd v.discards 1 else v.discards
    rxSeq := some seq
    lastValid := some now }

/-- A lane becomes faulted; one that is, has been clean only from now on (R281, R289, R292). -/
def faultLane (l : Lane) (s : State) : State :=
  if (s.lane l).faulted then s.modLane l (fun v => { v with cleanSince := s.glb.devTime })
  else
    let s1 := record Code.laneFault none (unitLane l) 0 0
      (s.modLane l (fun v => { v with faulted := true, cleanSince := s.glb.devTime }))
    let s2 := if s1.windowOpen then safeHold Code.laneFault s1 else s1
    updDegraded (linkLost s2)

/-- INVALID with a reason for a SEQ, on both lanes. -/
def sendInvalid (x : Nat) (seq : BitVec 16) (reason : Nat) (s : State) : State := bothLanes x (invalidFrame x seq reason) s

/-! ## Requests (R274, R275) -/

def Xid.reqCopy (v : Xid) : Lane → Option ReqCopy
  | .a => v.reqA
  | .b => v.reqB

def Xid.setReq (v : Xid) (l : Lane) (c : Option ReqCopy) : Xid :=
  match l with
  | .a => { v with reqA := c }
  | .b => { v with reqB := c }

/-- A lane's complete copy of a SEQ waits for the other lane's. -/
def Xid.holds (v : Xid) (l : Lane) (seq : BitVec 16) : Bool := v.copies.any (fun c => c.1 == l && c.2.seq == seq)

/-- No lane holds a copy of a SEQ any longer. -/
def Xid.dropSeq (seq : BitVec 16) (v : Xid) : Xid :=
  let other (c : ReqCopy) : Bool := c.seq != seq
  { v with reqA := v.reqA.filter other, reqB := v.reqB.filter other, copies := v.copies.filter (fun c => other c.2) }

/-- A request discarded under R275: counted, and answered INVALID with a reason. -/
def discardReq (x : Nat) (seq : BitVec 16) (reason : Nat) (s : State) : State :=
  sendInvalid x seq reason (s.modXid x (fun v => { v with overrun := satAdd v.overrun 1 }))

/-- A request whose copies are available is accepted or answered (R275), and counts on TQ15 of every member. -/
def deliver (x : Nat) (seq : BitVec 16) (s : State) : State :=
  let s := (restartXid x s).modXid x (Xid.dropSeq seq)
  let v := s.xid x
  let ahead := (seq - v.seq).toNat
  if !v.first && !(decide (1 ≤ ahead) && decide (ahead ≤ 255)) then discardReq x seq 0x03 s
  else if v.waitSeq.isSome then discardReq x seq 0x02 (record Code.reqOverrun (some v.tenant.toNat) unitSbox 0 0 s)
  else
    let early := !v.first && decide (s.glb.devTime < v.lastAccept + (1000 * v.period - 100 * us))
    let s1 := v.arrays.foldl (fun s a => s.modArr a (fun y => { y with tq := supd 0 y.tq 15 (fun n => satAdd n 1) })) s
    s1.modXid x (fun v => { v with
      seq := seq, first := false, lastAccept := s.glb.devTime
      reqEarly := if early then satAdd v.reqEarly 1 else v.reqEarly
      waitSeq := some ⟨seq, s.glb.devTime, false, 0, false, false, false, 0⟩ })

/-- A lane's copy after a fragment, and whether the fragment is written: FRAG 0 of a SEQ that the lane holds no copy of opens one,
and a fragment that does not follow discards the copy (R274). -/
def ReqCopy.next (f : Bytes) (maxFrags now : Nat) (c : Option ReqCopy) : ReqCopy × Bool :=
  let fresh : ReqCopy := ⟨frSeq f, frNfrag f, 0, false, decide (frFrag f ≠ 0), now, decide (frFrag f = 0), false⟩
  let cur := match c with
    | none => fresh
    | some c => if frFrag f = 0 && (c.seq != frSeq f || c.told) then fresh else c
  let ok := !cur.dead && cur.seq == frSeq f && cur.nfrag == frNfrag f && cur.got == frFrag f &&
    decide (frNfrag f + 1 ≤ maxFrags)
  if ok then ({ cur with got := cur.got + 1, complete := decide (cur.got = cur.nfrag), time := now }, true)
  else ({ cur with dead := true }, false)

/-- A copy of a SEQ has completed, or a lane's may still: it is not discarded, nor given up. -/
def Xid.mayComplete (v : Xid) (gone : ReqCopy → Bool) (seq : BitVec 16) : Bool :=
  v.copies.any (fun c => c.2.seq == seq) ||
    [v.reqA, v.reqB].any (fun c => c.any (fun c => c.seq == seq && !c.dead && !gone c))

/-- INVALID INCOMPLETE for a SEQ of which neither copy completes; what the lanes hold of it is done with (R274). -/
def tellIncomplete (x : Nat) (seq : BitVec 16) (s : State) : State :=
  let mark (c : ReqCopy) : ReqCopy := if c.seq == seq then { c with dead := true, told := true } else c
  sendInvalid x seq 0x04 (s.modXid x (fun v => { v with reqA := v.reqA.map mark, reqB := v.reqB.map mark }))

/-- Copies of one SEQ that have both been discarded: INVALID INCOMPLETE, once its first fragment has been seen (R274). -/
def bothDead (x : Nat) (s : State) : State :=
  let v := s.xid x
  match v.reqA, v.reqB with
  | some a, some b =>
    if a.dead && b.dead && a.seq == b.seq && (a.first || b.first) && !(a.told || b.told) then tellIncomplete x a.seq s else s
  | _, _ => s

/-- An answer DISARMED, once for each SEQ and lane (R272, R274). -/
def answerDisarmed (x : Nat) (l : Lane) (seq : BitVec 16) (both : Bool) (s : State) : State :=
  let v := s.xid x
  if v.answered.contains (l, seq) || (both && v.answered.contains (otherLane l, seq)) then s
  else
    let s1 := s.modXid x (fun v => { v with answered := v.answered ++ [(l, seq)] })
    if both then sendInvalid x seq 0x05 s1 else laneQueue l x (invalidFrame x seq 0x05) s1

/-- A fragment of an armed tenant's request. -/
def takeFragment (x : Nat) (l : Lane) (f : Bytes) (s : State) : State :=
  let v := s.xid x
  let seq := frSeq f
  if v.holds l seq then s
  else
    let old := v.reqCopy l
    let r := ReqCopy.next f v.table.reqFrags s.glb.devTime old
    let s1 := if r.2 then
        partWrite (v.part (laneBit l)) (v.reqPreset seq + 52 * frFrag f) ((frPayload f).map (fun b => (b, false))) s
      else s
    let s2 := s1.modXid x (fun v => v.setReq l (some r.1))
    let left := old.filter (fun c => c.seq != r.1.seq && c.first && !c.told && !(s2.xid x).mayComplete (fun _ => false) c.seq)
    let s3 := left.elim s2 (fun c => tellIncomplete x c.seq s2)
    if !r.1.complete then bothDead x s3
    else if v.holds (otherLane l) seq then deliver x seq s3
    else s3.modXid x (fun v => { v.setReq l none with copies := v.copies ++ [(l, r.1)] })

/-- REQ (R274): a lane that stands faulted serves no request. -/
def execReq (lane : Lane) (slot : List LineChar) (s : State) : Host.Outcome State Fault Refusal :=
  let frame := (slotBytes slot).getD []
  let v := s.lane lane
  if !s.linkUp || !v.aligned || !frameOk lane frame || frType frame != 0x11 then .next s
  else
    let s1 := s.modLane lane (LaneSt.receive (frLinkSeq frame) s.glb.devTime)
    let x := frXid frame
    let y := s1.xid x
    if !y.armed then .next (answerDisarmed x lane (frSeq frame) false s1)
    else if y.st = .held ∨ v.faulted then .next s1
    else if !y.disarmJobs.isEmpty || y.resetAfter then .next (answerDisarmed x lane (frSeq frame) true s1)
    else .next (takeFragment x lane frame s1)

/-- KEEP (R291). -/
def execKeep (lane : Lane) (slot : List LineChar) (s : State) : Host.Outcome State Fault Refusal :=
  let frame := (slotBytes slot).getD []
  if s.linkUp && (s.lane lane).aligned && frameOk lane frame && frType frame == 0x1E then
    .next (s.modLane lane (LaneSt.receive (frLinkSeq frame) s.glb.devTime))
  else .next s

/-- RECEIVED_FRAME_DISCARD (R292, R345): more than 4 within 1 ms fault the lane. An idle slot is no frame. -/
def execReceivedFrameDiscard (lane : Lane) (slot : List LineChar) (s : State) : Host.Outcome State Fault Refusal :=
  let now := s.glb.devTime
  let idle : Bool := slot.all (· == idleChar)
  if !s.linkUp || !(s.lane lane).aligned || idle || frameOk lane ((slotBytes slot).getD []) then .next s
  else
    let s1 := s.modLane lane (fun v => { v with
      discards := satAdd v.discards 1
      discardTimes := v.discardTimes.filter (fun d => decide (now < d + ms)) ++ [now]
      cleanSince := now })
    .next (if 4 < (s1.lane lane).discardTimes.length then faultLane lane s1 else s1)

/-- The bytes of a complete copy, set into the other lane's buffer (R274). -/
def copyRequest (x : Nat) (l : Lane) (c : ReqCopy) (s : State) : State :=
  let v := s.xid x
  let n := 52 * (c.nfrag + 1)
  partWrite (v.part (laneBit (otherLane l))) (v.reqPreset c.seq)
    (s.partRead (v.part (laneBit l)) (v.reqPreset c.seq) n) s

/-- A request served from one lane's complete copy (R274, R281). -/
def serveAlone (x : Nat) (l : Lane) (c : ReqCopy) (s : State) : State :=
  let s1 := record Code.laneFault (some (s.xid x).tenant.toNat) (unitLane (otherLane l)) 0 0 (copyRequest x l c s)
  deliver x c.seq (if s1.windowOpen then safeHold Code.laneFault s1 else s1)

/-- A lane's copy that has had no fragment for 20 µs, as has the other lane's of its SEQ where it has one: INCOMPLETE (R274). -/
def giveUp (x : Nat) (late : ReqCopy → Bool) (s : State) (l : Lane) : State :=
  match ((s.xid x).reqCopy l).filter (fun c => c.first && !c.told && late c && !(s.xid x).mayComplete late c.seq) with
  | some c => tellIncomplete x c.seq s
  | none => s

/-- LANE_COPY_TIMEOUT (R274): 20 µs after one copy completed alone the request is served from it; with no complete copy, it is
answered INCOMPLETE. `ce`, `ue`: what the reading of the complete copy meets (R198). -/
def execLaneCopyTimeout (x : Fin 4) (ce ue : List Nat) (s : State) : Host.Outcome State Fault Refusal :=
  let v := s.xid x.val
  let late (c : ReqCopy) : Bool := decide (c.time + 20 * us ≤ s.glb.devTime)
  if !v.armed || v.st == .held then .next s
  else match v.copies.find? (fun c => late c.2) with
    | some (l, c) => .next (serveAlone x.val l c (xidErrs x.val ce ue s))
    | none => .next ([.a, .b].foldl (giveUp x.val late) s)

/-- EXPRESS_RESTART (R276). -/
def execExpressRestart (x : Fin 4) (s : State) : Host.Outcome State Fault Refusal := .next (restartXid x.val s)

/-! ## Member faults and the spare (R279, R280, R284, R285) -/

/-- An array waits at a barrier with its arrival made: its barrier. -/
def Arr.atBarrier (x : Arr) : Option Nat :=
  match x.wait with
  | .sync b => if x.syncs.isEmpty then some b else none
  | _ => none

/-- A failed proof: SPARE_FAULT, the spare retired; another is formed where it can be (R284, R285). -/
def proofFails (x : Nat) (s : State) : State :=
  autoForm (retireSpare (record Code.spareFault (some (s.xid x).tenant.toNat) s.xpr.spa.toNat 0 0
    { s with xpr := { s.xpr with proof := none } }))

/-- STEPMAX + 5 µs in device time; an A-cycle is 0.625 ns (R279). -/
def Xid.stepLimit (v : Xid) : Nat := (v.table.stepMax + 15) / 16 + 5 * us

/-- BARRIER_TIMEOUT (R279, R280, R284): a member, or a spare array, has not arrived within STEPMAX + 5 µs after the step, the re-run
or the proof began. -/
def execBarrierTimeout (x : Fin 4) (role : Fin 8) (spare : Bool) (s : State) : Host.Outcome State Fault Refusal :=
  let v := s.xid x.val
  let late (t : Nat) : Bool := decide (t + v.stepLimit < s.glb.devTime)
  let away (a : Nat) : Bool := (s.arr a).atBarrier.isNone
  let p := v.roles.getD role.val (0, 0)
  if spare then
    if !(away s.xpr.spa.toNat || away s.xpr.spb.toNat) then .next s
    else if v.st = .rerun ∧ v.rerun.any (fun r => r.role == role.val && late r.time) then .next (rerunFails x.val Code.spareFault s)
    else if s.xpr.proof = some ⟨x.val, role.val⟩ ∧ late s.xpr.proofTime then .next (proofFails x.val s)
    else .next s
  else if (v.st = .running ∨ v.st = .rerun) ∧ role.val < v.roles.length ∧ v.inv.any (fun i => !i.finalOk && late i.stepTime) ∧
      (away p.1 ∨ away p.2) then
    .next (memberFault x.val role.val v.stepNow s)
  else .next s

/-- A binding that loses a retired pair and gains the spare's arrays (R280). -/
def Tenant.swapPair (old new : Nat × Nat) (y : Tenant) : Tenant :=
  let drop (b : BitVec 64) (a : Nat) : BitVec 64 := b &&& ~~~(BitVec.ofNat 64 (2 ^ a))
  let add (b : BitVec 64) (a : Nat) : BitVec 64 := b ||| BitVec.ofNat 64 (2 ^ a)
  { y with bindAry := add (add (drop (drop y.bindAry old.1) old.2) new.1) new.2 }

/-- The arrivals of a retired pair become the spare arrays' (R280). -/
def Barrier.swapPair (old new : Nat × Nat) (n : Nat) (fp : BitVec 64) (b : Barrier) : Barrier :=
  { b with arrivals := b.arrivals.filter (fun v => v.ary != old.1 && v.ary != old.2) ++
      [⟨new.1, n, fp, false, false, 0⟩, ⟨new.2, n, fp, false, false, 0⟩] }

/-- The spare pair takes role `r`: it keeps the role's own image for the restarts that follow (R276, R280). The arrivals of the step's
other pairs are compared if it is the last to arrive. -/
def takeRole (x r bar : Nat) (s : State) : State :=
  let v := s.xid x
  let t := v.tenant.toNat
  let old := v.roles.getD r (0, 0)
  let new := (s.xpr.spa.toNat, s.xpr.spb.toNat)
  let fp := (s.arr new.1).fp
  let n := 2 * v.table.pairs
  let wait : BitVec 16 := if v.waitSeq.isSome then 1 else 0
  let join (img : Bytes) (y : Arr) : Arr :=
    { y.setSlot 0 ⟨.running, img, none, y.submits⟩ with spare := false, tq := sset 0 y.tq 15 wait }
  let i0 := s.roleImage x r 0
  let i1 := s.roleImage x r 1
  let s1 := (s.modArr old.1 Arr.retire).modArr old.2 Arr.retire
  let s2 := (s1.modArr new.1 (join i0)).modArr new.2 (join i1)
  let s3 := s2.modTenant t (fun y =>
    let z := y.swapPair old new
    { z with barriers := supd Barrier.init z.barriers bar (Barrier.swapPair old new n fp) })
  let s4 := s3.modXid x (fun v => { v with
    st := .running, rerun := none, rerunOk := satAdd v.rerunOk 1
    roles := v.roles.zipIdx.map (fun e => if e.2 = r then new else e.1) })
  let s5 := { s4 with xpr := { s4.xpr with
    spareValid := false, spareReady := false, spa := 0, spb := 0, spareRan := none, proved := [], proof := none
    retired := s4.xpr.retired ++ [old.1, old.2] } }
  let s6 := updDegraded (record Code.pairRetired (some t) (unitArray old.1) (v.stepNow % 64 * 256 + r) 0 s5)
  let b := (s6.tenant t).barrier bar
  if n ≤ b.arrivals.length then expressBarrier x bar false s6 else s6

/-- SPARE_BARRIER (R280): both spare arrays at their barrier. Agreement with each other and with a member retires the pair;
any disagreement fails the re-run. `split`: the channels' verdicts disagree (R287). `ce`, `ue`: what core 7's reads of the concourse for
the re-run meet (R198). -/
def execSpareBarrier (x : Fin 4) (split : Bool) (ce ue : List Nat) (s0 : State) : Host.Outcome State Fault Refusal :=
  let s := if (s0.xid x.val).st = .rerun then xidErrs x.val ce ue s0 else s0
  let v := s.xid x.val
  let a := s.arr s.xpr.spa.toNat
  let b := s.arr s.xpr.spb.toNat
  match v.rerun, a.atBarrier, b.atBarrier with
  | some r, some bar, some _ =>
    if v.st ≠ .rerun then .next s
    else if split then .next (splitVerdict s)
    else
      let p := v.roles.getD r.role (0, 0)
      let arr := ((s.tenant v.tenant.toNat).barrier bar).arrivals
      let seen (m : Nat) : Bool := arr.any (fun e => e.ary == m && e.fp == a.fp)
      if a.fp = b.fp ∧ a.fpPoison = false ∧ b.fpPoison = false ∧ (seen p.1 ∨ seen p.2) then
        .next (takeRole x.val r.role bar s)
      else .next (rerunFails x.val Code.spareFault s)
  | _, _, _ => .next s

/-- An armed tenant whose latest result has been sent and whose fingerprints are recorded: a proof may run. -/
def Xid.provable (v : Xid) : Bool := v.st == .idle && v.inv.isNone && v.waitSeq.isNone && !v.record.isEmpty

/-- The index whose turn it is (R284). -/
def State.proofTurn (s : State) : Option Nat :=
  ((List.range 4).map (fun k => (s.xpr.proofNext + k) % 4)).find? (fun x => (s.xid x).provable)

/-- SPARE_PROOF (R284): every 10 ms in turn; a spare not yet proved for a tenant runs its proof at once. `ce`, `ue`: what core 7's reads
of the concourse meet (R198). -/
def execSpareProof (x : Fin 4) (role : Fin 8) (ce ue : List Nat) (s : State) : Host.Outcome State Fault Refusal :=
  let v := s.xid x.val
  let due := (s.proofTurn == some x.val && decide (s.xpr.proofTime + 10 * ms ≤ s.glb.devTime)) || !s.xpr.proved.contains x.val
  if v.provable && due && s.xpr.spareValid && s.xpr.proof.isNone && !s.windowOpen && s.glb.st != .safeHold &&
      decide (role.val < v.roles.length) && !(List.range 4).any (fun i => (s.xid i).rerun.isSome) then
    let s1 := startSpare x.val role.val (v.table.steps - 1) v.seq (xidErrs x.val ce ue s)
    .next { s1 with xpr := { s1.xpr with
      proof := some ⟨x.val, role.val⟩, proofTime := s.glb.devTime, proofNext := (x.val + 1) % 4 } }
  else .next s

/-- SPARE_PROOF_DONE (R284, R285): judged against the record; the spare is ready once every armed tenant has passed one.
`split`: the channels' verdicts disagree (R287). -/
def execSpareProofDone (split : Bool) (s : State) : Host.Outcome State Fault Refusal :=
  let a := s.arr s.xpr.spa.toNat
  let b := s.arr s.xpr.spb.toNat
  match s.xpr.proof with
  | none => .next s
  | some p =>
    if a.atBarrier.isNone || b.atBarrier.isNone then .next s
    else if split then .next (splitVerdict s)
    else if a.fp = b.fp ∧ a.fpPoison = false ∧ b.fpPoison = false ∧ sget 0 (s.xid p.x).record p.role = a.fp then
      let s1 := restSpare s
      let proved := if s1.xpr.proved.contains p.x then s1.xpr.proved else s1.xpr.proved ++ [p.x]
      let s2 := { s1 with xpr := { s1.xpr with proof := none, proved := proved } }
      .next (updDegraded { s2 with xpr := { s2.xpr with
        spareReady := s2.xpr.spareReady || s2.armedXids.all (fun x => proved.contains x) } })
    else .next (proofFails p.x s)

/-! ## Watchdogs and channels (R283, R286 to R288, R292, R293) -/

/-- XPR_DEADLINE (R283): the watchdog of a request fires, at the earliest 480 µs after it became available, unless its first
result frame has started. -/
def execXprDeadline (x : Fin 4) (s : State) : Host.Outcome State Fault Refusal :=
  let v := s.xid x.val
  let late (i : Invocation) : Bool := !i.resStarted && decide (i.avail + 480 * us ≤ s.glb.devTime)
  if v.armed && v.st != .held && (v.inv.any late || v.waitSeq.any late) then
    .next (safeHold Code.xprDeadline (record Code.xprDeadline (some v.tenant.toNat) unitSbox 0 0 s))
  else .next s

/-- CLOCK_COMPARE (R283): every 1 ms; `diverges`: the island oscillator is off by more than 5 %. -/
def execClockCompare (diverges : Bool) (s : State) : Host.Outcome State Fault Refusal :=
  if s.glb.devTime < s.xpr.clockTime + ms then .next s
  else
    let s1 := { s with xpr := { s.xpr with clockTime := s.glb.devTime } }
    .next (if diverges then safeHold Code.clockDiverge (record Code.clockDiverge none unitSbox 0 0 s1) else s1)

/-- LOCKSTEP (R286): core 7 and its twin disagree. Nothing is recorded before POR_N is released (R374). -/
def execLockstep (s : State) : Host.Outcome State Fault Refusal :=
  if !s.glb.porN then .next s
  else .next (safeHold Code.lockstep (record Code.lockstep none unitCore7 0 0 s))

/-- SBOX_SELF_CHECK (R287): every 10 ms each channel must report the disagreement it is fed. -/
def execSboxSelfCheck (reportsA reportsB : Bool) (s : State) : Host.Outcome State Fault Refusal :=
  if s.glb.devTime < s.xpr.checkTime + 10 * ms then .next s
  else
    let s1 := { s with xpr := { s.xpr with checkTime := s.glb.devTime } }
    .next (if reportsA && reportsB then s1 else safeHold Code.sboxFault (record Code.sboxFault none unitSbox 0 0 s1))

/-- HOLD (R288): in SAFE_HOLD each lane sends a HOLD frame every 200 µs. An XPRDISARM, or a RESET, that waited for an invocation which
SAFE_HOLD has stopped goes on (R272, notes/assumptions/63.md). -/
def execHold (s : State) : Host.Outcome State Fault Refusal :=
  if s.glb.st = .safeHold ∧ s.xpr.holdTime + 200 * us ≤ s.glb.devTime then
    .next ((List.range 4).foldl (fun s x => tryDisarm x s)
      (bothLanes 4 (holdFrame s.xpr.holdCode) { s with xpr := { s.xpr with holdTime := s.glb.devTime } }))
  else .next s

/-- The sources of a lane in the order that the next slot looks at them: HOLD and ALIVE first, then the XIDs in turn (R282). -/
def LaneSt.order (v : LaneSt) : List Nat := 4 :: (List.range 4).map (fun k => (v.txNext + k) % 4)

/-- The next slot may begin: one lasts 2.56 µs (R290, R345). -/
def LaneSt.slotFree (v : LaneSt) (now : Nat) : Bool := v.slotTime.all (fun t => decide (t + 256 ≤ now))

/-- A frame sent in a slot of a lane. -/
def sendFrame (l : Lane) (f : Bytes) (s : State) : State :=
  let v := s.lane l
  let s1 := emit (.frame l (frameChars (sealFrame l v.txSeq f))) s
  s1.modLane l (fun v => { v with txSeq := v.txSeq + 1, txTime := some s.glb.devTime, slotTime := some s.glb.devTime })

/-- An idle slot of a lane: 64 K28.5 characters (R345). -/
def sendIdle (l : Lane) (s : State) : State :=
  (emit (.frame l (List.replicate 64 idleChar)) s).modLane l (fun v => { v with slotTime := some s.glb.devTime })

/-- ALIVE (R293): in the next slot of a lane that has carried no frame for 194 µs, and in the first of all. -/
def execAlive (lane : Lane) (s : State) : Host.Outcome State Fault Refusal :=
  let v := s.lane lane
  if s.linkUp && v.txq.isEmpty && v.slotFree s.glb.devTime && v.txTime.all (fun t => decide (t + 256 + 194 * us ≤ s.glb.devTime)) then
    .next (sendFrame lane (aliveFrame s) s)
  else .next s

/-- The first result frame of an invocation starts: its latency, in 0.1 µs (R283, R297). -/
def Xid.resBegins (now : Nat) (v : Xid) : Xid :=
  match v.inv with
  | none => v
  | some i =>
    if i.resStarted then v
    else
      let l := satAdd (0 : BitVec 16) ((now - i.avail) / 10)
      { v with inv := some { i with resStarted := true }, latLast := l, latMax := if v.latMax < l then l else v.latMax }

/-- A lane has sent the last result frame; after the second, the index is IDLE (R283). -/
def Xid.resEnds (v : Xid) : Xid :=
  match v.inv with
  | none => v
  | some i =>
    if i.oneLane then { v with st := .idle, inv := none, valid := satAdd v.valid 1 }
    else { v with inv := some { i with oneLane := true } }

/-- What the sending of a result frame tells the signal box. -/
def resSent (f : Bytes) (s : State) : State :=
  let x := frXid f
  let v := s.xid x
  if frType f = 0x21 ∧ v.inv.any (fun i => i.seq == frSeq f) then
    let s1 := s.modXid x (fun v => (if frFrag f = 0 then v.resBegins s.glb.devTime else v))
    if frFrag f = frNfrag f then tryDisarm x (s1.modXid x Xid.resEnds) else s1
  else s

/-- What the reading of a result buffer for a RES frame meets (R198, R282); the frame carries the bytes as they stand
(notes/assumptions/63.md). -/
def resErrs (f : Bytes) (ce ue : List Nat) (s : State) : State := if frType f = 0x21 then xidErrs (frXid f) ce ue s else s

/-- LANE_SLOT (R282, R290): the next queued frame, or an idle slot. An ALIVE frame carries the state of its slot. -/
def execLaneSlot (lane : Lane) (ce ue : List Nat) (s : State) : Host.Outcome State Fault Refusal :=
  let v := s.lane lane
  if !s.linkUp || !v.slotFree s.glb.devTime then .next s
  else match v.order.find? (fun k => !(sget [] v.txq k).isEmpty) with
    | none => .next (sendIdle lane s)
    | some k =>
      let q := sget [] v.txq k
      let f := q.headD []
      let s1 := s.modLane lane (fun v => { v with
        txq := sset [] v.txq k (q.drop 1), txNext := if k = 4 then v.txNext else (k + 1) % 4 })
      .next (resErrs f ce ue (resSent f (sendFrame lane (if frType f = 0x2E then aliveFrame s else f) s1)))

/-- LANE_WATCHDOG (R292): no valid frame for 500 µs. -/
def execLaneWatchdog (lane : Lane) (s : State) : Host.Outcome State Fault Refusal :=
  match (s.lane lane).lastValid.or s.xpr.watchdogFrom with
  | none => .next s
  | some t => .next (if t + 500 * us ≤ s.glb.devTime then faultLane lane s else s)

/-- LANE_RECOVERY (R292): 100 ms of clean frames, none of them more than 500 µs after the one before. -/
def execLaneRecovery (lane : Lane) (s : State) : Host.Outcome State Fault Refusal :=
  let v := s.lane lane
  let now := s.glb.devTime
  if v.faulted && decide (v.cleanSince + 100 * ms ≤ now) && v.lastValid.any (fun t => decide (now < t + 500 * us)) then
    .next (updDegraded (s.modLane lane (fun v => { v with faulted := false })))
  else .next s

end Sys2Proof.Machine
end

