-- ==== Sys2Proof/Machine/Manage.lean ====
section
/-! DEFINITION. The management port and its mailbox (R321 to R325). -/

namespace Sys2Proof.Machine

/-- MGMT runs: the port takes connections and records (R304). -/
def State.manages (s : State) : Bool := s.firmwareRuns && !s.compHeld .mgmt

/-- A session is open on the management port. -/
def State.mgtOpen (s : State) : Bool := s.manages && s.mgt.tls != .none

/-! ## The session (R321, R323) -/

/-- The interface that the MGT_MODE strap selects: SGMII to a PHY when low, 1000BASE-X when high (R347). -/
inductive MgtInterface where
  | sgmii | base1000x
deriving DecidableEq, Repr

def State.mgtInterface (s : State) : MgtInterface := if s.glb.mgtMode then .base1000x else .sgmii

/-- Packets that the port takes: an MTU of 1,500 bytes, at most one VLAN tag (R347). -/
def packetTaken (p : NetPacket) : Bool := decide (p.bytes ≤ 1500) && decide (p.tags ≤ 1)

/-- The management identity key, derived from DSEED, is presented with a certificate that the identity key signs (R321). -/
def presentCert (s : State) : State :=
  let c := Config.mgtCert (Config.mgtKey s.fuse.dseed)
  drawn (emit (.mgtCert c (s.sign c)) s)

/-- MGT_TLS_HANDSHAKE: without MGT_ROOT any client certificate opens a provisioning session; else the chain must end at it. A
connection is made when the session before is over. -/
def execMgtTlsHandshake (chain : ChainResult) (profileOk : Bool) (net : NetPacket) (s : State) :
    Host.Outcome State Fault Refusal :=
  if !s.firmwareRuns || !packetTaken net then .next s
  else if s.compHeld .mgmt then .next (emit .mgtRefused s)
  else
    let s1 := if profileOk then presentCert s else s
    if profileOk && s.sec.mgtRoot.isNone then .next (s1.modMgt (fun m => { m with tls := .provisioning }))
    else if profileOk && chain.verifies && s.sec.mgtRoot == some chain.rootDigest then
      .next (s1.modMgt (fun m => { m with tls := .session }))
    else .next (emit .mgtRefused (record Code.mgtAuthFail none unitMgt 0 0 s1))

/-! ## The mailbox (R324) -/

/-- An operation refused by its condition. -/
def mgtRefuse (s : State) : State := record Code.mgtRefused none unitMgt 0 0 (mgtEnd 1 [] s)

/-- OP written with GO: ignored while BUSY; in a provisioning session only SET_MGT_ROOT is executed (R323). -/
def mboxGo (op : BitVec 4) (s : State) : State :=
  if s.mgt.busy then s
  else
    let s1 := s.modMgt (fun m => { m with busy := true, op := op, inp := m.tx, tx := [] })
    if op = 0 ∨ 8 < op.toNat ∨ (s.mgt.tls = .provisioning ∧ op ≠ 5) then mgtRefuse s1 else s1

/-- A write to MGT_MBOX_CTRL. -/
def mboxCtrl (v : Reg32) (s : State) : State :=
  let op := v.extractLsb' 24 4
  if v.getLsbD 30 then mboxGo op s
  else if s.mgt.busy then s
  else s.modMgt (fun m => { m with op := op })

/-- A data word: taken by MGMT as it arrives while an operation runs, else it waits in the transmit FIFO. -/
def mboxPut (v : Reg32) (s : State) : State :=
  s.modMgt (fun m =>
    if m.busy then { m with inp := m.inp ++ [v] }
    else if m.tx.length < 256 then { m with tx := m.tx ++ [v] }
    else { m with overflow := true })

/-- A word of the receive FIFO, or zero with UNDERFLOW. -/
def mboxGet (s : State) : Reg32 × State :=
  match s.mgt.rx with
  | [] => (0, s.modMgt (fun m => { m with underflow := true }))
  | w :: r => (w, s.modMgt (fun m => { m with rx := r }.refill))

/-- MGT_MBOX_CTRL, MGT_STATUS as read. -/
def Mgt.ctrl (m : Mgt) : Reg32 :=
  BitVec.ofNat 32 (b2n m.busy * 2 ^ 31 + m.op.toNat * 2 ^ 24 + m.result.toNat * 2 ^ 20 + (256 - m.tx.length) * 2 ^ 10 +
    m.rx.length)

def State.mgtStatus (s : State) : Reg32 :=
  BitVec.ofNat 32 (b2n s.mgt.overflow * 2 ^ 31 + b2n s.mgt.underflow * 2 ^ 30 + b2n s.glb.scanUnlocked * 2 ^ 29 +
    b2n s.sec.mgtRoot.isNone * 2 ^ 28)

/-- One access of a record, and what a read answers (R322). -/
def mgtAccess (s : State) (a : MgtAccess) : State × List Reg32 :=
  if a.write then
    (if a.off = 0 then mboxCtrl a.val s
     else if a.off = 4 then mboxPut a.val s
     else if a.off = 8 then
       s.modMgt (fun m => { m with
         overflow := m.overflow && !a.val.getLsbD 31, underflow := m.underflow && !a.val.getLsbD 30 })
     else s, [])
  else if a.off = 0 then (s, [s.mgt.ctrl])
  else if a.off = 4 then ((mboxGet s).2, [(mboxGet s).1])
  else if a.off = 8 then (s, [s.mgtStatus])
  else (s, [0])

/-- MGT_RECORD: up to 512 accesses, reads answered in order. -/
def execMgtRecord (accesses : List MgtAccess) (s : State) : Host.Outcome State Fault Refusal :=
  if !s.mgtOpen || 512 < accesses.length then .next s
  else
    let r := accesses.foldl (fun (x : State × List Reg32) a => ((mgtAccess x.1 a).1, x.2 ++ (mgtAccess x.1 a).2)) (s, [])
    .next (if r.2.isEmpty then r.1 else emit (.mgt r.2) r.1)

/-- MGT_MBOX_DATA_WRITE. -/
def execMgtMboxDataWrite (v : Reg32) (s : State) : Host.Outcome State Fault Refusal :=
  .next (if s.mgtOpen then mboxPut v s else s)

/-- MGT_MBOX_DATA_READ. -/
def execMgtMboxDataRead (s : State) : Host.Outcome State Fault Refusal :=
  .next (if s.mgtOpen then emit (.mgt [(mboxGet s).1]) (mboxGet s).2 else s)

/-! ## The operations -/

/-- The input after its count, once all of it has come; an operation without input may go without a count. -/
def Mgt.input (m : Mgt) : Option (List Reg32) :=
  match m.inp with
  | [] => none
  | n :: r => if n.toNat ≤ r.length then some (r.take n.toNat) else none

/-- The operation of a number runs and MGMT serves it. -/
def State.mgtRuns (s : State) (op : BitVec 4) : Bool :=
  s.manages && s.mgt.busy && s.mgt.op == op && s.mgt.pend.isEmpty

/-- The bytes of input words. -/
def wordBytes (l : List Reg32) : Bytes := l.flatMap (fun w => leBytes 4 w.toNat)

/-- An operation of the mailbox waits for core 0's work in the device sectors. -/
def State.mboxWaits (s : State) : Bool := s.dep.jobs.any (·.mbox)

/-- FW_STAGE: BOOTMON takes a verified image, to write it into the inactive half of the device sectors and to read it back; it takes
effect at the next RESET. The operation ends with that work. One too large for the half is refused. -/
def execFwStage (img : ImageCheck) (s : State) : Host.Outcome State Fault Refusal :=
  match s.mgtRuns 1, s.mgt.input with
  | true, some l =>
    if s.mboxWaits then .next (fwGo s)
    else if s.compHeld .bootmon then .next (mgtRefuse s)
    else if !img.signatureOk || decide (img.secVersion < s.fuse.minSecVersion) then
      .next (record Code.mgtImage none unitMgt 0 0 (mgtEnd 3 [] s))
    else if !s.imageFits (wordBytes l) then .next (mgtRefuse s)
    else .next (storeImage (wordBytes l) s)
  | _, _ => .next s

/-- The eight words of a log entry (R374). -/
def LogEntry.words (e : LogEntry) : List Reg32 :=
  [e.time.extractLsb' 0 32, e.time.extractLsb' 32 32, e.seq,
   BitVec.ofNat 32 (e.rep.toNat * 2 ^ 24 + e.flags.toNat * 2 ^ 16 + e.code.toNat),
   BitVec.ofNat 32 (e.arg.toNat * 2 ^ 16 + e.unit.toNat), 0, e.addr.extractLsb' 0 32, e.addr.extractLsb' 32 32]

/-- The entries held, the oldest first. -/
def Frc.entries (f : Frc) : List LogEntry :=
  (List.range f.held).map (fun i => sget LogEntry.init f.log ((f.logWr.toNat + (2 ^ 32 - f.held) + i) % 1024))

/-- LOG_READ: the entries held; none is exported while TELEM is held (R304). -/
def execLogRead (s : State) : Host.Outcome State Fault Refusal :=
  if !s.mgtRuns 2 then .next s
  else if s.compHeld .telem then .next (mgtRefuse s)
  else .next (mgtEnd 0 (s.frc.entries.flatMap LogEntry.words) s)

/-- A digest of 12 input words goes to the configuration sector, and the operation ends when it stands there; another count is refused,
and anything while BOOTMON is held. -/
def setRoot (op : BitVec 4) (f : Bytes → State → State) (s : State) : State :=
  match s.mgtRuns op, s.mgt.input with
  | true, some l =>
    if s.mboxWaits then fwGo s
    else if l.length = 12 ∧ !s.compHeld .bootmon then storeConfig true (f (wordBytes l) s) else mgtRefuse s
  | _, _ => s

/-- SET_HOST_ROOT. -/
def execSetHostRoot (s : State) : Host.Outcome State Fault Refusal :=
  .next (setRoot 4 (fun d s => { s with sec := { s.sec with hostRoot := some d } }) s)

/-- SET_MGT_ROOT: the new root applies to the next session (R323). -/
def execSetMgtRoot (s : State) : Host.Outcome State Fault Refusal :=
  .next (setRoot 5 (fun d s => { s with sec := { s.sec with mgtRoot := some d } }) s)

/-- SCAN_UNLOCK: in AWAIT_HOST only; until RESET no host can attach. -/
def execScanUnlock (s : State) : Host.Outcome State Fault Refusal :=
  if !s.mgtRuns 6 then .next s
  else if s.glb.st ≠ .awaitHost then .next (mgtRefuse s)
  else .next (mgtEnd 0 [] { s with glb := { s.glb with scanUnlocked := true } })

/-- SCAN_LOCK: the test port leaves a boundary-scan instruction (R350). -/
def execScanLock (s : State) : Host.Outcome State Fault Refusal :=
  if !s.mgtRuns 7 then .next s
  else .next (mgtEnd 0 [] { s with glb := { s.glb with
    scanUnlocked := false, tapInstr := if 1 < s.glb.tapInstr.val then 0 else s.glb.tapInstr } })

/-- The most words of address settings that the model's record holds (notes/assumptions/61.md). -/
def netRoom : Nat := 15000

/-- NETCFG: the address settings of the port, held in the configuration sector. -/
def execNetcfg (s : State) : Host.Outcome State Fault Refusal :=
  match s.mgtRuns 8, s.mgt.input with
  | true, some l =>
    if s.mboxWaits then .next (fwGo s)
    else if l.length ≤ netRoom ∧ !s.compHeld .bootmon then .next (storeConfig true (s.modMgt (fun m => { m with net := l })))
    else .next (mgtRefuse s)
  | _, _ => .next s

end Sys2Proof.Machine
end

