-- ==== Sys2Proof/Machine/Windows.lean ====
section
/-! DEFINITION. Host windows and the PCIe port (R330, R331, R334 to R337). -/

namespace Sys2Proof.Machine

/-! ## A window's state -/

/-- A window of a port: false host, true peer. -/
def State.window (s : State) (peer : Bool) (w : Nat) : Window :=
  sget Window.init (if peer then s.win.peerW else s.win.hostW) w

def State.setWindow (s : State) (peer : Bool) (w : Nat) (v : Window) : State :=
  if peer then { s with win := { s.win with peerW := sset Window.init s.win.peerW w v } }
  else { s with win := { s.win with hostW := sset Window.init s.win.hostW w v } }

/-- Bytes that a window spans. -/
def Window.bytes (v : Window) : Nat := (v.pages.toNat + 1) * 4096

/-- ARG of a window code: port and window (R374). -/
def winArg (peer : Bool) (w : Nat) : Nat := b2n peer * 256 + w

def unitPort (peer : Bool) : Nat := if peer then unitPeer else unitHost

/-- How a window takes a request: it is not open; the request reaches beyond it, is not permitted by ACCESS or lies outside its
tenant's memory ranges; or the request is accepted. -/
inductive WinGate where
  | closed | denied | accepted
deriving DecidableEq, Repr

def State.gate (s : State) (peer : Bool) (w : Nat) (write : Bool) (off n : Nat) : WinGate :=
  let v := s.window peer w
  if !v.open_ then .closed
  else if decide (off + n ≤ v.bytes) && v.access.getLsbD (b2n write) && (s.tenant v.tenant.toNat).inRanges (v.base + off) n then
    .accepted
  else .denied

/-- A request that reached a window not open (R337). -/
def noteClosed (peer : Bool) (w : Nat) (s : State) : State :=
  let s1 := if peer then { s with win := { s.win with closedPeer := satAdd s.win.closedPeer 1 } }
    else { s with win := { s.win with closedHost := satAdd s.win.closedHost 1 } }
  record Code.winClosedWr none (unitPort peer) (winArg peer w) 0 s1

/-- A request that a window does not permit (R335). -/
def noteDenied (peer : Bool) (w : Nat) (s : State) : State :=
  record Code.winAccess (some (s.window peer w).tenant.toNat) (unitPort peer) (winArg peer w) 0 s

/-- Bytes written through a window, as any write to model memory (R199 to R201, R335). -/
def windowPut (t addr : Nat) (data : List MByte) (s : State) : State :=
  match modelWrite t addr data s with
  | .ok s1 => s1
  | .error c => writeFault t addr c s

/-! ## Requests of the host (R335, R337) -/

/-- HOST_WINDOW_WRITE. -/
def execHostWindowWrite (w : Fin 64) (off : Nat) (data : Bytes) (s : State) : Host.Outcome State Fault Refusal :=
  let v := s.window false w.val
  if !s.hostReaches then .next s
  else match s.gate false w.val true off data.length with
    | .closed => .next (noteClosed false w.val s)
    | .denied => .next (noteDenied false w.val s)
    | .accepted => .next (windowPut v.tenant.toNat (v.base + off) (unmarked data) s)

/-- HOST_WINDOW_READ. -/
def execHostWindowRead (w : Fin 64) (off len : Nat) (s : State) : Host.Outcome State Fault Refusal :=
  let v := s.window false w.val
  let t := v.tenant.toNat
  if !s.glb.portUp then .next s
  else if s.glb.d3hot then .next (emit .cplUnsupported s)
  else match s.gate false w.val false off len with
    | .closed => .next (emit .cplUnsupported (noteClosed false w.val s))
    | .denied => .next (emit .cplUnsupported (noteDenied false w.val s))
    | .accepted =>
      let r := modelRead t (v.base + off) len s
      let s1 := noteUe (some t) (if r.1.any (·.2) then Code.uePoison else 0) (v.base + off) r.2
      if r.1.any (·.2) then
        .next (emit (.cplPoison (List.replicate len 0xFF))
          (noteWin Code.uePoison false w.val (record Code.uePoison (some t) unitHost 0 (v.base + off) s1)))
      else .next (emit (.cplData (r.1.map (·.1))) s1)

/-! ## WINOPEN and WINCLOSE (R334, R337) -/

/-- WINOPEN: a window in use completes it with WIN_BUSY; else the window accepts. -/
def winopenBody (t q : Nat) (p : Presented) (s : State) : State :=
  let peer := p.w0.getLsbD 47
  let w := pf p.w0 37 32
  let v := s.window peer w
  if v.open_ || v.closing then
    record Code.winBusy (some t) (unitPort peer) (winArg peer w) 0
      (finish t q p.idx Code.winBusy 0 0 unitNone false (issueOpen t q p s))
  else
    (issueDone t q p 0 s).setWindow peer w {
      open_ := true
      closing := false
      access := BitVec.ofNat 2 (pf p.w0 46 45)
      tenant := BitVec.ofNat 5 t
      pages := BitVec.ofNat 18 (pf p.w0 31 0 - 1)
      base := pf p.w1 47 12 * 4096
      closer := none }

def execWinopen (t : Ten) (q : Que) (w0 w1 : BitVec 64) (s : State) : Host.Outcome State Fault Refusal :=
  .next (present t q w0 w1 (pOp w0 == 0x28) (winopenBody t.val q.val) s)

/-- WINCLOSE: the close point; it completes when the window has retired. A window that the tenant does not hold gives PLAN_RANGE; one
that closes already without a WINCLOSE is waited for. -/
def wincloseBody (t q : Nat) (p : Presented) (s : State) : State :=
  let peer := p.w0.getLsbD 47
  let w := pf p.w0 37 32
  let v := s.window peer w
  let held := (v.open_ || v.closing) && v.tenant.toNat == t
  if !held || (v.closing && v.closer.isSome) then failUnissued t q p Code.planRange 0 0 s
  else (issueOpen t q p s).setWindow peer w { v.shut with closer := some (q, p.idx) }

def execWinclose (t : Ten) (q : Que) (w0 w1 : BitVec 64) (s : State) : Host.Outcome State Fault Refusal :=
  .next (present t q w0 w1 (pOp w0 == 0x29) (wincloseBody t.val q.val) s)

/-- A message of the peer link for a window is still being received. -/
def State.windowTraffic (s : State) (w : Nat) : Bool :=
  [s.win.rx0, s.win.rx1].any (fun m => m.any (fun m => m.window == w && !m.refused))

/-- WINDOW_RETIRE: every request accepted before the close point is done; the window is free, and its WINCLOSE completes (R337). -/
def execWindowRetire (peer : Bool) (w : Fin 64) (s : State) : Host.Outcome State Fault Refusal :=
  let v := s.window peer w.val
  if !v.closing || (peer && s.windowTraffic w.val) then .next s
  else
    let s1 := s.setWindow peer w.val Window.init
    match v.closer with
    | none => .next s1
    | some j => .next (complete v.tenant.toNat j.1 j.2 0 0 0 unitNone true s1)

/-! ## The PCIe port -/

/-- PCIE_ECRC (R331): with ECRC on, the TLP is dropped, reported through AER and recorded. -/
def execPcieEcrc (s : State) : Host.Outcome State Fault Refusal :=
  .next (if s.glb.portUp && s.glb.pcie.ecrc then emit .aer (record Code.pcieEcrc none unitHost 0 0 s) else s)

/-- D3HOT_ENTRY (R330): BAR accesses end with Unsupported Request; the host is lost when its heartbeat stays out. -/
def execD3hotEntry (s : State) : Host.Outcome State Fault Refusal :=
  .next (if s.glb.portUp then { s with glb := { s.glb with d3hot := true } } else s)

/-- D3HOT_EXIT: the function is in D0 again, and the host configures it. -/
def execD3hotExit (cfg : PcieCfg) (s : State) : Host.Outcome State Fault Refusal :=
  .next (if s.glb.portUp then setPcie cfg { s with glb := { s.glb with d3hot := false } } else s)

end Sys2Proof.Machine
end

