-- ==== Sys2Proof/Machine/PeerOps.lean ====
section
/-! DEFINITION. The peer link: sending under credits, the replay buffer, receiving in order, training (R338 to R344). -/

namespace Sys2Proof.Machine

def State.modWin (s : State) (f : Win → Win) : State := { s with win := f s.win }

/-- The link carries flits. -/
def Win.linked (w : Win) : Bool := w.link == .up || w.link == .legacy

/-- Flit types (R339). -/
def flitWr : BitVec 8 := 0x01
def flitRdreq : BitVec 8 := 0x02
def flitRdcpl : BitVec 8 := 0x03
def flitSignal : BitVec 8 := 0x04
def flitGrad : BitVec 8 := 0x05
def flitNak : BitVec 8 := 0x11
def flitCredit : BitVec 8 := 0x12
def flitReplay : BitVec 8 := 0x13
def flitIdle : BitVec 8 := 0x1F

/-- Flits of messages go against a credit of their VC (R341). -/
def isMessage (type : BitVec 8) : Bool := decide (type.toNat ≤ 5)

/-- A header with every field zero. -/
def FlitHdr.zero : FlitHdr := ⟨false, false, false, false, 0, false, 0, 0, 0, 0, 0⟩

/-! ## A flit's 256 bytes (R338, R339) -/

/-- The 16 bytes of a header. -/
def hdrBytes (type : BitVec 8) (h : FlitHdr) : Bytes :=
  [type, BitVec.ofNat 8 (b2n h.vc * 128 + b2n h.pack * 64 + b2n h.first * 32 + b2n h.last * 16)] ++
    leBytes 2 h.fseq.toNat ++ leBytes 2 (b2n h.ackv * 2 ^ 15 + h.ackseq.toNat) ++
    [BitVec.ofNat 8 h.window.val, h.tag] ++ leBytes 4 h.offset.toNat ++ leBytes 2 h.mlen.toNat ++ [0, 0]

/-- The header fields of a flit's bytes. -/
def hdrRead (b : Bytes) : FlitHdr :=
  let at_ (i n : Nat) : Nat := leNat ((b.drop i).take n)
  { vc := bitAt (at_ 1 1) 7, pack := bitAt (at_ 1 1) 6, first := bitAt (at_ 1 1) 5, last := bitAt (at_ 1 1) 4
    fseq := BitVec.ofNat 12 (at_ 2 2), ackv := bitAt (at_ 4 2) 15, ackseq := BitVec.ofNat 12 (at_ 4 2)
    window := Fin.ofNat 64 (at_ 6 1), tag := BitVec.ofNat 8 (at_ 7 1), offset := BitVec.ofNat 30 (at_ 8 4)
    mlen := BitVec.ofNat 13 (at_ 12 2) }

/-- A flit as it goes over the link: header, 236 bytes of payload, CRC-32 over bytes 0 to 251. -/
def flitImage (type : BitVec 8) (h : FlitHdr) (payload : Bytes) : Bytes :=
  let body := hdrBytes type h ++ payload.take 236 ++ List.replicate (236 - payload.length) 0
  body ++ leBytes 4 (crc32 body)

/-- The CRC of received bytes holds. -/
def flitGood (b : Bytes) : Bool := b.length == 256 && leNat (b.drop 252) == crc32 (b.take 252)

/-- A flit of a type that is numbered: every one but REPLAY and IDLE. -/
def isSequenced (type : BitVec 8) : Bool := type != flitReplay && type != flitIdle

/-- A flit sent. -/
def emitFlit (type : BitVec 8) (h : FlitHdr) (payload : Bytes) (s : State) : State := emit (.flit (flitImage type h payload)) s

/-- NAK reasons. -/
def nakClosed : Nat := 1
def nakAccess : Nat := 2
def nakPoison : Nat := 3

/-! ## Sending (R341, R342) -/

/-- A flit may go: any but a message's without waiting, a message's against a credit. -/
def Win.maySend (w : Win) (f : TxFlit) : Bool :=
  !isMessage f.type || decide (0 < (if f.h.vc then w.credits1 else w.credits0))

/-- The next flit to go: one that needs no credit, else the first message flit of a VC that has one, regular before freight. -/
def Win.nextFlit (w : Win) : Option TxFlit :=
  let first (vc : Bool) : Option TxFlit :=
    (w.txWait.find? (fun f => isMessage f.type && f.h.vc == vc)).filter (fun f => w.maySend f)
  ((w.txWait.find? (fun f => !isMessage f.type)).or (first false)).or (first true)

/-- The last flit received in order. -/
def Win.lastIn (w : Win) : BitVec 12 := w.rxNext - 1

/-- A read's request has gone under a number. -/
def PeerRead.asked (n : BitVec 12) (r : Option PeerRead) : Option PeerRead := r.map (fun r => { r with reqs := r.reqs ++ [n] })

/-- A sequenced flit sent: numbered, acknowledging what has come, held in the replay buffer. -/
def sendFlit (f : TxFlit) (s : State) : State :=
  let w := s.win
  let g : TxFlit := { f with h := { f.h with fseq := w.txNext, ackv := decide (0 < w.sinceAck), ackseq := w.lastIn } }
  emitFlit g.type g.h g.payload { s with win := { w with
    txNext := w.txNext + 1
    txWait := w.txWait.erase f
    replayBuf := w.replayBuf ++ [g]
    sinceAck := 0
    tags := if f.type = flitRdreq then supd none w.tags f.h.tag.toNat (PeerRead.asked w.txNext) else w.tags
    credits0 := if isMessage f.type && !f.h.vc then w.credits0 - 1 else w.credits0
    credits1 := if isMessage f.type && f.h.vc then w.credits1 - 1 else w.credits1 } }

/-- Waiting flits go while the link is up, credits last and the replay buffer has room. -/
def pumpSteps : Nat → State → State
  | 0, s => s
  | n + 1, s =>
    if !s.win.linked || decide (1024 ≤ s.win.replayBuf.length) then s
    else match s.win.nextFlit with
      | none => s
      | some f => pumpSteps n (sendFlit f s)

def pump (s : State) : State := pumpSteps s.win.txWait.length s

/-- Flits put in the waiting line, and sent as far as may be. -/
def enqueueFlits (l : List TxFlit) (s : State) : State := pump (s.modWin (fun w => { w with txWait := w.txWait ++ l }))

/-- A message cut into flits of 236 bytes; OFFSET stands in the first (R338, R339). -/
def flitsOf (type : BitVec 8) (h : FlitHdr) (payload : Bytes) : List TxFlit :=
  let cs := if payload.isEmpty then [[]] else chunks 236 (payload.length / 236 + 1) payload
  let cs := cs.filter (fun c => !c.isEmpty || payload.isEmpty)
  cs.zipIdx.map (fun c => ⟨type,
    { h with first := c.2 == 0, last := c.2 + 1 == cs.length, offset := if c.2 = 0 then h.offset else 0 }, c.1⟩)

/-- NAK of a message, by the FSEQ of its FIRST flit. -/
def sendNak (reason : Nat) (vc : Bool) (tag : BitVec 8) (fseq : BitVec 12) (s : State) : State :=
  enqueueFlits (flitsOf flitNak { FlitHdr.zero with vc := vc, tag := tag }
    ([BitVec.ofNat 8 reason, 0] ++ leBytes 2 fseq.toNat)) s

/-! ## Replay and retraining (R339, R342) -/

/-- The link leaves service to train again. -/
def retrain (s : State) : State :=
  record Code.peerRetrain none unitPeer 0 0 (s.modWin (fun w =>
    { w with link := .training, retrains := satAdd w.retrains 1, replayCount := 0, rxReplays := 0 }))

/-- REPLAY asked of the peer: it names the last good flit; a flit replayed 8 times retrains the link. -/
def askReplay (s : State) : State :=
  let s1 := emitFlit flitReplay { FlitHdr.zero with ackv := true, ackseq := s.win.lastIn } []
    (s.modWin (fun w => { w with replays := satAdd w.replays 1, rxReplays := w.rxReplays + 1, sinceAck := 0 }))
  if 8 ≤ s1.win.rxReplays then retrain s1 else s1

/-- An acknowledgement: the flits up to a number leave the replay buffer. -/
def Win.acked (n : BitVec 12) (w : Win) : Win :=
  if w.replayBuf.any (fun f => f.h.fseq == n) then
    { w with replayBuf := (w.replayBuf.dropWhile (fun f => f.h.fseq != n)).drop 1, replayCount := 0 }
  else w

/-- The flits still held are sent again, in order. -/
def resend (s : State) : State := s.win.replayBuf.foldl (fun s f => emitFlit f.type f.h f.payload s) s

/-! ## Receiving (R341, R342) -/

/-- A flit not in order: discarded, and REPLAY asked for once. -/
def outOfOrder (s : State) : State := if s.win.rxReplays = 0 then askReplay s else s

/-- A sequenced flit taken in order: what it acknowledges, the count towards our own acknowledgement, the credit to return. -/
def takeFlit (type : BitVec 8) (h : FlitHdr) (s : State) : State :=
  let s1 := s.modWin (fun w => if h.ackv then w.acked h.ackseq else w)
  s1.modWin (fun w => { w with
    rxNext := w.rxNext + 1
    rxReplays := 0
    sinceAck := w.sinceAck + 1
    ackTime := if w.sinceAck = 0 then s.glb.devTime else w.ackTime
    owed0 := if isMessage type && !h.vc then w.owed0 + 1 else w.owed0
    owed1 := if isMessage type && h.vc then w.owed1 + 1 else w.owed1 })

/-- A sequenced flit received: performed in order, or discarded. -/
def receive (type : BitVec 8) (h : FlitHdr) (body : State → State) (s : State) : State :=
  if !s.win.linked then s
  else if h.fseq != s.win.rxNext then outOfOrder s
  else pump (body (takeFlit type h s))

/-! ## Messages (R340, R343, R344) -/

def Win.rx (w : Win) (vc : Bool) : Option RxMsg := if vc then w.rx1 else w.rx0
def Win.setRx (w : Win) (vc : Bool) (m : Option RxMsg) : Win := if vc then { w with rx1 := m } else { w with rx0 := m }

/-- A message refused: NAK, and the records of R337 and R335. -/
def refuse (reason : Nat) (h : FlitHdr) (fseq : BitVec 12) (s : State) : State :=
  let s1 := if reason = nakClosed then noteClosed true h.window.val s
    else if reason = nakAccess then noteDenied true h.window.val s else s
  sendNak reason h.vc h.tag fseq s1

/-- Why a message into a window is refused at its FIRST flit. -/
def State.refusal (s : State) (w : Nat) (write : Bool) (off n : Nat) : Option Nat :=
  match s.gate true w write off n with
  | .closed => some nakClosed
  | .denied => some nakAccess
  | .accepted => none

/-- The flit begins a message, or goes on with the one of its VC; the message as it then stands. -/
def gather (type : BitVec 8) (h : FlitHdr) (payload : Bytes) (bad : Option Nat) (s : State) : Option RxMsg × State :=
  if h.first then
    let m : RxMsg := ⟨type, h.window.val, h.offset.toNat, h.mlen.toNat, h.pack, h.fseq, payload, bad.isSome⟩
    let s1 := match bad with
      | none => s
      | some r => refuse r h h.fseq s
    (some m, s1.modWin (fun w => w.setRx h.vc (if h.last then none else some m)))
  else match s.win.rx h.vc with
    | none => (none, s)
    | some m =>
      if m.type != type then (none, s)
      else
        let m1 := { m with data := m.data ++ payload }
        (some m1, s.modWin (fun w => w.setRx h.vc (if h.last then none else some m1)))

/-- The 16-byte prefix and the run-pack stream of a page (R212, R343). -/
def packForm (page : Bytes) : Bytes :=
  let tab := rpTable page
  tab ++ List.replicate (13 - tab.length) 0 ++ [BitVec.ofNat 8 tab.length, 0, 0] ++ rpStream tab page

/-- A packed payload undone; a bad stream is written as poison (R213, R343). -/
def unpackForm (data : Bytes) : List MByte :=
  let dark : List MByte := List.replicate 4096 (0, true)
  if 13 < (data.getD 13 0).toNat then dark
  else match rpDecode (data.take 13) (data.drop 16) 4096 with
    | none => dark
    | some bs => unmarked bs

/-- A whole write message performed (R340, R343). -/
def performWr (h : FlitHdr) (m : RxMsg) (s : State) : State :=
  let v := s.window true m.window
  let data := if m.pack then unpackForm m.data else unmarked (m.data.take m.mlen)
  if data.length < m.mlen then refuse nakAccess h m.fseq s
  else windowPut v.tenant.toNat (v.base + m.offset) data s

/-- One entry of GRAD added to its element: one rounding to nearest even; a poisoned element stays poisoned. -/
def gradAdd (t addr : Nat) (v : Reg32) (s : State) : State :=
  let r := modelRead t addr 4 s
  let old := BitVec.ofNat 32 (leNat (r.1.map (·.1)))
  let new := leBytes 4 (fadd old v).toNat
  windowPut t addr (if r.1.any (·.2) then new.map (fun b => (b, true)) else unmarked new) r.2

/-- The entries of a GRAD flit, in order, each index above the one before; false when one does not ascend or leaves the window. -/
def gradEntries (v : Window) (off : Nat) : List Bytes → Option Nat → State → Bool × State
  | [], _, s => (true, s)
  | e :: r, last, s =>
    let i := leNat (e.take 2)
    let at_ := off + 4 * i
    if last.any (fun l => decide (i ≤ l)) || decide (32768 ≤ i) || decide (v.bytes < at_ + 4) then (false, s)
    else gradEntries v off r (some i) (gradAdd v.tenant.toNat (v.base + at_) (BitVec.ofNat 32 (leNat (e.drop 2))) s)

/-! ## Training (R339) -/

/-- Sequence numbers, buffers and credits as a newly trained link has them (R341). -/
def Win.fresh (w : Win) : Win :=
  { w with
    txNext := 0, rxNext := 0, txWait := [], replayBuf := [], replayCount := 0, rxReplays := 0, owed0 := 0, owed1 := 0, sinceAck := 0
    failTimes := [], rx0 := none, rx1 := none, tags := [] }

/-- Lanes 0 to 3, or 4 to 7, have all trained. -/
def lowLanes (lanes : BitVec 8) : Bool := lanes.extractLsb' 0 4 == 0xF
def highLanes (lanes : BitVec 8) : Bool := lanes.extractLsb' 4 4 == 0xF

/-- Message flits of a VC in the replay buffer: they are sent again, each against a credit. -/
def Win.heldOf (w : Win) (vc : Bool) : Nat := (w.replayBuf.filter (fun f => isMessage f.type && f.h.vc == vc)).length

/-- The link comes up: lanes in use, version, and credits announced anew: 256 a VC, less those of the flits sent again. -/
def Win.comesUp (version : Nat) (lanes : BitVec 8) (w : Win) : Win :=
  { w with
    link := if version = 1 then .legacy else .up
    lanes := if lowLanes lanes && highLanes lanes then 8 else 4
    upper := !lowLanes lanes
    credits0 := 256 - w.heldOf false
    credits1 := 256 - w.heldOf true
    owed0 := 0
    owed1 := 0 }

/-- Training settles with a version and the lanes that trained: all, or the lower or the upper four. From a retraining the held flits
are sent again; a failed retraining counts towards the three that leave the link DOWN. -/
def trainLink (version : Nat) (lanes : BitVec 8) (s : State) : State :=
  let ok := (lowLanes lanes || highLanes lanes) && (version == 1 || version == 2)
  if s.win.link = .training then
    (if ok then pump (resend (s.modWin (fun w => w.comesUp version lanes)))
     else
       let recent := (s.win.failTimes.filter (fun t => decide (s.glb.devTime ≤ t + 1000 * ms))) ++ [s.glb.devTime]
       if 3 ≤ recent.length then
         record Code.peerDown none unitPeer 0 0 (s.modWin (fun w => { w with link := .down, lanes := 0, failTimes := [] }))
       else s.modWin (fun w => { w with failTimes := recent }))
  else if ok then pump (s.modWin (fun w => (w.fresh).comesUp version lanes))
  else s.modWin (fun w => { w.fresh with link := .down, lanes := 0 })

end Sys2Proof.Machine
end

