-- ==== Sys2Proof/Machine/Peer.lean ====
section
/-! DEFINITION. What comes over the peer link, flit by flit, and its training (R338 to R344). -/

namespace Sys2Proof.Machine

/-- A message's length and, packed, its form are as R339 and R343 allow. -/
def State.wrForm (s : State) (h : FlitHdr) : Bool :=
  decide (1 ≤ h.mlen.toNat) && decide (h.mlen.toNat ≤ 4096) &&
    (!h.pack || (s.win.link == .up && h.mlen == 4096 && h.offset.toNat % 4096 == 0))

/-- WR. -/
def takeWr (h : FlitHdr) (payload : Bytes) (s : State) : State :=
  let bad := if s.wrForm h then s.refusal h.window.val true h.offset.toNat h.mlen.toNat else some nakAccess
  let r := gather flitWr h payload bad s
  match r.1 with
  | none => r.2
  | some m => if h.last && !m.refused then performWr h m r.2 else r.2

def execWr (h : FlitHdr) (payload : Bytes) (s : State) : Host.Outcome State Fault Refusal :=
  .next (receive flitWr h (takeWr h payload) s)

/-- RDREQ: answered with RDCPL flits, or refused; poisoned data is answered with NAK_POISON. -/
def takeRdreq (h : FlitHdr) (s : State) : State :=
  let v := s.window true h.window.val
  let n := h.mlen.toNat
  let bad := if decide (1 ≤ n) && decide (n ≤ 4096) then s.refusal h.window.val false h.offset.toNat n else some nakAccess
  match bad with
  | some r => refuse r h h.fseq s
  | none =>
    let t := v.tenant.toNat
    let r := modelRead t (v.base + h.offset.toNat) n s
    if r.1.any (·.2) then refuse nakPoison h h.fseq r.2
    else enqueueFlits (flitsOf flitRdcpl { FlitHdr.zero with vc := h.vc, window := h.window, tag := h.tag, mlen := h.mlen }
      (r.1.map (·.1))) r.2

def execRdreq (h : FlitHdr) (s : State) : Host.Outcome State Fault Refusal := .next (receive flitRdreq h (takeRdreq h) s)

/-- Data for an outstanding read, the first of its requests answered. -/
def PeerRead.answered (data : List MByte) (r : Option PeerRead) : Option PeerRead :=
  r.map (fun r => { r with data := (r.data ++ data).take r.len, reqs := r.reqs.drop 1 })

/-- RDCPL: read data for a tag. -/
def takeRdcpl (h : FlitHdr) (payload : Bytes) (s : State) : State :=
  let r := gather flitRdcpl h payload none s
  match r.1 with
  | none => r.2
  | some m =>
    if h.last then
      r.2.modWin (fun w => { w with
        tags := supd none w.tags h.tag.toNat (PeerRead.answered (unmarked (m.data.take m.mlen))) })
    else r.2

def execRdcpl (h : FlitHdr) (payload : Bytes) (s : State) : Host.Outcome State Fault Refusal :=
  .next (receive flitRdcpl h (takeRdcpl h payload) s)

/-- SIGNAL: version 2, write access; INC is added to event counter EVENT of the tenant that holds the window. -/
def takeSignal (h : FlitHdr) (payload : Bytes) (s : State) : State :=
  let t := (s.window true h.window.val).tenant.toNat
  let bad := if s.win.link = .up then s.refusal h.window.val true 0 1 else some nakAccess
  match bad with
  | some r => refuse r h h.fseq s
  | none =>
    settle t (s.modTenant t (fun y => y.addEvent (payload.getD 0 0).toNat (leNat ((payload.drop 2).take 2))))

def execSignal (h : FlitHdr) (payload : Bytes) (s : State) : Host.Outcome State Fault Refusal :=
  .next (receive flitSignal h (takeSignal h payload) s)

/-- GRAD: version 1, write access; the entries of each flit are added as it comes; one out of order ends the message. -/
def takeGrad (h : FlitHdr) (payload : Bytes) (s : State) : State :=
  let bad := if s.win.link = .legacy then s.refusal h.window.val true h.offset.toNat 4 else some nakAccess
  let r := gather flitGrad h payload bad s
  match r.1 with
  | none => r.2
  | some m =>
    if m.refused then r.2
    else
      let before := (m.data.length - payload.length) / 236 * 39
      let n := min 39 (m.mlen / 6 - before)
      let g := gradEntries (r.2.window true m.window) m.offset ((chunks 6 n (payload.take (6 * n)))) none r.2
      if g.1 then g.2
      else refuse nakAccess h m.fseq
        (g.2.modWin (fun w => w.setRx h.vc (if h.last then none else some { m with refused := true })))

def execGrad (h : FlitHdr) (payload : Bytes) (s : State) : Host.Outcome State Fault Refusal :=
  .next (receive flitGrad h (takeGrad h payload) s)

/-- NAK of a read: its data is poison (notes/assumptions/31.md); of any other message: no effect. -/
def takeNak (payload : Bytes) (s : State) : State :=
  let n := BitVec.ofNat 12 (leNat ((payload.drop 2).take 2))
  s.modWin (fun w => { w with
    tags := smap none w.tags (fun _ (r : Option PeerRead) =>
      if r.any (fun r => r.reqs.contains n) then
        r.map (fun r => { r with
          data := (r.data ++ List.replicate 4096 ((0, true) : MByte)).take r.len, reqs := r.reqs.filter (· != n) })
      else r) })

def execNak (h : FlitHdr) (payload : Bytes) (s : State) : Host.Outcome State Fault Refusal :=
  .next (receive flitNak h (takeNak payload) s)

/-- CREDIT: flit credits returned, regular and freight (R341). -/
def takeCredit (payload : Bytes) (s : State) : State :=
  s.modWin (fun w => { w with
    credits0 := w.credits0 + leNat (payload.take 2), credits1 := w.credits1 + leNat ((payload.drop 2).take 2) })

def execCredit (h : FlitHdr) (payload : Bytes) (s : State) : Host.Outcome State Fault Refusal :=
  .next (receive flitCredit h (takeCredit payload) s)

/-- REPLAY: ACKSEQ names the last good flit; what follows is sent again, and the eighth time the link retrains (R339, R342). -/
def execReplay (h : FlitHdr) (s : State) : Host.Outcome State Fault Refusal :=
  if !s.win.linked then .next s
  else
    let s1 := s.modWin (fun w => w.acked h.ackseq)
    let s2 := s1.modWin (fun w => { w with replayCount := w.replayCount + 1 })
    if 8 ≤ s2.win.replayCount then .next (retrain s2) else .next (pump (resend s2))

/-- IDLE: nothing but its acknowledgement. -/
def execIdle (h : FlitHdr) (s : State) : Host.Outcome State Fault Refusal :=
  if !s.win.linked then .next s
  else .next (pump (s.modWin (fun w => if h.ackv then w.acked h.ackseq else w)))

/-- BAD_FLIT (R342): a bad CRC is counted; the flit, or one whose FSEQ is out of order, and what follows are discarded, and REPLAY is
sent. A good flit in order is another row's. -/
def execBadFlit (flit : Bytes) (s : State) : Host.Outcome State Fault Refusal :=
  if !s.win.linked then .next s
  else if !flitGood flit then .next (askReplay (s.modWin (fun w => { w with crcErr := satAdd w.crcErr 1 })))
  else if isSequenced (flit.getD 0 0) && (hdrRead flit).fseq != s.win.rxNext then .next (outOfOrder s)
  else .next s

/-- PEER_ACKNOWLEDGE (R341, R342): after 64 flits or 1 µs; the credits of the flits taken go back with it. -/
def execPeerAcknowledge (s : State) : Host.Outcome State Fault Refusal :=
  let w := s.win
  let due := decide (64 ≤ w.sinceAck) || decide (w.ackTime + us ≤ s.glb.devTime)
  if !w.linked || w.sinceAck + w.owed0 + w.owed1 == 0 || !due then .next s
  else if 0 < w.owed0 + w.owed1 then
    .next (enqueueFlits (flitsOf flitCredit FlitHdr.zero (leBytes 2 w.owed0 ++ leBytes 2 w.owed1))
      (s.modWin (fun w => { w with owed0 := 0, owed1 := 0 })))
  else
    .next (emitFlit flitIdle { FlitHdr.zero with ackv := true, ackseq := w.lastIn } []
      (s.modWin (fun w => { w with sinceAck := 0 })))

/-- PEER_LINK_TRAIN (R339): PEER_PRSNT_N falls and the link trains anew, or a retraining settles. -/
def execPeerLinkTrain (present : Bool) (version : Fin 3) (lanes : BitVec 8) (s : State) : Host.Outcome State Fault Refusal :=
  let s1 := { s with glb := { s.glb with peerPrsntN := !present } }
  if !s.firmwareRuns || !present then .next s1
  else if s.glb.peerPrsntN then
    .next (trainLink version.val lanes (s1.modWin (fun w => { w with link := .down })))
  else if s.win.link = .training then .next (trainLink version.val lanes s1)
  else .next s

end Sys2Proof.Machine
end

