-- ==== Sys2Proof/Machine/Transfer.lean ====
section
/-! DEFINITION. TRANSFER_DESCRIPTOR_COMPLETE: what a transfer descriptor has done when it completes (R111, R112, R153, R208, R339,
R340, R343). -/

namespace Sys2Proof.Machine

/-- A wait counter of an array of the tenant rises, saturating. -/
def countTq (t : Nat) (tq : Option (Ary × Fin 16)) (s : State) : State :=
  match tq with
  | none => s
  | some (a, q) =>
    if s.aryTenant a.val = some t then s.modArr a.val (fun x => { x with tq := supd 0 x.tq q.val (fun n => satAdd n 1) })
    else s

/-- The level-1 transfers, and the level-2 transfers, of the tiling's blocks that a descriptor may be one of: no longer than a block, counted
into a wait counter of the array that it fills, or of one of the DISPATCH's (R111, R153). -/
def Dispatch.due1 (x : Dispatch) (v : Descriptor) : Nat :=
  match v.move, v.tq, x.tiling with
  | .conToSid a _ _ len, some (b, _), some tl => if a = b ∧ len ≤ tl.bytes1 then sget 0 x.blocks1 a.val else 0
  | _, _, _ => 0

def Dispatch.due2 (x : Dispatch) (v : Descriptor) : Nat :=
  match v.move, v.tq, x.tiling with
  | .memToCon _ _ len, some (b, _), some tl => if x.arrays.getLsbD b.val ∧ len ≤ tl.bytes2 then x.blocks2 else 0
  | _, _, _ => 0

/-- The DISPATCH has such a descriptor to come. -/
def Dispatch.expects (x : Dispatch) (v : Descriptor) : Bool := x.due1 v != 0 || x.due2 v != 0 || x.descsLeft != 0

/-- Keys and values go only where the DISPATCH's kernel said that it writes (R185). -/
def Dispatch.writesKv (x : Dispatch) (m : Move) : Bool :=
  match m with
  | .conToKv _ hd layer _ tok n _ => x.kvWrites.any (fun w =>
      w.handle == hd && w.layer == layer && decide (w.first ≤ tok) && decide (tok + n ≤ w.first + w.tokens))
  | _ => true

/-- Messages to the peer are sent only for kernels that declare peer traffic (R340). -/
def Dispatch.mayPeer (x : Dispatch) (m : Move) : Bool :=
  match m with
  | .conToPeer _ _ _ _ => x.peer
  | .peerToCon _ _ _ _ _ => x.peer
  | _ => true

/-- A descriptor counted off: as a block of level 1 or 2 while one is due, else as one of the others. -/
def Dispatch.countOff (v : Descriptor) (x : Dispatch) : Dispatch :=
  match v.move with
  | .conToSid a _ _ _ =>
    if x.due1 v = 0 then { x with descsLeft := x.descsLeft - 1 }
    else { x with blocks1 := supd 0 x.blocks1 a.val (fun n => n - 1) }
  | _ => if x.due2 v = 0 then { x with descsLeft := x.descsLeft - 1 } else { x with blocks2 := x.blocks2 - 1 }

/-- A descriptor of a DISPATCH has completed. -/
def descDone (d : Nat) (t : Nat) (v : Descriptor) (s : State) : State :=
  countTq t v.tq (s.modDispatch d (Dispatch.countOff v))

/-- The VC of a DISPATCH's peer traffic: freight on 1 (R339). -/
def Dispatch.vc (x : Dispatch) : Bool := x.cls == 3

/-- A peer write cut into messages of at most 4,096 bytes; a whole aligned page whose packed form is 3,584 bytes or less goes packed on
a version 2 link (R343). -/
def writeMessages (v2 vc : Bool) (w : Fin 64) : Nat → Nat → Bytes → List TxFlit
  | 0, _, _ => []
  | n + 1, off, l =>
    if l.isEmpty then [] else
      let part := l.take (4096 - off % 4096)
      let pf := packForm part
      let pack := v2 && part.length == 4096 && off % 4096 == 0 && decide (pf.length ≤ 3584)
      flitsOf flitWr { FlitHdr.zero with
          vc := vc, pack := pack, window := w, offset := BitVec.ofNat 30 off, mlen := BitVec.ofNat 13 part.length }
        (if pack then pf else part) ++ writeMessages v2 vc w n (off + part.length) (l.drop part.length)

/-- The requests of a peer read, at most 4,096 bytes each (R339). -/
def readMessages (vc : Bool) (w : Fin 64) (tag : BitVec 8) : Nat → Nat → Nat → List TxFlit
  | 0, _, _ => []
  | n + 1, off, len =>
    if len = 0 then [] else
      let k := min 4096 len
      flitsOf flitRdreq { FlitHdr.zero with
          vc := vc, window := w, tag := tag, offset := BitVec.ofNat 30 off, mlen := BitVec.ofNat 13 k } [] ++
        readMessages vc w tag n (off + k) (len - k)

/-- A peer transfer while the link is DOWN faults its DISPATCH (R339). -/
def peerDown (x : Dispatch) (v : Descriptor) (s : State) : State :=
  record Code.peerDown (some x.tenant) unitPeer 0 0
    (descDone x.id x.tenant v (s.modDispatch x.id (Dispatch.faulted Code.peerDown (BitVec.ofNat 64 unitPeer))))

/-- Bytes sent to a peer window; poison is consumed, not sent. -/
def peerWrite (x : Dispatch) (con window off len : Nat) (v : Descriptor) (s : State) : State :=
  let l := s.partRead (s.tenantPart x.tenant) con len
  if l.any (·.2) then consumePoison x.id unitPeer (descDone x.id x.tenant v s)
  else descDone x.id x.tenant v (enqueueFlits
    (writeMessages (s.win.link == .up) x.vc (Fin.ofNat 64 window) (len / 4096 + 2) off (l.map (·.1))) s)

/-- A peer read: the first time its requests go; when all the data has come it is written to the partition. -/
def peerRead (x : Dispatch) (window off con len : Nat) (tag : BitVec 8) (v : Descriptor) (s : State) : State :=
  match sget none s.win.tags tag.toNat with
  | none =>
    enqueueFlits (readMessages x.vc (Fin.ofNat 64 window) tag (len / 4096 + 1) off len)
      (s.modWin (fun w => { w with tags := sset none w.tags tag.toNat (some ⟨x.id, con, len, [], []⟩) }))
  | some r =>
    if r.disp != x.id || r.con != con || r.len != len || r.data.length != len then s
    else descDone x.id x.tenant v (conPut x.tenant con r.data
      (s.modWin (fun w => { w with tags := sset none w.tags tag.toNat none })))

/-- A descriptor of a DISPATCH; none reads a poisoned shard (R259). -/
def dispatchMove (x : Dispatch) (d : Descriptor) (e : MoveErr) (s : State) : State :=
  match d.move with
  | .conToPeer con window off len =>
    if s.win.link = .down then peerDown x d s
    else if s.win.link = .training then s
    else peerWrite x con window off len d (conErrs x.tenant e.ce e.ue s)
  | .peerToCon window off con len tag =>
    if s.win.link = .down then peerDown x d s
    else if s.win.link = .training then s
    else peerRead x window off con len tag d s
  | m =>
    match x.copy.bind (fun c => poisonedRead ((s.tenant x.tenant).copy c.val) (moveReads m)) with
    | some a => descDone x.id x.tenant d (faultDispatch (some x.id) Code.digestMismatch (detailOf a unitNone) s)
    | none =>
      match moveBytes x.tenant m e s with
      | .ok s1 => descDone x.id x.tenant d (s1.modDispatch x.id (Dispatch.haveRead (moveReads m)))
      | .error (c, a) =>
        let s1 := descDone x.id x.tenant d (faultDispatch (some x.id) c (detailOf a unitNone) s)
        if c = Code.kvWriteRange ∨ c = Code.kvHandle then record c (some x.tenant) unitNone 0 a s1
        else writeFault x.tenant a c s1

/-- The copy of a PREFETCH into the partition has come to its end (R208). -/
def prefetchMove (d : Descriptor) (e : MoveErr) (s : State) : State :=
  let t := d.tenant.val
  match d.move with
  | .memToCon model con len =>
    (match (s.tenant t).migrates.find? (fun j => j.copy == some (model, con, len)) with
     | none => s
     | some j =>
       match moveBytes t d.move e s with
       | .ok s1 =>
         complete t j.q j.idx 0 0 0 unitNone true
           (s1.modTenant t (fun y => { y with migrates := y.migrates.filter (· != j) }))
       | .error _ => s)
  | _ => s

/-- TRANSFER_DESCRIPTOR_COMPLETE: `e` is what its reads and flits meet (R198, R295). -/
def execTransferDescriptorComplete (d : Descriptor) (e : MoveErr) (s : State) : Host.Outcome State Fault Refusal :=
  match d.disp with
  | none => .next (prefetchMove d e s)
  | some i => match s.dispatch? i with
    | none => .next s
    | some x =>
      if x.tenant != d.tenant.val || !x.expects d || !x.writesKv d.move || !x.mayPeer d.move || !s.mayFinish i ||
        !s.moveFits x.tenant d.move then .next s
      else .next (dispatchMove x d e (startDispatch i s))

end Sys2Proof.Machine
end

