-- ==== Sys2Proof/Machine/Power.lean ====
section
/-! DEFINITION. Clocks, rails, thermal limits, resets, device states from RESET to AWAIT_HOST, and the boot list (R352 to R371, R377). -/

namespace Sys2Proof.Machine

/-! ## Resets (R359, R360, R377) -/

/-- What flash keeps of the depot over a reset: headers and units; every sector is write-protected (R242), and one whose erase was cut
short holds nothing defined. -/
def Dep.kept (s : State) : Dep :=
  { Dep.init with
    sectors := smap Sector.init s.dep.sectors (fun k (h : Sector) => { h with wp := true, undef := h.undef || s.sectorErasing k })
    units := s.dep.units
    line := s.dep.line }

/-- The machine in RESET: everything at its reset value but fuses, flash and what lies outside the device. BOOT takes the firmware image,
the roots and the network settings from the device sectors, TRAIN the field retirements (R224, R230, R324). -/
def State.cleared (s : State) : State :=
  { State.reset with
    pending := s.pending
    fuse := s.fuse
    dep := Dep.kept s
    out := s.out
    free := s.free }

/-- A device RESET with its cause (R359): the log, its counter and the first fault survive, the device counters do not; LOG_RESET is
the first entry after (R377). -/
def deviceReset (cause : BitVec 8) (s : State) : State :=
  recordReset { s.cleared with
    glb := { Glb.init with
      prev := s.glb.st
      cause := cause
      porN := s.glb.porN
      perstN := s.glb.perstN
      thermN := s.glb.thermN
      smbAlertN := s.glb.smbAlertN
      peerPrsntN := s.glb.peerPrsntN
      mgtMode := s.glb.mgtMode
      smbAddr := s.glb.smbAddr
      vddAux := s.glb.vddAux
      railsOk := s.glb.railsOk
      thermHeld := s.glb.thermHeld
      railHeld := s.glb.railHeld
      logResetDue := false }
    frc := { s.frc with starve := 0, ceStall := 0, poison := 0, setBits := 0 } }

/-- POR_N_ASSERT: the whole device, the always-on domain included. -/
def execPorNAssert (s : State) : Host.Outcome State Fault Refusal :=
  .next { s.cleared with glb := { Glb.init with
    perstN := s.glb.perstN
    peerPrsntN := s.glb.peerPrsntN
    mgtMode := s.glb.mgtMode
    smbAddr := s.glb.smbAddr
    vddAux := s.glb.vddAux
    railsOk := s.glb.railsOk } }

/-- POR_N_RELEASE (R363, R366, R377): every rail is in tolerance; the device is in RESET, and LOG_RESET is the first entry. -/
def execPorNRelease (s : State) : Host.Outcome State Fault Refusal :=
  if s.glb.porN then .next s
  else
    let s1 := { s with glb := { s.glb with
      devTime := 0, porN := true, vddAux := true, railsOk := true, logResetDue := false } }
    .next (if s.glb.logResetDue then recordReset s1 else s1)

/-- SAFE_HOLD where a tenant is armed, then the reset: the causes that do not wait for anything to drain (R360, R367, R368). -/
def faultReset (cause : BitVec 8) (code : BitVec 16) (s : State) : State := deviceReset cause (safeHold code s)

/-- The host configures a function whose port logic is out of reset. -/
def configure (cfg : PcieCfg) (s : State) : State := if s.glb.portUp then setPcie cfg s else s

/-- PLL_LOCK (R352, R360, R363): the domain groups are released, PCIe last, unless a cause of the reset still stands; `cfg`: what the
host then sets in the function (R328). -/
def execPllLock (cfg : PcieCfg) (s : State) : Host.Outcome State Fault Refusal :=
  if s.glb.st = .reset ∧ s.glb.porN ∧ !s.glb.railHeld ∧ !s.glb.thermHeld then
    .next (configure cfg (setDev .boot { s with glb := { s.glb with
      pllLocked := true, safeHoldN := s.glb.vddAux, portUp := s.glb.perstN } }))
  else .next s

/-- PLL_UNLOCK (R367). -/
def execPllUnlock (s : State) : Host.Outcome State Fault Refusal :=
  if !s.glb.pllLocked then .next s
  else .next (faultReset 0x03 Code.pllUnlock (record Code.pllUnlock none unitNone 0 0 s))

/-- RAIL_FAULT (R367): a monitored rail, any but VDD_AUX, 10 µs out of tolerance. -/
def execRailFault (r : Rail) (s : State) : Host.Outcome State Fault Refusal :=
  if r = 9 ∨ !s.glb.porN then .next s
  else
    let s1 := record Code.railFault none unitNone r.val 0 { s with glb := { s.glb with railsOk := false, railHeld := true } }
    .next (faultReset 0x05 Code.railFault s1)

/-- RAIL_RECOVERY (R367): every rail has been back in tolerance for 1 ms. -/
def execRailRecovery (s : State) : Host.Outcome State Fault Refusal :=
  if s.glb.railHeld ∧ ms ≤ s.glb.devTime then .next { s with glb := { s.glb with railsOk := true, railHeld := false } }
  else .next s

/-- VDD_AUX_LOSS (R346, R367): SAFE_HOLD_N is left to its pull-down. -/
def execVddAuxLoss (s : State) : Host.Outcome State Fault Refusal :=
  .next { s with glb := { s.glb with vddAux := false, safeHoldN := false } }

/-! ## PERST_N (R359) -/

/-- PERST_N_ASSERT: the PCIe port logic and its BAR state are reset; the host is lost at once. -/
def execPerstNAssert (s : State) : Host.Outcome State Fault Refusal :=
  let s1 := hostLost s
  .next { s1 with glb := { s1.glb with
    perstN := false, portUp := false, d3hot := false, latches := [], msixTable := [], msixMask := BitVec.allOnes 64, msixPba := 0
    pcie := Glb.init.pcie } }

/-- PERST_N_RELEASE: the port logic leaves reset, once the groups have been released, and the host configures the function. -/
def execPerstNRelease (cfg : PcieCfg) (s : State) : Host.Outcome State Fault Refusal :=
  .next (configure cfg { s with glb := { s.glb with perstN := true, portUp := s.glb.portUp || s.glb.pllLocked } })

/-! ## GLB_RESET (R364) -/

/-- A write to GLB_RESET: the two unlock words within 1 ms and nothing between reset the device; any other write starts over. -/
def writeReset (v : Reg32) (s : State) : State :=
  let key := v.toNat % 2 ^ 16
  let due : Bool := match s.glb.resetKey with
    | none => false
    | some t => decide (s.glb.devTime ≤ t + ms)
  if key = 0x69EA ∧ due then deviceReset 0x02 s
  else { s with glb := { s.glb with resetKey := if key = 0xA96E then some s.glb.devTime else none } }

/-- GLB_RESET_WRITE: ignored while the host is lost (R308). -/
def execGlbResetWrite (v : Reg32) (s : State) : Host.Outcome State Fault Refusal :=
  .next (if s.hostReaches && !s.glb.lost then writeReset v s else s)

/-- GLB_RESET_SEQUENCE_TIMEOUT: 1 ms has passed since the first unlock word. -/
def execGlbResetSequenceTimeout (s : State) : Host.Outcome State Fault Refusal :=
  match s.glb.resetKey with
  | none => .next s
  | some t => if t + ms < s.glb.devTime then .next { s with glb := { s.glb with resetKey := none } } else .next s

/-! ## Thermal limits (R368) -/

/-- Alert, throttle and trip limits in 1/256 °C, by grade. -/
def State.thermLimit (s : State) (k : Nat) : Int :=
  let base : List Int := if s.fuse.grade = 1 then [105, 110, 120] else [110, 115, 125]
  256 * base.getD k 0

def State.hot (s : State) (k : Nat) (temp : BitVec 16) : Bool := decide (s.thermLimit k ≤ temp.toInt)

/-- A temperature read; one that crosses the alert limit is an alert, and SMB_ALERT_N falls (R348). -/
def setTemp (temp : BitVec 16) (s : State) : State :=
  let s1 := { s with glb := { s.glb with temp := temp } }
  if s.hot 0 temp ∧ !s.hot 0 s.glb.temp then
    record Code.thermAlert none unitNone 0 0 { s1 with glb := { s1.glb with alertSeen := true, smbAlertN := false } }
  else s1

/-- THERM_ALERT: the alert limit is crossed. -/
def execThermAlert (temp : BitVec 16) (s : State) : Host.Outcome State Fault Refusal :=
  .next (if s.glb.porN ∧ s.hot 0 temp ∧ !s.hot 0 s.glb.temp then setTemp temp s else s)

/-- THERM_THROTTLE: regular and freight arrays are gated; gating is neither a hold nor PLAN_STARVE. -/
def execThermThrottle (temp : BitVec 16) (s : State) : Host.Outcome State Fault Refusal :=
  if s.glb.porN ∧ s.hot 1 temp ∧ !s.glb.throttle then
    let s1 := setTemp temp s
    .next (record Code.thermThrottle none unitNone 0 0 { s1 with glb := { s1.glb with throttle := true, throttleSeen := true } })
  else .next s

/-- THROTTLE_RELEASE: the die is below the throttle limit. -/
def execThrottleRelease (temp : BitVec 16) (s : State) : Host.Outcome State Fault Refusal :=
  if !s.glb.porN ∨ s.hot 1 temp then .next s
  else
    let s1 := setTemp temp s
    .next { s1 with glb := { s1.glb with throttle := false } }

/-- THERM_TRIP: recorded, THERM_N low, SAFE_HOLD if armed, and a device RESET held while the die is hot. -/
def execThermTrip (temp : BitVec 16) (s : State) : Host.Outcome State Fault Refusal :=
  if s.hot 2 temp ∧ s.glb.porN ∧ !s.glb.thermHeld then
    let s1 := setTemp temp s
    .next (faultReset 0x04 Code.thermTrip
      (record Code.thermTrip none unitNone 0 0 { s1 with glb := { s1.glb with thermN := false, thermHeld := true } }))
  else .next s

/-- THERM_TRIP_RELEASE: the die is below the alert threshold. -/
def execThermTripRelease (temp : BitVec 16) (s : State) : Host.Outcome State Fault Refusal :=
  if !s.glb.thermHeld ∨ s.hot 0 temp then .next s
  else .next { s with glb := { s.glb with temp := temp, thermN := true, thermHeld := false } }

/-! ## Start-up (R314, R319, R349, R363) -/

/-- A start-up step failed: REJECTED, with the code, whose ARG is that of the state that failed for BOOT_FAIL. -/
def rejectStart (code : BitVec 16) (s : State) : State :=
  let arg := if code = Code.bootFail then devCode s.glb.st else 0
  record code none unitNone arg 0 (setDev .rejected s)

/-- The boot ROM has read the image, which stands in control SRAM, core 7's part included (R249). -/
def takeImage (s : State) : State :=
  let b := s.bootImage
  { s with
    sec := { s.sec with sram := some ((b.map (·.2)).getD []) }
    mgt := { s.mgt with image := b.map (·.2), half := (b.map (·.1)).getD 0 } }

/-- BOOT_DONE: the image is read, BNONCE is drawn, core 0 fills the device slots and takes the roots; the image is verified next. -/
def execBootDone (bnonce : Bytes) (s : State) : Host.Outcome State Fault Refusal :=
  if s.glb.st ≠ .boot then .next s
  else
    let slots := [0x20, 0x21, 0x22, 0x23].foldl (fun m k =>
      sset KeySlot.init m k ⟨true, false, if k = 0x23 then Config.mgtKey s.fuse.dseed else Config.deviceSecret k,
        if k = 0x22 then some Config.bootSigner else none, 0⟩) s.sec.slots
    .next (setDev .verify (takeRoots (takeImage { s with sec := { s.sec with bnonce := bnonce, slots := slots } })))

/-- VERIFY_DONE. -/
def execVerifyDone (ok : Bool) (s : State) : Host.Outcome State Fault Refusal :=
  if s.glb.st ≠ .verify then .next s
  else .next (if ok then setDev .train s else rejectStart Code.bootFail s)

/-- A channel that the yard port supports (R349): its rate in MT/s, its ranks, its GiB. -/
def channelOk (c : Nat × Nat × Nat) : Bool :=
  [6400, 7500, 8533].contains c.1 && decide (1 ≤ c.2.1) && decide (c.2.1 ≤ 2) && decide (8 ≤ c.2.2) && decide (c.2.2 ≤ 32)

/-- A yard that R349 allows: eight channels alike, 64 to 256 GiB in all. -/
def yardAccepted (l : List (Nat × Nat × Nat)) : Bool :=
  let total := (l.map (fun c => c.2.2)).sum
  l.length == 8 && l.all (fun c => channelOk c && c == l.headD (0, 0, 0)) && decide (64 ≤ total) && decide (total ≤ 256)

/-- TRAIN_DONE: the yard is accepted and its size known, the pools are laid out, headers copied, retirements reapplied, a present peer is
trained with. -/
def execTrainDone (ok : Bool) (channels : List (Nat × Nat × Nat)) (peerVersion : Fin 3) (peerLanes : BitVec 8) (s : State) :
    Host.Outcome State Fault Refusal :=
  if s.glb.st ≠ .train then .next s
  else if !yardAccepted channels then .next (rejectStart Code.yardConfig s)
  else if !ok then .next (rejectStart Code.bootFail s)
  else
    let gib := (channels.map (fun c => c.2.2)).sum
    let s0 := reapplyRows s
    let s1 := { s0 with
      mtc := { s0.mtc with
        yardGiB := gib, yardRate := (channels.headD (0, 0, 0)).1, yardRanks := (channels.headD (0, 0, 0)).2.1
        stkFree := BitVec.ofNat 16 (stackedPool gib), yardFree := BitVec.ofNat 17 (yardPool gib) }
      dep := s0.dep.copyHeaders }
    .next (setDev .selftest (if s1.glb.peerPrsntN then s1 else trainLink peerVersion.val peerLanes s1))

/-! ## The boot list (R370) -/

/-- The device slots' secrets, by slot number. -/
def State.deviceKeys (s : State) : Store Bytes := [0x20, 0x21, 0x22, 0x23].map (fun k => (k, (s.keySlot k).secret))

/-- The boot list, when user sector 0 begins with a valid one: its entries. -/
def State.bootList (s : State) : List Bytes :=
  let b := (s.depotRead s.deviceKeys false 0 0xA0 []).data
  let n := (b.getD 4 0).toNat
  let es := (b.drop 0x20).take (32 * n)
  if b.length != 0xA0 then []
  else if mfNat b 0 4 == 0x424C0096 && decide (n ≤ 4) && mfNat b 5 23 == 0 && mfNat b 0x1C 4 == crc32c (b.take 0x1C ++ es) then
    chunks 32 n es
  else []

/-- An entry's fields. -/
def bootTenant (e : Bytes) : Nat := (e.getD 0 0).toNat % 32
def bootClass (e : Bytes) : Nat := (e.getD 0 0).toNat / 32 % 4
def bootCopy (e : Bytes) : Fin 4 := Fin.ofNat 4 (e.getD 1 0).toNat
def bootSector (e : Bytes) : Nat := mfNat e 4 4 % 2 ^ 15

/-- The tenant and the binding that an entry names may be set up. -/
def State.bootBinds (s : State) (e : Bytes) : Bool :=
  let t := bootTenant e
  let con := mfNat e 0x18 4
  decide ((e.getD 0 0).toNat < 128) && decide ((e.getD 1 0).toNat < 4) && mfNat e 2 2 == 0 && decide (mfNat e 4 4 < 2 ^ 15) &&
    mfNat e 0x1C 4 == 0 && mfNat e 0x14 4 / 2 ^ 30 != 3 && bootClass e != 0 && (s.tenant t).st == .free &&
    (bootClass e != 1 || decide (s.otherExpress t < 4)) &&
    (List.range 64).all (fun a => !bitAt (mfNat e 8 8) a || s.mayBindAry t a) &&
    decide (con < 2 ^ 17) && decide (bitsOf con 16 8 + bitsOf con 7 0 ≤ 256) && s.mayBindCon t (bitsOf con 7 0) (bitsOf con 16 8)

/-- The tenant set up in STOPPED. -/
def bootSetUp (e : Bytes) (s : State) : State :=
  let t := bootTenant e
  let w (off : Nat) : Reg32 := BitVec.ofNat 32 (mfNat e off 4)
  let s1 := bindArrays t true (w 0x0C) (bindArrays t false (w 0x08) s)
  let s2 := bindCon t (w 0x18) (bindRange t 0x124 (w 0x14) (bindRange t 0x120 (w 0x10) s1))
  s2.modTenant t (fun y => { y with st := .stopped, cls := BitVec.ofNat 2 (bootClass e) })

/-- The manifest that an entry names is valid and of SIGNER 0x01, under device slot 0x22; firmware may take it from a device sector
(R253). -/
def State.bootManifest (s : State) (e : Bytes) : Bool :=
  let t := bootTenant e
  let addr := sectorBytes * bootSector e
  (s.isUser (bootSector e) || s.isDevice (bootSector e)) &&
  let n := mfNat (s.depotRead s.bootKeys false addr 64 []).data 6 2
  let m := (s.depotRead s.bootKeys false addr (manifestBytes (if n ≤ 4096 then n else 0)) []).data
  decide (1 ≤ n) && decide (n ≤ 4096) && s.manifestOk t m && m.getD 0x20 0 == 1

/-- One entry: its tenant set up and its LOADW issued to the start of range 0, or skipped with BOOTLIST. -/
def bootEntry (s : State) (e : Bytes) : State :=
  let t := bootTenant e
  let s1 := bootSetUp e s
  if s.bootBinds e && s1.bootManifest e then
    let dest := granuleBytes * ((s1.tenant t).range 0).gbase.toNat
    let job : LoadJob := ⟨t, bootCopy e, BitVec.ofNat 2 (bootClass e), bootSector e, dest, false, true, [], false⟩
    let s2 := s1.modCopy t (bootCopy e).val (fun v => { v with st := .loading })
    { s2 with dep := { s2.dep with loads := s2.dep.loads ++ [job] } }
  else record Code.bootlist none unitNone 0 0 s

/-- SELFTEST_DONE: AWAIT_HOST, where LOADER reads the boot list; or REJECTED. -/
def execSelftestDone (ok : Bool) (sboxOk : Bool) (s : State) : Host.Outcome State Fault Refusal :=
  if s.glb.st ≠ .selftest then .next s
  else if !ok || !sboxOk then .next (rejectStart Code.bootFail s)
  else
    let s1 := setDev .awaitHost { s with sec := { s.sec with engineOk := true } }
    .next (startLoads (s1.bootList.foldl bootEntry s1))

/-! ## The safety link's receivers (R345) -/

/-- SAFETY_LINK_ALIGN: a receiver has aligned on K28.5 and K28.1. -/
def execSafetyLinkAlign (lane : Lane) (s : State) : Host.Outcome State Fault Refusal :=
  .next (if s.linkUp then s.modLane lane (fun v => { v with aligned := true }) else s)

end Sys2Proof.Machine
end

