-- ==== Sys2Proof/Machine/RegOps.lean ====
section
/-! DEFINITION. The registers of the control window as they read (R6 to R9, R13, R329, R332 and the field maps). -/

namespace Sys2Proof.Machine

/-- Halves of a 64-bit register quantity. -/
def lo32 (v : Nat) : Nat := v % 2 ^ 32
def hi32 (v : Nat) : Nat := v / 2 ^ 32 % 2 ^ 32

/-- The device has reached TRAIN since its last reset; a rejected one by the state it was rejected in (R363). -/
def Glb.trained (g : Glb) : Bool :=
  match if g.st = .rejected then g.prev else g.st with
  | .off | .reset | .boot | .verify => false
  | _ => true

/-- The setpoint of VDD_A in 5 mV units (R354): held while express is armed, 0.75 V from power-up, and from TRAIN onward where the device
puts it between 0.65 and 0.80 V, a free value. -/
def State.vddaNow (s : State) : Nat :=
  if s.glb.vddaFixed || !s.glb.trained then s.glb.vdda.toNat else 130 + (Config.vddaSteps s.free).val

/-- The package power in mW (R348, R364): 0 from the reset until device time runs, a measurement then. -/
def State.powerNow (s : State) : Reg32 := if s.glb.devTime = 0 then 0 else Config.powerMilliwatts s.free

/-! ## GLB (R1, R326, R364), the MSI-X structures (R332, R333) -/

def State.readGlb (s : State) (off : Nat) : Nat :=
  let g := s.glb
  if off = 0x00 then s.ident.toNat
  else if off = 0x04 then g.cause.toNat * 256 + devCode g.prev * 16 + devCode g.st
  else if off = 0x0C then
    g.temp.toNat * 2 ^ 16 + b2n g.alertSeen * 2 ^ 15 + b2n g.throttle * 2 ^ 14 + b2n g.throttleSeen * 2 ^ 13
  else if off = 0x10 then 0x01040204
  else if off = 0x14 then
    g.drvMajor.toNat * 2 ^ 24 + g.drvMinor.toNat * 2 ^ 16 + b2n g.drvReject * 2 + b2n g.verOk
  else if off = 0x18 then g.heartbeat.toNat
  else if off = 0x1C then
    b2n g.attached * 2 ^ 31 + b2n g.lost * 2 ^ 30 + b2n g.verOk * 2 ^ 29 +
      b2n (s.sec.sessions.any (fun x => x.stage == .established)) * 2 ^ 28 + b2n g.lostSeen * 2 ^ 27 + g.losses.toNat
  else if off = 0x20 then g.fwRestarts.toNat * 2 ^ 16 + g.fwHeld.toNat * 256 + g.fwLast.toNat
  else if off = 0x24 then
    s.powerNow.toNat / 10 % 2 ^ 16 * 2 ^ 16 + s.vddaNow * 256 + b2n g.vddaFixed * 128
  else if 0xF0000 ≤ off ∧ off < 0xF0400 then
    let w := (off - 0xF0000) / 4
    if w % 4 = 3 then b2n (g.msixMask.getLsbD (w / 4)) else (sget 0 g.msixTable w).toNat
  else if off = 0xF8000 then lo32 g.msixPba.toNat
  else if off = 0xF8004 then hi32 g.msixPba.toNat
  else 0

/-! ## DBL (R133, R136) -/

/-- The state that DBL_QSTATE shows (R127, R134, R136, R137). -/
def State.queueState (s : State) (t q : Nat) : Nat :=
  let y := s.queue t q
  match y.st with
  | .disabled => 0
  | .faulted => 5
  | .halted => 6
  | _ =>
    if (s.tenant t).st = .paused ∨ ((s.tenant t).st = .stopping ∧ (s.tenant t).whyFw) then 4
    else if y.blocked s.glb.attached || y.waiting.any (fun p => pOp p.w0 == 0x03) then 3
    else if y.tail != y.head || y.waiting.isSome || !y.allDone then 2
    else 1

def State.readDbl (s : State) (t q off : Nat) : Nat :=
  let y := s.queue t q
  if off = 0x00 then y.tail.toNat
  else if off = 0x04 then y.head.toNat
  else if off = 0x08 then y.cplHead.toNat
  else if off = 0x0C then y.cplTail.toNat
  else if off = 0x10 then
    s.queueState t q * 2 ^ 28 + b2n y.overrun * 2 ^ 27 + b2n y.cplFull * 2 ^ 26 + (if y.st = .faulted then y.fcode.toNat else 0)
  else if off = 0x14 then y.qcmd.toNat
  else 0

/-! ## TCX (R138, R139) -/

def tenCode : TenState → Nat
  | .free => 0
  | .stopped => 1
  | .running => 2
  | .paused => 3
  | .stopping => 4
  | .resetting => 5

def Tenant.qbits (y : Tenant) (f : Queue → Bool) : Nat :=
  ((List.range 8).map (fun q => if f (y.queue q) then 2 ^ q else 0)).sum

def Queue.cfgReg (y : Queue) (off : Nat) : Nat :=
  if off = 0x00 then lo32 y.base.toNat
  else if off = 0x04 then hi32 y.base.toNat
  else if off = 0x08 then lo32 y.cpl.toNat
  else if off = 0x0C then hi32 y.cpl.toNat
  else if off = 0x10 then b2n y.enable * 2 ^ 31 + y.vector.toNat * 2 ^ 20 + y.size.toNat * 2 ^ 16 + y.csize.toNat * 2 ^ 12
  else 0

def Tenant.read (y : Tenant) (off : Nat) : Nat :=
  if off = 0x00 then b2n y.admin * 2 ^ 31 + y.cls.toNat * 2 ^ 29
  else if off = 0x04 then
    tenCode y.st * 2 ^ 28 + b2n y.mkSlot.isSome * 2 ^ 27 + b2n y.whyRebind * 2 ^ 26 + b2n y.whyHost * 2 ^ 25 +
      b2n y.whyFw * 2 ^ 24 + (match y.mkSlot with | none => 0 | some k => k.val) * 2 ^ 19 + y.planner.toNat * 2 ^ 16 +
      y.qbits (fun v => v.st == .faulted) * 256 + y.qbits (fun v => !v.allDone)
  else if off = 0x08 then
    b2n y.cfgWrBusy * 2 ^ 31 + b2n y.bindConflict * 2 ^ 30 + b2n y.startRefused * 2 ^ 29 + y.cfgOff.toNat
  else if off = 0x0C then y.cmd.toNat
  else if off = 0x10 then lo32 y.starve.toNat
  else if off = 0x14 then hi32 y.starve.toNat
  else if off = 0x18 then y.pcHit.toNat
  else if off = 0x1C then y.pcMiss.toNat
  else if off = 0x20 then y.dseq.toNat
  else if isBindOff off then y.bindReg off
  else if 0x1000 ≤ off ∧ off < 0x2000 then y.cfgReg off
  else if 0x2000 ≤ off ∧ off < 0x2200 then (y.queue ((off - 0x2000) / 0x40)).cfgReg (off % 0x40)
  else 0

/-! ## FRC (R374, R378) -/

def Frc.read (f : Frc) (off : Nat) : Nat :=
  if off = 0x00 then f.summary.toNat * 2
  else if off = 0x04 then b2n f.firstValid * 2 ^ 31 + f.firstTenant.toNat * 2 ^ 16 + f.firstCode.toNat
  else if off = 0x08 then f.logWr.toNat
  else if off = 0x10 then lo32 f.starve.toNat
  else if off = 0x14 then hi32 f.starve.toNat
  else if off = 0x18 then f.ceStall.toNat
  else if off = 0x1C then f.poison.toNat
  else if 0x10000 ≤ off ∧ off < 0x18000 then
    ((sget LogEntry.init f.log ((off - 0x10000) / 32)).words.getD (off % 32 / 4) 0).toNat
  else 0

/-! ## WSC (R260) -/

def WscP.state (v : WscP) : Nat :=
  if v.step ≠ 0 then v.step else match v.st with
    | .ready => 0
    | .busy => 4
    | .suspended => 5

def State.secInfo (s : State) (k : Nat) : Nat :=
  let h := s.sector k
  min 4095 h.erases.toNat * 2 ^ 20 + b2n h.wp * 2 ^ 19 + b2n (s.sectorWorks k) * 2 ^ 18 + b2n (s.sectorSusp k) * 2 ^ 17 +
    h.kslot.toNat * 2 ^ 10 + h.wptr

/-- A port's registers but WSC_RDATA. -/
def State.readWsc (s : State) (p : WscPort) (off : Nat) : Nat :=
  let v := s.wsc p
  let d := s.dep
  if off = 0x00 then v.key.toNat
  else if off = 0x04 then v.cmd.toNat
  else if off = 0x08 then lo32 v.addr.toNat
  else if off = 0x0C then hi32 v.addr.toNat
  else if off = 0x10 then v.len.toNat
  else if off = 0x14 then v.data.toNat
  else if off = 0x18 then lo32 v.stage.toNat
  else if off = 0x1C then v.stageTenant.toNat * 2 ^ 16 + hi32 v.stage.toNat
  else if off = 0x20 then v.ksel.toNat
  else if off = 0x24 then b2n v.ageGuard
  else if off = 0x28 then v.state * 2 ^ 28 + b2n v.rdReady * 2 ^ 27 + v.op.toNat * 2 ^ 16 + v.done / 2 ^ 20 % 2 ^ 16
  else if off = 0x2C then v.err.toNat
  else if off = 0x30 then
    b2n d.eraseAged * 2 ^ 31 + b2n d.wearNear * 2 ^ 30 + b2n d.wearOut * 2 ^ 29 + d.retryMax.toNat * 2 ^ 16 + d.mediaSector.toNat
  else if off = 0x34 then v.secsel.toNat
  else if off = 0x38 then s.secInfo v.secsel.toNat
  else if off = 0x3C then d.intervalSh.toNat * 256 + d.shareSh.toNat
  else if off = 0x40 then d.passes.toNat * 2 ^ 16 + d.mismatch.toNat
  else if off = 0x44 then b2n d.faultValid * 2 ^ 31 + d.faultCode.toNat
  else if off = 0x48 then d.retried.toNat * 2 ^ 16 + d.uncorr.toNat
  else 0

/-! ## MTC (R227) -/

def State.readMtc (s : State) (off : Nat) : Nat :=
  let m := s.mtc
  let waiting := (m.moves.filter (fun v => !v.running)).length
  let state := if m.moves.any (·.running) then 1 else if m.throttled && waiting != 0 then 2 else 0
  if off = 0x00 then state * 2 ^ 28 + min 255 waiting
  else if off = 0x04 then b2n m.autoSh * 2 ^ 31 + m.promoteSh.toNat * 2 ^ 16 + m.hystSh.toNat * 256 + m.rateSh.toNat
  else if off = 0x08 then m.spares.toNat * 2 ^ 16 + m.stkFree.toNat
  else if off = 0x0C then m.yardFree.toNat
  else if off = 0x10 then lo32 m.moved.toNat
  else if off = 0x14 then hi32 m.moved.toNat
  else if off = 0x18 then m.declined.toNat
  else if off = 0x1C then m.tagFail.toNat * 2 ^ 16 + m.tagReread.toNat
  else if off = 0x20 then m.linkFail.toNat * 2 ^ 16 + m.linkRetry.toNat
  else if off = 0x24 then m.conRetired.toNat * 2 ^ 16 + m.sidRetired.toNat
  else if off = 0x28 then m.smMax.toNat * 2 ^ 16 + m.yardMax.toNat
  else if off = 0x2C then b2n m.faultValid * 2 ^ 31 + m.faultTenant.toNat * 2 ^ 16 + m.faultCode.toNat
  else if off = 0x30 then lo32 m.faultAddr.toNat
  else if off = 0x34 then hi32 m.faultAddr.toNat
  else if 0x100 ≤ off ∧ off < 0x200 then
    let b := (off - 0x100) / 4
    let v := sget Bank.init m.banks b
    v.rowLog.length % 256 * 2 ^ 16 + v.spareField.toNat * 256 + (sget 0 s.fuse.conSpareTest b).toNat
  else 0

/-! ## WIN (R351) -/

def linkCode : LinkState → Nat
  | .down => 0
  | .training => 1
  | .up => 2
  | .legacy => 3

def Window.reg (v : Window) : Nat :=
  b2n v.open_ * 2 ^ 31 + b2n v.closing * 2 ^ 30 + v.access.toNat * 2 ^ 28 + v.tenant.toNat * 2 ^ 23 + v.pages.toNat

def State.readWin (s : State) (off : Nat) : Nat :=
  let w := s.win
  if off = 0x00 then
    b2n w.faultValid * 2 ^ 31 + b2n w.faultPort * 2 ^ 23 + w.faultWindow.toNat * 2 ^ 16 + w.faultCode.toNat
  else if off = 0x04 then w.closedPeer.toNat * 2 ^ 16 + w.closedHost.toNat
  else if off = 0x08 then linkCode w.link * 2 ^ 28 + w.lanes.toNat * 2 ^ 24 + w.retrains.toNat
  else if off = 0x0C then w.replays.toNat * 2 ^ 16 + w.crcErr.toNat
  else if 0x100 ≤ off ∧ off < 0x200 then (s.window false ((off - 0x100) / 4)).reg
  else if 0x200 ≤ off ∧ off < 0x300 then (s.window true ((off - 0x200) / 4)).reg
  else 0

/-! ## XPR (R297) -/

/-- XPR_STATUS. -/
def State.xprStatus (s : State) : Nat :=
  let box := if s.glb.st = .safeHold then 3 else if !s.anyArmed then 0 else if s.glb.st = .degraded then 2 else 1
  box * 2 ^ 28 + b2n s.xpr.spareReady * 2 ^ 27 + b2n s.xpr.laneA.faulted * 2 ^ 26 + b2n s.xpr.laneB.faulted * 2 ^ 25 +
    b2n s.glb.safeHoldN * 2 ^ 24 + ((s.armedXids).map (fun x => 2 ^ x)).sum * 2 ^ 20 + s.xpr.holdCode.toNat

def Xid.read (v : Xid) (off : Nat) : Nat :=
  if off = 0x00 then
    sbCode v.st * 2 ^ 28 + b2n v.window * 2 ^ 27 + v.tenant.toNat * 2 ^ 22 + v.roles.length % 16 * 2 ^ 18 + v.seq.toNat
  else if off = 0x04 then v.valid.toNat
  else if off = 0x08 then
    v.mismatch.toNat * 2 ^ 24 + v.rerunOk.toNat * 2 ^ 16 + v.overrun.toNat * 256 + v.reqEarly.toNat
  else if off = 0x0C then v.latMax.toNat * 2 ^ 16 + v.latLast.toNat
  else 0

def State.readXpr (s : State) (off : Nat) : Nat :=
  if off = 0x00 then s.xprStatus
  else if off = 0x04 then
    b2n s.xpr.spareValid * 2 ^ 31 + s.xpr.formed.toNat * 2 ^ 16 + s.xpr.spa.toNat * 256 + s.xpr.spb.toNat
  else if off = 0x08 then s.xpr.laneA.discards.toNat * 2 ^ 16 + s.xpr.laneB.discards.toNat
  else if 0x100 ≤ off ∧ off < 0x180 then (s.xid ((off - 0x100) / 0x20)).read (off % 0x20)
  else 0

/-! ## ARY (R86, R119) -/

def aryCode : AryState → Nat
  | .idle => 0
  | .bound => 1
  | .loaded => 2
  | .run => 3
  | .hold => 4
  | .paused => 5
  | .scrub => 6
  | .fault => 7

/-- What ARY_TT shows of a slot; an image under check shows as none until its check is over (R119). -/
def slotCode : SlotState → Nat
  | .empty => 0
  | .checking => 0
  | .ready => 1
  | .running => 2
  | .rejected => 3

def State.readAry (s : State) (a off : Nat) : Nat :=
  let x := s.arr a
  if off = 0x00 then
    let who := match s.aryTenant a with
      | none => 0
      | some t => 2 ^ 30 + (s.tenant t).cls.toNat * 2 ^ 22 + t * 2 ^ 16
    b2n x.paired * 2 ^ 31 + x.partner.toNat * 2 ^ 24 + b2n x.spare * 2 ^ 21 + who + a
  else if off = 0x04 then
    -- a loaded array shows the image that comes next (R86)
    let live := if x.st = .loaded then imgLiveAcc x.loadedImage % 16 else x.liveAcc.toNat
    let next := if x.st = .loaded then imgEntry x.loadedImage else x.next
    aryCode x.st * 2 ^ 28 + live * 2 ^ 20 + next % 2 ^ 16
  else if off = 0x08 then x.activeSrcs.toNat
  else if off = 0x0C then x.holdSeen.toNat
  else if off = 0x10 then lo32 x.holdCyc.toNat
  else if off = 0x14 then hi32 x.holdCyc.toNat
  else if off = 0x18 then x.ceStall.toNat
  else if off = 0x1C then x.poisonRd.toNat * 2 ^ 16 + x.poisonWr.toNat
  else if off = 0x20 then b2n x.faultValid * 2 ^ 31 + x.faultCode.toNat
  else if off = 0x24 then x.segLimit.toNat
  else if off = 0x28 then
    b2n (!(s.aryExpress a)) * 2 ^ 31 + (x.stretchNow s.glb.devTime).toNat * 2 ^ 16 + x.avsEvents.toNat
  else if off = 0x2C then s.fuse.sidTest a * 256 + x.spareField.toNat
  else if off = 0x30 then
    (match x.active with | none => 0 | some i => i.val + 1) * 2 ^ 30 + slotCode x.slot1.st * 2 ^ 28 +
      slotCode x.slot0.st * 2 ^ 26 + x.rejCode.toNat
  else if 0x40 ≤ off ∧ off < 0x80 then (sget 0 x.tq ((off - 0x40) / 4)).toNat
  else if 0x100 ≤ off ∧ off < 0x180 then
    (sget (chainWordInit ((off - 0x100) / 4 % 4)) x.chainShadow ((off - 0x100) / 4)).toNat
  else 0

/-! ## ATP (R192), KEY (R326) -/

def pipeCode : PipeState → Nat
  | .idle => 0
  | .pass => 1
  | .stall => 2
  | .seal => 3
  | .scrub => 4

/-- The tenant whose pages a pipeline is sealing: it is free, and it is the turn of a tenant that has pages to seal and no leg to start
(R181, R192). -/
def State.sealing (s : State) (p : Nat) : Option Nat :=
  if s.pipeFree p then
    (s.pipeTurn p).filter (fun t => s.sealsWait p t && (s.firstLeg p (fun r => r.tenant == t) [] s.kv.legs).isNone)
  else none

def State.readAtp (s : State) (p off : Nat) : Nat :=
  let v := s.pipeline p
  if off = 0x00 then p / 4 * 16 + p
  else if off = 0x04 then
    match s.sealing p with
    | some t => pipeCode .seal * 2 ^ 28 + t * 2 ^ 23 + (s.tenant t).cls.toNat * 2 ^ 21
    | none => pipeCode v.st * 2 ^ 28 + v.tenant.toNat * 2 ^ 23 + v.cls.toNat * 2 ^ 21 + v.blocks.toNat
  else if off = 0x08 then v.passes.toNat
  else if off = 0x10 then lo32 v.late.toNat
  else if off = 0x14 then hi32 v.late.toNat
  else if off = 0x18 then v.sealSat.toNat * 2 ^ 16 + v.seals.toNat
  else if off = 0x20 then b2n v.faultValid * 2 ^ 31 + v.faultTenant.toNat * 2 ^ 16 + v.faultCode.toNat
  else 0

def State.readKey (s : State) (off : Nat) : Nat :=
  if off = 0x00 then
    b2n s.sec.engineOk * 2 ^ 31 + b2n s.sec.hostRoot.isSome * 2 ^ 30 + b2n s.sec.mgtRoot.isSome * 2 ^ 29 +
      min 4 s.sec.sessions.length * 2 ^ 24
  else if 0x10 ≤ off ∧ off < 0x40 then leNat ((s.idDigest.drop (off - 0x10)).take 4)
  else if 0x100 ≤ off ∧ off < 0x190 then s.keySlotReg ((off - 0x100) / 4)
  else if off = 0x200 then
    b2n s.sec.faultValid * 2 ^ 31 + s.sec.faultTenant.toNat * 2 ^ 16 + s.sec.faultCode.toNat
  else 0

/-! ## The window (R6, R8, R332) -/

/-- The value of the register at an aligned offset, WSC_RDATA apart. -/
def State.regNow (s : State) (off : Nat) : Nat :=
  let b := off / 2 ^ 20
  let o := off % 2 ^ 20
  if b = 0 then s.readGlb o
  else if b = 1 then s.readDbl (o / 2 ^ 15) (o / 2 ^ 12 % 8) (o % 2 ^ 12)
  else if b = 2 then (s.tenant (o / 2 ^ 15)).read (o % 2 ^ 15)
  else if b = 3 then s.frc.read o
  else if b = 4 then s.readWsc .host o
  else if b = 5 then s.readMtc o
  else if b = 6 then s.readWin o
  else if b = 7 then s.readXpr o
  else if 8 ≤ b ∧ b < 16 then s.readAry ((off - 2 ^ 23) / 2 ^ 17) (off % 2 ^ 17)
  else if b = 16 then s.readAtp (o / 2 ^ 16) (o % 2 ^ 16)
  else if b = 17 then s.readKey o
  else 0

/-- The counters and temperatures that TELEMETRY returns (R324, R380), by where they stand in the window, block by block: GLB, FRC, WSC, MTC,
WIN, XPR with its XIDs, and each array, pipeline and tenant context. -/
def counterRegs : List Nat :=
  let each (base n stride : Nat) (offs : List Nat) : List Nat :=
    (List.range n).flatMap (fun i => offs.map (fun o => base + stride * i + o))
  each 0 1 0 [0x0C, 0x24, 0x1C, 0x20] ++ each 0x300000 1 0 [0x08, 0x10, 0x14, 0x18, 0x1C] ++
    each 0x400000 1 0 [0x40, 0x48] ++ each 0x500000 1 0 [0x10, 0x14, 0x18, 0x1C, 0x20, 0x24] ++
    each 0x600000 1 0 [0x04, 0x08, 0x0C] ++ each 0x700000 1 0 [0x08] ++ each 0x700100 4 0x20 [0x04, 0x08, 0x0C] ++
    each 0x800000 64 0x20000 [0x10, 0x14, 0x18, 0x1C, 0x28] ++ each 0x1000000 8 0x10000 [0x08, 0x10, 0x14, 0x18] ++
    each 0x200000 32 0x8000 [0x10, 0x14, 0x18, 0x1C, 0x20] ++ each 0x1100000 1 0 [0]

/-- What TELEMETRY returns. -/
def State.telemetry (s : State) : List Reg32 := counterRegs.map (fun o => BitVec.ofNat 32 (s.regNow o))

/-- The low half of a 64-bit register quantity stands at this offset (R6). -/
def isLowHalf (off : Nat) : Bool :=
  let b := off / 2 ^ 20
  let o := off % 2 ^ 20
  if b = 2 then
    let c := o % 2 ^ 15
    c == 0x10 || c == 0x100 || c == 0x1000 || c == 0x1008 ||
      (decide (0x2000 ≤ c) && decide (c < 0x2200) && (c % 0x40 == 0 || c % 0x40 == 8))
  else if b = 0 then o == 0xF8000
  else if b = 3 then o == 0x10 || (decide (0x10000 ≤ o) && decide (o < 0x18000) && (o % 32 == 0 || o % 32 == 24))
  else if b = 5 then o == 0x10 || o == 0x30
  else if 8 ≤ b ∧ b < 16 then off % 2 ^ 17 == 0x10
  else if b = 16 then o % 2 ^ 16 == 0x10
  else false

/-- A 32-bit read with every effect it has: the latch of R6, a word taken from the read buffer (R243), a power reading drawn. -/
def readReg (off : Nat) (s : State) : Nat × State :=
  if off = 0x40004C then
    let r := rdataRead .host s
    (r.1.toNat, r.2)
  else if off = 0x24 then (s.regNow off, drawn s)
  else if isLowHalf off then
    (s.regNow off, { s with glb := { s.glb with
      latches := sset none s.glb.latches (off + 4) (some (BitVec.ofNat 32 (s.regNow (off + 4)))) } })
  else if 4 ≤ off ∧ isLowHalf (off - 4) then
    match sget none s.glb.latches off with
    | none => (s.regNow off, s)
    | some v => (v.toNat, s)
  else (s.regNow off, s)

/-- The bytes of an access lie in one aligned register, or it is an aligned access of two (R8, R329). -/
def accessAligned (off size : Nat) : Bool :=
  (decide (1 ≤ size) && decide (off % 4 + size ≤ 4)) || (size == 8 && off % 4 == 0)

/-- A read of one register's bytes, or of two registers in ascending order (R8, R329). -/
def readBytes (off size : Nat) (s : State) : Nat × State :=
  let a := readReg (off / 4 * 4) s
  if size = 8 then
    let b := readReg (off + 4) a.2
    (lo32 a.1 + lo32 b.1 * 2 ^ 32, b.2)
  else (a.1 / 2 ^ (8 * (off % 4)) % 2 ^ (8 * size), a.2)

/-- A read through BAR0 (R1, R8, R329, R330): a read larger than 8 bytes ends with Completer Abort, an unaligned one returns zeros. -/
def barRead (off size : Nat) (s : State) : State :=
  if !s.glb.portUp then s
  else if s.glb.d3hot then emit .cplUnsupported s
  else if 8 < size then emit .cplAbort s
  else if !accessAligned off size then emit (.regRead off 0) s
  else
    let r := readBytes off size s
    emit (.regRead off (BitVec.ofNat 64 r.1)) r.2

/-- BAR0 is 64 MiB (R328). -/
def barSize : Nat := 2 ^ 26

end Sys2Proof.Machine
end

