-- ==== Sys2Proof/Machine/Registers.lean ====
section
/-! DEFINITION. Reads and writes of the control window, the SMBus target and the test port (R6 to R13, R329, R332, R348, R350). -/

namespace Sys2Proof.Machine

/-! ## Writes of 32 bits, block by block -/

/-- The state a command answers; where it stops, the state before it. -/
def resState (s : State) (r : Res) : State :=
  match r with
  | .next t => t
  | _ => s

/-- A W1C field: a 1 written clears it (R9). -/
def w1c (old clear : Bool) : Bool := old && !clear

/-- The bits of a W1C field with those written 1 cleared. -/
def w1cBits {n : Nat} (old : BitVec n) (v : Nat) : BitVec n := old &&& ~~~(BitVec.ofNat n v)

/-- An MSI-X vector's mask bit; the message that waited for it goes out when it is cleared (R332, R333, notes/assumptions/23.md). -/
def writeMask (k : Nat) (on : Bool) (s : State) : State :=
  let bit : BitVec 64 := BitVec.ofNat 64 (2 ^ k)
  if on then { s with glb := { s.glb with msixMask := s.glb.msixMask ||| bit } }
  else sendPending k { s with glb := { s.glb with msixMask := s.glb.msixMask &&& ~~~bit } }

/-- GLB (R305, R307, R326, R332, R364). -/
def writeGlb (off : Nat) (v : Reg32) (s : State) : State :=
  let g := s.glb
  if off = 0x08 then writeReset v s
  else if off = 0x0C then
    { s with glb := { g with alertSeen := w1c g.alertSeen (v.getLsbD 15), throttleSeen := w1c g.throttleSeen (v.getLsbD 13) } }
  else if off = 0x14 then writeDrvver v s
  else if off = 0x18 then writeHeartbeat v s
  else if off = 0x1C then { s with glb := { g with lostSeen := w1c g.lostSeen (v.getLsbD 27) } }
  else if 0xF0000 ≤ off ∧ off < 0xF0400 then
    let w := (off - 0xF0000) / 4
    if w % 4 = 3 then writeMask (w / 4) (v.getLsbD 0) s
    else { s with glb := { g with msixTable := sset 0 g.msixTable w v } }
  else s

/-- DBL (R133, R134, R136). -/
def writeDbl (t : Ten) (q : Que) (off : Nat) (v : Reg32) (s : State) : State :=
  if off = 0x00 then resState s (execDblTailWrite t q v s)
  else if off = 0x08 then resState s (execDblCplHeadWrite t q v s)
  else if off = 0x10 then s.modQueue t.val q.val (fun y => { y with
    overrun := w1c y.overrun (v.getLsbD 27), cplFull := w1c y.cplFull (v.getLsbD 26) })
  else if off = 0x14 then
    let c := v.toNat % 16
    if c = 1 then resState s (execSkip t q s)
    else if c = 2 then resState s (execRetry t q s)
    else if c = 3 then resState s (execFlush t q s)
    else s
  else s

/-- A ring's bus address: busy while the queue is enabled (R138). -/
def writeRing (t q off : Nat) (v : Reg32) (s : State) : State :=
  let y := s.queue t q
  let reg := off % 0x40
  if y.enable then (if v.toNat = y.cfgReg reg then s else tcxBusy t off s)
  else if reg < 0x08 then s.setQueue t q { y with base := setHalf (reg == 0x04) y.base v }
  else s.setQueue t q { y with cpl := setHalf (reg == 0x0C) y.cpl v }

/-- TCX_CTRL: busy unless the tenant is FREE (R138). -/
def writeCtrl (t : Nat) (v : Reg32) (s : State) : State :=
  let y := s.tenant t
  let cls : BitVec 2 := BitVec.ofNat 2 (bitsOf v.toNat 30 29)
  if y.st = .free then
    let s1 := s.setTenant t { y with admin := v.getLsbD 31, cls := cls }
    -- an express tenant's arrays run at a fixed voltage (R73)
    if cls = 1 then y.arrays.foldl (fun s a => s.modArr a Arr.fixedClock) s1 else s1
  else if v.getLsbD 31 = y.admin ∧ cls = y.cls then s
  else tcxBusy t 0 s

/-- TCX_CMD (R137). -/
def writeTcmd (t : Ten) (v : Reg32) (s : State) : State :=
  let c := v.toNat % 16
  if c = 1 then resState s (execStart t s)
  else if c = 2 then resState s (execStop t s)
  else if c = 3 then resState s (execReset t s)
  else if c = 4 then resState s (execResume t s)
  else setCmd t.val (BitVec.ofNat 4 c) s

/-- TCX (R137 to R139). -/
def writeTcx (t : Ten) (off : Nat) (v : Reg32) (s : State) : State :=
  if off = 0x00 then writeCtrl t.val v s
  else if off = 0x08 then s.modTenant t.val (fun y => { y with
    cfgWrBusy := w1c y.cfgWrBusy (v.getLsbD 31), bindConflict := w1c y.bindConflict (v.getLsbD 30)
    startRefused := w1c y.startRefused (v.getLsbD 29) })
  else if off = 0x0C then writeTcmd t v s
  else if isBindOff off then writeBind t.val off v s
  else if 0x1000 ≤ off ∧ off < 0x2000 then writeCfg t.val off v s
  else if 0x2000 ≤ off ∧ off < 0x2200 then
    let q := (off - 0x2000) / 0x40
    if off % 0x40 < 0x10 then writeRing t.val q off v s
    else if off % 0x40 = 0x10 then writeQcfg t.val q v s
    else s
  else s

/-- The summary bits that faults of the present reference cycle have set: a write of 1 leaves them (R11). -/
def State.freshBits (s : State) : BitVec 10 := if s.frc.setTime = s.glb.devTime then s.frc.setBits else 0

/-- FRC (R11, R378): only while a host is attached. -/
def writeFrc (off : Nat) (v : Reg32) (s : State) : State :=
  let f := s.frc
  if off = 0x00 then
    { s with frc := { f with summary := w1cBits f.summary (bitsOf v.toNat 10 1) ||| (f.summary &&& s.freshBits) } }
  else if off = 0x04 ∧ v.getLsbD 31 ∧ s.freshBits = 0 then
    { s with frc := { f with firstValid := false, firstTenant := 0, firstCode := 0 } }
  else s

/-- WSC_KSEL: busy while the port is not READY (R10, R260). -/
def writeKsel (p : WscPort) (v : Reg32) (s : State) : State :=
  let w := s.wsc p
  let slot : BitVec 6 := BitVec.ofNat 6 v.toNat
  if w.state = 0 then s.setWsc p { w with ksel := slot }
  else if slot = w.ksel then s
  else record Code.cfgWrBusy none unitNone 8 0 (s.setWsc p { w with err := w.err ||| BitVec.ofNat 13 (2 ^ 12) })

/-- A register of a depot port (R236, R237, R260). -/
def writeWsc (p : WscPort) (off : Nat) (v : Reg32) (s : State) : State :=
  let d := s.dep
  if off = 0x00 then wscWrite p none v s
  else if off = 0x04 then wscWrite p (some .cmd) v s
  else if off = 0x08 then wscWrite p (some .addrLo) v s
  else if off = 0x0C then wscWrite p (some .addrHi) v s
  else if off = 0x10 then wscWrite p (some .len) v s
  else if off = 0x14 then wscWrite p (some .data) v s
  else if off = 0x18 then wscWrite p (some .stageLo) v s
  else if off = 0x1C then wscWrite p (some .stageHi) v s
  else if off = 0x20 then writeKsel p v s
  else if off = 0x24 then s.modWsc p (fun w => { w with ageGuard := v.getLsbD 0 })
  else if off = 0x2C then s.modWsc p (fun w => { w with err := w1cBits w.err v.toNat })
  else if off = 0x30 then
    { s with dep := { d with
      eraseAged := w1c d.eraseAged (v.getLsbD 31), wearNear := w1c d.wearNear (v.getLsbD 30)
      wearOut := w1c d.wearOut (v.getLsbD 29) } }
  else if off = 0x34 then s.modWsc p (fun w => { w with secsel := BitVec.ofNat 15 v.toNat })
  else if off = 0x3C then
    let share := max 1 (min 20 (v.toNat % 32))
    { s with dep := { d with intervalSh := BitVec.ofNat 8 (bitsOf v.toNat 15 8), shareSh := BitVec.ofNat 5 share } }
  else if off = 0x44 ∧ v.getLsbD 31 then { s with dep := { d with faultValid := false, faultCode := 0 } }
  else s

/-- MTC (R227): the shadows of MTC_POLICY, and MTC_FAULT. -/
def writeMtc (off : Nat) (v : Reg32) (s : State) : State :=
  let m := s.mtc
  let n := v.toNat
  if off = 0x04 then
    { s with mtc := { m with
      autoSh := v.getLsbD 31, promoteSh := BitVec.ofNat 8 (bitsOf n 23 16), hystSh := BitVec.ofNat 8 (bitsOf n 15 8)
      rateSh := BitVec.ofNat 8 (max 1 (min 128 (n % 256))) } }
  else if off = 0x2C ∧ v.getLsbD 31 then
    { s with mtc := { m with faultValid := false, faultTenant := 0, faultCode := 0, faultAddr := 0 } }
  else s

/-- WIN (R351). -/
def writeWin (off : Nat) (v : Reg32) (s : State) : State :=
  if off = 0x00 ∧ v.getLsbD 31 then
    { s with win := { s.win with faultValid := false, faultPort := false, faultWindow := 0, faultCode := 0 } }
  else s

/-- The ARY block written by the host (R86): W1C fields. A hold source that is still active sets its SEEN bit again. -/
def writeAry (a off : Nat) (v : Reg32) (s : State) : State :=
  if off = 0x0C then s.modArr a (fun x => { x with holdSeen := w1cBits x.holdSeen v.toNat ||| x.activeSrcs })
  else if off = 0x20 ∧ v.getLsbD 31 then s.modArr a (fun x => { x with faultValid := false, faultCode := 0 })
  else s

/-- ARY_SEG_LIMIT as a written value is taken. -/
def limitTaken (v : Reg32) : BitVec 21 :=
  let n := v.toNat % 2 ^ 21
  BitVec.ofNat 21 (if n = 0 ∨ 1500000 < n then 1500000 else n)

/-- The states in which ARY_SEG_LIMIT is not busy. -/
def Arr.limitFree (x : Arr) : Bool := x.st == .idle || x.st == .bound || x.st == .loaded

/-- The ARY block written by planner firmware (R10, R86): the segment limit and the chains' shadows. -/
def writeAryPlanner (a off : Nat) (v : Reg32) (s : State) : State :=
  let x := s.arr a
  if off = 0x24 then
    if x.limitFree then s.setArr a { x with segLimit := limitTaken v }
    else if limitTaken v = x.segLimit then s
    else record Code.cfgWrBusy none (unitArray a) 9 0 s
  else if 0x100 ≤ off ∧ off < 0x180 then
    let k := (off - 0x100) / 4
    s.setArr a { x with chainShadow := sset (chainWordInit (k % 4)) x.chainShadow k v }
  else s

/-- ATP (R192) and KEY (R326): their fault registers. -/
def writeAtp (p off : Nat) (v : Reg32) (s : State) : State :=
  if off = 0x20 ∧ v.getLsbD 31 then s.modPipe p (fun x => { x with faultValid := false, faultTenant := 0, faultCode := 0 }) else s

def writeKey (off : Nat) (v : Reg32) (s : State) : State :=
  if off = 0x200 ∧ v.getLsbD 31 then
    { s with sec := { s.sec with faultValid := false, faultTenant := 0, faultCode := 0 } }
  else s

/-! ## The window -/

/-- While a host is lost only GLB_DRVVER and GLB_HEARTBEAT are written (R308); DBL, TCX, FRC, WSC, MTC and WIN are written only while
one is attached (R306, R378). -/
def State.hostMayWrite (s : State) (off : Nat) : Bool :=
  let b := off / 2 ^ 20
  s.hostReaches &&
    (if s.glb.lost then off == 0x14 || off == 0x18
     else s.glb.attached || !(decide (1 ≤ b) && decide (b ≤ 6)))

/-- A 32-bit write of the host to a register. -/
def hostWrite32 (off : Nat) (v : Reg32) (s : State) : State :=
  let b := off / 2 ^ 20
  let o := off % 2 ^ 20
  if !s.hostMayWrite off then s
  else if b = 0 then writeGlb o v s
  else if b = 1 then writeDbl (Fin.ofNat 32 (o / 2 ^ 15)) (Fin.ofNat 8 (o / 2 ^ 12)) (o % 2 ^ 12) v s
  else if b = 2 then writeTcx (Fin.ofNat 32 (o / 2 ^ 15)) (o % 2 ^ 15) v s
  else if b = 3 then writeFrc o v s
  else if b = 4 then writeWsc .host o v s
  else if b = 5 then writeMtc o v s
  else if b = 6 then writeWin o v s
  else if 8 ≤ b ∧ b < 16 then writeAry ((off - 2 ^ 23) / 2 ^ 17) (off % 2 ^ 17) v s
  else if b = 16 then writeAtp (o / 2 ^ 16) (o % 2 ^ 16) v s
  else if b = 17 then writeKey o v s
  else s

/-- A 32-bit write by its sender: planner firmware reaches the ARY block (R86), core 0 the firmware port of the depot (R235). -/
def write32 (who : Agent) (off : Nat) (v : Reg32) (s : State) : State :=
  match who with
  | .host => hostWrite32 off v s
  | .planner =>
    if s.firmwareRuns && decide (2 ^ 23 ≤ off) && decide (off < 2 ^ 24) then
      writeAryPlanner ((off - 2 ^ 23) / 2 ^ 17) (off % 2 ^ 17) v s
    else s
  | .firmware =>
    if s.portOpen .fw && off / 2 ^ 20 == 4 then writeWsc .fw (off % 2 ^ 20) v s else s

/-- A write of 4 or 8 bytes: two 32-bit writes in ascending order for 8; any other width, and an unaligned one, is ignored (R8, R329). -/
def writeBytes (who : Agent) (off size : Nat) (val : BitVec 64) (s : State) : State :=
  if off % 4 ≠ 0 then s
  else if size = 4 then write32 who off (val.setWidth 32) s
  else if size = 8 then write32 who (off + 4) ((val >>> 32).setWidth 32) (write32 who off (val.setWidth 32) s)
  else s

/-- An access whose bytes reach outside BAR0: no such address exists (R328, R332). -/
def beyondBar (off size : Nat) : Bool := decide (barSize < off + size)

/-! ## The rows -/

/-- LOW_HALF_READ_LATCH (R6, R8, R329): a read of the control window. -/
def execLowHalfReadLatch (off size : Nat) (s : State) : Host.Outcome State Fault Refusal :=
  if beyondBar off size then .fault .outsideBar0 else .next (barRead off size s)

/-- REGISTER_WRITE (R9 to R13). -/
def execRegisterWrite (who : Agent) (off : Nat) (val : BitVec 64) (size : Nat) (s : State) : Host.Outcome State Fault Refusal :=
  if beyondBar off size then .fault .outsideBar0 else .next (writeBytes who off size val s)

/-- UNALIGNED_ACCESS (R8): an unaligned write is ignored, an unaligned read returns zeros; an aligned access is another row's. -/
def execUnalignedAccess (write : Bool) (off size : Nat) (s : State) : Host.Outcome State Fault Refusal :=
  if beyondBar off size then .fault .outsideBar0
  else if write || accessAligned off size then .next s
  else .next (barRead off size s)

/-- BAR0_OVERSIZE_READ (R329). -/
def execBar0OversizeRead (off size : Nat) (s : State) : Host.Outcome State Fault Refusal :=
  if beyondBar off size then .fault .outsideBar0
  else if size ≤ 8 then .next s
  else .next (barRead off size s)

/-! ## SMBus (R348) -/

/-- The port logic of SMBus and of the test port is out of reset (R360). -/
def State.sidePorts (s : State) : Bool :=
  match s.glb.st with
  | .off => false
  | .reset => false
  | _ => true

/-- The target's address: 0x58 + SMB_ADDR. -/
def State.smbTarget (s : State) : BitVec 7 := 0x58 + s.glb.smbAddr.setWidth 7

/-- A transaction with the target's address: answered where its PEC is right, else not acknowledged; another target's is let pass. -/
def smbAnswer (addr : BitVec 7) (pecOk : Bool) (data : Bytes) (s : State) : State :=
  if addr ≠ s.smbTarget then s
  else if pecOk && s.sidePorts then emit (.smb data) s else emit .smbNack s

/-- STATE: read byte. -/
def execSmbState (addr : BitVec 7) (pecOk : Bool) (s : State) : Host.Outcome State Fault Refusal :=
  .next (smbAnswer addr pecOk [BitVec.ofNat 8 (devCode s.glb.st)] s)

/-- IDENT: block read of 4 bytes. -/
def execSmbIdent (addr : BitVec 7) (pecOk : Bool) (s : State) : Host.Outcome State Fault Refusal :=
  .next (smbAnswer addr pecOk (leBytes 4 s.ident.toNat) s)

/-- TEMP: read word. -/
def execSmbTemp (addr : BitVec 7) (pecOk : Bool) (s : State) : Host.Outcome State Fault Refusal :=
  .next (smbAnswer addr pecOk (leBytes 2 s.glb.temp.toNat) s)

/-- POWER: block read of 4 bytes; the package power is a measurement of no rule, a free value. -/
def execSmbPower (addr : BitVec 7) (pecOk : Bool) (s : State) : Host.Outcome State Fault Refusal :=
  .next (drawn (smbAnswer addr pecOk (leBytes 4 s.powerNow.toNat) s))

/-- XPR: block read of 4 bytes. -/
def execSmbXpr (addr : BitVec 7) (pecOk : Bool) (s : State) : Host.Outcome State Fault Refusal :=
  .next (smbAnswer addr pecOk (leBytes 4 s.xprStatus) s)

/-- CLEAR_ALERT: send byte; SMB_ALERT_N is released. -/
def execClearAlert (addr : BitVec 7) (pecOk : Bool) (s : State) : Host.Outcome State Fault Refusal :=
  if addr ≠ s.smbTarget then .next s
  else if pecOk && s.sidePorts then .next { s with glb := { s.glb with smbAlertN := true } }
  else .next (emit .smbNack s)

/-! ## Test port (R350) -/

/-- The instruction register takes an instruction; locked, every one but BYPASS and IDCODE selects BYPASS. -/
def selectTap (i : Fin 6) (s : State) : State :=
  if !s.sidePorts then s
  else { s with glb := { s.glb with tapInstr := if i.val ≤ 1 ∨ s.glb.scanUnlocked then i else 0 } }

/-- The IDCODE word. -/
def State.jtagId (s : State) : Reg32 :=
  BitVec.ofNat 32 (s.fuse.stepMajor.toNat * 2 ^ 28 + 0x0A96 * 2 ^ 12 + 0x4B3 * 2 + 1)

/-- What the balls of the boundary register carry, in its order: POR_N, PERST_N, PEER_PRSNT_N, MGT_MODE, SMB_ADDR[0], SMB_ADDR[1],
THERM_N, SMB_ALERT_N, SAFE_HOLD_N (notes/assumptions/64.md). -/
def State.cells (s : State) : List Bool :=
  let g := s.glb
  [g.porN, g.perstN, g.peerPrsntN, g.mgtMode, g.smbAddr.getLsbD 0, g.smbAddr.getLsbD 1, g.thermN, g.smbAlertN, g.safeHoldN]

/-- An output ball: EXTEST and CLAMP drive it from its cell, HIGHZ releases it. -/
def State.ball (s : State) (k : Nat) (own : Bool) : Option Bool :=
  if s.glb.tapInstr = 5 then none
  else if s.glb.tapInstr = 3 ∨ s.glb.tapInstr = 4 then some (s.glb.scanCells.getD k false)
  else some own

/-- The output balls: THERM_N, SMB_ALERT_N, and SAFE_HOLD_N, whose cell observes only. -/
def State.balls (s : State) : List (Option Bool) :=
  [s.ball 6 s.glb.thermN, s.ball 7 s.glb.smbAlertN, some s.glb.safeHoldN]

/-- Bits shifted through a register, the first to go in first: what comes out, and what the register then holds. -/
def shiftBits (r tdi : List Bool) : List Bool × List Bool := ((r ++ tdi).take tdi.length, (r ++ tdi).drop tdi.length)

/-- Bits shifted through the register that the instruction selects: the boundary register, which captures the balls, or the bypass
bit, which captures 0. -/
def scanDr (tdi : List Bool) (s : State) : State :=
  if s.glb.tapInstr = 2 ∨ s.glb.tapInstr = 3 then
    let r := shiftBits s.cells tdi
    emit (.jtagBits r.1) { s with glb := { s.glb with scanCells := r.2 } }
  else
    let r := shiftBits [false] tdi
    emit (.jtagBits r.1) { s with glb := { s.glb with bypassBit := r.2.getD 0 false } }

/-- An instruction taken, bits shifted under it, and what the output balls then carry. -/
def tapScan (i : Fin 6) (tdi : List Bool) (s : State) : State :=
  if !s.sidePorts then s
  else
    let s1 := scanDr tdi (selectTap i s)
    emit (.balls s1.balls) s1

/-- BYPASS. -/
def execBypass (tdi : List Bool) (s : State) : Host.Outcome State Fault Refusal := .next (tapScan 0 tdi s)

/-- IDCODE: the word is shifted out. -/
def execIdcode (s : State) : Host.Outcome State Fault Refusal :=
  .next (if s.sidePorts then emit (.jtag s.jtagId) (selectTap 1 s) else s)

/-- SAMPLE/PRELOAD: the balls are sampled, and the boundary register is preloaded. -/
def execSamplePreload (tdi : List Bool) (s : State) : Host.Outcome State Fault Refusal := .next (tapScan 2 tdi s)

/-- EXTEST: the cell of SAFE_HOLD_N observes only, so that pin stays as it is. -/
def execExtest (tdi : List Bool) (s : State) : Host.Outcome State Fault Refusal := .next (tapScan 3 tdi s)

/-- CLAMP. -/
def execClamp (tdi : List Bool) (s : State) : Host.Outcome State Fault Refusal := .next (tapScan 4 tdi s)

/-- HIGHZ. -/
def execHighz (tdi : List Bool) (s : State) : Host.Outcome State Fault Refusal := .next (tapScan 5 tdi s)

/-! ## TELEMETRY (R324, R380) -/

/-- TELEMETRY. -/
def execTelemetry (s : State) : Host.Outcome State Fault Refusal :=
  .next (if s.mgtRuns 3 then drawn (mgtEnd 0 s.telemetry s) else s)

end Sys2Proof.Machine
end

