-- ==== Sys2Proof/Machine/Dispatch.lean ====
section
/-! DEFINITION. One arm for each command. -/

namespace Sys2Proof.Machine

def exec (i : Instr) (s : State) : Host.Outcome State Fault Refusal :=
  match i with
  | .lowHalfReadLatch off size => Sys2Proof.Machine.execLowHalfReadLatch off size s
  | .registerWrite who off val size => Sys2Proof.Machine.execRegisterWrite who off val size s
  | .unalignedAccess write off size => Sys2Proof.Machine.execUnalignedAccess write off size s
  | .bundleIssue a ue => Sys2Proof.Machine.execBundleIssue a ue s
  | .lnop a => Sys2Proof.Machine.execLnop a s
  | .ldp a ce ue => Sys2Proof.Machine.execLdp a ce ue s
  | .ldc a ce ue => Sys2Proof.Machine.execLdc a ce ue s
  | .stc a ce ue => Sys2Proof.Machine.execStc a ce ue s
  | .ldv a ce ue => Sys2Proof.Machine.execLdv a ce ue s
  | .stv a => Sys2Proof.Machine.execStv a s
  | .loadMoveDue a mv ce => Sys2Proof.Machine.execLoadMoveDue a mv ce s
  | .moveComplete a mv held split flits => Sys2Proof.Machine.execMoveComplete a mv held split flits s
  | .arrayHoldRelease a src held => Sys2Proof.Machine.execArrayHoldRelease a src held s
  | .mnop a => Sys2Proof.Machine.execMnop a s
  | .mma a ce ue par => Sys2Proof.Machine.execMma a ce ue par s
  | .mmaz a ce ue par => Sys2Proof.Machine.execMmaz a ce ue par s
  | .vnop a => Sys2Proof.Machine.execVnop a s
  | .vadd a => Sys2Proof.Machine.execVadd a s
  | .vsub a => Sys2Proof.Machine.execVsub a s
  | .vmul a => Sys2Proof.Machine.execVmul a s
  | .vfma a => Sys2Proof.Machine.execVfma a s
  | .vmax a => Sys2Proof.Machine.execVmax a s
  | .vmin a => Sys2Proof.Machine.execVmin a s
  | .vmov a => Sys2Proof.Machine.execVmov a s
  | .vbcast a => Sys2Proof.Machine.execVbcast a s
  | .vsplat a => Sys2Proof.Machine.execVsplat a s
  | .vrcp a => Sys2Proof.Machine.execVrcp a s
  | .vrsqrt a => Sys2Proof.Machine.execVrsqrt a s
  | .vexp2 a => Sys2Proof.Machine.execVexp2 a s
  | .vrsum a => Sys2Proof.Machine.execVrsum a s
  | .vrmax a => Sys2Proof.Machine.execVrmax a s
  | .iset a => Sys2Proof.Machine.execIset a s
  | .iseth a => Sys2Proof.Machine.execIseth a s
  | .iadd a => Sys2Proof.Machine.execIadd a s
  | .isub a => Sys2Proof.Machine.execIsub a s
  | .imin a => Sys2Proof.Machine.execImin a s
  | .icmplt a => Sys2Proof.Machine.execIcmplt a s
  | .icmpeq a => Sys2Proof.Machine.execIcmpeq a s
  | .dnop a => Sys2Proof.Machine.execDnop a s
  | .drain a ce ue bp sue => Sys2Proof.Machine.execDrain a ce ue bp sue s
  | .cnop a => Sys2Proof.Machine.execCnop a s
  | .loop a => Sys2Proof.Machine.execLoop a s
  | .br a => Sys2Proof.Machine.execBr a s
  | .waitq a => Sys2Proof.Machine.execWaitq a s
  | .waitqRelease a waited => Sys2Proof.Machine.execWaitqRelease a waited s
  | .sync a split => Sys2Proof.Machine.execSync a split s
  | .syncRelease t bar waited => Sys2Proof.Machine.execSyncRelease t bar waited s
  | .halt a => Sys2Proof.Machine.execHalt a s
  | .imageComplete a => Sys2Proof.Machine.execImageComplete a s
  | .segOverrun a cycles => Sys2Proof.Machine.execSegOverrun a cycles s
  | .arrayPause a => Sys2Proof.Machine.execArrayPause a s
  | .arrayResume a => Sys2Proof.Machine.execArrayResume a s
  | .timetableImageSubmit a slot img disp => Sys2Proof.Machine.execTimetableImageSubmit a slot img disp s
  | .imageCheckDone a slot => Sys2Proof.Machine.execImageCheckDone a slot s
  | .imageStart a => Sys2Proof.Machine.execImageStart a s
  | .avsStretch a amount => Sys2Proof.Machine.execAvsStretch a amount s
  | .avsStretchEnd a => Sys2Proof.Machine.execAvsStretchEnd a s
  | .transferDescriptorComplete d e => Sys2Proof.Machine.execTransferDescriptorComplete d e s
  | .reservedPlanOpcode t q w0 w1 => Sys2Proof.Machine.execReservedPlanOpcode t q w0 w1 s
  | .nop t q w0 w1 => Sys2Proof.Machine.execNop t q w0 w1 s
  | .dispatch t q w0 w1 e => Sys2Proof.Machine.execDispatch t q w0 w1 e s
  | .dispatchComplete d => Sys2Proof.Machine.execDispatchComplete d s
  | .batch t q w0 w1 => Sys2Proof.Machine.execBatch t q w0 w1 s
  | .waitev t q w0 w1 => Sys2Proof.Machine.execWaitev t q w0 w1 s
  | .signalev t q w0 w1 => Sys2Proof.Machine.execSignalev t q w0 w1 s
  | .fence t q w0 w1 => Sys2Proof.Machine.execFence t q w0 w1 s
  | .tstamp t q w0 w1 => Sys2Proof.Machine.execTstamp t q w0 w1 s
  | .planHalt t q w0 w1 => Sys2Proof.Machine.execPlanHalt t q w0 w1 s
  | .completionRecordWrite t q => Sys2Proof.Machine.execCompletionRecordWrite t q s
  | .dblTailWrite t q v => Sys2Proof.Machine.execDblTailWrite t q v s
  | .dblCplHeadWrite t q v => Sys2Proof.Machine.execDblCplHeadWrite t q v s
  | .skip t q => Sys2Proof.Machine.execSkip t q s
  | .retry t q => Sys2Proof.Machine.execRetry t q s
  | .flush t q => Sys2Proof.Machine.execFlush t q s
  | .queueEnable t q v => Sys2Proof.Machine.execQueueEnable t q v s
  | .queueDisable t q v => Sys2Proof.Machine.execQueueDisable t q v s
  | .start t => Sys2Proof.Machine.execStart t s
  | .stop t => Sys2Proof.Machine.execStop t s
  | .reset t => Sys2Proof.Machine.execReset t s
  | .tenantResetDone t => Sys2Proof.Machine.execTenantResetDone t s
  | .resume t => Sys2Proof.Machine.execResume t s
  | .bindingWrite t off v => Sys2Proof.Machine.execBindingWrite t off v s
  | .setcfg t q w0 w1 => Sys2Proof.Machine.execSetcfg t q w0 w1 s
  | .getcfg t q w0 w1 => Sys2Proof.Machine.execGetcfg t q w0 w1 s
  | .rebind t q w0 w1 => Sys2Proof.Machine.execRebind t q w0 w1 s
  | .rebindAccept t q => Sys2Proof.Machine.execRebindAccept t q s
  | .legQuiesceTimeout p => Sys2Proof.Machine.execLegQuiesceTimeout p s
  | .scrub t q w0 w1 => Sys2Proof.Machine.execScrub t q w0 w1 s
  | .scrubDone t q => Sys2Proof.Machine.execScrubDone t q s
  | .plannerBalance shares t => Sys2Proof.Machine.execPlannerBalance shares t s
  | .kvopen t q w0 w1 => Sys2Proof.Machine.execKvopen t q w0 w1 s
  | .kvappend t q w0 w1 => Sys2Proof.Machine.execKvappend t q w0 w1 s
  | .kveditTrunc t q w0 w1 => Sys2Proof.Machine.execKveditTrunc t q w0 w1 s
  | .kveditRemap t q w0 w1 => Sys2Proof.Machine.execKveditRemap t q w0 w1 s
  | .kveditDrop t q w0 w1 => Sys2Proof.Machine.execKveditDrop t q w0 w1 s
  | .kveditPos0 t q w0 w1 => Sys2Proof.Machine.execKveditPos0 t q w0 w1 s
  | .kveditUnspill t q w0 w1 => Sys2Proof.Machine.execKveditUnspill t q w0 w1 s
  | .kveditSeal t q w0 w1 => Sys2Proof.Machine.execKveditSeal t q w0 w1 s
  | .kvclose t q w0 w1 => Sys2Proof.Machine.execKvclose t q w0 w1 s
  | .pageSealFp8 p t h page => Sys2Proof.Machine.execPageSealFp8 p t h page s
  | .pageSealK3 p t h page => Sys2Proof.Machine.execPageSealK3 p t h page s
  | .walkEnd t h walk => Sys2Proof.Machine.execWalkEnd t h walk s
  | .spillhint t q w0 w1 => Sys2Proof.Machine.execSpillhint t q w0 w1 s
  | .pageSpill t h => Sys2Proof.Machine.execPageSpill t h s
  | .attentionLegStart p ce ue => Sys2Proof.Machine.execAttentionLegStart p ce ue s
  | .kvBlockArrival p stalled ce ue => Sys2Proof.Machine.execKvBlockArrival p stalled ce ue s
  | .attentionLegEnd p => Sys2Proof.Machine.execAttentionLegEnd p s
  | .migrate t q w0 w1 => Sys2Proof.Machine.execMigrate t q w0 w1 s
  | .prefetch t q w0 w1 => Sys2Proof.Machine.execPrefetch t q w0 w1 s
  | .gather d t list count rowBytes model src stride limit dst e => Sys2Proof.Machine.execGather d t list count rowBytes model src stride limit dst e s
  | .yardPageWrite t addr page => Sys2Proof.Machine.execYardPageWrite t addr page s
  | .yardPageRead t addr firstBad secondBad recordUe => Sys2Proof.Machine.execYardPageRead t addr firstBad secondBad recordUe s
  | .stackedMemoryRead t addr crcFails ue ce => Sys2Proof.Machine.execStackedMemoryRead t addr crcFails ue ce s
  | .patrolScrub unit row ce ue => Sys2Proof.Machine.execPatrolScrub unit row ce ue s
  | .stackedPhaseCal ns => Sys2Proof.Machine.execStackedPhaseCal ns s
  | .yardDriftCheck exceeds ns => Sys2Proof.Machine.execYardDriftCheck exceeds ns s
  | .calWindowAbandon yard => Sys2Proof.Machine.execCalWindowAbandon yard s
  | .wscKeyWrite p v => Sys2Proof.Machine.execWscKeyWrite p v s
  | .wscSequenceWrite p r v => Sys2Proof.Machine.execWscSequenceWrite p r v s
  | .programSmall p v => Sys2Proof.Machine.execProgramSmall p v s
  | .programBulk p v => Sys2Proof.Machine.execProgramBulk p v s
  | .erase p v => Sys2Proof.Machine.execErase p v s
  | .wpset p v => Sys2Proof.Machine.execWpset p v s
  | .suspend p => Sys2Proof.Machine.execSuspend p s
  | .depotResume p => Sys2Proof.Machine.execDepotResume p s
  | .status p => Sys2Proof.Machine.execStatus p s
  | .readid p => Sys2Proof.Machine.execReadid p s
  | .readArrayLoad p v => Sys2Proof.Machine.execReadArrayLoad p v s
  | .readUnitLoaded p retries tagOk => Sys2Proof.Machine.execReadUnitLoaded p retries tagOk s
  | .wscRdataRead p => Sys2Proof.Machine.execWscRdataRead p s
  | .bulkRead p v => Sys2Proof.Machine.execBulkRead p v s
  | .dieProgramUnitDone die fail => Sys2Proof.Machine.execDieProgramUnitDone die fail s
  | .dieEraseDone die fail => Sys2Proof.Machine.execDieEraseDone die fail s
  | .dieReadDone die media => Sys2Proof.Machine.execDieReadDone die media s
  | .depotReadRequest die cls => Sys2Proof.Machine.execDepotReadRequest die cls s
  | .dieSuspended die => Sys2Proof.Machine.execDieSuspended die s
  | .dieResumeDone die => Sys2Proof.Machine.execDieResumeDone die s
  | .depotUnitRead sector unit retries tagOk => Sys2Proof.Machine.execDepotUnitRead sector unit retries tagOk s
  | .instructionFetchMiss core c addr => Sys2Proof.Machine.execInstructionFetchMiss core c addr s
  | .loadw t q w0 w1 => Sys2Proof.Machine.execLoadw t q w0 w1 s
  | .shardDigestCheck t copy shard media => Sys2Proof.Machine.execShardDigestCheck t copy shard media s
  | .digestw t q w0 w1 => Sys2Proof.Machine.execDigestw t q w0 w1 s
  | .armw t q w0 w1 kernels initExps => Sys2Proof.Machine.execArmw t q w0 w1 kernels initExps s
  | .points t q w0 w1 => Sys2Proof.Machine.execPoints t q w0 w1 s
  | .releasew t q w0 w1 => Sys2Proof.Machine.execReleasew t q w0 w1 s
  | .shardReloadDone t copy shard media => Sys2Proof.Machine.execShardReloadDone t copy shard media s
  | .xprarm t q w0 w1 => Sys2Proof.Machine.execXprarm t q w0 w1 s
  | .xprdisarm t q w0 w1 => Sys2Proof.Machine.execXprdisarm t q w0 w1 s
  | .req lane slot => Sys2Proof.Machine.execReq lane slot s
  | .keep lane slot => Sys2Proof.Machine.execKeep lane slot s
  | .receivedFrameDiscard lane slot => Sys2Proof.Machine.execReceivedFrameDiscard lane slot s
  | .laneCopyTimeout x ce ue => Sys2Proof.Machine.execLaneCopyTimeout x ce ue s
  | .expressRestart x => Sys2Proof.Machine.execExpressRestart x s
  | .barrierTimeout x role spare => Sys2Proof.Machine.execBarrierTimeout x role spare s
  | .spareBarrier x split ce ue => Sys2Proof.Machine.execSpareBarrier x split ce ue s
  | .xprDeadline x => Sys2Proof.Machine.execXprDeadline x s
  | .clockCompare diverges => Sys2Proof.Machine.execClockCompare diverges s
  | .spareProof x role ce ue => Sys2Proof.Machine.execSpareProof x role ce ue s
  | .sboxSelfCheck reportsA reportsB => Sys2Proof.Machine.execSboxSelfCheck reportsA reportsB s
  | .alive lane => Sys2Proof.Machine.execAlive lane s
  | .laneWatchdog lane => Sys2Proof.Machine.execLaneWatchdog lane s
  | .laneRecovery lane => Sys2Proof.Machine.execLaneRecovery lane s
  | .coreWatchdog core late => Sys2Proof.Machine.execCoreWatchdog core late s
  | .componentAccessFault c cause => Sys2Proof.Machine.execComponentAccessFault c cause s
  | .glbDrvverWrite v => Sys2Proof.Machine.execGlbDrvverWrite v s
  | .glbHeartbeatWrite v => Sys2Proof.Machine.execGlbHeartbeatWrite v s
  | .getCapabilities ver => Sys2Proof.Machine.execGetCapabilities ver s
  | .negotiateAlgorithms supported => Sys2Proof.Machine.execNegotiateAlgorithms supported s
  | .getCertificate slot offset length => Sys2Proof.Machine.execGetCertificate slot offset length s
  | .challenge slot nonce => Sys2Proof.Machine.execChallenge slot nonce s
  | .getMeasurements index nonce => Sys2Proof.Machine.execGetMeasurements index nonce s
  | .keyExchange reqId random exchange => Sys2Proof.Machine.execKeyExchange reqId random exchange s
  | .finish sid macOk => Sys2Proof.Machine.execFinish sid macOk s
  | .heartbeat sid => Sys2Proof.Machine.execHeartbeat sid s
  | .keyUpdate sid => Sys2Proof.Machine.execKeyUpdate sid s
  | .endSession sid => Sys2Proof.Machine.execEndSession sid s
  | .getEncapsulatedRequest sid => Sys2Proof.Machine.execGetEncapsulatedRequest sid s
  | .deliverEncapsulatedResponse sid chain => Sys2Proof.Machine.execDeliverEncapsulatedResponse sid chain s
  | .unsupportedSpdmRequest code => Sys2Proof.Machine.execUnsupportedSpdmRequest code s
  | .keyDeliver sid slot tenant flags secret signer nonce => Sys2Proof.Machine.execKeyDeliver sid slot tenant flags secret signer nonce s
  | .keyUnwrap sid slot tenant flags blob => Sys2Proof.Machine.execKeyUnwrap sid slot tenant flags blob s
  | .keyErase sid slot tenant => Sys2Proof.Machine.execKeyErase sid slot tenant s
  | .keyQuery sid => Sys2Proof.Machine.execKeyQuery sid s
  | .mgtTlsHandshake chain profileOk net => Sys2Proof.Machine.execMgtTlsHandshake chain profileOk net s
  | .mgtRecord accesses => Sys2Proof.Machine.execMgtRecord accesses s
  | .mgtMboxDataWrite v => Sys2Proof.Machine.execMgtMboxDataWrite v s
  | .fwStage img => Sys2Proof.Machine.execFwStage img s
  | .hostWindowWrite w off data => Sys2Proof.Machine.execHostWindowWrite w off data s
  | .hostWindowRead w off len => Sys2Proof.Machine.execHostWindowRead w off len s
  | .winopen t q w0 w1 => Sys2Proof.Machine.execWinopen t q w0 w1 s
  | .winclose t q w0 w1 => Sys2Proof.Machine.execWinclose t q w0 w1 s
  | .windowRetire peer w => Sys2Proof.Machine.execWindowRetire peer w s
  | .peerLinkTrain present version lanes => Sys2Proof.Machine.execPeerLinkTrain present version lanes s
  | .wr h payload => Sys2Proof.Machine.execWr h payload s
  | .rdreq h => Sys2Proof.Machine.execRdreq h s
  | .rdcpl h payload => Sys2Proof.Machine.execRdcpl h payload s
  | .signal h payload => Sys2Proof.Machine.execSignal h payload s
  | .grad h payload => Sys2Proof.Machine.execGrad h payload s
  | .nak h payload => Sys2Proof.Machine.execNak h payload s
  | .credit h payload => Sys2Proof.Machine.execCredit h payload s
  | .replay h => Sys2Proof.Machine.execReplay h s
  | .idle h => Sys2Proof.Machine.execIdle h s
  | .badFlit flit => Sys2Proof.Machine.execBadFlit flit s
  | .smbState addr pecOk => Sys2Proof.Machine.execSmbState addr pecOk s
  | .smbIdent addr pecOk => Sys2Proof.Machine.execSmbIdent addr pecOk s
  | .smbTemp addr pecOk => Sys2Proof.Machine.execSmbTemp addr pecOk s
  | .smbPower addr pecOk => Sys2Proof.Machine.execSmbPower addr pecOk s
  | .smbXpr addr pecOk => Sys2Proof.Machine.execSmbXpr addr pecOk s
  | .clearAlert addr pecOk => Sys2Proof.Machine.execClearAlert addr pecOk s
  | .glbResetWrite v => Sys2Proof.Machine.execGlbResetWrite v s
  | .bootDone bnonce => Sys2Proof.Machine.execBootDone bnonce s
  | .verifyDone ok => Sys2Proof.Machine.execVerifyDone ok s
  | .trainDone ok channels peerVersion peerLanes => Sys2Proof.Machine.execTrainDone ok channels peerVersion peerLanes s
  | .selftestDone ok sboxOk => Sys2Proof.Machine.execSelftestDone ok sboxOk s
  | .railFault r => Sys2Proof.Machine.execRailFault r s
  | .thermAlert temp => Sys2Proof.Machine.execThermAlert temp s
  | .thermThrottle temp => Sys2Proof.Machine.execThermThrottle temp s
  | .thermTrip temp => Sys2Proof.Machine.execThermTrip temp s
  | .bar0OversizeRead off size => Sys2Proof.Machine.execBar0OversizeRead off size s
  | .safetyLinkAlign lane => Sys2Proof.Machine.execSafetyLinkAlign lane s
  | .laneSlot lane ce ue => Sys2Proof.Machine.execLaneSlot lane ce ue s
  | .thermTripRelease temp => Sys2Proof.Machine.execThermTripRelease temp s
  | .throttleRelease temp => Sys2Proof.Machine.execThrottleRelease temp s
  | .xprarmComplete x ce ue => Sys2Proof.Machine.execXprarmComplete x ce ue s
  | .zeroFillGranuleCleared t g => Sys2Proof.Machine.execZeroFillGranuleCleared t g s
  | .heatDecay => Sys2Proof.Machine.execHeatDecay s
  | .migrationPolicyEval => Sys2Proof.Machine.execMigrationPolicyEval s
  | .granuleMove => Sys2Proof.Machine.execGranuleMove s
  | .granuleSwitch => Sys2Proof.Machine.execGranuleSwitch s
  | .backgroundDigestPass => Sys2Proof.Machine.execBackgroundDigestPass s
  | .spareProofDone split => Sys2Proof.Machine.execSpareProofDone split s
  | .lockstep => Sys2Proof.Machine.execLockstep s
  | .hold => Sys2Proof.Machine.execHold s
  | .heartbeatTimeout => Sys2Proof.Machine.execHeartbeatTimeout s
  | .getVersion => Sys2Proof.Machine.execGetVersion s
  | .getDigests => Sys2Proof.Machine.execGetDigests s
  | .mgtMboxDataRead => Sys2Proof.Machine.execMgtMboxDataRead s
  | .logRead => Sys2Proof.Machine.execLogRead s
  | .telemetry => Sys2Proof.Machine.execTelemetry s
  | .setHostRoot => Sys2Proof.Machine.execSetHostRoot s
  | .setMgtRoot => Sys2Proof.Machine.execSetMgtRoot s
  | .scanUnlock => Sys2Proof.Machine.execScanUnlock s
  | .scanLock => Sys2Proof.Machine.execScanLock s
  | .netcfg => Sys2Proof.Machine.execNetcfg s
  | .pcieEcrc => Sys2Proof.Machine.execPcieEcrc s
  | .d3hotEntry => Sys2Proof.Machine.execD3hotEntry s
  | .bypass tdi => Sys2Proof.Machine.execBypass tdi s
  | .idcode => Sys2Proof.Machine.execIdcode s
  | .samplePreload tdi => Sys2Proof.Machine.execSamplePreload tdi s
  | .extest tdi => Sys2Proof.Machine.execExtest tdi s
  | .clamp tdi => Sys2Proof.Machine.execClamp tdi s
  | .highz tdi => Sys2Proof.Machine.execHighz tdi s
  | .porNAssert => Sys2Proof.Machine.execPorNAssert s
  | .porNRelease => Sys2Proof.Machine.execPorNRelease s
  | .pllLock cfg => Sys2Proof.Machine.execPllLock cfg s
  | .perstNAssert => Sys2Proof.Machine.execPerstNAssert s
  | .glbResetSequenceTimeout => Sys2Proof.Machine.execGlbResetSequenceTimeout s
  | .pllUnlock => Sys2Proof.Machine.execPllUnlock s
  | .railRecovery => Sys2Proof.Machine.execRailRecovery s
  | .vddAuxLoss => Sys2Proof.Machine.execVddAuxLoss s
  | .perstNRelease cfg => Sys2Proof.Machine.execPerstNRelease cfg s
  | .d3hotExit cfg => Sys2Proof.Machine.execD3hotExit cfg s
  | .peerAcknowledge => Sys2Proof.Machine.execPeerAcknowledge s

end Sys2Proof.Machine
end

