-- ==== Sys2Proof/Safety.lean ====
section
/-! DEFINITION. What counts as a safe run, and the canonical form of the memories, in the terms the statements use. -/

namespace Sys2Proof.Machine

/-- A step that completes: neither a fault nor a refusal. -/
def Completes (r : Host.Outcome State Fault Refusal) : Prop := ∃ t, r = .next t

/-- States a number of steps apart. -/
def runsTo : Nat → State → State → Prop
  | 0, s, t => s = t
  | n + 1, s, t => ∃ u, step s = .next u ∧ runsTo n u t

/-- A safe run: every step of it completes. -/
def SafeFor (n : Nat) (s : State) : Prop := ∃ t, runsTo n s t

/-- A byte memory in its one canonical form: addresses strictly rising, no cell equal to the 0x00 that an unlisted address reads as
(notes/assumptions/11.md). -/
def Memory.wf (m : List Host.Cell) : Bool := swf 0 m

/-- Poison marks in canonical form. -/
def Memory.marksWf (p : Store Bool) : Bool := swf false p

/-- The concourse, stacked memory with their marks, and the yard's frames are each in canonical form. -/
def Mtc.wf (m : Mtc) : Bool :=
  Memory.wf m.con && Memory.marksWf m.conPoison && Memory.wf m.stk && Memory.marksWf m.stkPoison && swf YPage.init m.yard

end Sys2Proof.Machine
end

