-- ==== Sys2Proof/Certificates/Slice0/Obligations.lean ====
section
/-! DEFINITION. The statements for the provers, and the few notions that they use beside the model's own. -/

namespace Sys2Proof.Machine

/-! ## Notions that several statements use -/

/-- The slot of the bundle issued last that `flag` picks carries operation `code` and is still to be carried out. -/
def SlotWaits (x : Arr) (c : Cur) (flag : Cur → Bool) (op : Nat → Nat) (code : Nat) : Prop :=
  x.cur = some c ∧ flag c = true ∧ op c.bundle.toNat = code

/-- Lane `i` of vector register `r` (R96). -/
def laneOf (x : Arr) (r i : Nat) : Cell32 := sget Cell32.init x.vreg (64 * r + i)

/-- A lane of an operation on two registers: value and poison (R83, R107). -/
def lane2 (f : Reg32 → Reg32 → Reg32) (x : Arr) (b i : Nat) : Cell32 :=
  ⟨f (laneOf x (vA b) i).bits (laneOf x (vB b) i).bits, (laneOf x (vA b) i).poison || (laneOf x (vB b) i).poison⟩

/-- A lane of an operation on one register. -/
def lane1 (f : Reg32 → Reg32) (x : Arr) (b i : Nat) : Cell32 := ⟨f (laneOf x (vA b) i).bits, (laneOf x (vA b) i).poison⟩

/-- Nothing but an array has changed. -/
def OnlyArray (a : Ary) (s t : State) : Prop := t = { s with ary := t.ary } ∧ ∀ b, b ≠ a.val → t.arr b = s.arr b

/-- The command carries out the vector slot: the result, lane by lane, is on its way to register vD for cycle issue + `lat`; nothing
else of the machine changes. -/
def VectorAnswers (c : Ary → Instr) (op lat : Nat) (f : Arr → Nat → Nat → Cell32) : Prop :=
  ∀ (a : Ary) (s : State) (k : Cur), SlotWaits (s.arr a) k Cur.v vOp op →
    exec (c a) s = .next (s.setArr a { s.arr a with
      cur := some { k with v := false }
      regw := ((s.arr a).later (.vec (s.arr a).cyc ((s.arr a).cyc + lat) (vD k.bundle.toNat)
        ((List.range 64).map (f (s.arr a) k.bundle.toNat)))).regw })

/-- The command carries out the vector slot: the result is on its way to index register vD for the next cycle (R93). -/
def IndexAnswers (c : Ary → Instr) (op : Nat) (f : Arr → Nat → Reg32) : Prop :=
  ∀ (a : Ary) (s : State) (k : Cur), SlotWaits (s.arr a) k Cur.v vOp op →
    exec (c a) s = .next (s.setArr a { s.arr a with
      cur := some { k with v := false }
      regw := ((s.arr a).later (.idx (s.arr a).cyc ((s.arr a).cyc + 1) (vD k.bundle.toNat)
        (f (s.arr a) k.bundle.toNat))).regw })

/-! ## Notions of the plan queues -/

/-- The instruction that words at DBL_HEAD make (R120). -/
def atHead (s : State) (t : Ten) (q : Que) (w0 w1 : BitVec 64) : Presented := ⟨(s.queue t q).head, pSlots w0, w0, w1⟩

/-- A queue presents the words at DBL_HEAD: a host is attached, it runs, it is its turn at the planner (R147), its tail covers them, its
batch is open, no instruction of the tenant waits, and none that has issued has the index of the head. -/
def Presents (s : State) (t : Ten) (q : Que) (w0 : BitVec 64) : Prop :=
  s.glb.attached = true ∧ s.queueRuns t q = true ∧ s.planTurn t q = true ∧ (s.queue t q).retry = none ∧
  pSlots w0 ≤ ((s.queue t q).tail - (s.queue t q).head).toNat ∧
  (s.queue t q).batch.isSome = true ∧ (∀ r : Que, (s.queue t r).waiting = none) ∧
  ∀ e ∈ (s.queue t q).issued, e.idx ≠ (s.queue t q).head

/-- The words pass the checks of R122, and the condition to issue has come (R124). -/
def MayIssue (s : State) (t : Ten) (q : Que) (w0 w1 : BitVec 64) : Prop :=
  Presents s t q w0 ∧ planCheck (s.tenant t) w0 w1 = none ∧ issueReady s t q (atHead s t q w0 w1) = true

/-- The instruction at DBL_HEAD has issued and completed with success: the head has passed its slots, and, where its CPL asks for a
record, that record waits, status 0 and the value given (R126, R135). -/
def DoneAtHead (s u : State) (t : Ten) (q : Que) (w0 : BitVec 64) (value : Nat) : Prop :=
  (u.queue t q).head = (s.queue t q).head + BitVec.ofNat 32 (pSlots w0) ∧
  (pCpl w0 = true → ⟨(s.queue t q).head, BitVec.ofNat 8 (pOp w0), true, pIrq w0, some 0, BitVec.ofNat 64 value, 0⟩ ∈
    (u.queue t q).issued)

/-- It has issued and is incomplete. -/
def OpenAtHead (s u : State) (t : Ten) (q : Que) (w0 : BitVec 64) : Prop :=
  (u.queue t q).head = (s.queue t q).head + BitVec.ofNat 32 (pSlots w0) ∧
  ∃ e ∈ (u.queue t q).issued, e.idx = (s.queue t q).head ∧ e.opcode = BitVec.ofNat 8 (pOp w0) ∧ e.status = none

/-- Nothing but the contexts of tenants and the turns of the planners differs, and of the contexts one only. -/
def OnlyTenant (t : Ten) (s u : State) : Prop :=
  u = { s with ten := u.ten, sec := { s.sec with turns := u.sec.turns } } ∧ ∀ r : Ten, r ≠ t → u.tenant r = s.tenant r

/-- A plan instruction's tenant, queue and words, and whether the words are of its opcode. -/
def planWords : Instr → Option (Ten × Que × BitVec 64 × BitVec 64 × Bool)
  | .reservedPlanOpcode t q w0 w1 => some (t, q, w0, w1, (planForm? (pOp w0)).isNone)
  | .nop t q w0 w1 => some (t, q, w0, w1, pOp w0 == 0x00)
  | .dispatch t q w0 w1 _ => some (t, q, w0, w1, pOp w0 == 0x01)
  | .batch t q w0 w1 => some (t, q, w0, w1, pOp w0 == 0x02)
  | .waitev t q w0 w1 => some (t, q, w0, w1, pOp w0 == 0x03)
  | .signalev t q w0 w1 => some (t, q, w0, w1, pOp w0 == 0x04)
  | .fence t q w0 w1 => some (t, q, w0, w1, pOp w0 == 0x05)
  | .tstamp t q w0 w1 => some (t, q, w0, w1, pOp w0 == 0x06)
  | .planHalt t q w0 w1 => some (t, q, w0, w1, pOp w0 == 0x07)
  | .loadw t q w0 w1 => some (t, q, w0, w1, pOp w0 == 0x10)
  | .digestw t q w0 w1 => some (t, q, w0, w1, pOp w0 == 0x11)
  | .armw t q w0 w1 _ _ => some (t, q, w0, w1, pOp w0 == 0x12)
  | .points t q w0 w1 => some (t, q, w0, w1, pOp w0 == 0x13)
  | .releasew t q w0 w1 => some (t, q, w0, w1, pOp w0 == 0x14)
  | .kvopen t q w0 w1 => some (t, q, w0, w1, pOp w0 == 0x18)
  | .kvappend t q w0 w1 => some (t, q, w0, w1, pOp w0 == 0x19)
  | .kveditTrunc t q w0 w1 => some (t, q, w0, w1, isKvedit w0 1 || (pOp w0 == 0x1A && (pf w0 31 28 == 0 || decide (6 < pf w0 31 28))))
  | .kveditRemap t q w0 w1 => some (t, q, w0, w1, isKvedit w0 2)
  | .kveditDrop t q w0 w1 => some (t, q, w0, w1, isKvedit w0 3)
  | .kveditPos0 t q w0 w1 => some (t, q, w0, w1, isKvedit w0 4)
  | .kveditUnspill t q w0 w1 => some (t, q, w0, w1, isKvedit w0 5)
  | .kveditSeal t q w0 w1 => some (t, q, w0, w1, isKvedit w0 6)
  | .kvclose t q w0 w1 => some (t, q, w0, w1, pOp w0 == 0x1B)
  | .rebind t q w0 w1 => some (t, q, w0, w1, pOp w0 == 0x20)
  | .scrub t q w0 w1 => some (t, q, w0, w1, pOp w0 == 0x21)
  | .migrate t q w0 w1 => some (t, q, w0, w1, pOp w0 == 0x22)
  | .spillhint t q w0 w1 => some (t, q, w0, w1, pOp w0 == 0x23)
  | .prefetch t q w0 w1 => some (t, q, w0, w1, pOp w0 == 0x24)
  | .winopen t q w0 w1 => some (t, q, w0, w1, pOp w0 == 0x28)
  | .winclose t q w0 w1 => some (t, q, w0, w1, pOp w0 == 0x29)
  | .setcfg t q w0 w1 => some (t, q, w0, w1, pOp w0 == 0x30)
  | .getcfg t q w0 w1 => some (t, q, w0, w1, pOp w0 == 0x31)
  | .xprarm t q w0 w1 => some (t, q, w0, w1, pOp w0 == 0x38)
  | .xprdisarm t q w0 w1 => some (t, q, w0, w1, pOp w0 == 0x39)
  | _ => none

/-- The offset and size of an access to BAR0. -/
def barAccess : Instr → Option (Nat × Nat)
  | .lowHalfReadLatch off size => some (off, size)
  | .registerWrite _ off _ size => some (off, size)
  | .unalignedAccess _ off size => some (off, size)
  | .bar0OversizeRead off size => some (off, size)
  | _ => none

/-- The five edits that seal nothing, as KVEDIT's words name them (R186). -/
def editOf (k : Fin 5) (w1 : BitVec 64) : KvOp :=
  match k with
  | 0 => .trunc (pf w1 23 0)
  | 1 => .remap (pf w1 47 32) (pf w1 31 28) (pf w1 26 0)
  | 2 => .drop (pf w1 15 0)
  | 3 => .pos0 (pf w1 23 0)
  | 4 => .unspill (pf w1 47 32) (pf w1 26 0)

/-- Their commands. -/
def editCommand (k : Fin 5) (t : Ten) (q : Que) (w0 w1 : BitVec 64) : Instr :=
  match k with
  | 0 => .kveditTrunc t q w0 w1
  | 1 => .kveditRemap t q w0 w1
  | 2 => .kveditDrop t q w0 w1
  | 3 => .kveditPos0 t q w0 w1
  | 4 => .kveditUnspill t q w0 w1

/-- A tenant's granule as its map entry stands. -/
abbrev State.gran (s : State) (t : Ten) (g : Nat) : Granule := s.mtc.granule t g

/-- The shards that a background pass checks, in its order: of LOADED and ARMED copies, by tenant and copy (R258). -/
def State.checkWork (s : State) : List (Nat × Fin 4 × Nat) :=
  (List.range 32).flatMap (fun t => (List.finRange 4).flatMap (fun c =>
    let v := (s.tenant t).copy c.val
    if v.checkable then (List.range v.shards.length).map (fun i => (t, c, i)) else []))

/-- SAFE_HOLD has been asserted for a code: the pin is low and every tenant that was armed is HELD (R288). -/
def Held (c : BitVec 16) (s u : State) : Prop :=
  u.glb.st = .safeHold ∧ u.glb.safeHoldN = false ∧ u.xpr.holdCode = c ∧ ∀ y : Fin 4, (s.xid y).armed = true → (u.xid y).st = .held

/-- The restarts of a component within the last 60 s (R304). -/
def State.recentRestarts (s : State) (c : Comp) : List Nat :=
  (sget CompSt.init s.sec.comps (compIdx c)).restarts.filter (fun t => decide (s.glb.devTime ≤ t + 6000000000))

/-- The flit is the next in order on a link that carries flits, and nothing waits to be sent (R341, R342). -/
def NextInOrder (s : State) (h : FlitHdr) : Prop :=
  s.win.linked = true ∧ h.fseq = s.win.rxNext ∧ s.win.txWait = [] ∧ s.win.replayBuf.length < 1024

/-- A window of the peer port takes an access of some bytes at an offset. -/
def PeerTakes (s : State) (h : FlitHdr) (bit : Nat) (off n : Nat) : Prop :=
  let v := s.window true h.window
  v.open_ = true ∧ v.access.getLsbD bit = true ∧ off + n ≤ 4096 * (v.pages.toNat + 1) ∧
  (s.tenant v.tenant.toNat).inRanges (v.base + off) n = true

/-- The device is in RESET by a cause: tenants, DISPATCHes, sessions, keys and the host are gone; fuses and the depot's units are kept;
and the newest log entry is LOG_RESET with the cause (R359, R377). -/
def InReset (cause : BitVec 8) (s u : State) : Prop :=
  u.glb.st = .reset ∧ u.glb.cause = cause ∧ u.glb.attached = false ∧ u.glb.safeHoldN = false ∧ u.glb.pllLocked = false ∧
  u.glb.portUp = false ∧ u.ten = [] ∧ u.disp = [] ∧ u.xpr = Xpr.init ∧ u.fuse = s.fuse ∧ u.dep.units = s.dep.units ∧
  u.sec.slots = [] ∧ u.sec.sessions = [] ∧
  (sget LogEntry.init u.frc.log ((u.frc.logWr - 1).toNat % 1024)).code = 0xA303 ∧
  (sget LogEntry.init u.frc.log ((u.frc.logWr - 1).toNat % 1024)).arg.toNat = cause.toNat

end Sys2Proof.Machine

section

open Sys2Proof Sys2Proof.Machine

/-! ## The array: slots -/

/-- R107, R108, R83: the lane-by-lane vector operations, with latency 4; VFMA rounds once and reads vD, VBCAST and VSPLAT fill
every lane.
R107, R108: the functions have latency 8 and the reductions 12; VRSUM and VRMAX go through lanes 0 to 63 in ascending order, one
rounding an addition, and every lane takes the result, poisoned where any lane was. -/
def Obligations.VectorOperations : Prop :=
  (VectorAnswers .vadd 0x01 4 (lane2 fadd) ∧
    VectorAnswers .vsub 0x02 4 (lane2 fsub) ∧
    VectorAnswers .vmul 0x03 4 (lane2 fmul) ∧
    VectorAnswers .vfma 0x04 4 (fun x b i =>
      ⟨ffma (laneOf x (vA b) i).bits (laneOf x (vB b) i).bits (laneOf x (vD b) i).bits,
       (laneOf x (vA b) i).poison || (laneOf x (vB b) i).poison || (laneOf x (vD b) i).poison⟩) ∧
    VectorAnswers .vmax 0x05 4 (lane2 (fun p q => canonF32 (fmax p q))) ∧
    VectorAnswers .vmin 0x06 4 (lane2 (fun p q => canonF32 (fmin p q))) ∧
    VectorAnswers .vmov 0x07 4 (lane1 canonF32) ∧
    VectorAnswers .vbcast 0x08 4 (fun x b _ =>
      ⟨canonF32 (laneOf x (vA b) (vImm b % 64)).bits, (laneOf x (vA b) (vImm b % 64)).poison⟩) ∧
    VectorAnswers .vsplat 0x09 4 (fun _ b _ => ⟨toF32 (decodeFp bf16 (vImm b % 65536)), false⟩)) ∧
  (VectorAnswers .vrcp 0x0A 8 (lane1 frcp) ∧
    VectorAnswers .vrsqrt 0x0B 8 (lane1 frsqrt) ∧
    VectorAnswers .vexp2 0x0C 8 (lane1 fexp2) ∧
    VectorAnswers .vrsum 0x0D 12 (fun x b _ =>
      ⟨((List.range 63).map (fun i => (laneOf x (vA b) (i + 1)).bits)).foldl fadd (laneOf x (vA b) 0).bits,
       (List.range 64).any (fun i => (laneOf x (vA b) i).poison)⟩) ∧
    VectorAnswers .vrmax 0x0E 12 (fun x b _ =>
      ⟨canonF32 (((List.range 63).map (fun i => (laneOf x (vA b) (i + 1)).bits)).foldl fmax (laneOf x (vA b) 0).bits),
       (List.range 64).any (fun i => (laneOf x (vA b) i).poison)⟩))

/-- R91: LNOP, MNOP, VNOP, DNOP and CNOP do nothing: the slot counts as carried out, and nothing else of the machine changes.
R95, R107: the index operations wrap modulo 2³², compare unsigned, and read i0 as zero. -/
def Obligations.IdleSlotsAndIndexOperations : Prop :=
  (∀ (a : Ary) (s : State) (k : Cur),
      (SlotWaits (s.arr a) k Cur.l lOp 0 → exec (.lnop a) s = .next (s.setArr a { s.arr a with cur := some { k with l := false } })) ∧
      (SlotWaits (s.arr a) k Cur.m mOp 0 → exec (.mnop a) s = .next (s.setArr a { s.arr a with cur := some { k with m := false } })) ∧
      (SlotWaits (s.arr a) k Cur.v vOp 0 → exec (.vnop a) s = .next (s.setArr a { s.arr a with cur := some { k with v := false } })) ∧
      (SlotWaits (s.arr a) k Cur.d dOp 0 → exec (.dnop a) s = .next (s.setArr a { s.arr a with cur := some { k with d := false } })) ∧
      (SlotWaits (s.arr a) k Cur.c cOp 0 → exec (.cnop a) s = .next (s.setArr a { s.arr a with cur := some { k with c := false } }))) ∧
  (IndexAnswers .iset 0x20 (fun _ b => BitVec.ofInt 32 (signed 24 (vImm b))) ∧
    IndexAnswers .iseth 0x21 (fun x b => (x.ir (vD b) &&& 0x00FFFFFF) ||| BitVec.ofNat 32 (vImm b % 256 * 2 ^ 24)) ∧
    IndexAnswers .iadd 0x22 (fun x b => x.ir (vA b) + x.ir (vB b) + BitVec.ofInt 32 (signed 24 (vImm b))) ∧
    IndexAnswers .isub 0x23 (fun x b => x.ir (vA b) - x.ir (vB b)) ∧
    IndexAnswers .imin 0x24 (fun x b => if (x.ir (vA b)).toNat < (x.ir (vB b)).toNat then x.ir (vA b) else x.ir (vB b)) ∧
    IndexAnswers .icmplt 0x25 (fun x b =>
      if (x.ir (vA b)).toNat < (x.ir (vB b) + BitVec.ofInt 32 (signed 24 (vImm b))).toNat then 1 else 0) ∧
    IndexAnswers .icmpeq 0x26 (fun x b => if x.ir (vA b) = x.ir (vB b) + BitVec.ofInt 32 (signed 24 (vImm b)) then 1 else 0) ∧
    ∀ x : Arr, x.ir 0 = 0)

/-- R99, R101, R103, R104: the load slot. An LDP enters the operand port for a cycle of every four granules, advances KPOS where its
bundle says so, and takes a corrected siding error in a cycle of it as a hold that begins in that cycle (R69); LDC, STC, LDV and STV
become moves, due 48 cycles and a cycle for every eight granules after issue, or 8 after, with the bytes as they stand at issue, and
log the corrected errors in them (R198, R222); each stops its array on the first stop condition that holds, in the model's order
(notes/assumptions/58.md); bytes that a move still out is to write are open (notes/assumptions/9.md). -/
def Obligations.LoadSlotOperations : Prop :=
  ∀ (a : Ary) (s : State) (k : Cur) (ce ue : List Nat),
    let x := s.arr a
    let b := k.bundle.toNat
    let sid := (x.ir (lSreg b)).toNat
    let con := (x.ir (lCreg b)).toNat
    let n := 32 * lLen b
    let vsid := (x.ir (lAreg b)).toNat
    let vn := if lVfmt b = 0 then 256 else 128
    let done : Arr := { x with cur := some { k with l := false } }
    (SlotWaits x k Cur.l lOp 1 → ∀ he : List (Nat × Nat),
      (∀ c, ldpStop x (makeLdp x b) = some c → exec (.ldp a he ue) s = .next (stopAry a c s)) ∧
      (ldpStop x (makeLdp x b) = none →
        exec (.ldp a he ue) s = .next (startDue a (s.setArr a { done with
          ldps := x.ldps ++ [makeLdp x b]
          ldpFree := x.cyc + cdiv (makeLdp x b).grans.length 4
          sidPoison := markWords x.sidPoison ue
          dueHolds := x.dueHolds ++ (he.filter (fun c => c.1 < cdiv (makeLdp x b).grans.length 4)).map
            (fun c => ⟨x.cyc + c.1, .sidCe, some c.2⟩)
          regw := if lInc b then
              (x.later (.idx x.cyc (x.cyc + 1) (4 * lQuad b + 3) (BitVec.ofNat 32 ((makeLdp x b).kpos + lNk b)))).regw
            else x.regw })))) ∧
    (SlotWaits x k Cur.l lOp 2 →
      let s1 : State := ce.foldl (fun s c => logConRow c s)
        { s with mtc := { s.mtc with conPoison := markWords s.mtc.conPoison ue } }
      let data := s1.partRead (s.part a) con n
      (∀ c, moveStop x (s.part a) false sid con n = some c → exec (.ldc a ce ue) s = .next (stopAry a c s)) ∧
      (moveStop x (s.part a) false sid con n = none →
        exec (.ldc a ce ue) s = .next (notePoison a data (s1.setArr a ((done.moveInc b).startMove
          ⟨x.moveId, .ldc, x.cyc, x.cyc + 48 + cdiv (lLen b) 8, sid, con, n, 0, 0, data, false⟩))))) ∧
    (SlotWaits x k Cur.l lOp 3 →
      let w : Arr := { x with sidPoison := markWords x.sidPoison ue }
      let data := sidRead a s.free w sid n
      (∀ c, moveStop x (s.part a) true sid con n = some c → exec (.stc a ce ue) s = .next (stopAry a c s)) ∧
      (moveStop x (s.part a) true sid con n = none → ∃ y,
        exec (.stc a ce ue) s = .next (notePoison a data (logSidRows a ce (s.setArr a y))) ∧
        y.moves = x.moves ++ [⟨x.moveId, .stc, x.cyc, x.cyc + 48 + cdiv (lLen b) 8, sid, con, n, 0, 0, data, false⟩] ∧
        y.cur = some { k with l := false } ∧
        ((s.memberOf a).isSome || (s.spareOf a).isSome → y.fp = crc64 x.fp (leBytes 4 con ++ data.map (·.1))) ∧
        (¬((s.memberOf a).isSome || (s.spareOf a).isSome) → y.fp = x.fp))) ∧
    (SlotWaits x k Cur.l lOp 4 →
      (∀ c, vecStop x vsid vn = some c → exec (.ldv a ce ue) s = .next (stopAry a c s)) ∧
      (vecStop x vsid vn = none →
        let y : Arr := { x with sidPoison := markWords x.sidPoison ue }
        exec (.ldv a ce ue) s = .next (logSidRows a ce (s.setArr a ({ y with cur := some { k with l := false } }.startMove
          ⟨x.moveId, .ldv, x.cyc, x.cyc + 8, vsid, 0, vn, lVreg b, BitVec.ofNat 4 (lVfmt b), sidRead a s.free y vsid vn, false⟩))))) ∧
    (SlotWaits x k Cur.l lOp 5 →
      (∀ c, vecStop x vsid vn = some c → exec (.stv a) s = .next (stopAry a c s)) ∧
      (vecStop x vsid vn = none →
        exec (.stv a) s = .next (s.setArr a (done.startMove
          ⟨x.moveId, .stv, x.cyc, x.cyc + 8, vsid, 0, vn, lVreg b, BitVec.ofNat 4 (lVfmt b),
           (x.lanes (lVreg b)).flatMap (laneBytes (lVfmt b)), false⟩))))

/-- R91 to R94: on a running array with no hold and no wait, no move due by then and the segment within its limit, the cycles up to
the scheduled one pass and the bundle issues: its slots stand open, all but the control slot only where the predicate holds, the next
bundle is scheduled LEN + 1 cycles later, STOP is kept. An uncorrectable error in it stops the array with UE_POISON instead (R90), and
where a hold source becomes active on the way the array holds there (R69). On a coupled pair a member goes no further than the other lets
it (R71, as notes/assumptions/58.md reads it).
R101, R103: a move that completes leaves the list of moves. The bytes of an LDC and of an STV are then in the siding at their
places, those of an STC in the array's partition, words of them whose fabric flits failed for good as poison (R295, R220), which an STC
carries into the fingerprint, and the lanes of an LDV in its register, once its due cycle has come and with no
other result on its way. R70: a move that is still out in its due cycle holds the array with CON_LATE, or with CON_CE where it is an
LDC with a corrected error. R69: a source of fixed length ends after its held cycles, PORT_BP after those that its command gives; the
held cycles are counted, and an array that nothing else holds runs on. -/
def Obligations.BundlesMovesAndHolds : Prop :=
  (∀ (a : Ary) (s : State),
      let x := s.arr a
      x.st = .run → x.holds = [] → x.active.isSome = true → x.wait = .none → x.curDone = true → (x.stopHere = false ∨ x.quiesce = false) →
      (∀ m ∈ x.moves, x.nextIssue < m.due) → x.cyc ≤ x.nextIssue →
      (x.segNew = true ∨ x.segCount + (x.nextIssue - x.cyc) < x.segLimit.toNat) → s.heldBack a = false → s.cutShort a = false →
      s.pairAllows true a x.nextIssue = true →
      ((∀ h ∈ x.dueHolds, x.nextIssue < h.cycle) →
        let s1 := runTo a x.nextIssue s
        let y := (s1.arr a).atBoundary a
        let b := imgBundle y.img y.next
        let holds := (y.ir (hPred b) == 0) != hPneg b
        exec (.bundleIssue a false) s = .next (s1.setArr a { y with
          cur := some ⟨BitVec.ofNat 256 b, holds, holds, holds, holds, true⟩
          next := y.next + 1
          lastIssue := y.cyc
          nextIssue := y.cyc + hLen b + 1
          segCount := if y.stopHere || y.segNew then 0 else y.segCount
          segNew := false
          stopHere := hStop b }) ∧
        exec (.bundleIssue a true) s = .next (stopAry a 0x1202 s1)) ∧
      (∀ n ue, x.firstDue x.nextIssue = some n → exec (.bundleIssue a ue) s = .next (startDue a (runTo a n s)))) ∧
  (∀ (a : Ary) (s : State) (m : MoveOp) (h : Hold) (held : Nat) (split : Bool) (flits : List Nat) (ce : Option Nat),
      let x := s.arr a
      let inPlace (y : Arr) : Prop := ∀ p, sget 0 y.sid p =
        if m.sid ≤ p ∧ p < m.sid + m.data.length then (m.data.getD (p - m.sid) (0, false)).1 else sget 0 x.sid p
      (x.moves.find? (fun v => v.id == m.id) = some m → x.holds = [] → x.syncs = [] →
        ∃ t, exec (.moveComplete a m.id held split flits) s = .next t ∧ (∀ b, b ≠ a.val → t.arr b = s.arr b) ∧
          (t.arr a).moves.map (·.id) = (x.moves.filter (fun v => v.id != m.id)).map (·.id) ∧
          (m.kind = .ldc ∨ m.kind = .stv → inPlace (t.arr a)) ∧
          (m.kind = .stc → t.mtc = (partWrite (s.part a) m.con (markLost flits m.data) s).mtc ∧
            (flits ≠ [] → (t.arr a).fpPoison = true)) ∧
          (m.kind = .ldv → m.beaten = false → m.due ≤ x.cyc → x.regw = [] →
            (t.arr a).lanes m.vreg = ldvLanes m.fmt.toNat m.data)) ∧
      (x.moves.find? (fun v => v.id == m.id) = some m → x.cyc = m.due → x.holds = [] → x.paired = false →
        (∀ g ∈ x.dueHolds, m.due < g.cycle) →
        ∃ t, exec (.loadMoveDue a m.id ce) s = .next t ∧
          (t.arr a).holds = [⟨if m.kind = .ldc ∧ ce.isSome then .conCe else .conLate, none⟩] ∧
          (x.st = .run → (t.arr a).st = .hold)) ∧
      (x.holds = [h] → h.src = .sidCe ∨ h.src = .accCe ∨ h.src = .portBp → x.paired = false →
        let n := h.ends.getD held
        ∃ t, exec (.arrayHoldRelease a h.src held) s = .next t ∧ OnlyArray a s t ∧
          (t.arr a).holds = [] ∧ (t.arr a).heldNow = 0 ∧ (x.st = .hold → (t.arr a).st = .run) ∧
          (t.arr a).holdCyc = satAdd x.holdCyc (n - x.heldNow) ∧ (t.arr a).segCount = x.segCount + (n - x.heldNow)))

/-- R67, R105, R106: an MMA or MMAZ takes the grid for NK × p cycles with NK K-steps one p after the other, an MMAZ's first one
replacing the tile and its accumulation type set; issued on a busy grid it stops the array with SLOT_OVERLAP. That the
type is set as the MMAZ issues is the model's choice (notes/assumptions/58.md). A corrected accumulator
error in a cycle of it is a hold that begins in that cycle (R69). -/
def Obligations.MatrixOperationsTakeTheGrid : Prop :=
  ∀ (a : Ary) (s : State) (k : Cur) (ce : List Nat) (ue : List (Nat × Nat)) (par : List PlatAddr),
    let x := s.arr a
    let b := k.bundle.toNat
    let p := kstepCycles (max (classOf (mAfmt b) (mAq b)) (classOf (mBfmt b) (mBq b)))
    let bit : BitVec 8 := BitVec.ofNat 8 (2 ^ mTile b)
    let due : List DueHold := x.dueHolds ++
      (ce.filter (fun c => c < mNk b * p + 5)).map (fun c => ⟨x.cyc + c, .accCe, none⟩)
    (SlotWaits x k Cur.m mOp 1 →
      (x.cyc < x.gridFree → exec (.mma a ce ue par) s = .next (stopAry a 0x2109 s)) ∧
      (x.gridFree ≤ x.cyc → ∃ ks,
        exec (.mma a ce ue par) s = .next (startDue a (s.setArr a { x with
          cur := some { k with m := false }, ksteps := x.ksteps ++ ks, gridFree := x.cyc + mNk b * p, dueHolds := due })) ∧
        ks.map (·.start) = (List.range (mNk b)).map (fun j => x.cyc + j * p) ∧
        (∀ v ∈ ks, v.tile = mTile b ∧ v.zero = false ∧ v.int = (mAfmt b == 7 && mBfmt b == 7) ∧
          v.badA = (x.tileInt.getLsbD (mTile b) != (mAfmt b == 7 && mBfmt b == 7)) ∧ v.badB = v.badA))) ∧
    (SlotWaits x k Cur.m mOp 2 →
      (x.cyc < x.gridFree → exec (.mmaz a ce ue par) s = .next (stopAry a 0x2109 s)) ∧
      (x.gridFree ≤ x.cyc → ∃ ks,
        exec (.mmaz a ce ue par) s = .next (startDue a (s.setArr a { x with
          cur := some { k with m := false }, ksteps := x.ksteps ++ ks, gridFree := x.cyc + mNk b * p, dueHolds := due
          tileInt := if mAfmt b = 7 ∧ mBfmt b = 7 then x.tileInt ||| bit else x.tileInt &&& ~~~bit })) ∧
        ks.map (·.start) = (List.range (mNk b)).map (fun j => x.cyc + j * p) ∧
        ks.map (·.zero) = (List.range (mNk b)).map (fun j => j == 0) ∧
        (∀ v ∈ ks, v.tile = mTile b ∧ v.badA = false ∧ v.badB = false)))

/-- R77, R109: a DRAIN takes the drain unit for 128 cycles, its registers, residual bases and scale read at issue; the first of the
stop conditions of R109 that holds stops the array. On an express array the scale is the fixed one of R58, which the drain writes too, as
notes/assumptions/63.md has it. A corrected accumulator error, or back-pressure of the fabric port, in a cycle of
it is a hold that begins in that cycle (R69). -/
def Obligations.DrainTakesTheDrainUnit : Prop :=
  ∀ (a : Ary) (s : State) (k : Cur) (ce ue bp sue : List Nat),
    let x := s.arr a
    let b := k.bundle.toNat
    let d := makeDrain a s x b ue
    let gates : Prop := ∀ g ∈ d.body, g.op = 7 → bitsOf g.arg.toNat 2 0 < x.liveAcc.toNat
    SlotWaits x k Cur.d dOp 1 →
      (x.cyc < x.drainFree → exec (.drain a ce ue bp sue) s = .next (stopAry a 0x2109 s)) ∧
      (x.drainFree ≤ x.cyc → x.chainOk.getLsbD (dChain b) = false →
        exec (.drain a ce ue bp sue) s = .next (stopAry a 0x2102 s)) ∧
      (x.drainFree ≤ x.cyc → x.chainOk.getLsbD (dChain b) = true → ¬gates →
        exec (.drain a ce ue bp sue) s = .next (stopAry a 0x2103 s)) ∧
      (x.drainFree ≤ x.cyc → x.chainOk.getLsbD (dChain b) = true → gates → (∃ r ∈ d.reach, 6 * 2 ^ 20 < r) →
        exec (.drain a ce ue bp sue) s = .next (stopAry a 0x210A s)) ∧
      (x.drainFree ≤ x.cyc → x.chainOk.getLsbD (dChain b) = true → gates → (∀ r ∈ d.reach, r ≤ 6 * 2 ^ 20) →
        exec (.drain a ce ue bp sue) s = .next (startDue a (s.setArr a { x with
          cur := some { k with d := false }
          drains := x.drains ++ [d]
          drainFree := x.cyc + 128
          sidPoison := markWords x.sidPoison sue
          dueHolds := x.dueHolds ++ (ce.filter (fun c => c < 128)).map (fun c => ⟨x.cyc + c, .accCe, none⟩) ++
            (bp.filter (fun c => c < 128 + d.delay)).map (fun c => ⟨x.cyc + c, .portBp, none⟩) })))

/-- R110, R111, R113, R115: LOOP counts down and branches unless its counter is then 0; BR branches when (i[REG] = 0) XOR NEG; WAITQ
takes COUNT from a counter high enough on an array of no pair, and else waits; SYNC waits unless NOWAIT: with STCs outstanding it
takes note of them and of its barrier, and with none it arrives at its barrier, whose release is due at the N-th arrival of the round
(of an armed tenant's the signal box compares first, R278); an N other than that of the round stops its array with SYNC_MISMATCH; HALT
ends the issue of bundles. That an STC of the same bundle is an earlier one is the model's choice (notes/assumptions/67.md). -/
def Obligations.ControlSlotOperations : Prop :=
  ∀ (a : Ary) (s : State) (k : Cur) (split : Bool),
    let x := s.arr a
    let b := k.bundle.toNat
    let done : Arr := { x with cur := some { k with c := false } }
    let left := x.ir (cCnt b) - 1
    (SlotWaits x k Cur.c cOp 1 → exec (.loop a) s = .next (s.setArr a { done with
      regw := (x.later (.idx x.cyc (x.cyc + 1) (cCnt b) left)).regw, next := if left = 0 then x.next else cLoopTarget b })) ∧
    (SlotWaits x k Cur.c cOp 2 → exec (.br a) s = .next (s.setArr a { done with
      next := if (x.ir (cCnt b) == 0) != cNeg b then cBrTarget b else x.next })) ∧
    (SlotWaits x k Cur.c cOp 3 →
      (x.paired = false → cCount b ≤ (sget 0 x.tq (cQ b)).toNat →
        exec (.waitq a) s = .next (s.setArr a { done with
          tq := sset 0 x.tq (cQ b) (sget 0 x.tq (cQ b) - BitVec.ofNat 16 (cCount b)) })) ∧
      (x.paired = true ∨ (sget 0 x.tq (cQ b)).toNat < cCount b →
        exec (.waitq a) s = .next (s.setArr a { done with wait := .waitq (cQ b) (cCount b) }))) ∧
    (SlotWaits x k Cur.c cOp 4 →
      let stcs := (x.moves.filter (fun m => m.kind == .stc)).map (·.id)
      let wait : SeqWait := if cNowait b then .none else .sync (cBar b)
      (stcs ≠ [] → x.syncs = [] → ∃ u, exec (.sync a split) s = .next u ∧ OnlyArray a s u ∧
        u.arr a = { done with wait := wait, syncs := [⟨cBar b, cN b, cNowait b, stcs⟩] }) ∧
      (∀ t : Ten, stcs = [] → x.syncs = [] → x.st = .run → s.aryTenant a = some t.val → s.spareOf a = none →
        let bar := (s.tenant t).barrier (cBar b)
        let came := bar.arrivals ++ [⟨a, cN b, x.fp, x.fpPoison, cNowait b, x.cyc⟩]
        bar.full = false →
        ((∀ v ∈ bar.arrivals, v.n = cN b) → came.length < cN b ∨ s.tenantXid t = none →
          ∃ u, exec (.sync a split) s = .next u ∧ u.arr a = { done with wait := wait } ∧
            (u.tenant t).barrier (cBar b) = ⟨came, decide (cN b ≤ came.length)⟩) ∧
        ((∃ v ∈ bar.arrivals, v.n ≠ cN b) →
          ∃ u, exec (.sync a split) s = .next (stopAry a 0x210D u) ∧ OnlyArray a s u ∧ u.arr a = { done with wait := wait }))) ∧
    (SlotWaits x k Cur.c cOp 5 → exec (.halt a) s = .next (s.setArr a { done with wait := .halted }))

/-- R87, R88, R115, R119: an image submitted to a free slot is CHECKING, one of a DISPATCH with a plan only if it is the plan's; a
passed check makes it READY and a bare array LOADED, a failed one REJECTED with its code in ARY_REJ and recorded; with no image running
the one whose turn it is starts: its presets in the index registers, its first bundle in the next cycle; a halted image with no move and
no arrival outstanding completes in the cycle after its last operation. -/
def Obligations.TimetableImagesLive : Prop :=
  ∀ (a : Ary) (s : State) (slot : Fin 2) (img : Bytes) (d : Dispatch),
    let x := s.arr a
    let sl := x.slot slot
    (sl.st = .empty ∨ sl.st = .rejected → x.st ≠ .scrub →
      exec (.timetableImageSubmit a slot img none) s = .next (s.setArr a
        { x.setSlot slot ⟨.checking, img, none, x.submits⟩ with submits := x.submits + 1 }) ∧
      (s.dispatch? d.id = some d → d.discard = false → s.aryTenant a = some d.tenant → x.awaitsImage a d = true →
        (d.tiling = none ∨ img = sget [] d.images a) →
        exec (.timetableImageSubmit a slot img (some d.id)) s = .next (s.setArr a
          { x.setSlot slot ⟨.checking, img, some d.id, x.submits⟩ with submits := x.submits + 1 }))) ∧
    (sl.st = .checking →
      (checkImage sl.img (s.aryExpress a) = none → exec (.imageCheckDone a slot) s = .next (s.setArr a
        { x.setSlot slot { sl with st := .ready } with st := if x.st = .idle ∨ x.st = .bound then .loaded else x.st })) ∧
      (∀ c, checkImage sl.img (s.aryExpress a) = some c → sl.disp = none →
        exec (.imageCheckDone a slot) s = .next (record c (s.aryTenant a) (unitArray a) 0 0
          (s.setArr a { x.setSlot slot ⟨.rejected, [], none, sl.order⟩ with rejCode := c })))) ∧
    (s.nextImage a = some slot → sl.disp = none → x.active = none → s.memberOf a = none → s.spareOf a = none → x.quiesce = false →
      x.st ≠ .scrub → x.st ≠ .paused → ∃ y, exec (.imageStart a) s = .next (s.setArr a y) ∧
        y.st = .run ∧ y.active = some slot ∧ (y.slot slot).st = .running ∧ y.next = imgEntry sl.img ∧ y.nextIssue = x.cyc + 1 ∧
        (∀ r, 1 ≤ r → r < 32 → y.ir r = BitVec.ofNat 32 (imgPreset sl.img r))) ∧
    (x.wait = .halted → x.active = some slot → x.moves = [] → x.syncs = [] → x.disp = none → s.memberOf a = none →
      s.spareOf a = none → s.canPass a (x.lastBusy + 1) = true → (∀ h ∈ x.dueHolds, x.lastBusy + 1 < h.cycle) →
      exec (.imageComplete a) s = .next (takeQuiet a
        ((runTo a (x.lastBusy + 1) s).modArr a (fun y => y.imageEnds false ((runTo a (x.lastBusy + 1) s).aryTenant a).isSome))))

/-- R111, R113, R114: a WAITQ whose counter has come high enough takes COUNT and lets the sequencer go on in the cycle after the one in
which it came, but no sooner than its next bundle was scheduled and no sooner than now; on a coupled pair both members do, in the later
of their cycles. A full barrier of a tenant that is not armed lets every waiting participant go, one that arrived alone 24 cycles after
its arrival, and starts its next round; no other array changes.
R73, R74, R94: a segment that comes to its limit while its array waits, or is held, stops the array with SEG_OVERRUN, and held
cycles count; a quiesced array pauses at a STOP once nothing is in flight, and when the quiesce is over issues its next bundle in the
first cycle after; the A-clock stretch of an array that is neither express nor spare is set, a new one is counted, and it ends. -/
def Obligations.WaitsSegmentsAndStretches : Prop :=
  (∀ (a : Ary) (s : State) (q n waited : Nat) (t : Ten) (bar : Fin 16) (w : List (Ary × Nat)),
      let x := s.arr a
      let own (x : Arr) : Nat := max (waited + 1) (if x.cyc = x.lastIssue then 0 else x.cyc + 1 - x.lastIssue)
      let after (x : Arr) (q n from_ : Nat) : Arr := { x with
        tq := sset 0 x.tq q (sget 0 x.tq q - BitVec.ofNat 16 n), wait := .none, nextIssue := max x.nextIssue (x.lastIssue + from_) }
      (x.wait = .waitq q n → n ≤ (sget 0 x.tq q).toNat → x.holds = [] → s.heldBack a = false →
        (x.paired = false → exec (.waitqRelease a waited) s = .next (s.setArr a (after x q n (own x)))) ∧
        (∀ (p q' n' : Nat), x.paired = true → x.partner.toNat = p → p ≠ a → (s.arr p).wait = .waitq q' n' →
          n' ≤ (sget 0 (s.arr p).tq q').toNat → (s.arr p).holds = [] → s.heldBack p = false →
          let both := max (own x) (own (s.arr p))
          exec (.waitqRelease a waited) s =
            .next ((s.setArr a (after x q n both)).setArr p (after (s.arr p) q' n' both)))) ∧
      (((s.tenant t).barrier bar).full = true → s.tenantXid t = none → ∃ u,
        exec (.syncRelease t bar w) s = .next u ∧
        (u.tenant t).barrier bar = ((s.tenant t).barrier bar).after ∧
        (∀ b, (∀ v ∈ ((s.tenant t).barrier bar).round, v.ary ≠ b) → u.arr b = s.arr b) ∧
        (∀ v ∈ ((s.tenant t).barrier bar).round, v.nowait = false → (s.arr v.ary).wait = .sync bar → (u.arr v.ary).wait = .none) ∧
        (∀ v, ((s.tenant t).barrier bar).round = [v] → v.nowait = false → (s.arr v.ary).wait = .sync bar →
          let y := s.arr v.ary
          (u.arr v.ary).nextIssue = max y.nextIssue (y.lastIssue +
            max (v.cyc + 24 - y.lastIssue) (if y.cyc = y.lastIssue then 0 else y.cyc + 1 - y.lastIssue))))) ∧
  (∀ (a : Ary) (s : State) (amount : BitVec 8),
      let x := s.arr a
      let left := x.segLimit.toNat - x.segCount
      (x.active.isSome = true → x.segNew = false → x.curDone = true → s.heldBack a = false →
        (x.st = .run → x.holds = [] → x.wait ≠ .none → (∀ m ∈ x.moves, x.cyc + left ≤ m.due) → (∀ h ∈ x.dueHolds, x.cyc + left < h.cycle) →
          exec (.segOverrun a left) s = .next (stopAry a 0x2101 (runTo a (x.cyc + left) s))) ∧
        (x.st = .hold → x.holds ≠ [] → x.paired = false →
          exec (.segOverrun a left) s = .next (stopAry a 0x2101 (s.setArr a (x.countHeld (x.heldNow + left)))))) ∧
      (x.st = .run → x.active.isSome = true → x.stopHere = true → x.quiesce = true → x.wait = .none → x.moves = [] →
        s.canPass a x.lastBusy = true → x.lastBusy = x.cyc → (∀ h ∈ x.dueHolds, x.cyc < h.cycle) →
        exec (.arrayPause a) s = .next (takeQuiet a ((s.setArr a x).setArr a { x with st := .paused }))) ∧
      (x.quiesce = true → x.st = .paused → s.quiesced a = false → (∀ t : Ten, (s.tenant t).whyFw = false) →
        exec (.arrayResume a) s = .next (s.setArr a { x with quiesce := false, st := .run, nextIssue := x.cyc + 1 })) ∧
      (s.aryExpress a = false → 0 < amount.toNat → amount.toNat ≤ 60 → ∃ y, exec (.avsStretch a amount) s = .next (s.setArr a y) ∧
        y.stretch = amount ∧
        (x.stretchNow s.glb.devTime = 0 → y.avsEvents = satAdd x.avsEvents 1 ∧ y.avsSince = s.glb.devTime) ∧
        (x.stretchNow s.glb.devTime ≠ 0 → y.avsEvents = x.avsEvents ∧ y.avsSince = x.avsSince)) ∧
      (s.aryExpress a = true → exec (.avsStretch a amount) s = .next s) ∧
      exec (.avsStretchEnd a) s = .next (s.setArr a { x with stretch := 0 }))

/-! ## Plans -/

/-- R122, R136: a plan instruction that fails a check issues no work: its queue is FAULTED with the first failing check's code, the head
stays before it, its record waits with that status, and no context but its own changes, nor any array, pipeline, sequence, DISPATCH,
memory or express index. -/
def Obligations.PlanChecksHaveNoEffectButTheFault : Prop :=
  ∀ (i : Instr) (s : State) (t : Ten) (q : Que) (w0 w1 : BitVec 64) (c : BitVec 16) (addr : Nat),
    planWords i = some (t, q, w0, w1, true) → Presents s t q w0 → planCheck (s.tenant t) w0 w1 = some (c, addr) →
    ∃ u, exec i s = .next u ∧
      (u.queue t q).st = .faulted ∧ (u.queue t q).fcode = c ∧ (u.queue t q).head = (s.queue t q).head ∧
      (u.queue t q).stuck = some ⟨(s.queue t q).head, pSlots w0, false⟩ ∧
      (∃ e ∈ (u.queue t q).issued, e.idx = (s.queue t q).head ∧ e.status = some c) ∧
      (∀ r : Ten, r ≠ t → u.tenant r = s.tenant r) ∧
      u.ary = s.ary ∧ u.pipe = s.pipe ∧ u.kv = s.kv ∧ u.disp = s.disp ∧ u.mtc = s.mtc ∧ u.xpr = s.xpr ∧ u.dispNext = s.dispNext

/-- R122: an opcode that the table does not list completes with PLAN_OPCODE.
R123, R127, R128, R135: the instructions of no resource. NOP and FENCE complete; BATCH closes the batch and opens one on the copy
pointed to; WAITEV completes once its event has come to its value, and waits till then; SIGNALEV adds to its event, saturating;
TSTAMP's record tells device time; HALT leaves the queue HALTED. -/
def Obligations.SimpleAndReservedPlanInstructions : Prop :=
  (∀ (t : Ten) (q : Que) (w0 w1 : BitVec 64) (s : State), Presents s t q w0 → planForm? (pOp w0) = none →
      ∃ u, exec (.reservedPlanOpcode t q w0 w1) s = .next u ∧
        (u.queue t q).st = .faulted ∧ (u.queue t q).fcode = 0x3101 ∧ (u.queue t q).head = (s.queue t q).head) ∧
  (∀ (t : Ten) (q : Que) (w0 w1 : BitVec 64) (s : State),
      (pOp w0 = 0x00 → MayIssue s t q w0 w1 → ∃ u, exec (.nop t q w0 w1) s = .next u ∧
        DoneAtHead s u t q w0 0 ∧ OnlyTenant t s u) ∧
      (pOp w0 = 0x02 → MayIssue s t q w0 w1 → ∃ u, exec (.batch t q w0 w1) s = .next u ∧
        DoneAtHead s u t q w0 (pf w0 31 0) ∧ (u.queue t q).batch = some ⟨(s.tenant t).pointed, true, 0⟩ ∧ OnlyTenant t s u) ∧
      (pOp w0 = 0x03 → MayIssue s t q w0 w1 → ∃ u, exec (.waitev t q w0 w1) s = .next u ∧
        DoneAtHead s u t q w0 0 ∧ OnlyTenant t s u) ∧
      (pOp w0 = 0x03 → Presents s t q w0 → planCheck (s.tenant t) w0 w1 = none →
        ((s.tenant t).event (pf w0 39 32)).toNat < pf w0 31 0 →
        exec (.waitev t q w0 w1) s =
          .next ((passTurn t q s).modQueue t q (fun y => { y with waiting := some (atHead s t q w0 w1) }))) ∧
      (pOp w0 = 0x04 → MayIssue s t q w0 w1 → ∃ u, exec (.signalev t q w0 w1) s = .next u ∧
        DoneAtHead s u t q w0 0 ∧ OnlyTenant t s u ∧
        ((u.tenant t).event (pf w0 39 32)).toNat = min (2 ^ 32 - 1) (((s.tenant t).event (pf w0 39 32)).toNat + pf w0 15 0)) ∧
      (pOp w0 = 0x05 → MayIssue s t q w0 w1 → ∃ u, exec (.fence t q w0 w1) s = .next u ∧
        DoneAtHead s u t q w0 0 ∧ OnlyTenant t s u) ∧
      (pOp w0 = 0x06 → MayIssue s t q w0 w1 → ∃ u, exec (.tstamp t q w0 w1) s = .next u ∧
        DoneAtHead s u t q w0 s.glb.devTime ∧ OnlyTenant t s u) ∧
      (pOp w0 = 0x07 → MayIssue s t q w0 w1 → ∃ u, exec (.planHalt t q w0 w1) s = .next u ∧
        DoneAtHead s u t q w0 0 ∧ OnlyTenant t s u ∧ (u.queue t q).st = .halted))

/-- R126, R133 to R135: the first complete instruction's record goes to the ring, PHASE in bit 0, and the completion tail moves on; a
full ring is shown instead. DBL_TAIL takes a value within a ring of the head and of its old value, and any other write is ignored and
shows and records an overrun; an instruction of two slots is not presented while the tail covers only the first, and its queue offers
nothing until the tail moves. DBL_CPL_HEAD takes a value that does not pass the tail, and ignores any other. -/
def Obligations.CompletionRecordsAndDoorbells : Prop :=
  ∀ (t : Ten) (q : Que) (s : State) (v : Reg32) (e : Issued) (rest : List Issued) (c : BitVec 16),
    let y := s.queue t q
    (trimIssued y.issued = e :: rest → e.status = some c → s.recordsFlow t = true → y.ringFull = false →
      ∃ u, exec (.completionRecordWrite t q) s = .next u ∧
        (u.queue t q).cplTail = y.cplTail + 1 ∧ (u.queue t q).issued = trimIssued rest ∧
        Output.record t q (y.cplTail.toNat % y.ccap)
          (BitVec.ofNat 64 (c.toNat * 2 ^ 48 + e.opcode.toNat * 2 ^ 40 + t * 2 ^ 35 + q * 2 ^ 32 +
            (if y.cplTail.toNat / y.ccap % 2 = 0 then 1 else 0))) (BitVec.ofNat 64 e.idx.toNat) e.value e.detail ∈ u.out) ∧
    (trimIssued y.issued = e :: rest → e.status = some c → s.recordsFlow t = true → y.ringFull = true →
      exec (.completionRecordWrite t q) s = .next (s.modQueue t q (fun y => { y with cplFull := true }))) ∧
    (s.hostWrites = true → (v - y.head).toNat ≤ 64 * 2 ^ y.size.toNat → (v - y.tail).toNat ≤ 64 * 2 ^ y.size.toNat →
      exec (.dblTailWrite t q v) s = .next (s.setQueue t q { y with tail := v, short := false })) ∧
    (s.hostWrites = true → 64 * 2 ^ y.size.toNat < (v - y.head).toNat ∨ 64 * 2 ^ y.size.toNat < (v - y.tail).toNat →
      exec (.dblTailWrite t q v) s =
        .next (record 0x3201 (some t) unitNone 0 0 (s.setQueue t q { y with overrun := true }))) ∧
    (s.hostWrites = true → (v - y.cplHead).toNat ≤ (y.cplTail - y.cplHead).toNat → (∀ r : Que, (s.queue t r).waiting = none) →
      exec (.dblCplHeadWrite t q v) s = .next (s.setQueue t q { y with cplHead := v })) ∧
    (∀ (i : Instr) (w0 w1 : BitVec 64), planWords i = some (t, q, w0, w1, true) → pExt w0 = true → y.waiting = none → y.retry = none →
      s.glb.attached = true → s.queueRuns t q = true → (y.tail - y.head).toNat = 1 →
      exec i s = .next (s.modQueue t q (fun y => { y with short := true }))) ∧
    (s.hostWrites = true → (y.cplTail - y.cplHead).toNat < (v - y.cplHead).toNat → exec (.dblCplHeadWrite t q v) s = .next s)

/-- R132, R136: SKIP passes the instruction at which a queue faulted or halted, RETRY presents a faulted one again, FLUSH moves the
head to the tail; a DISABLED queue that is enabled starts with zero indices and an open batch, and an enabled one with nothing
incomplete is DISABLED when ENABLE is cleared. -/
def Obligations.QueueCommands : Prop :=
  ∀ (t : Ten) (q : Que) (s : State) (k : Stuck) (v : Reg32),
    let y := s.queue t q
    s.hostWrites = true →
    (y.st = .faulted ∨ y.st = .halted → y.stuck = some k → ∃ z, exec (.skip t q) s = .next (s.setQueue t q z) ∧
      z.st = .idle ∧ z.fcode = 0 ∧ z.stuck = none ∧ z.qcmd = 1 ∧
      z.head = (if k.issued then y.head else k.idx + BitVec.ofNat 32 k.slots)) ∧
    (y.st = .faulted → y.stuck = some k → ∃ z, exec (.retry t q) s = .next (s.setQueue t q z) ∧
      z.st = .idle ∧ z.fcode = 0 ∧ z.stuck = none ∧ z.qcmd = 2 ∧ z.head = y.head ∧
      z.retry = (if k.issued then some ⟨k.idx, k.slots, 0, 0⟩ else y.retry)) ∧
    (y.st = .faulted ∨ y.st = .halted → (∀ c : Fin 4, ((s.tenant t).copy c).st ≠ .releasing) →
      ∃ u, exec (.flush t q) s = .next u ∧
      (u.queue t q).st = .idle ∧ (u.queue t q).head = y.tail ∧ (u.queue t q).batch = none ∧ (u.queue t q).qcmd = 3) ∧
    (y.enable = false → y.st = .disabled → v.getLsbD 31 = true → bitsOf v.toNat 19 16 ≤ 10 → bitsOf v.toNat 15 12 ≤ 10 →
      ∃ u, exec (.queueEnable t q v) s = .next u ∧
        (u.queue t q).enable = true ∧ (u.queue t q).st = .idle ∧ (u.queue t q).head = 0 ∧ (u.queue t q).tail = 0 ∧
        (u.queue t q).cplHead = 0 ∧ (u.queue t q).cplTail = 0 ∧ (u.queue t q).size.toNat = bitsOf v.toNat 19 16 ∧
        (u.queue t q).csize.toNat = bitsOf v.toNat 15 12 ∧ (u.queue t q).vector.toNat = bitsOf v.toNat 25 20 ∧
        (u.queue t q).base = y.base ∧ (u.queue t q).cpl = y.cpl ∧
        (u.queue t q).batch = some ⟨(s.tenant t).pointed, true, 0⟩) ∧
    (y.enable = true → y.st ≠ .disabled → y.allDone = true → v.getLsbD 31 = false →
      ∃ u, exec (.queueDisable t q v) s = .next u ∧ (u.queue t q).enable = false ∧ (u.queue t q).st = .disabled)

/-- R125, R129 to R131, R149, R160: a DISPATCH whose copy, kernel, buckets, ARGS, tiling and key-value writes are in order issues: one
more DISPATCH is in flight, with the seed and sequence number in force, its legs and descriptors still to be done, and its images, those
of its plan where its kernel is a matrix kernel, which are as the tiler makes them (R153 to R160, read as notes/assumptions/47.md has it),
and those given where it is not. A DISPATCH that has come to its end without a fault
leaves, and its record tells the time since it first started. -/
def Obligations.DispatchIssuesAndCompletes : Prop :=
  ∀ (t : Ten) (q : Que) (w0 w1 : BitVec 64) (e : Emission) (s : State) (c : Fin 4) (n : Nat) (k : KernelEntry) (sb bb : Nat)
    (packing : List Place) (d : Nat) (x : Dispatch),
    (pOp w0 = 0x01 → MayIssue s t q w0 w1 → (s.queue t q).batch = some ⟨some c, true, n⟩ →
      ((s.tenant t).copy c).kernels.find? (fun k => k.kernel.toNat == pf w0 47 32) = some k →
      bucketsOf k (pf w0 31 16) (pf w0 15 10) e.lengths = .ok (sb, bb, packing) →
      (s.staying t).inRanges (pf w1 47 0) (max 64 e.argsLen) = true →
      let arrays := s.tileArrays t
      let tl := if k.matrix then tile k (sb * bb) arrays.length else none
      let key := planKey ((s.tenant t).copy c) (pf w0 47 32) sb bb arrays.length (s.tilePipes t).length
      let plan := (planPath t w1 (freshPlan key tl e.tiles) s).1
      (k.matrix = true → tl.isSome = true ∧ twConNeed k.tiling ≤ (s.staying t).conSize.toNat) →
      (∀ w ∈ e.kvWrites, kvWriteFails t w s = none) → s.emits t q w0 w1 e = true →
      ∃ u y, exec (.dispatch t q w0 w1 e) s = .next u ∧ OpenAtHead s u t q w0 ∧
        u.disp = s.disp ++ [y] ∧ u.dispNext = s.dispNext + 1 ∧
        y.id = s.dispNext ∧ y.tenant = t.val ∧ y.q = q.val ∧ y.idx = (s.queue t q).head ∧ y.copy = some c ∧
        y.seed = (s.tenant t).seedShadow ∧ y.dseq = (s.tenant t).dseq + 1 ∧ (u.tenant t).dseq = (s.tenant t).dseq + 1 ∧
        y.legsLeft = e.legs.length ∧ y.descsLeft = e.descs ∧ y.started = none ∧ y.tiling = plan.tiling ∧
        (∀ v, plan.tiling = some v →
          y.images = planImages v (shapeOf k (pf w0 31 16) (pf w0 15 10) sb packing) k.n k.k arrays e.presets plan.tiles ∧
          y.imagesLeft = y.images.map (·.1)) ∧
        (plan.tiling = none → y.imagesLeft = (e.images.map (fun a => a.val)).filter (fun a => arrays.contains a)) ∧
        u.kv.legs = s.kv.legs ++ e.legs.map (fun pd => ⟨pd, t, (s.tenant t).cls, s.dispNext⟩) ∧
        (u.queue t q).batch = some ⟨some c, true, n + 1⟩) ∧
    (s.dispatch? d = some x → s.dispatchOver x = true → x.fault = none →
      ∃ u, exec (.dispatchComplete d) s = .next u ∧ u.disp = s.disp.filter (fun z => z.id != d) ∧
        (∀ i ∈ (s.queue x.tenant x.q).issued, i.idx = x.idx → i.status = none → i.cpl = true →
          { i with
            status := some 0
            value := BitVec.ofNat 64 (match x.started with | none => 0 | some b => s.glb.devTime - b)
            detail := 0 } ∈ (u.queue x.tenant x.q).issued))

/-! ## Tenants and bindings -/

/-- R137, R146: START runs a FREE or STOPPED tenant of regular or freight class on its planner, and is refused one without class; STOP
stops a running one, at once where nothing of its queues is incomplete; RESET makes a FREE or STOPPED one RESETTING; these three are read
back in TCX_CMD. RESUME lifts WHY_HOST and the tenant runs.
R137, R142, R379: when the resources of a tenant that resets are scrubbed it is FREE, unbound, its counters and flags clear, without
class, copies, events and open
sequences, and nothing that it dispatched is left; the arrays that it had are clear. -/
def Obligations.TenantCommandsAndReset : Prop :=
  (∀ (t : Ten) (s : State),
      let y := s.tenant t
      s.hostWrites = true →
      (y.st = .free ∨ y.st = .stopped → y.cls = 2 ∨ y.cls = 3 → y.whyRebind = false → y.whyHost = false → y.whyFw = false →
        s.compHeld (plannerComp (s.planTenant t y)) = false →
        exec (.start t) s = .next (s.setTenant t
          { y with cmd := 1, st := .running, planner := BitVec.ofNat 3 (s.planTenant t y) })) ∧
      (y.st = .free ∨ y.st = .stopped → y.cls = 0 →
        exec (.start t) s = .next (s.setTenant t { y with cmd := 1, startRefused := true })) ∧
      (y.st = .running → (∀ e ∈ y.queues, e.2.allDone = true) →
        ∃ u, exec (.stop t) s = .next u ∧ (u.tenant t).st = .stopped ∧ (u.tenant t).cmd = 2 ∧ OnlyTenant t s u) ∧
      (y.st = .running → (∃ r : Que, (y.queue r).allDone = false) →
        ∃ u, exec (.stop t) s = .next u ∧ (u.tenant t).st = .stopping ∧ (u.tenant t).cmd = 2 ∧ OnlyTenant t s u) ∧
      (y.st = .free ∨ y.st = .stopped → s.tenantXid t = none →
        exec (.reset t) s = .next (s.setTenant t { y with cmd := 3, st := .resetting })) ∧
      (y.st = .paused → y.whyHost = true → y.whyRebind = false → y.whyFw = false →
        ∃ u, exec (.resume t) s = .next u ∧ (u.tenant t).st = .running ∧ (u.tenant t).whyHost = false)) ∧
  (∀ (t : Ten) (s : State), (s.tenant t).st = .resetting → s.tenantXid t = none →
      (∀ x : Fin 4, (s.xid x).st ≠ .arming) → s.unnamed t = true →
      ∃ u, exec (.tenantResetDone t) s = .next u ∧
        (u.tenant t).st = .free ∧ (u.tenant t).bindAry = 0 ∧ (u.tenant t).bindAtp = 0 ∧ (u.tenant t).bindKey = 0 ∧
        (u.tenant t).conSize = 0 ∧ (u.tenant t).starve = 0 ∧ (u.tenant t).pcHit = 0 ∧ (u.tenant t).pcMiss = 0 ∧
        (u.tenant t).cfgWrBusy = false ∧ (u.tenant t).bindConflict = false ∧ (u.tenant t).startRefused = false ∧ (u.tenant t).cls = 0 ∧
          (u.tenant t).admin = false ∧ (u.tenant t).events = [] ∧
        (u.tenant t).copies = [] ∧ (∀ m : Fin 8, ((u.tenant t).range m).granules = 0) ∧
        (∀ h : Nat, h < 65536 → u.kvSeq t h = none) ∧ (∀ d ∈ u.disp, d.tenant ≠ t.val) ∧
        (∀ a : Ary, (s.tenant t).bindAry.getLsbD a = true → (u.arr a).sid = [] ∧ (u.arr a).acc = [] ∧ (u.arr a).vreg = []))

/-- R138, R139, R57, R123: the binding registers take a value while their tenant is FREE. A bit of TCX_BIND_ARY or TCX_BIND_KEY is set
where the array or key slot may be bound, TCX_BIND_CON takes a span within 256 MiB that may be bound, and what is refused sets
BIND_CONFLICT; TCX_BIND_ATP and the memory-range registers take any value. A write that would
change a binding register of any other tenant sets CFG_WR_BUSY with the register's offset and changes no binding. SETCFG writes the seed
or a window of the configuration page and completes, one that would change the resident-plan base of a running tenant is busy, and
GETCFG's record tells a register's value. -/
def Obligations.BindingsAndConfiguration : Prop :=
  ∀ (t : Ten) (q : Que) (w0 w1 : BitVec 64) (s : State) (v : Reg32) (off : Nat),
    (s.hostWrites = true → (s.tenant t).st = .free →
      exec (.bindingWrite t 0x108 v) s = .next (s.modTenant t (fun y => { y with bindAtp := BitVec.ofNat 16 v.toNat })) ∧
      (∀ m : Fin 8, exec (.bindingWrite t (0x120 + 8 * m) v) s = .next (s.modTenant t (fun y => { y with
        ranges := sset MemRange.init y.ranges m { y.range m with gbase := BitVec.ofNat 27 (bitsOf v.toNat 26 0) } })) ∧
        exec (.bindingWrite t (0x124 + 8 * m) v) s = .next (s.modTenant t (fun y => { y with
          ranges := sset MemRange.init y.ranges m { y.range m with
            tier := BitVec.ofNat 2 (bitsOf v.toNat 31 30), granules := BitVec.ofNat 16 (bitsOf v.toNat 15 0) } })))) ∧
    (s.hostWrites = true → (s.tenant t).st = .free →
      (∀ hi : Bool, ∃ u, exec (.bindingWrite t (if hi then 0x104 else 0x100) v) s = .next u ∧
        (∀ i, i < 32 → (u.tenant t).bindAry.getLsbD (b2n hi * 32 + i) = (v.getLsbD i && s.mayBindAry t (b2n hi * 32 + i))) ∧
        (∀ i, i < 32 → (u.tenant t).bindAry.getLsbD (b2n (!hi) * 32 + i) = (s.tenant t).bindAry.getLsbD (b2n (!hi) * 32 + i)) ∧
        ((u.tenant t).bindConflict = true ↔ (s.tenant t).bindConflict = true ∨
          ∃ i, i < 32 ∧ v.getLsbD i = true ∧ s.mayBindAry t (b2n hi * 32 + i) = false)) ∧
      (∃ u, exec (.bindingWrite t 0x110 v) s = .next u ∧
        (∀ i, i < 32 → (u.tenant t).bindKey.getLsbD i = (v.getLsbD i && s.mayBindKey t i)) ∧
        ((u.tenant t).bindConflict = true ↔ (s.tenant t).bindConflict = true ∨
          ∃ i, i < 32 ∧ v.getLsbD i = true ∧ s.mayBindKey t i = false)) ∧
      (bitsOf v.toNat 7 0 + bitsOf v.toNat 16 8 ≤ 256 → s.mayBindCon t (bitsOf v.toNat 7 0) (bitsOf v.toNat 16 8) = true →
        ∃ u, exec (.bindingWrite t 0x10C v) s = .next u ∧ (u.tenant t).conBase.toNat = bitsOf v.toNat 7 0 ∧
          (u.tenant t).conSize.toNat = bitsOf v.toNat 16 8 ∧ (u.tenant t).bindConflict = (s.tenant t).bindConflict) ∧
      (256 < bitsOf v.toNat 7 0 + bitsOf v.toNat 16 8 ∨ s.mayBindCon t (bitsOf v.toNat 7 0) (bitsOf v.toNat 16 8) = false →
        exec (.bindingWrite t 0x10C v) s = .next (s.modTenant t (fun y => { y with bindConflict := true })))) ∧
    (s.hostWrites = true → (s.tenant t).st ≠ .free → isBindOff off = true → v.toNat &&& bindMask off ≠ (s.tenant t).bindReg off →
      ∃ u, exec (.bindingWrite t off v) s = .next u ∧ (u.tenant t).cfgWrBusy = true ∧ (u.tenant t).cfgOff = BitVec.ofNat 15 off ∧
        (u.tenant t).bindAry = (s.tenant t).bindAry ∧ (u.tenant t).bindReg = (s.tenant t).bindReg) ∧
    (pOp w0 = 0x30 → MayIssue s t q w0 w1 → pf w0 14 0 ≠ 0x1008 → pf w0 14 0 ≠ 0x100C →
      ∃ u, exec (.setcfg t q w0 w1) s = .next u ∧ DoneAtHead s u t q w0 0 ∧ OnlyTenant t s u ∧
        (pf w0 14 0 = 0x1000 → (u.tenant t).seedShadow.toNat = (s.tenant t).seedShadow.toNat / 2 ^ 32 * 2 ^ 32 + pf w1 31 0) ∧
        (pf w0 14 0 = 0x1004 →
          (u.tenant t).seedShadow.toNat = (s.tenant t).seedShadow.toNat % 2 ^ 32 + pf w1 31 0 * 2 ^ 32) ∧
        (∀ i : Fin 16, pf w0 14 0 = 0x1100 + 8 * i →
          ((u.tenant t).scale i).windowShadow.toNat = max 1 (min 16 (bitsOf (pf w1 31 0) 20 16)))) ∧
    (pOp w0 = 0x30 → MayIssue s t q w0 w1 → (pf w0 14 0 = 0x1008 ∨ pf w0 14 0 = 0x100C) →
      pf w1 31 0 ≠ (s.tenant t).cfgReg (pf w0 14 0) →
      ∃ u, exec (.setcfg t q w0 w1) s = .next u ∧ (u.tenant t).res = (s.tenant t).res ∧ (u.tenant t).cfgWrBusy = true ∧
        (u.queue t q).head = (s.queue t q).head + BitVec.ofNat 32 (pSlots w0)) ∧
    (pOp w0 = 0x31 → MayIssue s t q w0 w1 →
      ∃ u, exec (.getcfg t q w0 w1) s = .next u ∧ DoneAtHead s u t q w0 ((s.tenant t).cfgReg (pf w0 14 0)) ∧ OnlyTenant t s u)

/-- R140, R141, R142, R144, R145, R146: a REBIND without NOW that is not refused is in progress, and one that is refused faults its queue,
with the head left before it (DEDUCED, notes/assumptions/24.md); a SCRUB of a resource of the binding that no other job holds is accepted
at once, a REBIND when the DISPATCHes before it that use the resource are done, and an array quiesces from then on; when the quiesce of a
pipeline is over, its binding switches. A leg still running 1 ms after acceptance is discarded, and its DISPATCH faults with REBIND_LOST.
The management processor moves a tenant of a planner more than 25 percentage points busier than the least busy one to that planner. -/
def Obligations.RebindAndScrub : Prop :=
  ∀ (t : Ten) (q : Que) (w0 w1 : BitVec 64) (s : State) (j : RebindJob) (p : Pipe) (g : Leg) (f : Ten),
    (pOp w0 = 0x20 → MayIssue s t q w0 w1 → (s.tenant t).rebind = none → w0.getLsbD 43 = false →
      rebindRefused (rebindJobOf q (atHead s t q w0 w1) s.dispNext) s = false →
      ∃ u, exec (.rebind t q w0 w1) s = .next u ∧ OpenAtHead s u t q w0 ∧ OnlyTenant t s u ∧
        (u.tenant t).rebind = some (rebindJobOf q (atHead s t q w0 w1) s.dispNext)) ∧
    (pOp w0 = 0x20 → MayIssue s t q w0 w1 → (s.tenant t).rebind = none →
      rebindRefused (rebindJobOf q (atHead s t q w0 w1) s.dispNext) s = true →
      ∃ u, exec (.rebind t q w0 w1) s = .next u ∧ (u.queue t q).st = .faulted ∧ (u.queue t q).fcode = 0x3301 ∧
        (u.queue t q).head = (s.queue t q).head) ∧
    (pOp w0 = 0x21 → MayIssue s t q w0 w1 → (s.tenant t).rebind = none →
      scrubFails t (pf w0 47 44) (pf w0 7 0) s = none →
      s.contested t ⟨q, (s.queue t q).head, s.dispNext, true, pf w0 47 44, true, some t, some t, pf w0 7 0, 0, false, 0⟩ = false →
      ∃ u, exec (.scrub t q w0 w1) s = .next u ∧ OpenAtHead s u t q w0 ∧
        (u.tenant t).rebind = some ⟨q, (s.queue t q).head, s.dispNext, true, pf w0 47 44, true, some t, some t, pf w0 7 0, 0, true,
          s.glb.devTime⟩ ∧
        (pf w0 47 44 = 0 → (u.arr (pf w0 7 0)).quiesce = true)) ∧
    ((s.tenant t).rebind = some j → j.q = q.val → j.accepted = false → (∀ d ∈ s.disp, j.usedBy s d = false) →
      s.contested t j = false → s.jobStands t j = true →
      ∃ u, exec (.rebindAccept t q) s = .next u ∧
        (u.tenant t).rebind = some { j with accepted := true, acceptTime := s.glb.devTime } ∧
        (j.kind = 0 → j.fromT.isSome → j.item < 64 → (u.arr j.item).quiesce = true)) ∧
    ((s.tenant t).rebind = some j → j.q = q.val → j.accepted = true → s.jobStands t j = true → s.quiesceOver j = true → j.kind = 2 →
      j.isScrub = false →
      j.item < 16 → j.fromT = some f → j.toT = some t → f ≠ t →
      ∃ u, exec (.scrubDone t q) s = .next u ∧ (u.tenant t).rebind = none ∧
        (u.tenant t).bindAtp.getLsbD j.item = true ∧ (u.tenant f).bindAtp.getLsbD j.item = false) ∧
    ((s.pipeline p).leg = some g → (s.tenant t).rebind = some j → j.stopsLeg p g.req.tenant = true →
      j.acceptTime + 100000 ≤ s.glb.devTime →
      ∃ u, exec (.legQuiesceTimeout p) s = .next u ∧ (u.pipeline p).leg = none ∧
        (∀ d ∈ s.disp, d.id = g.req.disp → d.fault = none →
          ∃ d' ∈ u.disp, d'.id = d.id ∧ d'.discard = true ∧ d'.fault = some (0x3302, BitVec.ofNat 64 (unitPipe p)))) ∧
    (∀ (shares : List Nat) (c : Nat), s.sec.balanceTime + 10000000 ≤ s.glb.devTime → 1 ≤ c → c ≤ 4 →
      (∀ i, i < 4 → i ≠ c - 1 → shares.getD (c - 1) 0 < shares.getD i 0) →
      1 ≤ (s.tenant t).planner.toNat → (s.tenant t).planner.toNat ≤ 4 →
      shares.getD (c - 1) 0 + 25 < shares.getD ((s.tenant t).planner.toNat - 1) 0 →
      (s.tenant t).movedAt = 0 ∨ (s.tenant t).movedAt + 100000000 ≤ s.glb.devTime →
      s.compHeld .mgmt = false → s.compHeld (plannerComp c) = false → (∀ r : Que, (s.queue t r).waiting = none) →
      exec (.plannerBalance shares t) s = .next { (s.setTenant t { s.tenant t with
        planner := BitVec.ofNat 3 c, movedAt := s.glb.devTime }) with
        sec := { s.sec with balanceTime := s.glb.devTime } })

/-! ## The machine -/

/-- A step carries out the command at the front of the queue on the state with the queue's rest; on an empty queue one cycle of the
reference clock passes (the model's choice: notes/assumptions/1.md). -/
def Obligations.StepTakesTheFront : Prop :=
  (∀ (c : Instr) (s : State), step { s with pending := c :: s.pending } = exec c s) ∧
  (∀ s : State, s.pending = [] → step s = .next { s with glb := { s.glb with devTime := s.glb.devTime + 1 } })

/-- Every command is carried out in every state, but for an access that passes the end of the 64 MiB of BAR0 (R328), which stops with its
own fault. The stop is the model's (notes/assumptions/68.md), and so is the answer to an event that cannot happen in its state, which
leaves the machine as it was (notes/assumptions/2.md). -/
def Obligations.EveryCommandIsCarriedOut : Prop :=
  ∀ (c : Instr) (s : State),
    (∀ off size, barAccess c = some (off, size) → 2 ^ 26 < off + size → exec c s = .fault .outsideBar0) ∧
    ((∀ off size, barAccess c = some (off, size) → off + size ≤ 2 ^ 26) → ∃ u, exec c s = .next u)

/-- No command changes a fuse, and none changes the commands that wait: they leave the queue one a step, in order. -/
def Obligations.StepKeepsFusesAndQueueOrder : Prop :=
  ∀ s u : State, step s = .next u → u.fuse = s.fuse ∧ u.pending = s.pending.tail

/-- Every step keeps the concourse, stacked memory, their poison marks and the yard in canonical form. -/
def Obligations.StepKeepsMemoryCanonical : Prop :=
  ∀ s u : State, s.mtc.wf = true → step s = .next u → u.mtc.wf = true

/-- What the spec gives for reset: state RESET with cause POR_N, no host, no fault; queues DISABLED, tenants FREE, arrays IDLE with
SEG_LIMIT at its maximum, copies EMPTY, windows closed, the peer link DOWN, express indices DISARMED, depot ports READY, the
migration policy's values; memory in canonical form and no command waiting. -/
def Obligations.ResetValues : Prop :=
  let s := State.reset
  s.glb.st = .reset ∧ s.glb.cause = 0x01 ∧ s.glb.attached = false ∧ s.glb.safeHoldN = false ∧ s.glb.msixPba = 0 ∧
  (∀ t : Ten, (s.tenant t).st = .free ∧ (s.tenant t).bindAry = 0 ∧ (s.tenant t).bindAtp = 0 ∧ (s.tenant t).bindKey = 0 ∧
    ∀ i : Fin 16, ((s.tenant t).scale i).window = 0x10) ∧
  (∀ (t : Ten) (q : Que), (s.queue t q).st = .disabled ∧ (s.queue t q).head = 0 ∧ (s.queue t q).tail = 0) ∧
  (∀ (t : Ten) (c : Fin 4), ((s.tenant t).copy c).st = .empty) ∧
  (∀ a : Ary, (s.arr a).st = .idle ∧ (s.arr a).segLimit = 0x16E360 ∧ (s.arr a).slot0.st = .empty ∧ (s.arr a).slot1.st = .empty) ∧
  (∀ p : Pipe, (s.pipeline p).st = .idle) ∧
  (∀ x : Fin 4, (s.xid x).st = .disarmed) ∧
  (∀ p : WscPort, (s.wsc p).st = .ready) ∧
  (∀ k : Fin 32, (s.keySlot k).installed = false) ∧
  (∀ w : Fin 64, ∀ peer : Bool, (s.window peer w).open_ = false) ∧
  s.win.link = .down ∧ s.mtc.auto = true ∧ s.mtc.promote = 0x40 ∧ s.mtc.hyst = 0x10 ∧ s.mtc.rate = 0x30 ∧ s.mtc.spares = 64 ∧
  s.frc.summary = 0 ∧ s.frc.firstValid = false ∧ s.frc.logWr = 0 ∧ s.mtc.wf = true ∧ s.pending = []

/-! ## Key-value sequences -/

/-- R181, R183, R184, R187: KVOPEN of a valid list under a free handle writes its header and opens it, and of any other list faults with
KV_LIST_INVALID and no effect; KVAPPEND adds tokens and pages when nothing is to be sealed, and faults with KV_HANDLE on a handle that is
not open; KVCLOSE with nothing to seal and nothing standing against it clears OPEN and frees the handle. -/
def Obligations.KeyValueOpenAppendClose : Prop :=
  ∀ (t : Ten) (q : Que) (w0 w1 : BitVec 64) (s : State) (v : KvSeq),
    let hd := pf w0 47 32
    let addr := pf w1 47 0
    let h := { readHdr t addr s with form := pf w0 31 28, psize := pf w0 27 24 }
    let hv := readHdr t v.addr s
    let es := readEntries t v.addr 0 hv.length s
    let opens := appendPages hv es (pf w0 23 0)
    (pOp w0 = 0x18 → MayIssue s t q w0 w1 → listFits (s.tenant t) addr h = true → s.kvSeq t hd = none →
      (s.kv.seqs.filter (fun e => e.1 / 65536 == t.val)).length < 4096 →
      ∃ u, exec (.kvopen t q w0 w1) s = .next u ∧ DoneAtHead s u t q w0 0 ∧
        u.kvSeq t hd = some ⟨addr, [], 0, [], [], []⟩ ∧
        u.mtc = (writeHdr t addr { h with
          gen := 0, length := 0, tokens := 0, owner := t, isOpen := true, spillHead := 0, spillTail := 0 } s).mtc) ∧
    (pOp w0 = 0x18 → MayIssue s t q w0 w1 → listFits (s.tenant t) addr h = false →
      ∃ u, exec (.kvopen t q w0 w1) s = .next u ∧ (u.queue t q).st = .faulted ∧ (u.queue t q).fcode = 0x4405 ∧ u.kv = s.kv ∧
        u.mtc = s.mtc) ∧
    (pOp w0 = 0x19 → MayIssue s t q w0 w1 → s.kvSeq t hd = some v → appendFails t v hv es (pf w0 23 0) s = none →
      v.full es hv.tokens = [] → v.slotBusy hv opens (v.walkPages ++ v.sealsDue) = false →
      ∃ u, exec (.kvappend t q w0 w1) s = .next u ∧ DoneAtHead s u t q w0 0 ∧
        u.mtc = (appendEffect t hd (pf w0 23 0) v s).mtc ∧
        u.kvSeq t hd = some (if hv.seals then { v with
          unsealed := v.unsealed ++ (List.range opens).map (fun i => hv.length + i) } else v)) ∧
    (pOp w0 = 0x19 → MayIssue s t q w0 w1 → s.kvSeq t hd = none →
      ∃ u, exec (.kvappend t q w0 w1) s = .next u ∧ (u.queue t q).st = .faulted ∧ (u.queue t q).fcode = 0x4401) ∧
    (pOp w0 = 0x1B → MayIssue s t q w0 w1 → s.kvSeq t hd = some v → v.full es hv.tokens = [] → v.walks = [] → v.sealsDue = [] →
      v.waits = [] →
      let s1 := (issueOpen t q (atHead s t q w0 w1) (passTurn t q s)).setKvSeq t hd
        (some { v with waits := [⟨q, (s.queue t q).head, .close⟩] })
      ∃ u, exec (.kvclose t q w0 w1) s = .next u ∧ DoneAtHead s u t q w0 0 ∧ u.kvSeq t hd = none ∧
        u.mtc = (writeHdr t v.addr { readHdr t v.addr s1 with isOpen := false } s1).mtc)

/-- R186 to R188: KVEDIT TRUNC, REMAP, DROP, POS0 and UNSPILL take effect at once when no walk and no seal stands against them, and
complete with the edit's code and no effect on the sequence when its condition fails (what UNSPILL finds no room or no key for is noted as
a memory fault, R227); a registered walk defers them, with the event
KV_EDIT_DEFERRED. SEAL with no full page raises the generation, and with full pages begins their seals. -/
def Obligations.KeyValueEdits : Prop :=
  ∀ (t : Ten) (q : Que) (w0 w1 : BitVec 64) (s : State) (v v2 : KvSeq) (s2 : State) (c : BitVec 16) (k : Fin 5),
    let hd := pf w0 47 32
    let issued := issueOpen t q (atHead s t q w0 w1) (passTurn t q s)
    let queued (op : KvOp) := issued.setKvSeq t hd (some { v with waits := [⟨q, (s.queue t q).head, op⟩] })
    let hv := readHdr t v.addr s
    let full := v.full (readEntries t v.addr 0 hv.length s) hv.tokens
    MayIssue s t q w0 w1 → s.kvSeq t hd = some v → v.waits = [] → v.sealsDue = [] →
    (isKvedit w0 (k + 1) = true → v.walks = [] → editRun t v (editOf k w1) (queued (editOf k w1)) = .ok (v2, s2) →
      ∃ u, exec (editCommand k t q w0 w1) s = .next u ∧ DoneAtHead s u t q w0 0 ∧ u.kvSeq t hd = some v2 ∧ u.mtc = s2.mtc) ∧
    (isKvedit w0 (k + 1) = true → v.walks = [] → editRun t v (editOf k w1) (queued (editOf k w1)) = .error c → c ≠ 0 →
      c ≠ 0x3204 →
      ∃ u, exec (editCommand k t q w0 w1) s = .next u ∧ (u.queue t q).st = .faulted ∧ (u.queue t q).fcode = c ∧
        u.kvSeq t hd = some v ∧ u.mtc = (noteMem c t v.addr s).mtc) ∧
    (isKvedit w0 (k + 1) = true → v.walks ≠ [] →
      exec (editCommand k t q w0 w1) s = .next (record 0x4402 (some t) unitNone 0 v.addr (queued (editOf k w1)))) ∧
    (isKvedit w0 6 = true → v.walks = [] → full = [] →
      ∃ u, exec (.kveditSeal t q w0 w1) s = .next u ∧ DoneAtHead s u t q w0 0 ∧ u.kvSeq t hd = some v ∧
        u.mtc = (writeHdr t v.addr { hv with gen := hv.gen + 1 } s).mtc) ∧
    (isKvedit w0 6 = true → v.walks = [] → full ≠ [] → (s.queue t q).allDone = true →
      ∃ u, exec (.kveditSeal t q w0 w1) s = .next u ∧ OpenAtHead s u t q w0 ∧
        u.kvSeq t hd = some { v with sealsDue := full, waits := [⟨q, (s.queue t q).head, .sealWait true full⟩] } ∧ u.mtc = s.mtc)

/-- R178 to R181, R187, R189: a page whose seal is due is sealed on a free pipeline whose turn it is, and is sealed from then on; a
walk that has ended leaves its sequence; SPILLHINT with nothing to move completes with 0, and one with work waits for the shunter; the
last page asked for completes it with the number of pages moved. -/
def Obligations.SealsWalksAndSpills : Prop :=
  ∀ (p : Pipe) (t : Ten) (q : Que) (hd : BitVec 16) (page walk n i at_ : Nat) (w0 w1 : BitVec 64) (s s2 : State) (v : KvSeq)
    (e : KvEntry) (h : KvHdr) (w : KvWait),
    let hv := readHdr t v.addr s
    let en := (readEntries t v.addr 0 hv.length s).getD page ⟨0, false, 0⟩
    let slot := modelRead t (hv.slotBase (v.slot hv page)) hv.slotBytes s
    let done := sealPage hv slot.1
    let spilling := (issueOpen t q (atHead s t q w0 w1) (passTurn t q s)).setKvSeq t (pf w0 47 32)
      (some { v with waits := [⟨q, (s.queue t q).head, .spill (pf w0 15 0) 0⟩] })
    (s.kvSeq t hd.toNat = some v → v.waits = [] → s.pipeFree p = true → s.pipeTurn p = some t.val → page ∈ v.sealsDue →
      modelWrite t (hv.pageBase en) done.1 (addHeat t (hv.slotBase (v.slot hv page)) hv.slotBytes slot.2) = .ok s2 →
      (hv.form = 3 → ∃ u, exec (.pageSealFp8 p t hd page) s = .next u ∧
        u.kvSeq t hd.toNat = some { v with unsealed := v.unsealed.erase page, sealsDue := v.sealsDue.erase page } ∧
        (u.pipeline p).seals = satAdd (s.pipeline p).seals 1 ∧ (u.pipeline p).sealSat = satAdd (s.pipeline p).sealSat done.2 ∧
        u.mtc.con = s2.mtc.con ∧ u.mtc.stk = s2.mtc.stk ∧ u.mtc.yard = s2.mtc.yard) ∧
      (hv.form = 9 → ∃ u, exec (.pageSealK3 p t hd page) s = .next u ∧
        u.kvSeq t hd.toNat = some { v with unsealed := v.unsealed.erase page, sealsDue := v.sealsDue.erase page } ∧
        (u.pipeline p).seals = satAdd (s.pipeline p).seals 1 ∧ (u.pipeline p).sealSat = satAdd (s.pipeline p).sealSat done.2 ∧
        u.mtc.con = s2.mtc.con ∧ u.mtc.stk = s2.mtc.stk ∧ u.mtc.yard = s2.mtc.yard)) ∧
    (s.kvSeq t hd.toNat = some v → v.waits = [] → (∃ x ∈ v.walks, x.id = walk ∧ x.done = true) →
      exec (.walkEnd t hd walk) s =
        .next (s.setKvSeq t hd.toNat (some { v with walks := v.walks.filter (fun x => x.id != walk) }))) ∧
    (pOp w0 = 0x23 → MayIssue s t q w0 w1 → s.kvSeq t (pf w0 47 32) = some v → v.waits = [] → v.walks = [] → v.sealsDue = [] →
      (spillWork t v spilling = none →
        ∃ u, exec (.spillhint t q w0 w1) s = .next u ∧ DoneAtHead s u t q w0 0 ∧ u.kvSeq t (pf w0 47 32) = some v ∧
          u.mtc = s.mtc) ∧
      (spillWork t v spilling ≠ none → s.compHeld .shunt = false → 0 < pf w0 15 0 →
        exec (.spillhint t q w0 w1) s = .next spilling)) ∧
    (s.kvSeq t hd.toNat = some v → v.waits = [w] → w.op = .spill (n + 1) n → v.walks = [] → v.sealsDue = [] →
      s.compHeld .shunt = false → spillWork t v s = some (i, e, at_, h) →
      spillPage t (h.pageBase e) (h.pageBase ⟨e.code, true, at_⟩) (h.pageBytes e.tokens) s = .ok s2 →
      ∃ u, exec (.pageSpill t hd) s = .next u ∧ u.kvSeq t hd.toNat = some { v with waits := [] } ∧
        u.mtc = (writeHdr t v.addr { h with
          spillHead := (at_ + h.pageFrames e.tokens) % max (h.spillGran * 512) 1 }
          (putModel t (v.addr + 0x40 + 4 * i) (unmarked (KvEntry.bytes ⟨e.code, true, at_⟩)) s2)).mtc ∧
        (∀ x ∈ (s.queue t w.q).issued, x.idx = w.idx → x.status = none → x.cpl = true →
          { x with status := some 0, value := BitVec.ofNat 64 (n + 1), detail := 0 } ∈ (u.queue t w.q).issued))

/-! ## Model memory and its tiers -/

/-- R112, R153, R208, R209, R201: a level-2 transfer of a DISPATCH into its partition moves its bytes, one block or descriptor fewer is
left, and its wait counter rises; the copy of a PREFETCH completes it; a GATHER from the partition with every index below the limit and
unpoisoned writes its rows in list order, and one with an index at or above it faults its DISPATCH with GATHER_INDEX and moves nothing. A
descriptor counts as one of a block of the tiling while such a block is due (notes/assumptions/59.md). -/
def Obligations.TransfersAndGathers : Prop :=
  ∀ (d : Descriptor) (e : MoveErr) (i : Nat) (t : Ten) (a : Ary) (k : Fin 16) (s s1 : State) (x : Dispatch) (j : MigrateJob)
    (m c n list count bytes src stride limit dst : Nat) (is : List Nat),
    let s0 := (startDispatch i s).modDispatch i (fun x => { x with descsLeft := x.descsLeft - 1 })
    (d.disp = some i → d.tenant = t → d.move = .memToCon m c n → d.tq = some (a, k) → s.dispatch? i = some x → x.id = i →
      x.tenant = t.val → x.expects d = true → s.mayFinish i = true → s.moveFits t d.move = true →
      x.copy.bind (fun c => poisonedRead ((s.tenant t).copy c) [(m, n)]) = none → s.aryTenant a = some t.val →
      moveBytes t d.move e (startDispatch i s) = .ok s1 →
      ∃ u, exec (.transferDescriptorComplete d e) s = .next u ∧ u.mtc = s1.mtc ∧
        u.disp = s1.disp.map (fun y => if y.id = i then { y with
          reads := (y.haveRead [(m, n)]).reads
          descsLeft := if y.due2 d = 0 then y.descsLeft - 1 else y.descsLeft
          blocks2 := if y.due2 d = 0 then y.blocks2 else y.blocks2 - 1 } else y) ∧
        sget 0 (u.arr a).tq k = satAdd (sget 0 (s1.arr a).tq k) 1) ∧
    (d.disp = none → d.tenant = t → d.move = .memToCon m c n →
      (s.tenant t).migrates.find? (fun j => j.copy == some (m, c, n)) = some j → moveBytes t d.move e s = .ok s1 →
      ∃ u, exec (.transferDescriptorComplete d e) s = .next u ∧ u.mtc = s1.mtc ∧
        (u.tenant t).migrates = (s1.tenant t).migrates.filter (· != j)) ∧
    (s.dispatch? i = some x → x.tenant = t.val → x.descsLeft ≠ 0 → s.mayFinish i = true → 1 ≤ count → count ≤ 65536 →
      bytes % 32 = 0 → 32 ≤ bytes → bytes ≤ 65536 →
      (s.tenantPart t).allows false list (4 * count) = true → (s.tenantPart t).allows true dst (bytes * count) = true →
      (gatherIndices (s0.partRead (s.tenantPart t) list (4 * count)) = is.map (fun k => (k, false)) → (∀ k ∈ is, k < limit) →
        (∀ k ∈ is, (s.tenantPart t).allows false (src + k * stride) bytes = true) →
        exec (.gather i t list count bytes false src stride limit dst ⟨[], [], []⟩) s =
          .next (is.zipIdx.foldl (fun u k => partWrite (s.tenantPart t) (dst + k.2 * bytes)
            (u.partRead (s.tenantPart t) (src + k.1 * stride) bytes) u) s0)) ∧
      ((∃ k ∈ gatherIndices (s0.partRead (s.tenantPart t) list (4 * count)), k.2 = false ∧ limit ≤ k.1) →
        ∃ u, exec (.gather i t list count bytes false src stride limit dst ⟨[], [], []⟩) s = .next u ∧
          u.mtc.con = s.mtc.con ∧ u.mtc.stk = s.mtc.stk ∧ u.mtc.yard = s.mtc.yard ∧
          ∀ y ∈ s.disp, y.id = i → y.fault = none → ∃ y' ∈ u.disp, y'.id = i ∧ y'.discard = true ∧
            y'.fault = some (0x1304, 0xFFFF)))

/-- R203, R204, R207, R208: MIGRATE, and PREFETCH to stacked memory, queue a move for every granule named; with the shunter held they
complete, each granule declined. The shunter takes one move at a time, gives its granule a place in the other tier, and at the switch the
map names the new place and the move is counted (that the shunter takes the place at the head of its list is notes/assumptions/16.md's,
that one move runs at a time notes/assumptions/39.md's); with SHUNT held no move ends (R304). PREFETCH to the partition waits for its
copy, and one of no bytes completes. -/
def Obligations.GranulesMoveBetweenTiers : Prop :=
  ∀ (t : Ten) (q : Que) (w0 w1 : BitVec 64) (s : State) (v : GMove) (p p' : Nat) (r : List Nat) (src dst : Loc) (gs : List Nat)
    (g : Nat),
    let first : GMove := ⟨t, pf w1 47 21, pf w0 47 46 == 1, .command q (s.queue t q).head, false⟩
    let named := (List.range (pf w0 15 0 + 1)).map (pf w1 47 21 + ·)
    (pOp w0 = 0x22 → MayIssue s t q w0 w1 → s.compHeld .shunt = false → s.mtc.moves = [] → s.turn first ≠ .no →
      ∃ u, exec (.migrate t q w0 w1) s = .next u ∧ OpenAtHead s u t q w0 ∧
        u.mtc = { s.mtc with moves := named.map (fun g => { first with g := g }) } ∧
        (u.tenant t).migrates = (s.tenant t).migrates ++ [⟨q, (s.queue t q).head, none⟩]) ∧
    (pOp w0 = 0x22 → MayIssue s t q w0 w1 → s.compHeld .shunt = true →
      ∃ u, exec (.migrate t q w0 w1) s = .next u ∧ DoneAtHead s u t q w0 0 ∧
        u.mtc = { s.mtc with declined := satAdd s.mtc.declined (pf w0 15 0 + 1) }) ∧
    (pOp w0 = 0x24 → MayIssue s t q w0 w1 → pf w0 47 46 = 0 → s.compHeld .shunt = false → s.mtc.moves = [] →
      granulesOf (pf w1 47 0) (pf w0 29 0) = g :: gs →
      s.turn ⟨t, g, false, .command q (s.queue t q).head, false⟩ ≠ .no →
      ∃ u, exec (.prefetch t q w0 w1) s = .next u ∧ OpenAtHead s u t q w0 ∧
        u.mtc = { s.mtc with moves := (g :: gs).map (fun g => ⟨t, g, false, .command q (s.queue t q).head, false⟩) }) ∧
    (pOp w0 = 0x24 → MayIssue s t q w0 w1 → pf w0 29 0 = 0 → s.compHeld .shunt = false → s.mtc.moves = [] →
      pf w0 45 30 * 4096 ≤ (s.tenant t).conSize.toNat * 2 ^ 20 →
      ∃ u, exec (.prefetch t q w0 w1) s = .next u ∧ DoneAtHead s u t q w0 0) ∧
    (pOp w0 = 0x24 → MayIssue s t q w0 w1 → pf w0 47 46 ≠ 0 → pf w0 29 0 ≠ 0 →
      pf w0 45 30 * 4096 + pf w0 29 0 ≤ (s.tenant t).conSize.toNat * 2 ^ 20 →
      ∃ u, exec (.prefetch t q w0 w1) s = .next u ∧ OpenAtHead s u t q w0 ∧ u.mtc = s.mtc ∧
        (u.tenant t).migrates =
          (s.tenant t).migrates ++ [⟨q, (s.queue t q).head, some (pf w1 47 0, pf w0 45 30 * 4096, pf w0 29 0)⟩]) ∧
    (s.compHeld .shunt = false → s.mtc.moves = [v] → v.running = false → s.mtc.rateBytes = 0 → v.why ≠ .repair →
      (∀ e ∈ s.mtc.map, ∀ f, e.2.st = .yard f → s.mtc.wornFrame f = false) →
      (v.toYard = true → (s.mtc.granule v.tenant v.g).st = .stacked p → s.mtc.yardFree ≠ 0 → s.mtc.yardBack = p' :: r →
        (s.tenant v.tenant).mkSlot ≠ none → (((s.tenant v.tenant).rangeOf v.g).getD ⟨0, 0, 0⟩).allowsYard = true →
        ∃ u, exec .granuleMove s = .next u ∧ (u.mtc.granule v.tenant v.g).st = .moving ⟨false, p⟩ ⟨true, p'⟩ ∧
          (u.mtc.granule v.tenant v.g).heat = (s.mtc.granule v.tenant v.g).heat ∧
          u.mtc.moves = [{ v with running := true }] ∧ u.mtc.yardFree = s.mtc.yardFree - 1 ∧ u.mtc.yardBack = r ∧
          u.mtc.stk = s.mtc.stk ∧ u.mtc.yard = s.mtc.yard) ∧
      (v.toYard = false → v.why = .command q (s.queue t q).head → (s.mtc.granule v.tenant v.g).st = .yard p →
        s.mtc.stkFree ≠ 0 → s.mtc.stkBack = p' :: r →
        (((s.tenant v.tenant).rangeOf v.g).getD ⟨0, 0, 0⟩).allowsStacked = true →
        ∃ u, exec .granuleMove s = .next u ∧ (u.mtc.granule v.tenant v.g).st = .moving ⟨true, p⟩ ⟨false, p'⟩ ∧
          (u.mtc.granule v.tenant v.g).heat = 255 ∧ u.mtc.moves = [{ v with running := true }] ∧
          u.mtc.stkFree = s.mtc.stkFree - 1 ∧ u.mtc.stkBack = r ∧ u.mtc.stk = s.mtc.stk ∧ u.mtc.yard = s.mtc.yard)) ∧
    (s.compHeld .shunt = true → exec .granuleSwitch s = .next s) ∧
    (s.compHeld .shunt = false → s.mtc.moves = [v] → v.running = true → (s.mtc.granule v.tenant v.g).st = .moving src dst →
      (dst.yard = true → (s.tenant v.tenant).mkSlot ≠ none) →
      ∃ u, exec .granuleSwitch s = .next u ∧ u.mtc.moves = [] ∧ u.mtc.moved = satAdd s.mtc.moved 1 ∧
        (u.mtc.granule v.tenant v.g).st = (if dst.yard then .yard dst.p else .stacked dst.p))

/-- R204, R205: a granule that moves within stacked memory reads the same bytes in its new place. -/
def Obligations.MovedGranuleKeepsItsBytes : Prop :=
  ∀ (s : State) (v : GMove) (p p' o : Nat), s.compHeld .shunt = false → s.mtc.moves.find? (·.running) = some v →
    (s.mtc.granule v.tenant v.g).st = .moving ⟨false, p⟩ ⟨false, p'⟩ → o < 2 ^ 21 →
    ∃ u, exec .granuleSwitch s = .next u ∧ sget 0 u.mtc.stk (p' * 2 ^ 21 + o) = sget 0 s.mtc.stk (p * 2 ^ 21 + o)

/-- R214, R218, R219, R220, R225: a yard page write stores the page packed, encrypted and tagged under the next EPOCH; a read whose
units are good on a second reading counts them, and tags that fail both are YARD_TAG_FAIL, counted, and their units read as poison from
then on, as a page with an uncorrectable record does; a stacked read counts link retries, and a fourth failure is SM_LINK_FAIL; the word
of one, and of an uncorrectable error, is poison, and such an error retires its granule. That a fourth failure ends the
retries, that what failed stays poison until it is written and that such a record counts every unit stored are notes/assumptions/39.md's
readings. -/
def Obligations.PageAndStackedAccesses : Prop :=
  ∀ (t : Ten) (addr crc : Nat) (page : Bytes) (k : Bytes × Bytes) (l : Loc) (b1 b2 : List (Fin 8)) (s : State),
    let f := l.p * 512 + addr % 2 ^ 21 / 4096
    let r := s.locPage t l addr (b1.map (·.val)) (b2.map (·.val))
    let home := (s.gran t (addr / 2 ^ 21)).st.home
    let lost := ((b1.map (·.val)).filter (b2.map (·.val)).contains).filter (fun u => decide (u < (s.mtc.page f).units.length))
    let retried := { s with mtc := { s.mtc with linkRetry := satAdd s.mtc.linkRetry (min crc 3) } }
    let poisoned := sset false s.mtc.stkPoison ((l.p * 2 ^ 21 + addr % 2 ^ 21) / 8) true
    ((s.gran t (addr / 2 ^ 21)).st = .yard l.p → l.yard = true → s.mtc.wornFrame l.p = false → addr % 4096 = 0 →
      page.length = 4096 → s.tenantKeys t = some k → (s.locPage t l addr [] []).bytes.length = 4096 →
      exec (.yardPageWrite t addr page) s = .next { s with mtc := { s.mtc with
        yard := sset YPage.init s.mtc.yard f (encodePage k t f addr (s.mtc.page f) (unmarked page)) } }) ∧
    (home = some l → l.yard = true → r.fails = 0 → lost = [] →
      exec (.yardPageRead t addr b1 b2 false) s =
        .next { s with mtc := { s.mtc with tagReread := satAdd s.mtc.tagReread r.rereads } }) ∧
    (home = some l → l.yard = true → r.fails ≠ 0 →
      ∃ u, exec (.yardPageRead t addr b1 b2 false) s = .next u ∧ u.mtc.tagFail = satAdd s.mtc.tagFail r.fails ∧
        u.frc.summary.getLsbD 0 = true ∧
        (s.mtc.faultValid = false → u.mtc.faultCode = 0x1301 ∧ u.mtc.faultTenant = BitVec.ofNat 5 t) ∧
        (lost ≠ [] → u.mtc.yard = sset YPage.init s.mtc.yard f ((s.mtc.page f).broken lost))) ∧
    (home = some l → l.yard = true → ∃ u, exec (.yardPageRead t addr b1 b2 true) s = .next u ∧
      u.mtc.yard = sset YPage.init s.mtc.yard f { s.mtc.page f with mode := 3 } ∧
      u.mtc.tagFail = satAdd s.mtc.tagFail (max 1 (s.mtc.page f).units.length) ∧ u.frc.summary.getLsbD 0 = true ∧
      (s.mtc.faultValid = false → u.mtc.faultCode = 0x1301 ∧ u.mtc.faultTenant = BitVec.ofNat 5 t)) ∧
    (home = some l → l.yard = false → crc ≤ 3 → exec (.stackedMemoryRead t addr crc false false) s = .next retried) ∧
    (home = some l → l.yard = false → 3 < crc →
      ∃ u, exec (.stackedMemoryRead t addr crc false false) s = .next u ∧ u.mtc.linkFail = satAdd s.mtc.linkFail 1 ∧
        u.mtc.linkRetry = satAdd s.mtc.linkRetry 3 ∧ u.frc.summary.getLsbD 0 = true ∧ u.mtc.stkPoison = poisoned) ∧
    (home = some l → l.yard = false → crc ≤ 3 → l.p ∈ s.mtc.bad →
      exec (.stackedMemoryRead t addr crc true false) s =
        .next { retried with mtc := { retried.mtc with stkPoison := poisoned } }) ∧
    ((s.gran t (addr / 2 ^ 21)).st = .stacked l.p → l.p ∉ s.mtc.bad → s.compHeld .shunt = false →
      ∃ u, exec (.stackedMemoryRead t addr crc true false) s = .next u ∧ u.mtc.bad = s.mtc.bad ++ [l.p] ∧
        u.mtc.stkPoison = poisoned ∧
        (s.mtc.spares = 0 → (u.gran t (addr / 2 ^ 21)).st = .retired l.p) ∧
        (s.mtc.spares ≠ 0 → u.mtc.spares = s.mtc.spares - 1 ∧
          ∃ p, (u.gran t (addr / 2 ^ 21)).st = .moving ⟨false, l.p⟩ ⟨false, p⟩))

/-- R143, R202, R203, R227: every 100 ms heat is halved; every 1 ms the policy takes its values, and with AUTO promotes the hottest yard
granule at PROMOTE or above while 256 stacked granules are free; a cleared granule is free; a visit of the patrol scrub logs a corrected
error, poisons the words that it finds uncorrectable, and retires a bank's row of three errors on a spare, or reports for a siding that
the MiB has none left. How units are numbered and that a row is retired before an error is logged is notes/assumptions/51.md's reading, the
siding row of 32 bytes notes/assumptions/39.md's; work of the firmware port that waits goes on after a visit (notes/assumptions/61.md).
R226: every 2 ms a channel of each tier is calibrated, for at most 1.2 µs and 4 µs; a longer window is abandoned at its limit. The
longest window seen is kept. -/
def Obligations.HeatRepairAndCalibration : Prop :=
  (∀ (t : Ten) (g unit row : Nat) (ce : Bool) (l : Loc) (s : State) (c : Cand),
      (s.mtc.heatTime + 10000000 ≤ s.glb.devTime → swf Granule.init s.mtc.map = true →
        ∃ u, exec .heatDecay s = .next u ∧ u.mtc.heatTime = s.glb.devTime ∧ u = { s with mtc := u.mtc } ∧
          (u.gran t g).heat = (s.gran t g).heat >>> 1 ∧ (u.gran t g).st = (s.gran t g).st) ∧
      (s.mtc.evalTime + 100000 ≤ s.glb.devTime → s.compHeld .shunt = false → s.mtc.moves = [] → s.mtc.autoSh = true →
        swf Granule.init s.mtc.map = true → s.candidates false = [] → s.candidates true = [c] → s.mtc.promoteSh.toNat ≤ c.heat →
          256 ≤ s.mtc.stkFree.toNat →
        exec .migrationPolicyEval s = .next { s with mtc := { s.mtc.takePolicy with
          evalTime := s.glb.devTime, moves := [⟨c.tenant, c.g, false, .policy, false⟩] } }) ∧
      (s.mtc.evalTime + 100000 ≤ s.glb.devTime → s.compHeld .shunt = false → s.mtc.moves = [] → s.mtc.autoSh = false →
        exec .migrationPolicyEval s = .next { s with mtc := { s.mtc.takePolicy with evalTime := s.glb.devTime } }) ∧
      ((s.gran t g).st = .zeroFill (some l) →
        exec (.zeroFillGranuleCleared t g) s = .next { s with
          mtc := ((s.mtc.clearLoc l).giveBack l).setGranule t g { s.gran t g with st := .zeroFill none } }) ∧
      (unit < 64 → let b := sget Bank.init s.mtc.banks unit
        (∀ e ∈ b.rowLog, e.row = row → e.count < 3) →
          exec (.patrolScrub unit row ce []) s = .next (fwGo (if ce then logBankRow unit row s else s))) ∧
      (unit < 64 → (∀ e ∈ (sget Bank.init s.mtc.banks unit).rowLog, e.row = row → e.count < 3) → ∀ ue : List Nat, (∀ w ∈ ue, w < 32) →
          exec (.patrolScrub unit row false ue) s = .next (fwGo { s with mtc := { s.mtc with
            conPoison := markWords s.mtc.conPoison (ue.map (fun w => row * 2 ^ 14 + unit * 256 + 8 * w)) } })) ∧
      (unit < 64 → let b := sget Bank.init s.mtc.banks unit
        (∃ e ∈ b.rowLog, e.row = row ∧ 3 ≤ e.count) → (sget 0 s.fuse.conSpareTest unit).toNat + b.spareField.toNat < 32 →
          let u := record 0x1101 none (0x300 + unit) 0 0 { s with mtc := { s.mtc with
            banks := sset Bank.init s.mtc.banks unit ⟨b.rowLog.filter (fun e => e.row != row), b.spareField + 1⟩
            conRetired := satAdd s.mtc.conRetired 1 } }
          exec (.patrolScrub unit row false []) s = .next (if s.compHeld .bootmon then fwGo u else storeConfig false u)) ∧
      (64 ≤ unit → unit < 128 → let x := s.arr (unit - 64)
        (∃ e ∈ x.rowLog, e.row = row ∧ 3 ≤ e.count) →
        16 ≤ (sget 0 s.fuse.sidSpareTest (8 * (unit - 64) + row * 32 / 2 ^ 20)).toNat + sget 0 x.spareMib (row * 32 / 2 ^ 20) →
          exec (.patrolScrub unit row false []) s =
            .next (fwGo (record 0x1102 (s.aryTenant (unit - 64)) (unit - 64) 0 0 (s.setArr (unit - 64) x))))) ∧
  (∀ (ns : Nat) (s : State),
      (s.mtc.phaseTime + 200000 ≤ s.glb.devTime → s.mtc.phaseOut = none →
        let m := { s.mtc with phaseTime := s.glb.devTime, phaseNext := (s.mtc.phaseNext + 1) % 64 }
        (ns ≤ 1200 → exec (.stackedPhaseCal ns) s =
          .next { s with mtc := { m with smMax := BitVec.ofNat 16 (max s.mtc.smMax.toNat ns) } }) ∧
        (1200 < ns → exec (.stackedPhaseCal ns) s = .next { s with mtc := { m with phaseOut := some s.mtc.phaseNext } })) ∧
      (s.mtc.driftTime + 200000 ≤ s.glb.devTime → s.mtc.driftOut = none →
        let m := { s.mtc with driftTime := s.glb.devTime, driftNext := (s.mtc.driftNext + 1) % 8 }
        (exec (.yardDriftCheck false ns) s = .next { s with mtc := m }) ∧
        (ns ≤ 4000 → exec (.yardDriftCheck true ns) s =
          .next { s with mtc := { m with yardMax := BitVec.ofNat 16 (max s.mtc.yardMax.toNat ns) } }) ∧
        (4000 < ns → exec (.yardDriftCheck true ns) s = .next { s with mtc := { m with driftOut := some s.mtc.driftNext } })) ∧
      (s.mtc.phaseOut ≠ none → exec (.calWindowAbandon false) s = .next { s with mtc := { s.mtc with
        phaseOut := none, smMax := BitVec.ofNat 16 (max s.mtc.smMax.toNat 1200) } }) ∧
      (s.mtc.driftOut ≠ none → exec (.calWindowAbandon true) s = .next { s with mtc := { s.mtc with
        driftOut := none, yardMax := BitVec.ofNat 16 (max s.mtc.yardMax.toNat 4000) } }))

/-! ## Attention -/

/-- R16, R164, R168: a free pipeline begins the next packed leg of the tenant whose turn it is: it shows PASS and the tenant, and its rows
are empty at a first leg. R163: a shape that the pipeline does not have faults the DISPATCH with ATT_SHAPE and leaves the pipeline idle.
R171, R190: a block that arrives brings its visible keys into the rows and counts as read; until the last the pipeline shows STALL, as
notes/assumptions/49.md reads R190. R172, R173: when no block is left and no row is poisoned the leg ends (what a re-binding of the whole
tenant waits for is another matter, R141), its rows are written, one pass more is counted and one leg fewer is left of its DISPATCH. -/
def Obligations.AttentionLegs : Prop :=
  ∀ (p : Pipe) (t stalled b : Nat) (ce ue : List Nat) (r : LegReq) (g : Leg) (rest : List Nat) (s : State),
    let d := passDesc r.pd
    let s0 := conErrs t ce ue s
    let part := s.tenantPart r.tenant
    (s.pipeFree p = true → s.pipeTurn p = some t → s.firstLeg p (fun r => r.tenant == t) [] s.kv.legs = some r →
      d.badShape = false → d.badCode = false → d.ranges.all (fun x => part.allows false x.1 x.2) = true → d.packed = true →
      ∃ u g, exec (.attentionLegStart p ce ue) s = .next u ∧ (u.pipeline p).st = .pass ∧ (u.pipeline p).tenant.toNat = r.tenant % 32 ∧
        (u.pipeline p).leg = some g ∧ g.req = r ∧ g.rows.length = d.rows ∧ u.kv.legs = s.kv.legs.erase r ∧ u.mtc = s0.mtc ∧
        g.blocks = legBlocks d d.kend g.places (fun j => tokenWord ((s0.partRead part (d.tokOff + 8 * j) 8).map (·.1))) ∧
        (d.first = true → ∀ x ∈ g.rows, x.m = f32NegInf ∧ x.l = 0 ∧ x.bad = false)) ∧
    (s.pipeFree p = true → s.pipeTurn p = some t → s.firstLeg p (fun r => r.tenant == t) [] s.kv.legs = some r →
      d.badShape = true →
      ∃ u, exec (.attentionLegStart p ce ue) s = .next u ∧ (u.pipeline p).st = .idle ∧ (u.pipeline p).leg = none ∧
        u.mtc = s0.mtc ∧ ∀ y ∈ s.disp, y.id = r.disp → y.fault = none → ∃ y' ∈ u.disp, y'.id = y.id ∧
          y'.legsLeft = y.legsLeft - 1 ∧ y'.fault = some (0x4406, BitVec.ofNat 64 (0x100 + p)) ∧ y'.discard = true) ∧
    ((s.pipeline p).leg = some g → g.blocks = b :: rest →
      ∃ u g', exec (.kvBlockArrival p stalled ce ue) s = .next u ∧ (u.pipeline p).leg = some g' ∧ g'.req = g.req ∧
        g'.blocks = rest ∧ (u.pipeline p).st = (if rest = [] then .pass else .stall) ∧
        (u.pipeline p).blocks = (s.pipeline p).blocks + 1 ∧ (u.pipeline p).late = satAdd (s.pipeline p).late stalled ∧
        g'.rows.length = g.rows.length ∧
        ∀ i, i < g.rows.length →
          let dd := passDesc g.req.pd
          let seen := ((blockKeys g b (conErrs g.req.tenant ce ue s)).1.map (KvVec.entered dd g.freqs)).filter
            (fun k => dd.sees (g.places.getD (i / dd.group) (0, 0)) k.place)
          g'.rows[i]? = g.rows[i]?.map (fun x =>
            if seen.isEmpty then x else x.block dd.scale (g.queries.getD i []) seen)) ∧
    ((s.pipeline p).leg = some g → g.blocks = [] → (∀ x ∈ g.rows, x.poison = false) → s.claimed 2 p = false →
      (∀ e ∈ s.ten, ∀ j, e.2.rebind = some j → j.accepted = true → j.kind = 0 ∨ j.kind = 2) →
      ∃ u, exec (.attentionLegEnd p) s = .next u ∧ (u.pipeline p).leg = none ∧ (u.pipeline p).st = .idle ∧
        (u.pipeline p).passes = satAdd (s.pipeline p).passes 1 ∧ u.mtc = (writeLeg g s).mtc ∧
        u.disp = s.disp.map (fun y => if y.id = g.req.disp then { y with legsLeft := y.legsLeft - 1 } else y))

/-! ## Weights -/

/-- R254: LOADW of an EMPTY copy makes it LOADING, and where four loads run already its load waits behind them; of a copy in another state
it is COPY_STATE. R257, R57: ARMW makes a LOADED copy ARMED with its kernels and the package's initial scales, which the scale slots of a
tenant that is not armed for express take at once (notes/assumptions/13.md and, for an armed one, notes/assumptions/63.md); of a copy in
another state it is COPY_STATE. R128: POINTS selects an ARMED copy. RELEASEW of a copy that may go makes it EMPTY when no batch holds it,
else RELEASING. -/
def Obligations.CopiesLoadArmAndRelease : Prop :=
  ∀ (t : Ten) (q : Que) (w0 w1 : BitVec 64) (c : Fin 4) (ks : List KernelEntry) (es : List (BitVec 8)) (s : State),
    let v := (s.tenant t).copy c
    MayIssue s t q w0 w1 → pf w0 47 46 = c.val →
    (pOp w0 = 0x10 → s.compHeld .loader = false → v.st = .empty → 4 ≤ (s.dep.loads.filter (·.running)).length →
      ∃ u, exec (.loadw t q w0 w1) s = .next u ∧ OpenAtHead s u t q w0 ∧
        (u.tenant t).copy c = { Copy.init with st := .loading, waiter := some (q.val, (s.queue t q).head) } ∧
        u.dep.loads = s.dep.loads ++
          [⟨t, c, (s.tenant t).cls, pf w0 14 0, pf w1 47 21 * 2 ^ 21, false, false, [], false⟩] ∧ u.mtc = s.mtc) ∧
    (pOp w0 = 0x10 → s.compHeld .loader = false → v.st ≠ .empty →
      ∃ u, exec (.loadw t q w0 w1) s = .next u ∧ (u.queue t q).st = .faulted ∧ (u.queue t q).fcode = 0x5203 ∧
        (u.tenant t).copy c = v ∧ u.dep.loads = s.dep.loads) ∧
    (pOp w0 = 0x12 → v.st = .loaded →
      ∃ u, exec (.armw t q w0 w1 ks es) s = .next u ∧ DoneAtHead s u t q w0 0 ∧ OnlyTenant t s u ∧
        (u.tenant t).copy c = { v with st := .armed, kernels := ks, scales := es } ∧
        ∀ i : Fin 16, ((u.tenant t).scale i).initExp =
            (if (s.tenantXid t).isSome then ((s.tenant t).scale i).initExp else es.getD i ((s.tenant t).scale i).initExp) ∧
          ((u.tenant t).scale i).hist = ((s.tenant t).scale i).hist) ∧
    (pOp w0 = 0x12 → v.st ≠ .loaded →
      ∃ u, exec (.armw t q w0 w1 ks es) s = .next u ∧ (u.queue t q).st = .faulted ∧ (u.queue t q).fcode = 0x5203 ∧
        (u.tenant t).copy c = v) ∧
    (pOp w0 = 0x13 → v.st = .armed →
      ∃ u, exec (.points t q w0 w1) s = .next u ∧ DoneAtHead s u t q w0 0 ∧ OnlyTenant t s u ∧ (u.tenant t).points = some c) ∧
    (pOp w0 = 0x14 → v.st = .loaded ∨ v.st = .failed ∨ (v.st = .armed ∧ (s.tenant t).points ≠ some c) →
      ((s.tenant t).refs c = 0 →
        ∃ u, exec (.releasew t q w0 w1) s = .next u ∧ DoneAtHead s u t q w0 0 ∧ OnlyTenant t s u ∧
          (u.tenant t).copy c = Copy.init) ∧
      ((s.tenant t).refs c ≠ 0 → (∀ k : Fin 4, ((s.tenant t).copy k).st ≠ .releasing) →
        ∃ u, exec (.releasew t q w0 w1) s = .next u ∧ OpenAtHead s u t q w0 ∧ OnlyTenant t s u ∧
          ((u.tenant t).copy c).st = .releasing))

/-- R255: a shard in flight of a running load, with every unit read, is written; with its digest it is accepted, the last one makes the
copy LOADED, another digest or a unit that fails makes it FAILED. R258: DIGESTW of one shard and the background pass leave a copy whose
bytes are right as it is. R259: a shard whose bytes changed is poisoned, counted and reloads; a reload with the right digest lifts the
poison, and one that fails is RELOAD_FAIL and leaves the shard poisoned. -/
def Obligations.ShardsAreCheckedByDigest : Prop :=
  ∀ (t : Ten) (q : Que) (w0 w1 : BitVec 64) (c : Fin 4) (i : Nat) (m : List UnitErr) (s s1 s2 : State) (j : LoadJob)
    (h : Shard) (keys : Store Bytes) (idx : Reg32) (e : BitVec 16 × Nat),
    let v := (s.tenant t).copy c
    let got := s.depotRead j.keys true h.depotAddr h.length m
    let again := s.depotRead keys true h.depotAddr h.length m
    let shut (u : State) : Prop := ((u.tenant t).copy c).st = .failed ∧
      u.dep.loads = s.dep.loads.filter (fun j => !(j.tenant == t.val && j.copy == c))
    let passed := { s with dep := { s.dep with
      interval := s.dep.intervalSh, share := s.dep.shareSh, passTime := s.glb.devTime } }
    (s.compHeld .loader = false → (∀ k ∈ s.dep.loads, k.running = true) →
      s.dep.loads.find? (fun j => j.tenant == t.val && j.copy == c && j.ready) = some j → v.st = .loading →
      v.shards[i]? = some h → i ∈ v.flying → s.awaits (.shard t c i) = false →
      modelWrite t (v.base + h.offset) (unmarked got.data) (noteReadings got.readings s) = .ok s2 →
      (got.fail = none → sha256 got.data = h.digest → (∃ k x, v.shards[k]? = some x ∧ k ≠ i ∧ x.accepted = false) →
        ∃ u, exec (.shardDigestCheck t c i m) s = .next u ∧ u.mtc = s2.mtc ∧
          (u.tenant t).copy c = { v with shards := v.shards.set i { h with accepted := true } }) ∧
      (got.fail = none → sha256 got.data = h.digest → (∀ k x, v.shards[k]? = some x → k ≠ i → x.accepted = true) →
        ∃ u, exec (.shardDigestCheck t c i m) s = .next u ∧ u.mtc = s2.mtc ∧
          ((u.tenant t).copy c).st = .loaded ∧ ((u.tenant t).copy c).waiter = none ∧
          u.dep.loads = s.dep.loads.filter (fun j => !(j.tenant == t.val && j.copy == c))) ∧
      (got.fail = some e → ∃ u, exec (.shardDigestCheck t c i m) s = .next u ∧ u.mtc = s2.mtc ∧ shut u) ∧
      (got.fail = none → sha256 got.data ≠ h.digest →
        ∃ u, exec (.shardDigestCheck t c i m) s = .next u ∧ shut u ∧
          (v.waiter = some (q.val, idx) → (s.queue t q).st = .idle → (s.queue t q).enable = true →
            (∃ e ∈ (s.queue t q).issued, e.idx = idx ∧ e.status = none) →
            (u.queue t q).st = .faulted ∧ (u.queue t q).fcode = 0x5201))) ∧
    (pOp w0 = 0x11 → MayIssue s t q w0 w1 → pf w0 47 46 = c.val → s.compHeld .loader = false → v.checkable = true →
      w0.getLsbD 12 = false → v.shards[pf w0 11 0]? = some h → h.poisoned = false →
      (shardMatches t v h s = (true, s1) →
        ∃ u, exec (.digestw t q w0 w1) s = .next u ∧ DoneAtHead s u t q w0 0 ∧ (u.tenant t).copy c = v ∧ u.mtc = s1.mtc) ∧
      (shardMatches t v h s = (false, s1) →
        ∃ u, exec (.digestw t q w0 w1) s = .next u ∧ (u.queue t q).st = .faulted ∧ (u.queue t q).fcode = 0x5201 ∧
          u.dep.mismatch = satAdd s.dep.mismatch 1 ∧
          (u.tenant t).copy c = { v with shards := v.shards.set (pf w0 11 0) { h with
            poisoned := true, reload := some (s1.loadKeys t) } })) ∧
    (s.dep.interval ≠ 0 → s.dep.intervalSh ≠ 0 → s.dep.passTime + s.dep.interval.toNat * 60000 * 100000 ≤ s.glb.devTime →
      s.compHeld .loader = false → s.checkWork = [(t.val, c, i)] → v.shards[i]? = some h → h.poisoned = false →
      (shardMatches t v h passed = (true, s1) →
        exec .backgroundDigestPass s = .next { s1 with dep := { s1.dep with passes := satAdd s1.dep.passes 1 } }) ∧
      (shardMatches t v h passed = (false, s1) →
        ∃ u, exec .backgroundDigestPass s = .next u ∧ u.dep.passes = satAdd s.dep.passes 1 ∧
          u.dep.mismatch = satAdd s.dep.mismatch 1 ∧ u.frc.summary.getLsbD 4 = true ∧
          ∃ x, ((u.tenant t).copy c).shards[i]? = some x ∧ x.poisoned = true ∧ x.reload.isSome = true)) ∧
    (v.shards[i]? = some h → h.reload = some keys → s.awaits (.reload t c i) = false →
      modelWrite t (v.base + h.offset) (unmarked again.data) (noteReadings again.readings s) = .ok s2 →
      (again.fail = none → sha256 again.data = h.digest →
        exec (.shardReloadDone t c i m) s = .next (s2.modCopy t c (fun v => { v with
          shards := v.shards.set i { h with poisoned := false, reload := none } }))) ∧
      (again.fail = some e → ∃ u, exec (.shardReloadDone t c i m) s = .next u ∧ u.mtc = s2.mtc ∧ u.frc.summary.getLsbD 4 = true ∧
        (u.tenant t).copy c = { v with shards := v.shards.set i { h with reload := none } }))

/-! ## The depot's ports -/

/-- R236, R237: the unlock words in order, a command, and its low address word are latched in their place; a third unlock word and an
operand out of its place are latched, are WSC_SEQ and end the sequence. R242: the last write of WPSET sets the bits of the port's sectors
among those named, and changes no other sector, a named one that is not the port's no more than the rest (notes/assumptions/25.md). R236:
STATUS shows the die bitmaps and READID the depot's word. -/
def Obligations.PortSequences : Prop :=
  ∀ (p : WscPort) (x : Reg32) (k : Nat) (s : State),
    let v := s.wsc p
    let key := BitVec.ofNat 16 x.toNat
    let low := BitVec.ofNat 41 (v.addr.toNat / 2 ^ 32 * 2 ^ 32 + x.toNat)
    s.portOpen p = true →
    (v.step = 0 → x.toNat % 65536 = 0x5A3C → exec (.wscKeyWrite p x) s = .next (s.setWsc p { v with key := key, step := 1 })) ∧
    (v.step = 1 → x.toNat % 65536 = 0xC3A5 → exec (.wscKeyWrite p x) s = .next (s.setWsc p { v with key := key, step := 2 })) ∧
    (2 ≤ v.step → exec (.wscKeyWrite p x) s = .next (record 0x5101 none 0xFFFF 0 0
      (s.setWsc p { v with key := key, step := 0, pos := 0, words := [], err := v.err ||| 1 }))) ∧
    (v.step = 2 → x.toNat % 256 = 0x10 ∨ x.toNat % 256 = 0x20 ∨ x.toNat % 256 = 0x60 →
      exec (.wscSequenceWrite p .cmd x) s = .next (s.setWsc p { v with
        cmd := BitVec.ofNat 8 x.toNat, step := 3, pos := 0, words := [] })) ∧
    (v.step = 3 → v.pos = 0 →
      exec (.wscSequenceWrite p .addrLo x) s = .next (s.setWsc p { v with addr := low, pos := 1 }) ∧
      exec (.wscSequenceWrite p .len x) s = .next (record 0x5101 none 0xFFFF 0 0
        (s.setWsc p { v with len := x, step := 0, pos := 0, words := [], err := v.err ||| 1 }))) ∧
    (v.step = 3 → v.pos = 3 → v.cmd ≠ 0x10 → v.cmd ≠ 0x20 → v.st ≠ .busy →
      ∃ u, exec (.wpset p x) s = .next u ∧ (u.wsc p).step = 0 ∧ (u.wsc p).op = 0x60 ∧
        (s.portSector p k = true → v.addr.toNat / 2 ^ 26 ≤ k → k < v.addr.toNat / 2 ^ 26 + v.len.toNat →
          (u.sector k).wp = x.getLsbD 0) ∧
        (k < v.addr.toNat / 2 ^ 26 ∨ v.addr.toNat / 2 ^ 26 + v.len.toNat ≤ k ∨ s.portSector p k = false →
          u.sector k = s.sector k)) ∧
    (v.step = 2 → ∃ u, exec (.status p) s = .next u ∧ (u.wsc p).rdata = s.dieMaps ∧ (u.wsc p).op = 0x70 ∧ (u.wsc p).step = 0 ∧
      (u.wsc p).shown = true) ∧
    (v.step = 2 → ∃ u, exec (.readid p) s = .next u ∧ (u.wsc p).op = 0x90 ∧ (u.wsc p).step = 0 ∧ (u.wsc p).shown = true ∧
      (u.wsc p).rdata = if s.fuse.depot = 1 then 0x48D008E6 else 0x48D010E6)

/-- R238 to R240: the last write of a small and of a bulk PROGRAM starts it when range, protection, order, use and key allow, and the port
is BUSY; a protected sector is WSC_PROTECTED. R241: so does the last write of ERASE, and cached lines of its sectors are dropped. R246:
SUSPEND of an ERASE that is not suspended suspends its running erases, RESUME lets them go on; without one SUSPEND is WSC_SEQ. -/
def Obligations.PortProgramsAndErases : Prop :=
  ∀ (p : WscPort) (x : Reg32) (s : State) (d : Nat) (o : EraseOp),
    let v := s.wsc p
    let bulk := v.latch (some .stageHi) x
    let last := v.latch (some .data) x
    let addr := v.addr.toNat
    let free (n : Nat) := ∀ k ∈ sectorsOf addr n, (s.sector k).wp = false ∧
      s.wptrDue k * 131072 ≤ (if k = addr / 2 ^ 26 then addr % 2 ^ 26 else 0) ∧ s.sectorErasing k = false ∧
      s.toRead k = false
    s.portOpen p = true →
    (v.step = 3 → v.cmd = 0x10 → v.pos = 4 → v.len.toNat / 4 ≤ v.words.length + 1 → v.st ≠ .busy → addr % 4096 = 0 →
      v.len.toNat % 4096 = 0 → v.len ≠ 0 → v.len.toNat ≤ 65536 → s.portRange p addr v.len.toNat = true → free v.len.toNat →
      (s.keySlot v.ksel.toNat).installed = true →
      ∃ u, exec (.programSmall p x) s = .next u ∧ (u.wsc p).st = .busy ∧ (u.wsc p).op = 0x10 ∧ (u.wsc p).step = 0 ∧
        (u.wsc p).done = 0 ∧ (u.wsc p).progLeft ≠ 0 ∧ u.mtc = s.mtc ∧ u.dep.units = s.dep.units) ∧
    (v.step = 3 → v.cmd = 0x10 → v.pos = 4 → v.len.toNat / 4 ≤ v.words.length + 1 → v.st ≠ .busy → addr % 4096 = 0 →
      v.len.toNat % 4096 = 0 → v.len ≠ 0 → v.len.toNat ≤ 65536 → s.portRange p addr v.len.toNat = true →
      (∃ k ∈ sectorsOf addr v.len.toNat, (s.sector k).wp = true) →
      exec (.programSmall p x) s = .next ((wscEnds p (wscFail p 1 0x5102 0xFFFF addr (s.setWsc p last))).modWsc p WscP.ended)) ∧
    (v.step = 3 → v.pos = 5 → v.st ≠ .busy → addr % 4096 = 0 → v.len.toNat % 4096 = 0 → v.len ≠ 0 → v.len.toNat ≤ 2 ^ 30 →
      s.portRange p addr v.len.toNat = true → bulk.stage.toNat % 4096 = 0 →
      s.stageStacked bulk.stageTenant.toNat bulk.stage.toNat v.len.toNat = true → free v.len.toNat →
      (s.keySlot v.ksel.toNat).installed = true →
      ∃ u, exec (.programBulk p x) s = .next u ∧ (u.wsc p).st = .busy ∧ (u.wsc p).op = 0x10 ∧ (u.wsc p).step = 0 ∧
        (u.wsc p).done = 0 ∧ (u.wsc p).progLeft ≠ 0 ∧ u.mtc = s.mtc ∧ u.dep.units = s.dep.units) ∧
    (v.step = 3 → v.pos = 2 → v.cmd = 0x20 → v.st = .ready → addr % 2 ^ 26 = 0 → x.toNat % 2 ^ 26 = 0 → x ≠ 0 →
      x.toNat ≤ s.dies * 2 ^ 26 → s.portRange p addr x.toNat = true →
      (∀ k ∈ sectorsOf addr x.toNat, (s.sector k).wp = false ∧ s.sectorBusy k = false ∧ s.toRead k = false) →
      ∃ u, exec (.erase p x) s = .next u ∧ (u.wsc p).st = .busy ∧ (u.wsc p).op = 0x20 ∧ (u.wsc p).step = 0 ∧
        (u.wsc p).eraseLeft = sectorsOf addr x.toNat ∧ u.dep.units = s.dep.units ∧
        ∀ k, k / 16384 ∈ sectorsOf addr x.toNat → k ∉ u.dep.icache) ∧
    (v.step = 2 → v.eraseLeft ≠ [] → v.userSusp = false →
      ∃ u, exec (.suspend p) s = .next u ∧ (u.wsc p).userSusp = true ∧ (u.wsc p).op = 0xB0 ∧ (u.wsc p).step = 0 ∧
        ((s.die d).st = .erasing → (s.die d).erase = some o → v.owns p o = true →
          (u.die d).st = .suspending ∧ (u.die d).erase = some { o with userSusp := true })) ∧
    (v.step = 2 → v.eraseLeft ≠ [] → v.userSusp = true →
      ∃ u, exec (.depotResume p) s = .next u ∧ (u.wsc p).userSusp = false ∧ (u.wsc p).op = 0xD0 ∧ (u.wsc p).st = .busy ∧
        (d < s.dies → (s.die d).st = .suspended → (s.die d).erase = some o → v.owns p o = true →
          (s.die d).reads = [] → (s.die d).progs = [] → (u.die d).st = .resuming)) ∧
    (v.step = 2 → v.eraseLeft = [] → exec (.suspend p) s = .next ((wscEnds p (wscFail p 0 0x5101 0xFFFF 0
      (s.setWsc p (v.latch (some .cmd) 0xB0)))).modWsc p WscP.ended))

/-- R243: in read-array state the high address word begins to load a unit into the read buffer, which is ready once its die has served
the read; the word reads follow one by one; a read before the buffer is ready gives ones and its error bit. A bulk read in range makes the
port busy and goes unit by unit to its stage. R236: a result that is shown is read unchanged. R330: in D3hot the host's read ends with
Unsupported Request. R233: a good unit read for nobody only counts its retries.
Work of core 0 at its port goes on with what it waited for (fwGo, notes/assumptions/61.md). -/
def Obligations.PortReads : Prop :=
  ∀ (p : WscPort) (x w : Reg32) (retries sector unit : Nat) (ok : Bool) (s s2 : State),
    let v := s.wsc p
    let sec := v.raddr / 2 ^ 26
    let got := s.readUnit v.rkeys sec (v.raddr / 4096 % 16384) retries ok
    let addr := (v.latch (some .addrHi) x).addr.toNat
    let bulk := v.latch (some .stageHi) x
    (s.portOpen p = true → v.step = 0 → v.st = .ready → s.portSector p (addr / 2 ^ 26) = true →
      ∃ u, exec (.readArrayLoad p x) s = .next u ∧ (u.wsc p).addr.toNat = addr ∧ (u.wsc p).raddr = addr / 4096 * 4096 ∧
        (u.wsc p).rptr = addr % 4096 / 4 ∧ (u.wsc p).rdReady = false ∧ (u.wsc p).rpend = true) ∧
    (s.portOpen p = true → v.step = 0 → v.st = .ready → v.len ≠ 0 → v.len.toNat ≤ 2 ^ 30 → bulk.stage.toNat % 4096 = 0 →
      s.portRange p v.addr.toNat v.len.toNat = true →
      ∃ u, exec (.bulkRead p x) s = .next u ∧ (u.wsc p).bulkPos = v.addr.toNat ∧
        (u.wsc p).bulkEnd = v.addr.toNat + v.len.toNat ∧ (u.wsc p).bulkStage = bulk.stage.toNat ∧
        (u.wsc p).bulkTenant = bulk.stageTenant.toNat ∧ (u.wsc p).done = 0 ∧ (u.wsc p).st = .busy) ∧
    (v.rpend = true → s.sectorBusy sec = false → (s.die (s.dieOf sec)).owes (.port p) = false → got.2 = none →
      ∃ u, exec (.readUnitLoaded p retries ok) s = .next (fwGo u) ∧ u.frc = s.frc ∧
        u.wsc p = { v with rdReady := true, rpend := false, rbuf := unitWords got.1, rkeys := [] }) ∧
    (s.portReads p = true → v.shown = true →
      exec (.wscRdataRead p) s = .next (match p with
        | .host => emit (.regRead 0x40004C (v.rdata.setWidth 64)) s
        | .fw => s)) ∧
    (s.portReads p = true → v.shown = false → v.st = .ready → v.step = 0 → s.sectorBusy sec = false → v.rdReady = true →
      v.rptr < 1023 → v.rbuf[v.rptr]? = some w →
      exec (.wscRdataRead p) s = .next (match p with
        | .host => emit (.regRead 0x40004C (w.setWidth 64)) (s.setWsc p { v with rptr := v.rptr + 1, rdata := w })
        | .fw => s.setWsc p { v with rptr := v.rptr + 1, rdata := w })) ∧
    (s.portReads p = true → v.shown = false → v.st = .ready → v.step = 0 → s.sectorBusy sec = false → v.rdReady = false →
      exec (.wscRdataRead p) s = .next (match p with
        | .host => emit (.regRead 0x40004C 0xFFFFFFFF) (s.setWsc p { v with err := v.err ||| 0x400 })
        | .fw => s.setWsc p { v with err := v.err ||| 0x400 })) ∧
    (s.glb.portUp = true → s.glb.d3hot = true → exec (.wscRdataRead .host) s = .next (emit .cplUnsupported s)) ∧
    (s.isUser sector = true → unit < 16384 → s.sectorBusy sector = false →
      (s.wsc .host).bulkEnd ≤ (s.wsc .host).bulkPos → (s.wsc .fw).bulkEnd ≤ (s.wsc .fw).bulkPos →
      (s.readUnit s.secrets sector unit retries ok).2 = none →
      exec (.depotUnitRead sector unit retries ok) s = .next (noteRetries sector unit retries s)) ∧
    (s.isUser sector = true → unit < 16384 → s.sectorBusy sector = false → (s.wsc .host).bulkPos = sector * 2 ^ 26 + unit * 4096 →
      let h := s.wsc .host
      let r := s.readUnit h.bulkKeys sector unit retries ok
      h.bulkPos + 4096 ≤ h.bulkEnd → (s.die (s.dieOf sector)).owes (.bulk .host) = false → r.2 = none →
      modelWrite h.bulkTenant h.bulkStage (r.1.take 4096) (noteRetries sector unit retries s) = .ok s2 →
      ∃ u, exec (.depotUnitRead sector unit retries ok) s = .next u ∧ u.mtc = s2.mtc ∧
        (u.wsc .host).bulkPos = h.bulkPos + 4096 ∧ (u.wsc .host).bulkStage = h.bulkStage + 4096 ∧
        (u.wsc .host).done = h.done + 4096)

/-- R239: a program unit done moves its sector's write pointer and fills the units not written; one that fails ends its PROGRAM. R241: an
erase done clears the sector; one that fails leaves it undefined and is ERASE_FAIL, with the other erases of its ERASE left
(notes/assumptions/62.md). R244: a die that has read for others than a load rests when nothing waits; R245: of a run of units it reads
one, and then chooses anew, a read of a higher class first. R245, R247: a read suspends a running erase unless that is aged and guarded,
is served when the die has suspended, and a resumed erase goes on. R248: a fetch of a line that is not held fills the cache, whose oldest
line goes (notes/assumptions/27.md); in a sector in use it is SECTOR_BUSY_FETCH and stops its component (R302). -/
def Obligations.DiesProgramEraseAndRead : Prop :=
  ∀ (d : Fin 16) (core : Fin 8) (c : Fin 5) (cm : Comp) (m : List UnitErr) (r : DieRead) (addr i : Nat) (pu : ProgUnit)
    (e : EraseOp) (s : State),
    let x := s.die d
    (x.running = some pu → s.inHand pu = true →
      ∃ u, exec (.dieProgramUnitDone d false) s = .next (fwGo u) ∧
        (u.sector pu.sector).wptr = max (s.sector pu.sector).wptr (pu.unit + 1) ∧
        (u.sector pu.sector).kslot = pu.slot ∧ (u.wsc pu.port).progLeft = (s.wsc pu.port).progLeft - 1 ∧
        (u.wsc pu.port).done = (s.wsc pu.port).done + 4096 * (pu.hi - pu.lo) ∧
        (i < 32 → (sget none u.dep.units (unitKey pu.sector (pu.unit * 32 + i))).isSome = true ∧
          (i < pu.lo ∨ pu.hi ≤ i → sget none u.dep.units (unitKey pu.sector (pu.unit * 32 + i)) = some .filler))) ∧
    (x.running = some pu → s.inHand pu = true →
      ∃ u, exec (.dieProgramUnitDone d true) s = .next (fwGo u) ∧ (u.wsc pu.port).progLeft = 0 ∧ (u.wsc pu.port).err.getLsbD 6 = true ∧
        u.dep.units = s.dep.units ∧ u.frc.summary.getLsbD 4 = true) ∧
    (x.st = .erasing → x.erase = some e → (s.wsc e.port).owns e.port e = true → (s.wsc e.port).eraseOver = false →
      ∃ u, exec (.dieEraseDone d false) s = .next (fwGo u) ∧ (u.sector e.sector).wptr = 0 ∧ (u.sector e.sector).kslot = 0x3F ∧
        (u.sector e.sector).undef = false ∧ (u.wsc e.port).eraseLeft = (s.wsc e.port).eraseLeft.erase e.sector ∧
        (u.wsc e.port).done = (s.wsc e.port).done + 2 ^ 26 ∧
        (i < 16384 → u.storedUnit e.sector i = none)) ∧
    (x.st = .erasing → x.erase = some e → (s.wsc e.port).owns e.port e = true →
      ∃ u, exec (.dieEraseDone d true) s = .next (fwGo u) ∧ (u.sector e.sector).undef = true ∧
        (u.wsc e.port).eraseLeft = (s.wsc e.port).eraseLeft.erase e.sector ∧
        (u.wsc e.port).err.getLsbD 7 = true ∧ u.frc.summary.getLsbD 4 = true) ∧
    (x.st = .reading → x.rest = [] → x.reads = [] → x.progs = [] → x.eraseQ = [] →
      (∀ a b, x.reading.map DieRead.who ≠ some (.manifest a b)) →
      ∃ u, exec (.dieReadDone d m) s = .next u ∧ (u.die d).st = .idle ∧ (u.die d).reading = none) ∧
    (∀ v : DieRead, x.st = .reading → x.reading = some r → r.more ≠ 0 →
      let left : DieRead := { r with more := r.more - 1 }
      (x.reads = [] → ∃ u, exec (.dieReadDone d m) s = .next u ∧ (u.die d).st = .reading ∧ (u.die d).reading = some left ∧
        (u.die d).reads = []) ∧
      (x.reads = [v] → v.cls < r.cls → ∃ u, exec (.dieReadDone d m) s = .next u ∧ (u.die d).st = .reading ∧
        (u.die d).reading = some v ∧ (u.die d).reads = [left])) ∧
    (d.val < s.dies → x.st = .erasing → x.erase = some e → e.aged = false ∨ (s.wsc e.port).ageGuard = false →
      ∃ u, exec (.depotReadRequest d c) s = .next u ∧ (u.die d).st = .suspending ∧ (u.die d).reads = x.reads ++ [⟨c, .other, 0⟩] ∧
        (u.die d).erase = some { e with autoSusp := e.autoSusp + 1, aged := e.aged || e.autoSusp + 1 == 10000 }) ∧
    (d.val < s.dies → x.st = .erasing → x.erase = some e → e.aged = true → (s.wsc e.port).ageGuard = true →
      ∃ u, exec (.depotReadRequest d c) s = .next u ∧ (u.die d).st = .erasing ∧ (u.die d).reads = x.reads ++ [⟨c, .other, 0⟩]) ∧
    (x.st = .suspending → x.reads = [r] →
      ∃ u, exec (.dieSuspended d) s = .next u ∧ (u.die d).st = .suspReading ∧ (u.die d).reading = some r ∧ (u.die d).reads = [] ∧
        (u.die d).erase = x.erase) ∧
    (x.st = .resuming → exec (.dieResumeDone d) s = .next (s.modDie d (fun x => { x with st := .erasing }))) ∧
    (core.val ≠ 7 → compCore cm = core.val → s.firmwareRuns = true → s.isDevice (addr / 2 ^ 26) = true →
      let key := unitKey (addr / 2 ^ 26) (addr / 4096 % 16384)
      key ∉ s.dep.icache →
      (s.sectorBusy (addr / 2 ^ 26) = false →
        ∃ u, exec (.instructionFetchMiss core (some cm) addr) s = .next u ∧ u.dep.icache = (key :: s.dep.icache).take 64) ∧
      (s.sectorBusy (addr / 2 ^ 26) = true → exec (.instructionFetchMiss core (some cm) addr) s =
        .next (restartComp cm (.stop .fetch) (record 0x5105 none (0x200 + core) (addr / 2 ^ 26) addr s))))

/-! ## Express -/

/-- R270: an XPRARM that meets R271 is ARMING; R271: one that does not completes with XPR_ARM_FAIL and no effect on the indices. R270,
R354: when a spare pair exists and the copy, the hash and the image checks have passed, the index is IDLE, its members are coupled and
loaded, the package's scales are in the scale slots and VDD_A is at the fused setpoint; where the copies differ from the manifest the
arming is undone with XPR_DIGEST and no array changes. R272: XPRDISARM of an idle index frees its pairs, clears the mirror and, for the
last armed tenant, frees the spare and VDD_A; of a tenant that is not armed it has no effect. -/
def Obligations.ExpressArmsAndDisarms : Prop :=
  ∀ (t : Ten) (q : Que) (w0 w1 : BitVec 64) (x : Fin 4) (n : Nat) (e : Issued) (ce ue : List Nat) (s : State),
    let v := s.xid x
    let y := s.tenant t
    (pOp w0 = 0x38 → MayIssue s t q w0 w1 → armFails t w0 s = none → pf w0 11 10 = x.val →
      ∃ u, exec (.xprarm t q w0 w1) s = .next u ∧ OpenAtHead s u t q w0 ∧ (u.xid x).st = .arming ∧
        (u.xid x).tenant.toNat = t ∧ (u.xid x).base = y.conBase.toNat ∧ (u.xid x).mbase = pf w0 45 38 ∧
        (u.xid x).size = y.conSize.toNat ∧ (u.xid x).period = pf w0 23 12 ∧ (u.xid x).roles = pairUp y.arrays ∧
        u.ary = s.ary ∧ u.mtc = s.mtc ∧ ∀ z : Fin 4, z ≠ x → u.xid z = s.xid z) ∧
    (pOp w0 = 0x38 → MayIssue s t q w0 w1 → armFails t w0 s = some n → y.st = .running →
      ∃ u, exec (.xprarm t q w0 w1) s = .next u ∧ (u.queue t q).st = .faulted ∧ (u.queue t q).fcode = 0x6008 ∧
        (∃ e ∈ (u.queue t q).issued, e.idx = (s.queue t q).head ∧ e.status = some 0x6008 ∧ e.detail = BitVec.ofNat 64 n) ∧
        u.xpr.xids = s.xpr.xids ∧ u.ary = s.ary ∧ u.mtc = s.mtc) ∧
    (v.st = .arming → s.glb.st ≠ .safeHold → s.xpr.spareValid = true → (xidErrs x ce ue (copyImage x s)).imagesMatch x = true →
      (xidErrs x ce ue (copyImage x s)).badMember x = none →
      s.xpr.laneA.faulted = false → v.form = none → v.armJob = some (q.val, e.idx) → v.tenant.toNat = t →
      e ∈ (s.queue t q).issued → e.status = none → e.cpl = true →
      ∃ u, exec (.xprarmComplete x ce ue) s = .next u ∧ (u.xid x).st = .idle ∧ (u.xid x).armJob = none ∧ (u.xid x).roles = v.roles ∧
        (∀ r ∈ v.roles, (u.arr r.1).paired = true ∧ (u.arr r.1).st = .loaded ∧ (u.arr r.2).paired = true ∧ (u.arr r.2).st = .loaded) ∧
        u.glb.vdda = s.fuse.vddaExpress ∧ u.glb.vddaFixed = true ∧
        (∀ i : Fin 16, ((u.tenant t).scale i).initExp = (y.copy v.copy).scales.getD i (y.scale i).initExp) ∧
        ∃ e' ∈ (u.queue t q).issued, e'.idx = e.idx ∧ e'.status = some 0) ∧
    (v.st = .arming → s.glb.st ≠ .safeHold → s.xpr.spareValid = true → (xidErrs x ce ue (copyImage x s)).imagesMatch x = false →
      v.armJob = some (q.val, e.idx) → v.tenant.toNat = t → (s.queue t q).st = .idle → (s.queue t q).enable = true →
      e ∈ (s.queue t q).issued → e.status = none →
      ∃ u, exec (.xprarmComplete x ce ue) s = .next u ∧ (u.xid x).st = .disarmed ∧ (u.xid x).roles = [] ∧
        (u.queue t q).st = .faulted ∧ (u.queue t q).fcode = 0x6009 ∧ u.ary = s.ary) ∧
    (pOp w0 = 0x39 → MayIssue s t q w0 w1 → s.tenantXid t = none →
      ∃ u, exec (.xprdisarm t q w0 w1) s = .next u ∧ DoneAtHead s u t q w0 0 ∧ OnlyTenant t s u) ∧
    (pOp w0 = 0x39 → MayIssue s t q w0 w1 → s.tenantXid t = some x.val → v.st = .idle → v.inv = none → v.waitSeq = none →
      v.disarmJobs = [] →
      ∃ u, exec (.xprdisarm t q w0 w1) s = .next u ∧ DoneAtHead s u t q w0 0 ∧ (u.xid x).st = .disarmed ∧ (u.xid x).roles = [] ∧
        (∀ a, v.mbase * 2 ^ 20 ≤ a → a < (v.mbase + v.size) * 2 ^ 20 → sget 0 u.mtc.con a = 0) ∧
        (∀ a, a < v.mbase * 2 ^ 20 ∨ (v.mbase + v.size) * 2 ^ 20 ≤ a → sget 0 u.mtc.con a = sget 0 s.mtc.con a) ∧
        ((∀ z : Fin 4, z ≠ x → (s.xid z).armed = false) → u.glb.vddaFixed = false ∧ u.xpr.spareValid = false))

/-- R291, R292, R345: a KEEP frame, as the characters of its slot, makes its lane's receiver resynchronise on its LINKSEQ. R274: the first
of several fragments of a request goes to its place in the lane's copy of the partition; the last one, with the other lane's copy
complete, makes the first request wait to start and adds one to TQ15 of every member; 20 µs after one copy was complete alone the first
request is served from it; 20 µs after the last fragment of a lone incomplete copy it is answered INCOMPLETE, as notes/assumptions/63.md
reads R274. A REQ to an index that is
not armed is answered DISARMED. R292: characters that are no idle slot and no frame are counted, and the fifth within 1 ms faults the
lane. -/
def Obligations.SafetyLinkRequests : Prop :=
  ∀ (l : Lane) (f : Bytes) (slot : List LineChar) (x : Fin 4) (c : ReqCopy) (ce ue : List Nat) (s : State),
    let now := s.glb.devTime
    let v := s.xid x
    let heard (z : LaneSt) : LaneSt := { z with
      cleanSince := if ∀ t, z.lastValid = some t → t + 50000 ≤ now then now else z.cleanSince
      discards := if z.rxSeq = none ∨ z.rxSeq = some (frLinkSeq f - 1) then z.discards else satAdd z.discards 1
      rxSeq := some (frLinkSeq f), lastValid := some now }
    (v.armed = true → v.st ≠ .held → v.copies = [(l, c)] → c.time + 2000 ≤ now → v.first = true → v.waitSeq = none →
      s.windowOpen = false → v.arrays.Nodup →
      ∃ u, exec (.laneCopyTimeout x ce ue) s = .next u ∧ (u.xid x).waitSeq = some ⟨c.seq, now, false, 0, false, false, false, 0⟩ ∧
        (u.xid x).copies = [] ∧
        (∀ a ∈ v.arrays, sget 0 (u.arr a).tq 15 = satAdd (sget 0 (s.arr a).tq 15) 1) ∧ 
        u.mtc = (copyRequest x l c (xidErrs x ce ue s)).mtc) ∧
    (v.armed = true → v.st ≠ .held → v.copies = [] → v.reqA = some c → v.reqB = none → c.first = true → c.told = false →
      c.time + 2000 ≤ now →
      exec (.laneCopyTimeout x ce ue) s = .next (bothLanes x (invalidFrame x c.seq 0x04)
        (s.modXid x (fun z => { z with reqA := some { c with dead := true, told := true } })))) ∧
    (s.linkUp = true → (s.lane l).aligned = true →
    (frameOk l f = true → frType f = 0x1E → exec (.keep l (frameChars f)) s = .next (s.modLane l heard)) ∧
    (frameOk l f = true → frType f = 0x11 → frXid f = x.val → v.armed = false → v.answered.contains (l, frSeq f) = false →
      ∃ u, exec (.req l (frameChars f)) s = .next u ∧ (u.xid x).answered = v.answered ++ [(l, frSeq f)] ∧
        sget [] (u.lane l).txq x = sget [] (s.lane l).txq x ++ [invalidFrame x (frSeq f) 0x05] ∧
        u.lane (otherLane l) = s.lane (otherLane l) ∧ u.mtc = s.mtc ∧ u.ary = s.ary) ∧
    ((s.lane l).faulted = false → frameOk l f = true → frType f = 0x11 → frXid f = x.val → v.armed = true → v.st ≠ .held →
      v.disarmJobs = [] → v.resetAfter = false → v.reqA = none → v.reqB = none → v.holds l (frSeq f) = false →
      frFrag f = 0 → frNfrag f ≠ 0 → frNfrag f + 1 ≤ v.table.reqFrags →
      exec (.req l (frameChars f)) s = .next ((partWrite (v.part (laneBit l)) (v.table.reqOff + 2048 * ((frSeq f).toNat % 2))
        ((frPayload f).map (fun b => (b, false))) (s.modLane l heard)).modXid x
          (fun z => z.setReq l (some ⟨frSeq f, frNfrag f, 1, false, false, now, true, false⟩)))) ∧
    ((s.lane l).faulted = false → frameOk l f = true → frType f = 0x11 → frXid f = x.val → v.armed = true → v.st ≠ .held →
      v.disarmJobs = [] → v.resetAfter = false → v.waitSeq = none → v.first = true → v.holds l (frSeq f) = false →
      v.reqCopy l = some c → c = ⟨frSeq f, frNfrag f, frFrag f, false, false, c.time, c.first, false⟩ →
      frFrag f = frNfrag f → frFrag f ≠ 0 → frNfrag f + 1 ≤ v.table.reqFrags →
      v.holds (otherLane l) (frSeq f) = true → v.arrays.Nodup →
      ∃ u, exec (.req l (frameChars f)) s = .next u ∧
        (u.xid x).waitSeq = some ⟨frSeq f, now, false, 0, false, false, false, 0⟩ ∧
        (u.xid x).seq = frSeq f ∧ (u.xid x).reqCopy l = none ∧ (∀ k : Lane, (u.xid x).holds k (frSeq f) = false) ∧
        (∀ a ∈ v.arrays, sget 0 (u.arr a).tq 15 = satAdd (sget 0 (s.arr a).tq 15) 1) ∧
        u.mtc = (partWrite (v.part (laneBit l)) (v.table.reqOff + 2048 * ((frSeq f).toNat % 2) + 52 * frFrag f)
          ((frPayload f).map (fun b => (b, false))) s).mtc) ∧
    (let times := (s.lane l).discardTimes.filter (fun d => decide (now < d + 100000)) ++ [now]
     (∃ c ∈ slot, c ≠ idleChar) → frameOk l ((slotBytes slot).getD []) = false →
      (times.length ≤ 4 → exec (.receivedFrameDiscard l slot) s = .next (s.modLane l (fun z => { z with
        discards := satAdd z.discards 1, discardTimes := times, cleanSince := now }))) ∧
      (4 < times.length → ∃ u, exec (.receivedFrameDiscard l slot) s = .next u ∧ (u.lane l).faulted = true ∧
        (u.lane l).discards = satAdd (s.lane l).discards 1 ∧ u.mtc = s.mtc ∧ u.ary = s.ary)))

/-- R276: when TQ15 is at least one on every member, all members restart together. R279 to R281: a member that has not come to its barrier
STEPMAX + 5 µs after its step began has the step run again by the spare while a recovery window opens; with no spare ready there is
SAFE_HOLD with NO_SPARE, and with one ready inside such a window SAFE_HOLD. R280: a spare that agrees with itself and a member takes the
pair's place while other pairs are out; one that is late, disagrees with itself or agrees with no member is SPARE_FAULT: it is retired, and
there is SAFE_HOLD. R284: a proof of an armed tenant that has
none runs at once; one that agrees with the record is entered, one that disagrees with itself retires the spare. R287: the channels'
verdicts disagreeing gives SAFE_HOLD. -/
def Obligations.ExpressInvocations : Prop :=
  ∀ (x : Fin 4) (r : Fin 8) (i : Invocation) (k : Rerun) (p : Proof) (bar bar' : Nat) (ce ue : List Nat) (s : State),
    let now := s.glb.devTime
    let v := s.xid x
    let m := v.roles.getD r (0, 0)
    let spa := s.xpr.spa.toNat
    let spb := s.xpr.spb.toNat
    let a := s.arr spa
    let b := s.arr spb
    (v.st = .idle → v.inv = none → v.waitSeq = some i → s.xpr.proof = none → v.arrays.Nodup →
      (∀ a ∈ v.arrays, (s.arr a).active = none ∧ 1 ≤ (sget 0 (s.arr a).tq 15).toNat) →
      ∃ u, exec (.expressRestart x) s = .next u ∧ (u.xid x).st = .running ∧
        (u.xid x).inv = some { i with restarted := true, step := 0, stepTime := now } ∧ (u.xid x).waitSeq = none ∧
        (∀ a ∈ v.arrays, (u.arr a).st = .run ∧ (u.arr a).active = some 0 ∧
          sget 0 (u.arr a).tq 15 = sget 0 (s.arr a).tq 15 - 1 ∧
          sget 0 (u.arr a).ireg 30 = BitVec.ofNat 32 (v.table.resOff + 1024 * (i.seq.toNat % 2)) ∧
          sget 0 (u.arr a).ireg 31 = BitVec.ofNat 32 (v.table.reqOff + 2048 * (i.seq.toNat % 2))) ∧
        (∀ a, a ∉ v.arrays → u.arr a = s.arr a) ∧ u.mtc = s.mtc) ∧
    (v.st = .running → r.val < v.roles.length → v.inv = some i → i.finalOk = false → v.rerun = none →
      i.stepTime + v.stepLimit < now →
      (s.arr m.1).atBarrier = none ∨ (s.arr m.2).atBarrier = none → s.glb.st ≠ .safeHold →
      (s.windowOpen = false → s.xpr.spareReady = true →
        ∃ u, exec (.barrierTimeout x r false) s = .next u ∧ (u.xid x).st = .rerun ∧ (u.xid x).window = true ∧
          (u.xid x).rerun = some ⟨r, i.step, now⟩ ∧ (u.xid x).mismatch = satAdd v.mismatch 1 ∧
          u.xpr.spareRan = some v.tenant.toNat ∧ u.glb.st = s.glb.st) ∧
      (s.xpr.spareReady = false →
        ∃ u, exec (.barrierTimeout x r false) s = .next u ∧ Held 0x600B s u) ∧
      (s.windowOpen = true → s.xpr.spareReady = true → ∃ u, exec (.barrierTimeout x r false) s = .next u ∧ Held 0x6001 s u)) ∧
    (v.st = .rerun → v.rerun = some k → k.role = r.val → k.time + v.stepLimit < now → a.atBarrier = none ∨ b.atBarrier = none →
      s.glb.st ≠ .safeHold →
      ∃ u, exec (.barrierTimeout x r true) s = .next u ∧ Held 0x6007 s u ∧ u.xpr.spareValid = false) ∧
    (let n := v.roles.getD k.role (0, 0)
     let z := (s.tenant v.tenant.toNat).barrier bar
     let agrees : Prop := a.fp = b.fp ∧ a.fpPoison = false ∧ b.fpPoison = false ∧
      ∃ g ∈ z.arrivals, (g.ary = n.1 ∨ g.ary = n.2) ∧ g.fp = a.fp
     v.st = .rerun → v.rerun = some k → k.role < v.roles.length → a.atBarrier = some bar → b.atBarrier = some bar' →
      (agrees → (z.arrivals.filter (fun g => g.ary != n.1 && g.ary != n.2)).length + 2 < 2 * v.table.pairs →
        ∃ u, exec (.spareBarrier x false ce ue) s = .next u ∧ (u.xid x).st = .running ∧ (u.xid x).rerun = none ∧
          (u.xid x).rerunOk = satAdd v.rerunOk 1 ∧ (u.xid x).roles.getD k.role (0, 0) = (spa, spb) ∧
          u.xpr.spareValid = false ∧ u.xpr.spareReady = false ∧ u.xpr.retired = s.xpr.retired ++ [n.1, n.2]) ∧
      (s.glb.st ≠ .safeHold → ∃ u, exec (.spareBarrier x true ce ue) s = .next u ∧ Held 0x600D s u) ∧
      (¬agrees → s.glb.st ≠ .safeHold → ∃ u, exec (.spareBarrier x false ce ue) s = .next u ∧ Held 0x6007 s u ∧
        u.xpr.spareValid = false ∧ spa ∈ u.xpr.retired ∧ spb ∈ u.xpr.retired)) ∧
    (v.provable = true → s.xpr.proved.contains x.val = false → s.xpr.spareValid = true → s.xpr.proof = none → s.windowOpen = false →
      s.glb.st ≠ .safeHold → r.val < v.roles.length → (∀ z : Fin 4, (s.xid z).rerun = none) →
      ∃ u, exec (.spareProof x r ce ue) s = .next u ∧ u.xpr.proof = some ⟨x, r⟩ ∧ u.xpr.proofTime = now ∧
        u.xpr.proofNext = (x.val + 1) % 4 ∧
        u.xpr.spareRan = some v.tenant.toNat ∧ u.xpr.xids = s.xpr.xids ∧ u.mtc = (xidErrs x ce ue s).mtc) ∧
    (s.xpr.proof = some p → a.atBarrier = some bar → b.atBarrier = some bar' →
      (a.fp = b.fp → a.fpPoison = false → b.fpPoison = false → sget 0 (s.xid p.x).record p.role = a.fp →
        ∃ u, exec (.spareProofDone false) s = .next u ∧ u.xpr.proof = none ∧ p.x ∈ u.xpr.proved ∧ u.xpr.spareValid = s.xpr.spareValid ∧
          ((∀ z ∈ s.armedXids, z = p.x ∨ z ∈ s.xpr.proved) → u.xpr.spareReady = true)) ∧
      (s.anyArmed = true → s.glb.st ≠ .safeHold → ∃ u, exec (.spareProofDone true) s = .next u ∧ Held 0x600D s u) ∧
      (a.fp ≠ b.fp →
        ∃ u, exec (.spareProofDone false) s = .next u ∧ u.xpr.proof = none ∧ spa ∈ u.xpr.retired ∧ spb ∈ u.xpr.retired ∧
          u.xpr.spareReady = false))

/-- R283, R286, R287: a request 480 µs old with no result frame started, a diverging clock, core 7 differing from its twin and a signal
box that fails its self check each give SAFE_HOLD where a tenant is armed; a clock and a box that pass only have their time noted.
R286: where no tenant is armed the disagreement of core 7 is a log entry alone, and before POR_N is released nothing (R374). R288: in
SAFE_HOLD both lanes are given a HOLD frame with the causing code once 200 µs have passed; an XPRDISARM that waited for an invocation ends
then, as notes/assumptions/63.md reads R272. -/
def Obligations.SafeHoldCauses : Prop :=
  ∀ (x : Fin 4) (i : Invocation) (ra rb : Bool) (s : State),
    let now := s.glb.devTime
    ((s.xid x).armed = true → s.glb.st ≠ .safeHold →
      ((s.xid x).st ≠ .held → (s.xid x).inv = some i ∨ (s.xid x).waitSeq = some i → i.resStarted = false → i.avail + 48000 ≤ now →
        ∃ u, exec (.xprDeadline x) s = .next u ∧ Held 0x6006 s u) ∧
      (s.xpr.clockTime + 100000 ≤ now → ∃ u, exec (.clockCompare true) s = .next u ∧ Held 0x600E s u ∧ u.xpr.clockTime = now) ∧
      (s.glb.porN = true → ∃ u, exec .lockstep s = .next u ∧ Held 0x6004 s u) ∧
      (s.xpr.checkTime + 1000000 ≤ now → (ra && rb) = false →
        ∃ u, exec (.sboxSelfCheck ra rb) s = .next u ∧ Held 0x600D s u ∧ u.xpr.checkTime = now)) ∧
    (s.xpr.clockTime + 100000 ≤ now → exec (.clockCompare false) s = .next { s with xpr := { s.xpr with clockTime := now } }) ∧
    (s.glb.porN = true → s.anyArmed = false → exec .lockstep s = .next (record 0x6004 none 0x207 0 0 s)) ∧
    (s.glb.porN = false → exec .lockstep s = .next s) ∧
    (s.xpr.checkTime + 1000000 ≤ now →
      exec (.sboxSelfCheck true true) s = .next { s with xpr := { s.xpr with checkTime := now } }) ∧
    (s.glb.st = .safeHold → s.xpr.holdTime + 20000 ≤ now → ∀ z : Fin 4, (s.xid z).st = .held → (s.xid z).roles ≠ [] →
      (s.xid z).disarmJobs ≠ [] →
      ∃ u, exec .hold s = .next u ∧ (u.xid z).disarmJobs = [] ∧ (u.xid z).roles = [] ∧ (u.xid z).st = .held) ∧
    (s.glb.st = .safeHold → s.xpr.holdTime + 20000 ≤ now →
      (∀ z : Fin 4, (s.xid z).disarmJobs = [] ∧ (s.xid z).resetAfter = false) →
      ∃ u, exec .hold s = .next u ∧ u.xpr.holdTime = now ∧ u.xpr.xids = s.xpr.xids ∧ u.glb = s.glb ∧ u.out = s.out ∧
        ∀ l : Lane, u.lane l = { s.lane l with
          txq := sset [] (s.lane l).txq 4 (sget [] (s.lane l).txq 4 ++ [holdFrame s.xpr.holdCode]) })

/-- R293: a lane that is free, has nothing to send and has carried no frame for 194 µs carries ALIVE; one that has carried none since its
PLL locked need not wait (notes/assumptions/56.md). R282, R290: a slot carries the next
frame of the sources in their turn, with the lane's LINKSEQ; R345: with none, idle characters. R283: the last result frame on the second
lane ends the invocation. R292: 500 µs without a valid frame fault a lane; 100 ms of clean frames recover it. R345: a receiver aligns
while the link runs. -/
def Obligations.LanesTransmit : Prop :=
  ∀ (l : Lane) (f : Bytes) (rest : List Bytes) (t : Nat) (x : Fin 4) (i : Invocation) (ce ue : List Nat) (s : State),
    let now := s.glb.devTime
    let v := s.lane l
    (s.linkUp = true → v.txq = [] → (∀ t, v.slotTime = some t → t + 256 ≤ now) → (∀ t, v.txTime = some t → t + 256 + 19400 ≤ now) →
      exec (.alive l) s = .next ({ s with out := s.out ++ [Output.frame l (frameChars (sealFrame l v.txSeq (aliveFrame s)))] }.setLane l
        { v with txSeq := v.txSeq + 1, txTime := some now, slotTime := some now })) ∧
    (s.linkUp = true → (∀ t, v.slotTime = some t → t + 256 ≤ now) → sget [] v.txq 4 = [] → v.txNext < 4 →
      sget [] v.txq v.txNext = f :: rest → frType f ≠ 0x21 → frType f ≠ 0x2E →
      exec (.laneSlot l ce ue) s = .next ({ s with out := s.out ++ [Output.frame l (frameChars (sealFrame l v.txSeq f))] }.setLane l { v with
        txSeq := v.txSeq + 1, txTime := some now, slotTime := some now
        txq := sset [] v.txq v.txNext rest, txNext := (v.txNext + 1) % 4 })) ∧
    (s.linkUp = true → (∀ t, v.slotTime = some t → t + 256 ≤ now) → (∀ k, sget [] v.txq k = []) →
      exec (.laneSlot l ce ue) s = .next ({ s with out := s.out ++ [Output.frame l (List.replicate 64 idleChar)] }.setLane l { v with
        slotTime := some now })) ∧
    (s.linkUp = true → (∀ t, v.slotTime = some t → t + 256 ≤ now) → sget [] v.txq 4 = [] → v.txNext = x.val →
      sget [] v.txq x = f :: rest → frType f = 0x21 → frXid f = x.val → frFrag f = frNfrag f →
      (s.xid x).inv = some i → i.seq = frSeq f → i.oneLane = true → (s.xid x).disarmJobs = [] → (s.xid x).resetAfter = false →
      ∃ u, exec (.laneSlot l ce ue) s = .next u ∧ (u.xid x).st = .idle ∧ (u.xid x).inv = none ∧
        (u.xid x).valid = satAdd (s.xid x).valid 1 ∧ sget [] (u.lane l).txq x = rest ∧ u.mtc = (xidErrs x ce ue s).mtc ∧ u.ary = s.ary) ∧
    (v.lastValid = some t ∨ (v.lastValid = none ∧ s.xpr.watchdogFrom = some t) →
      (t + 50000 ≤ now → ∃ u, exec (.laneWatchdog l) s = .next u ∧ (u.lane l).faulted = true ∧ u.mtc = s.mtc) ∧
      (now < t + 50000 → exec (.laneWatchdog l) s = .next s)) ∧
    (v.faulted = true → v.cleanSince + 10000000 ≤ now → v.lastValid = some t → now < t + 50000 →
      ∃ u, exec (.laneRecovery l) s = .next u ∧ u.lane l = { v with faulted := false } ∧
        u.lane (otherLane l) = s.lane (otherLane l) ∧ u.xpr.xids = s.xpr.xids) ∧
    (s.linkUp = true → exec (.safetyLinkAlign l) s = .next (s.setLane l { v with aligned := true }))

/-! ## Control complex, attestation, keys, management -/

/-- R300, R302: a component that misses its checkpoint, or is stopped by an access fault, is restarted, counted, and the cause is kept; a
kernel that misses its checkpoint restarts every component of its core. R304: one that has been restarted three times within 60 s is held,
with its core's bit in FW_HELD. R286: EXPRESS is not restarted while a tenant is armed: there is SAFE_HOLD. -/
def Obligations.ComponentsRestart : Prop :=
  ∀ (core : Fin 8) (c : Comp) (cause : StopCause) (s : State),
    let v := sget CompSt.init s.sec.comps (compIdx c)
    s.firmwareRuns = true → v.held = false →
    ((c = .express → s.anyArmed = false) → (s.recentRestarts c).length ≤ 2 →
      (compCore c = core.val → ∃ u, exec (.coreWatchdog core (some c)) s = .next u ∧
        sget CompSt.init u.sec.comps (compIdx c) =
          { v with restarts := s.recentRestarts c ++ [s.glb.devTime], cause := some .checkpoint } ∧
        u.glb.fwRestarts = satAdd s.glb.fwRestarts 1 ∧ u.glb.fwLast = BitVec.ofNat 8 (compId c) ∧ u.glb.fwHeld = s.glb.fwHeld ∧
        (c = .spdm → u.sec.sessions = [] ∧ u.glb.sessionOk = false) ∧ u.mtc.stk = s.mtc.stk) ∧
      (∃ u, exec (.componentAccessFault c cause) s = .next u ∧
        sget CompSt.init u.sec.comps (compIdx c) =
          { v with restarts := s.recentRestarts c ++ [s.glb.devTime], cause := some (.stop cause) } ∧
        u.glb.fwRestarts = satAdd s.glb.fwRestarts 1 ∧ u.glb.fwLast = BitVec.ofNat 8 (compId c) ∧
        (cause = .protection → u.frc.summary.getLsbD 6 = true))) ∧
    ((c = .express → s.anyArmed = false) → 3 ≤ (s.recentRestarts c).length → compCore c = core.val →
      ∃ u, exec (.coreWatchdog core (some c)) s = .next u ∧
        sget CompSt.init u.sec.comps (compIdx c) = { v with held := true } ∧
        u.glb.fwHeld = s.glb.fwHeld ||| BitVec.ofNat 8 (2 ^ core.val) ∧ u.glb.fwRestarts = s.glb.fwRestarts ∧
        u.frc.summary.getLsbD 6 = true) ∧
    ((core = 7 → s.anyArmed = false) →
      (∀ d : Comp, compCore d = core.val → (sget CompSt.init s.sec.comps (compIdx d)).held = false ∧
        (s.recentRestarts d).length ≤ 2) →
      ∃ u, exec (.coreWatchdog core none) s = .next u ∧
        ∀ d : Comp, compCore d = core.val → sget CompSt.init u.sec.comps (compIdx d) =
          { sget CompSt.init s.sec.comps (compIdx d) with
            restarts := s.recentRestarts d ++ [s.glb.devTime], cause := some .kernel }) ∧
    (c = .express → s.anyArmed = true → s.glb.st ≠ .safeHold →
      (∃ u, exec (.coreWatchdog 7 (some .express)) s = .next u ∧ Held 0x6004 s u ∧ u.sec.comps = s.sec.comps) ∧
      (∃ u, exec (.componentAccessFault .express .illegal) s = .next u ∧ Held 0x6004 s u ∧ u.sec.comps = s.sec.comps))

/-- R305: GLB_DRVVER is checked in AWAIT_HOST or while the host is lost, and takes 1.2 to 1.4. R306, R307: a heartbeat write restarts the
timer of an attached host, and attaches one whose version stands and whose session counts; an SPDM HEARTBEAT does not restart it. R307,
R308: 300 ms without one lose the host, and a write in the cycle in which the timer gets there is late: sessions end, host windows stop
accepting, running regular and freight tenants pause with WHY_HOST and express ones go on. That a version accepted again keeps the
session and that one rejected clears VER_OK are notes/assumptions/37.md's readings. -/
def Obligations.HostAttachmentAndLoss : Prop :=
  ∀ (v : Reg32) (s : State),
    let g := s.glb
    let major := v.extractLsb' 24 8
    let minor := v.extractLsb' 16 8
    (s.hostReaches = true → v.getLsbD 1 = false →
      (g.st = .awaitHost ∨ g.lost = true → major = 1 → 2 ≤ minor.toNat → minor.toNat ≤ 4 →
        exec (.glbDrvverWrite v) s = .next { s with glb := { g with drvMajor := 1, drvMinor := minor, verOk := true } }) ∧
      (g.st = .awaitHost ∨ g.lost = true → ¬ (major = 1 ∧ 2 ≤ minor.toNat ∧ minor.toNat ≤ 4) →
        ∃ u, exec (.glbDrvverWrite v) s = .next u ∧ u.glb.drvReject = true ∧ u.glb.verOk = false ∧ u.glb.drvMajor = major ∧
          u.glb.drvMinor = minor ∧ u.frc.summary.getLsbD 6 = true ∧ u.glb.attached = g.attached ∧ u.ten = s.ten) ∧
      (g.st ≠ .awaitHost → g.lost = false → exec (.glbDrvverWrite v) s = .next s)) ∧
    (s.hostReaches = true →
      (g.attached = true → g.devTime < g.hbTime + 30000000 →
        exec (.glbHeartbeatWrite v) s = .next { s with glb := { g with heartbeat := v, hbTime := g.devTime } }) ∧
      (g.attached = true → g.hbTime + 30000000 ≤ g.devTime → ∃ u, exec (.glbHeartbeatWrite v) s = .next u ∧ u.glb.attached = false ∧
        u.glb.lost = true ∧ u.glb.losses = satAdd g.losses 1 ∧ u.glb.heartbeat = v ∧ u.glb.hbTime = g.hbTime) ∧
      (g.attached = false → g.verOk = true → g.sessionOk = true → g.scanUnlocked = false → g.st = .awaitHost → s.anyArmed = false →
        ∃ u, exec (.glbHeartbeatWrite v) s = .next u ∧ u.glb.attached = true ∧ u.glb.lost = false ∧ u.glb.hbTime = g.devTime ∧
          u.glb.heartbeat = v ∧ u.glb.st = .ready ∧ u.glb.prev = .awaitHost ∧ u.ten = s.ten) ∧
      (g.attached = false → g.verOk = false ∨ g.sessionOk = false ∨ g.scanUnlocked = true →
        exec (.glbHeartbeatWrite v) s = .next { s with glb := { g with heartbeat := v } })) ∧
    (g.attached = true → g.hbTime + 30000000 ≤ g.devTime →
      ∃ u, exec .heartbeatTimeout s = .next u ∧ u.glb.attached = false ∧ u.glb.lost = true ∧ u.glb.lostSeen = true ∧
        u.glb.losses = satAdd g.losses 1 ∧ u.glb.verOk = false ∧ u.glb.sessionOk = false ∧ u.sec.sessions = [] ∧
        u.frc.summary.getLsbD 8 = true ∧ u.glb.st = g.st ∧
        (∀ w : Fin 64, (sget Window.init u.win.hostW w).open_ = false) ∧
        ∀ t : Ten, (s.tenant t).st = .running →
          ((s.tenant t).cls ≠ 1 → (u.tenant t).st = .paused ∧ (u.tenant t).whyHost = true) ∧
          ((s.tenant t).cls = 1 → u.tenant t = s.tenant t)) ∧
    (g.devTime < g.hbTime + 30000000 → exec .heartbeatTimeout s = .next s) ∧
    (∀ sid : BitVec 32, ∃ u, exec (.heartbeat sid) s = .next u ∧ u.glb = g)

/-- R310, R311, R313: the SPDM connection goes by its order, from GET_VERSION, which answers 1.2 alone, to capabilities, algorithms,
digests, certificate, challenge and measurements of slot 0, the last two signed by the identity key; a request out of order is answered
ERROR, and one outside the profile ERROR with UnsupportedRequest. The flag positions of the capabilities, the layout of the algorithms
and the most bytes of a certificate portion are presumed (notes/assumptions/33.md, notes/assumptions/65.md). -/
def Obligations.SpdmRequestsAreAnswered : Prop :=
  ∀ (ver slot code : BitVec 8) (o n : Nat) (nonce : Bytes) (s : State),
    let chain := s.certChain
    s.responds = true →
    exec .getVersion s = .next { s with
      sec := { s.sec with conn := 1 }, out := s.out ++ [.spdm "GET_VERSION" [0x00, 0x12]] } ∧
    (1 ≤ s.sec.conn → exec (.getCapabilities 0x12) s = .next { s with
      sec := { s.sec with conn := 2 }, out := s.out ++ [.spdm "GET_CAPABILITIES" (leBytes 4 0x73F6)] }) ∧
    (ver ≠ 0x12 → exec (.getCapabilities ver) s = .next { s with out := s.out ++ [.spdmUnsupported "GET_CAPABILITIES"] }) ∧
    (s.sec.conn = 0 → exec (.getCapabilities 0x12) s = .next { s with out := s.out ++ [.spdmError "GET_CAPABILITIES"] }) ∧
    (2 ≤ s.sec.conn → exec (.negotiateAlgorithms true) s = .next { s with
      sec := { s.sec with conn := 3 }, out := s.out ++ [.spdm "NEGOTIATE_ALGORITHMS" spdmAlgorithms] }) ∧
    (exec (.negotiateAlgorithms false) s = .next { s with out := s.out ++ [.spdmUnsupported "NEGOTIATE_ALGORITHMS"] }) ∧
    (s.sec.conn < 2 →
      exec (.negotiateAlgorithms true) s = .next { s with out := s.out ++ [.spdmError "NEGOTIATE_ALGORITHMS"] }) ∧
    (3 ≤ s.sec.conn →
      exec .getDigests s = .next { s with out := s.out ++ [.spdm "GET_DIGESTS" (sha384 chain)] } ∧
      exec (.getCertificate 0 o n) s = .next { s with out := s.out ++ [.spdm "GET_CERTIFICATE" ((chain.drop o).take (min n 4080))] } ∧
      exec (.challenge 0 nonce) s = .next { s with
        out := s.out ++ [.spdm "CHALLENGE" (sha384 chain ++ Config.identitySign s.fuse.idKey (sha384 chain ++ nonce) s.free)]
        free := s.free + 1 } ∧
      exec (.getMeasurements 0 nonce) s = .next { s with
        out := s.out ++ [.spdm "GET_MEASUREMENTS" (0x09 :: Config.identitySign s.fuse.idKey (0x09 :: nonce) s.free)]
        free := s.free + 1 } ∧
      (∀ x : Fin 4, ∃ u, exec (.getMeasurements (BitVec.ofNat 8 (0x10 + x)) nonce) s = .next u ∧
        let m := [BitVec.ofNat 8 (0x10 + x)] ++ leBytes 2 (s.armedDigest x).length ++ s.armedDigest x
        u.out = s.out ++ [.spdm "GET_MEASUREMENTS" (m ++ Config.identitySign s.fuse.idKey (m ++ nonce) s.free)])) ∧
    (slot ≠ 0 →
      exec (.getCertificate slot o n) s = .next { s with out := s.out ++ [.spdmUnsupported "GET_CERTIFICATE"] } ∧
      exec (.challenge slot nonce) s = .next { s with out := s.out ++ [.spdmUnsupported "CHALLENGE"] }) ∧
    (s.sec.conn < 3 →
      exec .getDigests s = .next { s with out := s.out ++ [.spdmError "GET_DIGESTS"] } ∧
      exec (.getCertificate 0 o n) s = .next { s with out := s.out ++ [.spdmError "GET_CERTIFICATE"] } ∧
      exec (.challenge 0 nonce) s = .next { s with out := s.out ++ [.spdmError "CHALLENGE"] }) ∧
    exec (.unsupportedSpdmRequest code) s = .next { s with out := s.out ++ [.spdmUnsupported "UNSUPPORTED_SPDM_REQUEST"] }

/-- R311, R312: a session begins by KEY_EXCHANGE while HOST_ROOT is provisioned and fewer than four are open; the requester's chain must
end at HOST_ROOT and FINISH must hold for the session to be established, which R306 counts when the version has been accepted; its
keys update, and it ends by END_SESSION. The device's half of an identifier counts up (notes/assumptions/33.md). -/
def Obligations.SpdmSessions : Prop :=
  ∀ (req : BitVec 16) (rnd exch : Bytes) (sid : BitVec 32) (ch : ChainResult) (x : Session) (s : State),
    s.responds = true →
    (3 ≤ s.sec.conn → s.sec.hostRoot = none →
      ∃ u, exec (.keyExchange req rnd exch) s = .next u ∧ u.sec.sessions = s.sec.sessions ∧ u.frc.summary.getLsbD 7 = true ∧
        Output.spdmError "KEY_EXCHANGE" ∈ u.out) ∧
    (let new := BitVec.ofNat 32 ((s.sec.sidNext.toNat % 2 ^ 16) * 2 ^ 16 + req.toNat)
     3 ≤ s.sec.conn → s.sec.hostRoot.isSome = true → s.sec.sessions.length < 4 → s.session? new = none →
      ∃ u, exec (.keyExchange req rnd exch) s = .next u ∧ u.sec.sessions = s.sec.sessions ++ [⟨new, .handshake, false, 0⟩] ∧
        u.sec.sidNext = s.sec.sidNext + 1 ∧ u.glb = s.glb) ∧
    (3 ≤ s.sec.conn → s.sec.hostRoot.isSome = true → 4 ≤ s.sec.sessions.length →
      exec (.keyExchange req rnd exch) s = .next { s with out := s.out ++ [.spdmUnsupported "KEY_EXCHANGE"] }) ∧
    (s.session? sid = some x →
      (x.stage = .handshake → ∃ u, exec (.getEncapsulatedRequest sid) s = .next u ∧
        u.session? sid = some { x with stage := .encap } ∧ u.glb = s.glb) ∧
      (x.stage = .encap → ch.verifies = true → s.sec.hostRoot = some ch.rootDigest →
        ∃ u, exec (.deliverEncapsulatedResponse sid ch) s = .next u ∧ u.session? sid = some { x with stage := .verified }) ∧
      (x.stage = .encap → ch.verifies = false ∨ s.sec.hostRoot ≠ some ch.rootDigest →
        ∃ u, exec (.deliverEncapsulatedResponse sid ch) s = .next u ∧ u.session? sid = none ∧ u.frc.summary.getLsbD 7 = true) ∧
      (x.stage = .verified → ∃ u, exec (.finish sid true) s = .next u ∧
        u.session? sid = some { x with stage := .established, afterVersion := s.glb.verOk } ∧
        (s.glb.verOk = true → u.glb.sessionOk = true)) ∧
      (x.stage = .verified → ∃ u, exec (.finish sid false) s = .next u ∧ u.session? sid = none) ∧
      (x.stage = .established →
        exec (.heartbeat sid) s = .next { s with out := s.out ++ [.spdm "HEARTBEAT" []] } ∧
        (∃ u, exec (.keyUpdate sid) s = .next u ∧ u.session? sid = some { x with keyUpdates := x.keyUpdates + 1 }) ∧
        (∃ u, exec (.endSession sid) s = .next u ∧ u.session? sid = none ∧ u.ten = s.ten ∧ u.mtc = s.mtc)) ∧
      (x.stage ≠ .established →
        exec (.heartbeat sid) s = .next { s with out := s.out ++ [.spdmError "HEARTBEAT"] } ∧
        exec (.keyUpdate sid) s = .next { s with out := s.out ++ [.spdmError "KEY_UPDATE"] } ∧
        exec (.endSession sid) s = .next { s with out := s.out ++ [.spdmError "END_SESSION"] }))

/-- R314 to R316, R318, R326: inside an established session a secret of 32 bytes, delivered or unwrapped from its blob, is installed with
its signer key, where flagged, into an empty slot that is bound to the tenant named, counted, and answered OK, with the wrapped blob
where KEY_DELIVER asks for it; an unbound slot is NOT_BOUND, an installed one NOT_EMPTY, a blob that does not verify UNWRAP_FAIL and a
signer key that is no point of P-384 BAD_KEY, each recorded in the class of keys and without effect on the slots. KEY_ERASE zeroises,
and takes the memory keys with the slot; KEY_QUERY answers the 32 slots. Outside a session a key operation is answered ERROR;
this, and the 32 words of KEY_QUERY, are notes/assumptions/35.md's readings. -/
def Obligations.KeyOperations : Prop :=
  ∀ (sid : BitVec 32) (k : Fin 32) (t : Ten) (flags : BitVec 8) (secret signer nonce blob key : Bytes) (sg : Option Bytes) (s : State),
    let v := s.keySlot k
    let signed : Option Bytes := if flags.getLsbD 0 then some signer else none
    let done (u : State) (wrapped : Bool) (sec : Bytes) (sg : Option Bytes) : Prop :=
      u.keySlot k = ⟨true, wrapped, sec, sg, satAdd v.installs 1⟩ ∧ (∀ j : Nat, j ≠ k → u.keySlot j = s.keySlot j) ∧
      u.ten = s.ten ∧ u.glb = s.glb
    let refused (u : State) (status : BitVec 8) : Prop :=
      u.sec.slots = s.sec.slots ∧ Output.keyResp status [] ∈ u.out ∧ u.frc.summary.getLsbD 7 = true
    (s.keysOpen sid = true → (s.tenant t).bindKey.getLsbD k = true → v.installed = false →
      (secret.length = 32 → (∀ g ∈ signed, signerOk g = true) →
        ∃ u, exec (.keyDeliver sid k t flags secret signer nonce) s = .next u ∧ done u false secret signed ∧
          u.out = s.out ++ [.keyResp 0
            (if flags.getLsbD 1 then s.wrap flags secret (signed.getD (List.replicate 97 0)) nonce else [])]) ∧
      (secret.length = 32 → (∃ g ∈ signed, signerOk g = false) →
        ∃ u, exec (.keyDeliver sid k t flags secret signer nonce) s = .next u ∧ refused u 4) ∧
      (s.unwrap blob = some (key, sg) → (∀ g ∈ sg, signerOk g = true) →
        ∃ u, exec (.keyUnwrap sid k t flags blob) s = .next u ∧ done u true key sg ∧ u.out = s.out ++ [.keyResp 0 []]) ∧
      (s.unwrap blob = some (key, sg) → (∃ g ∈ sg, signerOk g = false) →
        ∃ u, exec (.keyUnwrap sid k t flags blob) s = .next u ∧ refused u 4) ∧
      (s.unwrap blob = none → ∃ u, exec (.keyUnwrap sid k t flags blob) s = .next u ∧ refused u 3)) ∧
    (s.keysOpen sid = true → secret.length = 32 → (s.tenant t).bindKey.getLsbD k = false →
      ∃ u, exec (.keyDeliver sid k t flags secret signer nonce) s = .next u ∧ refused u 1) ∧
    (s.keysOpen sid = true → secret.length = 32 → (s.tenant t).bindKey.getLsbD k = true → v.installed = true →
      ∃ u, exec (.keyDeliver sid k t flags secret signer nonce) s = .next u ∧ refused u 2) ∧
    (s.keysOpen sid = true → (s.tenant t).bindKey.getLsbD k = true →
      ∃ u, exec (.keyErase sid k t) s = .next u ∧ (u.keySlot k).installed = false ∧ (u.keySlot k).secret = [] ∧
        (u.keySlot k).signer = none ∧ (u.keySlot k).installs = v.installs ∧ (∀ j : Nat, j ≠ k → u.keySlot j = s.keySlot j) ∧
        (u.tenant t).mkSlot ≠ some k ∧ u.out = s.out ++ [.keyResp 0 []]) ∧
    (s.keysOpen sid = true → exec (.keyQuery sid) s = .next { s with
      out := s.out ++ [.keyResp 0 ((List.range 32).flatMap (fun n => leBytes 4 (s.keySlotReg n)))] }) ∧
    (s.responds = true → s.atStage sid .established = false →
      ∀ i ∈ [Instr.keyDeliver sid k t flags secret signer nonce, .keyUnwrap sid k t flags blob, .keyErase sid k t, .keyQuery sid],
        exec i s = .next { s with out := s.out ++ [.spdmError "VENDOR_DEFINED_REQUEST"] })

/-- R318: a blob that the device wrapped unwraps to the secret, and to the signer key where its flags tell of one. -/
def Obligations.WrappedBlobsUnwrap : Prop :=
  ∀ (flags : BitVec 8) (secret signer nonce : Bytes) (s : State), secret.length = 32 → signer.length = 97 → nonce.length = 12 →
    s.unwrap (s.wrap flags secret signer nonce) = some (secret, if flags.getLsbD 0 then some signer else none)

/-- R321, R323: the device presents its management certificate; without MGT_ROOT a handshake opens a provisioning session, else the
client's chain must end at it; a refusal keeps what is open. R347: that is for packets within 1,500 bytes and one VLAN tag
(notes/assumptions/65.md). A handshake replaces the session that is open, and words go to the operation that runs, as
notes/assumptions/34.md reads R321 and R324. R322: a
record of up to 512 accesses is taken. R324: a write of CTRL with GO starts the operation with the words of the transmit FIFO; data
words queue up to 256, then overflow, and go to the operation while it runs; a read of an empty receive FIFO answers zero and sets
UNDERFLOW. -/
def Obligations.ManagementPort : Prop :=
  ∀ (ch : ChainResult) (net : NetPacket) (v w : Reg32) (rest : List Reg32) (acc : List MgtAccess) (s : State),
    let m := s.mgt
    let cert := Config.mgtCert (Config.mgtKey s.fuse.dseed)
    let presented (t : TlsState) : State := { s with
      mgt := { m with tls := t }
      out := s.out ++ [.mgtCert cert (Config.identitySign s.fuse.idKey cert s.free)], free := s.free + 1 }
    (s.firmwareRuns = true → s.compHeld .mgmt = false → net.bytes ≤ 1500 → net.tags ≤ 1 →
      (s.sec.mgtRoot = none → exec (.mgtTlsHandshake ch true net) s = .next (presented .provisioning)) ∧
      (s.sec.mgtRoot = some ch.rootDigest → ch.verifies = true →
        exec (.mgtTlsHandshake ch true net) s = .next (presented .session)) ∧
      (s.sec.mgtRoot.isSome = true → s.sec.mgtRoot ≠ some ch.rootDigest ∨ ch.verifies = false →
        ∃ u, exec (.mgtTlsHandshake ch true net) s = .next u ∧ u.mgt = m ∧ Output.mgtRefused ∈ u.out ∧ u.sec.mgtRoot = s.sec.mgtRoot)) ∧
    (s.mgtOpen = true →
      (m.busy = false → m.tls = .session → v.getLsbD 30 = true → 1 ≤ (v.extractLsb' 24 4).toNat → (v.extractLsb' 24 4).toNat ≤ 8 →
        exec (.mgtRecord [⟨0, true, v⟩]) s = .next { s with
          mgt := { m with busy := true, op := v.extractLsb' 24 4, inp := m.tx, tx := [] } }) ∧
      exec (.mgtRecord [⟨8, false, v⟩]) s = .next { s with out := s.out ++ [.mgt [s.mgtStatus]] } ∧
      (512 < acc.length → exec (.mgtRecord acc) s = .next s) ∧
      (m.busy = true → exec (.mgtMboxDataWrite v) s = .next { s with mgt := { m with inp := m.inp ++ [v] } }) ∧
      (m.busy = false → m.tx.length < 256 → exec (.mgtMboxDataWrite v) s = .next { s with mgt := { m with tx := m.tx ++ [v] } }) ∧
      (m.busy = false → 256 ≤ m.tx.length → exec (.mgtMboxDataWrite v) s = .next { s with mgt := { m with overflow := true } }) ∧
      (m.rx = w :: rest → m.pend = [] →
        exec .mgtMboxDataRead s = .next { s with mgt := { m with rx := rest }, out := s.out ++ [.mgt [w]] }) ∧
      (m.rx = [] → exec .mgtMboxDataRead s = .next { s with mgt := { m with underflow := true }, out := s.out ++ [.mgt [0]] }))

/-- R323, R324, R240, R350: the mailbox operations. FW_STAGE takes an image whose signature and SECVERSION pass and that fits its half, and
refuses one whose checks fail; the roots take digests of twelve words and NETCFG its words while BOOTMON runs: each of these gives core 0
work at the firmware port, and ends with OK when what was written last has been read back, with ABORTED when the port's read differs.
LOG_READ and TELEMETRY give their words to the receive FIFO; SCAN_UNLOCK is taken
in AWAIT_HOST alone; SCAN_LOCK takes the test port back. The layout of the telemetry and of the device sectors,
the moment at which a root takes effect, NETCFG's limit and the result of a failed write are the model's (notes/assumptions/34.md,
notes/assumptions/61.md). -/
def Obligations.MailboxOperations : Prop :=
  ∀ (img : ImageCheck) (l : List Reg32) (job : FwJob) (data : Bytes) (retries : Nat) (ok : Bool) (s : State),
    let m := s.mgt
    let ended (r : BitVec 4) (m : Mgt) : Mgt := { m with result := r, inp := [], busy := false }
    let gave (u : State) (words : List Reg32) : Prop :=
      u.mgt.result = 0 ∧ u.mgt.rx ++ u.mgt.pend = m.rx ++ words ∧ (m.rx.length ≤ 256 → u.mgt.rx.length ≤ 256) ∧
      u.mgt.busy = !u.mgt.pend.isEmpty ∧ u.mgt.tx = m.tx
    let stored (u : State) : Prop := ∃ j, u.dep.jobs.getLast? = some j ∧ j.slot = 0x21 ∧ j.mbox = true ∧ j.image = none
    s.manages = true → m.busy = true → m.pend = [] →
    (m.op = 1 → m.input = some l → s.compHeld .bootmon = false → img.signatureOk = true → s.fuse.minSecVersion ≤ img.secVersion →
      s.imageFits (wordBytes l) = true → s.mboxWaits = false →
      ∃ u, exec (.fwStage img) s = .next u ∧ u.mgt = m ∧ u.sec = s.sec ∧ u.mtc = s.mtc ∧
        ∃ j, u.dep.jobs.getLast? = some j ∧ j.slot = 0x20 ∧ j.image = some (wordBytes l) ∧ j.mbox = true ∧
          j.steps = s.imageSteps (wordBytes l)) ∧
    (s.mboxWaits = true → ∀ i : Instr, (m.op = 1 ∧ i = .fwStage img) ∨ (m.op = 4 ∧ i = .setHostRoot) ∨ (m.op = 5 ∧ i = .setMgtRoot) ∨
      (m.op = 8 ∧ i = .netcfg) → m.input = some l → exec i s = .next (fwGo s)) ∧
    (let v := s.dep.fw
     let sec := v.raddr / 2 ^ 26
     let got := s.readUnit v.rkeys sec (v.raddr / 4096 % 16384) retries ok
     let same : Prop := unitWords got.1 = unitWords (unmarked data)
     v.rpend = true → s.sectorBusy sec = false → (s.die (s.dieOf sec)).owes (.port .fw) = false → got.2 = none → v.st = .ready →
      v.step = 0 → s.compHeld .bootmon = false → s.dep.jobs = [job] → job.running = true → job.steps = [.check v.raddr data] →
      job.dead = false → job.mbox = true →
      ∃ u, exec (.readUnitLoaded .fw retries ok) s = .next u ∧ u.dep.jobs = [] ∧
        (same → u.mgt = { ended 0 m with staged := if job.image.isSome then job.image else m.staged }) ∧
        (¬same → u.mgt = ended 2 m)) ∧
    (m.op = 1 → m.input = some l → s.mboxWaits = false → s.compHeld .bootmon = false →
      img.signatureOk = false ∨ img.secVersion < s.fuse.minSecVersion →
      ∃ u, exec (.fwStage img) s = .next u ∧ u.mgt = ended 3 m ∧ u.frc.summary.getLsbD 7 = true) ∧
    (m.op = 2 → s.compHeld .telem = false →
      ∃ u, exec .logRead s = .next u ∧ gave u (s.frc.entries.flatMap LogEntry.words) ∧ u.frc = s.frc) ∧
    (m.op = 3 → ∃ u, exec .telemetry s = .next u ∧ gave u s.telemetry ∧ u.frc = s.frc) ∧
    (m.op = 4 → m.input = some l → l.length = 12 → s.compHeld .bootmon = false → s.mboxWaits = false →
      ∃ u, exec .setHostRoot s = .next u ∧ u.mgt = m ∧ u.sec = { s.sec with hostRoot := some (wordBytes l) } ∧ stored u) ∧
    (m.op = 5 → m.input = some l → l.length = 12 → s.compHeld .bootmon = false → s.mboxWaits = false →
      ∃ u, exec .setMgtRoot s = .next u ∧ u.mgt = m ∧ u.sec = { s.sec with mgtRoot := some (wordBytes l) } ∧ stored u) ∧
    (m.op = 6 → s.glb.st = .awaitHost →
      exec .scanUnlock s = .next { s with mgt := ended 0 m, glb := { s.glb with scanUnlocked := true } }) ∧
    (m.op = 6 → s.glb.st ≠ .awaitHost →
      ∃ u, exec .scanUnlock s = .next u ∧ u.mgt = ended 1 m ∧ u.glb.scanUnlocked = s.glb.scanUnlocked ∧
        u.frc.summary.getLsbD 7 = true) ∧
    (m.op = 7 → ∃ u, exec .scanLock s = .next u ∧ u.mgt = ended 0 m ∧ u.glb.scanUnlocked = false ∧ u.glb.tapInstr.val ≤ 1) ∧
    (m.op = 8 → m.input = some l → l.length ≤ 15000 → s.compHeld .bootmon = false → s.mboxWaits = false →
      ∃ u, exec .netcfg s = .next u ∧ u.mgt = { m with net := l } ∧ u.sec = s.sec ∧ stored u)

/-! ## Windows and the PCIe port -/

/-- R334 to R337: a write of the host through an open window that its ACCESS, its pages and the tenant's ranges allow goes to the model
address of the window's base; to a closed window it is dropped and counted, and one not allowed is dropped. A read is answered with the
bytes, as 0xFF with EP set where one is poisoned, and with Unsupported Request where the window is closed or does not allow it, or in
D3hot. That an access whose range has left the tenant's ranges is one not allowed is the model's reading (notes/assumptions/30.md). -/
def Obligations.HostWindowAccesses : Prop :=
  ∀ (w : Fin 64) (off len : Nat) (data : Bytes) (s : State),
    let v := s.window false w
    let t := v.tenant.toNat
    let bytes := 4096 * (v.pages.toNat + 1)
    (s.hostReaches = true →
      (v.open_ = true → v.access.getLsbD 1 = true → off + data.length ≤ bytes →
        (s.tenant t).inRanges (v.base + off) data.length = true →
        exec (.hostWindowWrite w off data) s = .next (windowPut t (v.base + off) (data.map (fun b => (b, false))) s)) ∧
      (v.open_ = false → ∃ u, exec (.hostWindowWrite w off data) s = .next u ∧ u.mtc = s.mtc ∧ u.ten = s.ten ∧
        u.win.closedHost = satAdd s.win.closedHost 1) ∧
      (v.open_ = true → v.access.getLsbD 1 = false ∨ bytes < off + data.length ∨
          (s.tenant t).inRanges (v.base + off) data.length = false →
        ∃ u, exec (.hostWindowWrite w off data) s = .next u ∧ u.mtc = s.mtc ∧ u.ten = s.ten ∧
          u.win.closedHost = s.win.closedHost) ∧
      (let r := modelRead t (v.base + off) len s
       v.open_ = true → v.access.getLsbD 0 = true → off + len ≤ bytes → (s.tenant t).inRanges (v.base + off) len = true →
        (r.1.any (·.2) = false → ∃ u, exec (.hostWindowRead w off len) s = .next u ∧
          Output.cplData (r.1.map (·.1)) ∈ u.out ∧ u.win = s.win) ∧
        (r.1.any (·.2) = true → ∃ u, exec (.hostWindowRead w off len) s = .next u ∧ Output.cplPoison (List.replicate len 0xFF) ∈ u.out ∧
          u.frc.summary.getLsbD 0 = true)) ∧
      (v.open_ = false → ∃ u, exec (.hostWindowRead w off len) s = .next u ∧ Output.cplUnsupported ∈ u.out ∧ u.mtc = s.mtc ∧
        u.win.closedHost = satAdd s.win.closedHost 1) ∧
      (v.open_ = true → v.access.getLsbD 0 = false ∨ bytes < off + len ∨ (s.tenant t).inRanges (v.base + off) len = false →
        ∃ u, exec (.hostWindowRead w off len) s = .next u ∧ Output.cplUnsupported ∈ u.out ∧ u.mtc = s.mtc ∧
          u.win.closedHost = s.win.closedHost)) ∧
    (s.glb.portUp = true → s.glb.d3hot = true →
      exec (.hostWindowRead w off len) s = .next { s with out := s.out ++ [.cplUnsupported] })

/-- R330, R331, R334, R337: WINOPEN opens a free window with its tenant, access, base and pages, and one in use is WIN_BUSY; WINCLOSE
makes a window of the tenant closing, and gives PLAN_RANGE for any other, its head left in place (the model's reading,
notes/assumptions/24.md); a closing window retires, free again, and its WINCLOSE completes. With ECRC enabled an ECRC error is reported
through AER; D3hot is entered, and left with the configuration that the host sets (the model's operand, notes/assumptions/64.md). -/
def Obligations.WindowsOpenAndClose : Prop :=
  ∀ (cfg : PcieCfg) (t : Ten) (q : Que) (w0 w1 : BitVec 64) (peer : Bool) (w : Fin 64) (e : Issued) (s : State),
    let v := s.window peer w
    (w0.getLsbD 47 = peer → pf w0 37 32 = w.val → MayIssue s t q w0 w1 →
      (pOp w0 = 0x28 → v.open_ = false → v.closing = false → ∃ u, exec (.winopen t q w0 w1) s = .next u ∧ DoneAtHead s u t q w0 0 ∧
        u.window peer w = ⟨true, false, BitVec.ofNat 2 (pf w0 46 45), BitVec.ofNat 5 t, BitVec.ofNat 18 (pf w0 31 0 - 1),
          pf w1 47 12 * 4096, none⟩ ∧ ∀ (r : Bool) (x : Nat), (r, x) ≠ (peer, w.val) → u.window r x = s.window r x) ∧
      (pOp w0 = 0x28 → v.open_ = true ∨ v.closing = true →
        ∃ u, exec (.winopen t q w0 w1) s = .next u ∧ (u.queue t q).st = .faulted ∧ (u.queue t q).fcode = 0x9303 ∧
          u.window = s.window) ∧
      (pOp w0 = 0x29 → v.open_ = true → v.closing = false → v.tenant.toNat = t →
        ∃ u, exec (.winclose t q w0 w1) s = .next u ∧ OpenAtHead s u t q w0 ∧
          u.window peer w = { v with open_ := false, closing := true, closer := some (q.val, (s.queue t q).head) }) ∧
      (pOp w0 = 0x29 → v.tenant.toNat ≠ t → ∃ u, exec (.winclose t q w0 w1) s = .next u ∧ (u.queue t q).st = .faulted ∧
        (u.queue t q).fcode = 0x3104 ∧ (u.queue t q).head = (s.queue t q).head ∧ u.window = s.window)) ∧
    (v.closing = true → (peer = true → s.windowTraffic w = false) →
      (v.closer = none → exec (.windowRetire peer w) s = .next (s.setWindow peer w Window.init)) ∧
      (v.closer = some (q.val, e.idx) → v.tenant.toNat = t → e ∈ (s.queue t q).issued → e.status = none → e.cpl = true →
        ∃ u, exec (.windowRetire peer w) s = .next u ∧ u.window peer w = Window.init ∧
          ∃ e' ∈ (u.queue t q).issued, e'.idx = e.idx ∧ e'.status = some 0)) ∧
    (s.glb.portUp = true →
      (s.glb.pcie.ecrc = true →
        ∃ u, exec .pcieEcrc s = .next u ∧ Output.aer ∈ u.out ∧ u.glb = { s.glb with msixPba := u.glb.msixPba } ∧ u.mtc = s.mtc) ∧
      (s.glb.pcie.ecrc = false → exec .pcieEcrc s = .next s) ∧
      exec .d3hotEntry s = .next { s with glb := { s.glb with d3hot := true } } ∧
      ∃ u, exec (.d3hotExit cfg) s = .next u ∧ u.glb.d3hot = false ∧ u.glb.pcie = cfg ∧ u.glb.st = s.glb.st ∧ u.ten = s.ten ∧
        u.mtc = s.mtc ∧ u.win = s.win)

/-! ## Peer link -/

/-- R335, R337, R339, R340, R344: messages of one flit, taken in order. WR, not packed, writes at the window's base, or is answered with a
NAK of reason 1 where the window is not open; RDREQ is answered with the bytes under its tag where none is poison and a credit is held;
RDCPL gives its bytes to the read of its tag; SIGNAL adds to an event counter, saturating; GRAD of one entry adds an FP32 number to an
element; a NAK of a read makes its data poison (the model's choice, notes/assumptions/31.md). -/
def Obligations.PeerMessages : Prop :=
  ∀ (h : FlitHdr) (payload : Bytes) (r : PeerRead) (k : Nat) (s : State),
    let v := s.window true h.window
    let t := v.tenant.toNat
    let at_ := v.base + h.offset.toNat
    let n := h.mlen.toNat
    let taken (type : BitVec 8) : State := (takeFlit type h s).modWin (fun w => w.setRx h.vc none)
    let data := (modelRead t at_ n (takeFlit 0x02 h s)).1
    NextInOrder s h →
    (h.first = true → h.last = true → h.pack = false → n = payload.length → 1 ≤ n → n ≤ 236 →
      (PeerTakes s h 1 h.offset.toNat n →
        ∃ u, exec (.wr h payload) s = .next u ∧ u.win.rxNext = s.win.rxNext + 1 ∧
          u.mtc = (windowPut t at_ (payload.map (fun b => (b, false))) (taken 0x01)).mtc) ∧
      (v.open_ = false →
        ∃ u g, exec (.wr h payload) s = .next u ∧ u.win.rxNext = s.win.rxNext + 1 ∧ u.mtc = s.mtc ∧
          u.win.closedPeer = satAdd s.win.closedPeer 1 ∧ g.tag = h.tag ∧
          Output.flit (flitImage 0x11 g ([1, 0] ++ leBytes 2 h.fseq.toNat)) ∈ u.out)) ∧
    (PeerTakes s h 0 h.offset.toNat n → 1 ≤ n → n ≤ 236 → data.any (·.2) = false →
      1 ≤ (if h.vc then s.win.credits1 else s.win.credits0) →
      ∃ u g, exec (.rdreq h) s = .next u ∧ g.tag = h.tag ∧ g.first = true ∧ g.last = true ∧
        Output.flit (flitImage 0x03 g (data.map (·.1))) ∈ u.out ∧ u.win.rxNext = s.win.rxNext + 1) ∧
    (h.first = true → h.last = true → n = payload.length → sget none s.win.tags h.tag.toNat = some r →
      ∃ u, exec (.rdcpl h payload) s = .next u ∧ u.win.rxNext = s.win.rxNext + 1 ∧ u.mtc = s.mtc ∧
        sget none u.win.tags h.tag.toNat =
          some { r with data := (r.data ++ payload.map (fun b => (b, false))).take r.len, reqs := r.reqs.drop 1 }) ∧
    (s.win.link = .up → PeerTakes s h 1 0 1 → (∀ q : Que, (s.queue t q).waiting = none) →
      ∃ u, exec (.signal h payload) s = .next u ∧ u.mtc = s.mtc ∧
        let e := (payload.getD 0 0).toNat
        ((u.tenant t).event e).toNat = min (2 ^ 32 - 1) (((s.tenant t).event e).toNat + leNat ((payload.drop 2).take 2)) ∧
        ∀ j : Nat, j ≠ e → (u.tenant t).event j = (s.tenant t).event j) ∧
    (s.win.link = .legacy → h.first = true → h.last = true → n = 6 → payload.length = 6 → PeerTakes s h 1 h.offset.toNat 4 →
      let i := leNat (payload.take 2)
      i < 32768 → h.offset.toNat + 4 * i + 4 ≤ 4096 * (v.pages.toNat + 1) →
      ∃ u, exec (.grad h payload) s = .next u ∧ u.win.rxNext = s.win.rxNext + 1 ∧
        u.mtc = (gradAdd t (at_ + 4 * i) (BitVec.ofNat 32 (leNat (payload.drop 2))) (taken 0x05)).mtc) ∧
    (sget none s.win.tags k = some r → BitVec.ofNat 12 (leNat ((payload.drop 2).take 2)) ∈ r.reqs → r.len ≤ 4096 →
      ∃ u r', exec (.nak h payload) s = .next u ∧ sget none u.win.tags k = some r' ∧ r'.con = r.con ∧ r'.len = r.len ∧
        r'.data.length = r.len ∧ r'.data.take r.data.length = (r.data.take r.len) ∧
        (∀ b ∈ r'.data.drop r.data.length, b = (0, true)) ∧ u.mtc = s.mtc)

/-- R338, R339, R341, R342: a peer that appears trains the link: with all eight lanes it is up at full width, with the lower or the upper
four at half width, in version 1 in its legacy form, with 256 credits a VC; with other lanes (the model's reading,
notes/assumptions/65.md) or no version it is down. CREDIT brings credits back; REPLAY sends what is held again, and at the eighth time
the link trains anew; IDLE acknowledges; a flit of bad CRC, and one out of order, is discarded and answered with REPLAY; after 64
flits or 1 µs the flits taken are acknowledged, with CREDIT where credits are owed and else with IDLE (that IDLE carries it is the
model's reading, notes/assumptions/32.md). A flit's 256 bytes hold its
TYPE, its payload and a CRC-32 that checks, and its header reads back from them in every field. -/
def Obligations.PeerLink : Prop :=
  ∀ (ver : Fin 3) (lanes : BitVec 8) (h : FlitHdr) (payload flit : Bytes) (s : State),
    let w := s.win
    let low := lanes &&& 0x0F = 0x0F
    let high := lanes &&& 0xF0 = 0xF0
    let asked : Output := .flit (flitImage 0x13 { FlitHdr.zero with ackv := true, ackseq := w.rxNext - 1 } [])
    (s.firmwareRuns = true → s.glb.peerPrsntN = true →
      (1 ≤ ver.val → low ∨ high → ∃ u, exec (.peerLinkTrain true ver lanes) s = .next u ∧ u.glb.peerPrsntN = false ∧
        u.win.link = (if ver.val = 1 then .legacy else .up) ∧ u.win.lanes.toNat = (if lanes = 0xFF then 8 else 4) ∧
        (low ↔ u.win.upper = false) ∧ u.win.credits0 = 256 ∧ u.win.credits1 = 256 ∧ u.win.txNext = 0 ∧ u.win.rxNext = 0 ∧
        u.win.hostW = w.hostW ∧ u.mtc = s.mtc) ∧
      (ver.val = 0 ∨ (¬low ∧ ¬high) → ∃ u, exec (.peerLinkTrain true ver lanes) s = .next u ∧ u.win.link = .down ∧
        u.win.lanes = 0)) ∧
    (exec (.peerLinkTrain false ver lanes) s = .next { s with glb := { s.glb with peerPrsntN := true } }) ∧
    (NextInOrder s h → h.ackv = false →
      ∃ u, exec (.credit h payload) s = .next u ∧ u.win.credits0 = w.credits0 + leNat (payload.take 2) ∧
        u.win.credits1 = w.credits1 + leNat ((payload.drop 2).take 2) ∧ u.win.rxNext = w.rxNext + 1 ∧
        u.win.replayBuf = w.replayBuf ∧ u.out = s.out) ∧
    (w.linked = true → w.txWait = [] → (∀ f ∈ w.replayBuf, f.h.fseq ≠ h.ackseq) → w.replayCount < 7 →
      exec (.replay h) s = .next { s with
        win := { w with replayCount := w.replayCount + 1 }
        out := s.out ++ w.replayBuf.map (fun f => Output.flit (flitImage f.type f.h f.payload)) }) ∧
    (w.linked = true → (∀ f ∈ w.replayBuf, f.h.fseq ≠ h.ackseq) → w.replayCount = 7 →
      ∃ u, exec (.replay h) s = .next u ∧ u.win.link = .training ∧ u.win.retrains = satAdd w.retrains 1 ∧
        u.win.replayBuf = w.replayBuf) ∧
    (w.linked = true → w.txWait = [] → h.ackv = true → ∀ (a b : List TxFlit) (f : TxFlit), w.replayBuf = a ++ f :: b →
      f.h.fseq = h.ackseq → (∀ g ∈ a, g.h.fseq ≠ h.ackseq) →
      exec (.idle h) s = .next { s with win := { w with replayBuf := b, replayCount := 0 } }) ∧
    (w.linked = true → flitGood flit = false → w.rxReplays < 7 →
      exec (.badFlit flit) s = .next { s with
        win := { w with crcErr := satAdd w.crcErr 1, replays := satAdd w.replays 1, rxReplays := w.rxReplays + 1, sinceAck := 0 }
        out := s.out ++ [asked] }) ∧
    (w.linked = true → w.rxReplays = 0 →
      let discarded : State := { s with
        win := { w with replays := satAdd w.replays 1, rxReplays := 1, sinceAck := 0 }, out := s.out ++ [asked] }
      (flitGood flit = true → flit.getD 0 0 ≠ 0x13 → flit.getD 0 0 ≠ 0x1F → (hdrRead flit).fseq ≠ w.rxNext →
        exec (.badFlit flit) s = .next discarded) ∧
      (h.fseq ≠ w.rxNext →
        ∀ i ∈ [Instr.wr h payload, .rdreq h, .rdcpl h payload, .signal h payload, .grad h payload, .nak h payload, .credit h payload],
          exec i s = .next discarded)) ∧
    (w.linked = true → 64 ≤ w.sinceAck ∨ w.ackTime + 100 ≤ s.glb.devTime →
      (w.owed0 = 0 → w.owed1 = 0 → 1 ≤ w.sinceAck → exec .peerAcknowledge s = .next { s with
        win := { w with sinceAck := 0 }
        out := s.out ++ [.flit (flitImage 0x1F { FlitHdr.zero with ackv := true, ackseq := w.rxNext - 1 } [])] }) ∧
      (1 ≤ w.owed0 + w.owed1 → w.txWait = [] → w.replayBuf.length < 1024 →
        ∃ u g, exec .peerAcknowledge s = .next u ∧ u.win.owed0 = 0 ∧ u.win.owed1 = 0 ∧
          Output.flit (flitImage 0x12 g (leBytes 2 w.owed0 ++ leBytes 2 w.owed1)) ∈ u.out)) ∧
    (payload.length ≤ 236 → ∀ type : BitVec 8,
      let b := flitImage type h payload
      b.length = 256 ∧ flitGood b = true ∧ b.head? = some type ∧ hdrRead b = h ∧ (b.drop 16).take payload.length = payload)

/-! ## Side ports -/

/-- R348, R350: an SMBus transaction with the target's address 0x58 + SMB_ADDR is answered with its bytes where its PEC is right and not
acknowledged where it is not; one with another address is let pass; CLEAR_ALERT releases SMB_ALERT_N. The test port takes BYPASS and
IDCODE always, its other instructions only while scan is unlocked, and BYPASS in their place else; IDCODE shifts out the word,
SAMPLE/PRELOAD and EXTEST the boundary register, the others the bypass bit; EXTEST and CLAMP drive THERM_N and SMB_ALERT_N from their
cells, HIGHZ releases them, and SAFE_HOLD_N is never driven. Which balls have cells, and what is answered in OFF and RESET, is the
model's reading (notes/assumptions/64.md, notes/assumptions/36.md). -/
def Obligations.SideBandPorts : Prop :=
  ∀ (addr : BitVec 7) (pec : Bool) (tdi : List Bool) (s : State),
    let g := s.glb
    let own : BitVec 7 := 0x58 + g.smbAddr.setWidth 7
    let answer (b : Bytes) : State := { s with out := s.out ++ [.smb b] }
    let shifted (r : List Bool) : List Bool := (r ++ tdi).take tdi.length
    let left (r : List Bool) : List Bool := (r ++ tdi).drop tdi.length
    let bypassed (i : Fin 6) (balls : List (Option Bool)) : State := { s with
      glb := { g with tapInstr := i, bypassBit := (left [false]).getD 0 false }
      out := s.out ++ [.jtagBits (shifted [false]), .balls balls] }
    let scanned (i : Fin 6) (balls : List (Option Bool)) : State := { s with
      glb := { g with tapInstr := i, scanCells := left s.cells }
      out := s.out ++ [.jtagBits (shifted s.cells), .balls balls] }
    let pins := [some g.thermN, some g.smbAlertN, some g.safeHoldN]
    let cells (c : List Bool) := [some (c.getD 6 false), some (c.getD 7 false), some g.safeHoldN]
    g.st ≠ .off → g.st ≠ .reset →
    exec (.smbState own true) s = .next (answer [BitVec.ofNat 8 (devCode g.st)]) ∧
    exec (.smbIdent own true) s = .next (answer (leBytes 4 s.ident.toNat)) ∧
    exec (.smbTemp own true) s = .next (answer (leBytes 2 g.temp.toNat)) ∧
    exec (.smbPower own true) s = .next { answer (leBytes 4 s.powerNow.toNat) with free := s.free + 1 } ∧
    exec (.smbXpr own true) s = .next (answer (leBytes 4 s.xprStatus)) ∧
    exec (.clearAlert own true) s = .next { s with glb := { g with smbAlertN := true } } ∧
    (∀ i ∈ [Instr.smbState own false, .smbIdent own false, .smbTemp own false, .smbXpr own false, .clearAlert own false],
      exec i s = .next { s with out := s.out ++ [.smbNack] }) ∧
    (addr ≠ own →
      ∀ i ∈ [Instr.smbState addr pec, .smbIdent addr pec, .smbTemp addr pec, .smbXpr addr pec, .clearAlert addr pec],
        exec i s = .next s) ∧
    exec (.bypass tdi) s = .next (bypassed 0 pins) ∧
    exec .idcode s = .next { s with glb := { g with tapInstr := 1 }, out := s.out ++ [.jtag (BitVec.ofNat 32
      (s.fuse.stepMajor.toNat * 2 ^ 28 + 0x0A96 * 2 ^ 12 + 0x4B3 * 2 + 1))] } ∧
    (g.scanUnlocked = true →
      exec (.samplePreload tdi) s = .next (scanned 2 pins) ∧ exec (.extest tdi) s = .next (scanned 3 (cells (left s.cells))) ∧
      exec (.clamp tdi) s = .next (bypassed 4 (cells g.scanCells)) ∧
      exec (.highz tdi) s = .next (bypassed 5 [none, none, some g.safeHoldN])) ∧
    (g.scanUnlocked = false →
      ∀ i ∈ [Instr.samplePreload tdi, .extest tdi, .clamp tdi, .highz tdi], exec i s = .next (bypassed 0 pins))

/-! ## Clocks, power, start-up -/

/-- R359, R360, R363, R364, R366, R367, R377: the two words of GLB_RESET within 1 ms reset the device, and any other word starts over;
POR_N, a clock that loses lock and a monitored rail reset it too, each with its cause; a loss of VDD_AUX resets nothing; POR_N's
release and the PLLs' lock lead to BOOT; PERST_N takes the PCIe port down, and the host with it; the port up again, the host
configures it (the model's operand, notes/assumptions/64.md). -/
def Obligations.ResetsAndRails : Prop :=
  ∀ (cfg : PcieCfg) (v : Reg32) (r : Rail) (t : Nat) (s : State),
    let g := s.glb
    (s.hostReaches = true → g.lost = false →
      (v.toNat % 65536 = 0xA96E → exec (.glbResetWrite v) s = .next { s with glb := { g with resetKey := some g.devTime } }) ∧
      (v.toNat % 65536 = 0x69EA → g.resetKey = some t → g.devTime ≤ t + 100000 →
        ∃ u, exec (.glbResetWrite v) s = .next u ∧ InReset 0x02 s u ∧ u.glb.prev = g.st) ∧
      (v.toNat % 65536 ≠ 0xA96E → v.toNat % 65536 ≠ 0x69EA ∨ g.resetKey = none →
        exec (.glbResetWrite v) s = .next { s with glb := { g with resetKey := none } })) ∧
    (g.resetKey = some t → t + 100000 < g.devTime →
      exec .glbResetSequenceTimeout s = .next { s with glb := { g with resetKey := none } }) ∧
    (∃ u, exec .porNAssert s = .next u ∧ u.glb.st = .reset ∧ u.glb.cause = 0x01 ∧ u.glb.porN = false ∧ u.glb.prev = .off ∧
      u.ten = [] ∧ u.frc = State.reset.frc ∧ u.fuse = s.fuse ∧ u.dep.units = s.dep.units) ∧
    (g.porN = false → ∃ u, exec .porNRelease s = .next u ∧ u.glb.porN = true ∧ u.glb.devTime = 0 ∧ u.glb.st = g.st ∧
      u.ten = s.ten ∧ (g.logResetDue = true → u.frc.logWr = s.frc.logWr + 1 ∧
        (sget LogEntry.init u.frc.log (s.frc.logWr.toNat % 1024)).code = 0xA303)) ∧
    (g.st = .reset → g.porN = true → g.railHeld = false → g.thermHeld = false →
      ∃ u, exec (.pllLock cfg) s = .next u ∧ u.glb.st = .boot ∧ u.glb.prev = .reset ∧ u.glb.pllLocked = true ∧
        u.glb.safeHoldN = g.vddAux ∧ u.glb.portUp = g.perstN ∧ u.glb.pcie = (if g.perstN then cfg else g.pcie) ∧ u.ten = s.ten) ∧
    (g.pllLocked = true → ∃ u, exec .pllUnlock s = .next u ∧ InReset 0x03 s u) ∧
    (r ≠ 9 → g.porN = true → ∃ u, exec (.railFault r) s = .next u ∧ InReset 0x05 s u ∧ u.glb.railHeld = true ∧
      u.glb.railsOk = false) ∧
    (g.railHeld = true → 100000 ≤ g.devTime →
      exec .railRecovery s = .next { s with glb := { g with railsOk := true, railHeld := false } }) ∧
    exec .vddAuxLoss s = .next { s with glb := { g with vddAux := false, safeHoldN := false } } ∧
    (∃ u, exec .perstNAssert s = .next u ∧ u.glb.perstN = false ∧ u.glb.portUp = false ∧ u.glb.d3hot = false ∧
      u.glb.attached = false ∧ (g.attached = true → u.glb.lost = true ∧ u.glb.losses = satAdd g.losses 1 ∧ u.sec.sessions = []) ∧
      u.glb.st = g.st ∧ u.mtc = s.mtc) ∧
    (∃ u, exec (.perstNRelease cfg) s = .next u ∧ u.glb.perstN = true ∧ u.glb.portUp = (g.portUp || g.pllLocked) ∧
      (u.glb.portUp = true → u.glb.pcie = cfg) ∧ u.glb.st = g.st ∧ u.ten = s.ten ∧ u.mtc = s.mtc)

/-- R314, R319, R349, R363: the start-up in its order. BOOT draws BNONCE and fills the four device slots, VERIFY and TRAIN follow; TRAIN
takes eight channels alike, of 6,400, 7,500 or 8,533 MT/s, 1 or 2 ranks and 8 to 32 GiB each, and lays the pools out; SELFTEST leads
to AWAIT_HOST. A VERIFY that fails and a failed SELFTEST lead to REJECTED with BOOT_FAIL, a yard not allowed leads there with
YARD_CONFIG.
R368: the alert, throttle and trip limits, 105, 110 and 120 °C for grade S and 5 °C more for grade X, in 1/256 °C. An alert pulls
SMB_ALERT_N low, the throttle limit gates work until the die is below it, the trip drives THERM_N low and resets the device, which stays
in RESET until the die is below the alert limit. A temperature that first passes the alert limit on the way to a higher one pulls
SMB_ALERT_N low too. When a throttle is released (below its own limit), and that THERM_N goes high again below the alert limit, is the
model's reading (notes/assumptions/54.md). -/
def Obligations.StartUpAndThermalLimits : Prop :=
  (∀ (nonce : Bytes) (ch : List (Nat × Nat × Nat)) (c : Nat × Nat × Nat) (pv : Fin 3) (pl : BitVec 8) (a b : Bool) (s : State),
      (s.glb.st = .boot → ∃ u, exec (.bootDone nonce) s = .next u ∧ u.glb.st = .verify ∧ u.glb.prev = .boot ∧ u.sec.bnonce = nonce ∧
        (∀ k : Fin 4, (u.keySlot (0x20 + k)).installed = true) ∧ (∀ k : Nat, k < 0x20 → u.keySlot k = s.keySlot k) ∧
          u.sec.sram.isSome = true) ∧
      (s.glb.st = .verify → ∃ u, exec (.verifyDone true) s = .next u ∧ u.glb.st = .train ∧ u.mtc = s.mtc ∧ u.sec = s.sec) ∧
      (s.glb.st = .verify → ∃ u, exec (.verifyDone false) s = .next u ∧ u.glb.st = .rejected ∧ u.frc.summary.getLsbD 9 = true) ∧
      (s.glb.st = .train → ch = List.replicate 8 c → c.1 ∈ [6400, 7500, 8533] → 1 ≤ c.2.1 → c.2.1 ≤ 2 → 8 ≤ c.2.2 → c.2.2 ≤ 32 →
        s.glb.peerPrsntN = true →
        ∃ u, exec (.trainDone true ch pv pl) s = .next u ∧ u.glb.st = .selftest ∧ u.mtc.yardGiB = 8 * c.2.2 ∧ u.mtc.yardRate = c.1 ∧
          u.mtc.yardRanks = c.2.1 ∧
          u.mtc.stkFree = BitVec.ofNat 16 (stackedPool (8 * c.2.2)) ∧ u.mtc.yardFree = BitVec.ofNat 17 (yardPool (8 * c.2.2))) ∧
      (s.glb.st = .train → yardAccepted ch = false →
        ∃ u, exec (.trainDone a ch pv pl) s = .next u ∧ u.glb.st = .rejected ∧ u.frc.summary.getLsbD 8 = true) ∧
      (s.glb.st = .selftest → a = false ∨ b = false →
        ∃ u, exec (.selftestDone a b) s = .next u ∧ u.glb.st = .rejected ∧ u.frc.summary.getLsbD 9 = true) ∧
      (s.glb.st = .selftest →
        ∃ u, exec (.selftestDone true true) s = .next u ∧ u.glb.st = .awaitHost ∧ u.glb.prev = .selftest ∧ u.sec.engineOk = true ∧
          ((setDev .awaitHost { s with sec := { s.sec with engineOk := true } }).bootList = [] → s.dep.loads = [] → u.ten = s.ten))) ∧
  (∀ (cfg : PcieCfg) (temp : BitVec 16) (s : State),
      let alert : Int := if s.fuse.grade = 1 then 256 * 105 else 256 * 110
      (s.glb.porN = true → alert ≤ temp.toInt → s.glb.temp.toInt < alert →
        ∃ u, exec (.thermAlert temp) s = .next u ∧ u.glb.temp = temp ∧ u.glb.alertSeen = true ∧ u.glb.smbAlertN = false ∧
          u.glb.st = s.glb.st ∧ u.glb.throttle = s.glb.throttle ∧ u.ten = s.ten) ∧
      (s.glb.porN = true → alert + 256 * 5 ≤ temp.toInt → s.glb.throttle = false →
        ∃ u, exec (.thermThrottle temp) s = .next u ∧ u.glb.temp = temp ∧ u.glb.throttle = true ∧ u.glb.throttleSeen = true ∧
          (s.glb.temp.toInt < alert → u.glb.smbAlertN = false) ∧ u.glb.st = s.glb.st ∧ u.ten = s.ten) ∧
      (s.glb.porN = true → temp.toInt < alert + 256 * 5 →
        ∃ u, exec (.throttleRelease temp) s = .next u ∧ u.glb.temp = temp ∧ u.glb.throttle = false ∧ u.glb.st = s.glb.st ∧
          u.ten = s.ten ∧ (temp.toInt < alert ∨ alert ≤ s.glb.temp.toInt →
            u = { s with glb := { s.glb with temp := temp, throttle := false } })) ∧
      (alert + 256 * 15 ≤ temp.toInt → s.glb.porN = true → s.glb.thermHeld = false →
        ∃ u, exec (.thermTrip temp) s = .next u ∧ InReset 0x04 s u ∧ u.glb.thermN = false ∧ u.glb.thermHeld = true ∧
          u.glb.temp = 0 ∧ (s.glb.temp.toInt < alert → u.glb.smbAlertN = false)) ∧
      (s.glb.thermHeld = true → temp.toInt < alert →
        exec (.thermTripRelease temp) s = .next { s with glb := { s.glb with temp := temp, thermN := true, thermHeld := false } }) ∧
      (s.glb.thermHeld = true → exec (.pllLock cfg) s = .next s) ∧
      (s.glb.porN = false → ∀ i ∈ [Instr.thermAlert temp, .thermThrottle temp, .throttleRelease temp, .thermTrip temp],
        exec i s = .next s))

/-! ## Registers -/

/-- R6, R8, R9, R329, R330, R332: within the 64 MiB of BAR0 a read of four bytes answers the register: of a low half, the value now, and
the high half is latched for the read of the half above it. An access of eight bytes is two of four in ascending order; a narrower
read has every effect of the read of its register and answers the bytes addressed, a narrower write is ignored; more than eight bytes
end with Completer Abort, an unaligned access reads as zeros and its write is ignored. An access beyond BAR0's 64 MiB addresses nothing
of this device; the stop there is the model's own choice (notes/assumptions/68.md). -/
def Obligations.RegisterAccesses : Prop :=
  ∀ (who : Agent) (off size : Nat) (val : BitVec 64) (h : Reg32) (s : State),
    (off + size ≤ 2 ^ 26 → s.glb.portUp = true → s.glb.d3hot = false →
      (size = 4 → off % 4 = 0 → isLowHalf off = true → off ≠ 0x40004C → off ≠ 0x24 →
        ∃ u, exec (.lowHalfReadLatch off size) s = .next u ∧ u.out = s.out ++ [.regRead off (BitVec.ofNat 64 (s.regNow off % 2 ^ 32))] ∧
          sget none u.glb.latches (off + 4) = some (BitVec.ofNat 32 (s.regNow (off + 4)))) ∧
      (size = 4 → off % 4 = 0 → 4 ≤ off → isLowHalf (off - 4) = true → isLowHalf off = false → off ≠ 0x40004C → off ≠ 0x24 →
        sget none s.glb.latches off = some h →
        exec (.lowHalfReadLatch off size) s = .next { s with out := s.out ++ [.regRead off (BitVec.ofNat 64 h.toNat)] }) ∧
      (size = 8 → off % 4 = 0 → ∃ (u1 u2 : State) (v1 v2 : Reg32),
        exec (.lowHalfReadLatch off 4) s = .next { u1 with out := u1.out ++ [.regRead off (v1.setWidth 64)] } ∧
        exec (.lowHalfReadLatch (off + 4) 4) u1 = .next { u2 with out := u2.out ++ [.regRead (off + 4) (v2.setWidth 64)] } ∧
        exec (.lowHalfReadLatch off 8) s = .next { u2 with out := u2.out ++ [.regRead off (v2 ++ v1)] }) ∧
      (1 ≤ size → off % 4 + size ≤ 4 → ∃ (u : State) (v : Reg32),
        exec (.lowHalfReadLatch (off / 4 * 4) 4) s = .next { u with out := u.out ++ [.regRead (off / 4 * 4) (v.setWidth 64)] } ∧
        exec (.lowHalfReadLatch off size) s = .next { u with
          out := u.out ++ [.regRead off (BitVec.ofNat 64 (v.toNat / 2 ^ (8 * (off % 4)) % 2 ^ (8 * size)))] }) ∧
      (8 < size → exec (.bar0OversizeRead off size) s = .next { s with out := s.out ++ [.cplAbort] }) ∧
      (accessAligned off size = false → size ≤ 8 →
        exec (.unalignedAccess false off size) s = .next { s with out := s.out ++ [.regRead off 0] })) ∧
    (off + size ≤ 2 ^ 26 →
      exec (.unalignedAccess true off size) s = .next s ∧
      (∃ u, exec (.registerWrite who off val size) s = .next u) ∧
      (off % 4 ≠ 0 ∨ (size ≠ 4 ∧ size ≠ 8) → exec (.registerWrite who off val size) s = .next s)) ∧
    (off + 8 ≤ 2 ^ 26 → off % 4 = 0 → ∃ u, exec (.registerWrite who off (val &&& 0xFFFFFFFF) 4) s = .next u ∧
      exec (.registerWrite who off val 8) s = exec (.registerWrite who (off + 4) (val >>> 32) 4) u) ∧
    (2 ^ 26 < off + size →
      ∀ i ∈ [Instr.lowHalfReadLatch off size, .registerWrite who off val size, .unalignedAccess false off size,
          .bar0OversizeRead off size],
        exec i s = .fault .outsideBar0)

/-- R372, R374, R375, R378: an occurrence that the newest entry of the log matches in CODE, FLAGS, UNIT and ARG, less than 1 ms after that
entry's TIME and with its REPEAT below 255, raises REPEAT, writes no entry and sends no message; one that differs in these, comes more
than 1 ms after or finds REPEAT at 255 is entry FRC_LOG_WR, with device time, that number, code, flags, unit, ARG and address and REPEAT
0, in place of the entry 1,024 before it, and FRC_LOG_WR counts it. No other entry changes. A fault sets its class's bit of FRC_SUMMARY,
and FRC_FIRST takes it where none stands. Coalesced or not, an occurrence counts in the counters of its block: UE_POISON in FRC_POISON,
WIN_CLOSED_WR in the window's count. A disagreement of core 7 and its twin is recorded so, as LOCKSTEP of unit 0x0207. -/
def Obligations.FaultLog : Prop :=
  ∀ (c : BitVec 16) (t : Option Ten) (unit arg addr : Nat) (w : Fin 64) (off : Nat) (data : Bytes) (s : State),
    let f := s.frc
    let at_ (k : Nat) := sget LogEntry.init f.log k
    let newest := at_ ((f.logWr - 1).toNat % 1024)
    let fault : Bool := !eventCodes.contains c
    let flags := logFlags c (t.map Fin.val)
    let same := f.held ≠ 0 ∧ newest.code = c ∧ newest.flags = flags ∧ newest.unit = unit ∧ newest.arg = arg
    let u := record c (t.map Fin.val) unit arg addr s
    flags.getLsbD 7 = fault ∧ flags.getLsbD 6 = t.isSome ∧ flags.getLsbD 5 = false ∧
    (∀ n : Ten, t = some n → flags.toNat % 32 = n) ∧
    (same → s.glb.devTime < newest.time.toNat + 100000 → newest.rep.toNat < 255 →
      u.frc.logWr = f.logWr ∧ u.out = s.out ∧ u.glb = s.glb ∧
      ∀ k : Nat, sget LogEntry.init u.frc.log k =
        if k = (f.logWr - 1).toNat % 1024 then { newest with rep := newest.rep + 1 } else at_ k) ∧
    (¬same ∨ newest.time.toNat + 100000 < s.glb.devTime ∨ newest.rep = 255 → u.frc.logWr = f.logWr + 1 ∧
      (s.glb.attached = true → s.glb.pcie.msixOn = true → s.vectorMasked 0 = false → s.glb.pcie.ecrc = false →
        u.out = s.out ++ [.msix 0]) ∧
      ∀ k : Nat, sget LogEntry.init u.frc.log k =
        if k = f.logWr.toNat % 1024 then ⟨s.glb.devTime, f.logWr, c, flags, 0, unit, arg, addr⟩ else at_ k) ∧
    u.frc.poison = (if c = 0x1202 then satAdd f.poison 1 else f.poison) ∧
    (1 ≤ c.toNat / 4096 → ∀ j : Nat, u.frc.summary.getLsbD j = (f.summary.getLsbD j || (fault && c.toNat / 4096 - 1 == j && decide (j < 10)))) ∧
    (fault = true → f.firstValid = false → u.frc.firstValid = true ∧ u.frc.firstCode = c ∧
      ∀ n : Ten, t = some n → u.frc.firstTenant.toNat = n) ∧
    (s.hostReaches = true → (s.window false w).open_ = false →
      ∃ v, exec (.hostWindowWrite w off data) s = .next v ∧ v.win.closedHost = satAdd s.win.closedHost 1) ∧
    (s.glb.porN = true → s.anyArmed = false → exec .lockstep s = .next (record 0x6004 none 0x0207 0 0 s))

/-- R9, R10, R11, R86, R227, R260, R308: a host's write of FRC_SUMMARY, FRC_FIRST, ARY_SEEN or the write-one-to-clear bits of GLB_THERM
clears the bits written 1 and no other, but for summary bits that a fault set in the same reference cycle and holds still active;
MTC_POLICY and WSC_RELOAD take their shadows within their limits; a write to the read-only ARY_ID leaves all as it is; ARY_SEG_LIMIT is
written by planner firmware while the array is IDLE, BOUND or LOADED. While the host is lost it writes no register but GLB_DRVVER and
GLB_HEARTBEAT. That FRC_FIRST's TENANT and CODE read zero once VALID is cleared is the model's reading (notes/assumptions/25.md). -/
def Obligations.RegisterFields : Prop :=
  ∀ (v : Reg32) (a : Ary) (s : State),
    let fresh : BitVec 10 := if s.frc.setTime = s.glb.devTime then s.frc.setBits else 0
    let w (off : Nat) : Instr := .registerWrite .host off (v.setWidth 64) 4
    (s.hostReaches = true → s.glb.attached = true → s.glb.lost = false →
      exec (w 0x300000) s = .next { s with frc := { s.frc with
        summary := s.frc.summary &&& ~~~(BitVec.ofNat 10 (bitsOf v.toNat 10 1)) ||| (s.frc.summary &&& fresh) } } ∧
      (v.getLsbD 31 = true → fresh = 0 → exec (w 0x300004) s = .next { s with frc := { s.frc with
        firstValid := false, firstTenant := 0, firstCode := 0 } }) ∧
      exec (w 0x500004) s = .next { s with mtc := { s.mtc with
        autoSh := v.getLsbD 31, promoteSh := BitVec.ofNat 8 (bitsOf v.toNat 23 16), hystSh := BitVec.ofNat 8 (bitsOf v.toNat 15 8)
        rateSh := BitVec.ofNat 8 (max 1 (min 128 (bitsOf v.toNat 7 0))) } } ∧
      exec (w 0x40003C) s = .next { s with dep := { s.dep with
        intervalSh := BitVec.ofNat 8 (bitsOf v.toNat 15 8), shareSh := BitVec.ofNat 5 (max 1 (min 20 (bitsOf v.toNat 4 0))) } } ∧
      exec (w (0x800000 + 0x20000 * a)) s = .next s ∧
      exec (w (0x80000C + 0x20000 * a)) s = .next (s.setArr a { s.arr a with
        holdSeen := (s.arr a).holdSeen &&& ~~~(BitVec.ofNat 6 v.toNat) ||| (s.arr a).activeSrcs }) ∧
      exec (w 0x0C) s = .next { s with glb := { s.glb with
        alertSeen := s.glb.alertSeen && !v.getLsbD 15, throttleSeen := s.glb.throttleSeen && !v.getLsbD 13 } }) ∧
    (s.glb.lost = true → ∀ off : Nat, off + 4 ≤ 2 ^ 26 → off ≠ 0x14 → off ≠ 0x18 → exec (w off) s = .next s) ∧
    (s.firmwareRuns = true → (s.arr a).st = .idle ∨ (s.arr a).st = .bound ∨ (s.arr a).st = .loaded →
      let n := bitsOf v.toNat 20 0
      exec (.registerWrite .planner (0x800024 + 0x20000 * a) (v.setWidth 64) 4) s = .next (s.setArr a { s.arr a with
        segLimit := BitVec.ofNat 21 (if n = 0 ∨ 1500000 < n then 1500000 else n) }))

end
end

