-- ==== Sys2Proof/Laws/Store.lean ====
section
/-! SUPPORT. What reading a sparse table gives after each way of writing it, and that every way of writing keeps the canonical form. -/

namespace Sys2Proof.Machine

variable {α : Type}

/-! ## Reading after writing -/

theorem sget_sdel_same (d : α) (m : Store α) (k : Nat) : sget d (sdel m k) k = d := by
  induction m with
  | nil => rfl
  | cons e r ih =>
    unfold sdel at ih ⊢
    by_cases h : e.1 = k <;> simp [sget, h, ih]

theorem sget_sdel_other (d : α) (m : Store α) {k j : Nat} (h : j ≠ k) : sget d (sdel m k) j = sget d m j := by
  induction m with
  | nil => rfl
  | cons e r ih =>
    unfold sdel at ih ⊢
    by_cases he : e.1 = k
    · have : ¬ e.1 = j := fun hj => h (hj ▸ he)
      simp [sget, he, ih]
      intro hk; exact absurd hk.symm h
    · simp [sget, he, ih]

theorem sget_sins (d : α) (m : Store α) (k j : Nat) (v : α) (hk : ∀ e ∈ m, e.1 ≠ k) :
    sget d (sins k v m) j = if j = k then v else sget d m j := by
  induction m with
  | nil => simp [sins, sget, eq_comm]
  | cons e r ih =>
    have hr : ∀ e ∈ r, e.1 ≠ k := fun x hx => hk x (List.mem_cons_of_mem _ hx)
    have he : e.1 ≠ k := hk e (List.mem_cons_self ..)
    unfold sins
    split
    · simp [sget, eq_comm]
    · simp only [sget, ih hr]
      by_cases hj : e.1 = j
      · have : j ≠ k := fun h => he (hj.trans h)
        simp [hj, this]
      · simp [hj]

theorem mem_sdel {m : Store α} {k : Nat} {e : Nat × α} (h : e ∈ sdel m k) : e.1 ≠ k := by
  simpa using (List.mem_filter.mp h).2

/-- A table reads back what was written, at the key written and at every other. -/
@[simp] theorem sget_sset [DecidableEq α] (d : α) (m : Store α) (k j : Nat) (v : α) :
    sget d (sset d m k v) j = if j = k then v else sget d m j := by
  unfold sset
  split
  · next h =>
    subst h
    by_cases hj : j = k
    · subst hj; simp [sget_sdel_same]
    · simp [hj, sget_sdel_other _ _ hj]
  · rw [sget_sins _ _ _ _ _ (fun e he => mem_sdel he)]
    by_cases hj : j = k
    · simp [hj]
    · simp [hj, sget_sdel_other _ _ hj]

@[simp] theorem sget_supd [DecidableEq α] (d : α) (m : Store α) (k j : Nat) (f : α → α) :
    sget d (supd d m k f) j = if j = k then f (sget d m k) else sget d m j := by simp [supd]

theorem sget_of_not_mem (d : α) (m : Store α) (j : Nat) (h : ∀ e ∈ m, e.1 ≠ j) : sget d m j = d := by
  induction m with
  | nil => rfl
  | cons e r ih =>
    have := h e (List.mem_cons_self ..)
    simp [sget, this, ih (fun x hx => h x (List.mem_cons_of_mem _ hx))]

theorem sget_append_left (d : α) (m n : Store α) (j : Nat) (h : ∀ e ∈ n, e.1 ≠ j) : sget d (m ++ n) j = sget d m j := by
  induction m with
  | nil => simpa [sget] using sget_of_not_mem d n j h
  | cons e r ih => simp [sget, ih]

theorem sget_append_right (d : α) (m n : Store α) (j : Nat) (h : ∀ e ∈ m, e.1 ≠ j) : sget d (m ++ n) j = sget d n j := by
  induction m with
  | nil => rfl
  | cons e r ih =>
    have := h e (List.mem_cons_self ..)
    simp [sget, this, ih (fun x hx => h x (List.mem_cons_of_mem _ hx))]

theorem sget_filter_key (d : α) (m : Store α) (p : Nat → Bool) (j : Nat) :
    sget d (m.filter (fun e => p e.1)) j = if p j then sget d m j else d := by
  induction m with
  | nil => simp [sget]
  | cons e r ih =>
    by_cases hp : p e.1
    · by_cases h : e.1 = j
      · subst h; simp [hp, sget]
      · simp [hp, sget, h, ih]
    · by_cases h : e.1 = j
      · subst h; simp [hp, ih]
      · simp [hp, sget, h, ih]

/-- Outside a cleared span a table reads as before, inside as unlisted. -/
theorem sget_sclear (d : α) (m : Store α) (lo hi j : Nat) :
    sget d (sclear m lo hi) j = if lo ≤ j ∧ j < hi then d else sget d m j := by
  unfold sclear
  rw [sget_filter_key d m (fun k => !(decide (lo ≤ k) && decide (k < hi))) j]
  by_cases h : lo ≤ j ∧ j < hi
  · simp [h.1, h.2]
  · rw [if_neg h, if_pos]
    simp only [Bool.not_eq_true', Bool.and_eq_false_iff, decide_eq_false_iff_not]
    omega

theorem sget_filter_ne [DecidableEq α] (d : α) (m : Store α) (hm : (m.map Prod.fst).Nodup) (j : Nat) :
    sget d (m.filter (fun e => decide (e.2 ≠ d))) j = sget d m j := by
  induction m with
  | nil => rfl
  | cons e r ih =>
    have hr : (r.map Prod.fst).Nodup := (List.nodup_cons.mp (by simpa using hm)).2
    have hn : e.1 ∉ r.map Prod.fst := (List.nodup_cons.mp (by simpa using hm)).1
    have ih := ih hr
    rw [List.filter_cons]
    by_cases hd : e.2 = d
    · rw [if_neg (by simp [hd]), ih]
      by_cases hj : e.1 = j
      · have : ∀ x ∈ r, x.1 ≠ j := by
          intro x hx hxj
          exact hn (List.mem_map.mpr ⟨x, hx, by rw [hxj, hj]⟩)
        rw [sget, if_pos hj, hd, sget_of_not_mem d r j this]
      · rw [sget, if_neg hj]
    · rw [if_pos (by simp [hd])]
      simp only [sget, ih]

theorem zipIdx_map_fst (l : List α) (k : Nat) :
    (((l.zipIdx k).map (fun x => (x.2, x.1))).map Prod.fst) = List.range' k l.length := by
  induction l generalizing k with
  | nil => rfl
  | cons a r ih =>
    simp only [List.zipIdx_cons, List.map_cons, List.length_cons, List.range'_succ]
    rw [ih]

theorem sget_zipIdx (d : α) (l : List α) (k j : Nat) :
    sget d ((l.zipIdx k).map (fun x => (x.2, x.1))) j = if k ≤ j ∧ j < k + l.length then l.getD (j - k) d else d := by
  induction l generalizing k with
  | nil =>
    simp only [List.zipIdx_nil, List.map_nil, sget, List.length_nil]
    split <;> rfl
  | cons a r ih =>
    simp only [List.zipIdx_cons, List.map_cons, sget, ih, List.length_cons]
    by_cases h : k = j
    · subst h; simp
    · rw [if_neg h]
      by_cases hj : k ≤ j ∧ j < k + (r.length + 1)
      · obtain ⟨i, rfl⟩ : ∃ i, j = k + 1 + i := ⟨j - (k + 1), by omega⟩
        have e1 : k + 1 + i - (k + 1) = i := by omega
        have e2 : k + 1 + i - k = i + 1 := by omega
        have h1 : k + 1 ≤ k + 1 + i ∧ k + 1 + i < k + 1 + r.length := by omega
        rw [if_pos hj, if_pos h1, e1, e2, List.getD_cons_succ]
      · rw [if_neg hj, if_neg (by omega)]

/-- A run of values written is read back; every other key reads as before. -/
theorem sget_ssetRun [DecidableEq α] (d : α) (m : Store α) (k : Nat) (l : List α) (j : Nat) :
    sget d (ssetRun d m k l) j = if k ≤ j ∧ j < k + l.length then l.getD (j - k) d else sget d m j := by
  unfold ssetRun
  have hz : (((l.zipIdx k).map (fun x => (x.2, x.1))).map Prod.fst).Nodup := by
    rw [zipIdx_map_fst]; exact List.nodup_range'
  have inA : ∀ e ∈ m.filter (fun e => decide (e.1 < k)), e.1 < k := fun e he => by
    simpa using (List.mem_filter.mp he).2
  have inC : ∀ e ∈ m.filter (fun e => decide (k + l.length ≤ e.1)), k + l.length ≤ e.1 := fun e he => by
    simpa using (List.mem_filter.mp he).2
  have inB : ∀ e ∈ ((l.zipIdx k).map (fun x => (x.2, x.1))).filter (fun e => decide (e.2 ≠ d)), k ≤ e.1 ∧ e.1 < k + l.length :=
    fun e he => by
      obtain ⟨x, hx, rfl⟩ := List.mem_map.mp (List.mem_filter.mp he).1
      exact ⟨(List.mem_zipIdx hx).1, (List.mem_zipIdx hx).2.1⟩
  by_cases h : k ≤ j ∧ j < k + l.length
  · rw [if_pos h, sget_append_left _ _ _ _ (fun e he => by have := inC e he; omega),
      sget_append_right _ _ _ _ (fun e he => by have := inA e he; omega), sget_filter_ne d _ hz, sget_zipIdx, if_pos h]
  · rw [if_neg h]
    by_cases hj : j < k
    · rw [sget_append_left _ _ _ _ (fun e he => by have := inC e he; omega),
        sget_append_left _ _ _ _ (fun e he => by have := inB e he; omega), sget_filter_key d m (fun i => decide (i < k))]
      simp [hj]
    · rw [List.append_assoc, sget_append_right _ _ _ _ (fun e he => by have := inA e he; omega),
        sget_append_right _ _ _ _ (fun e he => by have := inB e he; omega),
        sget_filter_key d m (fun i => decide (k + l.length ≤ i))]
      rw [if_pos (by simp; omega)]

/-! ## The canonical form -/

/-- The canonical form, said of pairs of entries. -/
theorem swf_iff [DecidableEq α] (d : α) (m : Store α) :
    swf d m = true ↔ m.Pairwise (fun a b => a.1 < b.1) ∧ ∀ e ∈ m, e.2 ≠ d := by
  induction m with
  | nil => simp [swf]
  | cons e r ih =>
    cases r with
    | nil => simp [swf]
    | cons e' r =>
      simp only [swf, Bool.and_eq_true, decide_eq_true_eq, ih, List.pairwise_cons, List.mem_cons, forall_eq_or_imp]
      constructor
      · rintro ⟨⟨h1, h2⟩, ⟨h3, h4⟩, h5, h6⟩
        exact ⟨⟨⟨h2, fun x hx => Nat.lt_trans h2 (h3 x hx)⟩, h3, h4⟩, h1, h5, h6⟩
      · rintro ⟨⟨⟨h2, _⟩, h3, h4⟩, h1, h5, h6⟩
        exact ⟨⟨h1, h2⟩, ⟨h3, h4⟩, h5, h6⟩

theorem swf_filter [DecidableEq α] {d : α} {m : Store α} (p : Nat × α → Bool) (h : swf d m = true) :
    swf d (m.filter p) = true := by
  rw [swf_iff] at h ⊢
  exact ⟨h.1.filter p, fun e he => h.2 e (List.mem_filter.mp he).1⟩

theorem swf_sdel [DecidableEq α] {d : α} {m : Store α} (k : Nat) (h : swf d m = true) : swf d (sdel m k) = true :=
  swf_filter _ h

theorem swf_sclear [DecidableEq α] {d : α} {m : Store α} (lo hi : Nat) (h : swf d m = true) :
    swf d (sclear m lo hi) = true := swf_filter _ h

theorem mem_sins {k : Nat} {v : α} {m : Store α} {e : Nat × α} (h : e ∈ sins k v m) : e = (k, v) ∨ e ∈ m := by
  induction m with
  | nil => left; simpa [sins] using h
  | cons x r ih =>
    unfold sins at h
    split at h
    · rcases List.mem_cons.mp h with h | h
      · exact Or.inl h
      · exact Or.inr h
    · rcases List.mem_cons.mp h with h | h
      · exact Or.inr (h ▸ List.mem_cons_self ..)
      · exact (ih h).imp id (List.mem_cons_of_mem _)

theorem pairwise_sins {k : Nat} {v : α} {m : Store α} (h : m.Pairwise (fun a b => a.1 < b.1)) (hk : ∀ e ∈ m, e.1 ≠ k) :
    (sins k v m).Pairwise (fun a b => a.1 < b.1) := by
  induction m with
  | nil => simp [sins]
  | cons x r ih =>
    have hx := List.pairwise_cons.mp h
    have hkr : ∀ e ∈ r, e.1 ≠ k := fun e he => hk e (List.mem_cons_of_mem _ he)
    unfold sins
    split
    · next hlt =>
      refine List.pairwise_cons.mpr ⟨?_, h⟩
      intro e he
      rcases List.mem_cons.mp he with he | he
      · rw [he]; exact hlt
      · exact Nat.lt_trans hlt (hx.1 e he)
    · next hlt =>
      refine List.pairwise_cons.mpr ⟨?_, ih hx.2 hkr⟩
      intro e he
      rcases mem_sins he with rfl | he
      · have := hk x (List.mem_cons_self ..)
        simp only; omega
      · exact hx.1 e he

/-- Writing one value keeps the canonical form. -/
theorem swf_sset [DecidableEq α] {d : α} {m : Store α} (k : Nat) (v : α) (h : swf d m = true) :
    swf d (sset d m k v) = true := by
  unfold sset
  split
  · exact swf_sdel k h
  · next hv =>
    have hd := (swf_iff d _).mp (swf_sdel k h)
    rw [swf_iff]
    refine ⟨pairwise_sins hd.1 (fun e he => mem_sdel he), ?_⟩
    intro e he
    rcases mem_sins he with rfl | he
    · exact hv
    · exact hd.2 e he

theorem swf_supd [DecidableEq α] {d : α} {m : Store α} (k : Nat) (f : α → α) (h : swf d m = true) :
    swf d (supd d m k f) = true := swf_sset _ _ h

/-- Changing every listed value keeps the canonical form. -/
theorem swf_smap [DecidableEq α] {d : α} {m : Store α} (f : Nat → α → α) (h : swf d m = true) :
    swf d (smap d m f) = true := by
  have hm := (swf_iff d m).mp h
  unfold smap
  rw [swf_iff]
  refine ⟨List.Pairwise.filter _ (List.pairwise_map.mpr (hm.1.imp (fun hab => hab))), ?_⟩
  intro e he
  simpa using (List.mem_filter.mp he).2

theorem pairwise_zipIdx (l : List α) (k : Nat) :
    ((l.zipIdx k).map (fun x => (x.2, x.1))).Pairwise (fun a b => a.1 < b.1) := by
  induction l generalizing k with
  | nil => simp
  | cons a r ih =>
    simp only [List.zipIdx_cons, List.map_cons, List.pairwise_cons]
    refine ⟨?_, ih (k + 1)⟩
    intro e he
    obtain ⟨x, hx, rfl⟩ := List.mem_map.mp he
    have := (List.mem_zipIdx hx).1
    simp only; omega

/-- Writing a run of values keeps the canonical form. -/
theorem swf_ssetRun [DecidableEq α] {d : α} {m : Store α} (k : Nat) (l : List α) (h : swf d m = true) :
    swf d (ssetRun d m k l) = true := by
  have hm := (swf_iff d m).mp h
  unfold ssetRun
  rw [swf_iff]
  constructor
  · rw [List.append_assoc, List.pairwise_append]
    refine ⟨hm.1.filter _, ?_, ?_⟩
    · rw [List.pairwise_append]
      refine ⟨(pairwise_zipIdx l k).filter _, hm.1.filter _, ?_⟩
      intro a ha b hb
      obtain ⟨x, hx, rfl⟩ := List.mem_map.mp (List.mem_filter.mp ha).1
      have h1 := (List.mem_zipIdx hx).2.1
      have h2 : k + l.length ≤ b.1 := by simpa using (List.mem_filter.mp hb).2
      simp only; omega
    · intro a ha b hb
      have h1 : a.1 < k := by simpa using (List.mem_filter.mp ha).2
      rcases List.mem_append.mp hb with hb | hb
      · obtain ⟨x, hx, rfl⟩ := List.mem_map.mp (List.mem_filter.mp hb).1
        have := (List.mem_zipIdx hx).1
        simp only; omega
      · have : k + l.length ≤ b.1 := by simpa using (List.mem_filter.mp hb).2
        omega
  · intro e he
    rcases List.mem_append.mp he with he | he
    · rcases List.mem_append.mp he with he | he
      · exact hm.2 e (List.mem_filter.mp he).1
      · simpa using (List.mem_filter.mp he).2
    · exact hm.2 e (List.mem_filter.mp he).1

end Sys2Proof.Machine
end

