-- ==== Sys2Proof/Laws/State.lean ====
section
/-! SUPPORT. The updates of the state: what each leaves of every field, and what reading gives after it. -/

namespace Sys2Proof.Machine

/-! ## State.setTenant -/

@[simp] theorem State.setTenant_pending (s : State) (t : Nat) (x : Tenant) : (s.setTenant t x).pending = s.pending := rfl
@[simp] theorem State.setTenant_fuse (s : State) (t : Nat) (x : Tenant) : (s.setTenant t x).fuse = s.fuse := rfl
@[simp] theorem State.setTenant_glb (s : State) (t : Nat) (x : Tenant) : (s.setTenant t x).glb = s.glb := rfl
@[simp] theorem State.setTenant_frc (s : State) (t : Nat) (x : Tenant) : (s.setTenant t x).frc = s.frc := rfl
@[simp] theorem State.setTenant_disp (s : State) (t : Nat) (x : Tenant) : (s.setTenant t x).disp = s.disp := rfl
@[simp] theorem State.setTenant_dispNext (s : State) (t : Nat) (x : Tenant) : (s.setTenant t x).dispNext = s.dispNext := rfl
@[simp] theorem State.setTenant_ary (s : State) (t : Nat) (x : Tenant) : (s.setTenant t x).ary = s.ary := rfl
@[simp] theorem State.setTenant_pipe (s : State) (t : Nat) (x : Tenant) : (s.setTenant t x).pipe = s.pipe := rfl
@[simp] theorem State.setTenant_kv (s : State) (t : Nat) (x : Tenant) : (s.setTenant t x).kv = s.kv := rfl
@[simp] theorem State.setTenant_mtc (s : State) (t : Nat) (x : Tenant) : (s.setTenant t x).mtc = s.mtc := rfl
@[simp] theorem State.setTenant_dep (s : State) (t : Nat) (x : Tenant) : (s.setTenant t x).dep = s.dep := rfl
@[simp] theorem State.setTenant_xpr (s : State) (t : Nat) (x : Tenant) : (s.setTenant t x).xpr = s.xpr := rfl
@[simp] theorem State.setTenant_sec (s : State) (t : Nat) (x : Tenant) : (s.setTenant t x).sec = s.sec := rfl
@[simp] theorem State.setTenant_mgt (s : State) (t : Nat) (x : Tenant) : (s.setTenant t x).mgt = s.mgt := rfl
@[simp] theorem State.setTenant_win (s : State) (t : Nat) (x : Tenant) : (s.setTenant t x).win = s.win := rfl
@[simp] theorem State.setTenant_out (s : State) (t : Nat) (x : Tenant) : (s.setTenant t x).out = s.out := rfl
@[simp] theorem State.setTenant_free (s : State) (t : Nat) (x : Tenant) : (s.setTenant t x).free = s.free := rfl
@[simp] theorem State.setTenant_arr (s : State) (t : Nat) (x : Tenant) (a' : Nat) : (s.setTenant t x).arr a' = s.arr a' := rfl
@[simp] theorem State.setTenant_pipeline (s : State) (t : Nat) (x : Tenant) (p' : Nat) : (s.setTenant t x).pipeline p' = s.pipeline p' := rfl
@[simp] theorem State.setTenant_xid (s : State) (t : Nat) (x : Tenant) (x' : Nat) : (s.setTenant t x).xid x' = s.xid x' := rfl
@[simp] theorem State.setTenant_lane (s : State) (t : Nat) (x : Tenant) (l' : Lane) : (s.setTenant t x).lane l' = s.lane l' := rfl
@[simp] theorem State.setTenant_dispatch (s : State) (t : Nat) (x : Tenant) (id' : Nat) : (s.setTenant t x).dispatch? id' = s.dispatch? id' := rfl
@[simp] theorem State.setTenant_kvSeq (s : State) (t : Nat) (x : Tenant) (t' h' : Nat) : (s.setTenant t x).kvSeq t' h' = s.kvSeq t' h' := rfl
@[simp] theorem State.setTenant_die (s : State) (t : Nat) (x : Tenant) (d' : Nat) : (s.setTenant t x).die d' = s.die d' := rfl
@[simp] theorem State.setTenant_wsc (s : State) (t : Nat) (x : Tenant) (p' : WscPort) : (s.setTenant t x).wsc p' = s.wsc p' := rfl
@[simp] theorem State.setTenant_window (s : State) (t : Nat) (x : Tenant) (peer' : Bool) (w' : Nat) : (s.setTenant t x).window peer' w' = s.window peer' w' := rfl
@[simp] theorem State.setTenant_keySlot (s : State) (t : Nat) (x : Tenant) (k' : Nat) : (s.setTenant t x).keySlot k' = s.keySlot k' := rfl

/-! ## State.modTenant -/

@[simp] theorem State.modTenant_pending (s : State) (t : Nat) (f : Tenant → Tenant) : (s.modTenant t f).pending = s.pending := rfl
@[simp] theorem State.modTenant_fuse (s : State) (t : Nat) (f : Tenant → Tenant) : (s.modTenant t f).fuse = s.fuse := rfl
@[simp] theorem State.modTenant_glb (s : State) (t : Nat) (f : Tenant → Tenant) : (s.modTenant t f).glb = s.glb := rfl
@[simp] theorem State.modTenant_frc (s : State) (t : Nat) (f : Tenant → Tenant) : (s.modTenant t f).frc = s.frc := rfl
@[simp] theorem State.modTenant_disp (s : State) (t : Nat) (f : Tenant → Tenant) : (s.modTenant t f).disp = s.disp := rfl
@[simp] theorem State.modTenant_dispNext (s : State) (t : Nat) (f : Tenant → Tenant) : (s.modTenant t f).dispNext = s.dispNext := rfl
@[simp] theorem State.modTenant_ary (s : State) (t : Nat) (f : Tenant → Tenant) : (s.modTenant t f).ary = s.ary := rfl
@[simp] theorem State.modTenant_pipe (s : State) (t : Nat) (f : Tenant → Tenant) : (s.modTenant t f).pipe = s.pipe := rfl
@[simp] theorem State.modTenant_kv (s : State) (t : Nat) (f : Tenant → Tenant) : (s.modTenant t f).kv = s.kv := rfl
@[simp] theorem State.modTenant_mtc (s : State) (t : Nat) (f : Tenant → Tenant) : (s.modTenant t f).mtc = s.mtc := rfl
@[simp] theorem State.modTenant_dep (s : State) (t : Nat) (f : Tenant → Tenant) : (s.modTenant t f).dep = s.dep := rfl
@[simp] theorem State.modTenant_xpr (s : State) (t : Nat) (f : Tenant → Tenant) : (s.modTenant t f).xpr = s.xpr := rfl
@[simp] theorem State.modTenant_sec (s : State) (t : Nat) (f : Tenant → Tenant) : (s.modTenant t f).sec = s.sec := rfl
@[simp] theorem State.modTenant_mgt (s : State) (t : Nat) (f : Tenant → Tenant) : (s.modTenant t f).mgt = s.mgt := rfl
@[simp] theorem State.modTenant_win (s : State) (t : Nat) (f : Tenant → Tenant) : (s.modTenant t f).win = s.win := rfl
@[simp] theorem State.modTenant_out (s : State) (t : Nat) (f : Tenant → Tenant) : (s.modTenant t f).out = s.out := rfl
@[simp] theorem State.modTenant_free (s : State) (t : Nat) (f : Tenant → Tenant) : (s.modTenant t f).free = s.free := rfl
@[simp] theorem State.modTenant_arr (s : State) (t : Nat) (f : Tenant → Tenant) (a' : Nat) : (s.modTenant t f).arr a' = s.arr a' := rfl
@[simp] theorem State.modTenant_pipeline (s : State) (t : Nat) (f : Tenant → Tenant) (p' : Nat) : (s.modTenant t f).pipeline p' = s.pipeline p' := rfl
@[simp] theorem State.modTenant_xid (s : State) (t : Nat) (f : Tenant → Tenant) (x' : Nat) : (s.modTenant t f).xid x' = s.xid x' := rfl
@[simp] theorem State.modTenant_lane (s : State) (t : Nat) (f : Tenant → Tenant) (l' : Lane) : (s.modTenant t f).lane l' = s.lane l' := rfl
@[simp] theorem State.modTenant_dispatch (s : State) (t : Nat) (f : Tenant → Tenant) (id' : Nat) : (s.modTenant t f).dispatch? id' = s.dispatch? id' := rfl
@[simp] theorem State.modTenant_kvSeq (s : State) (t : Nat) (f : Tenant → Tenant) (t' h' : Nat) : (s.modTenant t f).kvSeq t' h' = s.kvSeq t' h' := rfl
@[simp] theorem State.modTenant_die (s : State) (t : Nat) (f : Tenant → Tenant) (d' : Nat) : (s.modTenant t f).die d' = s.die d' := rfl
@[simp] theorem State.modTenant_wsc (s : State) (t : Nat) (f : Tenant → Tenant) (p' : WscPort) : (s.modTenant t f).wsc p' = s.wsc p' := rfl
@[simp] theorem State.modTenant_window (s : State) (t : Nat) (f : Tenant → Tenant) (peer' : Bool) (w' : Nat) : (s.modTenant t f).window peer' w' = s.window peer' w' := rfl
@[simp] theorem State.modTenant_keySlot (s : State) (t : Nat) (f : Tenant → Tenant) (k' : Nat) : (s.modTenant t f).keySlot k' = s.keySlot k' := rfl

/-! ## State.setQueue -/

@[simp] theorem State.setQueue_pending (s : State) (t q : Nat) (v : Queue) : (s.setQueue t q v).pending = s.pending := rfl
@[simp] theorem State.setQueue_fuse (s : State) (t q : Nat) (v : Queue) : (s.setQueue t q v).fuse = s.fuse := rfl
@[simp] theorem State.setQueue_glb (s : State) (t q : Nat) (v : Queue) : (s.setQueue t q v).glb = s.glb := rfl
@[simp] theorem State.setQueue_frc (s : State) (t q : Nat) (v : Queue) : (s.setQueue t q v).frc = s.frc := rfl
@[simp] theorem State.setQueue_disp (s : State) (t q : Nat) (v : Queue) : (s.setQueue t q v).disp = s.disp := rfl
@[simp] theorem State.setQueue_dispNext (s : State) (t q : Nat) (v : Queue) : (s.setQueue t q v).dispNext = s.dispNext := rfl
@[simp] theorem State.setQueue_ary (s : State) (t q : Nat) (v : Queue) : (s.setQueue t q v).ary = s.ary := rfl
@[simp] theorem State.setQueue_pipe (s : State) (t q : Nat) (v : Queue) : (s.setQueue t q v).pipe = s.pipe := rfl
@[simp] theorem State.setQueue_kv (s : State) (t q : Nat) (v : Queue) : (s.setQueue t q v).kv = s.kv := rfl
@[simp] theorem State.setQueue_mtc (s : State) (t q : Nat) (v : Queue) : (s.setQueue t q v).mtc = s.mtc := rfl
@[simp] theorem State.setQueue_dep (s : State) (t q : Nat) (v : Queue) : (s.setQueue t q v).dep = s.dep := rfl
@[simp] theorem State.setQueue_xpr (s : State) (t q : Nat) (v : Queue) : (s.setQueue t q v).xpr = s.xpr := rfl
@[simp] theorem State.setQueue_sec (s : State) (t q : Nat) (v : Queue) : (s.setQueue t q v).sec = s.sec := rfl
@[simp] theorem State.setQueue_mgt (s : State) (t q : Nat) (v : Queue) : (s.setQueue t q v).mgt = s.mgt := rfl
@[simp] theorem State.setQueue_win (s : State) (t q : Nat) (v : Queue) : (s.setQueue t q v).win = s.win := rfl
@[simp] theorem State.setQueue_out (s : State) (t q : Nat) (v : Queue) : (s.setQueue t q v).out = s.out := rfl
@[simp] theorem State.setQueue_free (s : State) (t q : Nat) (v : Queue) : (s.setQueue t q v).free = s.free := rfl
@[simp] theorem State.setQueue_arr (s : State) (t q : Nat) (v : Queue) (a' : Nat) : (s.setQueue t q v).arr a' = s.arr a' := rfl
@[simp] theorem State.setQueue_pipeline (s : State) (t q : Nat) (v : Queue) (p' : Nat) : (s.setQueue t q v).pipeline p' = s.pipeline p' := rfl
@[simp] theorem State.setQueue_xid (s : State) (t q : Nat) (v : Queue) (x' : Nat) : (s.setQueue t q v).xid x' = s.xid x' := rfl
@[simp] theorem State.setQueue_lane (s : State) (t q : Nat) (v : Queue) (l' : Lane) : (s.setQueue t q v).lane l' = s.lane l' := rfl
@[simp] theorem State.setQueue_dispatch (s : State) (t q : Nat) (v : Queue) (id' : Nat) : (s.setQueue t q v).dispatch? id' = s.dispatch? id' := rfl
@[simp] theorem State.setQueue_kvSeq (s : State) (t q : Nat) (v : Queue) (t' h' : Nat) : (s.setQueue t q v).kvSeq t' h' = s.kvSeq t' h' := rfl
@[simp] theorem State.setQueue_die (s : State) (t q : Nat) (v : Queue) (d' : Nat) : (s.setQueue t q v).die d' = s.die d' := rfl
@[simp] theorem State.setQueue_wsc (s : State) (t q : Nat) (v : Queue) (p' : WscPort) : (s.setQueue t q v).wsc p' = s.wsc p' := rfl
@[simp] theorem State.setQueue_window (s : State) (t q : Nat) (v : Queue) (peer' : Bool) (w' : Nat) : (s.setQueue t q v).window peer' w' = s.window peer' w' := rfl
@[simp] theorem State.setQueue_keySlot (s : State) (t q : Nat) (v : Queue) (k' : Nat) : (s.setQueue t q v).keySlot k' = s.keySlot k' := rfl

/-! ## State.modQueue -/

@[simp] theorem State.modQueue_pending (s : State) (t q : Nat) (f : Queue → Queue) : (s.modQueue t q f).pending = s.pending := rfl
@[simp] theorem State.modQueue_fuse (s : State) (t q : Nat) (f : Queue → Queue) : (s.modQueue t q f).fuse = s.fuse := rfl
@[simp] theorem State.modQueue_glb (s : State) (t q : Nat) (f : Queue → Queue) : (s.modQueue t q f).glb = s.glb := rfl
@[simp] theorem State.modQueue_frc (s : State) (t q : Nat) (f : Queue → Queue) : (s.modQueue t q f).frc = s.frc := rfl
@[simp] theorem State.modQueue_disp (s : State) (t q : Nat) (f : Queue → Queue) : (s.modQueue t q f).disp = s.disp := rfl
@[simp] theorem State.modQueue_dispNext (s : State) (t q : Nat) (f : Queue → Queue) : (s.modQueue t q f).dispNext = s.dispNext := rfl
@[simp] theorem State.modQueue_ary (s : State) (t q : Nat) (f : Queue → Queue) : (s.modQueue t q f).ary = s.ary := rfl
@[simp] theorem State.modQueue_pipe (s : State) (t q : Nat) (f : Queue → Queue) : (s.modQueue t q f).pipe = s.pipe := rfl
@[simp] theorem State.modQueue_kv (s : State) (t q : Nat) (f : Queue → Queue) : (s.modQueue t q f).kv = s.kv := rfl
@[simp] theorem State.modQueue_mtc (s : State) (t q : Nat) (f : Queue → Queue) : (s.modQueue t q f).mtc = s.mtc := rfl
@[simp] theorem State.modQueue_dep (s : State) (t q : Nat) (f : Queue → Queue) : (s.modQueue t q f).dep = s.dep := rfl
@[simp] theorem State.modQueue_xpr (s : State) (t q : Nat) (f : Queue → Queue) : (s.modQueue t q f).xpr = s.xpr := rfl
@[simp] theorem State.modQueue_sec (s : State) (t q : Nat) (f : Queue → Queue) : (s.modQueue t q f).sec = s.sec := rfl
@[simp] theorem State.modQueue_mgt (s : State) (t q : Nat) (f : Queue → Queue) : (s.modQueue t q f).mgt = s.mgt := rfl
@[simp] theorem State.modQueue_win (s : State) (t q : Nat) (f : Queue → Queue) : (s.modQueue t q f).win = s.win := rfl
@[simp] theorem State.modQueue_out (s : State) (t q : Nat) (f : Queue → Queue) : (s.modQueue t q f).out = s.out := rfl
@[simp] theorem State.modQueue_free (s : State) (t q : Nat) (f : Queue → Queue) : (s.modQueue t q f).free = s.free := rfl
@[simp] theorem State.modQueue_arr (s : State) (t q : Nat) (f : Queue → Queue) (a' : Nat) : (s.modQueue t q f).arr a' = s.arr a' := rfl
@[simp] theorem State.modQueue_pipeline (s : State) (t q : Nat) (f : Queue → Queue) (p' : Nat) : (s.modQueue t q f).pipeline p' = s.pipeline p' := rfl
@[simp] theorem State.modQueue_xid (s : State) (t q : Nat) (f : Queue → Queue) (x' : Nat) : (s.modQueue t q f).xid x' = s.xid x' := rfl
@[simp] theorem State.modQueue_lane (s : State) (t q : Nat) (f : Queue → Queue) (l' : Lane) : (s.modQueue t q f).lane l' = s.lane l' := rfl
@[simp] theorem State.modQueue_dispatch (s : State) (t q : Nat) (f : Queue → Queue) (id' : Nat) : (s.modQueue t q f).dispatch? id' = s.dispatch? id' := rfl
@[simp] theorem State.modQueue_kvSeq (s : State) (t q : Nat) (f : Queue → Queue) (t' h' : Nat) : (s.modQueue t q f).kvSeq t' h' = s.kvSeq t' h' := rfl
@[simp] theorem State.modQueue_die (s : State) (t q : Nat) (f : Queue → Queue) (d' : Nat) : (s.modQueue t q f).die d' = s.die d' := rfl
@[simp] theorem State.modQueue_wsc (s : State) (t q : Nat) (f : Queue → Queue) (p' : WscPort) : (s.modQueue t q f).wsc p' = s.wsc p' := rfl
@[simp] theorem State.modQueue_window (s : State) (t q : Nat) (f : Queue → Queue) (peer' : Bool) (w' : Nat) : (s.modQueue t q f).window peer' w' = s.window peer' w' := rfl
@[simp] theorem State.modQueue_keySlot (s : State) (t q : Nat) (f : Queue → Queue) (k' : Nat) : (s.modQueue t q f).keySlot k' = s.keySlot k' := rfl

/-! ## State.modCopy -/

@[simp] theorem State.modCopy_pending (s : State) (t c : Nat) (f : Copy → Copy) : (s.modCopy t c f).pending = s.pending := rfl
@[simp] theorem State.modCopy_fuse (s : State) (t c : Nat) (f : Copy → Copy) : (s.modCopy t c f).fuse = s.fuse := rfl
@[simp] theorem State.modCopy_glb (s : State) (t c : Nat) (f : Copy → Copy) : (s.modCopy t c f).glb = s.glb := rfl
@[simp] theorem State.modCopy_frc (s : State) (t c : Nat) (f : Copy → Copy) : (s.modCopy t c f).frc = s.frc := rfl
@[simp] theorem State.modCopy_disp (s : State) (t c : Nat) (f : Copy → Copy) : (s.modCopy t c f).disp = s.disp := rfl
@[simp] theorem State.modCopy_dispNext (s : State) (t c : Nat) (f : Copy → Copy) : (s.modCopy t c f).dispNext = s.dispNext := rfl
@[simp] theorem State.modCopy_ary (s : State) (t c : Nat) (f : Copy → Copy) : (s.modCopy t c f).ary = s.ary := rfl
@[simp] theorem State.modCopy_pipe (s : State) (t c : Nat) (f : Copy → Copy) : (s.modCopy t c f).pipe = s.pipe := rfl
@[simp] theorem State.modCopy_kv (s : State) (t c : Nat) (f : Copy → Copy) : (s.modCopy t c f).kv = s.kv := rfl
@[simp] theorem State.modCopy_mtc (s : State) (t c : Nat) (f : Copy → Copy) : (s.modCopy t c f).mtc = s.mtc := rfl
@[simp] theorem State.modCopy_dep (s : State) (t c : Nat) (f : Copy → Copy) : (s.modCopy t c f).dep = s.dep := rfl
@[simp] theorem State.modCopy_xpr (s : State) (t c : Nat) (f : Copy → Copy) : (s.modCopy t c f).xpr = s.xpr := rfl
@[simp] theorem State.modCopy_sec (s : State) (t c : Nat) (f : Copy → Copy) : (s.modCopy t c f).sec = s.sec := rfl
@[simp] theorem State.modCopy_mgt (s : State) (t c : Nat) (f : Copy → Copy) : (s.modCopy t c f).mgt = s.mgt := rfl
@[simp] theorem State.modCopy_win (s : State) (t c : Nat) (f : Copy → Copy) : (s.modCopy t c f).win = s.win := rfl
@[simp] theorem State.modCopy_out (s : State) (t c : Nat) (f : Copy → Copy) : (s.modCopy t c f).out = s.out := rfl
@[simp] theorem State.modCopy_free (s : State) (t c : Nat) (f : Copy → Copy) : (s.modCopy t c f).free = s.free := rfl
@[simp] theorem State.modCopy_arr (s : State) (t c : Nat) (f : Copy → Copy) (a' : Nat) : (s.modCopy t c f).arr a' = s.arr a' := rfl
@[simp] theorem State.modCopy_pipeline (s : State) (t c : Nat) (f : Copy → Copy) (p' : Nat) : (s.modCopy t c f).pipeline p' = s.pipeline p' := rfl
@[simp] theorem State.modCopy_xid (s : State) (t c : Nat) (f : Copy → Copy) (x' : Nat) : (s.modCopy t c f).xid x' = s.xid x' := rfl
@[simp] theorem State.modCopy_lane (s : State) (t c : Nat) (f : Copy → Copy) (l' : Lane) : (s.modCopy t c f).lane l' = s.lane l' := rfl
@[simp] theorem State.modCopy_dispatch (s : State) (t c : Nat) (f : Copy → Copy) (id' : Nat) : (s.modCopy t c f).dispatch? id' = s.dispatch? id' := rfl
@[simp] theorem State.modCopy_kvSeq (s : State) (t c : Nat) (f : Copy → Copy) (t' h' : Nat) : (s.modCopy t c f).kvSeq t' h' = s.kvSeq t' h' := rfl
@[simp] theorem State.modCopy_die (s : State) (t c : Nat) (f : Copy → Copy) (d' : Nat) : (s.modCopy t c f).die d' = s.die d' := rfl
@[simp] theorem State.modCopy_wsc (s : State) (t c : Nat) (f : Copy → Copy) (p' : WscPort) : (s.modCopy t c f).wsc p' = s.wsc p' := rfl
@[simp] theorem State.modCopy_window (s : State) (t c : Nat) (f : Copy → Copy) (peer' : Bool) (w' : Nat) : (s.modCopy t c f).window peer' w' = s.window peer' w' := rfl
@[simp] theorem State.modCopy_keySlot (s : State) (t c : Nat) (f : Copy → Copy) (k' : Nat) : (s.modCopy t c f).keySlot k' = s.keySlot k' := rfl

/-! ## State.setArr -/

@[simp] theorem State.setArr_pending (s : State) (a : Nat) (x : Arr) : (s.setArr a x).pending = s.pending := rfl
@[simp] theorem State.setArr_fuse (s : State) (a : Nat) (x : Arr) : (s.setArr a x).fuse = s.fuse := rfl
@[simp] theorem State.setArr_glb (s : State) (a : Nat) (x : Arr) : (s.setArr a x).glb = s.glb := rfl
@[simp] theorem State.setArr_frc (s : State) (a : Nat) (x : Arr) : (s.setArr a x).frc = s.frc := rfl
@[simp] theorem State.setArr_ten (s : State) (a : Nat) (x : Arr) : (s.setArr a x).ten = s.ten := rfl
@[simp] theorem State.setArr_disp (s : State) (a : Nat) (x : Arr) : (s.setArr a x).disp = s.disp := rfl
@[simp] theorem State.setArr_dispNext (s : State) (a : Nat) (x : Arr) : (s.setArr a x).dispNext = s.dispNext := rfl
@[simp] theorem State.setArr_pipe (s : State) (a : Nat) (x : Arr) : (s.setArr a x).pipe = s.pipe := rfl
@[simp] theorem State.setArr_kv (s : State) (a : Nat) (x : Arr) : (s.setArr a x).kv = s.kv := rfl
@[simp] theorem State.setArr_mtc (s : State) (a : Nat) (x : Arr) : (s.setArr a x).mtc = s.mtc := rfl
@[simp] theorem State.setArr_dep (s : State) (a : Nat) (x : Arr) : (s.setArr a x).dep = s.dep := rfl
@[simp] theorem State.setArr_xpr (s : State) (a : Nat) (x : Arr) : (s.setArr a x).xpr = s.xpr := rfl
@[simp] theorem State.setArr_sec (s : State) (a : Nat) (x : Arr) : (s.setArr a x).sec = s.sec := rfl
@[simp] theorem State.setArr_mgt (s : State) (a : Nat) (x : Arr) : (s.setArr a x).mgt = s.mgt := rfl
@[simp] theorem State.setArr_win (s : State) (a : Nat) (x : Arr) : (s.setArr a x).win = s.win := rfl
@[simp] theorem State.setArr_out (s : State) (a : Nat) (x : Arr) : (s.setArr a x).out = s.out := rfl
@[simp] theorem State.setArr_free (s : State) (a : Nat) (x : Arr) : (s.setArr a x).free = s.free := rfl
@[simp] theorem State.setArr_tenant (s : State) (a : Nat) (x : Arr) (t' : Nat) : (s.setArr a x).tenant t' = s.tenant t' := rfl
@[simp] theorem State.setArr_queue (s : State) (a : Nat) (x : Arr) (t' q' : Nat) : (s.setArr a x).queue t' q' = s.queue t' q' := rfl
@[simp] theorem State.setArr_pipeline (s : State) (a : Nat) (x : Arr) (p' : Nat) : (s.setArr a x).pipeline p' = s.pipeline p' := rfl
@[simp] theorem State.setArr_xid (s : State) (a : Nat) (x : Arr) (x' : Nat) : (s.setArr a x).xid x' = s.xid x' := rfl
@[simp] theorem State.setArr_lane (s : State) (a : Nat) (x : Arr) (l' : Lane) : (s.setArr a x).lane l' = s.lane l' := rfl
@[simp] theorem State.setArr_dispatch (s : State) (a : Nat) (x : Arr) (id' : Nat) : (s.setArr a x).dispatch? id' = s.dispatch? id' := rfl
@[simp] theorem State.setArr_kvSeq (s : State) (a : Nat) (x : Arr) (t' h' : Nat) : (s.setArr a x).kvSeq t' h' = s.kvSeq t' h' := rfl
@[simp] theorem State.setArr_die (s : State) (a : Nat) (x : Arr) (d' : Nat) : (s.setArr a x).die d' = s.die d' := rfl
@[simp] theorem State.setArr_wsc (s : State) (a : Nat) (x : Arr) (p' : WscPort) : (s.setArr a x).wsc p' = s.wsc p' := rfl
@[simp] theorem State.setArr_window (s : State) (a : Nat) (x : Arr) (peer' : Bool) (w' : Nat) : (s.setArr a x).window peer' w' = s.window peer' w' := rfl
@[simp] theorem State.setArr_keySlot (s : State) (a : Nat) (x : Arr) (k' : Nat) : (s.setArr a x).keySlot k' = s.keySlot k' := rfl

/-! ## State.modArr -/

@[simp] theorem State.modArr_pending (s : State) (a : Nat) (f : Arr → Arr) : (s.modArr a f).pending = s.pending := rfl
@[simp] theorem State.modArr_fuse (s : State) (a : Nat) (f : Arr → Arr) : (s.modArr a f).fuse = s.fuse := rfl
@[simp] theorem State.modArr_glb (s : State) (a : Nat) (f : Arr → Arr) : (s.modArr a f).glb = s.glb := rfl
@[simp] theorem State.modArr_frc (s : State) (a : Nat) (f : Arr → Arr) : (s.modArr a f).frc = s.frc := rfl
@[simp] theorem State.modArr_ten (s : State) (a : Nat) (f : Arr → Arr) : (s.modArr a f).ten = s.ten := rfl
@[simp] theorem State.modArr_disp (s : State) (a : Nat) (f : Arr → Arr) : (s.modArr a f).disp = s.disp := rfl
@[simp] theorem State.modArr_dispNext (s : State) (a : Nat) (f : Arr → Arr) : (s.modArr a f).dispNext = s.dispNext := rfl
@[simp] theorem State.modArr_pipe (s : State) (a : Nat) (f : Arr → Arr) : (s.modArr a f).pipe = s.pipe := rfl
@[simp] theorem State.modArr_kv (s : State) (a : Nat) (f : Arr → Arr) : (s.modArr a f).kv = s.kv := rfl
@[simp] theorem State.modArr_mtc (s : State) (a : Nat) (f : Arr → Arr) : (s.modArr a f).mtc = s.mtc := rfl
@[simp] theorem State.modArr_dep (s : State) (a : Nat) (f : Arr → Arr) : (s.modArr a f).dep = s.dep := rfl
@[simp] theorem State.modArr_xpr (s : State) (a : Nat) (f : Arr → Arr) : (s.modArr a f).xpr = s.xpr := rfl
@[simp] theorem State.modArr_sec (s : State) (a : Nat) (f : Arr → Arr) : (s.modArr a f).sec = s.sec := rfl
@[simp] theorem State.modArr_mgt (s : State) (a : Nat) (f : Arr → Arr) : (s.modArr a f).mgt = s.mgt := rfl
@[simp] theorem State.modArr_win (s : State) (a : Nat) (f : Arr → Arr) : (s.modArr a f).win = s.win := rfl
@[simp] theorem State.modArr_out (s : State) (a : Nat) (f : Arr → Arr) : (s.modArr a f).out = s.out := rfl
@[simp] theorem State.modArr_free (s : State) (a : Nat) (f : Arr → Arr) : (s.modArr a f).free = s.free := rfl
@[simp] theorem State.modArr_tenant (s : State) (a : Nat) (f : Arr → Arr) (t' : Nat) : (s.modArr a f).tenant t' = s.tenant t' := rfl
@[simp] theorem State.modArr_queue (s : State) (a : Nat) (f : Arr → Arr) (t' q' : Nat) : (s.modArr a f).queue t' q' = s.queue t' q' := rfl
@[simp] theorem State.modArr_pipeline (s : State) (a : Nat) (f : Arr → Arr) (p' : Nat) : (s.modArr a f).pipeline p' = s.pipeline p' := rfl
@[simp] theorem State.modArr_xid (s : State) (a : Nat) (f : Arr → Arr) (x' : Nat) : (s.modArr a f).xid x' = s.xid x' := rfl
@[simp] theorem State.modArr_lane (s : State) (a : Nat) (f : Arr → Arr) (l' : Lane) : (s.modArr a f).lane l' = s.lane l' := rfl
@[simp] theorem State.modArr_dispatch (s : State) (a : Nat) (f : Arr → Arr) (id' : Nat) : (s.modArr a f).dispatch? id' = s.dispatch? id' := rfl
@[simp] theorem State.modArr_kvSeq (s : State) (a : Nat) (f : Arr → Arr) (t' h' : Nat) : (s.modArr a f).kvSeq t' h' = s.kvSeq t' h' := rfl
@[simp] theorem State.modArr_die (s : State) (a : Nat) (f : Arr → Arr) (d' : Nat) : (s.modArr a f).die d' = s.die d' := rfl
@[simp] theorem State.modArr_wsc (s : State) (a : Nat) (f : Arr → Arr) (p' : WscPort) : (s.modArr a f).wsc p' = s.wsc p' := rfl
@[simp] theorem State.modArr_window (s : State) (a : Nat) (f : Arr → Arr) (peer' : Bool) (w' : Nat) : (s.modArr a f).window peer' w' = s.window peer' w' := rfl
@[simp] theorem State.modArr_keySlot (s : State) (a : Nat) (f : Arr → Arr) (k' : Nat) : (s.modArr a f).keySlot k' = s.keySlot k' := rfl

/-! ## State.setPipe -/

@[simp] theorem State.setPipe_pending (s : State) (p : Nat) (x : PipeSt) : (s.setPipe p x).pending = s.pending := rfl
@[simp] theorem State.setPipe_fuse (s : State) (p : Nat) (x : PipeSt) : (s.setPipe p x).fuse = s.fuse := rfl
@[simp] theorem State.setPipe_glb (s : State) (p : Nat) (x : PipeSt) : (s.setPipe p x).glb = s.glb := rfl
@[simp] theorem State.setPipe_frc (s : State) (p : Nat) (x : PipeSt) : (s.setPipe p x).frc = s.frc := rfl
@[simp] theorem State.setPipe_ten (s : State) (p : Nat) (x : PipeSt) : (s.setPipe p x).ten = s.ten := rfl
@[simp] theorem State.setPipe_disp (s : State) (p : Nat) (x : PipeSt) : (s.setPipe p x).disp = s.disp := rfl
@[simp] theorem State.setPipe_dispNext (s : State) (p : Nat) (x : PipeSt) : (s.setPipe p x).dispNext = s.dispNext := rfl
@[simp] theorem State.setPipe_ary (s : State) (p : Nat) (x : PipeSt) : (s.setPipe p x).ary = s.ary := rfl
@[simp] theorem State.setPipe_kv (s : State) (p : Nat) (x : PipeSt) : (s.setPipe p x).kv = s.kv := rfl
@[simp] theorem State.setPipe_mtc (s : State) (p : Nat) (x : PipeSt) : (s.setPipe p x).mtc = s.mtc := rfl
@[simp] theorem State.setPipe_dep (s : State) (p : Nat) (x : PipeSt) : (s.setPipe p x).dep = s.dep := rfl
@[simp] theorem State.setPipe_xpr (s : State) (p : Nat) (x : PipeSt) : (s.setPipe p x).xpr = s.xpr := rfl
@[simp] theorem State.setPipe_sec (s : State) (p : Nat) (x : PipeSt) : (s.setPipe p x).sec = s.sec := rfl
@[simp] theorem State.setPipe_mgt (s : State) (p : Nat) (x : PipeSt) : (s.setPipe p x).mgt = s.mgt := rfl
@[simp] theorem State.setPipe_win (s : State) (p : Nat) (x : PipeSt) : (s.setPipe p x).win = s.win := rfl
@[simp] theorem State.setPipe_out (s : State) (p : Nat) (x : PipeSt) : (s.setPipe p x).out = s.out := rfl
@[simp] theorem State.setPipe_free (s : State) (p : Nat) (x : PipeSt) : (s.setPipe p x).free = s.free := rfl
@[simp] theorem State.setPipe_tenant (s : State) (p : Nat) (x : PipeSt) (t' : Nat) : (s.setPipe p x).tenant t' = s.tenant t' := rfl
@[simp] theorem State.setPipe_queue (s : State) (p : Nat) (x : PipeSt) (t' q' : Nat) : (s.setPipe p x).queue t' q' = s.queue t' q' := rfl
@[simp] theorem State.setPipe_arr (s : State) (p : Nat) (x : PipeSt) (a' : Nat) : (s.setPipe p x).arr a' = s.arr a' := rfl
@[simp] theorem State.setPipe_xid (s : State) (p : Nat) (x : PipeSt) (x' : Nat) : (s.setPipe p x).xid x' = s.xid x' := rfl
@[simp] theorem State.setPipe_lane (s : State) (p : Nat) (x : PipeSt) (l' : Lane) : (s.setPipe p x).lane l' = s.lane l' := rfl
@[simp] theorem State.setPipe_dispatch (s : State) (p : Nat) (x : PipeSt) (id' : Nat) : (s.setPipe p x).dispatch? id' = s.dispatch? id' := rfl
@[simp] theorem State.setPipe_kvSeq (s : State) (p : Nat) (x : PipeSt) (t' h' : Nat) : (s.setPipe p x).kvSeq t' h' = s.kvSeq t' h' := rfl
@[simp] theorem State.setPipe_die (s : State) (p : Nat) (x : PipeSt) (d' : Nat) : (s.setPipe p x).die d' = s.die d' := rfl
@[simp] theorem State.setPipe_wsc (s : State) (p : Nat) (x : PipeSt) (p' : WscPort) : (s.setPipe p x).wsc p' = s.wsc p' := rfl
@[simp] theorem State.setPipe_window (s : State) (p : Nat) (x : PipeSt) (peer' : Bool) (w' : Nat) : (s.setPipe p x).window peer' w' = s.window peer' w' := rfl
@[simp] theorem State.setPipe_keySlot (s : State) (p : Nat) (x : PipeSt) (k' : Nat) : (s.setPipe p x).keySlot k' = s.keySlot k' := rfl

/-! ## State.modPipe -/

@[simp] theorem State.modPipe_pending (s : State) (p : Nat) (f : PipeSt → PipeSt) : (s.modPipe p f).pending = s.pending := rfl
@[simp] theorem State.modPipe_fuse (s : State) (p : Nat) (f : PipeSt → PipeSt) : (s.modPipe p f).fuse = s.fuse := rfl
@[simp] theorem State.modPipe_glb (s : State) (p : Nat) (f : PipeSt → PipeSt) : (s.modPipe p f).glb = s.glb := rfl
@[simp] theorem State.modPipe_frc (s : State) (p : Nat) (f : PipeSt → PipeSt) : (s.modPipe p f).frc = s.frc := rfl
@[simp] theorem State.modPipe_ten (s : State) (p : Nat) (f : PipeSt → PipeSt) : (s.modPipe p f).ten = s.ten := rfl
@[simp] theorem State.modPipe_disp (s : State) (p : Nat) (f : PipeSt → PipeSt) : (s.modPipe p f).disp = s.disp := rfl
@[simp] theorem State.modPipe_dispNext (s : State) (p : Nat) (f : PipeSt → PipeSt) : (s.modPipe p f).dispNext = s.dispNext := rfl
@[simp] theorem State.modPipe_ary (s : State) (p : Nat) (f : PipeSt → PipeSt) : (s.modPipe p f).ary = s.ary := rfl
@[simp] theorem State.modPipe_kv (s : State) (p : Nat) (f : PipeSt → PipeSt) : (s.modPipe p f).kv = s.kv := rfl
@[simp] theorem State.modPipe_mtc (s : State) (p : Nat) (f : PipeSt → PipeSt) : (s.modPipe p f).mtc = s.mtc := rfl
@[simp] theorem State.modPipe_dep (s : State) (p : Nat) (f : PipeSt → PipeSt) : (s.modPipe p f).dep = s.dep := rfl
@[simp] theorem State.modPipe_xpr (s : State) (p : Nat) (f : PipeSt → PipeSt) : (s.modPipe p f).xpr = s.xpr := rfl
@[simp] theorem State.modPipe_sec (s : State) (p : Nat) (f : PipeSt → PipeSt) : (s.modPipe p f).sec = s.sec := rfl
@[simp] theorem State.modPipe_mgt (s : State) (p : Nat) (f : PipeSt → PipeSt) : (s.modPipe p f).mgt = s.mgt := rfl
@[simp] theorem State.modPipe_win (s : State) (p : Nat) (f : PipeSt → PipeSt) : (s.modPipe p f).win = s.win := rfl
@[simp] theorem State.modPipe_out (s : State) (p : Nat) (f : PipeSt → PipeSt) : (s.modPipe p f).out = s.out := rfl
@[simp] theorem State.modPipe_free (s : State) (p : Nat) (f : PipeSt → PipeSt) : (s.modPipe p f).free = s.free := rfl
@[simp] theorem State.modPipe_tenant (s : State) (p : Nat) (f : PipeSt → PipeSt) (t' : Nat) : (s.modPipe p f).tenant t' = s.tenant t' := rfl
@[simp] theorem State.modPipe_queue (s : State) (p : Nat) (f : PipeSt → PipeSt) (t' q' : Nat) : (s.modPipe p f).queue t' q' = s.queue t' q' := rfl
@[simp] theorem State.modPipe_arr (s : State) (p : Nat) (f : PipeSt → PipeSt) (a' : Nat) : (s.modPipe p f).arr a' = s.arr a' := rfl
@[simp] theorem State.modPipe_xid (s : State) (p : Nat) (f : PipeSt → PipeSt) (x' : Nat) : (s.modPipe p f).xid x' = s.xid x' := rfl
@[simp] theorem State.modPipe_lane (s : State) (p : Nat) (f : PipeSt → PipeSt) (l' : Lane) : (s.modPipe p f).lane l' = s.lane l' := rfl
@[simp] theorem State.modPipe_dispatch (s : State) (p : Nat) (f : PipeSt → PipeSt) (id' : Nat) : (s.modPipe p f).dispatch? id' = s.dispatch? id' := rfl
@[simp] theorem State.modPipe_kvSeq (s : State) (p : Nat) (f : PipeSt → PipeSt) (t' h' : Nat) : (s.modPipe p f).kvSeq t' h' = s.kvSeq t' h' := rfl
@[simp] theorem State.modPipe_die (s : State) (p : Nat) (f : PipeSt → PipeSt) (d' : Nat) : (s.modPipe p f).die d' = s.die d' := rfl
@[simp] theorem State.modPipe_wsc (s : State) (p : Nat) (f : PipeSt → PipeSt) (p' : WscPort) : (s.modPipe p f).wsc p' = s.wsc p' := rfl
@[simp] theorem State.modPipe_window (s : State) (p : Nat) (f : PipeSt → PipeSt) (peer' : Bool) (w' : Nat) : (s.modPipe p f).window peer' w' = s.window peer' w' := rfl
@[simp] theorem State.modPipe_keySlot (s : State) (p : Nat) (f : PipeSt → PipeSt) (k' : Nat) : (s.modPipe p f).keySlot k' = s.keySlot k' := rfl

/-! ## State.setXid -/

@[simp] theorem State.setXid_pending (s : State) (x : Nat) (v : Xid) : (s.setXid x v).pending = s.pending := rfl
@[simp] theorem State.setXid_fuse (s : State) (x : Nat) (v : Xid) : (s.setXid x v).fuse = s.fuse := rfl
@[simp] theorem State.setXid_glb (s : State) (x : Nat) (v : Xid) : (s.setXid x v).glb = s.glb := rfl
@[simp] theorem State.setXid_frc (s : State) (x : Nat) (v : Xid) : (s.setXid x v).frc = s.frc := rfl
@[simp] theorem State.setXid_ten (s : State) (x : Nat) (v : Xid) : (s.setXid x v).ten = s.ten := rfl
@[simp] theorem State.setXid_disp (s : State) (x : Nat) (v : Xid) : (s.setXid x v).disp = s.disp := rfl
@[simp] theorem State.setXid_dispNext (s : State) (x : Nat) (v : Xid) : (s.setXid x v).dispNext = s.dispNext := rfl
@[simp] theorem State.setXid_ary (s : State) (x : Nat) (v : Xid) : (s.setXid x v).ary = s.ary := rfl
@[simp] theorem State.setXid_pipe (s : State) (x : Nat) (v : Xid) : (s.setXid x v).pipe = s.pipe := rfl
@[simp] theorem State.setXid_kv (s : State) (x : Nat) (v : Xid) : (s.setXid x v).kv = s.kv := rfl
@[simp] theorem State.setXid_mtc (s : State) (x : Nat) (v : Xid) : (s.setXid x v).mtc = s.mtc := rfl
@[simp] theorem State.setXid_dep (s : State) (x : Nat) (v : Xid) : (s.setXid x v).dep = s.dep := rfl
@[simp] theorem State.setXid_sec (s : State) (x : Nat) (v : Xid) : (s.setXid x v).sec = s.sec := rfl
@[simp] theorem State.setXid_mgt (s : State) (x : Nat) (v : Xid) : (s.setXid x v).mgt = s.mgt := rfl
@[simp] theorem State.setXid_win (s : State) (x : Nat) (v : Xid) : (s.setXid x v).win = s.win := rfl
@[simp] theorem State.setXid_out (s : State) (x : Nat) (v : Xid) : (s.setXid x v).out = s.out := rfl
@[simp] theorem State.setXid_free (s : State) (x : Nat) (v : Xid) : (s.setXid x v).free = s.free := rfl
@[simp] theorem State.setXid_tenant (s : State) (x : Nat) (v : Xid) (t' : Nat) : (s.setXid x v).tenant t' = s.tenant t' := rfl
@[simp] theorem State.setXid_queue (s : State) (x : Nat) (v : Xid) (t' q' : Nat) : (s.setXid x v).queue t' q' = s.queue t' q' := rfl
@[simp] theorem State.setXid_arr (s : State) (x : Nat) (v : Xid) (a' : Nat) : (s.setXid x v).arr a' = s.arr a' := rfl
@[simp] theorem State.setXid_pipeline (s : State) (x : Nat) (v : Xid) (p' : Nat) : (s.setXid x v).pipeline p' = s.pipeline p' := rfl
@[simp] theorem State.setXid_dispatch (s : State) (x : Nat) (v : Xid) (id' : Nat) : (s.setXid x v).dispatch? id' = s.dispatch? id' := rfl
@[simp] theorem State.setXid_kvSeq (s : State) (x : Nat) (v : Xid) (t' h' : Nat) : (s.setXid x v).kvSeq t' h' = s.kvSeq t' h' := rfl
@[simp] theorem State.setXid_die (s : State) (x : Nat) (v : Xid) (d' : Nat) : (s.setXid x v).die d' = s.die d' := rfl
@[simp] theorem State.setXid_wsc (s : State) (x : Nat) (v : Xid) (p' : WscPort) : (s.setXid x v).wsc p' = s.wsc p' := rfl
@[simp] theorem State.setXid_window (s : State) (x : Nat) (v : Xid) (peer' : Bool) (w' : Nat) : (s.setXid x v).window peer' w' = s.window peer' w' := rfl
@[simp] theorem State.setXid_keySlot (s : State) (x : Nat) (v : Xid) (k' : Nat) : (s.setXid x v).keySlot k' = s.keySlot k' := rfl

/-! ## State.modXid -/

@[simp] theorem State.modXid_pending (s : State) (x : Nat) (f : Xid → Xid) : (s.modXid x f).pending = s.pending := rfl
@[simp] theorem State.modXid_fuse (s : State) (x : Nat) (f : Xid → Xid) : (s.modXid x f).fuse = s.fuse := rfl
@[simp] theorem State.modXid_glb (s : State) (x : Nat) (f : Xid → Xid) : (s.modXid x f).glb = s.glb := rfl
@[simp] theorem State.modXid_frc (s : State) (x : Nat) (f : Xid → Xid) : (s.modXid x f).frc = s.frc := rfl
@[simp] theorem State.modXid_ten (s : State) (x : Nat) (f : Xid → Xid) : (s.modXid x f).ten = s.ten := rfl
@[simp] theorem State.modXid_disp (s : State) (x : Nat) (f : Xid → Xid) : (s.modXid x f).disp = s.disp := rfl
@[simp] theorem State.modXid_dispNext (s : State) (x : Nat) (f : Xid → Xid) : (s.modXid x f).dispNext = s.dispNext := rfl
@[simp] theorem State.modXid_ary (s : State) (x : Nat) (f : Xid → Xid) : (s.modXid x f).ary = s.ary := rfl
@[simp] theorem State.modXid_pipe (s : State) (x : Nat) (f : Xid → Xid) : (s.modXid x f).pipe = s.pipe := rfl
@[simp] theorem State.modXid_kv (s : State) (x : Nat) (f : Xid → Xid) : (s.modXid x f).kv = s.kv := rfl
@[simp] theorem State.modXid_mtc (s : State) (x : Nat) (f : Xid → Xid) : (s.modXid x f).mtc = s.mtc := rfl
@[simp] theorem State.modXid_dep (s : State) (x : Nat) (f : Xid → Xid) : (s.modXid x f).dep = s.dep := rfl
@[simp] theorem State.modXid_sec (s : State) (x : Nat) (f : Xid → Xid) : (s.modXid x f).sec = s.sec := rfl
@[simp] theorem State.modXid_mgt (s : State) (x : Nat) (f : Xid → Xid) : (s.modXid x f).mgt = s.mgt := rfl
@[simp] theorem State.modXid_win (s : State) (x : Nat) (f : Xid → Xid) : (s.modXid x f).win = s.win := rfl
@[simp] theorem State.modXid_out (s : State) (x : Nat) (f : Xid → Xid) : (s.modXid x f).out = s.out := rfl
@[simp] theorem State.modXid_free (s : State) (x : Nat) (f : Xid → Xid) : (s.modXid x f).free = s.free := rfl
@[simp] theorem State.modXid_tenant (s : State) (x : Nat) (f : Xid → Xid) (t' : Nat) : (s.modXid x f).tenant t' = s.tenant t' := rfl
@[simp] theorem State.modXid_queue (s : State) (x : Nat) (f : Xid → Xid) (t' q' : Nat) : (s.modXid x f).queue t' q' = s.queue t' q' := rfl
@[simp] theorem State.modXid_arr (s : State) (x : Nat) (f : Xid → Xid) (a' : Nat) : (s.modXid x f).arr a' = s.arr a' := rfl
@[simp] theorem State.modXid_pipeline (s : State) (x : Nat) (f : Xid → Xid) (p' : Nat) : (s.modXid x f).pipeline p' = s.pipeline p' := rfl
@[simp] theorem State.modXid_dispatch (s : State) (x : Nat) (f : Xid → Xid) (id' : Nat) : (s.modXid x f).dispatch? id' = s.dispatch? id' := rfl
@[simp] theorem State.modXid_kvSeq (s : State) (x : Nat) (f : Xid → Xid) (t' h' : Nat) : (s.modXid x f).kvSeq t' h' = s.kvSeq t' h' := rfl
@[simp] theorem State.modXid_die (s : State) (x : Nat) (f : Xid → Xid) (d' : Nat) : (s.modXid x f).die d' = s.die d' := rfl
@[simp] theorem State.modXid_wsc (s : State) (x : Nat) (f : Xid → Xid) (p' : WscPort) : (s.modXid x f).wsc p' = s.wsc p' := rfl
@[simp] theorem State.modXid_window (s : State) (x : Nat) (f : Xid → Xid) (peer' : Bool) (w' : Nat) : (s.modXid x f).window peer' w' = s.window peer' w' := rfl
@[simp] theorem State.modXid_keySlot (s : State) (x : Nat) (f : Xid → Xid) (k' : Nat) : (s.modXid x f).keySlot k' = s.keySlot k' := rfl

/-! ## State.setLane -/

@[simp] theorem State.setLane_pending (s : State) (l : Lane) (v : LaneSt) : (s.setLane l v).pending = s.pending := by cases l <;> rfl
@[simp] theorem State.setLane_fuse (s : State) (l : Lane) (v : LaneSt) : (s.setLane l v).fuse = s.fuse := by cases l <;> rfl
@[simp] theorem State.setLane_glb (s : State) (l : Lane) (v : LaneSt) : (s.setLane l v).glb = s.glb := by cases l <;> rfl
@[simp] theorem State.setLane_frc (s : State) (l : Lane) (v : LaneSt) : (s.setLane l v).frc = s.frc := by cases l <;> rfl
@[simp] theorem State.setLane_ten (s : State) (l : Lane) (v : LaneSt) : (s.setLane l v).ten = s.ten := by cases l <;> rfl
@[simp] theorem State.setLane_disp (s : State) (l : Lane) (v : LaneSt) : (s.setLane l v).disp = s.disp := by cases l <;> rfl
@[simp] theorem State.setLane_dispNext (s : State) (l : Lane) (v : LaneSt) : (s.setLane l v).dispNext = s.dispNext := by cases l <;> rfl
@[simp] theorem State.setLane_ary (s : State) (l : Lane) (v : LaneSt) : (s.setLane l v).ary = s.ary := by cases l <;> rfl
@[simp] theorem State.setLane_pipe (s : State) (l : Lane) (v : LaneSt) : (s.setLane l v).pipe = s.pipe := by cases l <;> rfl
@[simp] theorem State.setLane_kv (s : State) (l : Lane) (v : LaneSt) : (s.setLane l v).kv = s.kv := by cases l <;> rfl
@[simp] theorem State.setLane_mtc (s : State) (l : Lane) (v : LaneSt) : (s.setLane l v).mtc = s.mtc := by cases l <;> rfl
@[simp] theorem State.setLane_dep (s : State) (l : Lane) (v : LaneSt) : (s.setLane l v).dep = s.dep := by cases l <;> rfl
@[simp] theorem State.setLane_sec (s : State) (l : Lane) (v : LaneSt) : (s.setLane l v).sec = s.sec := by cases l <;> rfl
@[simp] theorem State.setLane_mgt (s : State) (l : Lane) (v : LaneSt) : (s.setLane l v).mgt = s.mgt := by cases l <;> rfl
@[simp] theorem State.setLane_win (s : State) (l : Lane) (v : LaneSt) : (s.setLane l v).win = s.win := by cases l <;> rfl
@[simp] theorem State.setLane_out (s : State) (l : Lane) (v : LaneSt) : (s.setLane l v).out = s.out := by cases l <;> rfl
@[simp] theorem State.setLane_free (s : State) (l : Lane) (v : LaneSt) : (s.setLane l v).free = s.free := by cases l <;> rfl
@[simp] theorem State.setLane_tenant (s : State) (l : Lane) (v : LaneSt) (t' : Nat) : (s.setLane l v).tenant t' = s.tenant t' := by cases l <;> rfl
@[simp] theorem State.setLane_queue (s : State) (l : Lane) (v : LaneSt) (t' q' : Nat) : (s.setLane l v).queue t' q' = s.queue t' q' := by cases l <;> rfl
@[simp] theorem State.setLane_arr (s : State) (l : Lane) (v : LaneSt) (a' : Nat) : (s.setLane l v).arr a' = s.arr a' := by cases l <;> rfl
@[simp] theorem State.setLane_pipeline (s : State) (l : Lane) (v : LaneSt) (p' : Nat) : (s.setLane l v).pipeline p' = s.pipeline p' := by cases l <;> rfl
@[simp] theorem State.setLane_dispatch (s : State) (l : Lane) (v : LaneSt) (id' : Nat) : (s.setLane l v).dispatch? id' = s.dispatch? id' := by cases l <;> rfl
@[simp] theorem State.setLane_kvSeq (s : State) (l : Lane) (v : LaneSt) (t' h' : Nat) : (s.setLane l v).kvSeq t' h' = s.kvSeq t' h' := by cases l <;> rfl
@[simp] theorem State.setLane_die (s : State) (l : Lane) (v : LaneSt) (d' : Nat) : (s.setLane l v).die d' = s.die d' := by cases l <;> rfl
@[simp] theorem State.setLane_wsc (s : State) (l : Lane) (v : LaneSt) (p' : WscPort) : (s.setLane l v).wsc p' = s.wsc p' := by cases l <;> rfl
@[simp] theorem State.setLane_window (s : State) (l : Lane) (v : LaneSt) (peer' : Bool) (w' : Nat) : (s.setLane l v).window peer' w' = s.window peer' w' := by cases l <;> rfl
@[simp] theorem State.setLane_keySlot (s : State) (l : Lane) (v : LaneSt) (k' : Nat) : (s.setLane l v).keySlot k' = s.keySlot k' := by cases l <;> rfl

/-! ## State.modLane -/

@[simp] theorem State.modLane_pending (s : State) (l : Lane) (f : LaneSt → LaneSt) : (s.modLane l f).pending = s.pending := by cases l <;> rfl
@[simp] theorem State.modLane_fuse (s : State) (l : Lane) (f : LaneSt → LaneSt) : (s.modLane l f).fuse = s.fuse := by cases l <;> rfl
@[simp] theorem State.modLane_glb (s : State) (l : Lane) (f : LaneSt → LaneSt) : (s.modLane l f).glb = s.glb := by cases l <;> rfl
@[simp] theorem State.modLane_frc (s : State) (l : Lane) (f : LaneSt → LaneSt) : (s.modLane l f).frc = s.frc := by cases l <;> rfl
@[simp] theorem State.modLane_ten (s : State) (l : Lane) (f : LaneSt → LaneSt) : (s.modLane l f).ten = s.ten := by cases l <;> rfl
@[simp] theorem State.modLane_disp (s : State) (l : Lane) (f : LaneSt → LaneSt) : (s.modLane l f).disp = s.disp := by cases l <;> rfl
@[simp] theorem State.modLane_dispNext (s : State) (l : Lane) (f : LaneSt → LaneSt) : (s.modLane l f).dispNext = s.dispNext := by cases l <;> rfl
@[simp] theorem State.modLane_ary (s : State) (l : Lane) (f : LaneSt → LaneSt) : (s.modLane l f).ary = s.ary := by cases l <;> rfl
@[simp] theorem State.modLane_pipe (s : State) (l : Lane) (f : LaneSt → LaneSt) : (s.modLane l f).pipe = s.pipe := by cases l <;> rfl
@[simp] theorem State.modLane_kv (s : State) (l : Lane) (f : LaneSt → LaneSt) : (s.modLane l f).kv = s.kv := by cases l <;> rfl
@[simp] theorem State.modLane_mtc (s : State) (l : Lane) (f : LaneSt → LaneSt) : (s.modLane l f).mtc = s.mtc := by cases l <;> rfl
@[simp] theorem State.modLane_dep (s : State) (l : Lane) (f : LaneSt → LaneSt) : (s.modLane l f).dep = s.dep := by cases l <;> rfl
@[simp] theorem State.modLane_sec (s : State) (l : Lane) (f : LaneSt → LaneSt) : (s.modLane l f).sec = s.sec := by cases l <;> rfl
@[simp] theorem State.modLane_mgt (s : State) (l : Lane) (f : LaneSt → LaneSt) : (s.modLane l f).mgt = s.mgt := by cases l <;> rfl
@[simp] theorem State.modLane_win (s : State) (l : Lane) (f : LaneSt → LaneSt) : (s.modLane l f).win = s.win := by cases l <;> rfl
@[simp] theorem State.modLane_out (s : State) (l : Lane) (f : LaneSt → LaneSt) : (s.modLane l f).out = s.out := by cases l <;> rfl
@[simp] theorem State.modLane_free (s : State) (l : Lane) (f : LaneSt → LaneSt) : (s.modLane l f).free = s.free := by cases l <;> rfl
@[simp] theorem State.modLane_tenant (s : State) (l : Lane) (f : LaneSt → LaneSt) (t' : Nat) : (s.modLane l f).tenant t' = s.tenant t' := by cases l <;> rfl
@[simp] theorem State.modLane_queue (s : State) (l : Lane) (f : LaneSt → LaneSt) (t' q' : Nat) : (s.modLane l f).queue t' q' = s.queue t' q' := by cases l <;> rfl
@[simp] theorem State.modLane_arr (s : State) (l : Lane) (f : LaneSt → LaneSt) (a' : Nat) : (s.modLane l f).arr a' = s.arr a' := by cases l <;> rfl
@[simp] theorem State.modLane_pipeline (s : State) (l : Lane) (f : LaneSt → LaneSt) (p' : Nat) : (s.modLane l f).pipeline p' = s.pipeline p' := by cases l <;> rfl
@[simp] theorem State.modLane_dispatch (s : State) (l : Lane) (f : LaneSt → LaneSt) (id' : Nat) : (s.modLane l f).dispatch? id' = s.dispatch? id' := by cases l <;> rfl
@[simp] theorem State.modLane_kvSeq (s : State) (l : Lane) (f : LaneSt → LaneSt) (t' h' : Nat) : (s.modLane l f).kvSeq t' h' = s.kvSeq t' h' := by cases l <;> rfl
@[simp] theorem State.modLane_die (s : State) (l : Lane) (f : LaneSt → LaneSt) (d' : Nat) : (s.modLane l f).die d' = s.die d' := by cases l <;> rfl
@[simp] theorem State.modLane_wsc (s : State) (l : Lane) (f : LaneSt → LaneSt) (p' : WscPort) : (s.modLane l f).wsc p' = s.wsc p' := by cases l <;> rfl
@[simp] theorem State.modLane_window (s : State) (l : Lane) (f : LaneSt → LaneSt) (peer' : Bool) (w' : Nat) : (s.modLane l f).window peer' w' = s.window peer' w' := by cases l <;> rfl
@[simp] theorem State.modLane_keySlot (s : State) (l : Lane) (f : LaneSt → LaneSt) (k' : Nat) : (s.modLane l f).keySlot k' = s.keySlot k' := by cases l <;> rfl

/-! ## State.modDispatch -/

@[simp] theorem State.modDispatch_pending (s : State) (id : Nat) (f : Dispatch → Dispatch) : (s.modDispatch id f).pending = s.pending := rfl
@[simp] theorem State.modDispatch_fuse (s : State) (id : Nat) (f : Dispatch → Dispatch) : (s.modDispatch id f).fuse = s.fuse := rfl
@[simp] theorem State.modDispatch_glb (s : State) (id : Nat) (f : Dispatch → Dispatch) : (s.modDispatch id f).glb = s.glb := rfl
@[simp] theorem State.modDispatch_frc (s : State) (id : Nat) (f : Dispatch → Dispatch) : (s.modDispatch id f).frc = s.frc := rfl
@[simp] theorem State.modDispatch_ten (s : State) (id : Nat) (f : Dispatch → Dispatch) : (s.modDispatch id f).ten = s.ten := rfl
@[simp] theorem State.modDispatch_dispNext (s : State) (id : Nat) (f : Dispatch → Dispatch) : (s.modDispatch id f).dispNext = s.dispNext := rfl
@[simp] theorem State.modDispatch_ary (s : State) (id : Nat) (f : Dispatch → Dispatch) : (s.modDispatch id f).ary = s.ary := rfl
@[simp] theorem State.modDispatch_pipe (s : State) (id : Nat) (f : Dispatch → Dispatch) : (s.modDispatch id f).pipe = s.pipe := rfl
@[simp] theorem State.modDispatch_kv (s : State) (id : Nat) (f : Dispatch → Dispatch) : (s.modDispatch id f).kv = s.kv := rfl
@[simp] theorem State.modDispatch_mtc (s : State) (id : Nat) (f : Dispatch → Dispatch) : (s.modDispatch id f).mtc = s.mtc := rfl
@[simp] theorem State.modDispatch_dep (s : State) (id : Nat) (f : Dispatch → Dispatch) : (s.modDispatch id f).dep = s.dep := rfl
@[simp] theorem State.modDispatch_xpr (s : State) (id : Nat) (f : Dispatch → Dispatch) : (s.modDispatch id f).xpr = s.xpr := rfl
@[simp] theorem State.modDispatch_sec (s : State) (id : Nat) (f : Dispatch → Dispatch) : (s.modDispatch id f).sec = s.sec := rfl
@[simp] theorem State.modDispatch_mgt (s : State) (id : Nat) (f : Dispatch → Dispatch) : (s.modDispatch id f).mgt = s.mgt := rfl
@[simp] theorem State.modDispatch_win (s : State) (id : Nat) (f : Dispatch → Dispatch) : (s.modDispatch id f).win = s.win := rfl
@[simp] theorem State.modDispatch_out (s : State) (id : Nat) (f : Dispatch → Dispatch) : (s.modDispatch id f).out = s.out := rfl
@[simp] theorem State.modDispatch_free (s : State) (id : Nat) (f : Dispatch → Dispatch) : (s.modDispatch id f).free = s.free := rfl
@[simp] theorem State.modDispatch_tenant (s : State) (id : Nat) (f : Dispatch → Dispatch) (t' : Nat) : (s.modDispatch id f).tenant t' = s.tenant t' := rfl
@[simp] theorem State.modDispatch_queue (s : State) (id : Nat) (f : Dispatch → Dispatch) (t' q' : Nat) : (s.modDispatch id f).queue t' q' = s.queue t' q' := rfl
@[simp] theorem State.modDispatch_arr (s : State) (id : Nat) (f : Dispatch → Dispatch) (a' : Nat) : (s.modDispatch id f).arr a' = s.arr a' := rfl
@[simp] theorem State.modDispatch_pipeline (s : State) (id : Nat) (f : Dispatch → Dispatch) (p' : Nat) : (s.modDispatch id f).pipeline p' = s.pipeline p' := rfl
@[simp] theorem State.modDispatch_xid (s : State) (id : Nat) (f : Dispatch → Dispatch) (x' : Nat) : (s.modDispatch id f).xid x' = s.xid x' := rfl
@[simp] theorem State.modDispatch_lane (s : State) (id : Nat) (f : Dispatch → Dispatch) (l' : Lane) : (s.modDispatch id f).lane l' = s.lane l' := rfl
@[simp] theorem State.modDispatch_kvSeq (s : State) (id : Nat) (f : Dispatch → Dispatch) (t' h' : Nat) : (s.modDispatch id f).kvSeq t' h' = s.kvSeq t' h' := rfl
@[simp] theorem State.modDispatch_die (s : State) (id : Nat) (f : Dispatch → Dispatch) (d' : Nat) : (s.modDispatch id f).die d' = s.die d' := rfl
@[simp] theorem State.modDispatch_wsc (s : State) (id : Nat) (f : Dispatch → Dispatch) (p' : WscPort) : (s.modDispatch id f).wsc p' = s.wsc p' := rfl
@[simp] theorem State.modDispatch_window (s : State) (id : Nat) (f : Dispatch → Dispatch) (peer' : Bool) (w' : Nat) : (s.modDispatch id f).window peer' w' = s.window peer' w' := rfl
@[simp] theorem State.modDispatch_keySlot (s : State) (id : Nat) (f : Dispatch → Dispatch) (k' : Nat) : (s.modDispatch id f).keySlot k' = s.keySlot k' := rfl

/-! ## State.setKvSeq -/

@[simp] theorem State.setKvSeq_pending (s : State) (t h : Nat) (v : Option KvSeq) : (s.setKvSeq t h v).pending = s.pending := rfl
@[simp] theorem State.setKvSeq_fuse (s : State) (t h : Nat) (v : Option KvSeq) : (s.setKvSeq t h v).fuse = s.fuse := rfl
@[simp] theorem State.setKvSeq_glb (s : State) (t h : Nat) (v : Option KvSeq) : (s.setKvSeq t h v).glb = s.glb := rfl
@[simp] theorem State.setKvSeq_frc (s : State) (t h : Nat) (v : Option KvSeq) : (s.setKvSeq t h v).frc = s.frc := rfl
@[simp] theorem State.setKvSeq_ten (s : State) (t h : Nat) (v : Option KvSeq) : (s.setKvSeq t h v).ten = s.ten := rfl
@[simp] theorem State.setKvSeq_disp (s : State) (t h : Nat) (v : Option KvSeq) : (s.setKvSeq t h v).disp = s.disp := rfl
@[simp] theorem State.setKvSeq_dispNext (s : State) (t h : Nat) (v : Option KvSeq) : (s.setKvSeq t h v).dispNext = s.dispNext := rfl
@[simp] theorem State.setKvSeq_ary (s : State) (t h : Nat) (v : Option KvSeq) : (s.setKvSeq t h v).ary = s.ary := rfl
@[simp] theorem State.setKvSeq_pipe (s : State) (t h : Nat) (v : Option KvSeq) : (s.setKvSeq t h v).pipe = s.pipe := rfl
@[simp] theorem State.setKvSeq_mtc (s : State) (t h : Nat) (v : Option KvSeq) : (s.setKvSeq t h v).mtc = s.mtc := rfl
@[simp] theorem State.setKvSeq_dep (s : State) (t h : Nat) (v : Option KvSeq) : (s.setKvSeq t h v).dep = s.dep := rfl
@[simp] theorem State.setKvSeq_xpr (s : State) (t h : Nat) (v : Option KvSeq) : (s.setKvSeq t h v).xpr = s.xpr := rfl
@[simp] theorem State.setKvSeq_sec (s : State) (t h : Nat) (v : Option KvSeq) : (s.setKvSeq t h v).sec = s.sec := rfl
@[simp] theorem State.setKvSeq_mgt (s : State) (t h : Nat) (v : Option KvSeq) : (s.setKvSeq t h v).mgt = s.mgt := rfl
@[simp] theorem State.setKvSeq_win (s : State) (t h : Nat) (v : Option KvSeq) : (s.setKvSeq t h v).win = s.win := rfl
@[simp] theorem State.setKvSeq_out (s : State) (t h : Nat) (v : Option KvSeq) : (s.setKvSeq t h v).out = s.out := rfl
@[simp] theorem State.setKvSeq_free (s : State) (t h : Nat) (v : Option KvSeq) : (s.setKvSeq t h v).free = s.free := rfl
@[simp] theorem State.setKvSeq_tenant (s : State) (t h : Nat) (v : Option KvSeq) (t' : Nat) : (s.setKvSeq t h v).tenant t' = s.tenant t' := rfl
@[simp] theorem State.setKvSeq_queue (s : State) (t h : Nat) (v : Option KvSeq) (t' q' : Nat) : (s.setKvSeq t h v).queue t' q' = s.queue t' q' := rfl
@[simp] theorem State.setKvSeq_arr (s : State) (t h : Nat) (v : Option KvSeq) (a' : Nat) : (s.setKvSeq t h v).arr a' = s.arr a' := rfl
@[simp] theorem State.setKvSeq_pipeline (s : State) (t h : Nat) (v : Option KvSeq) (p' : Nat) : (s.setKvSeq t h v).pipeline p' = s.pipeline p' := rfl
@[simp] theorem State.setKvSeq_xid (s : State) (t h : Nat) (v : Option KvSeq) (x' : Nat) : (s.setKvSeq t h v).xid x' = s.xid x' := rfl
@[simp] theorem State.setKvSeq_lane (s : State) (t h : Nat) (v : Option KvSeq) (l' : Lane) : (s.setKvSeq t h v).lane l' = s.lane l' := rfl
@[simp] theorem State.setKvSeq_dispatch (s : State) (t h : Nat) (v : Option KvSeq) (id' : Nat) : (s.setKvSeq t h v).dispatch? id' = s.dispatch? id' := rfl
@[simp] theorem State.setKvSeq_die (s : State) (t h : Nat) (v : Option KvSeq) (d' : Nat) : (s.setKvSeq t h v).die d' = s.die d' := rfl
@[simp] theorem State.setKvSeq_wsc (s : State) (t h : Nat) (v : Option KvSeq) (p' : WscPort) : (s.setKvSeq t h v).wsc p' = s.wsc p' := rfl
@[simp] theorem State.setKvSeq_window (s : State) (t h : Nat) (v : Option KvSeq) (peer' : Bool) (w' : Nat) : (s.setKvSeq t h v).window peer' w' = s.window peer' w' := rfl
@[simp] theorem State.setKvSeq_keySlot (s : State) (t h : Nat) (v : Option KvSeq) (k' : Nat) : (s.setKvSeq t h v).keySlot k' = s.keySlot k' := rfl

/-! ## State.modKvSeq -/

@[simp] theorem State.modKvSeq_pending (s : State) (t h : Nat) (f : KvSeq → KvSeq) : (s.modKvSeq t h f).pending = s.pending := rfl
@[simp] theorem State.modKvSeq_fuse (s : State) (t h : Nat) (f : KvSeq → KvSeq) : (s.modKvSeq t h f).fuse = s.fuse := rfl
@[simp] theorem State.modKvSeq_glb (s : State) (t h : Nat) (f : KvSeq → KvSeq) : (s.modKvSeq t h f).glb = s.glb := rfl
@[simp] theorem State.modKvSeq_frc (s : State) (t h : Nat) (f : KvSeq → KvSeq) : (s.modKvSeq t h f).frc = s.frc := rfl
@[simp] theorem State.modKvSeq_ten (s : State) (t h : Nat) (f : KvSeq → KvSeq) : (s.modKvSeq t h f).ten = s.ten := rfl
@[simp] theorem State.modKvSeq_disp (s : State) (t h : Nat) (f : KvSeq → KvSeq) : (s.modKvSeq t h f).disp = s.disp := rfl
@[simp] theorem State.modKvSeq_dispNext (s : State) (t h : Nat) (f : KvSeq → KvSeq) : (s.modKvSeq t h f).dispNext = s.dispNext := rfl
@[simp] theorem State.modKvSeq_ary (s : State) (t h : Nat) (f : KvSeq → KvSeq) : (s.modKvSeq t h f).ary = s.ary := rfl
@[simp] theorem State.modKvSeq_pipe (s : State) (t h : Nat) (f : KvSeq → KvSeq) : (s.modKvSeq t h f).pipe = s.pipe := rfl
@[simp] theorem State.modKvSeq_mtc (s : State) (t h : Nat) (f : KvSeq → KvSeq) : (s.modKvSeq t h f).mtc = s.mtc := rfl
@[simp] theorem State.modKvSeq_dep (s : State) (t h : Nat) (f : KvSeq → KvSeq) : (s.modKvSeq t h f).dep = s.dep := rfl
@[simp] theorem State.modKvSeq_xpr (s : State) (t h : Nat) (f : KvSeq → KvSeq) : (s.modKvSeq t h f).xpr = s.xpr := rfl
@[simp] theorem State.modKvSeq_sec (s : State) (t h : Nat) (f : KvSeq → KvSeq) : (s.modKvSeq t h f).sec = s.sec := rfl
@[simp] theorem State.modKvSeq_mgt (s : State) (t h : Nat) (f : KvSeq → KvSeq) : (s.modKvSeq t h f).mgt = s.mgt := rfl
@[simp] theorem State.modKvSeq_win (s : State) (t h : Nat) (f : KvSeq → KvSeq) : (s.modKvSeq t h f).win = s.win := rfl
@[simp] theorem State.modKvSeq_out (s : State) (t h : Nat) (f : KvSeq → KvSeq) : (s.modKvSeq t h f).out = s.out := rfl
@[simp] theorem State.modKvSeq_free (s : State) (t h : Nat) (f : KvSeq → KvSeq) : (s.modKvSeq t h f).free = s.free := rfl
@[simp] theorem State.modKvSeq_tenant (s : State) (t h : Nat) (f : KvSeq → KvSeq) (t' : Nat) : (s.modKvSeq t h f).tenant t' = s.tenant t' := rfl
@[simp] theorem State.modKvSeq_queue (s : State) (t h : Nat) (f : KvSeq → KvSeq) (t' q' : Nat) : (s.modKvSeq t h f).queue t' q' = s.queue t' q' := rfl
@[simp] theorem State.modKvSeq_arr (s : State) (t h : Nat) (f : KvSeq → KvSeq) (a' : Nat) : (s.modKvSeq t h f).arr a' = s.arr a' := rfl
@[simp] theorem State.modKvSeq_pipeline (s : State) (t h : Nat) (f : KvSeq → KvSeq) (p' : Nat) : (s.modKvSeq t h f).pipeline p' = s.pipeline p' := rfl
@[simp] theorem State.modKvSeq_xid (s : State) (t h : Nat) (f : KvSeq → KvSeq) (x' : Nat) : (s.modKvSeq t h f).xid x' = s.xid x' := rfl
@[simp] theorem State.modKvSeq_lane (s : State) (t h : Nat) (f : KvSeq → KvSeq) (l' : Lane) : (s.modKvSeq t h f).lane l' = s.lane l' := rfl
@[simp] theorem State.modKvSeq_dispatch (s : State) (t h : Nat) (f : KvSeq → KvSeq) (id' : Nat) : (s.modKvSeq t h f).dispatch? id' = s.dispatch? id' := rfl
@[simp] theorem State.modKvSeq_die (s : State) (t h : Nat) (f : KvSeq → KvSeq) (d' : Nat) : (s.modKvSeq t h f).die d' = s.die d' := rfl
@[simp] theorem State.modKvSeq_wsc (s : State) (t h : Nat) (f : KvSeq → KvSeq) (p' : WscPort) : (s.modKvSeq t h f).wsc p' = s.wsc p' := rfl
@[simp] theorem State.modKvSeq_window (s : State) (t h : Nat) (f : KvSeq → KvSeq) (peer' : Bool) (w' : Nat) : (s.modKvSeq t h f).window peer' w' = s.window peer' w' := rfl
@[simp] theorem State.modKvSeq_keySlot (s : State) (t h : Nat) (f : KvSeq → KvSeq) (k' : Nat) : (s.modKvSeq t h f).keySlot k' = s.keySlot k' := rfl

/-! ## State.modSector -/

@[simp] theorem State.modSector_pending (s : State) (k : Nat) (f : Sector → Sector) : (s.modSector k f).pending = s.pending := rfl
@[simp] theorem State.modSector_fuse (s : State) (k : Nat) (f : Sector → Sector) : (s.modSector k f).fuse = s.fuse := rfl
@[simp] theorem State.modSector_glb (s : State) (k : Nat) (f : Sector → Sector) : (s.modSector k f).glb = s.glb := rfl
@[simp] theorem State.modSector_frc (s : State) (k : Nat) (f : Sector → Sector) : (s.modSector k f).frc = s.frc := rfl
@[simp] theorem State.modSector_ten (s : State) (k : Nat) (f : Sector → Sector) : (s.modSector k f).ten = s.ten := rfl
@[simp] theorem State.modSector_disp (s : State) (k : Nat) (f : Sector → Sector) : (s.modSector k f).disp = s.disp := rfl
@[simp] theorem State.modSector_dispNext (s : State) (k : Nat) (f : Sector → Sector) : (s.modSector k f).dispNext = s.dispNext := rfl
@[simp] theorem State.modSector_ary (s : State) (k : Nat) (f : Sector → Sector) : (s.modSector k f).ary = s.ary := rfl
@[simp] theorem State.modSector_pipe (s : State) (k : Nat) (f : Sector → Sector) : (s.modSector k f).pipe = s.pipe := rfl
@[simp] theorem State.modSector_kv (s : State) (k : Nat) (f : Sector → Sector) : (s.modSector k f).kv = s.kv := rfl
@[simp] theorem State.modSector_mtc (s : State) (k : Nat) (f : Sector → Sector) : (s.modSector k f).mtc = s.mtc := rfl
@[simp] theorem State.modSector_xpr (s : State) (k : Nat) (f : Sector → Sector) : (s.modSector k f).xpr = s.xpr := rfl
@[simp] theorem State.modSector_sec (s : State) (k : Nat) (f : Sector → Sector) : (s.modSector k f).sec = s.sec := rfl
@[simp] theorem State.modSector_mgt (s : State) (k : Nat) (f : Sector → Sector) : (s.modSector k f).mgt = s.mgt := rfl
@[simp] theorem State.modSector_win (s : State) (k : Nat) (f : Sector → Sector) : (s.modSector k f).win = s.win := rfl
@[simp] theorem State.modSector_out (s : State) (k : Nat) (f : Sector → Sector) : (s.modSector k f).out = s.out := rfl
@[simp] theorem State.modSector_free (s : State) (k : Nat) (f : Sector → Sector) : (s.modSector k f).free = s.free := rfl
@[simp] theorem State.modSector_tenant (s : State) (k : Nat) (f : Sector → Sector) (t' : Nat) : (s.modSector k f).tenant t' = s.tenant t' := rfl
@[simp] theorem State.modSector_queue (s : State) (k : Nat) (f : Sector → Sector) (t' q' : Nat) : (s.modSector k f).queue t' q' = s.queue t' q' := rfl
@[simp] theorem State.modSector_arr (s : State) (k : Nat) (f : Sector → Sector) (a' : Nat) : (s.modSector k f).arr a' = s.arr a' := rfl
@[simp] theorem State.modSector_pipeline (s : State) (k : Nat) (f : Sector → Sector) (p' : Nat) : (s.modSector k f).pipeline p' = s.pipeline p' := rfl
@[simp] theorem State.modSector_xid (s : State) (k : Nat) (f : Sector → Sector) (x' : Nat) : (s.modSector k f).xid x' = s.xid x' := rfl
@[simp] theorem State.modSector_lane (s : State) (k : Nat) (f : Sector → Sector) (l' : Lane) : (s.modSector k f).lane l' = s.lane l' := rfl
@[simp] theorem State.modSector_dispatch (s : State) (k : Nat) (f : Sector → Sector) (id' : Nat) : (s.modSector k f).dispatch? id' = s.dispatch? id' := rfl
@[simp] theorem State.modSector_kvSeq (s : State) (k : Nat) (f : Sector → Sector) (t' h' : Nat) : (s.modSector k f).kvSeq t' h' = s.kvSeq t' h' := rfl
@[simp] theorem State.modSector_window (s : State) (k : Nat) (f : Sector → Sector) (peer' : Bool) (w' : Nat) : (s.modSector k f).window peer' w' = s.window peer' w' := rfl
@[simp] theorem State.modSector_keySlot (s : State) (k : Nat) (f : Sector → Sector) (k' : Nat) : (s.modSector k f).keySlot k' = s.keySlot k' := rfl

/-! ## State.modDie -/

@[simp] theorem State.modDie_pending (s : State) (d : Nat) (f : Die → Die) : (s.modDie d f).pending = s.pending := rfl
@[simp] theorem State.modDie_fuse (s : State) (d : Nat) (f : Die → Die) : (s.modDie d f).fuse = s.fuse := rfl
@[simp] theorem State.modDie_glb (s : State) (d : Nat) (f : Die → Die) : (s.modDie d f).glb = s.glb := rfl
@[simp] theorem State.modDie_frc (s : State) (d : Nat) (f : Die → Die) : (s.modDie d f).frc = s.frc := rfl
@[simp] theorem State.modDie_ten (s : State) (d : Nat) (f : Die → Die) : (s.modDie d f).ten = s.ten := rfl
@[simp] theorem State.modDie_disp (s : State) (d : Nat) (f : Die → Die) : (s.modDie d f).disp = s.disp := rfl
@[simp] theorem State.modDie_dispNext (s : State) (d : Nat) (f : Die → Die) : (s.modDie d f).dispNext = s.dispNext := rfl
@[simp] theorem State.modDie_ary (s : State) (d : Nat) (f : Die → Die) : (s.modDie d f).ary = s.ary := rfl
@[simp] theorem State.modDie_pipe (s : State) (d : Nat) (f : Die → Die) : (s.modDie d f).pipe = s.pipe := rfl
@[simp] theorem State.modDie_kv (s : State) (d : Nat) (f : Die → Die) : (s.modDie d f).kv = s.kv := rfl
@[simp] theorem State.modDie_mtc (s : State) (d : Nat) (f : Die → Die) : (s.modDie d f).mtc = s.mtc := rfl
@[simp] theorem State.modDie_xpr (s : State) (d : Nat) (f : Die → Die) : (s.modDie d f).xpr = s.xpr := rfl
@[simp] theorem State.modDie_sec (s : State) (d : Nat) (f : Die → Die) : (s.modDie d f).sec = s.sec := rfl
@[simp] theorem State.modDie_mgt (s : State) (d : Nat) (f : Die → Die) : (s.modDie d f).mgt = s.mgt := rfl
@[simp] theorem State.modDie_win (s : State) (d : Nat) (f : Die → Die) : (s.modDie d f).win = s.win := rfl
@[simp] theorem State.modDie_out (s : State) (d : Nat) (f : Die → Die) : (s.modDie d f).out = s.out := rfl
@[simp] theorem State.modDie_free (s : State) (d : Nat) (f : Die → Die) : (s.modDie d f).free = s.free := rfl
@[simp] theorem State.modDie_tenant (s : State) (d : Nat) (f : Die → Die) (t' : Nat) : (s.modDie d f).tenant t' = s.tenant t' := rfl
@[simp] theorem State.modDie_queue (s : State) (d : Nat) (f : Die → Die) (t' q' : Nat) : (s.modDie d f).queue t' q' = s.queue t' q' := rfl
@[simp] theorem State.modDie_arr (s : State) (d : Nat) (f : Die → Die) (a' : Nat) : (s.modDie d f).arr a' = s.arr a' := rfl
@[simp] theorem State.modDie_pipeline (s : State) (d : Nat) (f : Die → Die) (p' : Nat) : (s.modDie d f).pipeline p' = s.pipeline p' := rfl
@[simp] theorem State.modDie_xid (s : State) (d : Nat) (f : Die → Die) (x' : Nat) : (s.modDie d f).xid x' = s.xid x' := rfl
@[simp] theorem State.modDie_lane (s : State) (d : Nat) (f : Die → Die) (l' : Lane) : (s.modDie d f).lane l' = s.lane l' := rfl
@[simp] theorem State.modDie_dispatch (s : State) (d : Nat) (f : Die → Die) (id' : Nat) : (s.modDie d f).dispatch? id' = s.dispatch? id' := rfl
@[simp] theorem State.modDie_kvSeq (s : State) (d : Nat) (f : Die → Die) (t' h' : Nat) : (s.modDie d f).kvSeq t' h' = s.kvSeq t' h' := rfl
@[simp] theorem State.modDie_window (s : State) (d : Nat) (f : Die → Die) (peer' : Bool) (w' : Nat) : (s.modDie d f).window peer' w' = s.window peer' w' := rfl
@[simp] theorem State.modDie_keySlot (s : State) (d : Nat) (f : Die → Die) (k' : Nat) : (s.modDie d f).keySlot k' = s.keySlot k' := rfl

/-! ## State.setWsc -/

@[simp] theorem State.setWsc_pending (s : State) (p : WscPort) (v : WscP) : (s.setWsc p v).pending = s.pending := by cases p <;> rfl
@[simp] theorem State.setWsc_fuse (s : State) (p : WscPort) (v : WscP) : (s.setWsc p v).fuse = s.fuse := by cases p <;> rfl
@[simp] theorem State.setWsc_glb (s : State) (p : WscPort) (v : WscP) : (s.setWsc p v).glb = s.glb := by cases p <;> rfl
@[simp] theorem State.setWsc_frc (s : State) (p : WscPort) (v : WscP) : (s.setWsc p v).frc = s.frc := by cases p <;> rfl
@[simp] theorem State.setWsc_ten (s : State) (p : WscPort) (v : WscP) : (s.setWsc p v).ten = s.ten := by cases p <;> rfl
@[simp] theorem State.setWsc_disp (s : State) (p : WscPort) (v : WscP) : (s.setWsc p v).disp = s.disp := by cases p <;> rfl
@[simp] theorem State.setWsc_dispNext (s : State) (p : WscPort) (v : WscP) : (s.setWsc p v).dispNext = s.dispNext := by cases p <;> rfl
@[simp] theorem State.setWsc_ary (s : State) (p : WscPort) (v : WscP) : (s.setWsc p v).ary = s.ary := by cases p <;> rfl
@[simp] theorem State.setWsc_pipe (s : State) (p : WscPort) (v : WscP) : (s.setWsc p v).pipe = s.pipe := by cases p <;> rfl
@[simp] theorem State.setWsc_kv (s : State) (p : WscPort) (v : WscP) : (s.setWsc p v).kv = s.kv := by cases p <;> rfl
@[simp] theorem State.setWsc_mtc (s : State) (p : WscPort) (v : WscP) : (s.setWsc p v).mtc = s.mtc := by cases p <;> rfl
@[simp] theorem State.setWsc_xpr (s : State) (p : WscPort) (v : WscP) : (s.setWsc p v).xpr = s.xpr := by cases p <;> rfl
@[simp] theorem State.setWsc_sec (s : State) (p : WscPort) (v : WscP) : (s.setWsc p v).sec = s.sec := by cases p <;> rfl
@[simp] theorem State.setWsc_mgt (s : State) (p : WscPort) (v : WscP) : (s.setWsc p v).mgt = s.mgt := by cases p <;> rfl
@[simp] theorem State.setWsc_win (s : State) (p : WscPort) (v : WscP) : (s.setWsc p v).win = s.win := by cases p <;> rfl
@[simp] theorem State.setWsc_out (s : State) (p : WscPort) (v : WscP) : (s.setWsc p v).out = s.out := by cases p <;> rfl
@[simp] theorem State.setWsc_free (s : State) (p : WscPort) (v : WscP) : (s.setWsc p v).free = s.free := by cases p <;> rfl
@[simp] theorem State.setWsc_tenant (s : State) (p : WscPort) (v : WscP) (t' : Nat) : (s.setWsc p v).tenant t' = s.tenant t' := by cases p <;> rfl
@[simp] theorem State.setWsc_queue (s : State) (p : WscPort) (v : WscP) (t' q' : Nat) : (s.setWsc p v).queue t' q' = s.queue t' q' := by cases p <;> rfl
@[simp] theorem State.setWsc_arr (s : State) (p : WscPort) (v : WscP) (a' : Nat) : (s.setWsc p v).arr a' = s.arr a' := by cases p <;> rfl
@[simp] theorem State.setWsc_pipeline (s : State) (p : WscPort) (v : WscP) (p' : Nat) : (s.setWsc p v).pipeline p' = s.pipeline p' := by cases p <;> rfl
@[simp] theorem State.setWsc_xid (s : State) (p : WscPort) (v : WscP) (x' : Nat) : (s.setWsc p v).xid x' = s.xid x' := by cases p <;> rfl
@[simp] theorem State.setWsc_lane (s : State) (p : WscPort) (v : WscP) (l' : Lane) : (s.setWsc p v).lane l' = s.lane l' := by cases p <;> rfl
@[simp] theorem State.setWsc_dispatch (s : State) (p : WscPort) (v : WscP) (id' : Nat) : (s.setWsc p v).dispatch? id' = s.dispatch? id' := by cases p <;> rfl
@[simp] theorem State.setWsc_kvSeq (s : State) (p : WscPort) (v : WscP) (t' h' : Nat) : (s.setWsc p v).kvSeq t' h' = s.kvSeq t' h' := by cases p <;> rfl
@[simp] theorem State.setWsc_window (s : State) (p : WscPort) (v : WscP) (peer' : Bool) (w' : Nat) : (s.setWsc p v).window peer' w' = s.window peer' w' := by cases p <;> rfl
@[simp] theorem State.setWsc_keySlot (s : State) (p : WscPort) (v : WscP) (k' : Nat) : (s.setWsc p v).keySlot k' = s.keySlot k' := by cases p <;> rfl

/-! ## State.modWsc -/

@[simp] theorem State.modWsc_pending (s : State) (p : WscPort) (f : WscP → WscP) : (s.modWsc p f).pending = s.pending := by cases p <;> rfl
@[simp] theorem State.modWsc_fuse (s : State) (p : WscPort) (f : WscP → WscP) : (s.modWsc p f).fuse = s.fuse := by cases p <;> rfl
@[simp] theorem State.modWsc_glb (s : State) (p : WscPort) (f : WscP → WscP) : (s.modWsc p f).glb = s.glb := by cases p <;> rfl
@[simp] theorem State.modWsc_frc (s : State) (p : WscPort) (f : WscP → WscP) : (s.modWsc p f).frc = s.frc := by cases p <;> rfl
@[simp] theorem State.modWsc_ten (s : State) (p : WscPort) (f : WscP → WscP) : (s.modWsc p f).ten = s.ten := by cases p <;> rfl
@[simp] theorem State.modWsc_disp (s : State) (p : WscPort) (f : WscP → WscP) : (s.modWsc p f).disp = s.disp := by cases p <;> rfl
@[simp] theorem State.modWsc_dispNext (s : State) (p : WscPort) (f : WscP → WscP) : (s.modWsc p f).dispNext = s.dispNext := by cases p <;> rfl
@[simp] theorem State.modWsc_ary (s : State) (p : WscPort) (f : WscP → WscP) : (s.modWsc p f).ary = s.ary := by cases p <;> rfl
@[simp] theorem State.modWsc_pipe (s : State) (p : WscPort) (f : WscP → WscP) : (s.modWsc p f).pipe = s.pipe := by cases p <;> rfl
@[simp] theorem State.modWsc_kv (s : State) (p : WscPort) (f : WscP → WscP) : (s.modWsc p f).kv = s.kv := by cases p <;> rfl
@[simp] theorem State.modWsc_mtc (s : State) (p : WscPort) (f : WscP → WscP) : (s.modWsc p f).mtc = s.mtc := by cases p <;> rfl
@[simp] theorem State.modWsc_xpr (s : State) (p : WscPort) (f : WscP → WscP) : (s.modWsc p f).xpr = s.xpr := by cases p <;> rfl
@[simp] theorem State.modWsc_sec (s : State) (p : WscPort) (f : WscP → WscP) : (s.modWsc p f).sec = s.sec := by cases p <;> rfl
@[simp] theorem State.modWsc_mgt (s : State) (p : WscPort) (f : WscP → WscP) : (s.modWsc p f).mgt = s.mgt := by cases p <;> rfl
@[simp] theorem State.modWsc_win (s : State) (p : WscPort) (f : WscP → WscP) : (s.modWsc p f).win = s.win := by cases p <;> rfl
@[simp] theorem State.modWsc_out (s : State) (p : WscPort) (f : WscP → WscP) : (s.modWsc p f).out = s.out := by cases p <;> rfl
@[simp] theorem State.modWsc_free (s : State) (p : WscPort) (f : WscP → WscP) : (s.modWsc p f).free = s.free := by cases p <;> rfl
@[simp] theorem State.modWsc_tenant (s : State) (p : WscPort) (f : WscP → WscP) (t' : Nat) : (s.modWsc p f).tenant t' = s.tenant t' := by cases p <;> rfl
@[simp] theorem State.modWsc_queue (s : State) (p : WscPort) (f : WscP → WscP) (t' q' : Nat) : (s.modWsc p f).queue t' q' = s.queue t' q' := by cases p <;> rfl
@[simp] theorem State.modWsc_arr (s : State) (p : WscPort) (f : WscP → WscP) (a' : Nat) : (s.modWsc p f).arr a' = s.arr a' := by cases p <;> rfl
@[simp] theorem State.modWsc_pipeline (s : State) (p : WscPort) (f : WscP → WscP) (p' : Nat) : (s.modWsc p f).pipeline p' = s.pipeline p' := by cases p <;> rfl
@[simp] theorem State.modWsc_xid (s : State) (p : WscPort) (f : WscP → WscP) (x' : Nat) : (s.modWsc p f).xid x' = s.xid x' := by cases p <;> rfl
@[simp] theorem State.modWsc_lane (s : State) (p : WscPort) (f : WscP → WscP) (l' : Lane) : (s.modWsc p f).lane l' = s.lane l' := by cases p <;> rfl
@[simp] theorem State.modWsc_dispatch (s : State) (p : WscPort) (f : WscP → WscP) (id' : Nat) : (s.modWsc p f).dispatch? id' = s.dispatch? id' := by cases p <;> rfl
@[simp] theorem State.modWsc_kvSeq (s : State) (p : WscPort) (f : WscP → WscP) (t' h' : Nat) : (s.modWsc p f).kvSeq t' h' = s.kvSeq t' h' := by cases p <;> rfl
@[simp] theorem State.modWsc_window (s : State) (p : WscPort) (f : WscP → WscP) (peer' : Bool) (w' : Nat) : (s.modWsc p f).window peer' w' = s.window peer' w' := by cases p <;> rfl
@[simp] theorem State.modWsc_keySlot (s : State) (p : WscPort) (f : WscP → WscP) (k' : Nat) : (s.modWsc p f).keySlot k' = s.keySlot k' := by cases p <;> rfl

/-! ## State.modSession -/

@[simp] theorem State.modSession_pending (s : State) (sid : BitVec 32) (f : Session → Session) : (s.modSession sid f).pending = s.pending := rfl
@[simp] theorem State.modSession_fuse (s : State) (sid : BitVec 32) (f : Session → Session) : (s.modSession sid f).fuse = s.fuse := rfl
@[simp] theorem State.modSession_glb (s : State) (sid : BitVec 32) (f : Session → Session) : (s.modSession sid f).glb = s.glb := rfl
@[simp] theorem State.modSession_frc (s : State) (sid : BitVec 32) (f : Session → Session) : (s.modSession sid f).frc = s.frc := rfl
@[simp] theorem State.modSession_ten (s : State) (sid : BitVec 32) (f : Session → Session) : (s.modSession sid f).ten = s.ten := rfl
@[simp] theorem State.modSession_disp (s : State) (sid : BitVec 32) (f : Session → Session) : (s.modSession sid f).disp = s.disp := rfl
@[simp] theorem State.modSession_dispNext (s : State) (sid : BitVec 32) (f : Session → Session) : (s.modSession sid f).dispNext = s.dispNext := rfl
@[simp] theorem State.modSession_ary (s : State) (sid : BitVec 32) (f : Session → Session) : (s.modSession sid f).ary = s.ary := rfl
@[simp] theorem State.modSession_pipe (s : State) (sid : BitVec 32) (f : Session → Session) : (s.modSession sid f).pipe = s.pipe := rfl
@[simp] theorem State.modSession_kv (s : State) (sid : BitVec 32) (f : Session → Session) : (s.modSession sid f).kv = s.kv := rfl
@[simp] theorem State.modSession_mtc (s : State) (sid : BitVec 32) (f : Session → Session) : (s.modSession sid f).mtc = s.mtc := rfl
@[simp] theorem State.modSession_dep (s : State) (sid : BitVec 32) (f : Session → Session) : (s.modSession sid f).dep = s.dep := rfl
@[simp] theorem State.modSession_xpr (s : State) (sid : BitVec 32) (f : Session → Session) : (s.modSession sid f).xpr = s.xpr := rfl
@[simp] theorem State.modSession_mgt (s : State) (sid : BitVec 32) (f : Session → Session) : (s.modSession sid f).mgt = s.mgt := rfl
@[simp] theorem State.modSession_win (s : State) (sid : BitVec 32) (f : Session → Session) : (s.modSession sid f).win = s.win := rfl
@[simp] theorem State.modSession_out (s : State) (sid : BitVec 32) (f : Session → Session) : (s.modSession sid f).out = s.out := rfl
@[simp] theorem State.modSession_free (s : State) (sid : BitVec 32) (f : Session → Session) : (s.modSession sid f).free = s.free := rfl
@[simp] theorem State.modSession_tenant (s : State) (sid : BitVec 32) (f : Session → Session) (t' : Nat) : (s.modSession sid f).tenant t' = s.tenant t' := rfl
@[simp] theorem State.modSession_queue (s : State) (sid : BitVec 32) (f : Session → Session) (t' q' : Nat) : (s.modSession sid f).queue t' q' = s.queue t' q' := rfl
@[simp] theorem State.modSession_arr (s : State) (sid : BitVec 32) (f : Session → Session) (a' : Nat) : (s.modSession sid f).arr a' = s.arr a' := rfl
@[simp] theorem State.modSession_pipeline (s : State) (sid : BitVec 32) (f : Session → Session) (p' : Nat) : (s.modSession sid f).pipeline p' = s.pipeline p' := rfl
@[simp] theorem State.modSession_xid (s : State) (sid : BitVec 32) (f : Session → Session) (x' : Nat) : (s.modSession sid f).xid x' = s.xid x' := rfl
@[simp] theorem State.modSession_lane (s : State) (sid : BitVec 32) (f : Session → Session) (l' : Lane) : (s.modSession sid f).lane l' = s.lane l' := rfl
@[simp] theorem State.modSession_dispatch (s : State) (sid : BitVec 32) (f : Session → Session) (id' : Nat) : (s.modSession sid f).dispatch? id' = s.dispatch? id' := rfl
@[simp] theorem State.modSession_kvSeq (s : State) (sid : BitVec 32) (f : Session → Session) (t' h' : Nat) : (s.modSession sid f).kvSeq t' h' = s.kvSeq t' h' := rfl
@[simp] theorem State.modSession_die (s : State) (sid : BitVec 32) (f : Session → Session) (d' : Nat) : (s.modSession sid f).die d' = s.die d' := rfl
@[simp] theorem State.modSession_wsc (s : State) (sid : BitVec 32) (f : Session → Session) (p' : WscPort) : (s.modSession sid f).wsc p' = s.wsc p' := rfl
@[simp] theorem State.modSession_window (s : State) (sid : BitVec 32) (f : Session → Session) (peer' : Bool) (w' : Nat) : (s.modSession sid f).window peer' w' = s.window peer' w' := rfl

/-! ## State.modMgt -/

@[simp] theorem State.modMgt_pending (s : State) (f : Mgt → Mgt) : (s.modMgt f).pending = s.pending := rfl
@[simp] theorem State.modMgt_fuse (s : State) (f : Mgt → Mgt) : (s.modMgt f).fuse = s.fuse := rfl
@[simp] theorem State.modMgt_glb (s : State) (f : Mgt → Mgt) : (s.modMgt f).glb = s.glb := rfl
@[simp] theorem State.modMgt_frc (s : State) (f : Mgt → Mgt) : (s.modMgt f).frc = s.frc := rfl
@[simp] theorem State.modMgt_ten (s : State) (f : Mgt → Mgt) : (s.modMgt f).ten = s.ten := rfl
@[simp] theorem State.modMgt_disp (s : State) (f : Mgt → Mgt) : (s.modMgt f).disp = s.disp := rfl
@[simp] theorem State.modMgt_dispNext (s : State) (f : Mgt → Mgt) : (s.modMgt f).dispNext = s.dispNext := rfl
@[simp] theorem State.modMgt_ary (s : State) (f : Mgt → Mgt) : (s.modMgt f).ary = s.ary := rfl
@[simp] theorem State.modMgt_pipe (s : State) (f : Mgt → Mgt) : (s.modMgt f).pipe = s.pipe := rfl
@[simp] theorem State.modMgt_kv (s : State) (f : Mgt → Mgt) : (s.modMgt f).kv = s.kv := rfl
@[simp] theorem State.modMgt_mtc (s : State) (f : Mgt → Mgt) : (s.modMgt f).mtc = s.mtc := rfl
@[simp] theorem State.modMgt_dep (s : State) (f : Mgt → Mgt) : (s.modMgt f).dep = s.dep := rfl
@[simp] theorem State.modMgt_xpr (s : State) (f : Mgt → Mgt) : (s.modMgt f).xpr = s.xpr := rfl
@[simp] theorem State.modMgt_sec (s : State) (f : Mgt → Mgt) : (s.modMgt f).sec = s.sec := rfl
@[simp] theorem State.modMgt_win (s : State) (f : Mgt → Mgt) : (s.modMgt f).win = s.win := rfl
@[simp] theorem State.modMgt_out (s : State) (f : Mgt → Mgt) : (s.modMgt f).out = s.out := rfl
@[simp] theorem State.modMgt_free (s : State) (f : Mgt → Mgt) : (s.modMgt f).free = s.free := rfl
@[simp] theorem State.modMgt_tenant (s : State) (f : Mgt → Mgt) (t' : Nat) : (s.modMgt f).tenant t' = s.tenant t' := rfl
@[simp] theorem State.modMgt_queue (s : State) (f : Mgt → Mgt) (t' q' : Nat) : (s.modMgt f).queue t' q' = s.queue t' q' := rfl
@[simp] theorem State.modMgt_arr (s : State) (f : Mgt → Mgt) (a' : Nat) : (s.modMgt f).arr a' = s.arr a' := rfl
@[simp] theorem State.modMgt_pipeline (s : State) (f : Mgt → Mgt) (p' : Nat) : (s.modMgt f).pipeline p' = s.pipeline p' := rfl
@[simp] theorem State.modMgt_xid (s : State) (f : Mgt → Mgt) (x' : Nat) : (s.modMgt f).xid x' = s.xid x' := rfl
@[simp] theorem State.modMgt_lane (s : State) (f : Mgt → Mgt) (l' : Lane) : (s.modMgt f).lane l' = s.lane l' := rfl
@[simp] theorem State.modMgt_dispatch (s : State) (f : Mgt → Mgt) (id' : Nat) : (s.modMgt f).dispatch? id' = s.dispatch? id' := rfl
@[simp] theorem State.modMgt_kvSeq (s : State) (f : Mgt → Mgt) (t' h' : Nat) : (s.modMgt f).kvSeq t' h' = s.kvSeq t' h' := rfl
@[simp] theorem State.modMgt_die (s : State) (f : Mgt → Mgt) (d' : Nat) : (s.modMgt f).die d' = s.die d' := rfl
@[simp] theorem State.modMgt_wsc (s : State) (f : Mgt → Mgt) (p' : WscPort) : (s.modMgt f).wsc p' = s.wsc p' := rfl
@[simp] theorem State.modMgt_window (s : State) (f : Mgt → Mgt) (peer' : Bool) (w' : Nat) : (s.modMgt f).window peer' w' = s.window peer' w' := rfl
@[simp] theorem State.modMgt_keySlot (s : State) (f : Mgt → Mgt) (k' : Nat) : (s.modMgt f).keySlot k' = s.keySlot k' := rfl

/-! ## State.modWin -/

@[simp] theorem State.modWin_pending (s : State) (f : Win → Win) : (s.modWin f).pending = s.pending := rfl
@[simp] theorem State.modWin_fuse (s : State) (f : Win → Win) : (s.modWin f).fuse = s.fuse := rfl
@[simp] theorem State.modWin_glb (s : State) (f : Win → Win) : (s.modWin f).glb = s.glb := rfl
@[simp] theorem State.modWin_frc (s : State) (f : Win → Win) : (s.modWin f).frc = s.frc := rfl
@[simp] theorem State.modWin_ten (s : State) (f : Win → Win) : (s.modWin f).ten = s.ten := rfl
@[simp] theorem State.modWin_disp (s : State) (f : Win → Win) : (s.modWin f).disp = s.disp := rfl
@[simp] theorem State.modWin_dispNext (s : State) (f : Win → Win) : (s.modWin f).dispNext = s.dispNext := rfl
@[simp] theorem State.modWin_ary (s : State) (f : Win → Win) : (s.modWin f).ary = s.ary := rfl
@[simp] theorem State.modWin_pipe (s : State) (f : Win → Win) : (s.modWin f).pipe = s.pipe := rfl
@[simp] theorem State.modWin_kv (s : State) (f : Win → Win) : (s.modWin f).kv = s.kv := rfl
@[simp] theorem State.modWin_mtc (s : State) (f : Win → Win) : (s.modWin f).mtc = s.mtc := rfl
@[simp] theorem State.modWin_dep (s : State) (f : Win → Win) : (s.modWin f).dep = s.dep := rfl
@[simp] theorem State.modWin_xpr (s : State) (f : Win → Win) : (s.modWin f).xpr = s.xpr := rfl
@[simp] theorem State.modWin_sec (s : State) (f : Win → Win) : (s.modWin f).sec = s.sec := rfl
@[simp] theorem State.modWin_mgt (s : State) (f : Win → Win) : (s.modWin f).mgt = s.mgt := rfl
@[simp] theorem State.modWin_out (s : State) (f : Win → Win) : (s.modWin f).out = s.out := rfl
@[simp] theorem State.modWin_free (s : State) (f : Win → Win) : (s.modWin f).free = s.free := rfl
@[simp] theorem State.modWin_tenant (s : State) (f : Win → Win) (t' : Nat) : (s.modWin f).tenant t' = s.tenant t' := rfl
@[simp] theorem State.modWin_queue (s : State) (f : Win → Win) (t' q' : Nat) : (s.modWin f).queue t' q' = s.queue t' q' := rfl
@[simp] theorem State.modWin_arr (s : State) (f : Win → Win) (a' : Nat) : (s.modWin f).arr a' = s.arr a' := rfl
@[simp] theorem State.modWin_pipeline (s : State) (f : Win → Win) (p' : Nat) : (s.modWin f).pipeline p' = s.pipeline p' := rfl
@[simp] theorem State.modWin_xid (s : State) (f : Win → Win) (x' : Nat) : (s.modWin f).xid x' = s.xid x' := rfl
@[simp] theorem State.modWin_lane (s : State) (f : Win → Win) (l' : Lane) : (s.modWin f).lane l' = s.lane l' := rfl
@[simp] theorem State.modWin_dispatch (s : State) (f : Win → Win) (id' : Nat) : (s.modWin f).dispatch? id' = s.dispatch? id' := rfl
@[simp] theorem State.modWin_kvSeq (s : State) (f : Win → Win) (t' h' : Nat) : (s.modWin f).kvSeq t' h' = s.kvSeq t' h' := rfl
@[simp] theorem State.modWin_die (s : State) (f : Win → Win) (d' : Nat) : (s.modWin f).die d' = s.die d' := rfl
@[simp] theorem State.modWin_wsc (s : State) (f : Win → Win) (p' : WscPort) : (s.modWin f).wsc p' = s.wsc p' := rfl
@[simp] theorem State.modWin_keySlot (s : State) (f : Win → Win) (k' : Nat) : (s.modWin f).keySlot k' = s.keySlot k' := rfl

/-! ## State.setWindow -/

@[simp] theorem State.setWindow_pending (s : State) (peer : Bool) (w : Nat) (v : Window) : (s.setWindow peer w v).pending = s.pending := by cases peer <;> rfl
@[simp] theorem State.setWindow_fuse (s : State) (peer : Bool) (w : Nat) (v : Window) : (s.setWindow peer w v).fuse = s.fuse := by cases peer <;> rfl
@[simp] theorem State.setWindow_glb (s : State) (peer : Bool) (w : Nat) (v : Window) : (s.setWindow peer w v).glb = s.glb := by cases peer <;> rfl
@[simp] theorem State.setWindow_frc (s : State) (peer : Bool) (w : Nat) (v : Window) : (s.setWindow peer w v).frc = s.frc := by cases peer <;> rfl
@[simp] theorem State.setWindow_ten (s : State) (peer : Bool) (w : Nat) (v : Window) : (s.setWindow peer w v).ten = s.ten := by cases peer <;> rfl
@[simp] theorem State.setWindow_disp (s : State) (peer : Bool) (w : Nat) (v : Window) : (s.setWindow peer w v).disp = s.disp := by cases peer <;> rfl
@[simp] theorem State.setWindow_dispNext (s : State) (peer : Bool) (w : Nat) (v : Window) : (s.setWindow peer w v).dispNext = s.dispNext := by cases peer <;> rfl
@[simp] theorem State.setWindow_ary (s : State) (peer : Bool) (w : Nat) (v : Window) : (s.setWindow peer w v).ary = s.ary := by cases peer <;> rfl
@[simp] theorem State.setWindow_pipe (s : State) (peer : Bool) (w : Nat) (v : Window) : (s.setWindow peer w v).pipe = s.pipe := by cases peer <;> rfl
@[simp] theorem State.setWindow_kv (s : State) (peer : Bool) (w : Nat) (v : Window) : (s.setWindow peer w v).kv = s.kv := by cases peer <;> rfl
@[simp] theorem State.setWindow_mtc (s : State) (peer : Bool) (w : Nat) (v : Window) : (s.setWindow peer w v).mtc = s.mtc := by cases peer <;> rfl
@[simp] theorem State.setWindow_dep (s : State) (peer : Bool) (w : Nat) (v : Window) : (s.setWindow peer w v).dep = s.dep := by cases peer <;> rfl
@[simp] theorem State.setWindow_xpr (s : State) (peer : Bool) (w : Nat) (v : Window) : (s.setWindow peer w v).xpr = s.xpr := by cases peer <;> rfl
@[simp] theorem State.setWindow_sec (s : State) (peer : Bool) (w : Nat) (v : Window) : (s.setWindow peer w v).sec = s.sec := by cases peer <;> rfl
@[simp] theorem State.setWindow_mgt (s : State) (peer : Bool) (w : Nat) (v : Window) : (s.setWindow peer w v).mgt = s.mgt := by cases peer <;> rfl
@[simp] theorem State.setWindow_out (s : State) (peer : Bool) (w : Nat) (v : Window) : (s.setWindow peer w v).out = s.out := by cases peer <;> rfl
@[simp] theorem State.setWindow_free (s : State) (peer : Bool) (w : Nat) (v : Window) : (s.setWindow peer w v).free = s.free := by cases peer <;> rfl
@[simp] theorem State.setWindow_tenant (s : State) (peer : Bool) (w : Nat) (v : Window) (t' : Nat) : (s.setWindow peer w v).tenant t' = s.tenant t' := by cases peer <;> rfl
@[simp] theorem State.setWindow_queue (s : State) (peer : Bool) (w : Nat) (v : Window) (t' q' : Nat) : (s.setWindow peer w v).queue t' q' = s.queue t' q' := by cases peer <;> rfl
@[simp] theorem State.setWindow_arr (s : State) (peer : Bool) (w : Nat) (v : Window) (a' : Nat) : (s.setWindow peer w v).arr a' = s.arr a' := by cases peer <;> rfl
@[simp] theorem State.setWindow_pipeline (s : State) (peer : Bool) (w : Nat) (v : Window) (p' : Nat) : (s.setWindow peer w v).pipeline p' = s.pipeline p' := by cases peer <;> rfl
@[simp] theorem State.setWindow_xid (s : State) (peer : Bool) (w : Nat) (v : Window) (x' : Nat) : (s.setWindow peer w v).xid x' = s.xid x' := by cases peer <;> rfl
@[simp] theorem State.setWindow_lane (s : State) (peer : Bool) (w : Nat) (v : Window) (l' : Lane) : (s.setWindow peer w v).lane l' = s.lane l' := by cases peer <;> rfl
@[simp] theorem State.setWindow_dispatch (s : State) (peer : Bool) (w : Nat) (v : Window) (id' : Nat) : (s.setWindow peer w v).dispatch? id' = s.dispatch? id' := by cases peer <;> rfl
@[simp] theorem State.setWindow_kvSeq (s : State) (peer : Bool) (w : Nat) (v : Window) (t' h' : Nat) : (s.setWindow peer w v).kvSeq t' h' = s.kvSeq t' h' := by cases peer <;> rfl
@[simp] theorem State.setWindow_die (s : State) (peer : Bool) (w : Nat) (v : Window) (d' : Nat) : (s.setWindow peer w v).die d' = s.die d' := by cases peer <;> rfl
@[simp] theorem State.setWindow_wsc (s : State) (peer : Bool) (w : Nat) (v : Window) (p' : WscPort) : (s.setWindow peer w v).wsc p' = s.wsc p' := by cases peer <;> rfl
@[simp] theorem State.setWindow_keySlot (s : State) (peer : Bool) (w : Nat) (v : Window) (k' : Nat) : (s.setWindow peer w v).keySlot k' = s.keySlot k' := by cases peer <;> rfl

/-! ## emit -/

@[simp] theorem emit_pending (s : State) (o : Output) : (emit o s).pending = s.pending := rfl
@[simp] theorem emit_fuse (s : State) (o : Output) : (emit o s).fuse = s.fuse := rfl
@[simp] theorem emit_glb (s : State) (o : Output) : (emit o s).glb = s.glb := rfl
@[simp] theorem emit_frc (s : State) (o : Output) : (emit o s).frc = s.frc := rfl
@[simp] theorem emit_ten (s : State) (o : Output) : (emit o s).ten = s.ten := rfl
@[simp] theorem emit_disp (s : State) (o : Output) : (emit o s).disp = s.disp := rfl
@[simp] theorem emit_dispNext (s : State) (o : Output) : (emit o s).dispNext = s.dispNext := rfl
@[simp] theorem emit_ary (s : State) (o : Output) : (emit o s).ary = s.ary := rfl
@[simp] theorem emit_pipe (s : State) (o : Output) : (emit o s).pipe = s.pipe := rfl
@[simp] theorem emit_kv (s : State) (o : Output) : (emit o s).kv = s.kv := rfl
@[simp] theorem emit_mtc (s : State) (o : Output) : (emit o s).mtc = s.mtc := rfl
@[simp] theorem emit_dep (s : State) (o : Output) : (emit o s).dep = s.dep := rfl
@[simp] theorem emit_xpr (s : State) (o : Output) : (emit o s).xpr = s.xpr := rfl
@[simp] theorem emit_sec (s : State) (o : Output) : (emit o s).sec = s.sec := rfl
@[simp] theorem emit_mgt (s : State) (o : Output) : (emit o s).mgt = s.mgt := rfl
@[simp] theorem emit_win (s : State) (o : Output) : (emit o s).win = s.win := rfl
@[simp] theorem emit_free (s : State) (o : Output) : (emit o s).free = s.free := rfl
@[simp] theorem emit_tenant (s : State) (o : Output) (t' : Nat) : (emit o s).tenant t' = s.tenant t' := rfl
@[simp] theorem emit_queue (s : State) (o : Output) (t' q' : Nat) : (emit o s).queue t' q' = s.queue t' q' := rfl
@[simp] theorem emit_arr (s : State) (o : Output) (a' : Nat) : (emit o s).arr a' = s.arr a' := rfl
@[simp] theorem emit_pipeline (s : State) (o : Output) (p' : Nat) : (emit o s).pipeline p' = s.pipeline p' := rfl
@[simp] theorem emit_xid (s : State) (o : Output) (x' : Nat) : (emit o s).xid x' = s.xid x' := rfl
@[simp] theorem emit_lane (s : State) (o : Output) (l' : Lane) : (emit o s).lane l' = s.lane l' := rfl
@[simp] theorem emit_dispatch (s : State) (o : Output) (id' : Nat) : (emit o s).dispatch? id' = s.dispatch? id' := rfl
@[simp] theorem emit_kvSeq (s : State) (o : Output) (t' h' : Nat) : (emit o s).kvSeq t' h' = s.kvSeq t' h' := rfl
@[simp] theorem emit_die (s : State) (o : Output) (d' : Nat) : (emit o s).die d' = s.die d' := rfl
@[simp] theorem emit_wsc (s : State) (o : Output) (p' : WscPort) : (emit o s).wsc p' = s.wsc p' := rfl
@[simp] theorem emit_window (s : State) (o : Output) (peer' : Bool) (w' : Nat) : (emit o s).window peer' w' = s.window peer' w' := rfl
@[simp] theorem emit_keySlot (s : State) (o : Output) (k' : Nat) : (emit o s).keySlot k' = s.keySlot k' := rfl

/-! ## drawn -/

@[simp] theorem drawn_pending (s : State)  : (drawn s).pending = s.pending := rfl
@[simp] theorem drawn_fuse (s : State)  : (drawn s).fuse = s.fuse := rfl
@[simp] theorem drawn_glb (s : State)  : (drawn s).glb = s.glb := rfl
@[simp] theorem drawn_frc (s : State)  : (drawn s).frc = s.frc := rfl
@[simp] theorem drawn_ten (s : State)  : (drawn s).ten = s.ten := rfl
@[simp] theorem drawn_disp (s : State)  : (drawn s).disp = s.disp := rfl
@[simp] theorem drawn_dispNext (s : State)  : (drawn s).dispNext = s.dispNext := rfl
@[simp] theorem drawn_ary (s : State)  : (drawn s).ary = s.ary := rfl
@[simp] theorem drawn_pipe (s : State)  : (drawn s).pipe = s.pipe := rfl
@[simp] theorem drawn_kv (s : State)  : (drawn s).kv = s.kv := rfl
@[simp] theorem drawn_mtc (s : State)  : (drawn s).mtc = s.mtc := rfl
@[simp] theorem drawn_dep (s : State)  : (drawn s).dep = s.dep := rfl
@[simp] theorem drawn_xpr (s : State)  : (drawn s).xpr = s.xpr := rfl
@[simp] theorem drawn_sec (s : State)  : (drawn s).sec = s.sec := rfl
@[simp] theorem drawn_mgt (s : State)  : (drawn s).mgt = s.mgt := rfl
@[simp] theorem drawn_win (s : State)  : (drawn s).win = s.win := rfl
@[simp] theorem drawn_out (s : State)  : (drawn s).out = s.out := rfl
@[simp] theorem drawn_tenant (s : State)  (t' : Nat) : (drawn s).tenant t' = s.tenant t' := rfl
@[simp] theorem drawn_queue (s : State)  (t' q' : Nat) : (drawn s).queue t' q' = s.queue t' q' := rfl
@[simp] theorem drawn_arr (s : State)  (a' : Nat) : (drawn s).arr a' = s.arr a' := rfl
@[simp] theorem drawn_pipeline (s : State)  (p' : Nat) : (drawn s).pipeline p' = s.pipeline p' := rfl
@[simp] theorem drawn_xid (s : State)  (x' : Nat) : (drawn s).xid x' = s.xid x' := rfl
@[simp] theorem drawn_lane (s : State)  (l' : Lane) : (drawn s).lane l' = s.lane l' := rfl
@[simp] theorem drawn_dispatch (s : State)  (id' : Nat) : (drawn s).dispatch? id' = s.dispatch? id' := rfl
@[simp] theorem drawn_kvSeq (s : State)  (t' h' : Nat) : (drawn s).kvSeq t' h' = s.kvSeq t' h' := rfl
@[simp] theorem drawn_die (s : State)  (d' : Nat) : (drawn s).die d' = s.die d' := rfl
@[simp] theorem drawn_wsc (s : State)  (p' : WscPort) : (drawn s).wsc p' = s.wsc p' := rfl
@[simp] theorem drawn_window (s : State)  (peer' : Bool) (w' : Nat) : (drawn s).window peer' w' = s.window peer' w' := rfl
@[simp] theorem drawn_keySlot (s : State)  (k' : Nat) : (drawn s).keySlot k' = s.keySlot k' := rfl

/-! ## Reading back -/

@[simp] theorem State.tenant_setTenant (s : State) (t u : Nat) (x : Tenant) :
    (s.setTenant t x).tenant u = if u = t then x else s.tenant u := by simp [State.setTenant, State.tenant]
@[simp] theorem State.tenant_modTenant (s : State) (t u : Nat) (f : Tenant → Tenant) :
    (s.modTenant t f).tenant u = if u = t then f (s.tenant t) else s.tenant u := by simp [State.modTenant]
@[simp] theorem Tenant.queue_setQueue (y : Tenant) (q r : Nat) (v : Queue) :
    (y.setQueue q v).queue r = if r = q then v else y.queue r := by simp [Tenant.setQueue, Tenant.queue]
@[simp] theorem Tenant.copy_setCopy (y : Tenant) (c d : Nat) (v : Copy) :
    (y.setCopy c v).copy d = if d = c then v else y.copy d := by simp [Tenant.setCopy, Tenant.copy]
@[simp] theorem State.queue_setQueue (s : State) (t q u r : Nat) (v : Queue) :
    (s.setQueue t q v).queue u r = if u = t ∧ r = q then v else s.queue u r := by
  by_cases h : u = t
  · subst h; by_cases hr : r = q <;> simp [State.setQueue, State.queue, hr]
  · simp [State.setQueue, State.queue, h]
@[simp] theorem State.queue_modQueue (s : State) (t q u r : Nat) (f : Queue → Queue) :
    (s.modQueue t q f).queue u r = if u = t ∧ r = q then f (s.queue t q) else s.queue u r := by simp [State.modQueue]
@[simp] theorem State.arr_setArr (s : State) (a b : Nat) (x : Arr) :
    (s.setArr a x).arr b = if b = a then x else s.arr b := by simp [State.setArr, State.arr]
@[simp] theorem State.arr_modArr (s : State) (a b : Nat) (f : Arr → Arr) :
    (s.modArr a f).arr b = if b = a then f (s.arr a) else s.arr b := by simp [State.modArr]
@[simp] theorem State.pipeline_setPipe (s : State) (p r : Nat) (x : PipeSt) :
    (s.setPipe p x).pipeline r = if r = p then x else s.pipeline r := by simp [State.setPipe, State.pipeline]
@[simp] theorem State.pipeline_modPipe (s : State) (p r : Nat) (f : PipeSt → PipeSt) :
    (s.modPipe p f).pipeline r = if r = p then f (s.pipeline p) else s.pipeline r := by simp [State.modPipe]
@[simp] theorem State.xid_setXid (s : State) (x y : Nat) (v : Xid) :
    (s.setXid x v).xid y = if y = x then v else s.xid y := by simp [State.setXid, State.xid]
@[simp] theorem State.xid_modXid (s : State) (x y : Nat) (f : Xid → Xid) :
    (s.modXid x f).xid y = if y = x then f (s.xid x) else s.xid y := by simp [State.modXid]
@[simp] theorem State.lane_setLane (s : State) (l k : Lane) (v : LaneSt) :
    (s.setLane l v).lane k = if k = l then v else s.lane k := by cases l <;> cases k <;> rfl
@[simp] theorem State.lane_modLane (s : State) (l k : Lane) (f : LaneSt → LaneSt) :
    (s.modLane l f).lane k = if k = l then f (s.lane l) else s.lane k := by simp [State.modLane]
@[simp] theorem State.xid_setLane (s : State) (l : Lane) (v : LaneSt) (x : Nat) : (s.setLane l v).xid x = s.xid x := by
  cases l <;> rfl
@[simp] theorem State.xid_modLane (s : State) (l : Lane) (f : LaneSt → LaneSt) (x : Nat) : (s.modLane l f).xid x = s.xid x := by
  simp [State.modLane]
@[simp] theorem State.lane_modXid (s : State) (x : Nat) (f : Xid → Xid) (l : Lane) : (s.modXid x f).lane l = s.lane l := by
  cases l <;> rfl
@[simp] theorem State.die_modDie (s : State) (d e : Nat) (f : Die → Die) :
    (s.modDie d f).die e = if e = d then f (s.die d) else s.die e := by simp [State.modDie, State.die]
@[simp] theorem State.wsc_setWsc (s : State) (p r : WscPort) (v : WscP) :
    (s.setWsc p v).wsc r = if r = p then v else s.wsc r := by cases p <;> cases r <;> rfl
@[simp] theorem State.wsc_modWsc (s : State) (p r : WscPort) (f : WscP → WscP) :
    (s.modWsc p f).wsc r = if r = p then f (s.wsc p) else s.wsc r := by simp [State.modWsc]
@[simp] theorem State.die_setWsc (s : State) (p : WscPort) (v : WscP) (d : Nat) : (s.setWsc p v).die d = s.die d := by
  cases p <;> rfl
@[simp] theorem State.die_modWsc (s : State) (p : WscPort) (f : WscP → WscP) (d : Nat) : (s.modWsc p f).die d = s.die d := by
  cases p <;> rfl
@[simp] theorem State.wsc_modDie (s : State) (d : Nat) (f : Die → Die) (p : WscPort) : (s.modDie d f).wsc p = s.wsc p := by
  cases p <;> rfl
@[simp] theorem emit_out (s : State) (o : Output) : (emit o s).out = s.out ++ [if o.isTlp && s.glb.pcie.ecrc then .ecrc o else o] := rfl
@[simp] theorem drawn_free (s : State) : (drawn s).free = s.free + 1 := rfl

end Sys2Proof.Machine
end

