-- ==== Sys2Proof/Laws/KeepA.lean ====
section
/-! SUPPORT. What the operations of Flags, Ops, Safe, XprOps, Work and the array files leave alone: the queue of commands and the fuses. -/

namespace Sys2Proof.Machine

/-- A fold of steps that each keep a part of the state keeps it. -/
theorem foldl_keeps {σ β γ : Type} (p : σ → γ) (g : σ → β → σ) (l : List β) (s : σ) (h : ∀ s b, p (g s b) = p s) :
    p (l.foldl g s) = p s := by
  induction l generalizing s with
  | nil => rfl
  | cons b r ih => rw [List.foldl_cons, ih, h]

@[simp] theorem foldl_pending {β : Type} (g : State → β → State) (l : List β) (s : State) (h : ∀ s b, (g s b).pending = s.pending) :
    (l.foldl g s).pending = s.pending := foldl_keeps State.pending g l s h
@[simp] theorem foldl_fuse {β : Type} (g : State → β → State) (l : List β) (s : State) (h : ∀ s b, (g s b).fuse = s.fuse) :
    (l.foldl g s).fuse = s.fuse := foldl_keeps State.fuse g l s h

/-! ## Flags -/

@[simp] theorem msix_pending (v : Nat) (s : State) : (msix v s).pending = s.pending := by simp [msix, apply_ite State.pending]
@[simp] theorem msix_fuse (v : Nat) (s : State) : (msix v s).fuse = s.fuse := by simp [msix, apply_ite State.fuse]
@[simp] theorem noteWin_pending (c : BitVec 16) (port : Bool) (w : Nat) (s : State) : (noteWin c port w s).pending = s.pending :=
    by simp [noteWin, apply_ite State.pending]
@[simp] theorem noteWin_fuse (c : BitVec 16) (port : Bool) (w : Nat) (s : State) : (noteWin c port w s).fuse = s.fuse :=
    by simp [noteWin, apply_ite State.fuse]
@[simp] theorem noteBlock_pending (c : BitVec 16) (t : Option Nat) (unit arg : Nat) (s : State) : (noteBlock c t unit arg s).pending = s.pending :=
    by simp [noteBlock, apply_ite State.pending]
@[simp] theorem noteBlock_fuse (c : BitVec 16) (t : Option Nat) (unit arg : Nat) (s : State) : (noteBlock c t unit arg s).fuse = s.fuse :=
    by simp [noteBlock, apply_ite State.fuse]
@[simp] theorem record_pending (c : BitVec 16) (t : Option Nat) (unit arg addr : Nat) (s : State) : (record c t unit arg addr s).pending = s.pending :=
    by simp [record, apply_ite State.pending]
@[simp] theorem record_fuse (c : BitVec 16) (t : Option Nat) (unit arg addr : Nat) (s : State) : (record c t unit arg addr s).fuse = s.fuse :=
    by simp [record, apply_ite State.fuse]
@[simp] theorem recordReset_pending (s : State) : (recordReset s).pending = s.pending := by simp [recordReset]
@[simp] theorem recordReset_fuse (s : State) : (recordReset s).fuse = s.fuse := by simp [recordReset]

/-! ## Ops -/

@[simp] theorem sendPending_pending (v : Nat) (s : State) : (sendPending v s).pending = s.pending :=
    by simp [sendPending, apply_ite State.pending]
@[simp] theorem sendPending_fuse (v : Nat) (s : State) : (sendPending v s).fuse = s.fuse := by simp [sendPending, apply_ite State.fuse]
@[simp] theorem setPcie_pending (cfg : PcieCfg) (s : State) : (setPcie cfg s).pending = s.pending := by simp [setPcie]
@[simp] theorem setPcie_fuse (cfg : PcieCfg) (s : State) : (setPcie cfg s).fuse = s.fuse := by simp [setPcie]
@[simp] theorem faultDispatch_pending (id : Option Nat) (code : BitVec 16) (unit : BitVec 64) (s : State) : (faultDispatch id code unit s).pending = s.pending :=
    by simp only [faultDispatch]; split <;> simp
@[simp] theorem faultDispatch_fuse (id : Option Nat) (code : BitVec 16) (unit : BitVec 64) (s : State) : (faultDispatch id code unit s).fuse = s.fuse :=
    by simp only [faultDispatch]; split <;> simp
@[simp] theorem logSidRow_pending (a row : Nat) (s : State) : (logSidRow a row s).pending = s.pending := rfl
@[simp] theorem logSidRow_fuse (a row : Nat) (s : State) : (logSidRow a row s).fuse = s.fuse := rfl
@[simp] theorem logBankRow_pending (b row : Nat) (s : State) : (logBankRow b row s).pending = s.pending := rfl
@[simp] theorem logBankRow_fuse (b row : Nat) (s : State) : (logBankRow b row s).fuse = s.fuse := rfl
@[simp] theorem noteUe_pending (t : Option Nat) (code : BitVec 16) (addr : Nat) (s : State) : (noteUe t code addr s).pending = s.pending :=
    by simp [noteUe, apply_ite State.pending]
@[simp] theorem noteUe_fuse (t : Option Nat) (code : BitVec 16) (addr : Nat) (s : State) : (noteUe t code addr s).fuse = s.fuse :=
    by simp [noteUe, apply_ite State.fuse]
@[simp] theorem noteMem_pending (code : BitVec 16) (t addr : Nat) (s : State) : (noteMem code t addr s).pending = s.pending :=
    by simp [noteMem, apply_ite State.pending]
@[simp] theorem noteMem_fuse (code : BitVec 16) (t addr : Nat) (s : State) : (noteMem code t addr s).fuse = s.fuse :=
    by simp [noteMem, apply_ite State.fuse]
@[simp] theorem logConRow_pending (addr : Nat) (s : State) : (logConRow addr s).pending = s.pending := rfl
@[simp] theorem logConRow_fuse (addr : Nat) (s : State) : (logConRow addr s).fuse = s.fuse := rfl

/-! ## Safe -/

@[simp] theorem setDev_pending (d : DevState) (s : State) : (setDev d s).pending = s.pending := by simp [setDev, apply_ite State.pending]
@[simp] theorem setDev_fuse (d : DevState) (s : State) : (setDev d s).fuse = s.fuse := by simp [setDev, apply_ite State.fuse]
@[simp] theorem conWrite_pending (addr : Nat) (l : List MByte) (s : State) : (conWrite addr l s).pending = s.pending := rfl
@[simp] theorem conWrite_fuse (addr : Nat) (l : List MByte) (s : State) : (conWrite addr l s).fuse = s.fuse := rfl
@[simp] theorem partWrite_pending (p : Part) (x : Nat) (l : List MByte) (s : State) : (partWrite p x l s).pending = s.pending :=
    foldl_keeps State.pending _ _ _ (fun _ _ => rfl)
@[simp] theorem partWrite_fuse (p : Part) (x : Nat) (l : List MByte) (s : State) : (partWrite p x l s).fuse = s.fuse :=
    foldl_keeps State.fuse _ _ _ (fun _ _ => rfl)
@[simp] theorem conErrsIn_pending (base size : Nat) (ce ue : List Nat) (s : State) :
    (conErrsIn base size ce ue s).pending = s.pending := by
  unfold conErrsIn; exact (foldl_keeps State.pending _ _ _ (fun _ _ => by simp)).trans rfl
@[simp] theorem conErrsIn_fuse (base size : Nat) (ce ue : List Nat) (s : State) : (conErrsIn base size ce ue s).fuse = s.fuse := by
  unfold conErrsIn; exact (foldl_keeps State.fuse _ _ _ (fun _ _ => by simp)).trans rfl
@[simp] theorem conErrs_pending (t : Nat) (ce ue : List Nat) (s : State) : (conErrs t ce ue s).pending = s.pending :=
    by simp [conErrs]
@[simp] theorem conErrs_fuse (t : Nat) (ce ue : List Nat) (s : State) : (conErrs t ce ue s).fuse = s.fuse := by simp [conErrs]
@[simp] theorem xidErrs_pending (x : Nat) (ce ue : List Nat) (s : State) : (xidErrs x ce ue s).pending = s.pending :=
    by simp [xidErrs]
@[simp] theorem xidErrs_fuse (x : Nat) (ce ue : List Nat) (s : State) : (xidErrs x ce ue s).fuse = s.fuse := by simp [xidErrs]
@[simp] theorem laneQueue_pending (l : Lane) (src : Nat) (fr : Bytes) (s : State) : (laneQueue l src fr s).pending = s.pending :=
    by simp [laneQueue]
@[simp] theorem laneQueue_fuse (l : Lane) (src : Nat) (fr : Bytes) (s : State) : (laneQueue l src fr s).fuse = s.fuse := by simp [laneQueue]
@[simp] theorem bothLanes_pending (src : Nat) (fr : Bytes) (s : State) : (bothLanes src fr s).pending = s.pending := rfl
@[simp] theorem bothLanes_fuse (src : Nat) (fr : Bytes) (s : State) : (bothLanes src fr s).fuse = s.fuse := rfl
@[simp] theorem safeHold_pending (code : BitVec 16) (s : State) : (safeHold code s).pending = s.pending :=
    by simp [safeHold, apply_ite State.pending]
@[simp] theorem safeHold_fuse (code : BitVec 16) (s : State) : (safeHold code s).fuse = s.fuse := by simp [safeHold, apply_ite State.fuse]
@[simp] theorem updDegraded_pending (s : State) : (updDegraded s).pending = s.pending :=
    by simp only [updDegraded]; (repeat' split) <;> simp
@[simp] theorem updDegraded_fuse (s : State) : (updDegraded s).fuse = s.fuse := by simp only [updDegraded]; (repeat' split) <;> simp
@[simp] theorem noteCodes_pending (a : Nat) (l : List (BitVec 16)) (s : State) : (noteCodes a l s).pending = s.pending := by
  induction l generalizing s with
  | nil => rfl
  | cons c r ih => simp only [noteCodes, ih]; (repeat' split) <;> simp
@[simp] theorem noteCodes_fuse (a : Nat) (l : List (BitVec 16)) (s : State) : (noteCodes a l s).fuse = s.fuse := by
  induction l generalizing s with
  | nil => rfl
  | cons c r ih => simp only [noteCodes, ih]; (repeat' split) <;> simp
@[simp] theorem runTo_pending (a c : Nat) (s : State) : (runTo a c s).pending = s.pending := by simp [runTo]
@[simp] theorem runTo_fuse (a c : Nat) (s : State) : (runTo a c s).fuse = s.fuse := by simp [runTo]
@[simp] theorem modPair_pending (a : Nat) (f : Arr → Arr) (g : Arr → Arr) (s : State) : (modPair a f g s).pending = s.pending :=
    by simp only [modPair]; split <;> simp
@[simp] theorem modPair_fuse (a : Nat) (f : Arr → Arr) (g : Arr → Arr) (s : State) : (modPair a f g s).fuse = s.fuse :=
    by simp only [modPair]; split <;> simp
@[simp] theorem settleHolds_pending (a : Nat) (s : State) : (settleHolds a s).pending = s.pending := by
  simp only [settleHolds]; (repeat' split) <;> simp
@[simp] theorem settleHolds_fuse (a : Nat) (s : State) : (settleHolds a s).fuse = s.fuse := by
  simp only [settleHolds]; (repeat' split) <;> simp
@[simp] theorem startHold_pending (a : Nat) (src : HoldSrc) (len : Option Nat) (s : State) : (startHold a src len s).pending = s.pending :=
    by simp [startHold, apply_ite State.pending]
@[simp] theorem startHold_fuse (a : Nat) (src : HoldSrc) (len : Option Nat) (s : State) : (startHold a src len s).fuse = s.fuse :=
    by simp [startHold, apply_ite State.fuse]
@[simp] theorem DueHold.start_pending (a : Nat) (h : DueHold) (s : State) : (DueHold.start a h s).pending = s.pending :=
    by simp only [DueHold.start]; (repeat' split) <;> simp
@[simp] theorem DueHold.start_fuse (a : Nat) (h : DueHold) (s : State) : (DueHold.start a h s).fuse = s.fuse :=
    by simp only [DueHold.start]; (repeat' split) <;> simp
@[simp] theorem startDue_pending (a : Nat) (s : State) : (startDue a s).pending = s.pending := by simp [startDue]
@[simp] theorem startDue_fuse (a : Nat) (s : State) : (startDue a s).fuse = s.fuse := by simp [startDue]
@[simp] theorem endHold_pending (a : Nat) (src : HoldSrc) (n : Nat) (s : State) : (endHold a src n s).pending = s.pending :=
    by simp [endHold]
@[simp] theorem endHold_fuse (a : Nat) (src : HoldSrc) (n : Nat) (s : State) : (endHold a src n s).fuse = s.fuse := by simp [endHold]

/-! ## XprOps -/

@[simp] theorem startSpare_pending (x role st : Nat) (seq : BitVec 16) (s : State) : (startSpare x role st seq s).pending = s.pending := rfl
@[simp] theorem startSpare_fuse (x role st : Nat) (seq : BitVec 16) (s : State) : (startSpare x role st seq s).fuse = s.fuse := rfl
@[simp] theorem restSpare_pending (s : State) : (restSpare s).pending = s.pending := rfl
@[simp] theorem restSpare_fuse (s : State) : (restSpare s).fuse = s.fuse := rfl
@[simp] theorem clearBarrier_pending (t bar : Nat) (s : State) : (clearBarrier t bar s).pending = s.pending := rfl
@[simp] theorem clearBarrier_fuse (t bar : Nat) (s : State) : (clearBarrier t bar s).fuse = s.fuse := rfl
@[simp] theorem retireSpare_pending (s : State) : (retireSpare s).pending = s.pending := by simp [retireSpare]
@[simp] theorem retireSpare_fuse (s : State) : (retireSpare s).fuse = s.fuse := by simp [retireSpare]
@[simp] theorem formSpare_pending (a b : Nat) (s : State) : (formSpare a b s).pending = s.pending := rfl
@[simp] theorem formSpare_fuse (a b : Nat) (s : State) : (formSpare a b s).fuse = s.fuse := rfl
@[simp] theorem autoForm_pending (s : State) : (autoForm s).pending = s.pending := by simp only [autoForm]; (repeat' split) <;> simp
@[simp] theorem autoForm_fuse (s : State) : (autoForm s).fuse = s.fuse := by simp only [autoForm]; (repeat' split) <;> simp
@[simp] theorem rerunFails_pending (x : Nat) (code : BitVec 16) (s : State) : (rerunFails x code s).pending = s.pending :=
    by simp [rerunFails]
@[simp] theorem rerunFails_fuse (x : Nat) (code : BitVec 16) (s : State) : (rerunFails x code s).fuse = s.fuse := by simp [rerunFails]
@[simp] theorem memberFault_pending (x r st : Nat) (s : State) : (memberFault x r st s).pending = s.pending :=
    by simp [memberFault, apply_ite State.pending]
@[simp] theorem memberFault_fuse (x r st : Nat) (s : State) : (memberFault x r st s).fuse = s.fuse :=
    by simp [memberFault, apply_ite State.fuse]
@[simp] theorem abandonStores_pending (a : Nat) (s : State) : (abandonStores a s).pending = s.pending :=
    by simp [abandonStores, apply_ite State.pending]
@[simp] theorem abandonStores_fuse (a : Nat) (s : State) : (abandonStores a s).fuse = s.fuse :=
    by simp [abandonStores, apply_ite State.fuse]
@[simp] theorem loseArray_pending (f a : Nat) (s : State) : (loseArray f a s).pending = s.pending := rfl
@[simp] theorem loseArray_fuse (f a : Nat) (s : State) : (loseArray f a s).fuse = s.fuse := rfl
@[simp] theorem loseShared_pending (j : RebindJob) (s : State) : (loseShared j s).pending = s.pending :=
    by simp [loseShared, apply_ite State.pending]
@[simp] theorem loseShared_fuse (j : RebindJob) (s : State) : (loseShared j s).fuse = s.fuse :=
    by simp [loseShared, apply_ite State.fuse]
@[simp] theorem settleLost_pending (s : State) : (settleLost s).pending = s.pending := by
  unfold settleLost; exact foldl_keeps State.pending _ _ _ (fun _ _ => by simp)
@[simp] theorem settleLost_fuse (s : State) : (settleLost s).fuse = s.fuse := by
  unfold settleLost; exact foldl_keeps State.fuse _ _ _ (fun _ _ => by simp)
@[simp] theorem takeQuiet_pending (a : Nat) (s : State) : (takeQuiet a s).pending = s.pending := by
  simp only [takeQuiet, settleLost_pending]; (repeat' split) <;> simp
@[simp] theorem takeQuiet_fuse (a : Nat) (s : State) : (takeQuiet a s).fuse = s.fuse := by
  simp only [takeQuiet, settleLost_fuse]; (repeat' split) <;> simp
@[simp] theorem stopAry_pending (a : Nat) (code : BitVec 16) (s : State) : (stopAry a code s).pending = s.pending := by
  unfold stopAry
  extract_lets x running s1 gone wasHeld s2 s3 s4 s5 s6
  have h3 : s3.pending = s.pending := by
    simp only [s3]; cases wasHeld <;> simp [s2, s1]
  have h6 : s6.pending = s.pending := by
    have h5 : s5.pending = s.pending := by simp [s5, s4, h3]
    simp only [s6]; cases running <;> simp [h5]
  clear_value s6
  (repeat' split) <;> simp [apply_ite State.pending, h6]
@[simp] theorem stopAry_fuse (a : Nat) (code : BitVec 16) (s : State) : (stopAry a code s).fuse = s.fuse := by
  unfold stopAry
  extract_lets x running s1 gone wasHeld s2 s3 s4 s5 s6
  have h3 : s3.fuse = s.fuse := by
    simp only [s3]; cases wasHeld <;> simp [s2, s1]
  have h6 : s6.fuse = s.fuse := by
    have h5 : s5.fuse = s.fuse := by simp [s5, s4, h3]
    simp only [s6]; cases running <;> simp [h5]
  clear_value s6
  (repeat' split) <;> simp [apply_ite State.fuse, h6]
@[simp] theorem passTo_pending (a c : Nat) (k : State → State) (s : State) (h : ∀ s, (k s).pending = s.pending) : (passTo a c k s).pending = s.pending :=
    by simp only [passTo]; split <;> simp [h]
@[simp] theorem passTo_fuse (a c : Nat) (k : State → State) (s : State) (h : ∀ s, (k s).fuse = s.fuse) : (passTo a c k s).fuse = s.fuse :=
    by simp only [passTo]; split <;> simp [h]
@[simp] theorem restartXid_pending (x : Nat) (s : State) : (restartXid x s).pending = s.pending := by
  unfold restartXid
  extract_lets v
  split
  · split
    · rfl
    · split
      · extract_lets s1 s2
        have h2 : s2.pending = s.pending := by
          simp only [s2, State.modXid_pending]; exact foldl_keeps State.pending _ _ _ (fun _ _ => rfl)
        clear_value s2
        (repeat' split) <;> simp [h2]
      · rfl
  · rfl
@[simp] theorem restartXid_fuse (x : Nat) (s : State) : (restartXid x s).fuse = s.fuse := by
  unfold restartXid
  extract_lets v
  split
  · split
    · rfl
    · split
      · extract_lets s1 s2
        have h2 : s2.fuse = s.fuse := by
          simp only [s2, State.modXid_fuse]; exact foldl_keeps State.fuse _ _ _ (fun _ _ => rfl)
        clear_value s2
        (repeat' split) <;> simp [h2]
      · rfl
  · rfl
@[simp] theorem finalPass_pending (x : Nat) (s : State) : (finalPass x s).pending = s.pending := by simp only [finalPass]; split <;> simp
@[simp] theorem finalPass_fuse (x : Nat) (s : State) : (finalPass x s).fuse = s.fuse := by simp only [finalPass]; split <;> simp
@[simp] theorem splitVerdict_pending (s : State) : (splitVerdict s).pending = s.pending := by simp [splitVerdict]
@[simp] theorem splitVerdict_fuse (s : State) : (splitVerdict s).fuse = s.fuse := by simp [splitVerdict]
@[simp] theorem expressBarrier_pending (x bar : Nat) (split : Bool) (s : State) : (expressBarrier x bar split s).pending = s.pending :=
    by simp [expressBarrier, apply_ite State.pending]
@[simp] theorem expressBarrier_fuse (x bar : Nat) (split : Bool) (s : State) : (expressBarrier x bar split s).fuse = s.fuse :=
    by simp [expressBarrier, apply_ite State.fuse]

/-! ## Work -/

@[simp] theorem startDispatch_pending (id : Nat) (s : State) : (startDispatch id s).pending = s.pending := rfl
@[simp] theorem startDispatch_fuse (id : Nat) (s : State) : (startDispatch id s).fuse = s.fuse := rfl

/-! ## ArrayLoad -/

@[simp] theorem notePoison_pending (a : Nat) (l : List MByte) (s : State) : (notePoison a l s).pending = s.pending := by simp [notePoison]
@[simp] theorem notePoison_fuse (a : Nat) (l : List MByte) (s : State) : (notePoison a l s).fuse = s.fuse := by simp [notePoison]
@[simp] theorem logSidRows_pending (a : Nat) (rows : List Nat) (s : State) : (logSidRows a rows s).pending = s.pending :=
    by unfold logSidRows; exact foldl_keeps State.pending _ _ _ (fun _ _ => by simp)
@[simp] theorem logSidRows_fuse (a : Nat) (rows : List Nat) (s : State) : (logSidRows a rows s).fuse = s.fuse :=
    by unfold logSidRows; exact foldl_keeps State.fuse _ _ _ (fun _ _ => by simp)
@[simp] theorem landMove_pending (a : Nat) (m : MoveOp) (s : State) : (landMove a m s).pending = s.pending :=
    by simp only [landMove]; split <;> simp
@[simp] theorem landMove_fuse (a : Nat) (m : MoveOp) (s : State) : (landMove a m s).fuse = s.fuse := by simp only [landMove]; split <;> simp
@[simp] theorem registerArrival_pending (a bar n : Nat) (nowait split : Bool) (s : State) : (registerArrival a bar n nowait split s).pending = s.pending :=
    by simp only [registerArrival]; (repeat' split) <;> simp
@[simp] theorem registerArrival_fuse (a bar n : Nat) (nowait split : Bool) (s : State) : (registerArrival a bar n nowait split s).fuse = s.fuse :=
    by simp only [registerArrival]; (repeat' split) <;> simp
@[simp] theorem syncIfReady_pending (a : Nat) (split : Bool) (s : State) : (syncIfReady a split s).pending = s.pending :=
    by simp [syncIfReady, apply_ite State.pending]
@[simp] theorem syncIfReady_fuse (a : Nat) (split : Bool) (s : State) : (syncIfReady a split s).fuse = s.fuse :=
    by simp [syncIfReady, apply_ite State.fuse]

/-! ## ArrayEvents -/

@[simp] theorem imageDone_pending (a : Nat) (s : State) : (imageDone a s).pending = s.pending :=
    by simp only [imageDone]; (repeat' split) <;> simp
@[simp] theorem imageDone_fuse (a : Nat) (s : State) : (imageDone a s).fuse = s.fuse := by simp only [imageDone]; (repeat' split) <;> simp

end Sys2Proof.Machine
end

