-- ==== Sys2Proof/Laws/KeepB.lean ====
section
/-! SUPPORT. What the plan, memory and KV operations leave alone: the queue of commands and the fuses. -/

namespace Sys2Proof.Machine

/-! ## PlanOps -/

@[simp] theorem finish_pending (t q : Nat) (idx : Reg32) (status : BitVec 16) (value : BitVec 64) (addr unit : Nat) (log : Bool) (s : State) : (finish t q idx status value addr unit log s).pending = s.pending :=
    by simp only [finish]; (repeat' split) <;> simp
@[simp] theorem finish_fuse (t q : Nat) (idx : Reg32) (status : BitVec 16) (value : BitVec 64) (addr unit : Nat) (log : Bool) (s : State) : (finish t q idx status value addr unit log s).fuse = s.fuse :=
    by simp only [finish]; (repeat' split) <;> simp
@[simp] theorem settleCopy_pending (t : Nat) (c : Fin 4) (s : State) : (settleCopy t c s).pending = s.pending :=
    by simp only [settleCopy]; (repeat' split) <;> simp
@[simp] theorem settleCopy_fuse (t : Nat) (c : Fin 4) (s : State) : (settleCopy t c s).fuse = s.fuse :=
    by simp only [settleCopy]; (repeat' split) <;> simp
@[simp] theorem settleCopies_pending (t : Nat) (s : State) : (settleCopies t s).pending = s.pending := by simp [settleCopies]
@[simp] theorem settleCopies_fuse (t : Nat) (s : State) : (settleCopies t s).fuse = s.fuse := by simp [settleCopies]
@[simp] theorem issueDone_pending (t q : Nat) (p : Presented) (value : BitVec 64) (s : State) : (issueDone t q p value s).pending = s.pending :=
    by simp [issueDone]
@[simp] theorem issueDone_fuse (t q : Nat) (p : Presented) (value : BitVec 64) (s : State) : (issueDone t q p value s).fuse = s.fuse :=
    by simp [issueDone]
@[simp] theorem issueOpen_pending (t q : Nat) (p : Presented) (s : State) : (issueOpen t q p s).pending = s.pending := rfl
@[simp] theorem issueOpen_fuse (t q : Nat) (p : Presented) (s : State) : (issueOpen t q p s).fuse = s.fuse := rfl
@[simp] theorem issueFault_pending (t q : Nat) (p : Presented) (code : BitVec 16) (addr : Nat) (s : State) : (issueFault t q p code addr s).pending = s.pending :=
    by simp [issueFault]
@[simp] theorem issueFault_fuse (t q : Nat) (p : Presented) (code : BitVec 16) (addr : Nat) (s : State) : (issueFault t q p code addr s).fuse = s.fuse :=
    by simp [issueFault]
@[simp] theorem failUnissued_pending (t q : Nat) (p : Presented) (code : BitVec 16) (addr arg : Nat) (s : State) : (failUnissued t q p code addr arg s).pending = s.pending :=
    by simp [failUnissued]
@[simp] theorem failUnissued_fuse (t q : Nat) (p : Presented) (code : BitVec 16) (addr arg : Nat) (s : State) : (failUnissued t q p code addr arg s).fuse = s.fuse :=
    by simp [failUnissued]
@[simp] theorem simpleBody_pending (t q : Nat) (p : Presented) (s : State) : (simpleBody t q p s).pending = s.pending :=
    by simp [simpleBody, apply_ite State.pending]
@[simp] theorem simpleBody_fuse (t q : Nat) (p : Presented) (s : State) : (simpleBody t q p s).fuse = s.fuse :=
    by simp [simpleBody, apply_ite State.fuse]
@[simp] theorem settleQueue_pending (t q : Nat) (s : State) : (settleQueue t q s).pending = s.pending :=
    by simp only [settleQueue]; (repeat' split) <;> simp
@[simp] theorem settleQueue_fuse (t q : Nat) (s : State) : (settleQueue t q s).fuse = s.fuse :=
    by simp only [settleQueue]; (repeat' split) <;> simp
@[simp] theorem settleRound_pending (t : Nat) (s : State) : (settleRound t s).pending = s.pending := by simp [settleRound]
@[simp] theorem settleRound_fuse (t : Nat) (s : State) : (settleRound t s).fuse = s.fuse := by simp [settleRound]
@[simp] theorem settle_pending (t : Nat) (s : State) : (settle t s).pending = s.pending := by simp [settle]
@[simp] theorem settle_fuse (t : Nat) (s : State) : (settle t s).fuse = s.fuse := by simp [settle]
@[simp] theorem complete_pending (t q : Nat) (idx : Reg32) (status : BitVec 16) (value : BitVec 64) (addr unit : Nat) (log : Bool) (s : State) : (complete t q idx status value addr unit log s).pending = s.pending :=
    by simp [complete]
@[simp] theorem complete_fuse (t q : Nat) (idx : Reg32) (status : BitVec 16) (value : BitVec 64) (addr unit : Nat) (log : Bool) (s : State) : (complete t q idx status value addr unit log s).fuse = s.fuse :=
    by simp [complete]
@[simp] theorem passTurn_pending (t q : Nat) (s : State) : (passTurn t q s).pending = s.pending := rfl
@[simp] theorem passTurn_fuse (t q : Nat) (s : State) : (passTurn t q s).fuse = s.fuse := rfl
@[simp] theorem taken_pending (t q : Nat) (s : State) : (taken t q s).pending = s.pending :=
    by simp [taken, apply_ite State.pending]
@[simp] theorem taken_fuse (t q : Nat) (s : State) : (taken t q s).fuse = s.fuse := by simp [taken, apply_ite State.fuse]
@[simp] theorem present_pending (t : Ten) (q : Que) (w0 w1 : BitVec 64) (mine : Bool) (body : Presented → State → State) (s : State) (h : ∀ x s, (body x s).pending = s.pending) : (present t q w0 w1 mine body s).pending = s.pending :=
    by simp only [present]; (repeat' split) <;> simp [h]
@[simp] theorem present_fuse (t : Ten) (q : Que) (w0 w1 : BitVec 64) (mine : Bool) (body : Presented → State → State) (s : State) (h : ∀ x s, (body x s).fuse = s.fuse) : (present t q w0 w1 mine body s).fuse = s.fuse :=
    by simp only [present]; (repeat' split) <;> simp [h]

/-! ## MemOps -/

@[simp] theorem settleMk_pending (t : Nat) (s : State) : (settleMk t s).pending = s.pending := by simp [settleMk, apply_ite State.pending]
@[simp] theorem settleMk_fuse (t : Nat) (s : State) : (settleMk t s).fuse = s.fuse := by simp [settleMk, apply_ite State.fuse]
@[simp] theorem tagResult_pending (t addr : Nat) (r : PageRead) (s : State) : (tagResult t addr r s).pending = s.pending :=
    by simp [tagResult, apply_ite State.pending]
@[simp] theorem tagResult_fuse (t addr : Nat) (r : PageRead) (s : State) : (tagResult t addr r s).fuse = s.fuse :=
    by simp [tagResult, apply_ite State.fuse]
@[simp] theorem writeLoc_pending (t : Nat) (l : Loc) (addr : Nat) (data : List MByte) (s : State) : (writeLoc t l addr data s).pending = s.pending :=
    by simp only [writeLoc]; (repeat' split) <;> simp
@[simp] theorem writeLoc_fuse (t : Nat) (l : Loc) (addr : Nat) (data : List MByte) (s : State) : (writeLoc t l addr data s).fuse = s.fuse :=
    by simp only [writeLoc]; (repeat' split) <;> simp
@[simp] theorem copyLocPage_pending (t : Nat) (src dst : Loc) (addr : Nat) (s : State) : (copyLocPage t src dst addr s).pending = s.pending :=
    by simp only [copyLocPage]; (repeat' split) <;> simp
@[simp] theorem copyLocPage_fuse (t : Nat) (src dst : Loc) (addr : Nat) (s : State) : (copyLocPage t src dst addr s).fuse = s.fuse :=
    by simp only [copyLocPage]; (repeat' split) <;> simp
@[simp] theorem writeFault_pending (t addr : Nat) (code : BitVec 16) (s : State) : (writeFault t addr code s).pending = s.pending :=
    by simp [writeFault]
@[simp] theorem writeFault_fuse (t addr : Nat) (code : BitVec 16) (s : State) : (writeFault t addr code s).fuse = s.fuse :=
    by simp [writeFault]
@[simp] theorem addHeat_pending (t addr n : Nat) (s : State) : (addHeat t addr n s).pending = s.pending := by simp [addHeat]
@[simp] theorem addHeat_fuse (t addr n : Nat) (s : State) : (addHeat t addr n s).fuse = s.fuse := by simp [addHeat]
@[simp] theorem scrubGranule_pending (t g : Nat) (s : State) : (scrubGranule t g s).pending = s.pending := rfl
@[simp] theorem scrubGranule_fuse (t g : Nat) (s : State) : (scrubGranule t g s).fuse = s.fuse := rfl
@[simp] theorem settleMigrates_pending (t : Nat) (s : State) : (settleMigrates t s).pending = s.pending :=
    by simp [settleMigrates, apply_ite State.pending]
@[simp] theorem settleMigrates_fuse (t : Nat) (s : State) : (settleMigrates t s).fuse = s.fuse :=
    by simp [settleMigrates, apply_ite State.fuse]
theorem fixMk_pending {t : Nat} {s s' : State} (h : fixMk t s = some s') : s'.pending = s.pending := by
  unfold fixMk at h
  split at h
  · cases h; rfl
  · obtain ⟨k, -, rfl⟩ := Option.map_eq_some_iff.mp h; simp
theorem giveGranule_pending {t g : Nat} {s s' : State} (h : giveGranule t g s = .ok s') : s'.pending = s.pending := by
  simp only [giveGranule] at h
  split at h
  · split at h
    · cases h; rfl
    · split at h
      · cases h
      · split at h
        · cases h
        · split at h
          · cases h
          · next p s1 hy =>
            cases h
            simp only [takeYardFor] at hy
            split at hy
            · cases hy
            · next s2 hf =>
              obtain ⟨r, -, hr⟩ := Option.map_eq_some_iff.mp hy
              cases hr
              have hk := fixMk_pending hf
              exact hk
  · cases h; rfl
theorem giveGranules_pending {t : Nat} {l : List Nat} {s s' : State} (h : giveGranules t l s = .ok s') : s'.pending = s.pending := by
  induction l generalizing s with
  | nil => cases h; rfl
  | cons g r ih =>
    simp only [giveGranules] at h
    split at h
    · next s1 h1 => rw [ih h, giveGranule_pending h1]
    · cases h
theorem takeYardFor_pending {t p : Nat} {s s' : State} (h : takeYardFor t s = some (p, s')) : s'.pending = s.pending := by
  simp only [takeYardFor] at h
  split at h
  · cases h
  · next hf =>
    obtain ⟨r, -, hr⟩ := Option.map_eq_some_iff.mp h
    cases hr
    have hk := fixMk_pending hf
    exact hk
theorem switchGranule_pending {t g : Nat} {src dst : Loc} {s s' : State} (h : switchGranule t g src dst s = some s') :
    s'.pending = s.pending := by
  obtain ⟨s0, h0, rfl⟩ := Option.map_eq_some_iff.mp h
  have e0 : s0.pending = s.pending := by
    split at h0
    · exact fixMk_pending h0
    · cases h0; rfl
  simp only [settleMk_pending]
  rw [foldl_keeps State.pending _ _ _ (fun _ _ => by simp), e0]
theorem refreshGranules_pending {t : Nat} {l : List Nat} {s s' : State} (h : refreshGranules t l s = .ok s') : s'.pending = s.pending := by
  induction l generalizing s with
  | nil => cases h; rfl
  | cons g r ih =>
    simp only [refreshGranules] at h
    split at h
    · next s1 h1 =>
      rw [ih h]
      simp only [refreshGranule] at h1
      split at h1
      · split at h1
        · cases h1; rfl
        · split at h1
          · cases h1
          · next hy =>
            split at h1
            · cases h1
            · next hs => cases h1; rw [switchGranule_pending hs, takeYardFor_pending hy]
      · split at h1
        · cases h1; rfl
        · split at h1
          · cases h1
          · next hs => cases h1; exact switchGranule_pending hs
      · cases h1; rfl
    · cases h
/-- A write to model memory touches memory only. -/
theorem modelWrite_pending {t a : Nat} {d : List MByte} {s s' : State} (h : modelWrite t a d s = .ok s') : s'.pending = s.pending := by
  simp only [modelWrite] at h
  split at h
  · cases h
  · next s0 h0 =>
    have e0 : s0.pending = s.pending := by
      split at h0
      · exact fixMk_pending h0
      · cases h0; rfl
    split at h
    · cases h
    · next s2 h2 =>
      cases h
      cases hg : giveGranules t (granulesOf a d.length) s0 with
      | error c => rw [hg] at h2; cases h2
      | ok s1 =>
        rw [hg] at h2
        rw [foldl_keeps State.pending, refreshGranules_pending h2, giveGranules_pending hg, e0]
        intro s b
        split <;> simp
@[simp] theorem modelRead_pending (t a n : Nat) (s : State) : (modelRead t a n s).2.pending = s.pending := by
  unfold modelRead
  rw [foldl_keeps (fun x : List MByte × State => x.2.pending)]
  intro x b
  dsimp only
  (repeat' split) <;> simp

theorem fixMk_fuse {t : Nat} {s s' : State} (h : fixMk t s = some s') : s'.fuse = s.fuse := by
  unfold fixMk at h
  split at h
  · cases h; rfl
  · obtain ⟨k, -, rfl⟩ := Option.map_eq_some_iff.mp h; simp
theorem giveGranule_fuse {t g : Nat} {s s' : State} (h : giveGranule t g s = .ok s') : s'.fuse = s.fuse := by
  simp only [giveGranule] at h
  split at h
  · split at h
    · cases h; rfl
    · split at h
      · cases h
      · split at h
        · cases h
        · split at h
          · cases h
          · next p s1 hy =>
            cases h
            simp only [takeYardFor] at hy
            split at hy
            · cases hy
            · next s2 hf =>
              obtain ⟨r, -, hr⟩ := Option.map_eq_some_iff.mp hy
              cases hr
              have hk := fixMk_fuse hf
              exact hk
  · cases h; rfl
theorem giveGranules_fuse {t : Nat} {l : List Nat} {s s' : State} (h : giveGranules t l s = .ok s') : s'.fuse = s.fuse := by
  induction l generalizing s with
  | nil => cases h; rfl
  | cons g r ih =>
    simp only [giveGranules] at h
    split at h
    · next s1 h1 => rw [ih h, giveGranule_fuse h1]
    · cases h
theorem takeYardFor_fuse {t p : Nat} {s s' : State} (h : takeYardFor t s = some (p, s')) : s'.fuse = s.fuse := by
  simp only [takeYardFor] at h
  split at h
  · cases h
  · next hf =>
    obtain ⟨r, -, hr⟩ := Option.map_eq_some_iff.mp h
    cases hr
    have hk := fixMk_fuse hf
    exact hk
theorem switchGranule_fuse {t g : Nat} {src dst : Loc} {s s' : State} (h : switchGranule t g src dst s = some s') :
    s'.fuse = s.fuse := by
  obtain ⟨s0, h0, rfl⟩ := Option.map_eq_some_iff.mp h
  have e0 : s0.fuse = s.fuse := by
    split at h0
    · exact fixMk_fuse h0
    · cases h0; rfl
  simp only [settleMk_fuse]
  rw [foldl_keeps State.fuse _ _ _ (fun _ _ => by simp), e0]
theorem refreshGranules_fuse {t : Nat} {l : List Nat} {s s' : State} (h : refreshGranules t l s = .ok s') : s'.fuse = s.fuse := by
  induction l generalizing s with
  | nil => cases h; rfl
  | cons g r ih =>
    simp only [refreshGranules] at h
    split at h
    · next s1 h1 =>
      rw [ih h]
      simp only [refreshGranule] at h1
      split at h1
      · split at h1
        · cases h1; rfl
        · split at h1
          · cases h1
          · next hy =>
            split at h1
            · cases h1
            · next hs => cases h1; rw [switchGranule_fuse hs, takeYardFor_fuse hy]
      · split at h1
        · cases h1; rfl
        · split at h1
          · cases h1
          · next hs => cases h1; exact switchGranule_fuse hs
      · cases h1; rfl
    · cases h
/-- A write to model memory touches memory only. -/
theorem modelWrite_fuse {t a : Nat} {d : List MByte} {s s' : State} (h : modelWrite t a d s = .ok s') : s'.fuse = s.fuse := by
  simp only [modelWrite] at h
  split at h
  · cases h
  · next s0 h0 =>
    have e0 : s0.fuse = s.fuse := by
      split at h0
      · exact fixMk_fuse h0
      · cases h0; rfl
    split at h
    · cases h
    · next s2 h2 =>
      cases h
      cases hg : giveGranules t (granulesOf a d.length) s0 with
      | error c => rw [hg] at h2; cases h2
      | ok s1 =>
        rw [hg] at h2
        rw [foldl_keeps State.fuse, refreshGranules_fuse h2, giveGranules_fuse hg, e0]
        intro s b
        split <;> simp
@[simp] theorem modelRead_fuse (t a n : Nat) (s : State) : (modelRead t a n s).2.fuse = s.fuse := by
  unfold modelRead
  rw [foldl_keeps (fun x : List MByte × State => x.2.fuse)]
  intro x b
  dsimp only
  (repeat' split) <;> simp


/-! ## KvOps -/

@[simp] theorem putModel_pending (t addr : Nat) (data : List MByte) (s : State) : (putModel t addr data s).pending = s.pending := by
  unfold putModel
  split
  · next h => exact modelWrite_pending h
  · simp
@[simp] theorem putModel_fuse (t addr : Nat) (data : List MByte) (s : State) : (putModel t addr data s).fuse = s.fuse := by
  unfold putModel
  split
  · next h => exact modelWrite_fuse h
  · simp
@[simp] theorem writeHdr_pending (t addr : Nat) (h : KvHdr) (s : State) : (writeHdr t addr h s).pending = s.pending := by simp [writeHdr]
@[simp] theorem writeHdr_fuse (t addr : Nat) (h : KvHdr) (s : State) : (writeHdr t addr h s).fuse = s.fuse := by simp [writeHdr]
@[simp] theorem appendEffect_pending (t hd n : Nat) (v : KvSeq) (s : State) : (appendEffect t hd n v s).pending = s.pending :=
    by simp [appendEffect, apply_ite State.pending]
@[simp] theorem appendEffect_fuse (t hd n : Nat) (v : KvSeq) (s : State) : (appendEffect t hd n v s).fuse = s.fuse :=
    by simp [appendEffect, apply_ite State.fuse]
@[simp] theorem writeList_pending (t : Nat) (v : KvSeq) (h : KvHdr) (es : List KvEntry) (s : State) : (writeList t v h es s).pending = s.pending :=
    by simp [writeList]
@[simp] theorem writeList_fuse (t : Nat) (v : KvSeq) (h : KvHdr) (es : List KvEntry) (s : State) : (writeList t v h es s).fuse = s.fuse :=
    by simp [writeList]
theorem copyPage_pending {t src dst n : Nat} {s s' : State} (h : copyPage t src dst n s = .ok s') : s'.pending = s.pending := by
  rw [copyPage] at h; simp [modelWrite_pending h]
theorem ringGranule_pending {t g : Nat} {s s' : State} (h : ringGranule t g s = .ok s') : s'.pending = s.pending := by
  simp only [ringGranule] at h
  split at h
  · cases h; rfl
  · split at h
    · split at h
      · cases h
      · split at h
        · cases h
        · next hy => cases h; exact (takeYardFor_pending hy :)
    · split at h
      · cases h
      · split at h
        · cases h
        · next hy =>
          split at h
          · cases h
          · next hs => cases h; rw [switchGranule_pending hs, takeYardFor_pending hy]
    · cases h; rfl
theorem ringGranules_pending {t : Nat} {l : List Nat} {s s' : State} (h : ringGranules t l s = .ok s') : s'.pending = s.pending := by
  induction l generalizing s with
  | nil => cases h; rfl
  | cons g r ih =>
    simp only [ringGranules] at h
    split at h
    · next s1 h1 => rw [ih h, ringGranule_pending h1]
    · cases h
theorem spillPage_pending {t src dst n : Nat} {s s' : State} (h : spillPage t src dst n s = .ok s') : s'.pending = s.pending := by
  simp only [spillPage] at h
  cases hr : ringGranules t (granulesOf dst n) s with
  | error c => rw [hr] at h; cases h
  | ok s1 => rw [hr] at h; rw [copyPage_pending h, ringGranules_pending hr]
theorem editRun_pending {t : Nat} {v v' : KvSeq} {op : KvOp} {s s' : State} (h : editRun t v op s = .ok (v', s')) : s'.pending = s.pending := by
  unfold editRun at h
  extract_lets hd es need at h
  cases op with
  | trunc n =>
    simp only [need] at h
    split at h
    · cases h
    · next hx =>
      cases h; simp only [editTrunc] at hx; split at hx
      · cases hx
      · cases hx; simp
  | remap i l f =>
    simp only [need] at h
    split at h
    · cases h
    · next hx =>
      cases h; simp only [editRemap] at hx; split at hx
      · cases hx
      · cases hx; simp
  | drop n =>
    simp only [need] at h
    split at h
    · cases h
    · next hx =>
      cases h; simp only [editDrop] at hx; split at hx
      · cases hx
      · cases hx; simp
  | unspill i f =>
    dsimp only at h
    split at h
    · generalize hw : copyPage _ _ _ _ s = r at h
      cases r with
      | error c => cases h
      | ok s1 => cases h; simp [copyPage_pending hw]
    · cases h
  | _ => cases h; simp

theorem copyPage_fuse {t src dst n : Nat} {s s' : State} (h : copyPage t src dst n s = .ok s') : s'.fuse = s.fuse := by
  rw [copyPage] at h; simp [modelWrite_fuse h]
theorem ringGranule_fuse {t g : Nat} {s s' : State} (h : ringGranule t g s = .ok s') : s'.fuse = s.fuse := by
  simp only [ringGranule] at h
  split at h
  · cases h; rfl
  · split at h
    · split at h
      · cases h
      · split at h
        · cases h
        · next hy => cases h; exact (takeYardFor_fuse hy :)
    · split at h
      · cases h
      · split at h
        · cases h
        · next hy =>
          split at h
          · cases h
          · next hs => cases h; rw [switchGranule_fuse hs, takeYardFor_fuse hy]
    · cases h; rfl
theorem ringGranules_fuse {t : Nat} {l : List Nat} {s s' : State} (h : ringGranules t l s = .ok s') : s'.fuse = s.fuse := by
  induction l generalizing s with
  | nil => cases h; rfl
  | cons g r ih =>
    simp only [ringGranules] at h
    split at h
    · next s1 h1 => rw [ih h, ringGranule_fuse h1]
    · cases h
theorem spillPage_fuse {t src dst n : Nat} {s s' : State} (h : spillPage t src dst n s = .ok s') : s'.fuse = s.fuse := by
  simp only [spillPage] at h
  cases hr : ringGranules t (granulesOf dst n) s with
  | error c => rw [hr] at h; cases h
  | ok s1 => rw [hr] at h; rw [copyPage_fuse h, ringGranules_fuse hr]
theorem editRun_fuse {t : Nat} {v v' : KvSeq} {op : KvOp} {s s' : State} (h : editRun t v op s = .ok (v', s')) : s'.fuse = s.fuse := by
  unfold editRun at h
  extract_lets hd es need at h
  cases op with
  | trunc n =>
    simp only [need] at h
    split at h
    · cases h
    · next hx =>
      cases h; simp only [editTrunc] at hx; split at hx
      · cases hx
      · cases hx; simp
  | remap i l f =>
    simp only [need] at h
    split at h
    · cases h
    · next hx =>
      cases h; simp only [editRemap] at hx; split at hx
      · cases hx
      · cases hx; simp
  | drop n =>
    simp only [need] at h
    split at h
    · cases h
    · next hx =>
      cases h; simp only [editDrop] at hx; split at hx
      · cases hx
      · cases hx; simp
  | unspill i f =>
    dsimp only at h
    split at h
    · generalize hw : copyPage _ _ _ _ s = r at h
      cases r with
      | error c => cases h
      | ok s1 => cases h; simp [copyPage_fuse hw]
    · cases h
  | _ => cases h; simp

@[simp] theorem appendTurn_pending (t hd : Nat) (v : KvSeq) (w : KvWait) (n : Nat) (pages : List Nat) (s : State) :
    (appendTurn t hd v w n pages s).pending = s.pending := by
  simp only [appendTurn]; (repeat' split) <;> simp
@[simp] theorem appendTurn_fuse (t hd : Nat) (v : KvSeq) (w : KvWait) (n : Nat) (pages : List Nat) (s : State) :
    (appendTurn t hd v w n pages s).fuse = s.fuse := by
  simp only [appendTurn]; (repeat' split) <;> simp
@[simp] theorem closeSeq_pending (t hd : Nat) (v : KvSeq) (s : State) : (closeSeq t hd v s).pending = s.pending := by
  unfold closeSeq; exact (foldl_keeps State.pending _ _ _ (fun _ _ => by simp)).trans (by simp)
@[simp] theorem closeSeq_fuse (t hd : Nat) (v : KvSeq) (s : State) : (closeSeq t hd v s).fuse = s.fuse := by
  unfold closeSeq; exact (foldl_keeps State.fuse _ _ _ (fun _ _ => by simp)).trans (by simp)
@[simp] theorem kvStep_pending (t hd : Nat) (s : State) : (kvStep t hd s).pending = s.pending := by
  unfold kvStep
  split
  · rfl
  · extract_lets h es
    split
    · extract_lets v1 s1
      split <;> simp [s1]
    · split
      · rfl
      · extract_lets v1
        split
        · simp
        · simp
        · split <;> simp
        · split
          · next he => simp [editRun_pending he]
          · simp
@[simp] theorem kvStep_fuse (t hd : Nat) (s : State) : (kvStep t hd s).fuse = s.fuse := by
  unfold kvStep
  split
  · rfl
  · extract_lets h es
    split
    · extract_lets v1 s1
      split <;> simp [s1]
    · split
      · rfl
      · extract_lets v1
        split
        · simp
        · simp
        · split <;> simp
        · split
          · next he => simp [editRun_fuse he]
          · simp
@[simp] theorem settleSeq_pending (t hd : Nat) (s : State) : (settleSeq t hd s).pending = s.pending :=
    by simp only [settleSeq]; split <;> simp
@[simp] theorem settleSeq_fuse (t hd : Nat) (s : State) : (settleSeq t hd s).fuse = s.fuse := by simp only [settleSeq]; split <;> simp

/-! ## Attention -/

@[simp] theorem endWalks_pending (mine : Walk → Bool) (s : State) : (endWalks mine s).pending = s.pending := rfl
@[simp] theorem endWalks_fuse (mine : Walk → Bool) (s : State) : (endWalks mine s).fuse = s.fuse := rfl
@[simp] theorem loseLegs_pending (p : Nat) (j : RebindJob) (s : State) : (loseLegs p j s).pending = s.pending := by
  simp only [loseLegs]; (repeat' split) <;> rfl
@[simp] theorem loseLegs_fuse (p : Nat) (j : RebindJob) (s : State) : (loseLegs p j s).fuse = s.fuse := by
  simp only [loseLegs]; (repeat' split) <;> rfl
@[simp] theorem takeQuietPipe_pending (p : Nat) (s : State) : (takeQuietPipe p s).pending = s.pending := by
  simp only [takeQuietPipe, settleLost_pending]; split
  · exact (foldl_keeps State.pending _ _ _ (fun _ _ => by simp)).trans (by simp)
  · rfl
@[simp] theorem takeQuietPipe_fuse (p : Nat) (s : State) : (takeQuietPipe p s).fuse = s.fuse := by
  simp only [takeQuietPipe, settleLost_fuse]; split
  · exact (foldl_keeps State.fuse _ _ _ (fun _ _ => by simp)).trans (by simp)
  · rfl
@[simp] theorem faultLeg_pending (p : Nat) (r : LegReq) (code : BitVec 16) (s : State) : (faultLeg p r code s).pending = s.pending :=
    by simp [faultLeg]
@[simp] theorem faultLeg_fuse (p : Nat) (r : LegReq) (code : BitVec 16) (s : State) : (faultLeg p r code s).fuse = s.fuse :=
    by simp [faultLeg]
@[simp] theorem beginLeg_pending (p : Nat) (r : LegReq) (walk : Option Nat) (kend : Nat) (place : Nat → Nat × Nat) (s : State) : (beginLeg p r walk kend place s).pending = s.pending :=
    rfl
@[simp] theorem beginLeg_fuse (p : Nat) (r : LegReq) (walk : Option Nat) (kend : Nat) (place : Nat → Nat × Nat) (s : State) : (beginLeg p r walk kend place s).fuse = s.fuse :=
    rfl
@[simp] theorem joinWalk_pending (r : LegReq) (v : KvSeq) (h : KvHdr) (s : State) : (joinWalk r v h s).2.pending = s.pending := by
  simp only [joinWalk]
  split <;> simp

@[simp] theorem joinWalk_fuse (r : LegReq) (v : KvSeq) (h : KvHdr) (s : State) : (joinWalk r v h s).2.fuse = s.fuse := by
  simp only [joinWalk]
  split <;> simp

@[simp] theorem startLeg_pending (p : Nat) (r : LegReq) (s : State) : (startLeg p r s).pending = s.pending := by
  unfold startLeg
  extract_lets d k s0 part
  have h0 : s0.pending = s.pending := by simp [s0]
  clear_value s0
  split
  · simp [h0]
  · split
    · simp [h0]
    · split
      · simp [h0]
      · split
        · simp [h0]
        · split
          · simp [h0]
          · extract_lets hd s1
            have h1 : s1.pending = s.pending := by simp [s1, h0]
            clear_value s1
            split
            · simp [h1]
            · dsimp only
              split <;> simp [h1]
@[simp] theorem startLeg_fuse (p : Nat) (r : LegReq) (s : State) : (startLeg p r s).fuse = s.fuse := by
  unfold startLeg
  extract_lets d k s0 part
  have h0 : s0.fuse = s.fuse := by simp [s0]
  clear_value s0
  split
  · simp [h0]
  · split
    · simp [h0]
    · split
      · simp [h0]
      · split
        · simp [h0]
        · split
          · simp [h0]
          · extract_lets hd s1
            have h1 : s1.fuse = s.fuse := by simp [s1, h0]
            clear_value s1
            split
            · simp [h1]
            · dsimp only
              split <;> simp [h1]
@[simp] theorem consumePoison_pending (id unit : Nat) (s : State) : (consumePoison id unit s).pending = s.pending :=
    by simp only [consumePoison]; (repeat' split) <;> simp
@[simp] theorem consumePoison_fuse (id unit : Nat) (s : State) : (consumePoison id unit s).fuse = s.fuse :=
    by simp only [consumePoison]; (repeat' split) <;> simp
@[simp] theorem writeLeg_pending (g : Leg) (s : State) : (writeLeg g s).pending = s.pending := by simp [writeLeg, apply_ite State.pending]
@[simp] theorem writeLeg_fuse (g : Leg) (s : State) : (writeLeg g s).fuse = s.fuse := by simp [writeLeg, apply_ite State.fuse]

/-! ## Plan -/

@[simp] theorem writeRecord_pending (t q : Nat) (s : State) : (writeRecord t q s).pending = s.pending :=
    by simp only [writeRecord]; (repeat' split) <;> simp
@[simp] theorem writeRecord_fuse (t q : Nat) (s : State) : (writeRecord t q s).fuse = s.fuse :=
    by simp only [writeRecord]; (repeat' split) <;> simp
@[simp] theorem writeRecords_pending (t q : Nat) (s : State) : (writeRecords t q s).pending = s.pending := by simp [writeRecords]
@[simp] theorem writeRecords_fuse (t q : Nat) (s : State) : (writeRecords t q s).fuse = s.fuse := by simp [writeRecords]
@[simp] theorem tcxBusy_pending (t off : Nat) (s : State) : (tcxBusy t off s).pending = s.pending := by simp [tcxBusy]
@[simp] theorem tcxBusy_fuse (t off : Nat) (s : State) : (tcxBusy t off s).fuse = s.fuse := by simp [tcxBusy]
@[simp] theorem writeQcfg_pending (t q : Nat) (v : Reg32) (s : State) : (writeQcfg t q v s).pending = s.pending :=
    by simp [writeQcfg, apply_ite State.pending]
@[simp] theorem writeQcfg_fuse (t q : Nat) (v : Reg32) (s : State) : (writeQcfg t q v s).fuse = s.fuse :=
    by simp [writeQcfg, apply_ite State.fuse]

/-! ## Kv -/

@[simp] theorem waitIssue_pending (t q : Nat) (p : Presented) (s : State) : (waitIssue t q p s).pending = s.pending := rfl
@[simp] theorem waitIssue_fuse (t q : Nat) (p : Presented) (s : State) : (waitIssue t q p s).fuse = s.fuse := rfl
@[simp] theorem kvopenBody_pending (t q : Nat) (p : Presented) (s : State) : (kvopenBody t q p s).pending = s.pending :=
    by simp [kvopenBody, apply_ite State.pending]
@[simp] theorem kvopenBody_fuse (t q : Nat) (p : Presented) (s : State) : (kvopenBody t q p s).fuse = s.fuse :=
    by simp [kvopenBody, apply_ite State.fuse]
@[simp] theorem kvappendBody_pending (t q : Nat) (p : Presented) (s : State) : (kvappendBody t q p s).pending = s.pending :=
    by simp only [kvappendBody]; (repeat' split) <;> simp
@[simp] theorem kvappendBody_fuse (t q : Nat) (p : Presented) (s : State) : (kvappendBody t q p s).fuse = s.fuse :=
    by simp only [kvappendBody]; (repeat' split) <;> simp
@[simp] theorem deferOp_pending (t q hd : Nat) (p : Presented) (v : KvSeq) (op : KvOp) (s : State) : (deferOp t q hd p v op s).pending = s.pending :=
    by simp [deferOp, apply_ite State.pending]
@[simp] theorem deferOp_fuse (t q hd : Nat) (p : Presented) (v : KvSeq) (op : KvOp) (s : State) : (deferOp t q hd p v op s).fuse = s.fuse :=
    by simp [deferOp, apply_ite State.fuse]
@[simp] theorem kveditBody_pending (op : Presented → KvOp) (t q : Nat) (p : Presented) (s : State) : (kveditBody op t q p s).pending = s.pending :=
    by simp only [kveditBody]; (repeat' split) <;> simp
@[simp] theorem kveditBody_fuse (op : Presented → KvOp) (t q : Nat) (p : Presented) (s : State) : (kveditBody op t q p s).fuse = s.fuse :=
    by simp only [kveditBody]; (repeat' split) <;> simp
@[simp] theorem kvcloseBody_pending (t q : Nat) (p : Presented) (s : State) : (kvcloseBody t q p s).pending = s.pending :=
    by simp only [kvcloseBody]; (repeat' split) <;> simp
@[simp] theorem kvcloseBody_fuse (t q : Nat) (p : Presented) (s : State) : (kvcloseBody t q p s).fuse = s.fuse :=
    by simp only [kvcloseBody]; (repeat' split) <;> simp
@[simp] theorem failSeals_pending (t hd : Nat) (v : KvSeq) (code : BitVec 16) (s : State) : (failSeals t hd v code s).pending = s.pending :=
    by simp [failSeals]
@[simp] theorem failSeals_fuse (t hd : Nat) (v : KvSeq) (code : BitVec 16) (s : State) : (failSeals t hd v code s).fuse = s.fuse :=
    by simp [failSeals]
@[simp] theorem sealRow_pending (form : Nat) (p : Pipe) (t : Ten) (hd : BitVec 16) (page : Nat) (s : State) : (sealRow form p t hd page s).pending = s.pending := by
  unfold sealRow
  split
  · rfl
  · extract_lets h e r o s1
    split
    · have h1 : s1.pending = s.pending := by simp [s1, r]
      clear_value s1
      split
      · simp [h1]
      · next hw =>
        simp [modelWrite_pending hw, h1]
    · rfl
@[simp] theorem sealRow_fuse (form : Nat) (p : Pipe) (t : Ten) (hd : BitVec 16) (page : Nat) (s : State) : (sealRow form p t hd page s).fuse = s.fuse := by
  unfold sealRow
  split
  · rfl
  · extract_lets h e r o s1
    split
    · have h1 : s1.fuse = s.fuse := by simp [s1, r]
      clear_value s1
      split
      · simp [h1]
      · next hw =>
        simp [modelWrite_fuse hw, h1]
    · rfl
@[simp] theorem spillBody_pending (t q : Nat) (p : Presented) (s : State) : (spillBody t q p s).pending = s.pending :=
    by simp only [spillBody]; split <;> simp
@[simp] theorem spillBody_fuse (t q : Nat) (p : Presented) (s : State) : (spillBody t q p s).fuse = s.fuse :=
    by simp only [spillBody]; split <;> simp
@[simp] theorem spillOne_pending (t hd : Nat) (v : KvSeq) (w : KvWait) (n done : Nat) (s : State) : (spillOne t hd v w n done s).pending = s.pending := by
  unfold spillOne
  split
  · rfl
  · extract_lets bytes e1
    split
    · simp
    · next hw => simp [spillPage_pending hw]
@[simp] theorem spillOne_fuse (t hd : Nat) (v : KvSeq) (w : KvWait) (n done : Nat) (s : State) : (spillOne t hd v w n done s).fuse = s.fuse := by
  unfold spillOne
  split
  · rfl
  · extract_lets bytes e1
    split
    · simp
    · next hw => simp [spillPage_fuse hw]

end Sys2Proof.Machine
end

