-- ==== Sys2Proof/Laws/KeepC.lean ====
section
/-! SUPPORT. What the arming, tenant, dispatch, memory and depot operations leave alone: the queue of commands and the fuses. -/

namespace Sys2Proof.Machine

/-! ## XprArm -/

@[simp] theorem armWatch_pending (s : State) : (armWatch s).pending = s.pending := rfl
@[simp] theorem armWatch_fuse (s : State) : (armWatch s).fuse = s.fuse := rfl
@[simp] theorem armBody_pending (t q : Nat) (p : Presented) (s : State) : (armBody t q p s).pending = s.pending :=
    by simp only [armBody]; split <;> simp
@[simp] theorem armBody_fuse (t q : Nat) (p : Presented) (s : State) : (armBody t q p s).fuse = s.fuse :=
    by simp only [armBody]; split <;> simp
@[simp] theorem zeroCon_pending (base size : Nat) (s : State) : (zeroCon base size s).pending = s.pending := rfl
@[simp] theorem zeroCon_fuse (base size : Nat) (s : State) : (zeroCon base size s).fuse = s.fuse := rfl
@[simp] theorem copyImage_pending (x : Nat) (s : State) : (copyImage x s).pending = s.pending := by simp [copyImage]
@[simp] theorem copyImage_fuse (x : Nat) (s : State) : (copyImage x s).fuse = s.fuse := by simp [copyImage]
@[simp] theorem loadMembers_pending (x : Nat) (s : State) : (loadMembers x s).pending = s.pending := by
  unfold loadMembers
  exact foldl_keeps State.pending _ _ _ (fun _ _ => by simp)
@[simp] theorem loadMembers_fuse (x : Nat) (s : State) : (loadMembers x s).fuse = s.fuse := by
  unfold loadMembers
  exact foldl_keeps State.fuse _ _ _ (fun _ _ => by simp)
@[simp] theorem linkLost_pending (s : State) : (linkLost s).pending = s.pending := by simp [linkLost, apply_ite State.pending]
@[simp] theorem linkLost_fuse (s : State) : (linkLost s).fuse = s.fuse := by simp [linkLost, apply_ite State.fuse]
@[simp] theorem armUndone_pending (x : Nat) (code : BitVec 16) (unit : Nat) (s : State) : (armUndone x code unit s).pending = s.pending :=
    by simp only [armUndone]; split <;> simp
@[simp] theorem armUndone_fuse (x : Nat) (code : BitVec 16) (unit : Nat) (s : State) : (armUndone x code unit s).fuse = s.fuse :=
    by simp only [armUndone]; split <;> simp
@[simp] theorem freeSpare_pending (s : State) : (freeSpare s).pending = s.pending := by simp [freeSpare, apply_ite State.pending]
@[simp] theorem freeSpare_fuse (s : State) : (freeSpare s).fuse = s.fuse := by simp [freeSpare, apply_ite State.fuse]
@[simp] theorem judgeSpare_pending (s : State) : (judgeSpare s).pending = s.pending := rfl
@[simp] theorem judgeSpare_fuse (s : State) : (judgeSpare s).fuse = s.fuse := rfl
@[simp] theorem disarmNow_pending (x : Nat) (s : State) : (disarmNow x s).pending = s.pending := by
  unfold disarmNow
  extract_lets v t k0 s0 s1 s2 s3 g0 g1 s4 s5
  have h0 : s0.pending = s.pending := by
    simp only [s0]; split
    · split <;> simp
    · rfl
  have h1 : s1.pending = s.pending := by simp only [s1]; rw [foldl_keeps State.pending _ _ _ (fun _ _ => by simp), h0]
  have h3 : s3.pending = s.pending := by simp [s3, s2, h1]
  have h4 : s4.pending = s.pending := by simp only [s4]; split <;> simp [h3]
  have h5 : s5.pending = s.pending := by simp [s5, h4]
  rw [foldl_keeps State.pending _ _ _ (fun _ _ => by simp), h5]
@[simp] theorem disarmNow_fuse (x : Nat) (s : State) : (disarmNow x s).fuse = s.fuse := by
  unfold disarmNow
  extract_lets v t k0 s0 s1 s2 s3 g0 g1 s4 s5
  have h0 : s0.fuse = s.fuse := by
    simp only [s0]; split
    · split <;> simp
    · rfl
  have h1 : s1.fuse = s.fuse := by simp only [s1]; rw [foldl_keeps State.fuse _ _ _ (fun _ _ => by simp), h0]
  have h3 : s3.fuse = s.fuse := by simp [s3, s2, h1]
  have h4 : s4.fuse = s.fuse := by simp only [s4]; split <;> simp [h3]
  have h5 : s5.fuse = s.fuse := by simp [s5, h4]
  rw [foldl_keeps State.fuse _ _ _ (fun _ _ => by simp), h5]
@[simp] theorem tryDisarm_pending (x : Nat) (s : State) : (tryDisarm x s).pending = s.pending :=
    by simp [tryDisarm, apply_ite State.pending]
@[simp] theorem tryDisarm_fuse (x : Nat) (s : State) : (tryDisarm x s).fuse = s.fuse := by simp [tryDisarm, apply_ite State.fuse]
@[simp] theorem beginDisarm_pending (x : Nat) (job : Option (Nat × Reg32)) (s : State) : (beginDisarm x job s).pending = s.pending := by
  unfold beginDisarm
  extract_lets v seqs s0 s1
  have h0 : s0.pending = s.pending := foldl_keeps State.pending _ _ _ (fun _ _ => by simp)
  have h1 : s1.pending = s.pending := by
    simp only [s1]; split
    · exact h0
    · rw [bothLanes_pending, foldl_keeps State.pending _ _ _ (fun _ _ => by simp), h0]
  simp [h1]
@[simp] theorem beginDisarm_fuse (x : Nat) (job : Option (Nat × Reg32)) (s : State) : (beginDisarm x job s).fuse = s.fuse := by
  unfold beginDisarm
  extract_lets v seqs s0 s1
  have h0 : s0.fuse = s.fuse := foldl_keeps State.fuse _ _ _ (fun _ _ => by simp)
  have h1 : s1.fuse = s.fuse := by
    simp only [s1]; split
    · exact h0
    · rw [bothLanes_fuse, foldl_keeps State.fuse _ _ _ (fun _ _ => by simp), h0]
  simp [h1]
@[simp] theorem disarmBody_pending (t q : Nat) (p : Presented) (s : State) : (disarmBody t q p s).pending = s.pending :=
    by simp only [disarmBody]; split <;> simp
@[simp] theorem disarmBody_fuse (t q : Nat) (p : Presented) (s : State) : (disarmBody t q p s).fuse = s.fuse :=
    by simp only [disarmBody]; split <;> simp

/-! ## Tenants -/

@[simp] theorem setCmd_pending (t : Nat) (v : BitVec 4) (s : State) : (setCmd t v s).pending = s.pending := rfl
@[simp] theorem setCmd_fuse (t : Nat) (v : BitVec 4) (s : State) : (setCmd t v s).fuse = s.fuse := rfl
@[simp] theorem settleFw_pending (t : Nat) (s : State) : (settleFw t s).pending = s.pending := by simp [settleFw, apply_ite State.pending]
@[simp] theorem settleFw_fuse (t : Nat) (s : State) : (settleFw t s).fuse = s.fuse := by simp [settleFw, apply_ite State.fuse]
@[simp] theorem settleFrom_pending (f : Nat) (s : State) : (settleFrom f s).pending = s.pending := by simp [settleFrom]
@[simp] theorem settleFrom_fuse (f : Nat) (s : State) : (settleFrom f s).fuse = s.fuse := by simp [settleFrom]
@[simp] theorem abandonWork_pending (t : Nat) (s : State) : (abandonWork t s).pending = s.pending :=
    by simp only [abandonWork]; split <;> simp
@[simp] theorem abandonWork_fuse (t : Nat) (s : State) : (abandonWork t s).fuse = s.fuse := by simp only [abandonWork]; split <;> simp
@[simp] theorem zeroKey_pending (k : Nat) (s : State) : (zeroKey k s).pending = s.pending := rfl
@[simp] theorem zeroKey_fuse (k : Nat) (s : State) : (zeroKey k s).fuse = s.fuse := rfl
@[simp] theorem dropResident_pending (t : Nat) (r : MemRange) (s : State) : (dropResident t r s).pending = s.pending := rfl
@[simp] theorem dropResident_fuse (t : Nat) (r : MemRange) (s : State) : (dropResident t r s).fuse = s.fuse := rfl
@[simp] theorem scrubRange_pending (t : Nat) (r : MemRange) (s : State) : (scrubRange t r s).pending = s.pending := by
  unfold scrubRange
  simp only [dropResident_pending, settleMigrates_pending, settleMk_pending]
  exact foldl_keeps State.pending _ _ _ (fun _ _ => by simp)
@[simp] theorem scrubRange_fuse (t : Nat) (r : MemRange) (s : State) : (scrubRange t r s).fuse = s.fuse := by
  unfold scrubRange
  simp only [dropResident_fuse, settleMigrates_fuse, settleMk_fuse]
  exact foldl_keeps State.fuse _ _ _ (fun _ _ => by simp)
@[simp] theorem noteConflict_pending (t : Nat) (bad : Bool) (s : State) : (noteConflict t bad s).pending = s.pending :=
    by simp [noteConflict, apply_ite State.pending]
@[simp] theorem noteConflict_fuse (t : Nat) (bad : Bool) (s : State) : (noteConflict t bad s).fuse = s.fuse :=
    by simp [noteConflict, apply_ite State.fuse]
@[simp] theorem bindArrays_pending (t : Nat) (hi : Bool) (v : Reg32) (s : State) : (bindArrays t hi v s).pending = s.pending :=
    by simp [bindArrays, apply_ite State.pending]
@[simp] theorem bindArrays_fuse (t : Nat) (hi : Bool) (v : Reg32) (s : State) : (bindArrays t hi v s).fuse = s.fuse :=
    by simp [bindArrays, apply_ite State.fuse]
@[simp] theorem bindKeys_pending (t : Nat) (v : Reg32) (s : State) : (bindKeys t v s).pending = s.pending :=
    by simp [bindKeys, apply_ite State.pending]
@[simp] theorem bindKeys_fuse (t : Nat) (v : Reg32) (s : State) : (bindKeys t v s).fuse = s.fuse := by simp [bindKeys, apply_ite State.fuse]
@[simp] theorem bindCon_pending (t : Nat) (v : Reg32) (s : State) : (bindCon t v s).pending = s.pending :=
    by simp [bindCon, apply_ite State.pending]
@[simp] theorem bindCon_fuse (t : Nat) (v : Reg32) (s : State) : (bindCon t v s).fuse = s.fuse := by simp [bindCon, apply_ite State.fuse]
@[simp] theorem bindRange_pending (t off : Nat) (v : Reg32) (s : State) : (bindRange t off v s).pending = s.pending := rfl
@[simp] theorem bindRange_fuse (t off : Nat) (v : Reg32) (s : State) : (bindRange t off v s).fuse = s.fuse := rfl
@[simp] theorem writeBind_pending (t off : Nat) (v : Reg32) (s : State) : (writeBind t off v s).pending = s.pending :=
    by simp [writeBind, apply_ite State.pending]
@[simp] theorem writeBind_fuse (t off : Nat) (v : Reg32) (s : State) : (writeBind t off v s).fuse = s.fuse :=
    by simp [writeBind, apply_ite State.fuse]
@[simp] theorem writeCfg_pending (t off : Nat) (v : Reg32) (s : State) : (writeCfg t off v s).pending = s.pending :=
    by simp [writeCfg, apply_ite State.pending]
@[simp] theorem writeCfg_fuse (t off : Nat) (v : Reg32) (s : State) : (writeCfg t off v s).fuse = s.fuse :=
    by simp [writeCfg, apply_ite State.fuse]
@[simp] theorem setcfgBody_pending (t q : Nat) (p : Presented) (s : State) : (setcfgBody t q p s).pending = s.pending :=
    by simp [setcfgBody, apply_ite State.pending]
@[simp] theorem setcfgBody_fuse (t q : Nat) (p : Presented) (s : State) : (setcfgBody t q p s).fuse = s.fuse :=
    by simp [setcfgBody, apply_ite State.fuse]
@[simp] theorem refuseJob_pending (t : Nat) (j : RebindJob) (s : State) : (refuseJob t j s).pending = s.pending :=
    by simp only [refuseJob]; split <;> simp
@[simp] theorem refuseJob_fuse (t : Nat) (j : RebindJob) (s : State) : (refuseJob t j s).fuse = s.fuse :=
    by simp only [refuseJob]; split <;> simp
@[simp] theorem acceptJob_pending (t : Nat) (s : State) : (acceptJob t s).pending = s.pending :=
    by simp only [acceptJob]; (repeat' split) <;> simp [apply_ite State.pending]
@[simp] theorem acceptJob_fuse (t : Nat) (s : State) : (acceptJob t s).fuse = s.fuse :=
    by simp only [acceptJob]; (repeat' split) <;> simp [apply_ite State.fuse]
@[simp] theorem rebindBody_pending (t q : Nat) (p : Presented) (s : State) : (rebindBody t q p s).pending = s.pending :=
    by simp [rebindBody, apply_ite State.pending]
@[simp] theorem rebindBody_fuse (t q : Nat) (p : Presented) (s : State) : (rebindBody t q p s).fuse = s.fuse :=
    by simp [rebindBody, apply_ite State.fuse]
@[simp] theorem discardLeg_pending (p : Nat) (s : State) : (discardLeg p s).pending = s.pending := by simp only [discardLeg]; split <;> simp
@[simp] theorem discardLeg_fuse (p : Nat) (s : State) : (discardLeg p s).fuse = s.fuse := by simp only [discardLeg]; split <;> simp
@[simp] theorem scrubBody_pending (t q : Nat) (p : Presented) (s : State) : (scrubBody t q p s).pending = s.pending :=
    by simp only [scrubBody]; (repeat' split) <;> simp
@[simp] theorem scrubBody_fuse (t q : Nat) (p : Presented) (s : State) : (scrubBody t q p s).fuse = s.fuse :=
    by simp only [scrubBody]; (repeat' split) <;> simp
@[simp] theorem moveGranules_pending (f u : Nat) (r : MemRange) (base : Nat) (s : State) : (moveGranules f u r base s).pending = s.pending :=
    rfl
@[simp] theorem moveGranules_fuse (f u : Nat) (r : MemRange) (base : Nat) (s : State) : (moveGranules f u r base s).fuse = s.fuse := rfl
@[simp] theorem modSide_pending (u : Option Ten) (f : Tenant → Tenant) (s : State) : (modSide u f s).pending = s.pending :=
    by simp only [modSide]; split <;> simp
@[simp] theorem modSide_fuse (u : Option Ten) (f : Tenant → Tenant) (s : State) : (modSide u f s).fuse = s.fuse :=
    by simp only [modSide]; split <;> simp
@[simp] theorem switchJob_pending (j : RebindJob) (s : State) : (switchJob j s).pending = s.pending :=
    by simp only [switchJob]; (repeat' split) <;> simp
@[simp] theorem switchJob_fuse (j : RebindJob) (s : State) : (switchJob j s).fuse = s.fuse :=
    by simp only [switchJob]; (repeat' split) <;> simp
@[simp] theorem endScrub_pending (j : RebindJob) (s : State) : (endScrub j s).pending = s.pending :=
    by simp [endScrub, apply_ite State.pending]
@[simp] theorem endScrub_fuse (j : RebindJob) (s : State) : (endScrub j s).fuse = s.fuse := by simp [endScrub, apply_ite State.fuse]

/-! ## Dispatching -/

@[simp] theorem cacheLookup_pending (t : Nat) (fresh : PlanEntry) (s : State) : (cacheLookup t fresh s).2.pending = s.pending := rfl
@[simp] theorem pinPlan_pending (t slot : Nat) (v : PlanEntry) (s : State) : (pinPlan t slot v s).2.pending = s.pending := by
  unfold pinPlan
  extract_lets bytes addr
  split
  · rfl
  · split
    · simp
    · next h => exact (State.modTenant_pending _ _ _).trans (modelWrite_pending h)
@[simp] theorem planPath_pending (t : Nat) (w1 : BitVec 64) (fresh : PlanEntry) (s : State) :
    (planPath t w1 fresh s).2.2.pending = s.pending := by
  unfold planPath
  dsimp only
  split
  · rfl
  · split <;> simp

@[simp] theorem cacheLookup_fuse (t : Nat) (fresh : PlanEntry) (s : State) : (cacheLookup t fresh s).2.fuse = s.fuse := rfl
@[simp] theorem pinPlan_fuse (t slot : Nat) (v : PlanEntry) (s : State) : (pinPlan t slot v s).2.fuse = s.fuse := by
  unfold pinPlan
  extract_lets bytes addr
  split
  · rfl
  · split
    · simp
    · next h => exact (State.modTenant_fuse _ _ _).trans (modelWrite_fuse h)
@[simp] theorem planPath_fuse (t : Nat) (w1 : BitVec 64) (fresh : PlanEntry) (s : State) :
    (planPath t w1 fresh s).2.2.fuse = s.fuse := by
  unfold planPath
  dsimp only
  split
  · rfl
  · split <;> simp


@[simp] theorem issueDispatch_pending (t q : Nat) (p : Presented) (e : Emission) (r : Dispatchable) :
    (issueDispatch t q p e r).pending = r.s.pending := rfl
theorem planDispatch_pending {e : Emission} {t q : Nat} {w0 w1 : BitVec 64} {s : State} {r : Dispatchable}
    (h : planDispatch e t q w0 w1 s = .ok r) : r.s.pending = s.pending := by
  simp only [planDispatch] at h
  (repeat' split at h) <;> first | cases h; done | (cases h; exact planPath_pending _ _ _ _)
@[simp] theorem dispatchBody_pending (e : Emission) (t q : Nat) (p : Presented) (s : State) : (dispatchBody e t q p s).pending = s.pending := by
  unfold dispatchBody
  split
  · simp
  · next r h => simp [planDispatch_pending h]
@[simp] theorem issueDispatch_fuse (t q : Nat) (p : Presented) (e : Emission) (r : Dispatchable) :
    (issueDispatch t q p e r).fuse = r.s.fuse := rfl
theorem planDispatch_fuse {e : Emission} {t q : Nat} {w0 w1 : BitVec 64} {s : State} {r : Dispatchable}
    (h : planDispatch e t q w0 w1 s = .ok r) : r.s.fuse = s.fuse := by
  simp only [planDispatch] at h
  (repeat' split at h) <;> first | cases h; done | (cases h; exact planPath_fuse _ _ _ _)
@[simp] theorem dispatchBody_fuse (e : Emission) (t q : Nat) (p : Presented) (s : State) : (dispatchBody e t q p s).fuse = s.fuse := by
  unfold dispatchBody
  split
  · simp
  · next r h => simp [planDispatch_fuse h]
@[simp] theorem clearDispatch_pending (id : Nat) (s : State) : (clearDispatch id s).pending = s.pending := rfl
@[simp] theorem clearDispatch_fuse (id : Nat) (s : State) : (clearDispatch id s).fuse = s.fuse := rfl
@[simp] theorem recordAmax_pending (d : Dispatch) (s : State) : (recordAmax d s).pending = s.pending := rfl
@[simp] theorem recordAmax_fuse (d : Dispatch) (s : State) : (recordAmax d s).fuse = s.fuse := rfl
@[simp] theorem discardNext_pending (t q : Nat) (s : State) : (discardNext t q s).pending = s.pending := by
  unfold discardNext
  exact foldl_keeps State.pending _ _ _ (fun _ _ => by simp)
@[simp] theorem discardNext_fuse (t q : Nat) (s : State) : (discardNext t q s).fuse = s.fuse := by
  unfold discardNext
  exact foldl_keeps State.fuse _ _ _ (fun _ _ => by simp)

/-! ## Memory -/

@[simp] theorem dropMove_pending (v : GMove) (s : State) : (dropMove v s).pending = s.pending := by simp [dropMove]
@[simp] theorem dropMove_fuse (v : GMove) (s : State) : (dropMove v s).fuse = s.fuse := by simp [dropMove]
@[simp] theorem trimMoves_pending (s : State) : (trimMoves s).pending = s.pending := by
  unfold trimMoves
  refine (foldl_keeps (fun x : State × Bool => x.1.pending) _ _ _ ?_).trans rfl
  intro x b
  (repeat' split) <;> simp
@[simp] theorem trimMoves_fuse (s : State) : (trimMoves s).fuse = s.fuse := by
  unfold trimMoves
  refine (foldl_keeps (fun x : State × Bool => x.1.fuse) _ _ _ ?_).trans rfl
  intro x b
  (repeat' split) <;> simp
@[simp] theorem beginMove_pending (v : GMove) (src : Loc) (s : State) : (beginMove v src s).pending = s.pending := by
  unfold beginMove
  extract_lets got s1
  have hg : ∀ r, got = some r → r.2.pending = s.pending := by
    intro r hr
    simp only [got] at hr
    split at hr
    · obtain ⟨_, -, rfl⟩ := Option.map_eq_some_iff.mp hr; rfl
    · split at hr
      · simp only [takeYardFor] at hr
        split at hr
        · cases hr
        · next hf => obtain ⟨_, -, rfl⟩ := Option.map_eq_some_iff.mp hr; have hk := fixMk_pending hf; exact hk
      · obtain ⟨_, -, rfl⟩ := Option.map_eq_some_iff.mp hr; rfl
  clear_value got
  split
  · split <;> simp [s1]
  · next p s1 => exact hg (p, s1) rfl
@[simp] theorem beginMove_fuse (v : GMove) (src : Loc) (s : State) : (beginMove v src s).fuse = s.fuse := by
  unfold beginMove
  extract_lets got s1
  have hg : ∀ r, got = some r → r.2.fuse = s.fuse := by
    intro r hr
    simp only [got] at hr
    split at hr
    · obtain ⟨_, -, rfl⟩ := Option.map_eq_some_iff.mp hr; rfl
    · split at hr
      · simp only [takeYardFor] at hr
        split at hr
        · cases hr
        · next hf => obtain ⟨_, -, rfl⟩ := Option.map_eq_some_iff.mp hr; have hk := fixMk_fuse hf; exact hk
      · obtain ⟨_, -, rfl⟩ := Option.map_eq_some_iff.mp hr; rfl
  clear_value got
  split
  · split <;> simp [s1]
  · next p s1 => exact hg (p, s1) rfl
@[simp] theorem queueWorn_pending (s : State) : (queueWorn s).pending = s.pending := rfl
@[simp] theorem queueWorn_fuse (s : State) : (queueWorn s).fuse = s.fuse := rfl
@[simp] theorem migrateBody_pending (t q : Nat) (p : Presented) (gs : List Nat) (toYard : Bool) (s : State) : (migrateBody t q p gs toYard s).pending = s.pending :=
    by simp [migrateBody, apply_ite State.pending]
@[simp] theorem migrateBody_fuse (t q : Nat) (p : Presented) (gs : List Nat) (toYard : Bool) (s : State) : (migrateBody t q p gs toYard s).fuse = s.fuse :=
    by simp [migrateBody, apply_ite State.fuse]
@[simp] theorem prefetchBody_pending (t q : Nat) (p : Presented) (s : State) : (prefetchBody t q p s).pending = s.pending :=
    by simp [prefetchBody, apply_ite State.pending]
@[simp] theorem prefetchBody_fuse (t q : Nat) (p : Presented) (s : State) : (prefetchBody t q p s).fuse = s.fuse :=
    by simp [prefetchBody, apply_ite State.fuse]
@[simp] theorem retireGranule_pending (t g p : Nat) (s : State) : (retireGranule t g p s).pending = s.pending :=
    by simp only [retireGranule]; (repeat' split) <;> simp
@[simp] theorem retireGranule_fuse (t g p : Nat) (s : State) : (retireGranule t g p s).fuse = s.fuse :=
    by simp only [retireGranule]; (repeat' split) <;> simp
@[simp] theorem noteGranCe_pending (t g p : Nat) (s : State) : (noteGranCe t g p s).pending = s.pending :=
    by simp [noteGranCe, apply_ite State.pending]
@[simp] theorem noteGranCe_fuse (t g p : Nat) (s : State) : (noteGranCe t g p s).fuse = s.fuse := by simp [noteGranCe, apply_ite State.fuse]
@[simp] theorem patrolVisit_pending (unit row : Nat) (ce : Bool) (ue : List Nat) (s0 : State) : (patrolVisit unit row ce ue s0).pending = s0.pending :=
    by simp [patrolVisit, apply_ite State.pending]
@[simp] theorem patrolVisit_fuse (unit row : Nat) (ce : Bool) (ue : List Nat) (s0 : State) : (patrolVisit unit row ce ue s0).fuse = s0.fuse :=
    by simp [patrolVisit, apply_ite State.fuse]
@[simp] theorem conPut_pending (t off : Nat) (l : List MByte) (s : State) : (conPut t off l s).pending = s.pending := by simp [conPut]
@[simp] theorem conPut_fuse (t off : Nat) (l : List MByte) (s : State) : (conPut t off l s).fuse = s.fuse := by simp [conPut]
@[simp] theorem abandonMove_pending (v : GMove) (s : State) : (abandonMove v s).pending = s.pending := by
  simp only [abandonMove]; (repeat' split) <;> simp
@[simp] theorem abandonMove_fuse (v : GMove) (s : State) : (abandonMove v s).fuse = s.fuse := by
  simp only [abandonMove]; (repeat' split) <;> simp

/-! ## DepotOps -/

@[simp] theorem State.writeHeader_pending (s : State) (k : Nat) (f : Sector → Sector) : (State.writeHeader s k f).pending = s.pending := rfl
@[simp] theorem State.writeHeader_fuse (s : State) (k : Nat) (f : Sector → Sector) : (State.writeHeader s k f).fuse = s.fuse := rfl
@[simp] theorem noteRetries_pending (sec unit retries : Nat) (s : State) : (noteRetries sec unit retries s).pending = s.pending :=
    by simp [noteRetries, apply_ite State.pending]
@[simp] theorem noteRetries_fuse (sec unit retries : Nat) (s : State) : (noteRetries sec unit retries s).fuse = s.fuse :=
    by simp [noteRetries, apply_ite State.fuse]
@[simp] theorem noteReadings_pending (l : List (Nat × Nat)) (s : State) : (noteReadings l s).pending = s.pending := by simp [noteReadings]
@[simp] theorem noteReadings_fuse (l : List (Nat × Nat)) (s : State) : (noteReadings l s).fuse = s.fuse := by simp [noteReadings]
@[simp] theorem beginErase_pending (sec : Nat) (s : State) : (beginErase sec s).pending = s.pending :=
    by simp [beginErase, apply_ite State.pending]
@[simp] theorem beginErase_fuse (sec : Nat) (s : State) : (beginErase sec s).fuse = s.fuse := by simp [beginErase, apply_ite State.fuse]
@[simp] theorem dieNext_pending (d : Nat) (s : State) : (dieNext d s).pending = s.pending := by simp only [dieNext]; split <;> simp
@[simp] theorem dieNext_fuse (d : Nat) (s : State) : (dieNext d s).fuse = s.fuse := by simp only [dieNext]; split <;> simp
@[simp] theorem autoSuspend_pending (d : Nat) (e : EraseOp) (s : State) : (autoSuspend d e s).pending = s.pending :=
    by simp [autoSuspend, apply_ite State.pending]
@[simp] theorem autoSuspend_fuse (d : Nat) (e : EraseOp) (s : State) : (autoSuspend d e s).fuse = s.fuse :=
    by simp [autoSuspend, apply_ite State.fuse]
@[simp] theorem queueRead_pending (d : Nat) (r : DieRead) (s : State) : (queueRead d r s).pending = s.pending :=
    by simp only [queueRead]; (repeat' split) <;> simp
@[simp] theorem queueRead_fuse (d : Nat) (r : DieRead) (s : State) : (queueRead d r s).fuse = s.fuse :=
    by simp only [queueRead]; (repeat' split) <;> simp
@[simp] theorem queueReads_pending (addr n : Nat) (cls : Fin 5) (who : Reader) (s : State) :
    (queueReads addr n cls who s).pending = s.pending := by
  simp only [queueReads]; exact foldl_keeps State.pending _ _ _ (fun _ _ => by simp)
@[simp] theorem queueReads_fuse (addr n : Nat) (cls : Fin 5) (who : Reader) (s : State) :
    (queueReads addr n cls who s).fuse = s.fuse := by
  simp only [queueReads]; exact foldl_keeps State.fuse _ _ _ (fun _ _ => by simp)
@[simp] theorem dropReads_pending (w : Reader) (s : State) : (dropReads w s).pending = s.pending := rfl
@[simp] theorem dropReads_fuse (w : Reader) (s : State) : (dropReads w s).fuse = s.fuse := rfl
@[simp] theorem wscEnds_pending (p : WscPort) (s : State) : (wscEnds p s).pending = s.pending := by simp only [wscEnds]; split <;> simp
@[simp] theorem wscEnds_fuse (p : WscPort) (s : State) : (wscEnds p s).fuse = s.fuse := by simp only [wscEnds]; split <;> simp
@[simp] theorem settlePort_pending (p : WscPort) (s : State) : (settlePort p s).pending = s.pending :=
    by simp [settlePort, apply_ite State.pending]
@[simp] theorem settlePort_fuse (p : WscPort) (s : State) : (settlePort p s).fuse = s.fuse := by simp [settlePort, apply_ite State.fuse]
@[simp] theorem settlePorts_pending (s : State) : (settlePorts s).pending = s.pending := by simp [settlePorts]
@[simp] theorem settlePorts_fuse (s : State) : (settlePorts s).fuse = s.fuse := by simp [settlePorts]
@[simp] theorem wscFail_pending (p : WscPort) (bit : Nat) (code : BitVec 16) (unit addr : Nat) (s : State) : (wscFail p bit code unit addr s).pending = s.pending :=
    by simp [wscFail]
@[simp] theorem wscFail_fuse (p : WscPort) (bit : Nat) (code : BitVec 16) (unit addr : Nat) (s : State) : (wscFail p bit code unit addr s).fuse = s.fuse :=
    by simp [wscFail]

/-! ## Depot -/

@[simp] theorem dropLines_pending (secs : List Nat) (s : State) : (dropLines secs s).pending = s.pending := rfl
@[simp] theorem dropLines_fuse (secs : List Nat) (s : State) : (dropLines secs s).fuse = s.fuse := rfl
@[simp] theorem startProgram_pending (p : WscPort) (small : Bool) (s : State) : (startProgram p small s).pending = s.pending := by
  unfold startProgram
  extract_lets v addr n t secs badLen badStage starts data us s1 s2
  have h2 : s2.pending = s.pending := by
    simp only [s2]; rw [foldl_keeps State.pending _ _ _ (fun _ _ => by simp)]; simp [s1]
  clear_value s2
  (repeat' split) <;> first | exact h2 | (simp; done) | (simp only [settlePort_pending]; rw [foldl_keeps State.pending _ _ _ (fun _ _ => by simp), h2])
@[simp] theorem startProgram_fuse (p : WscPort) (small : Bool) (s : State) : (startProgram p small s).fuse = s.fuse := by
  unfold startProgram
  extract_lets v addr n t secs badLen badStage starts data us s1 s2
  have h2 : s2.fuse = s.fuse := by
    simp only [s2]; rw [foldl_keeps State.fuse _ _ _ (fun _ _ => by simp)]; simp [s1]
  clear_value s2
  (repeat' split) <;> first | exact h2 | (simp; done) | (simp only [settlePort_fuse]; rw [foldl_keeps State.fuse _ _ _ (fun _ _ => by simp), h2])
@[simp] theorem startErase_pending (p : WscPort) (s : State) : (startErase p s).pending = s.pending := by
  unfold startErase
  extract_lets v addr n secs s1 s2
  have h2 : s2.pending = s.pending := by
    simp only [s2]; rw [foldl_keeps State.pending _ _ _ (fun _ _ => by simp)]; simp [s1]
  clear_value s2
  (repeat' split) <;> first | exact h2 | (simp; done) | (simp only [settlePort_pending]; rw [foldl_keeps State.pending _ _ _ (fun _ _ => by simp), h2])
@[simp] theorem startErase_fuse (p : WscPort) (s : State) : (startErase p s).fuse = s.fuse := by
  unfold startErase
  extract_lets v addr n secs s1 s2
  have h2 : s2.fuse = s.fuse := by
    simp only [s2]; rw [foldl_keeps State.fuse _ _ _ (fun _ _ => by simp)]; simp [s1]
  clear_value s2
  (repeat' split) <;> first | exact h2 | (simp; done) | (simp only [settlePort_fuse]; rw [foldl_keeps State.fuse _ _ _ (fun _ _ => by simp), h2])
@[simp] theorem startWpset_pending (p : WscPort) (s : State) : (startWpset p s).pending = s.pending := by
  unfold startWpset
  extract_lets v first n named
  split
  · simp
  · rw [foldl_keeps State.pending _ _ _ (fun _ _ => by simp)]; simp
@[simp] theorem startWpset_fuse (p : WscPort) (s : State) : (startWpset p s).fuse = s.fuse := by
  unfold startWpset
  extract_lets v first n named
  split
  · simp
  · rw [foldl_keeps State.fuse _ _ _ (fun _ _ => by simp)]; simp
@[simp] theorem modErases_pending (p : WscPort) (f : EraseOp → EraseOp) (s : State) : (modErases p f s).pending = s.pending := rfl
@[simp] theorem modErases_fuse (p : WscPort) (f : EraseOp → EraseOp) (s : State) : (modErases p f s).fuse = s.fuse := rfl
@[simp] theorem startSuspend_pending (p : WscPort) (s : State) : (startSuspend p s).pending = s.pending :=
    by simp [startSuspend, apply_ite State.pending]
@[simp] theorem startSuspend_fuse (p : WscPort) (s : State) : (startSuspend p s).fuse = s.fuse :=
    by simp [startSuspend, apply_ite State.fuse]
@[simp] theorem startResume_pending (p : WscPort) (s : State) : (startResume p s).pending = s.pending :=
    by simp [startResume, apply_ite State.pending]
@[simp] theorem startResume_fuse (p : WscPort) (s : State) : (startResume p s).fuse = s.fuse := by simp [startResume, apply_ite State.fuse]
@[simp] theorem showWord_pending (p : WscPort) (op : BitVec 8) (w : Reg32) (s : State) : (showWord p op w s).pending = s.pending :=
    by simp [showWord]
@[simp] theorem showWord_fuse (p : WscPort) (op : BitVec 8) (w : Reg32) (s : State) : (showWord p op w s).fuse = s.fuse :=
    by simp [showWord]
@[simp] theorem loadUnit_pending (p : WscPort) (addr : Nat) (s : State) : (loadUnit p addr s).pending = s.pending :=
    by simp [loadUnit, apply_ite State.pending]
@[simp] theorem loadUnit_fuse (p : WscPort) (addr : Nat) (s : State) : (loadUnit p addr s).fuse = s.fuse :=
    by simp [loadUnit, apply_ite State.fuse]
@[simp] theorem bulkNext_pending (p : WscPort) (s : State) : (bulkNext p s).pending = s.pending :=
    by simp [bulkNext, apply_ite State.pending]
@[simp] theorem bulkNext_fuse (p : WscPort) (s : State) : (bulkNext p s).fuse = s.fuse := by simp [bulkNext, apply_ite State.fuse]
@[simp] theorem startBulkRead_pending (p : WscPort) (s : State) : (startBulkRead p s).pending = s.pending :=
    by simp [startBulkRead, apply_ite State.pending]
@[simp] theorem startBulkRead_fuse (p : WscPort) (s : State) : (startBulkRead p s).fuse = s.fuse :=
    by simp [startBulkRead, apply_ite State.fuse]
@[simp] theorem wscWrite_pending (p : WscPort) (r : Option WscReg) (x : Reg32) (s : State) : (wscWrite p r x s).pending = s.pending :=
    by simp only [wscWrite]; (repeat' split) <;> simp
@[simp] theorem wscWrite_fuse (p : WscPort) (r : Option WscReg) (x : Reg32) (s : State) : (wscWrite p r x s).fuse = s.fuse :=
    by simp only [wscWrite]; (repeat' split) <;> simp
@[simp] theorem portRow_pending (p : WscPort) (r : Option WscReg) (x : Reg32) (mine : WscAct → Bool) (s : State) : (portRow p r x mine s).pending = s.pending :=
    by simp [portRow, apply_ite State.pending]
@[simp] theorem portRow_fuse (p : WscPort) (r : Option WscReg) (x : Reg32) (mine : WscAct → Bool) (s : State) : (portRow p r x mine s).fuse = s.fuse :=
    by simp [portRow, apply_ite State.fuse]
@[simp] theorem noteUnit_pending (p : WscPort) (sec unit : Nat) (c : Option (BitVec 16)) (s : State) : (noteUnit p sec unit c s).pending = s.pending :=
    by simp only [noteUnit]; split <;> simp
@[simp] theorem noteUnit_fuse (p : WscPort) (sec unit : Nat) (c : Option (BitVec 16)) (s : State) : (noteUnit p sec unit c s).fuse = s.fuse :=
    by simp only [noteUnit]; split <;> simp
@[simp] theorem putUnits_pending (u : ProgUnit) (s : State) : (putUnits u s).pending = s.pending := rfl
@[simp] theorem putUnits_fuse (u : ProgUnit) (s : State) : (putUnits u s).fuse = s.fuse := rfl
@[simp] theorem touchUnit_pending (u : ProgUnit) (s : State) : (touchUnit u s).pending = s.pending := rfl
@[simp] theorem touchUnit_fuse (u : ProgUnit) (s : State) : (touchUnit u s).fuse = s.fuse := rfl
@[simp] theorem mgtEnd_pending (result : BitVec 4) (out : List Reg32) (s : State) : (mgtEnd result out s).pending = s.pending := rfl
@[simp] theorem mgtEnd_fuse (result : BitVec 4) (out : List Reg32) (s : State) : (mgtEnd result out s).fuse = s.fuse := rfl
@[simp] theorem fwWrites_pending (l : List (Option WscReg × Reg32)) (s : State) : (fwWrites l s).pending = s.pending := by
  unfold fwWrites; exact foldl_keeps State.pending _ _ _ (fun _ _ => by simp)
@[simp] theorem fwWrites_fuse (l : List (Option WscReg × Reg32)) (s : State) : (fwWrites l s).fuse = s.fuse := by
  unfold fwWrites; exact foldl_keeps State.fuse _ _ _ (fun _ _ => by simp)
@[simp] theorem FwJob.protect_pending (j : FwJob) (v : Bool) (s : State) : (FwJob.protect j v s).pending = s.pending :=
    by simp [FwJob.protect]
@[simp] theorem FwJob.protect_fuse (j : FwJob) (v : Bool) (s : State) : (FwJob.protect j v s).fuse = s.fuse :=
    by simp [FwJob.protect]
@[simp] theorem State.setJob_pending (s : State) (j : FwJob) : (State.setJob s j).pending = s.pending := rfl
@[simp] theorem State.setJob_fuse (s : State) (j : FwJob) : (State.setJob s j).fuse = s.fuse := rfl
@[simp] theorem fwStart_pending (s : State) : (fwStart s).pending = s.pending := by
  simp only [fwStart]; (repeat' split) <;> simp
@[simp] theorem fwStart_fuse (s : State) : (fwStart s).fuse = s.fuse := by
  simp only [fwStart]; (repeat' split) <;> simp
@[simp] theorem fwEnd_pending (j : FwJob) (ok : Bool) (s : State) : (fwEnd j ok s).pending = s.pending := by
  simp only [fwEnd]; (repeat' split) <;> simp
@[simp] theorem fwEnd_fuse (j : FwJob) (ok : Bool) (s : State) : (fwEnd j ok s).fuse = s.fuse := by
  simp only [fwEnd]; (repeat' split) <;> simp
@[simp] theorem fwDone_pending (j : FwJob) (s : State) : (fwDone j s).pending = s.pending := by
  simp only [fwDone]; (repeat' split) <;> simp
@[simp] theorem fwDone_fuse (j : FwJob) (s : State) : (fwDone j s).fuse = s.fuse := by
  simp only [fwDone]; (repeat' split) <;> simp
@[simp] theorem fwSettle_pending (s : State) : (fwSettle s).pending = s.pending := by
  simp only [fwSettle]; (repeat' split) <;> simp
@[simp] theorem fwSettle_fuse (s : State) : (fwSettle s).fuse = s.fuse := by
  simp only [fwSettle]; (repeat' split) <;> simp
@[simp] theorem fwGo_pending (s : State) : (fwGo s).pending = s.pending := by simp [fwGo]
@[simp] theorem fwGo_fuse (s : State) : (fwGo s).fuse = s.fuse := by simp [fwGo]

/-! ## Weights -/

@[simp] theorem endLoad_pending (t c : Nat) (st : CopyState) (code : BitVec 16) (addr : Nat) (s : State) :
    (endLoad t c st code addr s).pending = s.pending := by
  unfold endLoad
  extract_lets v s0 k0 s1 s2
  have h2 : s2.pending = s.pending := by
    simp only [s2, s1, s0, State.modCopy_pending]; simp [dropReads]
  clear_value s2
  split
  · split <;> simp [h2]
  · simp [h2]
@[simp] theorem endLoad_fuse (t c : Nat) (st : CopyState) (code : BitVec 16) (addr : Nat) (s : State) :
    (endLoad t c st code addr s).fuse = s.fuse := by
  unfold endLoad
  extract_lets v s0 k0 s1 s2
  have h2 : s2.fuse = s.fuse := by
    simp only [s2, s1, s0, State.modCopy_fuse]; simp [dropReads]
  clear_value s2
  split
  · split <;> simp [h2]
  · simp [h2]
@[simp] theorem beginLoad_pending (j : LoadJob) (s : State) : (beginLoad j s).pending = s.pending :=
    by simp [beginLoad, apply_ite State.pending]
@[simp] theorem beginLoad_fuse (j : LoadJob) (s : State) : (beginLoad j s).fuse = s.fuse := by simp [beginLoad, apply_ite State.fuse]
@[simp] theorem startLoads_pending (s : State) : (startLoads s).pending = s.pending := by
  unfold startLoads
  refine foldl_keeps State.pending _ _ _ (fun _ _ => ?_)
  (repeat' split) <;> simp
@[simp] theorem startLoads_fuse (s : State) : (startLoads s).fuse = s.fuse := by
  unfold startLoads
  refine foldl_keeps State.fuse _ _ _ (fun _ _ => ?_)
  (repeat' split) <;> simp
@[simp] theorem queueShards_pending (j : LoadJob) (shards : List Shard) (is : List Nat) (s : State) : (queueShards j shards is s).pending = s.pending := by
  unfold queueShards
  rw [settlePorts_pending]
  refine foldl_keeps State.pending _ _ _ (fun _ _ => ?_)
  split <;> simp
@[simp] theorem queueShards_fuse (j : LoadJob) (shards : List Shard) (is : List Nat) (s : State) : (queueShards j shards is s).fuse = s.fuse := by
  unfold queueShards
  rw [settlePorts_fuse]
  refine foldl_keeps State.fuse _ _ _ (fun _ _ => ?_)
  split <;> simp
@[simp] theorem takeManifest_pending (j : LoadJob) (m : List UnitErr) (s0 : State) : (takeManifest j m s0).pending = s0.pending := by
  unfold takeManifest
  extract_lets t c got s fail
  have hs : s.pending = s0.pending := by simp [s]
  have hf : ∀ code a, (fail code a).pending = s0.pending := by intro code a; simp [fail, hs]
  clear_value fail s
  split
  · exact hf _ _
  · (repeat' split) <;> first | (rw [queueShards_pending]; exact hs) | exact hf _ _
@[simp] theorem takeManifest_fuse (j : LoadJob) (m : List UnitErr) (s0 : State) : (takeManifest j m s0).fuse = s0.fuse := by
  unfold takeManifest
  extract_lets t c got s fail
  have hs : s.fuse = s0.fuse := by simp [s]
  have hf : ∀ code a, (fail code a).fuse = s0.fuse := by intro code a; simp [fail, hs]
  clear_value fail s
  split
  · exact hf _ _
  · (repeat' split) <;> first | (rw [queueShards_fuse]; exact hs) | exact hf _ _
@[simp] theorem loaderHeld_pending (t q : Nat) (p : Presented) (s : State) : (loaderHeld t q p s).pending = s.pending :=
    by simp [loaderHeld]
@[simp] theorem loaderHeld_fuse (t q : Nat) (p : Presented) (s : State) : (loaderHeld t q p s).fuse = s.fuse := by simp [loaderHeld]
@[simp] theorem loadwBody_pending (t q : Nat) (p : Presented) (s : State) : (loadwBody t q p s).pending = s.pending :=
    by simp [loadwBody, apply_ite State.pending]
@[simp] theorem loadwBody_fuse (t q : Nat) (p : Presented) (s : State) : (loadwBody t q p s).fuse = s.fuse :=
    by simp [loadwBody, apply_ite State.fuse]
@[simp] theorem loseReads_pending (t : Nat) (c : Fin 4) (base n : Nat) (s : State) : (loseReads t c base n s).pending = s.pending := rfl
@[simp] theorem loseReads_fuse (t : Nat) (c : Fin 4) (base n : Nat) (s : State) : (loseReads t c base n s).fuse = s.fuse := rfl
@[simp] theorem poisonShard_pending (t : Nat) (c : Fin 4) (i : Nat) (h : Shard) (s : State) : (poisonShard t c i h s).pending = s.pending :=
    by simp [poisonShard]
@[simp] theorem poisonShard_fuse (t : Nat) (c : Fin 4) (i : Nat) (h : Shard) (s : State) : (poisonShard t c i h s).fuse = s.fuse :=
    by simp [poisonShard]
@[simp] theorem checkShard_pending (t : Nat) (c : Fin 4) (i : Nat) (log : Bool) (acc : State × Option Nat) :
    (checkShard t c i log acc).1.pending = acc.1.pending := by
  have hm : ∀ v h (s : State), (shardMatches t v h s).2.pending = s.pending := by intro v h s; simp [shardMatches]
  unfold checkShard
  extract_lets v
  split
  · rfl
  · split
    · rfl
    · extract_lets r s1
      split
      · exact hm _ _ _
      · split <;> simp [s1, r, hm]

@[simp] theorem checkShard_fuse (t : Nat) (c : Fin 4) (i : Nat) (log : Bool) (acc : State × Option Nat) :
    (checkShard t c i log acc).1.fuse = acc.1.fuse := by
  have hm : ∀ v h (s : State), (shardMatches t v h s).2.fuse = s.fuse := by intro v h s; simp [shardMatches]
  unfold checkShard
  extract_lets v
  split
  · rfl
  · split
    · rfl
    · extract_lets r s1
      split
      · exact hm _ _ _
      · split <;> simp [s1, r, hm]

@[simp] theorem digestwBody_pending (t q : Nat) (p : Presented) (s : State) : (digestwBody t q p s).pending = s.pending := by
  unfold digestwBody
  extract_lets c v n which r
  have hr : r.1.pending = s.pending := by
    simp only [r]
    exact (foldl_keeps (fun x : State × Option Nat => x.1.pending) _ _ _ (fun _ _ => by simp)).trans rfl
  clear_value r
  (repeat' split) <;> simp [hr]
@[simp] theorem digestwBody_fuse (t q : Nat) (p : Presented) (s : State) : (digestwBody t q p s).fuse = s.fuse := by
  unfold digestwBody
  extract_lets c v n which r
  have hr : r.1.fuse = s.fuse := by
    simp only [r]
    exact (foldl_keeps (fun x : State × Option Nat => x.1.fuse) _ _ _ (fun _ _ => by simp)).trans rfl
  clear_value r
  (repeat' split) <;> simp [hr]
@[simp] theorem reloadFails_pending (t c i : Nat) (h : Shard) (code : BitVec 16) (addr : Nat) (s : State) : (reloadFails t c i h code addr s).pending = s.pending :=
    by simp [reloadFails]
@[simp] theorem reloadFails_fuse (t c i : Nat) (h : Shard) (code : BitVec 16) (addr : Nat) (s : State) : (reloadFails t c i h code addr s).fuse = s.fuse :=
    by simp [reloadFails]
@[simp] theorem reportUnit_pending (t : Nat) (e : BitVec 16 × Nat) (s : State) : (reportUnit t e s).pending = s.pending :=
    by simp [reportUnit, apply_ite State.pending]
@[simp] theorem reportUnit_fuse (t : Nat) (e : BitVec 16 × Nat) (s : State) : (reportUnit t e s).fuse = s.fuse :=
    by simp [reportUnit, apply_ite State.fuse]
@[simp] theorem armwBody_pending (kernels : List KernelEntry) (initExps : List (BitVec 8)) (t q : Nat) (p : Presented) (s : State) : (armwBody kernels initExps t q p s).pending = s.pending :=
    by simp [armwBody, apply_ite State.pending]
@[simp] theorem armwBody_fuse (kernels : List KernelEntry) (initExps : List (BitVec 8)) (t q : Nat) (p : Presented) (s : State) : (armwBody kernels initExps t q p s).fuse = s.fuse :=
    by simp [armwBody, apply_ite State.fuse]
@[simp] theorem pointsBody_pending (t q : Nat) (p : Presented) (s : State) : (pointsBody t q p s).pending = s.pending :=
    by simp [pointsBody, apply_ite State.pending]
@[simp] theorem pointsBody_fuse (t q : Nat) (p : Presented) (s : State) : (pointsBody t q p s).fuse = s.fuse :=
    by simp [pointsBody, apply_ite State.fuse]
@[simp] theorem releasewBody_pending (t q : Nat) (p : Presented) (s : State) : (releasewBody t q p s).pending = s.pending :=
    by simp [releasewBody, apply_ite State.pending]
@[simp] theorem releasewBody_fuse (t q : Nat) (p : Presented) (s : State) : (releasewBody t q p s).fuse = s.fuse :=
    by simp [releasewBody, apply_ite State.fuse]

end Sys2Proof.Machine
end

