-- ==== Sys2Proof/Laws/KeepD.lean ====
section
/-! SUPPORT. What the operations of the control complex, the express path, the ports and the registers leave alone: the queue of commands and the fuses. -/

namespace Sys2Proof.Machine

/-! ## DeviceSectors -/

@[simp] theorem storeJob_pending (j : FwJob) (s : State) : (storeJob j s).pending = s.pending := by simp [storeJob]
@[simp] theorem storeJob_fuse (j : FwJob) (s : State) : (storeJob j s).fuse = s.fuse := by simp [storeJob]
@[simp] theorem storeImage_pending (img : Bytes) (s : State) : (storeImage img s).pending = s.pending := by simp [storeImage]
@[simp] theorem storeImage_fuse (img : Bytes) (s : State) : (storeImage img s).fuse = s.fuse := by simp [storeImage]
@[simp] theorem storeConfig_pending (mbox : Bool) (s : State) : (storeConfig mbox s).pending = s.pending := by simp [storeConfig]
@[simp] theorem storeConfig_fuse (mbox : Bool) (s : State) : (storeConfig mbox s).fuse = s.fuse := by simp [storeConfig]
@[simp] theorem takeRoots_pending (s : State) : (takeRoots s).pending = s.pending := by simp only [takeRoots]; split <;> simp
@[simp] theorem takeRoots_fuse (s : State) : (takeRoots s).fuse = s.fuse := by simp only [takeRoots]; split <;> simp
@[simp] theorem reapplyRows_pending (s : State) : (reapplyRows s).pending = s.pending := by
  unfold reapplyRows
  split
  · rfl
  · rw [foldl_keeps State.pending _ _ _ (fun _ _ => by simp)]
@[simp] theorem reapplyRows_fuse (s : State) : (reapplyRows s).fuse = s.fuse := by
  unfold reapplyRows
  split
  · rfl
  · rw [foldl_keeps State.fuse _ _ _ (fun _ _ => by simp)]

/-! ## Control -/

@[simp] theorem quiesceTenant_pending (t : Nat) (s : State) : (quiesceTenant t s).pending = s.pending :=
    foldl_keeps State.pending _ _ _ (fun _ _ => by simp)
@[simp] theorem quiesceTenant_fuse (t : Nat) (s : State) : (quiesceTenant t s).fuse = s.fuse :=
    foldl_keeps State.fuse _ _ _ (fun _ _ => by simp)
@[simp] theorem pausePlanner_pending (core : Nat) (s : State) : (pausePlanner core s).pending = s.pending :=
    by simp [pausePlanner, apply_ite State.pending]
@[simp] theorem pausePlanner_fuse (core : Nat) (s : State) : (pausePlanner core s).fuse = s.fuse :=
    by simp [pausePlanner, apply_ite State.fuse]
@[simp] theorem dropCache_pending (core : Nat) (s : State) : (dropCache core s).pending = s.pending := rfl
@[simp] theorem dropCache_fuse (core : Nat) (s : State) : (dropCache core s).fuse = s.fuse := rfl
@[simp] theorem endSessions_pending (s : State) : (endSessions s).pending = s.pending := rfl
@[simp] theorem endSessions_fuse (s : State) : (endSessions s).fuse = s.fuse := rfl
@[simp] theorem abortMgt_pending (s : State) : (abortMgt s).pending = s.pending := rfl
@[simp] theorem abortMgt_fuse (s : State) : (abortMgt s).fuse = s.fuse := rfl
@[simp] theorem failArming_pending (s : State) : (failArming s).pending = s.pending := by simp [failArming, apply_ite State.pending]
@[simp] theorem failArming_fuse (s : State) : (failArming s).fuse = s.fuse := by simp [failArming, apply_ite State.fuse]
@[simp] theorem rereadShards_pending (s : State) : (rereadShards s).pending = s.pending := by
  unfold rereadShards
  extract_lets s1
  have h1 : s1.pending = s.pending := by
    refine foldl_keeps State.pending _ _ _ (fun _ _ => ?_)
    dsimp only
    split
    · rfl
    · rw [queueShards_pending]; exact foldl_keeps State.pending _ _ _ (fun _ _ => by simp)
  rw [← h1]
  clear_value s1
  refine foldl_keeps State.pending _ _ _ (fun _ _ => ?_)
  refine foldl_keeps State.pending _ _ _ (fun _ _ => ?_)
  refine foldl_keeps State.pending _ _ _ (fun _ _ => ?_)
  split <;> simp
@[simp] theorem rereadShards_fuse (s : State) : (rereadShards s).fuse = s.fuse := by
  unfold rereadShards
  extract_lets s1
  have h1 : s1.fuse = s.fuse := by
    refine foldl_keeps State.fuse _ _ _ (fun _ _ => ?_)
    dsimp only
    split
    · rfl
    · rw [queueShards_fuse]; exact foldl_keeps State.fuse _ _ _ (fun _ _ => by simp)
  rw [← h1]
  clear_value s1
  refine foldl_keeps State.fuse _ _ _ (fun _ _ => ?_)
  refine foldl_keeps State.fuse _ _ _ (fun _ _ => ?_)
  refine foldl_keeps State.fuse _ _ _ (fun _ _ => ?_)
  split <;> simp
@[simp] theorem onRestart_pending (c : Comp) (s : State) : (onRestart c s).pending = s.pending := by simp only [onRestart]; split <;> simp
@[simp] theorem onRestart_fuse (c : Comp) (s : State) : (onRestart c s).fuse = s.fuse := by simp only [onRestart]; split <;> simp
@[simp] theorem leavePlanner_pending (core : Nat) (s : State) : (leavePlanner core s).pending = s.pending :=
    by simp [leavePlanner, apply_ite State.pending]
@[simp] theorem leavePlanner_fuse (core : Nat) (s : State) : (leavePlanner core s).fuse = s.fuse :=
    by simp [leavePlanner, apply_ite State.fuse]
@[simp] theorem leaveShunt_pending (s : State) : (leaveShunt s).pending = s.pending := by
  unfold leaveShunt
  extract_lets s1
  have h1 : s1.pending = s.pending := by
    simp only [s1]
    refine foldl_keeps State.pending _ _ _ (fun _ _ => ?_)
    (repeat' split) <;> simp
  rw [← h1]
  clear_value s1
  exact foldl_keeps State.pending _ _ _ (fun _ _ => by simp)
@[simp] theorem leaveShunt_fuse (s : State) : (leaveShunt s).fuse = s.fuse := by
  unfold leaveShunt
  extract_lets s1
  have h1 : s1.fuse = s.fuse := by
    simp only [s1]
    refine foldl_keeps State.fuse _ _ _ (fun _ _ => ?_)
    (repeat' split) <;> simp
  rw [← h1]
  clear_value s1
  exact foldl_keeps State.fuse _ _ _ (fun _ _ => by simp)
@[simp] theorem leaveLoader_pending (s : State) : (leaveLoader s).pending = s.pending := by
  unfold leaveLoader
  extract_lets s1
  have h1 : s1.pending = s.pending := by simp only [s1]; exact foldl_keeps State.pending _ _ _ (fun _ _ => by simp)
  rw [← h1]
  clear_value s1
  refine foldl_keeps State.pending _ _ _ (fun _ _ => ?_)
  refine foldl_keeps State.pending _ _ _ (fun _ _ => ?_)
  refine foldl_keeps State.pending _ _ _ (fun _ _ => ?_)
  split <;> simp
@[simp] theorem leaveLoader_fuse (s : State) : (leaveLoader s).fuse = s.fuse := by
  unfold leaveLoader
  extract_lets s1
  have h1 : s1.fuse = s.fuse := by simp only [s1]; exact foldl_keeps State.fuse _ _ _ (fun _ _ => by simp)
  rw [← h1]
  clear_value s1
  refine foldl_keeps State.fuse _ _ _ (fun _ _ => ?_)
  refine foldl_keeps State.fuse _ _ _ (fun _ _ => ?_)
  refine foldl_keeps State.fuse _ _ _ (fun _ _ => ?_)
  split <;> simp
@[simp] theorem leaveBootmon_pending (s : State) : (leaveBootmon s).pending = s.pending :=
    by simp [leaveBootmon, apply_ite State.pending]
@[simp] theorem leaveBootmon_fuse (s : State) : (leaveBootmon s).fuse = s.fuse := by simp [leaveBootmon, apply_ite State.fuse]
@[simp] theorem onHeld_pending (c : Comp) (s : State) : (onHeld c s).pending = s.pending := by simp only [onHeld]; split <;> simp
@[simp] theorem onHeld_fuse (c : Comp) (s : State) : (onHeld c s).fuse = s.fuse := by simp only [onHeld]; split <;> simp
@[simp] theorem restartComp_pending (c : Comp) (why : RestartCause) (s : State) : (restartComp c why s).pending = s.pending :=
    by simp [restartComp, apply_ite State.pending]
@[simp] theorem restartComp_fuse (c : Comp) (why : RestartCause) (s : State) : (restartComp c why s).fuse = s.fuse :=
    by simp [restartComp, apply_ite State.fuse]
@[simp] theorem writeDrvver_pending (v : Reg32) (s : State) : (writeDrvver v s).pending = s.pending :=
    by simp [writeDrvver, apply_ite State.pending]
@[simp] theorem writeDrvver_fuse (v : Reg32) (s : State) : (writeDrvver v s).fuse = s.fuse := by simp [writeDrvver, apply_ite State.fuse]
@[simp] theorem pauseForHost_pending (t : Nat) (s : State) : (pauseForHost t s).pending = s.pending :=
    by simp [pauseForHost, apply_ite State.pending]
@[simp] theorem pauseForHost_fuse (t : Nat) (s : State) : (pauseForHost t s).fuse = s.fuse := by simp [pauseForHost, apply_ite State.fuse]
@[simp] theorem hostLost_pending (s : State) : (hostLost s).pending = s.pending := by simp [hostLost, apply_ite State.pending]
@[simp] theorem hostLost_fuse (s : State) : (hostLost s).fuse = s.fuse := by simp [hostLost, apply_ite State.fuse]
@[simp] theorem attach_pending (s : State) : (attach s).pending = s.pending := by simp [attach, apply_ite State.pending]
@[simp] theorem attach_fuse (s : State) : (attach s).fuse = s.fuse := by simp [attach, apply_ite State.fuse]
@[simp] theorem writeHeartbeat_pending (v : Reg32) (s : State) : (writeHeartbeat v s).pending = s.pending :=
    by simp [writeHeartbeat, apply_ite State.pending]
@[simp] theorem writeHeartbeat_fuse (v : Reg32) (s : State) : (writeHeartbeat v s).fuse = s.fuse :=
    by simp [writeHeartbeat, apply_ite State.fuse]

/-! ## Attest -/

@[simp] theorem answer_pending (name : String) (ok : Bool) (payload : Bytes) (f : State → State) (s : State) (h : ∀ s, (f s).pending = s.pending) : (answer name ok payload f s).pending = s.pending :=
    by simp [answer, apply_ite State.pending, h]
@[simp] theorem answer_fuse (name : String) (ok : Bool) (payload : Bytes) (f : State → State) (s : State) (h : ∀ s, (f s).fuse = s.fuse) : (answer name ok payload f s).fuse = s.fuse :=
    by simp [answer, apply_ite State.fuse, h]
@[simp] theorem answerIn_pending (profile : Bool) (name : String) (ok : Bool) (payload : Bytes) (f : State → State) (s : State) (h : ∀ s, (f s).pending = s.pending) : (answerIn profile name ok payload f s).pending = s.pending :=
    by simp [answerIn, apply_ite State.pending, h]
@[simp] theorem answerIn_fuse (profile : Bool) (name : String) (ok : Bool) (payload : Bytes) (f : State → State) (s : State) (h : ∀ s, (f s).fuse = s.fuse) : (answerIn profile name ok payload f s).fuse = s.fuse :=
    by simp [answerIn, apply_ite State.fuse, h]
@[simp] theorem setConn_pending (n : Nat) (s : State) : (setConn n s).pending = s.pending := rfl
@[simp] theorem setConn_fuse (n : Nat) (s : State) : (setConn n s).fuse = s.fuse := rfl
@[simp] theorem dropSession_pending (sid : BitVec 32) (s : State) : (dropSession sid s).pending = s.pending := rfl
@[simp] theorem dropSession_fuse (sid : BitVec 32) (s : State) : (dropSession sid s).fuse = s.fuse := rfl
@[simp] theorem authFails_pending (name : String) (s : State) : (authFails name s).pending = s.pending := by simp [authFails]
@[simp] theorem authFails_fuse (name : String) (s : State) : (authFails name s).fuse = s.fuse := by simp [authFails]
@[simp] theorem establish_pending (sid : BitVec 32) (s : State) : (establish sid s).pending = s.pending :=
    by simp [establish, apply_ite State.pending]
@[simp] theorem establish_fuse (sid : BitVec 32) (s : State) : (establish sid s).fuse = s.fuse := by simp [establish, apply_ite State.fuse]
@[simp] theorem keyStatus_pending (status : BitVec 8) (tenant : Nat) (data : Bytes) (s : State) : (keyStatus status tenant data s).pending = s.pending :=
    by simp [keyStatus, apply_ite State.pending]
@[simp] theorem keyStatus_fuse (status : BitVec 8) (tenant : Nat) (data : Bytes) (s : State) : (keyStatus status tenant data s).fuse = s.fuse :=
    by simp [keyStatus, apply_ite State.fuse]
@[simp] theorem installKey_pending (slot : Nat) (wrapped : Bool) (secret : Bytes) (signer : Option Bytes) (s : State) : (installKey slot wrapped secret signer s).pending = s.pending :=
    rfl
@[simp] theorem installKey_fuse (slot : Nat) (wrapped : Bool) (secret : Bytes) (signer : Option Bytes) (s : State) : (installKey slot wrapped secret signer s).fuse = s.fuse :=
    rfl
@[simp] theorem eraseKey_pending (slot tenant : Nat) (s : State) : (eraseKey slot tenant s).pending = s.pending := rfl
@[simp] theorem eraseKey_fuse (slot tenant : Nat) (s : State) : (eraseKey slot tenant s).fuse = s.fuse := rfl

/-! ## Express -/

@[simp] theorem faultLane_pending (l : Lane) (s : State) : (faultLane l s).pending = s.pending :=
    by simp [faultLane, apply_ite State.pending]
@[simp] theorem faultLane_fuse (l : Lane) (s : State) : (faultLane l s).fuse = s.fuse := by simp [faultLane, apply_ite State.fuse]
@[simp] theorem sendInvalid_pending (x : Nat) (seq : BitVec 16) (reason : Nat) (s : State) : (sendInvalid x seq reason s).pending = s.pending :=
    rfl
@[simp] theorem sendInvalid_fuse (x : Nat) (seq : BitVec 16) (reason : Nat) (s : State) : (sendInvalid x seq reason s).fuse = s.fuse := rfl
@[simp] theorem discardReq_pending (x : Nat) (seq : BitVec 16) (reason : Nat) (s : State) : (discardReq x seq reason s).pending = s.pending :=
    rfl
@[simp] theorem discardReq_fuse (x : Nat) (seq : BitVec 16) (reason : Nat) (s : State) : (discardReq x seq reason s).fuse = s.fuse := rfl
@[simp] theorem deliver_pending (x : Nat) (seq : BitVec 16) (s : State) : (deliver x seq s).pending = s.pending := by
  unfold deliver
  extract_lets s0 v ahead early s1
  have h0 : s0.pending = s.pending := by simp [s0]
  have h1 : s1.pending = s.pending := by simp only [s1]; rw [foldl_keeps State.pending _ _ _ (fun _ _ => by simp), h0]
  clear_value s1 s0
  (repeat' split) <;> simp [h0, h1]
@[simp] theorem deliver_fuse (x : Nat) (seq : BitVec 16) (s : State) : (deliver x seq s).fuse = s.fuse := by
  unfold deliver
  extract_lets s0 v ahead early s1
  have h0 : s0.fuse = s.fuse := by simp [s0]
  have h1 : s1.fuse = s.fuse := by simp only [s1]; rw [foldl_keeps State.fuse _ _ _ (fun _ _ => by simp), h0]
  clear_value s1 s0
  (repeat' split) <;> simp [h0, h1]
@[simp] theorem tellIncomplete_pending (x : Nat) (seq : BitVec 16) (s : State) : (tellIncomplete x seq s).pending = s.pending := rfl
@[simp] theorem tellIncomplete_fuse (x : Nat) (seq : BitVec 16) (s : State) : (tellIncomplete x seq s).fuse = s.fuse := rfl
@[simp] theorem bothDead_pending (x : Nat) (s : State) : (bothDead x s).pending = s.pending :=
    by simp only [bothDead]; (repeat' split) <;> simp
@[simp] theorem bothDead_fuse (x : Nat) (s : State) : (bothDead x s).fuse = s.fuse := by simp only [bothDead]; (repeat' split) <;> simp
@[simp] theorem answerDisarmed_pending (x : Nat) (l : Lane) (seq : BitVec 16) (both : Bool) (s : State) : (answerDisarmed x l seq both s).pending = s.pending :=
    by simp [answerDisarmed, apply_ite State.pending]
@[simp] theorem answerDisarmed_fuse (x : Nat) (l : Lane) (seq : BitVec 16) (both : Bool) (s : State) : (answerDisarmed x l seq both s).fuse = s.fuse :=
    by simp [answerDisarmed, apply_ite State.fuse]
@[simp] theorem takeFragment_pending (x : Nat) (l : Lane) (f : Bytes) (s : State) : (takeFragment x l f s).pending = s.pending := by
  unfold takeFragment
  extract_lets v seq old r s1 s2 left s3
  split
  · rfl
  · have h1 : s1.pending = s.pending := by simp only [s1]; split <;> simp
    have h2 : s2.pending = s.pending := by simp [s2, h1]
    have h3 : s3.pending = s.pending := by simp only [s3]; cases left <;> simp [h2]
    clear_value s3
    (repeat' split) <;> simp [h3]
@[simp] theorem takeFragment_fuse (x : Nat) (l : Lane) (f : Bytes) (s : State) : (takeFragment x l f s).fuse = s.fuse := by
  unfold takeFragment
  extract_lets v seq old r s1 s2 left s3
  split
  · rfl
  · have h1 : s1.fuse = s.fuse := by simp only [s1]; split <;> simp
    have h2 : s2.fuse = s.fuse := by simp [s2, h1]
    have h3 : s3.fuse = s.fuse := by simp only [s3]; cases left <;> simp [h2]
    clear_value s3
    (repeat' split) <;> simp [h3]
@[simp] theorem copyRequest_pending (x : Nat) (l : Lane) (c : ReqCopy) (s : State) : (copyRequest x l c s).pending = s.pending :=
    by simp [copyRequest]
@[simp] theorem copyRequest_fuse (x : Nat) (l : Lane) (c : ReqCopy) (s : State) : (copyRequest x l c s).fuse = s.fuse :=
    by simp [copyRequest]
@[simp] theorem serveAlone_pending (x : Nat) (l : Lane) (c : ReqCopy) (s : State) : (serveAlone x l c s).pending = s.pending :=
    by simp [serveAlone, apply_ite State.pending]
@[simp] theorem serveAlone_fuse (x : Nat) (l : Lane) (c : ReqCopy) (s : State) : (serveAlone x l c s).fuse = s.fuse :=
    by simp [serveAlone, apply_ite State.fuse]
@[simp] theorem giveUp_pending (x : Nat) (late : ReqCopy → Bool) (s : State) (l : Lane) : (giveUp x late s l).pending = s.pending :=
    by simp only [giveUp]; split <;> simp
@[simp] theorem giveUp_fuse (x : Nat) (late : ReqCopy → Bool) (s : State) (l : Lane) : (giveUp x late s l).fuse = s.fuse :=
    by simp only [giveUp]; split <;> simp
@[simp] theorem proofFails_pending (x : Nat) (s : State) : (proofFails x s).pending = s.pending := by simp [proofFails]
@[simp] theorem proofFails_fuse (x : Nat) (s : State) : (proofFails x s).fuse = s.fuse := by simp [proofFails]
@[simp] theorem takeRole_pending (x r bar : Nat) (s : State) : (takeRole x r bar s).pending = s.pending :=
    by simp [takeRole, apply_ite State.pending]
@[simp] theorem takeRole_fuse (x r bar : Nat) (s : State) : (takeRole x r bar s).fuse = s.fuse := by simp [takeRole, apply_ite State.fuse]
@[simp] theorem sendFrame_pending (l : Lane) (f : Bytes) (s : State) : (sendFrame l f s).pending = s.pending := by simp [sendFrame]
@[simp] theorem sendFrame_fuse (l : Lane) (f : Bytes) (s : State) : (sendFrame l f s).fuse = s.fuse := by simp [sendFrame]
@[simp] theorem sendIdle_pending (l : Lane) (s : State) : (sendIdle l s).pending = s.pending := by simp [sendIdle]
@[simp] theorem sendIdle_fuse (l : Lane) (s : State) : (sendIdle l s).fuse = s.fuse := by simp [sendIdle]
@[simp] theorem resSent_pending (f : Bytes) (s : State) : (resSent f s).pending = s.pending := by simp [resSent, apply_ite State.pending]
@[simp] theorem resSent_fuse (f : Bytes) (s : State) : (resSent f s).fuse = s.fuse := by simp [resSent, apply_ite State.fuse]

/-! ## Manage -/

@[simp] theorem presentCert_pending (s : State) : (presentCert s).pending = s.pending := rfl
@[simp] theorem presentCert_fuse (s : State) : (presentCert s).fuse = s.fuse := rfl
@[simp] theorem mgtRefuse_pending (s : State) : (mgtRefuse s).pending = s.pending := by simp [mgtRefuse]
@[simp] theorem mgtRefuse_fuse (s : State) : (mgtRefuse s).fuse = s.fuse := by simp [mgtRefuse]
@[simp] theorem mboxGo_pending (op : BitVec 4) (s : State) : (mboxGo op s).pending = s.pending := by simp [mboxGo, apply_ite State.pending]
@[simp] theorem mboxGo_fuse (op : BitVec 4) (s : State) : (mboxGo op s).fuse = s.fuse := by simp [mboxGo, apply_ite State.fuse]
@[simp] theorem mboxCtrl_pending (v : Reg32) (s : State) : (mboxCtrl v s).pending = s.pending := by simp [mboxCtrl, apply_ite State.pending]
@[simp] theorem mboxCtrl_fuse (v : Reg32) (s : State) : (mboxCtrl v s).fuse = s.fuse := by simp [mboxCtrl, apply_ite State.fuse]
@[simp] theorem mboxPut_pending (v : Reg32) (s : State) : (mboxPut v s).pending = s.pending := rfl
@[simp] theorem mboxPut_fuse (v : Reg32) (s : State) : (mboxPut v s).fuse = s.fuse := rfl
@[simp] theorem setRoot_pending (op : BitVec 4) (f : Bytes → State → State) (s : State) (h : ∀ x s, (f x s).pending = s.pending) :
    (setRoot op f s).pending = s.pending := by
  simp only [setRoot]; (repeat' split) <;> simp [h]
@[simp] theorem setRoot_fuse (op : BitVec 4) (f : Bytes → State → State) (s : State) (h : ∀ x s, (f x s).fuse = s.fuse) :
    (setRoot op f s).fuse = s.fuse := by
  simp only [setRoot]; (repeat' split) <;> simp [h]

/-! ## Windows -/

@[simp] theorem noteClosed_pending (peer : Bool) (w : Nat) (s : State) : (noteClosed peer w s).pending = s.pending :=
    by simp [noteClosed, apply_ite State.pending]
@[simp] theorem noteClosed_fuse (peer : Bool) (w : Nat) (s : State) : (noteClosed peer w s).fuse = s.fuse :=
    by simp [noteClosed, apply_ite State.fuse]
@[simp] theorem noteDenied_pending (peer : Bool) (w : Nat) (s : State) : (noteDenied peer w s).pending = s.pending := by simp [noteDenied]
@[simp] theorem noteDenied_fuse (peer : Bool) (w : Nat) (s : State) : (noteDenied peer w s).fuse = s.fuse := by simp [noteDenied]
@[simp] theorem windowPut_pending (t addr : Nat) (data : List MByte) (s : State) : (windowPut t addr data s).pending = s.pending := by
  unfold windowPut
  split
  · next hw => simp [modelWrite_pending hw]
  · simp
@[simp] theorem windowPut_fuse (t addr : Nat) (data : List MByte) (s : State) : (windowPut t addr data s).fuse = s.fuse := by
  unfold windowPut
  split
  · next hw => simp [modelWrite_fuse hw]
  · simp
@[simp] theorem winopenBody_pending (t q : Nat) (p : Presented) (s : State) : (winopenBody t q p s).pending = s.pending :=
    by simp [winopenBody, apply_ite State.pending]
@[simp] theorem winopenBody_fuse (t q : Nat) (p : Presented) (s : State) : (winopenBody t q p s).fuse = s.fuse :=
    by simp [winopenBody, apply_ite State.fuse]
@[simp] theorem wincloseBody_pending (t q : Nat) (p : Presented) (s : State) : (wincloseBody t q p s).pending = s.pending :=
    by simp [wincloseBody, apply_ite State.pending]
@[simp] theorem wincloseBody_fuse (t q : Nat) (p : Presented) (s : State) : (wincloseBody t q p s).fuse = s.fuse :=
    by simp [wincloseBody, apply_ite State.fuse]

/-! ## PeerOps -/

@[simp] theorem emitFlit_pending (type : BitVec 8) (h : FlitHdr) (payload : Bytes) (s : State) : (emitFlit type h payload s).pending = s.pending :=
    rfl
@[simp] theorem emitFlit_fuse (type : BitVec 8) (h : FlitHdr) (payload : Bytes) (s : State) : (emitFlit type h payload s).fuse = s.fuse :=
    rfl
@[simp] theorem sendFlit_pending (f : TxFlit) (s : State) : (sendFlit f s).pending = s.pending := rfl
@[simp] theorem sendFlit_fuse (f : TxFlit) (s : State) : (sendFlit f s).fuse = s.fuse := rfl
theorem pumpSteps_pending (n : Nat) (s : State) : (pumpSteps n s).pending = s.pending := by
  induction n generalizing s with
  | zero => rfl
  | succ n ih => simp only [pumpSteps]; (repeat' split) <;> simp [ih]
@[simp] theorem pump_pending (s : State) : (pump s).pending = s.pending := by simp [pump, pumpSteps_pending]

theorem pumpSteps_fuse (n : Nat) (s : State) : (pumpSteps n s).fuse = s.fuse := by
  induction n generalizing s with
  | zero => rfl
  | succ n ih => simp only [pumpSteps]; (repeat' split) <;> simp [ih]
@[simp] theorem pump_fuse (s : State) : (pump s).fuse = s.fuse := by simp [pump, pumpSteps_fuse]

@[simp] theorem enqueueFlits_pending (l : List TxFlit) (s : State) : (enqueueFlits l s).pending = s.pending := by simp [enqueueFlits]
@[simp] theorem enqueueFlits_fuse (l : List TxFlit) (s : State) : (enqueueFlits l s).fuse = s.fuse := by simp [enqueueFlits]
@[simp] theorem sendNak_pending (reason : Nat) (vc : Bool) (tag : BitVec 8) (fseq : BitVec 12) (s : State) : (sendNak reason vc tag fseq s).pending = s.pending :=
    by simp [sendNak]
@[simp] theorem sendNak_fuse (reason : Nat) (vc : Bool) (tag : BitVec 8) (fseq : BitVec 12) (s : State) : (sendNak reason vc tag fseq s).fuse = s.fuse :=
    by simp [sendNak]
@[simp] theorem retrain_pending (s : State) : (retrain s).pending = s.pending := by simp [retrain]
@[simp] theorem retrain_fuse (s : State) : (retrain s).fuse = s.fuse := by simp [retrain]
@[simp] theorem askReplay_pending (s : State) : (askReplay s).pending = s.pending := by simp [askReplay, apply_ite State.pending]
@[simp] theorem askReplay_fuse (s : State) : (askReplay s).fuse = s.fuse := by simp [askReplay, apply_ite State.fuse]
@[simp] theorem resend_pending (s : State) : (resend s).pending = s.pending := foldl_keeps State.pending _ _ _ (fun _ _ => by simp)
@[simp] theorem resend_fuse (s : State) : (resend s).fuse = s.fuse := foldl_keeps State.fuse _ _ _ (fun _ _ => by simp)
@[simp] theorem outOfOrder_pending (s : State) : (outOfOrder s).pending = s.pending := by simp [outOfOrder, apply_ite State.pending]
@[simp] theorem outOfOrder_fuse (s : State) : (outOfOrder s).fuse = s.fuse := by simp [outOfOrder, apply_ite State.fuse]
@[simp] theorem takeFlit_pending (type : BitVec 8) (h : FlitHdr) (s : State) : (takeFlit type h s).pending = s.pending := rfl
@[simp] theorem takeFlit_fuse (type : BitVec 8) (h : FlitHdr) (s : State) : (takeFlit type h s).fuse = s.fuse := rfl
@[simp] theorem receive_pending (type : BitVec 8) (h : FlitHdr) (body : State → State) (s : State) (hb : ∀ s, (body s).pending = s.pending) :
    (receive type h body s).pending = s.pending := by
  unfold receive
  (repeat' split) <;> simp [hb]

@[simp] theorem receive_fuse (type : BitVec 8) (h : FlitHdr) (body : State → State) (s : State) (hb : ∀ s, (body s).fuse = s.fuse) :
    (receive type h body s).fuse = s.fuse := by
  unfold receive
  (repeat' split) <;> simp [hb]

@[simp] theorem refuse_pending (reason : Nat) (h : FlitHdr) (fseq : BitVec 12) (s : State) : (refuse reason h fseq s).pending = s.pending :=
    by simp [refuse, apply_ite State.pending]
@[simp] theorem refuse_fuse (reason : Nat) (h : FlitHdr) (fseq : BitVec 12) (s : State) : (refuse reason h fseq s).fuse = s.fuse :=
    by simp [refuse, apply_ite State.fuse]
@[simp] theorem performWr_pending (h : FlitHdr) (m : RxMsg) (s : State) : (performWr h m s).pending = s.pending :=
    by simp [performWr, apply_ite State.pending]
@[simp] theorem performWr_fuse (h : FlitHdr) (m : RxMsg) (s : State) : (performWr h m s).fuse = s.fuse :=
    by simp [performWr, apply_ite State.fuse]
@[simp] theorem gradAdd_pending (t addr : Nat) (v : Reg32) (s : State) : (gradAdd t addr v s).pending = s.pending := by simp [gradAdd]
@[simp] theorem gradAdd_fuse (t addr : Nat) (v : Reg32) (s : State) : (gradAdd t addr v s).fuse = s.fuse := by simp [gradAdd]
@[simp] theorem trainLink_pending (version : Nat) (lanes : BitVec 8) (s : State) : (trainLink version lanes s).pending = s.pending :=
    by simp [trainLink, apply_ite State.pending]
@[simp] theorem trainLink_fuse (version : Nat) (lanes : BitVec 8) (s : State) : (trainLink version lanes s).fuse = s.fuse :=
    by simp [trainLink, apply_ite State.fuse]

/-! ## Peer -/

theorem gather_pending (type : BitVec 8) (h : FlitHdr) (p : Bytes) (bad : Option Nat) (s : State) :
    (gather type h p bad s).2.pending = s.pending := by
  unfold gather
  (repeat' split) <;> first | rfl | simp
@[simp] theorem takeWr_pending (h : FlitHdr) (p : Bytes) (s : State) : (takeWr h p s).pending = s.pending := by
  unfold takeWr
  extract_lets bad r
  have hr : r.2.pending = s.pending := gather_pending _ _ _ _ _
  clear_value r
  (repeat' split) <;> simp [hr]

theorem gather_fuse (type : BitVec 8) (h : FlitHdr) (p : Bytes) (bad : Option Nat) (s : State) :
    (gather type h p bad s).2.fuse = s.fuse := by
  unfold gather
  (repeat' split) <;> first | rfl | simp
@[simp] theorem takeWr_fuse (h : FlitHdr) (p : Bytes) (s : State) : (takeWr h p s).fuse = s.fuse := by
  unfold takeWr
  extract_lets bad r
  have hr : r.2.fuse = s.fuse := gather_fuse _ _ _ _ _
  clear_value r
  (repeat' split) <;> simp [hr]

@[simp] theorem takeRdreq_pending (h : FlitHdr) (s : State) : (takeRdreq h s).pending = s.pending :=
    by simp only [takeRdreq]; (repeat' split) <;> simp
@[simp] theorem takeRdreq_fuse (h : FlitHdr) (s : State) : (takeRdreq h s).fuse = s.fuse :=
    by simp only [takeRdreq]; (repeat' split) <;> simp
@[simp] theorem takeRdcpl_pending (h : FlitHdr) (payload : Bytes) (s : State) : (takeRdcpl h payload s).pending = s.pending := by
  unfold takeRdcpl
  extract_lets r
  have hr : r.2.pending = s.pending := gather_pending _ _ _ _ _
  clear_value r
  (repeat' split) <;> simp [hr]
@[simp] theorem takeRdcpl_fuse (h : FlitHdr) (payload : Bytes) (s : State) : (takeRdcpl h payload s).fuse = s.fuse := by
  unfold takeRdcpl
  extract_lets r
  have hr : r.2.fuse = s.fuse := gather_fuse _ _ _ _ _
  clear_value r
  (repeat' split) <;> simp [hr]
@[simp] theorem takeSignal_pending (h : FlitHdr) (payload : Bytes) (s : State) : (takeSignal h payload s).pending = s.pending :=
    by simp only [takeSignal]; split <;> simp
@[simp] theorem takeSignal_fuse (h : FlitHdr) (payload : Bytes) (s : State) : (takeSignal h payload s).fuse = s.fuse :=
    by simp only [takeSignal]; split <;> simp
theorem gradEntries_pending (v : Window) (o : Nat) (l : List Bytes) (i : Option Nat) (s : State) :
    (gradEntries v o l i s).2.pending = s.pending := by
  induction l generalizing i s with
  | nil => rfl
  | cons e r ih => simp only [gradEntries]; split <;> simp [ih]
@[simp] theorem takeGrad_pending (h : FlitHdr) (p : Bytes) (s : State) : (takeGrad h p s).pending = s.pending := by
  unfold takeGrad
  extract_lets bad r
  have hr : r.2.pending = s.pending := gather_pending _ _ _ _ _
  clear_value r
  split
  · exact hr
  · split
    · exact hr
    · extract_lets before n g
      have hg : g.2.pending = s.pending := by simp only [g]; rw [gradEntries_pending, hr]
      clear_value g
      split <;> simp [hg]

theorem gradEntries_fuse (v : Window) (o : Nat) (l : List Bytes) (i : Option Nat) (s : State) :
    (gradEntries v o l i s).2.fuse = s.fuse := by
  induction l generalizing i s with
  | nil => rfl
  | cons e r ih => simp only [gradEntries]; split <;> simp [ih]
@[simp] theorem takeGrad_fuse (h : FlitHdr) (p : Bytes) (s : State) : (takeGrad h p s).fuse = s.fuse := by
  unfold takeGrad
  extract_lets bad r
  have hr : r.2.fuse = s.fuse := gather_fuse _ _ _ _ _
  clear_value r
  split
  · exact hr
  · split
    · exact hr
    · extract_lets before n g
      have hg : g.2.fuse = s.fuse := by simp only [g]; rw [gradEntries_fuse, hr]
      clear_value g
      split <;> simp [hg]

@[simp] theorem takeNak_pending (payload : Bytes) (s : State) : (takeNak payload s).pending = s.pending := rfl
@[simp] theorem takeNak_fuse (payload : Bytes) (s : State) : (takeNak payload s).fuse = s.fuse := rfl
@[simp] theorem takeCredit_pending (payload : Bytes) (s : State) : (takeCredit payload s).pending = s.pending := rfl
@[simp] theorem takeCredit_fuse (payload : Bytes) (s : State) : (takeCredit payload s).fuse = s.fuse := rfl

/-! ## Transfer -/

@[simp] theorem countTq_pending (t : Nat) (tq : Option (Ary × Fin 16)) (s : State) : (countTq t tq s).pending = s.pending :=
    by simp only [countTq]; (repeat' split) <;> simp
@[simp] theorem countTq_fuse (t : Nat) (tq : Option (Ary × Fin 16)) (s : State) : (countTq t tq s).fuse = s.fuse :=
    by simp only [countTq]; (repeat' split) <;> simp
@[simp] theorem descDone_pending (d : Nat) (t : Nat) (v : Descriptor) (s : State) : (descDone d t v s).pending = s.pending :=
    by simp [descDone]
@[simp] theorem descDone_fuse (d : Nat) (t : Nat) (v : Descriptor) (s : State) : (descDone d t v s).fuse = s.fuse := by simp [descDone]
@[simp] theorem peerDown_pending (x : Dispatch) (v : Descriptor) (s : State) : (peerDown x v s).pending = s.pending := by simp [peerDown]
@[simp] theorem peerDown_fuse (x : Dispatch) (v : Descriptor) (s : State) : (peerDown x v s).fuse = s.fuse := by simp [peerDown]
@[simp] theorem peerWrite_pending (x : Dispatch) (con window off len : Nat) (v : Descriptor) (s : State) : (peerWrite x con window off len v s).pending = s.pending :=
    by simp [peerWrite, apply_ite State.pending]
@[simp] theorem peerWrite_fuse (x : Dispatch) (con window off len : Nat) (v : Descriptor) (s : State) : (peerWrite x con window off len v s).fuse = s.fuse :=
    by simp [peerWrite, apply_ite State.fuse]
@[simp] theorem peerRead_pending (x : Dispatch) (window off con len : Nat) (tag : BitVec 8) (v : Descriptor) (s : State) : (peerRead x window off con len tag v s).pending = s.pending :=
    by simp only [peerRead]; (repeat' split) <;> simp
@[simp] theorem peerRead_fuse (x : Dispatch) (window off con len : Nat) (tag : BitVec 8) (v : Descriptor) (s : State) : (peerRead x window off con len tag v s).fuse = s.fuse :=
    by simp only [peerRead]; (repeat' split) <;> simp
theorem kvStore_pending {t c hd layer head tok n : Nat} {value : Bool} {s s' : State}
    (h : kvStore t c hd layer head tok n value s = .ok s') : s'.pending = s.pending := by
  have key : ∀ (g : Except (BitVec 16 × Nat) State → Nat → Except (BitVec 16 × Nat) State) (l : List Nat)
      (r : Except (BitVec 16 × Nat) State),
      (∀ r i, (∀ s1, r = .ok s1 → s1.pending = s.pending) → ∀ s1, g r i = .ok s1 → s1.pending = s.pending) →
      (∀ s1, r = .ok s1 → s1.pending = s.pending) → ∀ s1, l.foldl g r = .ok s1 → s1.pending = s.pending := by
    intro g l
    induction l with
    | nil => intro r _ h; exact h
    | cons i l ih => intro r hg h; exact ih (g r i) hg (hg r i h)
  unfold kvStore at h
  split at h
  · refine key _ _ _ ?_ ?_ s' h
    · intro r i hr s1 hs
      cases r with
      | error e => cases hs
      | ok s0 =>
        simp only [Except.bind] at hs
        split at hs
        · cases hs; exact hr _ rfl
        · split at hs
          · next hw => cases hs; rw [addHeat_pending, modelWrite_pending hw, hr _ rfl]
          · cases hs
    · intro s1 hs; cases hs; rfl
  · cases h
  · cases h
theorem moveBytes_pending {t : Nat} {v : Move} {e : MoveErr} {s s' : State} (h : moveBytes t v e s = .ok s') : s'.pending = s.pending := by
  unfold moveBytes at h
  extract_lets s1 store at h
  have h1 : s1.pending = s.pending := by simp [s1]
  have hs : ∀ m l, store m l = .ok s' → s'.pending = s.pending := by
    intro m l h
    simp only [store] at h
    split at h
    · next hw => cases h; rw [addHeat_pending, modelWrite_pending hw, h1]
    · cases h
  clear_value store s1
  split at h <;> first | exact hs _ _ h | exact (kvStore_pending h).trans h1 | (cases h; simp [modelRead_pending, h1])
@[simp] theorem dispatchMove_pending (x : Dispatch) (d : Descriptor) (e : MoveErr) (s : State) : (dispatchMove x d e s).pending = s.pending := by
  unfold dispatchMove
  (repeat' split) <;> first | rfl | (simp; done) | (rename_i hm; simp [moveBytes_pending hm])

theorem kvStore_fuse {t c hd layer head tok n : Nat} {value : Bool} {s s' : State}
    (h : kvStore t c hd layer head tok n value s = .ok s') : s'.fuse = s.fuse := by
  have key : ∀ (g : Except (BitVec 16 × Nat) State → Nat → Except (BitVec 16 × Nat) State) (l : List Nat)
      (r : Except (BitVec 16 × Nat) State),
      (∀ r i, (∀ s1, r = .ok s1 → s1.fuse = s.fuse) → ∀ s1, g r i = .ok s1 → s1.fuse = s.fuse) →
      (∀ s1, r = .ok s1 → s1.fuse = s.fuse) → ∀ s1, l.foldl g r = .ok s1 → s1.fuse = s.fuse := by
    intro g l
    induction l with
    | nil => intro r _ h; exact h
    | cons i l ih => intro r hg h; exact ih (g r i) hg (hg r i h)
  unfold kvStore at h
  split at h
  · refine key _ _ _ ?_ ?_ s' h
    · intro r i hr s1 hs
      cases r with
      | error e => cases hs
      | ok s0 =>
        simp only [Except.bind] at hs
        split at hs
        · cases hs; exact hr _ rfl
        · split at hs
          · next hw => cases hs; rw [addHeat_fuse, modelWrite_fuse hw, hr _ rfl]
          · cases hs
    · intro s1 hs; cases hs; rfl
  · cases h
  · cases h
theorem moveBytes_fuse {t : Nat} {v : Move} {e : MoveErr} {s s' : State} (h : moveBytes t v e s = .ok s') : s'.fuse = s.fuse := by
  unfold moveBytes at h
  extract_lets s1 store at h
  have h1 : s1.fuse = s.fuse := by simp [s1]
  have hs : ∀ m l, store m l = .ok s' → s'.fuse = s.fuse := by
    intro m l h
    simp only [store] at h
    split at h
    · next hw => cases h; rw [addHeat_fuse, modelWrite_fuse hw, h1]
    · cases h
  clear_value store s1
  split at h <;> first | exact hs _ _ h | exact (kvStore_fuse h).trans h1 | (cases h; simp [modelRead_fuse, h1])
@[simp] theorem dispatchMove_fuse (x : Dispatch) (d : Descriptor) (e : MoveErr) (s : State) : (dispatchMove x d e s).fuse = s.fuse := by
  unfold dispatchMove
  (repeat' split) <;> first | rfl | (simp; done) | (rename_i hm; simp [moveBytes_fuse hm])

@[simp] theorem prefetchMove_pending (d : Descriptor) (e : MoveErr) (s : State) : (prefetchMove d e s).pending = s.pending := by
  unfold prefetchMove
  extract_lets t
  split
  · split
    · rfl
    · split
      · next hm => simp only [complete_pending, State.modTenant_pending, moveBytes_pending hm]
      · rfl
  · rfl
@[simp] theorem prefetchMove_fuse (d : Descriptor) (e : MoveErr) (s : State) : (prefetchMove d e s).fuse = s.fuse := by
  unfold prefetchMove
  extract_lets t
  split
  · split
    · rfl
    · split
      · next hm => simp only [complete_fuse, State.modTenant_fuse, moveBytes_fuse hm]
      · rfl
  · rfl

/-! ## Power -/

@[simp] theorem State.cleared_pending (s : State) : (State.cleared s).pending = s.pending := rfl
@[simp] theorem State.cleared_fuse (s : State) : (State.cleared s).fuse = s.fuse := rfl
@[simp] theorem deviceReset_pending (cause : BitVec 8) (s : State) : (deviceReset cause s).pending = s.pending := rfl
@[simp] theorem deviceReset_fuse (cause : BitVec 8) (s : State) : (deviceReset cause s).fuse = s.fuse := rfl
@[simp] theorem faultReset_pending (cause : BitVec 8) (code : BitVec 16) (s : State) : (faultReset cause code s).pending = s.pending :=
    by simp [faultReset]
@[simp] theorem faultReset_fuse (cause : BitVec 8) (code : BitVec 16) (s : State) : (faultReset cause code s).fuse = s.fuse :=
    by simp [faultReset]
@[simp] theorem configure_pending (cfg : PcieCfg) (s : State) : (configure cfg s).pending = s.pending :=
    by simp [configure, apply_ite State.pending]
@[simp] theorem configure_fuse (cfg : PcieCfg) (s : State) : (configure cfg s).fuse = s.fuse := by simp [configure, apply_ite State.fuse]
@[simp] theorem writeReset_pending (v : Reg32) (s : State) : (writeReset v s).pending = s.pending :=
    by simp [writeReset, apply_ite State.pending]
@[simp] theorem writeReset_fuse (v : Reg32) (s : State) : (writeReset v s).fuse = s.fuse := by simp [writeReset, apply_ite State.fuse]
@[simp] theorem setTemp_pending (temp : BitVec 16) (s : State) : (setTemp temp s).pending = s.pending :=
    by simp [setTemp, apply_ite State.pending]
@[simp] theorem setTemp_fuse (temp : BitVec 16) (s : State) : (setTemp temp s).fuse = s.fuse := by simp [setTemp, apply_ite State.fuse]
@[simp] theorem rejectStart_pending (code : BitVec 16) (s : State) : (rejectStart code s).pending = s.pending := by simp [rejectStart]
@[simp] theorem rejectStart_fuse (code : BitVec 16) (s : State) : (rejectStart code s).fuse = s.fuse := by simp [rejectStart]
@[simp] theorem takeImage_pending (s : State) : (takeImage s).pending = s.pending := rfl
@[simp] theorem takeImage_fuse (s : State) : (takeImage s).fuse = s.fuse := rfl
@[simp] theorem bootSetUp_pending (e : Bytes) (s : State) : (bootSetUp e s).pending = s.pending := by simp [bootSetUp]
@[simp] theorem bootSetUp_fuse (e : Bytes) (s : State) : (bootSetUp e s).fuse = s.fuse := by simp [bootSetUp]
@[simp] theorem bootEntry_pending (s : State) (e : Bytes) : (bootEntry s e).pending = s.pending :=
    by simp [bootEntry, apply_ite State.pending]
@[simp] theorem bootEntry_fuse (s : State) (e : Bytes) : (bootEntry s e).fuse = s.fuse := by simp [bootEntry, apply_ite State.fuse]

/-! ## RegOps -/

theorem rdataRead_pending (p : WscPort) (s : State) : (rdataRead p s).2.pending = s.pending := by
  unfold rdataRead
  extract_lets v ones fail
  have hf : ∀ b, (fail b).2.pending = s.pending := by intro b; simp [fail]
  clear_value fail
  (repeat' split) <;> first | rfl | exact hf _ | exact State.modWsc_pending _ _ _ | exact (loadUnit_pending _ _ _).trans (State.modWsc_pending _ _ _)
theorem readReg_pending (o : Nat) (s : State) : (readReg o s).2.pending = s.pending := by
  unfold readReg
  (repeat' split) <;> first | rfl | simp [rdataRead_pending]
theorem readBytes_pending (o n : Nat) (s : State) : (readBytes o n s).2.pending = s.pending := by
  unfold readBytes
  split
  · exact (readReg_pending _ _).trans (readReg_pending _ _)
  · exact readReg_pending _ _
@[simp] theorem barRead_pending (off size : Nat) (s : State) : (barRead off size s).pending = s.pending := by
  unfold barRead
  (repeat' split) <;> simp [readBytes_pending]

theorem rdataRead_fuse (p : WscPort) (s : State) : (rdataRead p s).2.fuse = s.fuse := by
  unfold rdataRead
  extract_lets v ones fail
  have hf : ∀ b, (fail b).2.fuse = s.fuse := by intro b; simp [fail]
  clear_value fail
  (repeat' split) <;> first | rfl | exact hf _ | exact State.modWsc_fuse _ _ _ | exact (loadUnit_fuse _ _ _).trans (State.modWsc_fuse _ _ _)
theorem readReg_fuse (o : Nat) (s : State) : (readReg o s).2.fuse = s.fuse := by
  unfold readReg
  (repeat' split) <;> first | rfl | simp [rdataRead_fuse]
theorem readBytes_fuse (o n : Nat) (s : State) : (readBytes o n s).2.fuse = s.fuse := by
  unfold readBytes
  split
  · exact (readReg_fuse _ _).trans (readReg_fuse _ _)
  · exact readReg_fuse _ _
@[simp] theorem barRead_fuse (off size : Nat) (s : State) : (barRead off size s).fuse = s.fuse := by
  unfold barRead
  (repeat' split) <;> simp [readBytes_fuse]


/-! ## Registers -/

@[simp] theorem writeMask_pending (k : Nat) (on : Bool) (s : State) : (writeMask k on s).pending = s.pending :=
    by simp [writeMask, apply_ite State.pending]
@[simp] theorem writeMask_fuse (k : Nat) (on : Bool) (s : State) : (writeMask k on s).fuse = s.fuse :=
    by simp [writeMask, apply_ite State.fuse]
@[simp] theorem writeGlb_pending (off : Nat) (v : Reg32) (s : State) : (writeGlb off v s).pending = s.pending :=
    by simp [writeGlb, apply_ite State.pending]
@[simp] theorem writeGlb_fuse (off : Nat) (v : Reg32) (s : State) : (writeGlb off v s).fuse = s.fuse :=
    by simp [writeGlb, apply_ite State.fuse]
@[simp] theorem writeRing_pending (t q off : Nat) (v : Reg32) (s : State) : (writeRing t q off v s).pending = s.pending :=
    by simp [writeRing, apply_ite State.pending]
@[simp] theorem writeRing_fuse (t q off : Nat) (v : Reg32) (s : State) : (writeRing t q off v s).fuse = s.fuse :=
    by simp [writeRing, apply_ite State.fuse]
@[simp] theorem writeCtrl_pending (t : Nat) (v : Reg32) (s : State) : (writeCtrl t v s).pending = s.pending := by
  simp only [writeCtrl]; (repeat' split) <;> first
    | simp; done
    | exact (foldl_keeps State.pending _ _ _ (fun _ _ => by simp)).trans (by simp)
@[simp] theorem writeCtrl_fuse (t : Nat) (v : Reg32) (s : State) : (writeCtrl t v s).fuse = s.fuse := by
  simp only [writeCtrl]; (repeat' split) <;> first
    | simp; done
    | exact (foldl_keeps State.fuse _ _ _ (fun _ _ => by simp)).trans (by simp)
@[simp] theorem writeFrc_pending (off : Nat) (v : Reg32) (s : State) : (writeFrc off v s).pending = s.pending :=
    by simp [writeFrc, apply_ite State.pending]
@[simp] theorem writeFrc_fuse (off : Nat) (v : Reg32) (s : State) : (writeFrc off v s).fuse = s.fuse :=
    by simp [writeFrc, apply_ite State.fuse]
@[simp] theorem writeKsel_pending (p : WscPort) (v : Reg32) (s : State) : (writeKsel p v s).pending = s.pending :=
    by simp [writeKsel, apply_ite State.pending]
@[simp] theorem writeKsel_fuse (p : WscPort) (v : Reg32) (s : State) : (writeKsel p v s).fuse = s.fuse :=
    by simp [writeKsel, apply_ite State.fuse]
@[simp] theorem writeWsc_pending (p : WscPort) (off : Nat) (v : Reg32) (s : State) : (writeWsc p off v s).pending = s.pending :=
    by simp [writeWsc, apply_ite State.pending]
@[simp] theorem writeWsc_fuse (p : WscPort) (off : Nat) (v : Reg32) (s : State) : (writeWsc p off v s).fuse = s.fuse :=
    by simp [writeWsc, apply_ite State.fuse]
@[simp] theorem writeMtc_pending (off : Nat) (v : Reg32) (s : State) : (writeMtc off v s).pending = s.pending :=
    by simp [writeMtc, apply_ite State.pending]
@[simp] theorem writeMtc_fuse (off : Nat) (v : Reg32) (s : State) : (writeMtc off v s).fuse = s.fuse :=
    by simp [writeMtc, apply_ite State.fuse]
@[simp] theorem writeWin_pending (off : Nat) (v : Reg32) (s : State) : (writeWin off v s).pending = s.pending :=
    by simp [writeWin, apply_ite State.pending]
@[simp] theorem writeWin_fuse (off : Nat) (v : Reg32) (s : State) : (writeWin off v s).fuse = s.fuse :=
    by simp [writeWin, apply_ite State.fuse]
@[simp] theorem writeAry_pending (a off : Nat) (v : Reg32) (s : State) : (writeAry a off v s).pending = s.pending :=
    by simp [writeAry, apply_ite State.pending]
@[simp] theorem writeAry_fuse (a off : Nat) (v : Reg32) (s : State) : (writeAry a off v s).fuse = s.fuse :=
    by simp [writeAry, apply_ite State.fuse]
@[simp] theorem writeAryPlanner_pending (a off : Nat) (v : Reg32) (s : State) : (writeAryPlanner a off v s).pending = s.pending :=
    by simp [writeAryPlanner, apply_ite State.pending]
@[simp] theorem writeAryPlanner_fuse (a off : Nat) (v : Reg32) (s : State) : (writeAryPlanner a off v s).fuse = s.fuse :=
    by simp [writeAryPlanner, apply_ite State.fuse]
@[simp] theorem writeAtp_pending (p off : Nat) (v : Reg32) (s : State) : (writeAtp p off v s).pending = s.pending :=
    by simp [writeAtp, apply_ite State.pending]
@[simp] theorem writeAtp_fuse (p off : Nat) (v : Reg32) (s : State) : (writeAtp p off v s).fuse = s.fuse :=
    by simp [writeAtp, apply_ite State.fuse]
@[simp] theorem writeKey_pending (off : Nat) (v : Reg32) (s : State) : (writeKey off v s).pending = s.pending :=
    by simp [writeKey, apply_ite State.pending]
@[simp] theorem writeKey_fuse (off : Nat) (v : Reg32) (s : State) : (writeKey off v s).fuse = s.fuse :=
    by simp [writeKey, apply_ite State.fuse]
@[simp] theorem smbAnswer_pending (addr : BitVec 7) (pecOk : Bool) (data : Bytes) (s : State) : (smbAnswer addr pecOk data s).pending = s.pending :=
    by simp [smbAnswer, apply_ite State.pending]
@[simp] theorem smbAnswer_fuse (addr : BitVec 7) (pecOk : Bool) (data : Bytes) (s : State) : (smbAnswer addr pecOk data s).fuse = s.fuse :=
    by simp [smbAnswer, apply_ite State.fuse]
@[simp] theorem selectTap_pending (i : Fin 6) (s : State) : (selectTap i s).pending = s.pending :=
    by simp [selectTap, apply_ite State.pending]
@[simp] theorem selectTap_fuse (i : Fin 6) (s : State) : (selectTap i s).fuse = s.fuse := by simp [selectTap, apply_ite State.fuse]
@[simp] theorem scanDr_pending (tdi : List Bool) (s : State) : (scanDr tdi s).pending = s.pending :=
    by simp [scanDr, apply_ite State.pending]
@[simp] theorem scanDr_fuse (tdi : List Bool) (s : State) : (scanDr tdi s).fuse = s.fuse := by simp [scanDr, apply_ite State.fuse]
@[simp] theorem tapScan_pending (i : Fin 6) (tdi : List Bool) (s : State) : (tapScan i tdi s).pending = s.pending :=
    by simp [tapScan, apply_ite State.pending]
@[simp] theorem tapScan_fuse (i : Fin 6) (tdi : List Bool) (s : State) : (tapScan i tdi s).fuse = s.fuse :=
    by simp [tapScan, apply_ite State.fuse]

end Sys2Proof.Machine
end

