-- ==== Sys2Proof/Laws/Memory.lean ====
section
/-! SUPPORT. Every memory operation keeps the canonical form, and the memories of reset have it. -/

namespace Sys2Proof.Machine

theorem Memory.wf_init : Mtc.init.wf = true := rfl

theorem Memory.wf_reset : State.reset.mtc.wf = true := rfl

theorem putBytes_wf {m : List Host.Cell} (a : Nat) (l : List MByte) (h : Memory.wf m = true) : Memory.wf (putBytes m a l) = true :=
  swf_ssetRun a _ h

theorem putMarks_wf {p : Store Bool} (a : Nat) (l : List MByte) (h : Memory.marksWf p = true) :
    Memory.marksWf (putMarks p a l) = true := by
  unfold putMarks
  split
  · exact h
  · generalize List.range _ = is
    suffices ∀ q, Memory.marksWf q = true →
        Memory.marksWf (is.foldl (fun q i => sset false q (a / 8 + i) (markAfter p a l (a / 8 + i))) q) = true from this p h
    induction is with
    | nil => exact fun q hq => hq
    | cons i r ih => exact fun q hq => ih _ (swf_sset _ _ hq)

theorem markWords_wf {p : Store Bool} (l : List Nat) (h : Memory.marksWf p = true) : Memory.marksWf (markWords p l) = true := by
  unfold markWords
  induction l generalizing p with
  | nil => exact h
  | cons a r ih => exact ih (swf_sset _ _ h)

theorem Mtc.wf_iff (m : Mtc) : m.wf = true ↔ Memory.wf m.con = true ∧ Memory.marksWf m.conPoison = true ∧ Memory.wf m.stk = true ∧
    Memory.marksWf m.stkPoison = true ∧ swf YPage.init m.yard = true := by
  simp [Mtc.wf, Bool.and_eq_true, and_assoc]

/-- A fold of steps that each keep a property keeps it. -/
theorem foldl_holds {σ β : Type} (p : σ → Prop) (g : σ → β → σ) (l : List β) (s : σ) (h : ∀ s b, p s → p (g s b)) (hs : p s) :
    p (l.foldl g s) := by
  induction l generalizing s with
  | nil => exact hs
  | cons b r ih => exact ih _ (h _ _ hs)

theorem conWrite_wf (a : Nat) (l : List MByte) (s : State) (h : s.mtc.wf = true) : (conWrite a l s).mtc.wf = true := by
  rw [Mtc.wf_iff] at *
  exact ⟨putBytes_wf a l h.1, putMarks_wf a l h.2.1, h.2.2⟩

theorem partWrite_wf (p : Part) (x : Nat) (l : List MByte) (s : State) (h : s.mtc.wf = true) : (partWrite p x l s).mtc.wf = true :=
  foldl_holds (fun s : State => s.mtc.wf = true) _ _ _ (fun _ _ hs => conWrite_wf _ _ _ hs) h

theorem conPut_wf (t off : Nat) (l : List MByte) (s : State) (h : s.mtc.wf = true) : (conPut t off l s).mtc.wf = true :=
  partWrite_wf _ _ _ _ h

theorem zeroCon_wf (base size : Nat) (s : State) (h : s.mtc.wf = true) : (zeroCon base size s).mtc.wf = true := by
  rw [Mtc.wf_iff] at *
  exact ⟨swf_sclear _ _ h.1, swf_sclear _ _ h.2.1, h.2.2⟩

theorem swf_mapKeep {α : Type} [DecidableEq α] {d : α} {m : Store α} (f : Nat × α → Nat × α) (hf : ∀ e, (f e).1 = e.1)
    (h : swf d m = true) : swf d ((m.map f).filter (fun e => decide (e.2 ≠ d))) = true := by
  rw [swf_iff] at *
  refine ⟨(List.pairwise_map.mpr (h.1.imp (by intro a b hab; simpa [hf] using hab))).filter _, ?_⟩
  intro e he
  simpa using (List.mem_filter.mp he).2

theorem clearLoc_wf (m : Mtc) (l : Loc) (h : m.wf = true) : (m.clearLoc l).wf = true := by
  rw [Mtc.wf_iff] at *
  unfold Mtc.clearLoc
  split
  · refine ⟨h.1, h.2.1, h.2.2.1, h.2.2.2.1, swf_mapKeep _ ?_ h.2.2.2.2⟩
    intro e; dsimp only; (repeat' split) <;> rfl
  · exact ⟨h.1, h.2.1, swf_sclear _ _ h.2.2.1, swf_sclear _ _ h.2.2.2.1, h.2.2.2.2⟩

theorem msix_mtc (v : Nat) (s : State) : (msix v s).mtc = s.mtc := by
  unfold msix emit
  split <;> [rfl; split <;> rfl]

theorem noteBlock_mtc (c : BitVec 16) (t : Option Nat) (unit arg : Nat) (s : State) : (noteBlock c t unit arg s).mtc = s.mtc := by
  unfold noteBlock noteWin
  (repeat' split) <;> rfl

/-- Recording a code leaves every memory as it was. -/
theorem record_mtc (c : BitVec 16) (t : Option Nat) (unit arg addr : Nat) (s : State) : (record c t unit arg addr s).mtc = s.mtc := by
  unfold record
  split <;> simp [msix_mtc, noteBlock_mtc]

theorem noteFault_wf (m : Mtc) (c : BitVec 16) (t addr : Nat) (h : m.wf = true) : (m.noteFault c t addr).wf = true := by
  unfold Mtc.noteFault
  split <;> exact h

theorem tagResult_wf (t addr : Nat) (r : PageRead) (s : State) (h : s.mtc.wf = true) : (tagResult t addr r s).mtc.wf = true := by
  unfold tagResult
  dsimp only
  split
  · exact h
  · rw [record_mtc]
    exact noteFault_wf _ _ _ _ h

theorem writeLoc_wf (t : Nat) (l : Loc) (addr : Nat) (d : List MByte) (s : State) (h : s.mtc.wf = true) :
    (writeLoc t l addr d s).mtc.wf = true := by
  unfold writeLoc
  split
  · split
    · exact h
    · have h0 : (if d.length = 4096 then s else tagResult t addr (s.locPage t l addr [] []) s).mtc.wf = true := by
        split
        · exact h
        · exact tagResult_wf _ _ _ _ h
      dsimp only
      rw [Mtc.wf_iff] at *
      exact ⟨h0.1, h0.2.1, h0.2.2.1, h0.2.2.2.1, swf_sset _ _ h0.2.2.2.2⟩
  · rw [Mtc.wf_iff] at *
    exact ⟨h.1, h.2.1, putBytes_wf _ _ h.2.2.1, putMarks_wf _ _ h.2.2.2.1, h.2.2.2.2⟩

end Sys2Proof.Machine
end

