-- ==== Sys2Proof/WellFormed.lean ====
section
/-! DEFINITION. Which commands their senders can send: the bounds that the spec puts on a command's operands and that their types
do not say. `Sys2Proof.Machine.exec` answers any command; these bounds are where the spec's words give the command a sender. -/

namespace Sys2Proof

/-- A BAR0 access lies in the 64 MiB of the control window (R329, R332). -/
def barOk (off size : Nat) : Bool := decide (1 ≤ size) && decide (off + size ≤ 2 ^ 26)

/-- A register access: within one 32-bit word, or a 64-bit pair at a word boundary (R6). -/
def accessOk (off size : Nat) : Bool :=
  barOk off size && (decide (off % 4 + size ≤ 4) || (size == 8 && decide (off % 4 = 0)))

/-- A byte address of the 6 MiB siding of an array (chapter 3, before R63). -/
def sidingOk (a : Nat) : Bool := decide (a < 6 * 2 ^ 20)

/-- A word of the accumulator memory of eight tiles of 128 × 64 elements (R66). -/
def accWordOk (i : Nat) : Bool := decide (i < 65536)

/-- A slot of the safety link has 64 characters (R345). -/
def slotLenOk (l : List LineChar) : Bool := l.length == 64

/-- A flit has 256 bytes (R338). -/
def flitLenOk (b : Bytes) : Bool := b.length == 256

/-- A nonce has 32 bytes (R310, R314). -/
def nonceOk (n : Bytes) : Bool := n.length == 32

/-- A model address has 48 bits (R123). -/
def modelOk (a : Nat) : Bool := decide (a < 2 ^ 48)

/-- A page of the yard: 4 KiB, aligned (R212). -/
def yardAddrOk (a : Nat) : Bool := decide (a % 4096 = 0) && modelOk a

/-- A flit carries at most 236 bytes of payload (R338). -/
def payloadOk (p : Bytes) : Bool := decide (p.length ≤ 236)

/-- A level 1 or 2 move of at least one byte. -/
def moveOk : Move → Bool
  | .conToSid _ _ _ len => decide (0 < len)
  | .memToCon _ _ len => decide (0 < len)
  | .conToMem _ _ len => decide (0 < len)
  | .conPack _ _ slots => decide (0 < slots)
  | .conToKv _ _ _ _ _ n _ => decide (0 < n)
  | .conToPeer _ _ _ len => decide (0 < len)
  | .peerToCon _ _ _ len _ => decide (0 < len)

/-- What a kernel emits: leg descriptors of 64 bytes, at most 256 sequence lengths (R161, R164). -/
def emissionOk (e : Emission) : Bool := e.legs.all (fun d => d.length == 64) && decide (e.lengths.length ≤ 256)

/-- One MGT access: an offset of 31 bits beside its write bit (R322). -/
def mgtAccessOk (m : MgtAccess) : Bool := decide (m.off < 2 ^ 31)

/-- Eight yard channels are reported (chapter 1, its table of memories). -/
def channelsOk (c : List (Nat × Nat × Nat)) : Bool := c.length == 8

/-- A register of a tenant context that a binding write names: a word of its 32 KiB (R138). -/
def contextOffOk (off : Nat) : Bool := decide (off % 4 = 0) && decide (off < 2 ^ 15)

/-- A secret of a key slot has 32 bytes (R315). -/
def secretOk (k : Bytes) : Bool := k.length == 32

/-- A digest of the root of a certificate chain is a SHA-384 value (R312). -/
def chainOk (c : ChainResult) : Bool := c.rootDigest.length == 48

/-- The measure of parallel shares of the planner cores (R146). -/
def sharesOk (l : List Nat) : Bool := l.length == 4

/-- A patrol unit: 64 banks and 64 sidings (R216). -/
def patrolOk (u : Nat) : Bool := decide (u < 128)

/-- Exactly the commands that a sender of the spec can send; a command that is not named has operands whose types say it all. -/
def Instr.wf : Instr → Bool
  | .lowHalfReadLatch off size => accessOk off size
  | .registerWrite _ off _ size => accessOk off size
  | .unalignedAccess _ off size => barOk off size && !accessOk off size
  | .ldp _ _ ue => ue.all sidingOk
  | .mma _ _ ue _ => ue.all (fun e => accWordOk e.2)
  | .mmaz _ _ ue _ => ue.all (fun e => accWordOk e.2)
  | .drain _ _ ue _ sue => ue.all accWordOk && sue.all sidingOk
  | .stc _ _ ue => ue.all sidingOk
  | .ldv _ _ ue => ue.all sidingOk
  | .transferDescriptorComplete d _ => moveOk d.move
  | .dispatch _ _ _ _ e => emissionOk e
  | .bindingWrite _ off _ => contextOffOk off
  | .plannerBalance shares _ => sharesOk shares
  | .gather _ _ list _ rowBytes _ _ _ _ _ _ => modelOk list && decide (0 < rowBytes)
  | .yardPageWrite _ addr page => yardAddrOk addr && page.length == 4096
  | .yardPageRead _ addr _ _ _ => yardAddrOk addr
  | .stackedMemoryRead _ addr _ _ _ => modelOk addr
  | .patrolScrub unit _ _ _ => patrolOk unit
  | .instructionFetchMiss _ _ addr => modelOk addr
  | .armw _ _ _ _ _ exps => decide (exps.length ≤ 16)
  | .req _ f | .keep _ f | .receivedFrameDiscard _ f => slotLenOk f
  | .badFlit f => flitLenOk f
  | .getCertificate _ offset length => decide (offset < 65536) && decide (length < 65536)
  | .challenge _ nonce => nonceOk nonce
  | .getMeasurements _ nonce => nonceOk nonce
  | .keyExchange _ random exchange => nonceOk random && exchange.length == 96
  | .deliverEncapsulatedResponse _ chain => chainOk chain
  | .keyDeliver _ _ _ _ secret _ _ => secretOk secret
  | .mgtTlsHandshake chain _ _ => chainOk chain
  | .mgtRecord accesses => accesses.all mgtAccessOk && decide (accesses.length ≤ 512)
  | .hostWindowWrite _ _ data => decide (0 < data.length) && decide (data.length ≤ maxPayload)
  | .hostWindowRead _ _ len => decide (0 < len) && decide (len ≤ maxRead)
  | .wr _ p | .rdcpl _ p | .signal _ p | .grad _ p | .nak _ p | .credit _ p => payloadOk p
  | .bootDone bnonce => nonceOk bnonce
  | .trainDone _ channels _ _ => channelsOk channels
  | .bar0OversizeRead off size => barOk off size && decide (8 < size)
  | _ => true

end Sys2Proof
end

