-- ==== Sys2Proof/Tests/Slice0.lean ====
section
/-! SUPPORT. The model's own tests: ill-formed commands that the checks refuse; for every statement with hypotheses, a concrete state and
operands that meet them, clause by clause; and single steps on small states. -/

set_option Elab.async false

namespace Sys2Proof.Tests

open Sys2Proof.Machine

/-! ## Small states -/

/-- A device that serves: READY, a host attached. -/
def base : State :=
  { State.reset with
    glb := { Glb.init with
      st := .ready, porN := true, perstN := true, pllLocked := true, portUp := true, attached := true, verOk := true, sessionOk := true
      safeHoldN := true, devTime := 100000000000 }
    mtc := { Mtc.init with stkFree := 1000, yardFree := 1000, yardGiB := 64 } }

/-- A queue that runs with one slot to take and an open batch. -/
def qu : Queue := { Queue.init with enable := true, st := .idle, tail := 2, batch := some ⟨none, true, 0⟩ }

/-- A running tenant that holds array 63, pipeline 15, 64 MiB of the concourse, 16 granules and key slot 31. -/
def tn : Tenant :=
  { Tenant.init with st := .running, cls := 2, planner := 1, conSize := 64, ranges := [(0, ⟨0, 0, 16⟩)], bindAry := 0x8000000000000000,
                     bindAtp := 0x8000, bindKey := 0x80000000, queues := [(7, qu)] }

/-- States with a tenant 31, a queue 7 of it, an array 63, a DISPATCH. -/
def st (t : Tenant) : State := { base with ten := [(31, t)] }
def sq (q : Queue) : State := st { tn with queues := [(7, q)] }
def sa (x : Arr) : State := { st tn with ary := [(63, x)] }

/-- A bundle of operation codes by slot, and the slots of a bundle that wait. -/
def kur (l m v d c : Nat) (rest : Nat) : Cur :=
  ⟨BitVec.ofNat 256 (l * 2 ^ 236 + m * 2 ^ 172 + v * 2 ^ 122 + d * 2 ^ 76 + c * 2 ^ 28 + rest), true, true, true, true, true⟩
def ac (k : Cur) : Arr := { Arr.init with cur := some k, active := some 0, st := .run }

/-- A DISPATCH of tenant 31 from queue 7, with one image left for array 63 and one transfer. -/
def dp : Dispatch :=
  { id := 0, tenant := 31, q := 7, idx := 0, cls := 2, seed := 0, dseq := 1, kernel := 0, copy := none, arrays := 0x8000000000000000
    tiling := none, started := none, imagesLeft := [63], legsLeft := 0, descsLeft := 1, fault := none, discard := false, scales := []
    windows := [], amax := [], reads := [], images := [], packing := [], blocks1 := [], blocks2 := 0, kvWrites := [], peer := false
    usesLegs := false, usesMem := true }

/-- An image of one bundle with the CRC that R87 asks for. -/
def imgOf (b : Nat) : Bytes :=
  let raw := leBytes 4 0x54540096 ++ leBytes 4 0x11000 ++ List.replicate 184 0 ++ leBytes 32 b
  raw.take 60 ++ leBytes 4 (imgCrc raw) ++ raw.drop 64

/-- The bundle that only halts. -/
def haltBundle : Nat := 5 * 2 ^ 28

/-- Premises that one decision meets, before others. -/
theorem and3 {a b c r : Prop} (h : a ∧ b ∧ c) (k : r) : a ∧ b ∧ c ∧ r := ⟨h.1, h.2.1, h.2.2, k⟩
theorem and6 {a b c d e f r : Prop} (h : a ∧ b ∧ c ∧ d ∧ e ∧ f) (k : r) : a ∧ b ∧ c ∧ d ∧ e ∧ f ∧ r :=
  and3 ⟨h.1, h.2.1, h.2.2.1⟩ (and3 h.2.2.2 k)

/-- A result that is not an error, taken out of it. -/
def okOf {ε α : Type} (d : α) (x : Except ε α) : α := match x with | .ok v => v | .error _ => d
theorem ok_get {ε α : Type} {d : α} {x : Except ε α} (h : x.isOk = true) : x = .ok (okOf d x) := by
  cases x with
  | ok v => rfl
  | error e => simp [Except.isOk, Except.toBool] at h
theorem ok_pair {ε α β : Type} {d : α × β} {x : Except ε (α × β)} (h : x.isOk = true) : x = .ok ((okOf d x).1, (okOf d x).2) := by
  cases x with
  | ok v => rfl
  | error e => simp [Except.isOk, Except.toBool] at h
theorem some_get {α : Type} {d : α} {x : Option α} (h : x.isSome = true) : x = some (x.getD d) := by
  cases x with
  | some v => rfl
  | none => cases h
def errOf {ε α : Type} (x : Except ε α) : Option ε := match x with | .ok _ => none | .error e => some e
theorem err_get {ε α : Type} {e : ε} {x : Except ε α} (h : errOf x = some e) : x = .error e := by
  cases x with
  | ok v => cases h
  | error f => cases h; rfl
def isOkOf {ε α : Type} [DecidableEq α] (x : Except ε α) (v : α) : Bool := match x with | .ok w => w = v | .error _ => false
theorem ok_is {ε α : Type} [DecidableEq α] {x : Except ε α} {v : α} (h : isOkOf x v = true) : x = .ok v := by
  cases x with
  | ok w => simp [isOkOf] at h; rw [h]
  | error f => cases h

/-- Bytes put at a model address of tenant 31. -/
def put (addr : Nat) (b : Bytes) (s : State) : State := okOf s (modelWrite 31 addr (unmarked b) s)

/-- A page list at model address 0 with four entries of size code `psize` at most, its frames from granule 1 on. -/
def hdr (form psize length tokens : Nat) : Bytes :=
  [length * 65536, 2 ^ 31 + form * 2 ^ 20 + psize * 2 ^ 16 + 31 * 256, tokens, 0, 4 * 65536, 1, 8, 1, 0, 0, 16, 0].flatMap (leBytes 4)

/-- Its sequence, open as handle 0xFFFF. -/
def kvSt (v : KvSeq) (form psize length tokens : Nat) : State :=
  { put 0 (hdr form psize length tokens) (sq qu) with kv := ⟨[(31 * 65536 + 65535, some v)], [], 0⟩ }

/-- A tenant with a memory key, and its granules 0 to 15 as a map says. -/
def gm (l : List (Nat × GState)) (moves : List GMove) : State :=
  let s := st { tn with mkSlot := some 31 }
  { s with mtc := { s.mtc with map := l.map (fun e => (31 * 2 ^ 27 + e.1, ⟨e.2, 0, 0⟩)), moves := moves } }

/-- A weight copy 3 in a state, with one shard of an erased depot unit. -/
def sh (digest : Bytes) (accepted : Bool) : Shard := ⟨0, 32, 0, 0, digest, accepted, false, none⟩
def ones : Bytes := List.replicate 32 0xFF
def cp (c : CopyState) (l : List Shard) : Tenant := { tn with copies := [(3, { Copy.init with st := c, shards := l })] }

/-- A depot whose sector 0 is programmed under key slot 31, its first unit a filler. -/
def fl : Dep := { Dep.init with sectors := [(0, { Sector.init with wptr := 1, kslot := 31 })], units := [(unitKey 0 0, some .filler)] }

/-- A host port of the depot in a state, with sector 0 open for programs and its key in slot 31. -/
def pt (v : WscP) : State :=
  { gm [(0, .stacked 0)] [] with
    dep := { Dep.init with host := v, sectors := [(0, { Sector.init with wp := false })] }
    sec := { Sec.init with slots := [(31, ⟨true, false, List.replicate 32 0, none, 1⟩)] } }

/-- A die 15 in a state. -/
def di (x : Die) : State := { base with dep := { Dep.init with dies := [(15, x)] } }

/-- A frame with a good CRC: type, the byte of XID and lane, SEQ, FRAG, NFRAG, LINKSEQ (R291). -/
def frm (ty b1 seq frag nfrag lseq : Nat) : Bytes :=
  let b := [ty, b1].flatMap (leBytes 1) ++ leBytes 2 seq ++ [frag, nfrag].flatMap (leBytes 1) ++ leBytes 2 lseq ++ List.replicate 52 0
  b ++ leBytes 4 (crc32c b)

/-- Express: an index 3 of tenant 31 on the pair of arrays 62 and 63, and a spare pair of arrays 0 and 1. -/
def xt : XTable := { XTable.init with pairs := 1, steps := 1, reqFrags := 255, resFrags := 1, part := 1 }
def xi : Xid := { Xid.init with st := .idle, tenant := 31, table := xt, roles := [(62, 63)], size := 1, base := 0, mbase := 192 }
def xp : Xpr :=
  { Xpr.init with
    spareValid := true, spareReady := true, spa := 0, spb := 1
    laneA := { LaneSt.init with aligned := true }, laneB := { LaneSt.init with aligned := true } }
def xs (v : Xid) (x : Xpr) (ary : List (Nat × Arr)) : State :=
  { st { tn with cls := 1 } with xpr := { x with xids := [(3, v)] }, ary := ary }

/-- The tenant that arms: two arrays, an armed express copy whose table is at model address 0. -/
def xa : Tenant :=
  { tn with cls := 1, bindAry := 0xC000000000000000, copies := [(3, { Copy.init with st := .armed, express := true })] }
def xtab : Bytes :=
  leBytes 4 0x58500096 ++ [1, 1].flatMap (leBytes 1) ++ leBytes 2 100 ++ leBytes 4 592000 ++ leBytes 4 102400 ++
    [1, 1, 1].flatMap (leBytes 1) ++ List.replicate 173 0

/-- The device block, the security engine, the management port, the windows changed in a device that serves. -/
def sg (f : Glb → Glb) : State := { base with glb := f base.glb }
def se (x : Sec) : State := { st tn with sec := x }
def mg (x : Mgt) : State := { base with mgt := x }
def wn (x : Win) : State := { st tn with win := x }

/-- A session at a stage, and an open window of tenant 31 on 63 pages and one more. -/
def ses (x : SessStage) : Sec := { Sec.init with conn := 3, hostRoot := some ones, sessions := [⟨7, x, true, 0⟩] }
def wi : Window := ⟨true, false, 3, 31, 63, 0, none⟩
/-- A window that closes, and its WINCLOSE at queue 7. -/
def wc : Window := { wi with open_ := false, closing := true, closer := some (7, 0) }
def up : Win := { Win.init with link := .up, credits0 := 1, credits1 := 1, peerW := [(63, wi)] }
/-- A flit's header for window 63. -/
def fh (mlen : BitVec 13) (offset : BitVec 30) : FlitHdr := ⟨true, false, true, true, 0, false, 0, 63, 255, offset, mlen⟩
def rd : PeerRead := ⟨0, 0, 236, [], [5]⟩

/-- A wrapped blob's header under given flags, and ciphertext. -/
def hd0 (fl : BitVec 8) : Bytes := [0x42, 0x4B, 0x01, fl] ++ List.replicate 12 0
def c0 : Bytes := List.replicate 129 0
/-- What the wrapping key of a state makes of them: the tag, and the plaintext. -/
def tag0 (s : State) (fl : BitVec 8) : Bytes := gcmTag (aesKeys s.wrapKey) (List.replicate 12 0) (hd0 fl) c0
def plain0 (s : State) : Bytes := gcmCtr (aesKeys s.wrapKey) (List.replicate 12 0) c0
def blob0 (s : State) (fl : BitVec 8) : Bytes := hd0 fl ++ (c0 ++ tag0 s fl)
theorem unwrap_blob0 (s : State) (fl : BitVec 8) (h : (tag0 s fl).length = 16) :
    s.unwrap (blob0 s fl) = some ((plain0 s).take 32, if fl.getLsbD 0 then some ((plain0 s).drop 32) else none) := by
  have e1 : (blob0 s fl).take 16 = hd0 fl := List.take_left' rfl
  have e2 : (blob0 s fl).drop 16 = c0 ++ tag0 s fl := List.drop_left' rfl
  have e3 : (c0 ++ tag0 s fl).take 129 = c0 := List.take_left' rfl
  have e4 : (blob0 s fl).drop 145 = tag0 s fl := by
    unfold blob0; rw [← List.append_assoc]; exact List.drop_left' rfl
  have e5 : (blob0 s fl).length = 161 := by
    unfold blob0 hd0 c0
    simp only [List.length_append, List.length_replicate, List.length_cons, List.length_nil, h]
  have e6 : (hd0 fl).drop 4 = List.replicate 12 0 := rfl
  unfold State.unwrap
  rw [e1, e2, e3, e4, e5]
  dsimp only
  rw [e6]
  have e7 : ((161 : Nat) == 161 && (hd0 fl).take 3 == [0x42, 0x4B, 0x01] &&
    gcmTag (aesKeys s.wrapKey) (List.replicate 12 0) (hd0 fl) c0 == tag0 s fl) = true := by
    rw [Bool.and_eq_true]; exact ⟨rfl, BEq.rfl⟩
  rw [e7]; rfl

theorem test_premises_IdleSlotsAndIndexOperations :
  (∃ (a : Ary) (s : State) (k : Cur), SlotWaits (s.arr a) k Cur.l lOp 0) ∧
  (∃ (a : Ary) (s : State) (k : Cur), SlotWaits (s.arr a) k Cur.m mOp 0) ∧
  (∃ (a : Ary) (s : State) (k : Cur), SlotWaits (s.arr a) k Cur.v vOp 0) ∧
  (∃ (a : Ary) (s : State) (k : Cur), SlotWaits (s.arr a) k Cur.d dOp 0) ∧
  (∃ (a : Ary) (s : State) (k : Cur), SlotWaits (s.arr a) k Cur.c cOp 0) :=
  ⟨⟨63, sa (ac (kur 0 0 0 0 0 0)), kur 0 0 0 0 0 0, by unfold SlotWaits; decide⟩,
   ⟨63, sa (ac (kur 0 0 0 0 0 0)), kur 0 0 0 0 0 0, by unfold SlotWaits; decide⟩,
   ⟨63, sa (ac (kur 0 0 0 0 0 0)), kur 0 0 0 0 0 0, by unfold SlotWaits; decide⟩,
   ⟨63, sa (ac (kur 0 0 0 0 0 0)), kur 0 0 0 0 0 0, by unfold SlotWaits; decide⟩,
   ⟨63, sa (ac (kur 0 0 0 0 0 0)), kur 0 0 0 0 0 0, by unfold SlotWaits; decide⟩⟩

theorem test_premises_LoadSlotOperations :
  (∃ (a : Ary) (s : State) (k : Cur),
    let x := s.arr a
    let b := k.bundle.toNat
    SlotWaits x k Cur.l lOp 1 ∧ ∃ c, ldpStop x (makeLdp x b) = some c) ∧
  (∃ (a : Ary) (s : State) (k : Cur),
    let x := s.arr a
    let b := k.bundle.toNat
    SlotWaits x k Cur.l lOp 1 ∧ ldpStop x (makeLdp x b) = none) ∧
  (∃ (a : Ary) (s : State) (k : Cur),
    let x := s.arr a
    let b := k.bundle.toNat
    let sid := (x.ir (lSreg b)).toNat
    let con := (x.ir (lCreg b)).toNat
    let n := 32 * lLen b
    SlotWaits x k Cur.l lOp 2 ∧ ∃ c, moveStop x (s.part a) false sid con n = some c) ∧
  (∃ (a : Ary) (s : State) (k : Cur),
    let x := s.arr a
    let b := k.bundle.toNat
    let sid := (x.ir (lSreg b)).toNat
    let con := (x.ir (lCreg b)).toNat
    let n := 32 * lLen b
    SlotWaits x k Cur.l lOp 2 ∧ moveStop x (s.part a) false sid con n = none) ∧
  (∃ (a : Ary) (s : State) (k : Cur),
    let x := s.arr a
    let b := k.bundle.toNat
    let sid := (x.ir (lSreg b)).toNat
    let con := (x.ir (lCreg b)).toNat
    let n := 32 * lLen b
    SlotWaits x k Cur.l lOp 3 ∧ ∃ c, moveStop x (s.part a) true sid con n = some c) ∧
  (∃ (a : Ary) (s : State) (k : Cur),
    let x := s.arr a
    let b := k.bundle.toNat
    let sid := (x.ir (lSreg b)).toNat
    let con := (x.ir (lCreg b)).toNat
    let n := 32 * lLen b
    SlotWaits x k Cur.l lOp 3 ∧ moveStop x (s.part a) true sid con n = none) ∧
  (∃ (a : Ary) (s : State) (k : Cur),
    let x := s.arr a
    let b := k.bundle.toNat
    let vsid := (x.ir (lAreg b)).toNat
    let vn := if lVfmt b = 0 then 256 else 128
    SlotWaits x k Cur.l lOp 4 ∧ ∃ c, vecStop x vsid vn = some c) ∧
  (∃ (a : Ary) (s : State) (k : Cur),
    let x := s.arr a
    let b := k.bundle.toNat
    let vsid := (x.ir (lAreg b)).toNat
    let vn := if lVfmt b = 0 then 256 else 128
    SlotWaits x k Cur.l lOp 4 ∧ vecStop x vsid vn = none) ∧
  (∃ (a : Ary) (s : State) (k : Cur),
    let x := s.arr a
    let b := k.bundle.toNat
    let vsid := (x.ir (lAreg b)).toNat
    let vn := if lVfmt b = 0 then 256 else 128
    SlotWaits x k Cur.l lOp 5 ∧ ∃ c, vecStop x vsid vn = some c) ∧
  (∃ (a : Ary) (s : State) (k : Cur),
    let x := s.arr a
    let b := k.bundle.toNat
    let vsid := (x.ir (lAreg b)).toNat
    let vn := if lVfmt b = 0 then 256 else 128
    SlotWaits x k Cur.l lOp 5 ∧ vecStop x vsid vn = none) :=
  ⟨⟨63, sa ({ ac (kur 1 0 0 0 0 0) with ldpFree := 1 }), kur 1 0 0 0 0 0, by unfold SlotWaits; decide, 0x2109, by decide⟩,
   ⟨63, sa (ac (kur 1 0 0 0 0 0)), kur 1 0 0 0 0 0, by unfold SlotWaits; decide, by decide⟩,
   ⟨63, sa ({ ac (kur 2 0 0 0 0 (1 * 2 ^ 231)) with ireg := [(1, 0x600000)] }), kur 2 0 0 0 0 (1 * 2 ^ 231),
    by unfold SlotWaits; decide, 0x210A, by decide⟩,
   ⟨63, sa ({ ac (kur 2 0 0 0 0 (1 * 2 ^ 226)) with ireg := [(1, 67108832)] }), kur 2 0 0 0 0 (1 * 2 ^ 226),
    by unfold SlotWaits; decide, by decide⟩,
   ⟨63, sa ({ ac (kur 3 0 0 0 0 (1 * 2 ^ 226)) with ireg := [(1, 67108833)] }), kur 3 0 0 0 0 (1 * 2 ^ 226),
    by unfold SlotWaits; decide, 0x210B, by decide⟩,
   ⟨63, sa ({ ac (kur 3 0 0 0 0 (1 * 2 ^ 231)) with ireg := [(1, 6291424)] }), kur 3 0 0 0 0 (1 * 2 ^ 231),
    by unfold SlotWaits; decide, by decide⟩,
   ⟨63, sa ({ ac (kur 4 0 0 0 0 (1 * 2 ^ 226)) with ireg := [(1, 6291201)] }), kur 4 0 0 0 0 (1 * 2 ^ 226),
    by unfold SlotWaits; decide, 0x210A, by decide⟩,
   ⟨63, sa ({ ac (kur 4 0 0 0 0 (1 * 2 ^ 226)) with ireg := [(1, 6291200)] }), kur 4 0 0 0 0 (1 * 2 ^ 226),
    by unfold SlotWaits; decide, by decide⟩,
   ⟨63, sa ({ ac (kur 5 0 0 0 0 (1 * 2 ^ 226)) with ireg := [(1, 6291201)] }), kur 5 0 0 0 0 (1 * 2 ^ 226),
    by unfold SlotWaits; decide, 0x210A, by decide⟩,
   ⟨63, sa ({ ac (kur 5 0 0 0 0 (1 * 2 ^ 226)) with ireg := [(1, 6291200)] }), kur 5 0 0 0 0 (1 * 2 ^ 226),
    by unfold SlotWaits; decide, by decide⟩⟩

theorem test_premises_BundlesMovesAndHolds :
  (∃ (a : Ary) (s : State),
    let x := s.arr a
    x.st = .run ∧ x.holds = [] ∧ x.active.isSome = true ∧ x.wait = .none ∧ x.curDone = true ∧
    (x.stopHere = false ∨ x.quiesce = false) ∧ (∀ m ∈ x.moves, x.nextIssue < m.due) ∧ x.cyc ≤ x.nextIssue ∧
    (x.segNew = true ∨ x.segCount + (x.nextIssue - x.cyc) < x.segLimit.toNat) ∧ s.heldBack a = false ∧ s.cutShort a = false ∧
    s.pairAllows true a x.nextIssue = true ∧ (∀ h ∈ x.dueHolds, x.nextIssue < h.cycle)) ∧
  (∃ (a : Ary) (s : State),
    let x := s.arr a
    x.st = .run ∧ x.holds = [] ∧ x.active.isSome = true ∧ x.wait = .none ∧ x.curDone = true ∧
    (x.stopHere = false ∨ x.quiesce = false) ∧ (∀ m ∈ x.moves, x.nextIssue < m.due) ∧ x.cyc ≤ x.nextIssue ∧
    (x.segNew = true ∨ x.segCount + (x.nextIssue - x.cyc) < x.segLimit.toNat) ∧ s.heldBack a = false ∧ s.cutShort a = false ∧
    s.pairAllows true a x.nextIssue = true ∧ ∃ n, x.firstDue x.nextIssue = some n) ∧
  (∃ (a : Ary) (s : State) (m : MoveOp),
    let x := s.arr a
    x.moves.find? (fun v => v.id == m.id) = some m ∧ x.holds = [] ∧ x.syncs = []) ∧
  (∃ (a : Ary) (s : State) (m : MoveOp),
    let x := s.arr a
    x.moves.find? (fun v => v.id == m.id) = some m ∧ x.cyc = m.due ∧ x.holds = [] ∧ x.paired = false ∧
    (∀ g ∈ x.dueHolds, m.due < g.cycle)) ∧
  (∃ (a : Ary) (s : State) (h : Hold),
    let x := s.arr a
    x.holds = [h] ∧ (h.src = .sidCe ∨ h.src = .accCe ∨ h.src = .portBp) ∧ x.paired = false) :=
  ⟨⟨63, sa ({ Arr.init with st := .run, active := some 0, slot0 := ⟨.running, imgOf haltBundle, none, 0⟩, nextIssue := 3 }),
    by decide⟩,
   ⟨63,
    sa ({ Arr.init with st := .run, active := some 0, slot0 := ⟨.running, imgOf haltBundle, none, 0⟩, dueHolds := [⟨2, .sidCe, some 5⟩], nextIssue := 3 }),
    and6 (by decide) (and6 (by decide) ⟨2, by decide⟩)⟩,
   ⟨63, sa ({ Arr.init with st := .run, moves := [⟨5, .ldc, 0, 49, 0, 0, 32, 0, 0, [], false⟩] }),
    ⟨5, .ldc, 0, 49, 0, 0, 32, 0, 0, [], false⟩, by decide⟩,
   ⟨63, sa ({ Arr.init with st := .run, cyc := 49, moves := [⟨5, .ldc, 0, 49, 0, 0, 32, 0, 0, [], false⟩] }),
    ⟨5, .ldc, 0, 49, 0, 0, 32, 0, 0, [], false⟩, by decide⟩,
   ⟨63, sa ({ Arr.init with st := .hold, holds := [⟨.sidCe, some 2⟩] }), ⟨.sidCe, some 2⟩, by decide⟩⟩

theorem test_premises_MatrixOperationsTakeTheGrid :
  (∃ (a : Ary) (s : State) (k : Cur),
    let x := s.arr a
    SlotWaits x k Cur.m mOp 1 ∧ x.cyc < x.gridFree) ∧
  (∃ (a : Ary) (s : State) (k : Cur),
    let x := s.arr a
    SlotWaits x k Cur.m mOp 1 ∧ x.gridFree ≤ x.cyc) ∧
  (∃ (a : Ary) (s : State) (k : Cur),
    let x := s.arr a
    SlotWaits x k Cur.m mOp 2 ∧ x.cyc < x.gridFree) ∧
  (∃ (a : Ary) (s : State) (k : Cur),
    let x := s.arr a
    SlotWaits x k Cur.m mOp 2 ∧ x.gridFree ≤ x.cyc) :=
  ⟨⟨63, sa ({ ac (kur 0 1 0 0 0 0) with gridFree := 1 }), kur 0 1 0 0 0 0, by unfold SlotWaits; decide, by decide⟩,
   ⟨63, sa (ac (kur 0 1 0 0 0 (7 * 2 ^ 169))), kur 0 1 0 0 0 (7 * 2 ^ 169), by unfold SlotWaits; decide, by decide⟩,
   ⟨63, sa ({ ac (kur 0 2 0 0 0 0) with gridFree := 1 }), kur 0 2 0 0 0 0, by unfold SlotWaits; decide, by decide⟩,
   ⟨63, sa (ac (kur 0 2 0 0 0 0)), kur 0 2 0 0 0 0, by unfold SlotWaits; decide, by decide⟩⟩

theorem test_premises_DrainTakesTheDrainUnit :
  (∃ (a : Ary) (s : State) (k : Cur),
    let x := s.arr a
    SlotWaits x k Cur.d dOp 1 ∧ x.cyc < x.drainFree) ∧
  (∃ (a : Ary) (s : State) (k : Cur),
    let x := s.arr a
    let b := k.bundle.toNat
    SlotWaits x k Cur.d dOp 1 ∧ x.drainFree ≤ x.cyc ∧ x.chainOk.getLsbD (dChain b) = false) ∧
  (∃ (a : Ary) (s : State) (k : Cur) (ue : List Nat),
    let x := s.arr a
    let b := k.bundle.toNat
    let d := makeDrain a s x b ue
    let gates : Prop := ∀ g ∈ d.body, g.op = 7 → bitsOf g.arg.toNat 2 0 < x.liveAcc.toNat
    SlotWaits x k Cur.d dOp 1 ∧ x.drainFree ≤ x.cyc ∧ x.chainOk.getLsbD (dChain b) = true ∧ (¬gates)) ∧
  (∃ (a : Ary) (s : State) (k : Cur) (ue : List Nat),
    let x := s.arr a
    let b := k.bundle.toNat
    let d := makeDrain a s x b ue
    let gates : Prop := ∀ g ∈ d.body, g.op = 7 → bitsOf g.arg.toNat 2 0 < x.liveAcc.toNat
    SlotWaits x k Cur.d dOp 1 ∧ x.drainFree ≤ x.cyc ∧ x.chainOk.getLsbD (dChain b) = true ∧ gates ∧
    (∃ r ∈ d.reach, 6 * 2 ^ 20 < r)) ∧
  (∃ (a : Ary) (s : State) (k : Cur) (ue : List Nat),
    let x := s.arr a
    let b := k.bundle.toNat
    let d := makeDrain a s x b ue
    let gates : Prop := ∀ g ∈ d.body, g.op = 7 → bitsOf g.arg.toNat 2 0 < x.liveAcc.toNat
    SlotWaits x k Cur.d dOp 1 ∧ x.drainFree ≤ x.cyc ∧ x.chainOk.getLsbD (dChain b) = true ∧ gates ∧
    (∀ r ∈ d.reach, r ≤ 6 * 2 ^ 20)) :=
  ⟨⟨63, sa ({ ac (kur 0 0 0 1 0 0) with drainFree := 1 }), kur 0 0 0 1 0 0, by unfold SlotWaits; decide, by decide⟩,
   ⟨63, sa (ac (kur 0 0 0 1 0 (7 * 2 ^ 70))), kur 0 0 0 1 0 (7 * 2 ^ 70), by unfold SlotWaits; decide, by decide⟩,
   ⟨63, sa ({ ac (kur 0 0 0 1 0 (7 * 2 ^ 70)) with chainOk := 0x80, chains := [(7, [⟨7, 0⟩, ⟨0xF, 0⟩])] }),
    kur 0 0 0 1 0 (7 * 2 ^ 70), [], by unfold SlotWaits; decide, by decide⟩,
   ⟨63, sa ({ ac (kur 0 0 0 1 0 (7 * 2 ^ 70 + 2 ^ 56)) with chainOk := 0x80, ireg := [(4, 0x600000)] }),
    kur 0 0 0 1 0 (7 * 2 ^ 70 + 2 ^ 56), [], by unfold SlotWaits; decide, by decide⟩,
   ⟨63, sa ({ ac (kur 0 0 0 1 0 (7 * 2 ^ 70 + 2 ^ 56)) with chainOk := 0x80, ireg := [(4, 0x5FFFFC)] }),
    kur 0 0 0 1 0 (7 * 2 ^ 70 + 2 ^ 56), [], by unfold SlotWaits; decide, by decide⟩⟩

theorem test_premises_ControlSlotOperations :
  (∃ (a : Ary) (s : State) (k : Cur),
    let x := s.arr a
    SlotWaits x k Cur.c cOp 1) ∧
  (∃ (a : Ary) (s : State) (k : Cur),
    let x := s.arr a
    SlotWaits x k Cur.c cOp 2) ∧
  (∃ (a : Ary) (s : State) (k : Cur),
    let x := s.arr a
    let b := k.bundle.toNat
    SlotWaits x k Cur.c cOp 3 ∧ x.paired = false ∧ cCount b ≤ (sget 0 x.tq (cQ b)).toNat) ∧
  (∃ (a : Ary) (s : State) (k : Cur),
    let x := s.arr a
    let b := k.bundle.toNat
    SlotWaits x k Cur.c cOp 3 ∧ (x.paired = true ∨ (sget 0 x.tq (cQ b)).toNat < cCount b)) ∧
  (∃ (a : Ary) (s : State) (k : Cur),
    let x := s.arr a
    SlotWaits x k Cur.c cOp 4 ∧
    let stcs := (x.moves.filter (fun m => m.kind == .stc)).map (·.id)
    stcs ≠ [] ∧ x.syncs = []) ∧
  (∃ (a : Ary) (s : State) (k : Cur),
    let x := s.arr a
    let b := k.bundle.toNat
    SlotWaits x k Cur.c cOp 4 ∧
    let stcs := (x.moves.filter (fun m => m.kind == .stc)).map (·.id)
    ∃ (t : Ten), stcs = [] ∧ x.syncs = [] ∧ x.st = .run ∧ s.aryTenant a = some t.val ∧ s.spareOf a = none ∧
    let bar := (s.tenant t).barrier (cBar b)
    let came := bar.arrivals ++ [⟨a, cN b, x.fp, x.fpPoison, cNowait b, x.cyc⟩]
    bar.full = false ∧ (∀ v ∈ bar.arrivals, v.n = cN b) ∧ (came.length < cN b ∨ s.tenantXid t = none)) ∧
  (∃ (a : Ary) (s : State) (k : Cur),
    let x := s.arr a
    let b := k.bundle.toNat
    SlotWaits x k Cur.c cOp 4 ∧
    let stcs := (x.moves.filter (fun m => m.kind == .stc)).map (·.id)
    ∃ (t : Ten), stcs = [] ∧ x.syncs = [] ∧ x.st = .run ∧ s.aryTenant a = some t.val ∧ s.spareOf a = none ∧
    let bar := (s.tenant t).barrier (cBar b)
    bar.full = false ∧ (∃ v ∈ bar.arrivals, v.n ≠ cN b)) ∧
  (∃ (a : Ary) (s : State) (k : Cur),
    let x := s.arr a
    SlotWaits x k Cur.c cOp 5) :=
  ⟨⟨63, sa (ac (kur 0 0 0 0 1 (2 ^ 23))), kur 0 0 0 0 1 (2 ^ 23), by unfold SlotWaits; decide⟩,
   ⟨63, sa (ac (kur 0 0 0 0 2 0)), kur 0 0 0 0 2 0, by unfold SlotWaits; decide⟩,
   ⟨63, sa ({ ac (kur 0 0 0 0 3 (15 * 2 ^ 24 + 2 ^ 12)) with tq := [(15, 1)] }), kur 0 0 0 0 3 (15 * 2 ^ 24 + 2 ^ 12),
    by unfold SlotWaits; decide, by decide⟩,
   ⟨63, sa (ac (kur 0 0 0 0 3 (15 * 2 ^ 24 + 2 ^ 12))), kur 0 0 0 0 3 (15 * 2 ^ 24 + 2 ^ 12), by unfold SlotWaits; decide,
    by decide⟩,
   ⟨63, sa ({ ac (kur 0 0 0 0 4 0) with moves := [⟨5, .stc, 0, 49, 0, 0, 32, 0, 0, [], false⟩] }), kur 0 0 0 0 4 0,
    by unfold SlotWaits; decide, by decide⟩,
   ⟨63,
    { st { tn with barriers := [(0, ⟨[⟨62, 2, 0, false, false, 0⟩], false⟩)] } with ary := [(63, ac (kur 0 0 0 0 4 (2 ^ 18)))] },
    kur 0 0 0 0 4 (2 ^ 18), by unfold SlotWaits; decide, 31, and6 (by decide) ⟨by decide, .inr (by decide)⟩⟩,
   ⟨63,
    { st { tn with barriers := [(0, ⟨[⟨62, 3, 0, false, false, 0⟩], false⟩)] } with ary := [(63, ac (kur 0 0 0 0 4 (2 ^ 18)))] },
    kur 0 0 0 0 4 (2 ^ 18), by unfold SlotWaits; decide, 31, by decide, by decide, by decide, by decide, by decide, by decide⟩,
   ⟨63, sa (ac (kur 0 0 0 0 5 0)), kur 0 0 0 0 5 0, by unfold SlotWaits; decide⟩⟩

theorem test_premises_TimetableImagesLive :
  (∃ (a : Ary) (s : State) (slot : Fin 2),
    let x := s.arr a
    let sl := x.slot slot
    (sl.st = .empty ∨ sl.st = .rejected) ∧ x.st ≠ .scrub) ∧
  (∃ (a : Ary) (s : State) (slot : Fin 2) (img : Bytes) (d : Dispatch),
    let x := s.arr a
    let sl := x.slot slot
    (sl.st = .empty ∨ sl.st = .rejected) ∧ x.st ≠ .scrub ∧ s.dispatch? d.id = some d ∧ d.discard = false ∧
    s.aryTenant a = some d.tenant ∧ x.awaitsImage a d = true ∧ (d.tiling = none ∨ img = sget [] d.images a)) ∧
  (∃ (a : Ary) (s : State) (slot : Fin 2),
    let x := s.arr a
    let sl := x.slot slot
    sl.st = .checking ∧ checkImage sl.img (s.aryExpress a) = none) ∧
  (∃ (a : Ary) (s : State) (slot : Fin 2),
    let x := s.arr a
    let sl := x.slot slot
    sl.st = .checking ∧ ∃ c, checkImage sl.img (s.aryExpress a) = some c ∧ sl.disp = none) ∧
  (∃ (a : Ary) (s : State) (slot : Fin 2),
    let x := s.arr a
    let sl := x.slot slot
    s.nextImage a = some slot ∧ sl.disp = none ∧ x.active = none ∧ s.memberOf a = none ∧ s.spareOf a = none ∧ x.quiesce = false ∧
    x.st ≠ .scrub ∧ x.st ≠ .paused) ∧
  (∃ (a : Ary) (s : State) (slot : Fin 2),
    let x := s.arr a
    x.wait = .halted ∧ x.active = some slot ∧ x.moves = [] ∧ x.syncs = [] ∧ x.disp = none ∧ s.memberOf a = none ∧
    s.spareOf a = none ∧ s.canPass a (x.lastBusy + 1) = true ∧ (∀ h ∈ x.dueHolds, x.lastBusy + 1 < h.cycle)) :=
  ⟨⟨63, sa (Arr.init), 1, by decide⟩,
   ⟨63, { sa Arr.init with disp := [dp] }, 1, [], dp, by decide⟩,
   ⟨63, sa ({ Arr.init with slot1 := ⟨.checking, imgOf haltBundle, none, 0⟩ }), 1, by decide +kernel⟩,
   ⟨63, sa ({ Arr.init with slot1 := ⟨.checking, [], none, 0⟩ }), 1, by decide +kernel, 0x2107, by decide +kernel⟩,
   ⟨63, sa ({ Arr.init with st := .loaded, slot1 := ⟨.ready, [], none, 0⟩ }), 1, by decide⟩,
   ⟨63, sa ({ Arr.init with st := .run, wait := .halted, active := some 1 }), 1, by decide⟩⟩

theorem test_premises_WaitsSegmentsAndStretches :
  (∃ (a : Ary) (s : State) (q n : Nat),
    let x := s.arr a
    x.wait = .waitq q n ∧ n ≤ (sget 0 x.tq q).toNat ∧ x.holds = [] ∧ s.heldBack a = false ∧ x.paired = false) ∧
  (∃ (a : Ary) (s : State) (q n : Nat),
    let x := s.arr a
    x.wait = .waitq q n ∧ n ≤ (sget 0 x.tq q).toNat ∧ x.holds = [] ∧ s.heldBack a = false ∧ ∃ (p q' n' : Nat), x.paired = true ∧
    x.partner.toNat = p ∧ p ≠ a ∧ (s.arr p).wait = .waitq q' n' ∧ n' ≤ (sget 0 (s.arr p).tq q').toNat ∧ (s.arr p).holds = [] ∧
    s.heldBack p = false) ∧
  (∃ (s : State) (t : Ten) (bar : Fin 16), ((s.tenant t).barrier bar).full = true ∧ s.tenantXid t = none) ∧
  (∃ (a : Ary) (s : State),
    let x := s.arr a
    let left := x.segLimit.toNat - x.segCount
    x.active.isSome = true ∧ x.segNew = false ∧ x.curDone = true ∧ s.heldBack a = false ∧ x.st = .run ∧ x.holds = [] ∧
    x.wait ≠ .none ∧ (∀ m ∈ x.moves, x.cyc + left ≤ m.due) ∧ (∀ h ∈ x.dueHolds, x.cyc + left < h.cycle)) ∧
  (∃ (a : Ary) (s : State),
    let x := s.arr a
    x.active.isSome = true ∧ x.segNew = false ∧ x.curDone = true ∧ s.heldBack a = false ∧ x.st = .hold ∧ x.holds ≠ [] ∧
    x.paired = false) ∧
  (∃ (a : Ary) (s : State),
    let x := s.arr a
    x.st = .run ∧ x.active.isSome = true ∧ x.stopHere = true ∧ x.quiesce = true ∧ x.wait = .none ∧ x.moves = [] ∧
    s.canPass a x.lastBusy = true ∧ x.lastBusy = x.cyc ∧ (∀ h ∈ x.dueHolds, x.cyc < h.cycle)) ∧
  (∃ (a : Ary) (s : State),
    let x := s.arr a
    x.quiesce = true ∧ x.st = .paused ∧ s.quiesced a = false ∧ (∀ t : Ten, (s.tenant t).whyFw = false)) ∧
  (∃ (a : Ary) (s : State) (amount : BitVec 8), s.aryExpress a = false ∧ 0 < amount.toNat ∧ amount.toNat ≤ 60) ∧
  (∃ (a : Ary) (s : State), s.aryExpress a = true) :=
  ⟨⟨63, sa ({ Arr.init with wait := .waitq 15 4095, tq := [(15, 4095)] }), 15, 4095, by decide⟩,
   ⟨63,
    { st tn with ary := [(62, { Arr.init with wait := .waitq 0 1, tq := [(0, 1)] }),
      (63, { Arr.init with paired := true, partner := 62, wait := .waitq 15 1, tq := [(15, 1)] })] },
    15, 1, and3 (by decide) ⟨by decide, 62, 0, 1, by decide⟩⟩,
   ⟨st { tn with barriers := [(15, ⟨[⟨63, 1, 0, false, false, 0⟩], true⟩)] }, 31, 15, by decide⟩,
   ⟨63, sa ({ Arr.init with st := .run, active := some 0, wait := .waitq 15 1 }), by decide⟩,
   ⟨63, sa ({ Arr.init with st := .hold, active := some 0, holds := [⟨.sidCe, some 2⟩] }), by decide⟩,
   ⟨63, sa ({ Arr.init with st := .run, active := some 0, stopHere := true, quiesce := true }), by decide⟩,
   ⟨63, { base with ary := [(63, { Arr.init with st := .paused, quiesce := true })] }, by decide⟩,
   ⟨63, sa (Arr.init), 60, by decide⟩,
   ⟨63, { base with xpr := { Xpr.init with spareValid := true, spa := 63, spb := 62 } }, by decide⟩⟩

theorem test_premises_PlanChecksHaveNoEffectButTheFault :
    ∃ (i : Instr) (s : State) (t : Ten) (q : Que) (w0 w1 : BitVec 64) (c : BitVec 16) (addr : Nat),
    planWords i = some (t, q, w0, w1, true) ∧ Presents s t q w0 ∧ planCheck (s.tenant t) w0 w1 = some (c, addr) :=
  ⟨.nop 31 7 0x0040000000000001 0, sq qu, 31, 7, 0x0040000000000001, 0, 0x3102, 0, by decide, by unfold Presents; decide,
    by decide⟩

theorem test_premises_SimpleAndReservedPlanInstructions :
  (∃ (t : Ten) (q : Que) (w0 : BitVec 64) (s : State), Presents s t q w0 ∧ planForm? (pOp w0) = none) ∧
  (∃ (t : Ten) (q : Que) (w0 w1 : BitVec 64) (s : State), pOp w0 = 0x00 ∧ MayIssue s t q w0 w1) ∧
  (∃ (t : Ten) (q : Que) (w0 w1 : BitVec 64) (s : State), pOp w0 = 0x02 ∧ MayIssue s t q w0 w1) ∧
  (∃ (t : Ten) (q : Que) (w0 w1 : BitVec 64) (s : State), pOp w0 = 0x03 ∧ MayIssue s t q w0 w1) ∧
  (∃ (t : Ten) (q : Que) (w0 w1 : BitVec 64) (s : State), pOp w0 = 0x03 ∧ Presents s t q w0 ∧
    planCheck (s.tenant t) w0 w1 = none ∧ ((s.tenant t).event (pf w0 39 32)).toNat < pf w0 31 0) ∧
  (∃ (t : Ten) (q : Que) (w0 w1 : BitVec 64) (s : State), pOp w0 = 0x04 ∧ MayIssue s t q w0 w1) ∧
  (∃ (t : Ten) (q : Que) (w0 w1 : BitVec 64) (s : State), pOp w0 = 0x05 ∧ MayIssue s t q w0 w1) ∧
  (∃ (t : Ten) (q : Que) (w0 w1 : BitVec 64) (s : State), pOp w0 = 0x06 ∧ MayIssue s t q w0 w1) ∧
  (∃ (t : Ten) (q : Que) (w0 w1 : BitVec 64) (s : State), pOp w0 = 0x07 ∧ MayIssue s t q w0 w1) :=
  ⟨⟨31, 7, 0xFF40000000000000, sq qu, by unfold Presents; decide, by decide⟩,
   ⟨31, 7, 0x0040000000000000, 0, sq qu, by decide, by unfold MayIssue Presents; decide⟩,
   ⟨31, 7, 0x02400000FFFFFFFF, 0, sq qu, by decide, by unfold MayIssue Presents; decide⟩,
   ⟨31, 7, 0x034000FF00000000, 0, sq qu, by decide, by unfold MayIssue Presents; decide⟩,
   ⟨31, 7, 0x034000FFFFFFFFFF, 0, sq qu, by decide, by unfold Presents; decide, by decide⟩,
   ⟨31, 7, 0x044000FF0000FFFF, 0, sq qu, by decide, by unfold MayIssue Presents; decide⟩,
   ⟨31, 7, 0x0540000000000000, 0, sq qu, by decide, by unfold MayIssue Presents; decide⟩,
   ⟨31, 7, 0x0640000000000001, 0, sq qu, by decide, by unfold MayIssue Presents; decide⟩,
   ⟨31, 7, 0x0740000000000000, 0, sq qu, by decide, by unfold MayIssue Presents; decide⟩⟩

theorem test_premises_CompletionRecordsAndDoorbells :
  (∃ (t : Ten) (q : Que) (s : State) (e : Issued) (rest : List Issued) (c : BitVec 16),
    let y := s.queue t q
    trimIssued y.issued = e :: rest ∧ e.status = some c ∧ s.recordsFlow t = true ∧ y.ringFull = false) ∧
  (∃ (t : Ten) (q : Que) (s : State) (e : Issued) (rest : List Issued) (c : BitVec 16),
    let y := s.queue t q
    trimIssued y.issued = e :: rest ∧ e.status = some c ∧ s.recordsFlow t = true ∧ y.ringFull = true) ∧
  (∃ (t : Ten) (q : Que) (s : State) (v : Reg32),
    let y := s.queue t q
    s.hostWrites = true ∧ (v - y.head).toNat ≤ 64 * 2 ^ y.size.toNat ∧ (v - y.tail).toNat ≤ 64 * 2 ^ y.size.toNat) ∧
  (∃ (t : Ten) (q : Que) (s : State) (v : Reg32),
    let y := s.queue t q
    s.hostWrites = true ∧ (64 * 2 ^ y.size.toNat < (v - y.head).toNat ∨ 64 * 2 ^ y.size.toNat < (v - y.tail).toNat)) ∧
  (∃ (t : Ten) (q : Que) (s : State) (v : Reg32),
    let y := s.queue t q
    s.hostWrites = true ∧ (v - y.cplHead).toNat ≤ (y.cplTail - y.cplHead).toNat ∧ (∀ r : Que, (s.queue t r).waiting = none)) ∧
  (∃ (t : Ten) (q : Que) (s : State),
    let y := s.queue t q
    ∃ (i : Instr) (w0 w1 : BitVec 64), planWords i = some (t, q, w0, w1, true) ∧ pExt w0 = true ∧ y.waiting = none ∧
    y.retry = none ∧ s.glb.attached = true ∧ s.queueRuns t q = true ∧ (y.tail - y.head).toNat = 1) ∧
  (∃ (t : Ten) (q : Que) (s : State) (v : Reg32),
    let y := s.queue t q
    s.hostWrites = true ∧ (y.cplTail - y.cplHead).toNat < (v - y.cplHead).toNat) :=
  ⟨⟨31, 7, sq { qu with issued := [⟨0, 0, true, false, some 0, 0, 0⟩] }, ⟨0, 0, true, false, some 0, 0, 0⟩, [], 0, by decide⟩,
   ⟨31, 7, sq { qu with issued := [⟨0, 0, true, false, some 0, 0, 0⟩], cplTail := 64 }, ⟨0, 0, true, false, some 0, 0, 0⟩, [], 0,
    by decide⟩,
   ⟨31, 7, sq qu, 64, by decide⟩,
   ⟨31, 7, sq qu, 65, by decide⟩,
   ⟨31, 7, sq { qu with cplTail := 64 }, 64, by decide⟩,
   ⟨31, 7, sq { qu with tail := 1 }, .dispatch 31 7 0x01C0000000000000 0 ⟨0, [], [], [], [], [], 0, [], [], [], []⟩,
    0x01C0000000000000, 0, by decide⟩,
   ⟨31, 7, sq qu, 1, by decide⟩⟩

theorem test_premises_QueueCommands :
  (∃ (t : Ten) (q : Que) (s : State) (k : Stuck),
    let y := s.queue t q
    s.hostWrites = true ∧ (y.st = .faulted ∨ y.st = .halted) ∧ y.stuck = some k) ∧
  (∃ (t : Ten) (q : Que) (s : State) (k : Stuck),
    let y := s.queue t q
    s.hostWrites = true ∧ y.st = .faulted ∧ y.stuck = some k) ∧
  (∃ (t : Ten) (q : Que) (s : State),
    let y := s.queue t q
    s.hostWrites = true ∧ (y.st = .faulted ∨ y.st = .halted) ∧ (∀ c : Fin 4, ((s.tenant t).copy c).st ≠ .releasing)) ∧
  (∃ (t : Ten) (q : Que) (s : State) (v : Reg32),
    let y := s.queue t q
    s.hostWrites = true ∧ y.enable = false ∧ y.st = .disabled ∧ v.getLsbD 31 = true ∧ bitsOf v.toNat 19 16 ≤ 10 ∧
    bitsOf v.toNat 15 12 ≤ 10) ∧
  (∃ (t : Ten) (q : Que) (s : State) (v : Reg32),
    let y := s.queue t q
    s.hostWrites = true ∧ y.enable = true ∧ y.st ≠ .disabled ∧ y.allDone = true ∧ v.getLsbD 31 = false) :=
  ⟨⟨31, 7, sq { qu with st := .halted, stuck := some ⟨0, 2, true⟩ }, ⟨0, 2, true⟩, by decide, .inr (by decide), by decide⟩,
   ⟨31, 7, sq { qu with st := .faulted, stuck := some ⟨0, 2, true⟩ }, ⟨0, 2, true⟩, by decide⟩,
   ⟨31, 7, sq { qu with st := .faulted, stuck := some ⟨0, 2, true⟩ }, by decide, .inl (by decide), by decide⟩,
   ⟨31, 7, sq Queue.init, 0x83FAA000, by decide⟩,
   ⟨31, 7, sq qu, 0x7FFFFFFF, by decide⟩⟩

theorem test_premises_DispatchIssuesAndCompletes :
  (∃ (t : Ten) (q : Que) (w0 w1 : BitVec 64) (e : Emission) (s : State) (c : Fin 4) (n : Nat) (k : KernelEntry) (sb bb : Nat) (packing : List Place),
    pOp w0 = 0x01 ∧ MayIssue s t q w0 w1 ∧ (s.queue t q).batch = some ⟨some c, true, n⟩ ∧
    ((s.tenant t).copy c).kernels.find? (fun k => k.kernel.toNat == pf w0 47 32) = some k ∧
    bucketsOf k (pf w0 31 16) (pf w0 15 10) e.lengths = .ok (sb, bb, packing) ∧
    (s.staying t).inRanges (pf w1 47 0) (max 64 e.argsLen) = true ∧
    let arrays := s.tileArrays t
    let tl := if k.matrix then tile k (sb * bb) arrays.length else none
    (k.matrix = true → tl.isSome = true ∧ twConNeed k.tiling ≤ (s.staying t).conSize.toNat) ∧
    (∀ w ∈ e.kvWrites, kvWriteFails t w s = none) ∧ s.emits t q w0 w1 e = true) ∧
  (∃ (s : State) (d : Nat) (x : Dispatch), s.dispatch? d = some x ∧ s.dispatchOver x = true ∧ x.fault = none) :=
  ⟨⟨31, 7, 0x01C0FFFF00800400, 0, ⟨4096, [], [], [], [], [], 1, [], [], [], []⟩,
    st { tn with copies := [(3, { Copy.init with st := .armed, kernels := [⟨0xFFFF, [128], [1], 64, 32, 1, 1, false, false, 16384, false, 0x4000, false⟩] })], queues := [(7, { qu with batch := some ⟨some 3, true, 0⟩ })] },
    3, 0, ⟨0xFFFF, [128], [1], 64, 32, 1, 1, false, false, 16384, false, 0x4000, false⟩, 128, 1, [], by decide,
    by unfold MayIssue Presents; decide, by decide, by decide, rfl, by decide, by decide⟩,
   ⟨{ st tn with disp := [{ dp with imagesLeft := [], descsLeft := 0 }] }, 0, { dp with imagesLeft := [], descsLeft := 0 },
    by decide⟩⟩

theorem test_premises_TenantCommandsAndReset :
  (∃ (t : Ten) (s : State),
    let y := s.tenant t
    s.hostWrites = true ∧ (y.st = .free ∨ y.st = .stopped) ∧ (y.cls = 2 ∨ y.cls = 3) ∧ y.whyRebind = false ∧ y.whyHost = false ∧
    y.whyFw = false ∧ s.compHeld (plannerComp (s.planTenant t y)) = false) ∧
  (∃ (t : Ten) (s : State),
    let y := s.tenant t
    s.hostWrites = true ∧ (y.st = .free ∨ y.st = .stopped) ∧ y.cls = 0) ∧
  (∃ (t : Ten) (s : State),
    let y := s.tenant t
    s.hostWrites = true ∧ y.st = .running ∧ (∀ e ∈ y.queues, e.2.allDone = true)) ∧
  (∃ (t : Ten) (s : State),
    let y := s.tenant t
    s.hostWrites = true ∧ y.st = .running ∧ (∃ r : Que, (y.queue r).allDone = false)) ∧
  (∃ (t : Ten) (s : State),
    let y := s.tenant t
    s.hostWrites = true ∧ (y.st = .free ∨ y.st = .stopped) ∧ s.tenantXid t = none) ∧
  (∃ (t : Ten) (s : State),
    let y := s.tenant t
    s.hostWrites = true ∧ y.st = .paused ∧ y.whyHost = true ∧ y.whyRebind = false ∧ y.whyFw = false) ∧
  (∃ (t : Ten) (s : State), (s.tenant t).st = .resetting ∧ s.tenantXid t = none ∧ (∀ x : Fin 4, (s.xid x).st ≠ .arming) ∧
    s.unnamed t = true) :=
  ⟨⟨31, st { tn with st := .stopped, cls := 3 }, by decide⟩,
   ⟨31, st { tn with st := .free, cls := 0 }, by decide⟩,
   ⟨31, st tn, by decide⟩,
   ⟨31, sq { qu with issued := [⟨0, 0, true, false, none, 0, 0⟩] }, by decide⟩,
   ⟨31, st { tn with st := .stopped }, by decide⟩,
   ⟨31, st { tn with st := .paused, whyHost := true }, by decide⟩,
   ⟨31, st { tn with st := .resetting }, by decide⟩⟩

theorem test_premises_BindingsAndConfiguration :
  (∃ (t : Ten) (s : State), s.hostWrites = true ∧ (s.tenant t).st = .free) ∧
  (∃ (t : Ten) (s : State) (v : Reg32), s.hostWrites = true ∧ (s.tenant t).st = .free ∧
    bitsOf v.toNat 7 0 + bitsOf v.toNat 16 8 ≤ 256 ∧ s.mayBindCon t (bitsOf v.toNat 7 0) (bitsOf v.toNat 16 8) = true) ∧
  (∃ (t : Ten) (s : State) (v : Reg32), s.hostWrites = true ∧ (s.tenant t).st = .free ∧
    (256 < bitsOf v.toNat 7 0 + bitsOf v.toNat 16 8 ∨ s.mayBindCon t (bitsOf v.toNat 7 0) (bitsOf v.toNat 16 8) = false)) ∧
  (∃ (t : Ten) (s : State) (v : Reg32) (off : Nat), s.hostWrites = true ∧ (s.tenant t).st ≠ .free ∧ isBindOff off = true ∧
    v.toNat &&& bindMask off ≠ (s.tenant t).bindReg off) ∧
  (∃ (t : Ten) (q : Que) (w0 w1 : BitVec 64) (s : State), pOp w0 = 0x30 ∧ MayIssue s t q w0 w1 ∧ pf w0 14 0 ≠ 0x1008 ∧
    pf w0 14 0 ≠ 0x100C) ∧
  (∃ (t : Ten) (q : Que) (w0 w1 : BitVec 64) (s : State), pOp w0 = 0x30 ∧ MayIssue s t q w0 w1 ∧
    (pf w0 14 0 = 0x1008 ∨ pf w0 14 0 = 0x100C) ∧ pf w1 31 0 ≠ (s.tenant t).cfgReg (pf w0 14 0)) ∧
  (∃ (t : Ten) (q : Que) (w0 w1 : BitVec 64) (s : State), pOp w0 = 0x31 ∧ MayIssue s t q w0 w1) :=
  ⟨⟨31, st { tn with st := .free }, by decide⟩,
   ⟨31, st { tn with st := .free }, 0xFF01, by decide⟩,
   ⟨31, st { tn with st := .free }, 0xFF02, by decide, by decide, .inl (by decide)⟩,
   ⟨31, st tn, 1, 0x15C, by decide⟩,
   ⟨31, 7, 0x30C000000000117C, 0xFFFFFFFF, sq qu, by decide, by unfold MayIssue Presents; decide, by decide⟩,
   ⟨31, 7, 0x30C000000000100C, 1, sq qu, by decide, by unfold MayIssue Presents; decide, by decide⟩,
   ⟨31, 7, 0x3140000000001180, 0, sq qu, by decide, by unfold MayIssue Presents; decide⟩⟩

theorem test_premises_RebindAndScrub :
  (∃ (t : Ten) (q : Que) (w0 w1 : BitVec 64) (s : State), pOp w0 = 0x20 ∧ MayIssue s t q w0 w1 ∧ (s.tenant t).rebind = none ∧
    w0.getLsbD 43 = false ∧ rebindRefused (rebindJobOf q (atHead s t q w0 w1) s.dispNext) s = false) ∧
  (∃ (t : Ten) (q : Que) (w0 w1 : BitVec 64) (s : State), pOp w0 = 0x20 ∧ MayIssue s t q w0 w1 ∧ (s.tenant t).rebind = none ∧
    rebindRefused (rebindJobOf q (atHead s t q w0 w1) s.dispNext) s = true) ∧
  (∃ (t : Ten) (q : Que) (w0 w1 : BitVec 64) (s : State), pOp w0 = 0x21 ∧ MayIssue s t q w0 w1 ∧ (s.tenant t).rebind = none ∧
    scrubFails t (pf w0 47 44) (pf w0 7 0) s = none ∧
    s.contested t ⟨q, (s.queue t q).head, s.dispNext, true, pf w0 47 44, true, some t, some t, pf w0 7 0, 0, false, 0⟩ = false) ∧
  (∃ (t : Ten) (q : Que) (s : State) (j : RebindJob), (s.tenant t).rebind = some j ∧ j.q = q.val ∧ j.accepted = false ∧
    (∀ d ∈ s.disp, j.usedBy s d = false) ∧ s.contested t j = false ∧ s.jobStands t j = true) ∧
  (∃ (t : Ten) (q : Que) (s : State) (j : RebindJob) (f : Ten), (s.tenant t).rebind = some j ∧ j.q = q.val ∧ j.accepted = true ∧
    s.jobStands t j = true ∧ s.quiesceOver j = true ∧ j.kind = 2 ∧ j.isScrub = false ∧ j.item < 16 ∧ j.fromT = some f ∧
    j.toT = some t ∧ f ≠ t) ∧
  (∃ (t : Ten) (s : State) (j : RebindJob) (p : Pipe) (g : Leg), (s.pipeline p).leg = some g ∧ (s.tenant t).rebind = some j ∧
    j.stopsLeg p g.req.tenant = true ∧ j.acceptTime + 100000 ≤ s.glb.devTime) ∧
  (∃ (t : Ten) (s : State) (shares : List Nat) (c : Nat), s.sec.balanceTime + 10000000 ≤ s.glb.devTime ∧ 1 ≤ c ∧ c ≤ 4 ∧
    (∀ i, i < 4 → i ≠ c - 1 → shares.getD (c - 1) 0 < shares.getD i 0) ∧ 1 ≤ (s.tenant t).planner.toNat ∧
    (s.tenant t).planner.toNat ≤ 4 ∧ shares.getD (c - 1) 0 + 25 < shares.getD ((s.tenant t).planner.toNat - 1) 0 ∧
    ((s.tenant t).movedAt = 0 ∨ (s.tenant t).movedAt + 100000000 ≤ s.glb.devTime) ∧ s.compHeld .mgmt = false ∧
    s.compHeld (plannerComp c) = false ∧ (∀ r : Que, (s.queue t r).waiting = none)) :=
  ⟨⟨31, 7, 0x20C023EF0000000F, 0, st { tn with admin := true }, by decide, by unfold MayIssue Presents; decide, by decide⟩,
   ⟨31, 7, 0x20C023CF8000000F, 0, st { tn with admin := true }, by decide, by unfold MayIssue Presents; decide, by decide⟩,
   ⟨31, 7, 0x214020000000000F, 0, st tn, by decide, by unfold MayIssue Presents; decide, by decide⟩,
   ⟨31, 7, st { tn with admin := true, rebind := some ⟨7, 0, 0, false, 2, false, some 31, some 30, 15, 0, false, 0⟩ },
    ⟨7, 0, 0, false, 2, false, some 31, some 30, 15, 0, false, 0⟩, by decide⟩,
   ⟨31, 7,
    { base with ten := [(30, tn), (31, { Tenant.init with st := .running, admin := true, rebind := some ⟨7, 0, 0, false, 2, false, some 30, some 31, 15, 0, true, 0⟩ })] },
    ⟨7, 0, 0, false, 2, false, some 30, some 31, 15, 0, true, 0⟩, 30, by decide⟩,
   ⟨31,
    { st { tn with rebind := some ⟨7, 0, 0, false, 2, false, some 30, some 31, 15, 0, true, 0⟩ } with pipe := [(15, { PipeSt.init with leg := some ⟨⟨List.replicate 64 0, 30, 2, 0⟩, none, [], [], [], [], []⟩ })] },
    ⟨7, 0, 0, false, 2, false, some 30, some 31, 15, 0, true, 0⟩, 15, ⟨⟨List.replicate 64 0, 30, 2, 0⟩, none, [], [], [], [], []⟩,
    by decide⟩,
   ⟨31, st { tn with planner := 1 }, [26, 25, 50, 0], 4, by decide⟩⟩

theorem test_premises_StepTakesTheFront :
    ∃ (s : State), s.pending = [] :=
  ⟨base, by decide⟩

theorem test_premises_EveryCommandIsCarriedOut :
  (∃ c off size, barAccess c = some (off, size) ∧ 2 ^ 26 < off + size) ∧
  (∃ (c : Instr), (∀ off size, barAccess c = some (off, size) → off + size ≤ 2 ^ 26)) :=
  ⟨⟨.lowHalfReadLatch 0x4000000 1, 0x4000000, 1, by decide⟩,
   ⟨.lowHalfReadLatch 0x3FFFFFC 4, by intro off size h; cases h; decide⟩⟩

theorem test_premises_StepKeepsFusesAndQueueOrder :
    ∃ (s u : State), step s = .next u :=
  ⟨base, tick base, rfl⟩

theorem test_premises_StepKeepsMemoryCanonical :
    ∃ (s u : State), s.mtc.wf = true ∧ step s = .next u :=
  ⟨base, tick base, by decide, rfl⟩

theorem test_premises_KeyValueOpenAppendClose :
  (∃ (t : Ten) (q : Que) (w0 w1 : BitVec 64) (s : State),
    let hd := pf w0 47 32
    let addr := pf w1 47 0
    let h := { readHdr t addr s with form := pf w0 31 28, psize := pf w0 27 24 }
    pOp w0 = 0x18 ∧ MayIssue s t q w0 w1 ∧ listFits (s.tenant t) addr h = true ∧ s.kvSeq t hd = none ∧
    (s.kv.seqs.filter (fun e => e.1 / 65536 == t.val)).length < 4096) ∧
  (∃ (t : Ten) (q : Que) (w0 w1 : BitVec 64) (s : State),
    let addr := pf w1 47 0
    let h := { readHdr t addr s with form := pf w0 31 28, psize := pf w0 27 24 }
    pOp w0 = 0x18 ∧ MayIssue s t q w0 w1 ∧ listFits (s.tenant t) addr h = false) ∧
  (∃ (t : Ten) (q : Que) (w0 w1 : BitVec 64) (s : State) (v : KvSeq),
    let hd := pf w0 47 32
    let hv := readHdr t v.addr s
    let es := readEntries t v.addr 0 hv.length s
    let opens := appendPages hv es (pf w0 23 0)
    pOp w0 = 0x19 ∧ MayIssue s t q w0 w1 ∧ s.kvSeq t hd = some v ∧ appendFails t v hv es (pf w0 23 0) s = none ∧
    v.full es hv.tokens = [] ∧ v.slotBusy hv opens (v.walkPages ++ v.sealsDue) = false) ∧
  (∃ (t : Ten) (q : Que) (w0 w1 : BitVec 64) (s : State),
    let hd := pf w0 47 32
    pOp w0 = 0x19 ∧ MayIssue s t q w0 w1 ∧ s.kvSeq t hd = none) ∧
  (∃ (t : Ten) (q : Que) (w0 w1 : BitVec 64) (s : State) (v : KvSeq),
    let hd := pf w0 47 32
    let hv := readHdr t v.addr s
    let es := readEntries t v.addr 0 hv.length s
    pOp w0 = 0x1B ∧ MayIssue s t q w0 w1 ∧ s.kvSeq t hd = some v ∧ v.full es hv.tokens = [] ∧ v.walks = [] ∧ v.sealsDue = [] ∧
    v.waits = []) :=
  ⟨⟨31, 7, 0x18C0FFFF98000000, 0, put 0 (hdr 9 8 0 0) (sq qu), by decide +kernel, by unfold MayIssue Presents; decide +kernel,
    by decide +kernel⟩,
   ⟨31, 7, 0x18C0FFFF98000000, 0, sq qu, by decide +kernel, by unfold MayIssue Presents; decide +kernel, by decide +kernel⟩,
   ⟨31, 7, 0x1940FFFF00000040, 0, kvSt ⟨0, [], 0, [], [], []⟩ 1 0 0 0, ⟨0, [], 0, [], [], []⟩, by decide +kernel,
    by unfold MayIssue Presents; decide +kernel, by decide +kernel⟩,
   ⟨31, 7, 0x1940FFFF00000001, 0, sq qu, by decide, by unfold MayIssue Presents; decide +kernel, by decide⟩,
   ⟨31, 7, 0x1B40FFFF00000000, 0, kvSt ⟨0, [], 0, [], [], []⟩ 1 0 0 0, ⟨0, [], 0, [], [], []⟩, by decide +kernel,
    by unfold MayIssue Presents; decide +kernel, by decide +kernel⟩⟩

theorem test_premises_KeyValueEdits :
  (∃ (t : Ten) (q : Que) (w0 w1 : BitVec 64) (s : State) (v v2 : KvSeq) (s2 : State) (k : Fin 5),
    let hd := pf w0 47 32
    let issued := issueOpen t q (atHead s t q w0 w1) (passTurn t q s)
    let queued (op : KvOp) := issued.setKvSeq t hd (some { v with waits := [⟨q, (s.queue t q).head, op⟩] })
    MayIssue s t q w0 w1 ∧ s.kvSeq t hd = some v ∧ v.waits = [] ∧ v.sealsDue = [] ∧ isKvedit w0 (k + 1) = true ∧ v.walks = [] ∧
    editRun t v (editOf k w1) (queued (editOf k w1)) = .ok (v2, s2)) ∧
  (∃ (t : Ten) (q : Que) (w0 w1 : BitVec 64) (s : State) (v : KvSeq) (c : BitVec 16) (k : Fin 5),
    let hd := pf w0 47 32
    let issued := issueOpen t q (atHead s t q w0 w1) (passTurn t q s)
    let queued (op : KvOp) := issued.setKvSeq t hd (some { v with waits := [⟨q, (s.queue t q).head, op⟩] })
    MayIssue s t q w0 w1 ∧ s.kvSeq t hd = some v ∧ v.waits = [] ∧ v.sealsDue = [] ∧ isKvedit w0 (k + 1) = true ∧ v.walks = [] ∧
    editRun t v (editOf k w1) (queued (editOf k w1)) = .error c ∧ c ≠ 0 ∧ c ≠ 0x3204) ∧
  (∃ (t : Ten) (q : Que) (w0 w1 : BitVec 64) (s : State) (v : KvSeq) (k : Fin 5),
    let hd := pf w0 47 32
    MayIssue s t q w0 w1 ∧ s.kvSeq t hd = some v ∧ v.waits = [] ∧ v.sealsDue = [] ∧ isKvedit w0 (k + 1) = true ∧ v.walks ≠ []) ∧
  (∃ (t : Ten) (q : Que) (w0 w1 : BitVec 64) (s : State) (v : KvSeq),
    let hd := pf w0 47 32
    let hv := readHdr t v.addr s
    let full := v.full (readEntries t v.addr 0 hv.length s) hv.tokens
    MayIssue s t q w0 w1 ∧ s.kvSeq t hd = some v ∧ v.waits = [] ∧ v.sealsDue = [] ∧ isKvedit w0 6 = true ∧ v.walks = [] ∧
    full = []) ∧
  (∃ (t : Ten) (q : Que) (w0 w1 : BitVec 64) (s : State) (v : KvSeq),
    let hd := pf w0 47 32
    let hv := readHdr t v.addr s
    let full := v.full (readEntries t v.addr 0 hv.length s) hv.tokens
    MayIssue s t q w0 w1 ∧ s.kvSeq t hd = some v ∧ v.waits = [] ∧ v.sealsDue = [] ∧ isKvedit w0 6 = true ∧ v.walks = [] ∧
    full ≠ [] ∧ (s.queue t q).allDone = true) :=
  ⟨⟨31, 7, 0x1AC0FFFF10000000, 16, kvSt ⟨0, [], 0, [], [], []⟩ 1 0 1 16, ⟨0, [], 0, [], [], []⟩, _, _, 0,
    by unfold MayIssue Presents; decide +kernel, and3 (by decide +kernel) ⟨by decide +kernel, by decide +kernel,
    ok_pair (d := (⟨0, [], 0, [], [], []⟩, base)) (by decide +kernel)⟩⟩,
   ⟨31, 7, 0x1AC0FFFF10000000, 17, kvSt ⟨0, [], 0, [], [], []⟩ 1 0 1 16, ⟨0, [], 0, [], [], []⟩, Code.kvEditInvalid, 0,
    by unfold MayIssue Presents; decide +kernel, and3 (by decide +kernel) ⟨by decide +kernel, by decide +kernel,
    err_get (by decide +kernel), by decide +kernel⟩⟩,
   ⟨31, 7, 0x1AC0FFFF50000000, 0, kvSt ⟨0, [], 0, [⟨1, 0, [], 0, 0, [], false⟩], [], []⟩ 1 0 1 16,
    ⟨0, [], 0, [⟨1, 0, [], 0, 0, [], false⟩], [], []⟩, 4, by unfold MayIssue Presents; decide +kernel, by decide +kernel⟩,
   ⟨31, 7, 0x1AC0FFFF60000000, 0, kvSt ⟨0, [], 0, [], [], []⟩ 3 0 1 16, ⟨0, [], 0, [], [], []⟩,
    by unfold MayIssue Presents; decide +kernel, by decide +kernel⟩,
   ⟨31, 7, 0x1AC0FFFF60000000, 0, kvSt ⟨0, [0], 0, [], [], []⟩ 3 0 1 16, ⟨0, [0], 0, [], [], []⟩,
    by unfold MayIssue Presents; decide +kernel, by decide +kernel⟩⟩

theorem test_premises_SealsWalksAndSpills :
  (∃ (p : Pipe) (t : Ten) (hd : BitVec 16) (page : Nat) (s s2 : State) (v : KvSeq),
    let hv := readHdr t v.addr s
    let en := (readEntries t v.addr 0 hv.length s).getD page ⟨0, false, 0⟩
    let slot := modelRead t (hv.slotBase (v.slot hv page)) hv.slotBytes s
    let done := sealPage hv slot.1
    s.kvSeq t hd.toNat = some v ∧ v.waits = [] ∧ s.pipeFree p = true ∧ s.pipeTurn p = some t.val ∧ page ∈ v.sealsDue ∧
    modelWrite t (hv.pageBase en) done.1 (addHeat t (hv.slotBase (v.slot hv page)) hv.slotBytes slot.2) = .ok s2 ∧ hv.form = 3) ∧
  (∃ (p : Pipe) (t : Ten) (hd : BitVec 16) (page : Nat) (s s2 : State) (v : KvSeq),
    let hv := readHdr t v.addr s
    let en := (readEntries t v.addr 0 hv.length s).getD page ⟨0, false, 0⟩
    let slot := modelRead t (hv.slotBase (v.slot hv page)) hv.slotBytes s
    let done := sealPage hv slot.1
    s.kvSeq t hd.toNat = some v ∧ v.waits = [] ∧ s.pipeFree p = true ∧ s.pipeTurn p = some t.val ∧ page ∈ v.sealsDue ∧
    modelWrite t (hv.pageBase en) done.1 (addHeat t (hv.slotBase (v.slot hv page)) hv.slotBytes slot.2) = .ok s2 ∧ hv.form = 9) ∧
  (∃ (t : Ten) (hd : BitVec 16) (walk : Nat) (s : State) (v : KvSeq), s.kvSeq t hd.toNat = some v ∧ v.waits = [] ∧
    (∃ x ∈ v.walks, x.id = walk ∧ x.done = true)) ∧
  (∃ (t : Ten) (q : Que) (w0 w1 : BitVec 64) (s : State) (v : KvSeq),
    let spilling := (issueOpen t q (atHead s t q w0 w1) (passTurn t q s)).setKvSeq t (pf w0 47 32) (some { v with waits := [⟨q, (s.queue t q).head, .spill (pf w0 15 0) 0⟩] })
    pOp w0 = 0x23 ∧ MayIssue s t q w0 w1 ∧ s.kvSeq t (pf w0 47 32) = some v ∧ v.waits = [] ∧ v.walks = [] ∧ v.sealsDue = [] ∧
    spillWork t v spilling = none) ∧
  (∃ (t : Ten) (q : Que) (w0 w1 : BitVec 64) (s : State) (v : KvSeq),
    let spilling := (issueOpen t q (atHead s t q w0 w1) (passTurn t q s)).setKvSeq t (pf w0 47 32) (some { v with waits := [⟨q, (s.queue t q).head, .spill (pf w0 15 0) 0⟩] })
    pOp w0 = 0x23 ∧ MayIssue s t q w0 w1 ∧ s.kvSeq t (pf w0 47 32) = some v ∧ v.waits = [] ∧ v.walks = [] ∧ v.sealsDue = [] ∧
    spillWork t v spilling ≠ none ∧ s.compHeld .shunt = false ∧ 0 < pf w0 15 0) ∧
  (∃ (t : Ten) (hd : BitVec 16) (n i at_ : Nat) (s s2 : State) (v : KvSeq) (e : KvEntry) (h : KvHdr) (w : KvWait),
    s.kvSeq t hd.toNat = some v ∧ v.waits = [w] ∧ w.op = .spill (n + 1) n ∧ v.walks = [] ∧ v.sealsDue = [] ∧
    s.compHeld .shunt = false ∧ spillWork t v s = some (i, e, at_, h) ∧
    spillPage t (h.pageBase e) (h.pageBase ⟨e.code, true, at_⟩) (h.pageBytes e.tokens) s = .ok s2) :=
  ⟨⟨15, 31, 0xFFFF, 0, kvSt ⟨0, [0], 0, [], [0], []⟩ 3 0 1 16, _, ⟨0, [0], 0, [], [0], []⟩,
    and3 (by decide +kernel) ⟨by decide +kernel, by decide +kernel, ok_get (d := base) (by decide +kernel), by decide +kernel⟩⟩,
   ⟨15, 31, 0xFFFF, 0, kvSt ⟨0, [0], 0, [], [0], []⟩ 9 0 1 16, _, ⟨0, [0], 0, [], [0], []⟩,
    and3 (by decide +kernel) ⟨by decide +kernel, by decide +kernel, ok_get (d := base) (by decide +kernel), by decide +kernel⟩⟩,
   ⟨31, 0xFFFF, 1, kvSt ⟨0, [], 0, [⟨1, 0, [], 0, 0, [], true⟩], [], []⟩ 3 0 1 16,
    ⟨0, [], 0, [⟨1, 0, [], 0, 0, [], true⟩], [], []⟩, by decide +kernel⟩,
   ⟨31, 7, 0x2340FFFF00000000, 0, kvSt ⟨0, [], 0, [], [], []⟩ 3 0 0 0, ⟨0, [], 0, [], [], []⟩, by decide +kernel,
    by unfold MayIssue Presents; decide +kernel, by decide +kernel⟩,
   ⟨31, 7, 0x2340FFFF0000FFFF, 0, kvSt ⟨0, [], 0, [], [], []⟩ 3 0 1 16, ⟨0, [], 0, [], [], []⟩, by decide +kernel,
    by unfold MayIssue Presents; decide +kernel, by decide +kernel⟩,
   ⟨31, 0xFFFF, 0, 0, 0,
    let s := kvSt ⟨0, [], 0, [], [], [⟨7, 0, .spill 1 0⟩]⟩ 3 0 1 16;
      { s with ten := [(31, { tn with mkSlot := some 31, queues := [(7, qu)] })] },
    _, ⟨0, [], 0, [], [], [⟨7, 0, .spill 1 0⟩]⟩, ⟨0, false, 0⟩,
    readHdr 31 0 (kvSt ⟨0, [], 0, [], [], [⟨7, 0, .spill 1 0⟩]⟩ 3 0 1 16), ⟨7, 0, .spill 1 0⟩,
    and6 (by decide +kernel) ⟨by decide +kernel, ok_get (d := base) (by decide +kernel)⟩⟩⟩

theorem test_premises_TransfersAndGathers :
  (∃ (d : Descriptor) (e : MoveErr) (i : Nat) (t : Ten) (a : Ary) (k : Fin 16) (s s1 : State) (x : Dispatch) (m c n : Nat),
    d.disp = some i ∧ d.tenant = t ∧ d.move = .memToCon m c n ∧ d.tq = some (a, k) ∧ s.dispatch? i = some x ∧ x.id = i ∧
    x.tenant = t.val ∧ x.expects d = true ∧ s.mayFinish i = true ∧ s.moveFits t d.move = true ∧
    x.copy.bind (fun c => poisonedRead ((s.tenant t).copy c) [(m, n)]) = none ∧ s.aryTenant a = some t.val ∧
    moveBytes t d.move e (startDispatch i s) = .ok s1) ∧
  (∃ (d : Descriptor) (e : MoveErr) (t : Ten) (s s1 : State) (j : MigrateJob) (m c n : Nat), d.disp = none ∧ d.tenant = t ∧
    d.move = .memToCon m c n ∧ (s.tenant t).migrates.find? (fun j => j.copy == some (m, c, n)) = some j ∧
    moveBytes t d.move e s = .ok s1) ∧
  (∃ (i : Nat) (t : Ten) (s : State) (x : Dispatch) (list count bytes src stride limit dst : Nat) (is : List Nat),
    let s0 := (startDispatch i s).modDispatch i (fun x => { x with descsLeft := x.descsLeft - 1 })
    s.dispatch? i = some x ∧ x.tenant = t.val ∧ x.descsLeft ≠ 0 ∧ s.mayFinish i = true ∧ 1 ≤ count ∧ count ≤ 65536 ∧
    bytes % 32 = 0 ∧ 32 ≤ bytes ∧ bytes ≤ 65536 ∧ (s.tenantPart t).allows false list (4 * count) = true ∧
    (s.tenantPart t).allows true dst (bytes * count) = true ∧
    gatherIndices (s0.partRead (s.tenantPart t) list (4 * count)) = is.map (fun k => (k, false)) ∧ (∀ k ∈ is, k < limit) ∧
    (∀ k ∈ is, (s.tenantPart t).allows false (src + k * stride) bytes = true)) ∧
  (∃ (i : Nat) (t : Ten) (s : State) (x : Dispatch) (list count bytes limit dst : Nat),
    let s0 := (startDispatch i s).modDispatch i (fun x => { x with descsLeft := x.descsLeft - 1 })
    s.dispatch? i = some x ∧ x.tenant = t.val ∧ x.descsLeft ≠ 0 ∧ s.mayFinish i = true ∧ 1 ≤ count ∧ count ≤ 65536 ∧
    bytes % 32 = 0 ∧ 32 ≤ bytes ∧ bytes ≤ 65536 ∧ (s.tenantPart t).allows false list (4 * count) = true ∧
    (s.tenantPart t).allows true dst (bytes * count) = true ∧
    (∃ k ∈ gatherIndices (s0.partRead (s.tenantPart t) list (4 * count)), k.2 = false ∧ limit ≤ k.1)) :=
  ⟨⟨⟨31, some 0, .memToCon 33554368 67108800 64, some (63, 15)⟩, ⟨[], [], []⟩, 0, 31, 63, 15, { st tn with disp := [dp] }, _, dp,
    33554368, 67108800, 64, and6 (by decide +kernel) (and6 (by decide +kernel) (ok_get (d := base) (by decide +kernel)))⟩,
   ⟨⟨31, none, .memToCon 0 67108800 64, none⟩, ⟨[], [], []⟩, 31, st { tn with migrates := [⟨7, 0, some (0, 67108800, 64)⟩] }, _,
    ⟨7, 0, some (0, 67108800, 64)⟩, 0, 67108800, 64, and3 (by decide +kernel) ⟨by decide +kernel,
    ok_get (d := base) (by decide +kernel)⟩⟩,
   ⟨0, 31, { st tn with disp := [dp] }, dp, 0, 1, 32, 0, 32, 1, 32, [0], by decide +kernel⟩,
   ⟨0, 31, { st tn with disp := [dp], mtc := { Mtc.init with con := [(0, 1)] } }, dp, 0, 1, 32, 1, 32, by decide +kernel⟩⟩

theorem test_premises_GranulesMoveBetweenTiers :
  (∃ (t : Ten) (q : Que) (w0 w1 : BitVec 64) (s : State),
    let first : GMove := ⟨t, pf w1 47 21, pf w0 47 46 == 1, .command q (s.queue t q).head, false⟩
    pOp w0 = 0x22 ∧ MayIssue s t q w0 w1 ∧ s.compHeld .shunt = false ∧ s.mtc.moves = [] ∧ s.turn first ≠ .no) ∧
  (∃ (t : Ten) (q : Que) (w0 w1 : BitVec 64) (s : State), pOp w0 = 0x22 ∧ MayIssue s t q w0 w1 ∧ s.compHeld .shunt = true) ∧
  (∃ (t : Ten) (q : Que) (w0 w1 : BitVec 64) (s : State) (gs : List Nat) (g : Nat), pOp w0 = 0x24 ∧ MayIssue s t q w0 w1 ∧
    pf w0 47 46 = 0 ∧ s.compHeld .shunt = false ∧ s.mtc.moves = [] ∧ granulesOf (pf w1 47 0) (pf w0 29 0) = g :: gs ∧
    s.turn ⟨t, g, false, .command q (s.queue t q).head, false⟩ ≠ .no) ∧
  (∃ (t : Ten) (q : Que) (w0 w1 : BitVec 64) (s : State), pOp w0 = 0x24 ∧ MayIssue s t q w0 w1 ∧ pf w0 29 0 = 0 ∧
    s.compHeld .shunt = false ∧ s.mtc.moves = [] ∧ pf w0 45 30 * 4096 ≤ (s.tenant t).conSize.toNat * 2 ^ 20) ∧
  (∃ (t : Ten) (q : Que) (w0 w1 : BitVec 64) (s : State), pOp w0 = 0x24 ∧ MayIssue s t q w0 w1 ∧ pf w0 47 46 ≠ 0 ∧
    pf w0 29 0 ≠ 0 ∧ pf w0 45 30 * 4096 + pf w0 29 0 ≤ (s.tenant t).conSize.toNat * 2 ^ 20) ∧
  (∃ (s : State) (v : GMove) (p p' : Nat) (r : List Nat), s.compHeld .shunt = false ∧ s.mtc.moves = [v] ∧ v.running = false ∧
    s.mtc.rateBytes = 0 ∧ v.why ≠ .repair ∧ (∀ e ∈ s.mtc.map, ∀ f, e.2.st = .yard f → s.mtc.wornFrame f = false) ∧
    v.toYard = true ∧ (s.mtc.granule v.tenant v.g).st = .stacked p ∧ s.mtc.yardFree ≠ 0 ∧ s.mtc.yardBack = p' :: r ∧
    (s.tenant v.tenant).mkSlot ≠ none ∧ (((s.tenant v.tenant).rangeOf v.g).getD ⟨0, 0, 0⟩).allowsYard = true) ∧
  (∃ (t : Ten) (q : Que) (s : State) (v : GMove) (p p' : Nat) (r : List Nat), s.compHeld .shunt = false ∧ s.mtc.moves = [v] ∧
    v.running = false ∧ s.mtc.rateBytes = 0 ∧ v.why ≠ .repair ∧
    (∀ e ∈ s.mtc.map, ∀ f, e.2.st = .yard f → s.mtc.wornFrame f = false) ∧ v.toYard = false ∧
    v.why = .command q (s.queue t q).head ∧ (s.mtc.granule v.tenant v.g).st = .yard p ∧ s.mtc.stkFree ≠ 0 ∧
    s.mtc.stkBack = p' :: r ∧ (((s.tenant v.tenant).rangeOf v.g).getD ⟨0, 0, 0⟩).allowsStacked = true) ∧
  (∃ (s : State), s.compHeld .shunt = true) ∧
  (∃ (s : State) (v : GMove) (src dst : Loc), s.compHeld .shunt = false ∧ s.mtc.moves = [v] ∧ v.running = true ∧
    (s.mtc.granule v.tenant v.g).st = .moving src dst ∧ (dst.yard = true → (s.tenant v.tenant).mkSlot ≠ none)) :=
  ⟨⟨31, 7, 0x22C0400000000000, 0x1e00000, gm [(15, .stacked 0)] [], by decide, by unfold MayIssue Presents; decide, by decide⟩,
   ⟨31, 7, 0x22C040000000000F, 0, { gm [] [] with sec := { Sec.init with comps := [(7, ⟨[], true, none⟩)] } }, by decide,
    by unfold MayIssue Presents; decide, by decide⟩,
   ⟨31, 7, 0x24C0000000000001, 0x1ffffff, gm [(15, .yard 0)] [], [], 15, by decide, by unfold MayIssue Presents; decide, by decide⟩,
   ⟨31, 7, 0x24C0000000000000, 0, gm [] [], by decide, by unfold MayIssue Presents; decide, by decide⟩,
   ⟨31, 7, 0x24C04FFFC0001000, 0, gm [] [], by decide, by unfold MayIssue Presents; decide, by decide⟩,
   ⟨let s := gm [(15, .stacked 0)] [⟨31, 15, true, .command 7 0, false⟩]; { s with mtc := { s.mtc with yardBack := [5] } },
    ⟨31, 15, true, .command 7 0, false⟩, 0, 5, [], and3 (by decide) ⟨by decide, by decide, by intro e he f hf; rfl, by decide⟩⟩,
   ⟨31, 7, let s := gm [(15, .yard 0)] [⟨31, 15, false, .command 7 0, false⟩]; { s with mtc := { s.mtc with stkBack := [5] } },
    ⟨31, 15, false, .command 7 0, false⟩, 0, 5, [], and3 (by decide) ⟨by decide, by decide, by intro e he f hf; rfl, by decide⟩⟩,
   ⟨{ gm [(15, .moving ⟨false, 0⟩ ⟨true, 0⟩)] [⟨31, 15, true, .command 7 0, true⟩] with sec := { Sec.init with comps := [(7, ⟨[], true, none⟩)] } },
    by decide⟩,
   ⟨gm [(15, .moving ⟨false, 0⟩ ⟨true, 0⟩)] [⟨31, 15, true, .command 7 0, true⟩], ⟨31, 15, true, .command 7 0, true⟩, ⟨false, 0⟩,
    ⟨true, 0⟩, by decide⟩⟩

theorem test_premises_MovedGranuleKeepsItsBytes :
    ∃ (s : State) (v : GMove) (p p' o : Nat), s.compHeld .shunt = false ∧ s.mtc.moves.find? (·.running) = some v ∧
    (s.mtc.granule v.tenant v.g).st = .moving ⟨false, p⟩ ⟨false, p'⟩ ∧ o < 2 ^ 21 :=
  ⟨gm [(15, .moving ⟨false, 0⟩ ⟨false, 1⟩)] [⟨31, 15, false, .repair, true⟩], ⟨31, 15, false, .repair, true⟩, 0, 1, 2097151,
    by decide⟩

theorem test_premises_PageAndStackedAccesses :
  (∃ (t : Ten) (addr : Nat) (page : Bytes) (k : Bytes × Bytes) (l : Loc) (s : State), (s.gran t (addr / 2 ^ 21)).st = .yard l.p ∧
    l.yard = true ∧ s.mtc.wornFrame l.p = false ∧ addr % 4096 = 0 ∧ page.length = 4096 ∧ s.tenantKeys t = some k ∧
    (s.locPage t l addr [] []).bytes.length = 4096) ∧
  (∃ (t : Ten) (addr : Nat) (l : Loc) (b1 b2 : List (Fin 8)) (s : State),
    let f := l.p * 512 + addr % 2 ^ 21 / 4096
    let r := s.locPage t l addr (b1.map (·.val)) (b2.map (·.val))
    let home := (s.gran t (addr / 2 ^ 21)).st.home
    let lost := ((b1.map (·.val)).filter (b2.map (·.val)).contains).filter (fun u => decide (u < (s.mtc.page f).units.length))
    home = some l ∧ l.yard = true ∧ r.fails = 0 ∧ lost = []) ∧
  (∃ (t : Ten) (addr : Nat) (l : Loc) (b1 b2 : List (Fin 8)) (s : State),
    let r := s.locPage t l addr (b1.map (·.val)) (b2.map (·.val))
    let home := (s.gran t (addr / 2 ^ 21)).st.home
    home = some l ∧ l.yard = true ∧ r.fails ≠ 0) ∧
  (∃ (t : Ten) (addr : Nat) (l : Loc) (s : State),
    let home := (s.gran t (addr / 2 ^ 21)).st.home
    home = some l ∧ l.yard = true) ∧
  (∃ (t : Ten) (addr crc : Nat) (l : Loc) (s : State),
    let home := (s.gran t (addr / 2 ^ 21)).st.home
    home = some l ∧ l.yard = false ∧ crc ≤ 3) ∧
  (∃ (t : Ten) (addr crc : Nat) (l : Loc) (s : State),
    let home := (s.gran t (addr / 2 ^ 21)).st.home
    home = some l ∧ l.yard = false ∧ 3 < crc) ∧
  (∃ (t : Ten) (addr crc : Nat) (l : Loc) (s : State),
    let home := (s.gran t (addr / 2 ^ 21)).st.home
    home = some l ∧ l.yard = false ∧ crc ≤ 3 ∧ l.p ∈ s.mtc.bad) ∧
  (∃ (t : Ten) (addr : Nat) (l : Loc) (s : State), (s.gran t (addr / 2 ^ 21)).st = .stacked l.p ∧ l.p ∉ s.mtc.bad ∧
    s.compHeld .shunt = false) :=
  ⟨⟨31, 0x1fff000, List.replicate 4096 0, ((gm [(15, .yard 0)] []).tenantKeys 31).getD ([], []), ⟨true, 0⟩, gm [(15, .yard 0)] [],
    and3 (by decide +kernel) ⟨by decide +kernel, by decide +kernel, some_get (by decide +kernel), by decide +kernel⟩⟩,
   ⟨31, 0x1fff000, ⟨true, 0⟩, [7], [], gm [(15, .yard 0)] [], by decide +kernel⟩,
   ⟨31, 0x1fff000, ⟨true, 0⟩, [], [],
    let s := gm [(15, .yard 0)] [];
      { s with mtc := { s.mtc with yard := [(511, ⟨0, 512, 1, [List.replicate 512 0], [], [], []⟩)] }, ten := [(31, tn)] },
    by decide +kernel⟩,
   ⟨31, 0x1fff000, ⟨true, 0⟩, gm [(15, .yard 0)] [], by decide +kernel⟩,
   ⟨31, 0x1ffffff, 3, ⟨false, 0⟩, gm [(15, .stacked 0)] [], by decide⟩,
   ⟨31, 0x1ffffff, 4, ⟨false, 0⟩, gm [(15, .stacked 0)] [], by decide⟩,
   ⟨31, 31457280, 3, ⟨false, 0⟩, let s := gm [(15, .stacked 0)] []; { s with mtc := { s.mtc with bad := [0] } }, by decide⟩,
   ⟨31, 31457280, ⟨false, 0⟩, gm [(15, .stacked 0)] [], by decide⟩⟩

theorem test_premises_HeatRepairAndCalibration :
  (∃ (s : State), s.mtc.heatTime + 10000000 ≤ s.glb.devTime ∧ swf Granule.init s.mtc.map = true) ∧
  (∃ (s : State) (c : Cand), s.mtc.evalTime + 100000 ≤ s.glb.devTime ∧ s.compHeld .shunt = false ∧ s.mtc.moves = [] ∧
    s.mtc.autoSh = true ∧ swf Granule.init s.mtc.map = true ∧ s.candidates false = [] ∧ s.candidates true = [c] ∧
    s.mtc.promoteSh.toNat ≤ c.heat ∧ 256 ≤ s.mtc.stkFree.toNat) ∧
  (∃ (s : State), s.mtc.evalTime + 100000 ≤ s.glb.devTime ∧ s.compHeld .shunt = false ∧ s.mtc.moves = [] ∧ s.mtc.autoSh = false) ∧
  (∃ (t : Ten) (g : Nat) (l : Loc) (s : State), (s.gran t g).st = .zeroFill (some l)) ∧
  (∃ (unit row : Nat) (s : State), unit < 64 ∧
    let b := sget Bank.init s.mtc.banks unit
    (∀ e ∈ b.rowLog, e.row = row → e.count < 3)) ∧
  (∃ (unit row : Nat) (s : State), unit < 64 ∧ (∀ e ∈ (sget Bank.init s.mtc.banks unit).rowLog, e.row = row → e.count < 3) ∧
    ∃ (ue : List Nat), (∀ w ∈ ue, w < 32)) ∧
  (∃ (unit row : Nat) (s : State), unit < 64 ∧
    let b := sget Bank.init s.mtc.banks unit
    (∃ e ∈ b.rowLog, e.row = row ∧ 3 ≤ e.count) ∧ (sget 0 s.fuse.conSpareTest unit).toNat + b.spareField.toNat < 32) ∧
  (∃ (unit row : Nat) (s : State), 64 ≤ unit ∧ unit < 128 ∧
    let x := s.arr (unit - 64)
    (∃ e ∈ x.rowLog, e.row = row ∧ 3 ≤ e.count) ∧
    16 ≤ (sget 0 s.fuse.sidSpareTest (8 * (unit - 64) + row * 32 / 2 ^ 20)).toNat + sget 0 x.spareMib (row * 32 / 2 ^ 20)) ∧
  (∃ (ns : Nat) (s : State), s.mtc.phaseTime + 200000 ≤ s.glb.devTime ∧ s.mtc.phaseOut = none ∧ ns ≤ 1200) ∧
  (∃ (ns : Nat) (s : State), s.mtc.phaseTime + 200000 ≤ s.glb.devTime ∧ s.mtc.phaseOut = none ∧ 1200 < ns) ∧
  (∃ (s : State), s.mtc.driftTime + 200000 ≤ s.glb.devTime ∧ s.mtc.driftOut = none) ∧
  (∃ (ns : Nat) (s : State), s.mtc.driftTime + 200000 ≤ s.glb.devTime ∧ s.mtc.driftOut = none ∧ ns ≤ 4000) ∧
  (∃ (ns : Nat) (s : State), s.mtc.driftTime + 200000 ≤ s.glb.devTime ∧ s.mtc.driftOut = none ∧ 4000 < ns) ∧
  (∃ (s : State), s.mtc.phaseOut ≠ none) ∧
  (∃ (s : State), s.mtc.driftOut ≠ none) :=
  ⟨⟨{ base with mtc := { Mtc.init with heatTime := 99990000000 } }, by decide⟩,
   ⟨let s := gm [(15, .yard 0)] [];
      { s with mtc := { s.mtc with map := [(31 * 2 ^ 27 + 15, ⟨.yard 0, 0x40, 0⟩)], stkFree := 256 } },
    ⟨31, 15, 64⟩, by decide⟩,
   ⟨{ base with mtc := { Mtc.init with autoSh := false, auto := false } }, by decide⟩,
   ⟨31, 15, ⟨true, 0⟩, gm [(15, .zeroFill (some ⟨true, 0⟩))] [], by decide⟩,
   ⟨63, 9, { base with mtc := { Mtc.init with banks := [(63, ⟨[⟨9, 2, 0⟩], 0⟩)] } }, by decide, by decide⟩,
   ⟨63, 9, { base with mtc := { Mtc.init with banks := [(63, ⟨[⟨9, 2, 0⟩], 0⟩)] } }, by decide, by decide, [31], by decide⟩,
   ⟨63, 9, { base with mtc := { Mtc.init with banks := [(63, ⟨[⟨9, 3, 0⟩], 31⟩)] } }, by decide, by decide⟩,
   ⟨127, 9, sa { Arr.init with spareMib := [(0, 16)], rowLog := [⟨9, 3, 0⟩] }, by decide, by decide, by decide⟩,
   ⟨1200, { base with mtc := { Mtc.init with phaseTime := 99999800000 } }, by decide⟩,
   ⟨1201, { base with mtc := { Mtc.init with phaseTime := 99999800000 } }, by decide⟩,
   ⟨{ base with mtc := { Mtc.init with driftTime := 99999800000 } }, by decide⟩,
   ⟨4000, { base with mtc := { Mtc.init with driftTime := 99999800000 } }, by decide⟩,
   ⟨4001, { base with mtc := { Mtc.init with driftTime := 99999800000 } }, by decide⟩,
   ⟨{ base with mtc := { Mtc.init with phaseOut := some 63 } }, by decide⟩,
   ⟨{ base with mtc := { Mtc.init with driftOut := some 7 } }, by decide⟩⟩

theorem test_premises_AttentionLegs :
  (∃ (p : Pipe) (t : Nat) (r : LegReq) (s : State),
    let d := passDesc r.pd
    let part := s.tenantPart r.tenant
    s.pipeFree p = true ∧ s.pipeTurn p = some t ∧ s.firstLeg p (fun r => r.tenant == t) [] s.kv.legs = some r ∧
    d.badShape = false ∧ d.badCode = false ∧ d.ranges.all (fun x => part.allows false x.1 x.2) = true ∧ d.packed = true) ∧
  (∃ (p : Pipe) (t : Nat) (r : LegReq) (s : State),
    let d := passDesc r.pd
    s.pipeFree p = true ∧ s.pipeTurn p = some t ∧ s.firstLeg p (fun r => r.tenant == t) [] s.kv.legs = some r ∧ d.badShape = true) ∧
  (∃ (p : Pipe) (b : Nat) (g : Leg) (rest : List Nat) (s : State), (s.pipeline p).leg = some g ∧ g.blocks = b :: rest) ∧
  (∃ (p : Pipe) (g : Leg) (s : State), (s.pipeline p).leg = some g ∧ g.blocks = [] ∧ (∀ x ∈ g.rows, x.poison = false) ∧
    s.claimed 2 p = false ∧ (∀ e ∈ s.ten, ∀ j, e.2.rebind = some j → j.accepted = true → j.kind = 0 ∨ j.kind = 2)) :=
  ⟨⟨15, 31, ⟨(leBytes 4 0 ++ leBytes 4 2147483648 ++ List.replicate 56 0), 31, 2, 0⟩,
    { st tn with disp := [dp], kv := ⟨[], [⟨(leBytes 4 0 ++ leBytes 4 2147483648 ++ List.replicate 56 0), 31, 2, 0⟩], 0⟩ },
    by decide +kernel⟩,
   ⟨15, 31, ⟨(leBytes 4 0 ++ leBytes 4 1610612736 ++ List.replicate 56 0), 31, 2, 0⟩,
    { st tn with disp := [dp], kv := ⟨[], [⟨(leBytes 4 0 ++ leBytes 4 1610612736 ++ List.replicate 56 0), 31, 2, 0⟩], 0⟩ },
    by decide +kernel⟩,
   ⟨15, 31, ⟨⟨List.replicate 64 0, 31, 2, 0⟩, none, [31], [], [], [], []⟩, [],
    { base with pipe := [(15, { PipeSt.init with leg := some ⟨⟨List.replicate 64 0, 31, 2, 0⟩, none, [31], [], [], [], []⟩ })] },
    by decide⟩,
   ⟨15, ⟨⟨List.replicate 64 0, 31, 2, 0⟩, none, [], [], [], [], []⟩,
    { base with pipe := [(15, { PipeSt.init with leg := some ⟨⟨List.replicate 64 0, 31, 2, 0⟩, none, [], [], [], [], []⟩ })] },
    by decide⟩⟩

theorem test_premises_CopiesLoadArmAndRelease :
  (∃ (t : Ten) (q : Que) (w0 w1 : BitVec 64) (c : Fin 4) (s : State),
    let v := (s.tenant t).copy c
    MayIssue s t q w0 w1 ∧ pf w0 47 46 = c.val ∧ pOp w0 = 0x10 ∧ s.compHeld .loader = false ∧ v.st = .empty ∧
    4 ≤ (s.dep.loads.filter (·.running)).length) ∧
  (∃ (t : Ten) (q : Que) (w0 w1 : BitVec 64) (c : Fin 4) (s : State),
    let v := (s.tenant t).copy c
    MayIssue s t q w0 w1 ∧ pf w0 47 46 = c.val ∧ pOp w0 = 0x10 ∧ s.compHeld .loader = false ∧ v.st ≠ .empty) ∧
  (∃ (t : Ten) (q : Que) (w0 w1 : BitVec 64) (c : Fin 4) (s : State),
    let v := (s.tenant t).copy c
    MayIssue s t q w0 w1 ∧ pf w0 47 46 = c.val ∧ pOp w0 = 0x12 ∧ v.st = .loaded) ∧
  (∃ (t : Ten) (q : Que) (w0 w1 : BitVec 64) (c : Fin 4) (s : State),
    let v := (s.tenant t).copy c
    MayIssue s t q w0 w1 ∧ pf w0 47 46 = c.val ∧ pOp w0 = 0x12 ∧ v.st ≠ .loaded) ∧
  (∃ (t : Ten) (q : Que) (w0 w1 : BitVec 64) (c : Fin 4) (s : State),
    let v := (s.tenant t).copy c
    MayIssue s t q w0 w1 ∧ pf w0 47 46 = c.val ∧ pOp w0 = 0x13 ∧ v.st = .armed) ∧
  (∃ (t : Ten) (q : Que) (w0 w1 : BitVec 64) (c : Fin 4) (s : State),
    let v := (s.tenant t).copy c
    MayIssue s t q w0 w1 ∧ pf w0 47 46 = c.val ∧ pOp w0 = 0x14 ∧
    (v.st = .loaded ∨ v.st = .failed ∨ (v.st = .armed ∧ (s.tenant t).points ≠ some c)) ∧ (s.tenant t).refs c = 0) ∧
  (∃ (t : Ten) (q : Que) (w0 w1 : BitVec 64) (c : Fin 4) (s : State),
    let v := (s.tenant t).copy c
    MayIssue s t q w0 w1 ∧ pf w0 47 46 = c.val ∧ pOp w0 = 0x14 ∧
    (v.st = .loaded ∨ v.st = .failed ∨ (v.st = .armed ∧ (s.tenant t).points ≠ some c)) ∧ (s.tenant t).refs c ≠ 0 ∧
    (∀ k : Fin 4, ((s.tenant t).copy k).st ≠ .releasing)) :=
  ⟨⟨31, 7, 0x10C0C00000000000, 0, 3,
    { st tn with dep := { Dep.init with loads := List.replicate 4 ⟨0, 0, 2, 0, 0, true, false, [], true⟩ } },
    by unfold MayIssue Presents; decide, by decide⟩,
   ⟨31, 7, 0x10C0C00000000000, 0, 3, st (cp .loaded []), by unfold MayIssue Presents; decide, by decide⟩,
   ⟨31, 7, 0x1240C00000000000, 0, 3, st (cp .loaded []), by unfold MayIssue Presents; decide, by decide⟩,
   ⟨31, 7, 0x1240C00000000000, 0, 3, st (cp .armed []), by unfold MayIssue Presents; decide, by decide⟩,
   ⟨31, 7, 0x1340C00000000000, 0, 3, st (cp .armed []), by unfold MayIssue Presents; decide, by decide⟩,
   ⟨31, 7, 0x1440C00000000000, 0, 3, st (cp .failed []), by unfold MayIssue Presents; decide, by decide, by decide,
    .inr (.inl (by decide)), by decide⟩,
   ⟨31, 7, 0x1440C00000000000, 0, 3, st { cp .loaded [] with queues := [(7, { qu with batch := some ⟨some 3, true, 0⟩ })] },
    by unfold MayIssue Presents; decide, by decide, by decide, .inl (by decide), by decide⟩⟩

theorem test_premises_ShardsAreCheckedByDigest :
  (∃ (t : Ten) (c : Fin 4) (i : Nat) (m : List UnitErr) (s s2 : State) (j : LoadJob) (h : Shard),
    let v := (s.tenant t).copy c
    let got := s.depotRead j.keys true h.depotAddr h.length m
    s.compHeld .loader = false ∧ (∀ k ∈ s.dep.loads, k.running = true) ∧
    s.dep.loads.find? (fun j => j.tenant == t.val && j.copy == c && j.ready) = some j ∧ v.st = .loading ∧ v.shards[i]? = some h ∧
    i ∈ v.flying ∧ s.awaits (.shard t c i) = false ∧
    modelWrite t (v.base + h.offset) (unmarked got.data) (noteReadings got.readings s) = .ok s2 ∧ got.fail = none ∧
    sha256 got.data = h.digest ∧ (∃ k x, v.shards[k]? = some x ∧ k ≠ i ∧ x.accepted = false)) ∧
  (∃ (t : Ten) (c : Fin 4) (i : Nat) (m : List UnitErr) (s s2 : State) (j : LoadJob) (h : Shard),
    let v := (s.tenant t).copy c
    let got := s.depotRead j.keys true h.depotAddr h.length m
    s.compHeld .loader = false ∧ (∀ k ∈ s.dep.loads, k.running = true) ∧
    s.dep.loads.find? (fun j => j.tenant == t.val && j.copy == c && j.ready) = some j ∧ v.st = .loading ∧ v.shards[i]? = some h ∧
    i ∈ v.flying ∧ s.awaits (.shard t c i) = false ∧
    modelWrite t (v.base + h.offset) (unmarked got.data) (noteReadings got.readings s) = .ok s2 ∧ got.fail = none ∧
    sha256 got.data = h.digest ∧ (∀ k x, v.shards[k]? = some x → k ≠ i → x.accepted = true)) ∧
  (∃ (t : Ten) (c : Fin 4) (i : Nat) (m : List UnitErr) (s s2 : State) (j : LoadJob) (h : Shard) (e : BitVec 16 × Nat),
    let v := (s.tenant t).copy c
    let got := s.depotRead j.keys true h.depotAddr h.length m
    s.compHeld .loader = false ∧ (∀ k ∈ s.dep.loads, k.running = true) ∧
    s.dep.loads.find? (fun j => j.tenant == t.val && j.copy == c && j.ready) = some j ∧ v.st = .loading ∧ v.shards[i]? = some h ∧
    i ∈ v.flying ∧ s.awaits (.shard t c i) = false ∧
    modelWrite t (v.base + h.offset) (unmarked got.data) (noteReadings got.readings s) = .ok s2 ∧ got.fail = some e) ∧
  (∃ (t : Ten) (c : Fin 4) (i : Nat) (m : List UnitErr) (s s2 : State) (j : LoadJob) (h : Shard),
    let v := (s.tenant t).copy c
    let got := s.depotRead j.keys true h.depotAddr h.length m
    s.compHeld .loader = false ∧ (∀ k ∈ s.dep.loads, k.running = true) ∧
    s.dep.loads.find? (fun j => j.tenant == t.val && j.copy == c && j.ready) = some j ∧ v.st = .loading ∧ v.shards[i]? = some h ∧
    i ∈ v.flying ∧ s.awaits (.shard t c i) = false ∧
    modelWrite t (v.base + h.offset) (unmarked got.data) (noteReadings got.readings s) = .ok s2 ∧ got.fail = none ∧
    sha256 got.data ≠ h.digest) ∧
  (∃ (t : Ten) (q : Que) (w0 w1 : BitVec 64) (c : Fin 4) (s s1 : State) (h : Shard),
    let v := (s.tenant t).copy c
    pOp w0 = 0x11 ∧ MayIssue s t q w0 w1 ∧ pf w0 47 46 = c.val ∧ s.compHeld .loader = false ∧ v.checkable = true ∧
    w0.getLsbD 12 = false ∧ v.shards[pf w0 11 0]? = some h ∧ h.poisoned = false ∧ shardMatches t v h s = (true, s1)) ∧
  (∃ (t : Ten) (q : Que) (w0 w1 : BitVec 64) (c : Fin 4) (s s1 : State) (h : Shard),
    let v := (s.tenant t).copy c
    pOp w0 = 0x11 ∧ MayIssue s t q w0 w1 ∧ pf w0 47 46 = c.val ∧ s.compHeld .loader = false ∧ v.checkable = true ∧
    w0.getLsbD 12 = false ∧ v.shards[pf w0 11 0]? = some h ∧ h.poisoned = false ∧ shardMatches t v h s = (false, s1)) ∧
  (∃ (t : Ten) (c : Fin 4) (i : Nat) (s s1 : State) (h : Shard),
    let v := (s.tenant t).copy c
    let passed := { s with dep := { s.dep with interval := s.dep.intervalSh, share := s.dep.shareSh, passTime := s.glb.devTime } }
    s.dep.interval ≠ 0 ∧ s.dep.intervalSh ≠ 0 ∧ s.dep.passTime + s.dep.interval.toNat * 60000 * 100000 ≤ s.glb.devTime ∧
    s.compHeld .loader = false ∧ s.checkWork = [(t.val, c, i)] ∧ v.shards[i]? = some h ∧ h.poisoned = false ∧
    shardMatches t v h passed = (true, s1)) ∧
  (∃ (t : Ten) (c : Fin 4) (i : Nat) (s s1 : State) (h : Shard),
    let v := (s.tenant t).copy c
    let passed := { s with dep := { s.dep with interval := s.dep.intervalSh, share := s.dep.shareSh, passTime := s.glb.devTime } }
    s.dep.interval ≠ 0 ∧ s.dep.intervalSh ≠ 0 ∧ s.dep.passTime + s.dep.interval.toNat * 60000 * 100000 ≤ s.glb.devTime ∧
    s.compHeld .loader = false ∧ s.checkWork = [(t.val, c, i)] ∧ v.shards[i]? = some h ∧ h.poisoned = false ∧
    shardMatches t v h passed = (false, s1)) ∧
  (∃ (t : Ten) (c : Fin 4) (i : Nat) (m : List UnitErr) (s s2 : State) (h : Shard) (keys : Store Bytes),
    let v := (s.tenant t).copy c
    let again := s.depotRead keys true h.depotAddr h.length m
    v.shards[i]? = some h ∧ h.reload = some keys ∧ s.awaits (.reload t c i) = false ∧
    modelWrite t (v.base + h.offset) (unmarked again.data) (noteReadings again.readings s) = .ok s2 ∧ again.fail = none ∧
    sha256 again.data = h.digest) ∧
  (∃ (t : Ten) (c : Fin 4) (i : Nat) (m : List UnitErr) (s s2 : State) (h : Shard) (keys : Store Bytes) (e : BitVec 16 × Nat),
    let v := (s.tenant t).copy c
    let again := s.depotRead keys true h.depotAddr h.length m
    v.shards[i]? = some h ∧ h.reload = some keys ∧ s.awaits (.reload t c i) = false ∧
    modelWrite t (v.base + h.offset) (unmarked again.data) (noteReadings again.readings s) = .ok s2 ∧ again.fail = some e) :=
  ⟨⟨31, 3, 0, [⟨0, 15, true⟩],
    { st (cp .loading [sh (sha256 ones) false, sh [] false]) with dep := { fl with loads := [⟨31, 3, 2, 0, 0, true, false, [(31, ones)], true⟩] } },
    _, ⟨31, 3, 2, 0, 0, true, false, [(31, ones)], true⟩, sh (sha256 ones) false, and6 (by decide +kernel) ⟨by decide +kernel,
    ok_get (d := base) (by decide +kernel), by decide +kernel, by decide +kernel, ⟨1, sh [] false, rfl, by decide, rfl⟩⟩⟩,
   ⟨31, 3, 0, [⟨0, 15, true⟩],
    { st (cp .loading [sh (sha256 ones) false]) with dep := { fl with loads := [⟨31, 3, 2, 0, 0, true, false, [(31, ones)], true⟩] } },
    _, ⟨31, 3, 2, 0, 0, true, false, [(31, ones)], true⟩, sh (sha256 ones) false, and6 (by decide +kernel) ⟨by decide +kernel,
    ok_get (d := base) (by decide +kernel), by decide +kernel, by decide +kernel,
    by
      intro k x hx hk
      match k, hk, hx with
      | 0, hk, _ => exact absurd rfl hk
      | _ + 1, _, hx => exact absurd hx (by simp [cp, tn, st, base, Tenant.copy, State.tenant, sget])⟩⟩,
   ⟨31, 3, 0, [⟨0, 15, true⟩],
    { st (cp .loading [sh [] false]) with dep := { fl with loads := [⟨31, 3, 2, 0, 0, true, false, [(31, ones)], true⟩], sectors := [(0, { Sector.init with wptr := 1 })] } },
    _, ⟨31, 3, 2, 0, 0, true, false, [(31, ones)], true⟩, sh [] false, (Code.depotKey, 0),
    and6 (by decide +kernel) ⟨by decide +kernel, ok_get (d := base) (by decide +kernel), by decide +kernel⟩⟩,
   ⟨31, 3, 0, [⟨0, 15, true⟩],
    { st (cp .loading [sh [] false]) with dep := { fl with loads := [⟨31, 3, 2, 0, 0, true, false, [(31, ones)], true⟩] } }, _,
    ⟨31, 3, 2, 0, 0, true, false, [(31, ones)], true⟩, sh [] false, and6 (by decide +kernel) ⟨by decide +kernel,
    ok_get (d := base) (by decide +kernel), by decide +kernel⟩⟩,
   ⟨31, 7, 0x1140C00000000000, 0, 3, st (cp .armed [sh (sha256 (List.replicate 32 0)) true]), _,
    sh (sha256 (List.replicate 32 0)) true, by decide +kernel, by unfold MayIssue Presents; decide,
    and6 (by decide +kernel) (Prod.ext (by decide +kernel) rfl)⟩,
   ⟨31, 7, 0x1140C00000000000, 0, 3, st (cp .armed [sh [] true]), _, sh [] true, by decide +kernel,
    by unfold MayIssue Presents; decide, and6 (by decide +kernel) (Prod.ext (by decide +kernel) rfl)⟩,
   ⟨31, 3, 0, st (cp .armed [sh (sha256 (List.replicate 32 0)) true]), _, sh (sha256 (List.replicate 32 0)) true,
    and6 (by decide +kernel) ⟨by decide +kernel, Prod.ext (by decide +kernel) rfl⟩⟩,
   ⟨31, 3, 0, st (cp .armed [sh [] true]), _, sh [] true, and6 (by decide +kernel) ⟨by decide +kernel,
    Prod.ext (by decide +kernel) rfl⟩⟩,
   ⟨31, 3, 0, [⟨0, 15, true⟩], { st (cp .armed [⟨0, 32, 0, 0, sha256 ones, true, true, some [(31, ones)]⟩]) with dep := fl }, _,
    ⟨0, 32, 0, 0, sha256 ones, true, true, some [(31, ones)]⟩, [(31, ones)],
    and3 (by decide +kernel) ⟨ok_get (d := base) (by decide +kernel), by decide +kernel⟩⟩,
   ⟨31, 3, 0, [⟨0, 15, true⟩],
    { st (cp .armed [⟨0, 32, 0, 0, [], true, true, some []⟩]) with dep := { Dep.init with sectors := [(0, { Sector.init with wptr := 1 })] } },
    _, ⟨0, 32, 0, 0, [], true, true, some []⟩, [], (Code.depotKey, 0),
    and3 (by decide +kernel) ⟨ok_get (d := base) (by decide +kernel), by decide +kernel⟩⟩⟩

theorem test_premises_PortSequences :
  (∃ (p : WscPort) (x : Reg32) (s : State),
    let v := s.wsc p
    s.portOpen p = true ∧ v.step = 0 ∧ x.toNat % 65536 = 0x5A3C) ∧
  (∃ (p : WscPort) (x : Reg32) (s : State),
    let v := s.wsc p
    s.portOpen p = true ∧ v.step = 1 ∧ x.toNat % 65536 = 0xC3A5) ∧
  (∃ (p : WscPort) (s : State),
    let v := s.wsc p
    s.portOpen p = true ∧ 2 ≤ v.step) ∧
  (∃ (p : WscPort) (x : Reg32) (s : State),
    let v := s.wsc p
    s.portOpen p = true ∧ v.step = 2 ∧ (x.toNat % 256 = 0x10 ∨ x.toNat % 256 = 0x20 ∨ x.toNat % 256 = 0x60)) ∧
  (∃ (p : WscPort) (s : State),
    let v := s.wsc p
    s.portOpen p = true ∧ v.step = 3 ∧ v.pos = 0) ∧
  (∃ (p : WscPort) (s : State),
    let v := s.wsc p
    s.portOpen p = true ∧ v.step = 3 ∧ v.pos = 3 ∧ v.cmd ≠ 0x10 ∧ v.cmd ≠ 0x20 ∧ v.st ≠ .busy) ∧
  (∃ (p : WscPort) (s : State),
    let v := s.wsc p
    s.portOpen p = true ∧ v.step = 2) :=
  ⟨⟨.host, 0xFFFF5A3C, pt { WscP.init with step := 0 }, by decide⟩,
   ⟨.host, 0xC3A5, pt { WscP.init with step := 1 }, by decide⟩,
   ⟨.host, pt { WscP.init with step := 3 }, by decide⟩,
   ⟨.host, 0x60, pt { WscP.init with step := 2 }, by decide⟩,
   ⟨.host, pt { WscP.init with step := 3 }, by decide⟩,
   ⟨.host, pt { WscP.init with step := 3, pos := 3, cmd := 0x60, len := 1 }, by decide⟩,
   ⟨.host, pt { WscP.init with step := 2 }, by decide⟩⟩

theorem test_premises_PortProgramsAndErases :
  (∃ (p : WscPort) (s : State),
    let v := s.wsc p
    let addr := v.addr.toNat
    let free (n : Nat) := ∀ k ∈ sectorsOf addr n, (s.sector k).wp = false ∧ s.wptrDue k * 131072 ≤ (if k = addr / 2 ^ 26 then addr % 2 ^ 26 else 0) ∧ s.sectorErasing k = false ∧ s.toRead k = false
    s.portOpen p = true ∧ v.step = 3 ∧ v.cmd = 0x10 ∧ v.pos = 4 ∧ v.len.toNat / 4 ≤ v.words.length + 1 ∧ v.st ≠ .busy ∧
    addr % 4096 = 0 ∧ v.len.toNat % 4096 = 0 ∧ v.len ≠ 0 ∧ v.len.toNat ≤ 65536 ∧ s.portRange p addr v.len.toNat = true ∧
    free v.len.toNat ∧ (s.keySlot v.ksel.toNat).installed = true) ∧
  (∃ (p : WscPort) (s : State),
    let v := s.wsc p
    let addr := v.addr.toNat
    s.portOpen p = true ∧ v.step = 3 ∧ v.cmd = 0x10 ∧ v.pos = 4 ∧ v.len.toNat / 4 ≤ v.words.length + 1 ∧ v.st ≠ .busy ∧
    addr % 4096 = 0 ∧ v.len.toNat % 4096 = 0 ∧ v.len ≠ 0 ∧ v.len.toNat ≤ 65536 ∧ s.portRange p addr v.len.toNat = true ∧
    (∃ k ∈ sectorsOf addr v.len.toNat, (s.sector k).wp = true)) ∧
  (∃ (p : WscPort) (x : Reg32) (s : State),
    let v := s.wsc p
    let bulk := v.latch (some .stageHi) x
    let addr := v.addr.toNat
    let free (n : Nat) := ∀ k ∈ sectorsOf addr n, (s.sector k).wp = false ∧ s.wptrDue k * 131072 ≤ (if k = addr / 2 ^ 26 then addr % 2 ^ 26 else 0) ∧ s.sectorErasing k = false ∧ s.toRead k = false
    s.portOpen p = true ∧ v.step = 3 ∧ v.pos = 5 ∧ v.st ≠ .busy ∧ addr % 4096 = 0 ∧ v.len.toNat % 4096 = 0 ∧ v.len ≠ 0 ∧
    v.len.toNat ≤ 2 ^ 30 ∧ s.portRange p addr v.len.toNat = true ∧ bulk.stage.toNat % 4096 = 0 ∧
    s.stageStacked bulk.stageTenant.toNat bulk.stage.toNat v.len.toNat = true ∧ free v.len.toNat ∧
    (s.keySlot v.ksel.toNat).installed = true) ∧
  (∃ (p : WscPort) (x : Reg32) (s : State),
    let v := s.wsc p
    let addr := v.addr.toNat
    s.portOpen p = true ∧ v.step = 3 ∧ v.pos = 2 ∧ v.cmd = 0x20 ∧ v.st = .ready ∧ addr % 2 ^ 26 = 0 ∧ x.toNat % 2 ^ 26 = 0 ∧
    x ≠ 0 ∧ x.toNat ≤ s.dies * 2 ^ 26 ∧ s.portRange p addr x.toNat = true ∧
    (∀ k ∈ sectorsOf addr x.toNat, (s.sector k).wp = false ∧ s.sectorBusy k = false ∧ s.toRead k = false)) ∧
  (∃ (p : WscPort) (s : State),
    let v := s.wsc p
    s.portOpen p = true ∧ v.step = 2 ∧ v.eraseLeft ≠ [] ∧ v.userSusp = false) ∧
  (∃ (p : WscPort) (s : State),
    let v := s.wsc p
    s.portOpen p = true ∧ v.step = 2 ∧ v.eraseLeft ≠ [] ∧ v.userSusp = true) ∧
  (∃ (p : WscPort) (s : State),
    let v := s.wsc p
    s.portOpen p = true ∧ v.step = 2 ∧ v.eraseLeft = []) :=
  ⟨⟨.host,
    pt { WscP.init with step := 3, cmd := 0x10, pos := 4, ksel := 31, addr := 4096, len := 4096, words := List.replicate 1023 0 },
    by decide +kernel⟩,
   ⟨.host,
    let s := pt { WscP.init with step := 3, cmd := 0x10, pos := 4, ksel := 31, addr := 4096, len := 4096, words := List.replicate 1023 0 };
      { s with dep := { s.dep with sectors := [] } },
    by decide +kernel⟩,
   ⟨.host, 0x1F0000,
    pt { WscP.init with step := 3, cmd := 0x10, pos := 5, ksel := 31, addr := 0x3FFF000, len := 4096, stage := 0x1FF000 },
    by decide +kernel⟩,
   ⟨.host, 0x4000000, pt { WscP.init with step := 3, cmd := 0x20, pos := 2 }, by decide +kernel⟩,
   ⟨.host, pt { WscP.init with step := 2, eraseLeft := [0] }, by decide⟩,
   ⟨.host, pt { WscP.init with step := 2, eraseLeft := [0], userSusp := true }, by decide⟩,
   ⟨.host, pt { WscP.init with step := 2 }, by decide⟩⟩

theorem test_premises_PortReads :
  (∃ (p : WscPort) (x : Reg32) (s : State),
    let v := s.wsc p
    let addr := (v.latch (some .addrHi) x).addr.toNat
    s.portOpen p = true ∧ v.step = 0 ∧ v.st = .ready ∧ s.portSector p (addr / 2 ^ 26) = true) ∧
  (∃ (p : WscPort) (x : Reg32) (s : State),
    let v := s.wsc p
    let bulk := v.latch (some .stageHi) x
    s.portOpen p = true ∧ v.step = 0 ∧ v.st = .ready ∧ v.len ≠ 0 ∧ v.len.toNat ≤ 2 ^ 30 ∧ bulk.stage.toNat % 4096 = 0 ∧
    s.portRange p v.addr.toNat v.len.toNat = true) ∧
  (∃ (p : WscPort) (retries : Nat) (ok : Bool) (s : State),
    let v := s.wsc p
    let sec := v.raddr / 2 ^ 26
    let got := s.readUnit v.rkeys sec (v.raddr / 4096 % 16384) retries ok
    v.rpend = true ∧ s.sectorBusy sec = false ∧ (s.die (s.dieOf sec)).owes (.port p) = false ∧ got.2 = none) ∧
  (∃ (p : WscPort) (s : State),
    let v := s.wsc p
    s.portReads p = true ∧ v.shown = true) ∧
  (∃ (p : WscPort) (w : Reg32) (s : State),
    let v := s.wsc p
    let sec := v.raddr / 2 ^ 26
    s.portReads p = true ∧ v.shown = false ∧ v.st = .ready ∧ v.step = 0 ∧ s.sectorBusy sec = false ∧ v.rdReady = true ∧
    v.rptr < 1023 ∧ v.rbuf[v.rptr]? = some w) ∧
  (∃ (p : WscPort) (s : State),
    let v := s.wsc p
    let sec := v.raddr / 2 ^ 26
    s.portReads p = true ∧ v.shown = false ∧ v.st = .ready ∧ v.step = 0 ∧ s.sectorBusy sec = false ∧ v.rdReady = false) ∧
  (∃ (s : State), s.glb.portUp = true ∧ s.glb.d3hot = true) ∧
  (∃ (retries sector unit : Nat) (ok : Bool) (s : State), s.isUser sector = true ∧ unit < 16384 ∧ s.sectorBusy sector = false ∧
    (s.wsc .host).bulkEnd ≤ (s.wsc .host).bulkPos ∧ (s.wsc .fw).bulkEnd ≤ (s.wsc .fw).bulkPos ∧
    (s.readUnit s.secrets sector unit retries ok).2 = none) ∧
  (∃ (retries sector unit : Nat) (ok : Bool) (s s2 : State), s.isUser sector = true ∧ unit < 16384 ∧
    s.sectorBusy sector = false ∧ (s.wsc .host).bulkPos = sector * 2 ^ 26 + unit * 4096 ∧
    let h := s.wsc .host
    let r := s.readUnit h.bulkKeys sector unit retries ok
    h.bulkPos + 4096 ≤ h.bulkEnd ∧ (s.die (s.dieOf sector)).owes (.bulk .host) = false ∧ r.2 = none ∧
    modelWrite h.bulkTenant h.bulkStage (r.1.take 4096) (noteRetries sector unit retries s) = .ok s2) :=
  ⟨⟨.host, 0, pt { WscP.init with step := 0 }, by decide⟩,
   ⟨.host, 0, pt { WscP.init with len := 0x40000000 }, by decide⟩,
   ⟨.host, 15, true, pt { WscP.init with rpend := true, raddr := 0x3FFF000 }, by decide +kernel⟩,
   ⟨.host, pt { WscP.init with shown := true }, by decide⟩,
   ⟨.host, 7, pt { WscP.init with rdReady := true, rptr := 1022, rbuf := List.replicate 1024 7 }, by decide +kernel⟩,
   ⟨.host, pt { WscP.init with rdReady := false }, by decide +kernel⟩,
   ⟨{ base with glb := { base.glb with d3hot := true } }, by decide⟩,
   ⟨15, 29439, 16383, true, pt { WscP.init with step := 0 }, by decide +kernel⟩,
   ⟨15, 0, 16383, true, pt { WscP.init with bulkPos := 0x3FFF000, bulkEnd := 0x4000000, bulkTenant := 31, bulkStage := 0x1FF000 },
    _, and6 (by decide +kernel) ⟨by decide +kernel, ok_get (d := base) (by decide +kernel)⟩⟩⟩

theorem test_premises_DiesProgramEraseAndRead :
  (∃ (d : Fin 16) (pu : ProgUnit) (s : State),
    let x := s.die d
    x.running = some pu ∧ s.inHand pu = true) ∧
  (∃ (d : Fin 16) (e : EraseOp) (s : State),
    let x := s.die d
    x.st = .erasing ∧ x.erase = some e ∧ (s.wsc e.port).owns e.port e = true ∧ (s.wsc e.port).eraseOver = false) ∧
  (∃ (d : Fin 16) (e : EraseOp) (s : State),
    let x := s.die d
    x.st = .erasing ∧ x.erase = some e ∧ (s.wsc e.port).owns e.port e = true) ∧
  (∃ (d : Fin 16) (s : State),
    let x := s.die d
    x.st = .reading ∧ x.rest = [] ∧ x.reads = [] ∧ x.progs = [] ∧ x.eraseQ = [] ∧
    (∀ a b, x.reading.map DieRead.who ≠ some (.manifest a b))) ∧
  (∃ (d : Fin 16) (r : DieRead) (s : State),
    let x := s.die d
    x.st = .reading ∧ x.reading = some r ∧ r.more ≠ 0 ∧ x.reads = []) ∧
  (∃ (d : Fin 16) (r : DieRead) (s : State),
    let x := s.die d
    ∃ (v : DieRead), x.st = .reading ∧ x.reading = some r ∧ r.more ≠ 0 ∧ x.reads = [v] ∧ v.cls < r.cls) ∧
  (∃ (d : Fin 16) (e : EraseOp) (s : State),
    let x := s.die d
    d.val < s.dies ∧ x.st = .erasing ∧ x.erase = some e ∧ (e.aged = false ∨ (s.wsc e.port).ageGuard = false)) ∧
  (∃ (d : Fin 16) (e : EraseOp) (s : State),
    let x := s.die d
    d.val < s.dies ∧ x.st = .erasing ∧ x.erase = some e ∧ e.aged = true ∧ (s.wsc e.port).ageGuard = true) ∧
  (∃ (d : Fin 16) (r : DieRead) (s : State),
    let x := s.die d
    x.st = .suspending ∧ x.reads = [r]) ∧
  (∃ (d : Fin 16) (s : State),
    let x := s.die d
    x.st = .resuming) ∧
  (∃ (core : Fin 8) (cm : Comp) (addr : Nat) (s : State), core.val ≠ 7 ∧ compCore cm = core.val ∧ s.firmwareRuns = true ∧
    s.isDevice (addr / 2 ^ 26) = true ∧
    let key := unitKey (addr / 2 ^ 26) (addr / 4096 % 16384)
    key ∉ s.dep.icache ∧ s.sectorBusy (addr / 2 ^ 26) = false) ∧
  (∃ (core : Fin 8) (cm : Comp) (addr : Nat) (s : State), core.val ≠ 7 ∧ compCore cm = core.val ∧ s.firmwareRuns = true ∧
    s.isDevice (addr / 2 ^ 26) = true ∧
    let key := unitKey (addr / 2 ^ 26) (addr / 4096 % 16384)
    key ∉ s.dep.icache ∧ s.sectorBusy (addr / 2 ^ 26) = true) :=
  ⟨⟨15, ⟨.host, 15, 0, 0, 31, [], none, 31, [], 0⟩,
    { base with dep := { Dep.init with dies := [(15, { Die.init with st := .programming, progs := [⟨.host, 15, 0, 0, 31, [], none, 31, [], 0⟩] })], host := { WscP.init with progLeft := 1 } } },
    by decide⟩,
   ⟨15, ⟨.host, 15, 0, false, false, 0⟩,
    { base with dep := { Dep.init with dies := [(15, { Die.init with st := .erasing, erase := some ⟨.host, 15, 0, false, false, 0⟩ })], host := { WscP.init with eraseLeft := [15] } } },
    by decide⟩,
   ⟨15, ⟨.host, 15, 0, false, false, 0⟩,
    { base with dep := { Dep.init with dies := [(15, { Die.init with st := .erasing, erase := some ⟨.host, 15, 0, false, false, 0⟩ })], host := { WscP.init with eraseLeft := [15] } } },
    by decide⟩,
   ⟨15,
    { base with dep := { Dep.init with dies := [(15, { Die.init with st := .reading, reading := some ⟨4, .other, 0⟩ })], host := { WscP.init with step := 0 } } },
    and3 (by decide) ⟨by decide, by decide, by intro a b h; cases h⟩⟩,
   ⟨15, ⟨4, .other, 31⟩,
    { base with dep := { Dep.init with dies := [(15, { Die.init with st := .reading, reading := some ⟨4, .other, 31⟩ })], host := { WscP.init with step := 0 } } },
    by decide⟩,
   ⟨15, ⟨4, .other, 31⟩,
    { base with dep := { Dep.init with dies := [(15, { Die.init with st := .reading, reading := some ⟨4, .other, 31⟩, reads := [⟨0, .other, 0⟩] })], host := { WscP.init with step := 0 } } },
    ⟨0, .other, 0⟩, by decide⟩,
   ⟨15, ⟨.host, 15, 0, false, true, 0⟩,
    { base with dep := { Dep.init with dies := [(15, { Die.init with st := .erasing, erase := some ⟨.host, 15, 0, false, true, 0⟩ })], host := { WscP.init with step := 0 } } },
    and3 (by decide) (.inr (by decide))⟩,
   ⟨15, ⟨.host, 15, 0, false, true, 0⟩,
    { base with dep := { Dep.init with dies := [(15, { Die.init with st := .erasing, erase := some ⟨.host, 15, 0, false, true, 0⟩ })], host := { WscP.init with ageGuard := true } } },
    by decide⟩,
   ⟨15, ⟨4, .other, 0⟩,
    { base with dep := { Dep.init with dies := [(15, { Die.init with st := .suspending, erase := some ⟨.host, 15, 0, false, false, 0⟩, reads := [⟨4, .other, 0⟩] })], host := { WscP.init with step := 0 } } },
    by decide⟩,
   ⟨15,
    { base with dep := { Dep.init with dies := [(15, { Die.init with st := .resuming })], host := { WscP.init with step := 0 } } },
    by decide⟩,
   ⟨6, .mgmt, 0x1FC00000000, base, by decide +kernel, by decide +kernel, by decide +kernel, by decide +kernel, by decide +kernel⟩,
   ⟨6, .mgmt, 0x1FC3C000000, di { Die.init with progs := [⟨.fw, 0x7F0F, 0, 0, 31, [], none, 31, [], 0⟩] }, by decide +kernel,
    by decide +kernel, by decide +kernel, by decide +kernel, by decide +kernel⟩⟩

theorem test_premises_ExpressArmsAndDisarms :
  (∃ (t : Ten) (q : Que) (w0 w1 : BitVec 64) (x : Fin 4) (s : State), pOp w0 = 0x38 ∧ MayIssue s t q w0 w1 ∧
    armFails t w0 s = none ∧ pf w0 11 10 = x.val) ∧
  (∃ (t : Ten) (q : Que) (w0 w1 : BitVec 64) (n : Nat) (s : State),
    let y := s.tenant t
    pOp w0 = 0x38 ∧ MayIssue s t q w0 w1 ∧ armFails t w0 s = some n ∧ y.st = .running) ∧
  (∃ (t : Ten) (q : Que) (x : Fin 4) (e : Issued) (ce ue : List Nat) (s : State),
    let v := s.xid x
    v.st = .arming ∧ s.glb.st ≠ .safeHold ∧ s.xpr.spareValid = true ∧ (xidErrs x ce ue (copyImage x s)).imagesMatch x = true ∧
    (xidErrs x ce ue (copyImage x s)).badMember x = none ∧ s.xpr.laneA.faulted = false ∧ v.form = none ∧
    v.armJob = some (q.val, e.idx) ∧ v.tenant.toNat = t ∧ e ∈ (s.queue t q).issued ∧ e.status = none ∧ e.cpl = true) ∧
  (∃ (t : Ten) (q : Que) (x : Fin 4) (e : Issued) (ce ue : List Nat) (s : State),
    let v := s.xid x
    v.st = .arming ∧ s.glb.st ≠ .safeHold ∧ s.xpr.spareValid = true ∧ (xidErrs x ce ue (copyImage x s)).imagesMatch x = false ∧
    v.armJob = some (q.val, e.idx) ∧ v.tenant.toNat = t ∧ (s.queue t q).st = .idle ∧ (s.queue t q).enable = true ∧
    e ∈ (s.queue t q).issued ∧ e.status = none) ∧
  (∃ (t : Ten) (q : Que) (w0 w1 : BitVec 64) (s : State), pOp w0 = 0x39 ∧ MayIssue s t q w0 w1 ∧ s.tenantXid t = none) ∧
  (∃ (t : Ten) (q : Que) (w0 w1 : BitVec 64) (x : Fin 4) (s : State),
    let v := s.xid x
    pOp w0 = 0x39 ∧ MayIssue s t q w0 w1 ∧ s.tenantXid t = some x.val ∧ v.st = .idle ∧ v.inv = none ∧ v.waitSeq = none ∧
    v.disarmJobs = []) :=
  ⟨⟨31, 7, 0x3840F00000064C00, 0, 3, { put 0 xtab (st xa) with xpr := xp }, by decide +kernel,
    by unfold MayIssue Presents; decide +kernel, by decide +kernel⟩,
   ⟨31, 7, 0x3840F00000063C00, 0, 0x207, { put 0 xtab (st xa) with xpr := xp }, by decide +kernel,
    by unfold MayIssue Presents; decide +kernel, by decide +kernel⟩,
   ⟨31, 7, 3, ⟨0, 0x38, true, false, none, 0, 0⟩, [3], [],
    let s := xs ({ xi with st := .arming, armJob := some (7, 0), copy := 3, table := { xt with part := 0 }, roles := [] }) xp [];
      { s with ten := [(31, { xa with queues := [(7, { qu with issued := [⟨0, 0x38, true, false, none, 0, 0⟩] })] })] },
    by decide +kernel⟩,
   ⟨31, 7, 3, ⟨0, 0x38, true, false, none, 0, 0⟩, [3], [],
    let s := let s := xs ({ xi with st := .arming, armJob := some (7, 0), copy := 3, table := { xt with part := 0 }, roles := [] }) xp [];
      { s with ten := [(31, { xa with queues := [(7, { qu with issued := [⟨0, 0x38, true, false, none, 0, 0⟩] })] })] };
      { s with ten := [(31, { xa with copies := [(3, { Copy.init with st := .armed, shards := [⟨0, 0, 0, 0, [], true, false, none⟩] })], queues := [(7, { qu with issued := [⟨0, 0x38, true, false, none, 0, 0⟩] })] })] },
    by decide +kernel⟩,
   ⟨31, 7, 0x3940000000000000, 0, st { tn with cls := 1 }, by decide, by unfold MayIssue Presents; decide, by decide⟩,
   ⟨31, 7, 0x3940000000000000, 0, 3, xs xi xp [], by decide, by unfold MayIssue Presents; decide, by decide⟩⟩

theorem test_premises_SafetyLinkRequests :
  (∃ (l : Lane) (x : Fin 4) (c : ReqCopy) (s : State),
    let now := s.glb.devTime
    let v := s.xid x
    v.armed = true ∧ v.st ≠ .held ∧ v.copies = [(l, c)] ∧ c.time + 2000 ≤ now ∧ v.first = true ∧ v.waitSeq = none ∧
    s.windowOpen = false ∧ v.arrays.Nodup) ∧
  (∃ (x : Fin 4) (c : ReqCopy) (s : State),
    let now := s.glb.devTime
    let v := s.xid x
    v.armed = true ∧ v.st ≠ .held ∧ v.copies = [] ∧ v.reqA = some c ∧ v.reqB = none ∧ c.first = true ∧ c.told = false ∧
    c.time + 2000 ≤ now) ∧
  (∃ (l : Lane) (f : Bytes) (s : State), s.linkUp = true ∧ (s.lane l).aligned = true ∧ frameOk l f = true ∧ frType f = 0x1E) ∧
  (∃ (l : Lane) (f : Bytes) (x : Fin 4) (s : State),
    let v := s.xid x
    s.linkUp = true ∧ (s.lane l).aligned = true ∧ frameOk l f = true ∧ frType f = 0x11 ∧ frXid f = x.val ∧ v.armed = false ∧
    v.answered.contains (l, frSeq f) = false) ∧
  (∃ (l : Lane) (f : Bytes) (x : Fin 4) (s : State),
    let v := s.xid x
    s.linkUp = true ∧ (s.lane l).aligned = true ∧ (s.lane l).faulted = false ∧ frameOk l f = true ∧ frType f = 0x11 ∧
    frXid f = x.val ∧ v.armed = true ∧ v.st ≠ .held ∧ v.disarmJobs = [] ∧ v.resetAfter = false ∧ v.reqA = none ∧ v.reqB = none ∧
    v.holds l (frSeq f) = false ∧ frFrag f = 0 ∧ frNfrag f ≠ 0 ∧ frNfrag f + 1 ≤ v.table.reqFrags) ∧
  (∃ (l : Lane) (f : Bytes) (x : Fin 4) (c : ReqCopy) (s : State),
    let v := s.xid x
    s.linkUp = true ∧ (s.lane l).aligned = true ∧ (s.lane l).faulted = false ∧ frameOk l f = true ∧ frType f = 0x11 ∧
    frXid f = x.val ∧ v.armed = true ∧ v.st ≠ .held ∧ v.disarmJobs = [] ∧ v.resetAfter = false ∧ v.waitSeq = none ∧
    v.first = true ∧ v.holds l (frSeq f) = false ∧ v.reqCopy l = some c ∧
    c = ⟨frSeq f, frNfrag f, frFrag f, false, false, c.time, c.first, false⟩ ∧ frFrag f = frNfrag f ∧ frFrag f ≠ 0 ∧
    frNfrag f + 1 ≤ v.table.reqFrags ∧ v.holds (otherLane l) (frSeq f) = true ∧ v.arrays.Nodup) ∧
  (∃ (l : Lane) (slot : List LineChar) (s : State),
    let now := s.glb.devTime
    s.linkUp = true ∧ (s.lane l).aligned = true ∧
    let times := (s.lane l).discardTimes.filter (fun d => decide (now < d + 100000)) ++ [now]
    (∃ c ∈ slot, c ≠ idleChar) ∧ frameOk l ((slotBytes slot).getD []) = false ∧ times.length ≤ 4) ∧
  (∃ (l : Lane) (slot : List LineChar) (s : State),
    let now := s.glb.devTime
    s.linkUp = true ∧ (s.lane l).aligned = true ∧
    let times := (s.lane l).discardTimes.filter (fun d => decide (now < d + 100000)) ++ [now]
    (∃ c ∈ slot, c ≠ idleChar) ∧ frameOk l ((slotBytes slot).getD []) = false ∧ 4 < times.length) :=
  ⟨⟨.a, 3, ⟨9, 0, 1, true, false, 99999998000, true, false⟩,
    xs { xi with first := true, copies := [(.a, ⟨9, 0, 1, true, false, 99999998000, true, false⟩)] } xp [], by decide +kernel⟩,
   ⟨3, ⟨9, 1, 1, false, false, 99999998000, true, false⟩,
    xs { xi with reqA := some ⟨9, 1, 1, false, false, 99999998000, true, false⟩ } xp [], by decide +kernel⟩,
   ⟨.b, frm 0x1E 0x20 0 0 0 5, xs xi xp [], by decide +kernel⟩,
   ⟨.b, frm 0x11 0xE0 9 0 0 5, 3, xs Xid.init xp [], by decide +kernel⟩,
   ⟨.b, frm 0x11 0xE0 9 0 254 5, 3, xs xi xp [], by decide +kernel⟩,
   ⟨.b, frm 0x11 0xE0 9 254 254 5, 3, ⟨9, 254, 254, false, false, 100000000000, true, false⟩,
    xs { xi with first := true, reqB := some ⟨9, 254, 254, false, false, 100000000000, true, false⟩, copies := [(.a, ⟨9, 254, 255, true, false, 100000000000, true, false⟩)] } xp [],
    by decide +kernel⟩,
   ⟨.b, [.d 7],
    xs xi { xp with laneB := { LaneSt.init with aligned := true, discardTimes := [99999900001, 99999900002, 99999900003] } } [],
    by decide, by decide, by decide⟩,
   ⟨.b, [.d 7],
    xs xi { xp with laneB := { LaneSt.init with aligned := true, discardTimes := [99999900001, 99999900002, 99999900003, 99999900004] } } [],
    by decide, by decide, by decide⟩⟩

theorem test_premises_ExpressInvocations :
  (∃ (x : Fin 4) (i : Invocation) (s : State),
    let v := s.xid x
    v.st = .idle ∧ v.inv = none ∧ v.waitSeq = some i ∧ s.xpr.proof = none ∧ v.arrays.Nodup ∧
    (∀ a ∈ v.arrays, (s.arr a).active = none ∧ 1 ≤ (sget 0 (s.arr a).tq 15).toNat)) ∧
  (∃ (x : Fin 4) (r : Fin 8) (i : Invocation) (s : State),
    let now := s.glb.devTime
    let v := s.xid x
    let m := v.roles.getD r (0, 0)
    v.st = .running ∧ r.val < v.roles.length ∧ v.inv = some i ∧ i.finalOk = false ∧ v.rerun = none ∧
    i.stepTime + v.stepLimit < now ∧ ((s.arr m.1).atBarrier = none ∨ (s.arr m.2).atBarrier = none) ∧ s.glb.st ≠ .safeHold ∧
    s.windowOpen = false ∧ s.xpr.spareReady = true) ∧
  (∃ (x : Fin 4) (r : Fin 8) (i : Invocation) (s : State),
    let now := s.glb.devTime
    let v := s.xid x
    let m := v.roles.getD r (0, 0)
    v.st = .running ∧ r.val < v.roles.length ∧ v.inv = some i ∧ i.finalOk = false ∧ v.rerun = none ∧
    i.stepTime + v.stepLimit < now ∧ ((s.arr m.1).atBarrier = none ∨ (s.arr m.2).atBarrier = none) ∧ s.glb.st ≠ .safeHold ∧
    s.xpr.spareReady = false) ∧
  (∃ (x : Fin 4) (r : Fin 8) (i : Invocation) (s : State),
    let now := s.glb.devTime
    let v := s.xid x
    let m := v.roles.getD r (0, 0)
    v.st = .running ∧ r.val < v.roles.length ∧ v.inv = some i ∧ i.finalOk = false ∧ v.rerun = none ∧
    i.stepTime + v.stepLimit < now ∧ ((s.arr m.1).atBarrier = none ∨ (s.arr m.2).atBarrier = none) ∧ s.glb.st ≠ .safeHold ∧
    s.windowOpen = true ∧ s.xpr.spareReady = true) ∧
  (∃ (x : Fin 4) (r : Fin 8) (k : Rerun) (s : State),
    let now := s.glb.devTime
    let v := s.xid x
    let spa := s.xpr.spa.toNat
    let spb := s.xpr.spb.toNat
    let a := s.arr spa
    let b := s.arr spb
    v.st = .rerun ∧ v.rerun = some k ∧ k.role = r.val ∧ k.time + v.stepLimit < now ∧ (a.atBarrier = none ∨ b.atBarrier = none) ∧
    s.glb.st ≠ .safeHold) ∧
  (∃ (x : Fin 4) (k : Rerun) (bar bar' : Nat) (s : State),
    let v := s.xid x
    let spa := s.xpr.spa.toNat
    let spb := s.xpr.spb.toNat
    let a := s.arr spa
    let b := s.arr spb
    let n := v.roles.getD k.role (0, 0)
    let z := (s.tenant v.tenant.toNat).barrier bar
    let agrees : Prop := a.fp = b.fp ∧ a.fpPoison = false ∧ b.fpPoison = false ∧ ∃ g ∈ z.arrivals, (g.ary = n.1 ∨ g.ary = n.2) ∧ g.fp = a.fp
    v.st = .rerun ∧ v.rerun = some k ∧ k.role < v.roles.length ∧ a.atBarrier = some bar ∧ b.atBarrier = some bar' ∧ agrees ∧
    (z.arrivals.filter (fun g => g.ary != n.1 && g.ary != n.2)).length + 2 < 2 * v.table.pairs) ∧
  (∃ (x : Fin 4) (k : Rerun) (bar bar' : Nat) (s : State),
    let v := s.xid x
    let spa := s.xpr.spa.toNat
    let spb := s.xpr.spb.toNat
    let a := s.arr spa
    let b := s.arr spb
    v.st = .rerun ∧ v.rerun = some k ∧ k.role < v.roles.length ∧ a.atBarrier = some bar ∧ b.atBarrier = some bar' ∧
    s.glb.st ≠ .safeHold) ∧
  (∃ (x : Fin 4) (k : Rerun) (bar bar' : Nat) (s : State),
    let v := s.xid x
    let spa := s.xpr.spa.toNat
    let spb := s.xpr.spb.toNat
    let a := s.arr spa
    let b := s.arr spb
    let n := v.roles.getD k.role (0, 0)
    let z := (s.tenant v.tenant.toNat).barrier bar
    let agrees : Prop := a.fp = b.fp ∧ a.fpPoison = false ∧ b.fpPoison = false ∧ ∃ g ∈ z.arrivals, (g.ary = n.1 ∨ g.ary = n.2) ∧ g.fp = a.fp
    v.st = .rerun ∧ v.rerun = some k ∧ k.role < v.roles.length ∧ a.atBarrier = some bar ∧ b.atBarrier = some bar' ∧ (¬agrees) ∧
    s.glb.st ≠ .safeHold) ∧
  (∃ (x : Fin 4) (r : Fin 8) (s : State),
    let v := s.xid x
    v.provable = true ∧ s.xpr.proved.contains x.val = false ∧ s.xpr.spareValid = true ∧ s.xpr.proof = none ∧
    s.windowOpen = false ∧ s.glb.st ≠ .safeHold ∧ r.val < v.roles.length ∧ (∀ z : Fin 4, (s.xid z).rerun = none)) ∧
  (∃ (p : Proof) (bar bar' : Nat) (s : State),
    let spa := s.xpr.spa.toNat
    let spb := s.xpr.spb.toNat
    let a := s.arr spa
    let b := s.arr spb
    s.xpr.proof = some p ∧ a.atBarrier = some bar ∧ b.atBarrier = some bar' ∧ a.fp = b.fp ∧ a.fpPoison = false ∧
    b.fpPoison = false ∧ sget 0 (s.xid p.x).record p.role = a.fp) ∧
  (∃ (p : Proof) (bar bar' : Nat) (s : State),
    let spa := s.xpr.spa.toNat
    let spb := s.xpr.spb.toNat
    let a := s.arr spa
    let b := s.arr spb
    s.xpr.proof = some p ∧ a.atBarrier = some bar ∧ b.atBarrier = some bar' ∧ s.anyArmed = true ∧ s.glb.st ≠ .safeHold) ∧
  (∃ (p : Proof) (bar bar' : Nat) (s : State),
    let spa := s.xpr.spa.toNat
    let spb := s.xpr.spb.toNat
    let a := s.arr spa
    let b := s.arr spb
    s.xpr.proof = some p ∧ a.atBarrier = some bar ∧ b.atBarrier = some bar' ∧ a.fp ≠ b.fp) :=
  ⟨⟨3, ⟨9, 0, false, 0, false, false, false, 0⟩,
    xs { xi with waitSeq := some ⟨9, 0, false, 0, false, false, false, 0⟩ } xp [(62, { Arr.init with tq := [(15, 1)] }), (63, { Arr.init with tq := [(15, 1)] })],
    by decide +kernel⟩,
   ⟨3, 0, ⟨9, 0, false, 0, false, false, false, 0⟩,
    xs { xi with st := .running, inv := some ⟨9, 0, false, 0, false, false, false, 0⟩ } xp [], by decide +kernel⟩,
   ⟨3, 0, ⟨9, 0, false, 0, false, false, false, 0⟩,
    xs { xi with st := .running, inv := some ⟨9, 0, false, 0, false, false, false, 0⟩ } { xp with spareReady := false } [],
    by decide +kernel⟩,
   ⟨3, 0, ⟨9, 0, false, 0, false, false, false, 0⟩,
    xs { xi with st := .running, inv := some ⟨9, 0, false, 0, false, false, false, 0⟩, window := true } xp [], by decide +kernel⟩,
   ⟨3, 0, ⟨0, 0, 0⟩, xs { xi with st := .rerun, rerun := some ⟨0, 0, 0⟩ } xp [], by decide +kernel⟩,
   ⟨3, ⟨0, 0, 0⟩, 15, 15,
    let s := xs { xi with table := { xt with pairs := 2 }, st := .rerun, rerun := some ⟨0, 0, 0⟩ } xp [(0, { Arr.init with wait := .sync 15, fp := 7 }), (1, { Arr.init with wait := .sync 15, fp := 7 })];
      { s with ten := [(31, { tn with cls := 1, barriers := [(15, ⟨[⟨62, 2, 7, false, false, 0⟩], false⟩)] })] },
    by decide +kernel⟩,
   ⟨3, ⟨0, 0, 0⟩, 15, 15,
    let s := xs { xi with table := { xt with pairs := 2 }, st := .rerun, rerun := some ⟨0, 0, 0⟩ } xp [(0, { Arr.init with wait := .sync 15, fp := 7 }), (1, { Arr.init with wait := .sync 15, fp := 7 })];
      { s with ten := [(31, { tn with cls := 1, barriers := [(15, ⟨[⟨62, 2, 7, false, false, 0⟩], false⟩)] })] },
    by decide +kernel⟩,
   ⟨3, ⟨0, 0, 0⟩, 15, 15,
    xs { xi with st := .rerun, rerun := some ⟨0, 0, 0⟩ } xp [(0, { Arr.init with wait := .sync 15, fp := 7 }), (1, { Arr.init with wait := .sync 15, fp := 8 })],
    by decide +kernel⟩,
   ⟨3, 0, xs { xi with record := [(0, 7)] } xp [], by decide +kernel⟩,
   ⟨⟨3, 0⟩, 15, 15,
    xs { xi with record := [(0, 7)] } { xp with proof := some ⟨3, 0⟩ } [(0, { Arr.init with wait := .sync 15, fp := 7 }), (1, { Arr.init with wait := .sync 15, fp := 7 })],
    by decide +kernel⟩,
   ⟨⟨3, 0⟩, 15, 15,
    xs { xi with record := [(0, 7)] } { xp with proof := some ⟨3, 0⟩ } [(0, { Arr.init with wait := .sync 15, fp := 7 }), (1, { Arr.init with wait := .sync 15, fp := 7 })],
    by decide +kernel⟩,
   ⟨⟨3, 0⟩, 15, 15,
    xs { xi with record := [(0, 7)] } { xp with proof := some ⟨3, 0⟩ } [(0, { Arr.init with wait := .sync 15, fp := 7 }), (1, { Arr.init with wait := .sync 15, fp := 8 })],
    by decide +kernel⟩⟩

theorem test_premises_SafeHoldCauses :
  (∃ (x : Fin 4) (i : Invocation) (s : State),
    let now := s.glb.devTime
    (s.xid x).armed = true ∧ s.glb.st ≠ .safeHold ∧ (s.xid x).st ≠ .held ∧ ((s.xid x).inv = some i ∨ (s.xid x).waitSeq = some i) ∧
    i.resStarted = false ∧ i.avail + 48000 ≤ now) ∧
  (∃ (x : Fin 4) (s : State),
    let now := s.glb.devTime
    (s.xid x).armed = true ∧ s.glb.st ≠ .safeHold ∧ s.xpr.clockTime + 100000 ≤ now) ∧
  (∃ (x : Fin 4) (s : State), (s.xid x).armed = true ∧ s.glb.st ≠ .safeHold ∧ s.glb.porN = true) ∧
  (∃ (x : Fin 4) (ra rb : Bool) (s : State),
    let now := s.glb.devTime
    (s.xid x).armed = true ∧ s.glb.st ≠ .safeHold ∧ s.xpr.checkTime + 1000000 ≤ now ∧ (ra && rb) = false) ∧
  (∃ (s : State),
    let now := s.glb.devTime
    s.xpr.clockTime + 100000 ≤ now) ∧
  (∃ (s : State), s.glb.porN = true ∧ s.anyArmed = false) ∧
  (∃ (s : State), s.glb.porN = false) ∧
  (∃ (s : State),
    let now := s.glb.devTime
    s.xpr.checkTime + 1000000 ≤ now) ∧
  (∃ (s : State),
    let now := s.glb.devTime
    s.glb.st = .safeHold ∧ s.xpr.holdTime + 20000 ≤ now ∧ ∃ (z : Fin 4), (s.xid z).st = .held ∧ (s.xid z).roles ≠ [] ∧
    (s.xid z).disarmJobs ≠ []) ∧
  (∃ (s : State),
    let now := s.glb.devTime
    s.glb.st = .safeHold ∧ s.xpr.holdTime + 20000 ≤ now ∧ (∀ z : Fin 4, (s.xid z).disarmJobs = [] ∧ (s.xid z).resetAfter = false)) :=
  ⟨⟨3, ⟨9, 99999952000, false, 0, false, false, false, 0⟩,
    xs { xi with st := .running, inv := some ⟨9, 99999952000, false, 0, false, false, false, 0⟩ } xp [], by decide⟩,
   ⟨3, xs xi { xp with clockTime := 99999900000 } [], by decide⟩,
   ⟨3, xs xi xp [], by decide⟩,
   ⟨3, true, false, xs xi { xp with checkTime := 99999000000 } [], by decide⟩,
   ⟨let s := base; { s with xpr := { Xpr.init with clockTime := 99999900000 } }, by decide⟩,
   ⟨base, by decide⟩,
   ⟨sg (fun g => { g with porN := false }), by decide⟩,
   ⟨base, by decide⟩,
   ⟨let s := xs { xi with st := .held, disarmJobs := [(7, 0)] } xp []; { s with glb := { s.glb with st := .safeHold } }, by decide,
    by decide, 3, by decide⟩,
   ⟨let s := base; { s with glb := { s.glb with st := .safeHold }, xpr := { Xpr.init with holdTime := 99999980000 } }, by decide⟩⟩

theorem test_premises_LanesTransmit :
  (∃ (l : Lane) (s : State),
    let now := s.glb.devTime
    let v := s.lane l
    s.linkUp = true ∧ v.txq = [] ∧ (∀ t, v.slotTime = some t → t + 256 ≤ now) ∧ (∀ t, v.txTime = some t → t + 256 + 19400 ≤ now)) ∧
  (∃ (l : Lane) (f : Bytes) (rest : List Bytes) (s : State),
    let now := s.glb.devTime
    let v := s.lane l
    s.linkUp = true ∧ (∀ t, v.slotTime = some t → t + 256 ≤ now) ∧ sget [] v.txq 4 = [] ∧ v.txNext < 4 ∧
    sget [] v.txq v.txNext = f :: rest ∧ frType f ≠ 0x21 ∧ frType f ≠ 0x2E) ∧
  (∃ (l : Lane) (s : State),
    let now := s.glb.devTime
    let v := s.lane l
    s.linkUp = true ∧ (∀ t, v.slotTime = some t → t + 256 ≤ now) ∧ (∀ k, sget [] v.txq k = [])) ∧
  (∃ (l : Lane) (f : Bytes) (rest : List Bytes) (x : Fin 4) (i : Invocation) (s : State),
    let now := s.glb.devTime
    let v := s.lane l
    s.linkUp = true ∧ (∀ t, v.slotTime = some t → t + 256 ≤ now) ∧ sget [] v.txq 4 = [] ∧ v.txNext = x.val ∧
    sget [] v.txq x = f :: rest ∧ frType f = 0x21 ∧ frXid f = x.val ∧ frFrag f = frNfrag f ∧ (s.xid x).inv = some i ∧
    i.seq = frSeq f ∧ i.oneLane = true ∧ (s.xid x).disarmJobs = [] ∧ (s.xid x).resetAfter = false) ∧
  (∃ (l : Lane) (t : Nat) (s : State),
    let now := s.glb.devTime
    let v := s.lane l
    (v.lastValid = some t ∨ (v.lastValid = none ∧ s.xpr.watchdogFrom = some t)) ∧ t + 50000 ≤ now) ∧
  (∃ (l : Lane) (t : Nat) (s : State),
    let now := s.glb.devTime
    let v := s.lane l
    (v.lastValid = some t ∨ (v.lastValid = none ∧ s.xpr.watchdogFrom = some t)) ∧ now < t + 50000) ∧
  (∃ (l : Lane) (t : Nat) (s : State),
    let now := s.glb.devTime
    let v := s.lane l
    v.faulted = true ∧ v.cleanSince + 10000000 ≤ now ∧ v.lastValid = some t ∧ now < t + 50000) ∧
  (∃ (s : State), s.linkUp = true) :=
  ⟨⟨.b, xs xi { xp with laneB := { LaneSt.init with aligned := true, txTime := none } } [], by decide, by decide,
    (by intro t h; cases h), (by intro t h; cases h)⟩,
   ⟨.b, frm 0x12 0xE0 9 0 0 5, [],
    xs xi { xp with laneB := { LaneSt.init with aligned := true, txNext := 3, txq := [(3, [frm 0x12 0xE0 9 0 0 5])] } } [],
    by decide +kernel, (by intro t h; cases h), by decide +kernel⟩,
   ⟨.b, xs xi { xp with laneB := { LaneSt.init with aligned := true, txq := [] } } [], by decide, (by intro t h; cases h),
    (by intro k; rfl)⟩,
   ⟨.b, frm 0x21 0xE0 9 254 254 5, [], 3, ⟨9, 0, false, 0, false, false, true, 0⟩,
    xs { xi with inv := some ⟨9, 0, false, 0, false, false, true, 0⟩ } { xp with laneB := { LaneSt.init with aligned := true, txNext := 3, txq := [(3, [frm 0x21 0xE0 9 254 254 5])] } } [],
    by decide +kernel, (by intro t h; cases h), by decide +kernel⟩,
   ⟨.b, 99999950000, xs xi { xp with laneB := { LaneSt.init with aligned := true, lastValid := some 99999950000 } } [],
    .inl (by decide), by decide⟩,
   ⟨.b, 99999950001, xs xi { xp with laneB := { LaneSt.init with aligned := true, lastValid := some 99999950001 } } [],
    .inl (by decide), by decide⟩,
   ⟨.b, 99999950001,
    xs xi { xp with laneB := { LaneSt.init with aligned := true, faulted := true, cleanSince := 99990000000, lastValid := some 99999950001 } } [],
    by decide⟩,
   ⟨base, by decide⟩⟩

theorem test_premises_ComponentsRestart :
  (∃ (core : Fin 8) (c : Comp) (s : State),
    let v := sget CompSt.init s.sec.comps (compIdx c)
    s.firmwareRuns = true ∧ v.held = false ∧ (c = .express → s.anyArmed = false) ∧ (s.recentRestarts c).length ≤ 2 ∧
    compCore c = core.val) ∧
  (∃ (c : Comp) (s : State),
    let v := sget CompSt.init s.sec.comps (compIdx c)
    s.firmwareRuns = true ∧ v.held = false ∧ (c = .express → s.anyArmed = false) ∧ (s.recentRestarts c).length ≤ 2) ∧
  (∃ (core : Fin 8) (c : Comp) (s : State),
    let v := sget CompSt.init s.sec.comps (compIdx c)
    s.firmwareRuns = true ∧ v.held = false ∧ (c = .express → s.anyArmed = false) ∧ 3 ≤ (s.recentRestarts c).length ∧
    compCore c = core.val) ∧
  (∃ (core : Fin 8) (c : Comp) (s : State),
    let v := sget CompSt.init s.sec.comps (compIdx c)
    s.firmwareRuns = true ∧ v.held = false ∧ (core = 7 → s.anyArmed = false) ∧
    (∀ d : Comp, compCore d = core.val → (sget CompSt.init s.sec.comps (compIdx d)).held = false ∧ (s.recentRestarts d).length ≤ 2)) ∧
  (∃ (c : Comp) (s : State),
    let v := sget CompSt.init s.sec.comps (compIdx c)
    s.firmwareRuns = true ∧ v.held = false ∧ c = .express ∧ s.anyArmed = true ∧ s.glb.st ≠ .safeHold) :=
  ⟨⟨5, .loader, { base with sec := { Sec.init with comps := [(8, ⟨[94000000000, 94000000001], false, none⟩)] } },
    by decide +kernel, by decide +kernel, (by intro h; cases h), by decide +kernel⟩,
   ⟨.loader, { base with sec := { Sec.init with comps := [(8, ⟨[94000000000, 94000000001], false, none⟩)] } }, by decide +kernel,
    by decide +kernel, (by intro h; cases h), by decide +kernel⟩,
   ⟨5, .loader, { base with sec := { Sec.init with comps := [(8, ⟨[94000000000, 94000000001, 94000000002], false, none⟩)] } },
    by decide +kernel, by decide +kernel, (by intro h; cases h), by decide +kernel⟩,
   ⟨7, .express, base, and3 (by decide +kernel) ((by intro c h; cases c <;> revert h <;> decide))⟩,
   ⟨.express, xs xi xp [], by decide +kernel⟩⟩

theorem test_premises_HostAttachmentAndLoss :
  (∃ (v : Reg32) (s : State),
    let g := s.glb
    let major := v.extractLsb' 24 8
    let minor := v.extractLsb' 16 8
    s.hostReaches = true ∧ v.getLsbD 1 = false ∧ (g.st = .awaitHost ∨ g.lost = true) ∧ major = 1 ∧ 2 ≤ minor.toNat ∧
    minor.toNat ≤ 4) ∧
  (∃ (v : Reg32) (s : State),
    let g := s.glb
    let major := v.extractLsb' 24 8
    let minor := v.extractLsb' 16 8
    s.hostReaches = true ∧ v.getLsbD 1 = false ∧ (g.st = .awaitHost ∨ g.lost = true) ∧
    (¬ (major = 1 ∧ 2 ≤ minor.toNat ∧ minor.toNat ≤ 4))) ∧
  (∃ (v : Reg32) (s : State),
    let g := s.glb
    s.hostReaches = true ∧ v.getLsbD 1 = false ∧ g.st ≠ .awaitHost ∧ g.lost = false) ∧
  (∃ (s : State),
    let g := s.glb
    s.hostReaches = true ∧ g.attached = true ∧ g.devTime < g.hbTime + 30000000) ∧
  (∃ (s : State),
    let g := s.glb
    s.hostReaches = true ∧ g.attached = true ∧ g.hbTime + 30000000 ≤ g.devTime) ∧
  (∃ (s : State),
    let g := s.glb
    s.hostReaches = true ∧ g.attached = false ∧ g.verOk = true ∧ g.sessionOk = true ∧ g.scanUnlocked = false ∧ g.st = .awaitHost ∧
    s.anyArmed = false) ∧
  (∃ (s : State),
    let g := s.glb
    s.hostReaches = true ∧ g.attached = false ∧ (g.verOk = false ∨ g.sessionOk = false ∨ g.scanUnlocked = true)) ∧
  (∃ (s : State),
    let g := s.glb
    g.attached = true ∧ g.hbTime + 30000000 ≤ g.devTime) ∧
  (∃ (s : State),
    let g := s.glb
    g.devTime < g.hbTime + 30000000) :=
  ⟨⟨0x01040000, sg (fun g => { g with st := .awaitHost }), by decide⟩,
   ⟨0x01050000, sg (fun g => { g with lost := true }), by decide, by decide, .inr (by decide), by decide⟩,
   ⟨0x01040000, base, by decide⟩,
   ⟨sg (fun g => { g with hbTime := 99970000001 }), by decide⟩,
   ⟨sg (fun g => { g with hbTime := 99970000000 }), by decide⟩,
   ⟨sg (fun g => { g with st := .awaitHost, attached := false }), by decide⟩,
   ⟨sg (fun g => { g with attached := false, sessionOk := false }), by decide⟩,
   ⟨sg (fun g => { g with hbTime := 99970000000 }), by decide⟩,
   ⟨sg (fun g => { g with hbTime := 99970000001 }), by decide⟩⟩

theorem test_premises_SpdmRequestsAreAnswered :
  (∃ (s : State), s.responds = true) ∧
  (∃ (s : State), s.responds = true ∧ 1 ≤ s.sec.conn) ∧
  (∃ (ver : BitVec 8) (s : State), s.responds = true ∧ ver ≠ 0x12) ∧
  (∃ (s : State), s.responds = true ∧ s.sec.conn = 0) ∧
  (∃ (s : State), s.responds = true ∧ 2 ≤ s.sec.conn) ∧
  (∃ (s : State), s.responds = true ∧ s.sec.conn < 2) ∧
  (∃ (s : State), s.responds = true ∧ 3 ≤ s.sec.conn) ∧
  (∃ (slot : BitVec 8) (s : State), s.responds = true ∧ slot ≠ 0) ∧
  (∃ (s : State), s.responds = true ∧ s.sec.conn < 3) :=
  ⟨⟨base, by decide⟩,
   ⟨se { Sec.init with conn := 1 }, by decide⟩,
   ⟨0x11, base, by decide⟩,
   ⟨se { Sec.init with conn := 0 }, by decide⟩,
   ⟨se { Sec.init with conn := 2 }, by decide⟩,
   ⟨se { Sec.init with conn := 1 }, by decide⟩,
   ⟨se { Sec.init with conn := 3 }, by decide⟩,
   ⟨1, base, by decide⟩,
   ⟨se { Sec.init with conn := 2 }, by decide⟩⟩

theorem test_premises_SpdmSessions :
  (∃ (s : State), s.responds = true ∧ 3 ≤ s.sec.conn ∧ s.sec.hostRoot = none) ∧
  (∃ (req : BitVec 16) (s : State), s.responds = true ∧
    let new := BitVec.ofNat 32 ((s.sec.sidNext.toNat % 2 ^ 16) * 2 ^ 16 + req.toNat)
    3 ≤ s.sec.conn ∧ s.sec.hostRoot.isSome = true ∧ s.sec.sessions.length < 4 ∧ s.session? new = none) ∧
  (∃ (s : State), s.responds = true ∧ 3 ≤ s.sec.conn ∧ s.sec.hostRoot.isSome = true ∧ 4 ≤ s.sec.sessions.length) ∧
  (∃ (sid : BitVec 32) (x : Session) (s : State), s.responds = true ∧ s.session? sid = some x ∧ x.stage = .handshake) ∧
  (∃ (sid : BitVec 32) (ch : ChainResult) (x : Session) (s : State), s.responds = true ∧ s.session? sid = some x ∧
    x.stage = .encap ∧ ch.verifies = true ∧ s.sec.hostRoot = some ch.rootDigest) ∧
  (∃ (sid : BitVec 32) (ch : ChainResult) (x : Session) (s : State), s.responds = true ∧ s.session? sid = some x ∧
    x.stage = .encap ∧ (ch.verifies = false ∨ s.sec.hostRoot ≠ some ch.rootDigest)) ∧
  (∃ (sid : BitVec 32) (x : Session) (s : State), s.responds = true ∧ s.session? sid = some x ∧ x.stage = .verified) ∧
  (∃ (sid : BitVec 32) (x : Session) (s : State), s.responds = true ∧ s.session? sid = some x ∧ x.stage = .established) ∧
  (∃ (sid : BitVec 32) (x : Session) (s : State), s.responds = true ∧ s.session? sid = some x ∧ x.stage ≠ .established) :=
  ⟨⟨se { Sec.init with conn := 3 }, by decide⟩,
   ⟨0xFFFF, se (ses .handshake), by decide, by decide⟩,
   ⟨se { ses .handshake with sessions := List.replicate 4 ⟨7, .handshake, true, 0⟩ }, by decide⟩,
   ⟨7, ⟨7, .handshake, true, 0⟩, se (ses .handshake), by decide⟩,
   ⟨7, ⟨true, ones⟩, ⟨7, .encap, true, 0⟩, se (ses .encap), by decide⟩,
   ⟨7, ⟨true, []⟩, ⟨7, .encap, true, 0⟩, se (ses .encap), and3 (by decide) (.inr (by decide))⟩,
   ⟨7, ⟨7, .verified, true, 0⟩, se (ses .verified), by decide⟩,
   ⟨7, ⟨7, .established, true, 0⟩, se (ses .established), by decide⟩,
   ⟨7, ⟨7, .verified, true, 0⟩, se (ses .verified), by decide⟩⟩

theorem test_premises_KeyOperations :
  (∃ (sid : BitVec 32) (k : Fin 32) (t : Ten) (flags : BitVec 8) (secret signer : Bytes) (s : State),
    let v := s.keySlot k
    let signed : Option Bytes := if flags.getLsbD 0 then some signer else none
    s.keysOpen sid = true ∧ (s.tenant t).bindKey.getLsbD k = true ∧ v.installed = false ∧ secret.length = 32 ∧
    (∀ g ∈ signed, signerOk g = true)) ∧
  (∃ (sid : BitVec 32) (k : Fin 32) (t : Ten) (flags : BitVec 8) (secret signer : Bytes) (s : State),
    let v := s.keySlot k
    let signed : Option Bytes := if flags.getLsbD 0 then some signer else none
    s.keysOpen sid = true ∧ (s.tenant t).bindKey.getLsbD k = true ∧ v.installed = false ∧ secret.length = 32 ∧
    (∃ g ∈ signed, signerOk g = false)) ∧
  (∃ (sid : BitVec 32) (k : Fin 32) (t : Ten) (blob key : Bytes) (sg : Option Bytes) (s : State),
    let v := s.keySlot k
    s.keysOpen sid = true ∧ (s.tenant t).bindKey.getLsbD k = true ∧ v.installed = false ∧ s.unwrap blob = some (key, sg) ∧
    (∀ g ∈ sg, signerOk g = true)) ∧
  (∃ (sid : BitVec 32) (k : Fin 32) (t : Ten) (blob key : Bytes) (sg : Option Bytes) (s : State),
    let v := s.keySlot k
    s.keysOpen sid = true ∧ (s.tenant t).bindKey.getLsbD k = true ∧ v.installed = false ∧ s.unwrap blob = some (key, sg) ∧
    (∃ g ∈ sg, signerOk g = false)) ∧
  (∃ (sid : BitVec 32) (k : Fin 32) (t : Ten) (blob : Bytes) (s : State),
    let v := s.keySlot k
    s.keysOpen sid = true ∧ (s.tenant t).bindKey.getLsbD k = true ∧ v.installed = false ∧ s.unwrap blob = none) ∧
  (∃ (sid : BitVec 32) (k : Fin 32) (t : Ten) (secret : Bytes) (s : State), s.keysOpen sid = true ∧ secret.length = 32 ∧
    (s.tenant t).bindKey.getLsbD k = false) ∧
  (∃ (sid : BitVec 32) (k : Fin 32) (t : Ten) (secret : Bytes) (s : State),
    let v := s.keySlot k
    s.keysOpen sid = true ∧ secret.length = 32 ∧ (s.tenant t).bindKey.getLsbD k = true ∧ v.installed = true) ∧
  (∃ (sid : BitVec 32) (k : Fin 32) (t : Ten) (s : State), s.keysOpen sid = true ∧ (s.tenant t).bindKey.getLsbD k = true) ∧
  (∃ (sid : BitVec 32) (s : State), s.keysOpen sid = true) ∧
  (∃ (sid : BitVec 32) (s : State), s.responds = true ∧ s.atStage sid .established = false) :=
  ⟨⟨7, 31, 31, 0, ones, [], se (ses .established), and3 (by decide) ⟨by decide, (by intro g h; cases h)⟩⟩,
   ⟨7, 31, 31, 1, ones, [], se (ses .established), and3 (by decide) ⟨by decide, ⟨[], rfl, by decide⟩⟩⟩,
   ⟨7, 31, 31, blob0 (se (ses .established)) 0, _, none, se (ses .established),
    and3 (by decide) ⟨unwrap_blob0 _ 0 (by decide +kernel), (by intro g h; cases h)⟩⟩,
   ⟨7, 31, 31, blob0 (se (ses .established)) 1, _, some ((plain0 (se (ses .established))).drop 32), se (ses .established),
    and3 (by decide) ⟨unwrap_blob0 _ 1 (by decide +kernel), ⟨_, rfl, by decide +kernel⟩⟩⟩,
   ⟨7, 31, 31, [], se (ses .established), and3 (by decide) (by decide +kernel)⟩,
   ⟨7, 30, 31, ones, se (ses .established), by decide⟩,
   ⟨7, 31, 31, ones, se { ses .established with slots := [(31, ⟨true, false, List.replicate 32 0, none, 1⟩)] }, by decide⟩,
   ⟨7, 31, 31, se (ses .established), by decide⟩,
   ⟨7, se (ses .established), by decide⟩,
   ⟨8, se (ses .established), by decide⟩⟩

theorem test_premises_WrappedBlobsUnwrap :
    ∃ (secret signer nonce : Bytes), secret.length = 32 ∧ signer.length = 97 ∧ nonce.length = 12 :=
  ⟨ones, List.replicate 97 0, List.replicate 12 0, by decide⟩

theorem test_premises_ManagementPort :
  (∃ (net : NetPacket) (s : State), s.firmwareRuns = true ∧ s.compHeld .mgmt = false ∧ net.bytes ≤ 1500 ∧ net.tags ≤ 1 ∧
    s.sec.mgtRoot = none) ∧
  (∃ (ch : ChainResult) (net : NetPacket) (s : State), s.firmwareRuns = true ∧ s.compHeld .mgmt = false ∧ net.bytes ≤ 1500 ∧
    net.tags ≤ 1 ∧ s.sec.mgtRoot = some ch.rootDigest ∧ ch.verifies = true) ∧
  (∃ (ch : ChainResult) (net : NetPacket) (s : State), s.firmwareRuns = true ∧ s.compHeld .mgmt = false ∧ net.bytes ≤ 1500 ∧
    net.tags ≤ 1 ∧ s.sec.mgtRoot.isSome = true ∧ (s.sec.mgtRoot ≠ some ch.rootDigest ∨ ch.verifies = false)) ∧
  (∃ (v : Reg32) (s : State),
    let m := s.mgt
    s.mgtOpen = true ∧ m.busy = false ∧ m.tls = .session ∧ v.getLsbD 30 = true ∧ 1 ≤ (v.extractLsb' 24 4).toNat ∧
    (v.extractLsb' 24 4).toNat ≤ 8) ∧
  (∃ (s : State), s.mgtOpen = true) ∧
  (∃ (acc : List MgtAccess) (s : State), s.mgtOpen = true ∧ 512 < acc.length) ∧
  (∃ (s : State),
    let m := s.mgt
    s.mgtOpen = true ∧ m.busy = true) ∧
  (∃ (s : State),
    let m := s.mgt
    s.mgtOpen = true ∧ m.busy = false ∧ m.tx.length < 256) ∧
  (∃ (s : State),
    let m := s.mgt
    s.mgtOpen = true ∧ m.busy = false ∧ 256 ≤ m.tx.length) ∧
  (∃ (w : Reg32) (rest : List Reg32) (s : State),
    let m := s.mgt
    s.mgtOpen = true ∧ m.rx = w :: rest ∧ m.pend = []) ∧
  (∃ (s : State),
    let m := s.mgt
    s.mgtOpen = true ∧ m.rx = []) :=
  ⟨⟨⟨1500, 1⟩, base, by decide⟩,
   ⟨⟨true, ones⟩, ⟨1500, 1⟩,
    let s := mg { Mgt.init with tls := .session }; { s with sec := { Sec.init with mgtRoot := some ones } }, by decide⟩,
   ⟨⟨false, ones⟩, ⟨1500, 1⟩,
    let s := mg { Mgt.init with tls := .session }; { s with sec := { Sec.init with mgtRoot := some ones } },
    and3 (by decide) ⟨by decide, by decide, .inr (by decide)⟩⟩,
   ⟨0x48000000, mg { Mgt.init with tls := .session }, by decide⟩,
   ⟨mg { Mgt.init with tls := .session }, by decide⟩,
   ⟨List.replicate 513 ⟨0, false, 0⟩, mg { Mgt.init with tls := .session }, by decide +kernel⟩,
   ⟨mg { Mgt.init with tls := .session, busy := true }, by decide⟩,
   ⟨mg { Mgt.init with tls := .session, tx := List.replicate 255 0 }, by decide +kernel⟩,
   ⟨mg { Mgt.init with tls := .session, tx := List.replicate 256 0 }, by decide +kernel⟩,
   ⟨1, [], mg { Mgt.init with tls := .session, rx := [1] }, by decide⟩,
   ⟨mg { Mgt.init with tls := .session }, by decide⟩⟩

theorem test_premises_MailboxOperations :
  (∃ (img : ImageCheck) (l : List Reg32) (s : State),
    let m := s.mgt
    s.manages = true ∧ m.busy = true ∧ m.pend = [] ∧ m.op = 1 ∧ m.input = some l ∧ s.compHeld .bootmon = false ∧
    img.signatureOk = true ∧ s.fuse.minSecVersion ≤ img.secVersion ∧ s.imageFits (wordBytes l) = true ∧ s.mboxWaits = false) ∧
  (∃ (img : ImageCheck) (l : List Reg32) (s : State),
    let m := s.mgt
    s.manages = true ∧ m.busy = true ∧ m.pend = [] ∧ s.mboxWaits = true ∧ ∃ (i : Instr),
    ((m.op = 1 ∧ i = .fwStage img) ∨ (m.op = 4 ∧ i = .setHostRoot) ∨ (m.op = 5 ∧ i = .setMgtRoot) ∨ (m.op = 8 ∧ i = .netcfg)) ∧
    m.input = some l) ∧
  (∃ (job : FwJob) (data : Bytes) (retries : Nat) (ok : Bool) (s : State),
    let m := s.mgt
    s.manages = true ∧ m.busy = true ∧ m.pend = [] ∧
    let v := s.dep.fw
    let sec := v.raddr / 2 ^ 26
    let got := s.readUnit v.rkeys sec (v.raddr / 4096 % 16384) retries ok
    v.rpend = true ∧ s.sectorBusy sec = false ∧ (s.die (s.dieOf sec)).owes (.port .fw) = false ∧ got.2 = none ∧ v.st = .ready ∧
    v.step = 0 ∧ s.compHeld .bootmon = false ∧ s.dep.jobs = [job] ∧ job.running = true ∧ job.steps = [.check v.raddr data] ∧
    job.dead = false ∧ job.mbox = true) ∧
  (∃ (img : ImageCheck) (l : List Reg32) (s : State),
    let m := s.mgt
    s.manages = true ∧ m.busy = true ∧ m.pend = [] ∧ m.op = 1 ∧ m.input = some l ∧ s.mboxWaits = false ∧
    s.compHeld .bootmon = false ∧ (img.signatureOk = false ∨ img.secVersion < s.fuse.minSecVersion)) ∧
  (∃ (s : State),
    let m := s.mgt
    s.manages = true ∧ m.busy = true ∧ m.pend = [] ∧ m.op = 2 ∧ s.compHeld .telem = false) ∧
  (∃ (s : State),
    let m := s.mgt
    s.manages = true ∧ m.busy = true ∧ m.pend = [] ∧ m.op = 3) ∧
  (∃ (l : List Reg32) (s : State),
    let m := s.mgt
    s.manages = true ∧ m.busy = true ∧ m.pend = [] ∧ m.op = 4 ∧ m.input = some l ∧ l.length = 12 ∧ s.compHeld .bootmon = false ∧
    s.mboxWaits = false) ∧
  (∃ (l : List Reg32) (s : State),
    let m := s.mgt
    s.manages = true ∧ m.busy = true ∧ m.pend = [] ∧ m.op = 5 ∧ m.input = some l ∧ l.length = 12 ∧ s.compHeld .bootmon = false ∧
    s.mboxWaits = false) ∧
  (∃ (s : State),
    let m := s.mgt
    s.manages = true ∧ m.busy = true ∧ m.pend = [] ∧ m.op = 6 ∧ s.glb.st = .awaitHost) ∧
  (∃ (s : State),
    let m := s.mgt
    s.manages = true ∧ m.busy = true ∧ m.pend = [] ∧ m.op = 6 ∧ s.glb.st ≠ .awaitHost) ∧
  (∃ (s : State),
    let m := s.mgt
    s.manages = true ∧ m.busy = true ∧ m.pend = [] ∧ m.op = 7) ∧
  (∃ (l : List Reg32) (s : State),
    let m := s.mgt
    s.manages = true ∧ m.busy = true ∧ m.pend = [] ∧ m.op = 8 ∧ m.input = some l ∧ l.length ≤ 15000 ∧
    s.compHeld .bootmon = false ∧ s.mboxWaits = false) :=
  ⟨⟨⟨true, 0⟩, [], mg { Mgt.init with busy := true, op := 1, inp := [0] }, by decide +kernel⟩,
   ⟨⟨true, 0⟩, [],
    let s := mg { Mgt.init with busy := true, op := 8, inp := [0] };
      { s with dep := { Dep.init with jobs := [⟨0x21, 0x7F0F, 1, [.check 0x1FC3C000000 []], true, none, true, false⟩] } },
    and3 (by decide) ⟨by decide, .netcfg, .inr (.inr (.inr ⟨by decide, rfl⟩)), by decide⟩⟩,
   ⟨⟨0x21, 0x7F0F, 1, [.check 0x1FC3C000000 []], true, none, true, false⟩, [], 0, true,
    let s := mg { Mgt.init with busy := true, op := 8 };
      { s with dep := { Dep.init with fw := { WscP.init with rpend := true, raddr := 0x1FC3C000000 }, jobs := [⟨0x21, 0x7F0F, 1, [.check 0x1FC3C000000 []], true, none, true, false⟩] } },
    by decide +kernel, by decide +kernel, by decide +kernel, by decide +kernel⟩,
   ⟨⟨false, 0⟩, [], mg { Mgt.init with busy := true, op := 1, inp := [0] }, and6 (by decide) ⟨by decide, .inl (by decide)⟩⟩,
   ⟨mg { Mgt.init with busy := true, op := 2, inp := [] }, by decide⟩,
   ⟨mg { Mgt.init with busy := true, op := 3, inp := [] }, by decide⟩,
   ⟨List.replicate 12 0, mg { Mgt.init with busy := true, op := 4, inp := (12 :: List.replicate 12 0) }, by decide⟩,
   ⟨List.replicate 12 0, mg { Mgt.init with busy := true, op := 5, inp := (12 :: List.replicate 12 0) }, by decide⟩,
   ⟨let s := mg { Mgt.init with busy := true, op := 6 }; { s with glb := { s.glb with st := .awaitHost } }, by decide⟩,
   ⟨mg { Mgt.init with busy := true, op := 6, inp := [] }, by decide⟩,
   ⟨mg { Mgt.init with busy := true, op := 7, inp := [] }, by decide⟩,
   ⟨[5], mg { Mgt.init with busy := true, op := 8, inp := [1, 5] }, by decide⟩⟩

theorem test_premises_HostWindowAccesses :
  (∃ (w : Fin 64) (off : Nat) (data : Bytes) (s : State),
    let v := s.window false w
    let t := v.tenant.toNat
    let bytes := 4096 * (v.pages.toNat + 1)
    s.hostReaches = true ∧ v.open_ = true ∧ v.access.getLsbD 1 = true ∧ off + data.length ≤ bytes ∧
    (s.tenant t).inRanges (v.base + off) data.length = true) ∧
  (∃ (w : Fin 64) (s : State),
    let v := s.window false w
    s.hostReaches = true ∧ v.open_ = false) ∧
  (∃ (w : Fin 64) (off : Nat) (data : Bytes) (s : State),
    let v := s.window false w
    let t := v.tenant.toNat
    let bytes := 4096 * (v.pages.toNat + 1)
    s.hostReaches = true ∧ v.open_ = true ∧
    (v.access.getLsbD 1 = false ∨ bytes < off + data.length ∨ (s.tenant t).inRanges (v.base + off) data.length = false)) ∧
  (∃ (w : Fin 64) (off len : Nat) (s : State),
    let v := s.window false w
    let t := v.tenant.toNat
    let bytes := 4096 * (v.pages.toNat + 1)
    s.hostReaches = true ∧
    let r := modelRead t (v.base + off) len s
    v.open_ = true ∧ v.access.getLsbD 0 = true ∧ off + len ≤ bytes ∧ (s.tenant t).inRanges (v.base + off) len = true ∧
    r.1.any (·.2) = false) ∧
  (∃ (w : Fin 64) (off len : Nat) (s : State),
    let v := s.window false w
    let t := v.tenant.toNat
    let bytes := 4096 * (v.pages.toNat + 1)
    s.hostReaches = true ∧
    let r := modelRead t (v.base + off) len s
    v.open_ = true ∧ v.access.getLsbD 0 = true ∧ off + len ≤ bytes ∧ (s.tenant t).inRanges (v.base + off) len = true ∧
    r.1.any (·.2) = true) ∧
  (∃ (w : Fin 64) (off len : Nat) (s : State),
    let v := s.window false w
    let t := v.tenant.toNat
    let bytes := 4096 * (v.pages.toNat + 1)
    s.hostReaches = true ∧ v.open_ = true ∧
    (v.access.getLsbD 0 = false ∨ bytes < off + len ∨ (s.tenant t).inRanges (v.base + off) len = false)) ∧
  (∃ (s : State), s.glb.portUp = true ∧ s.glb.d3hot = true) :=
  ⟨⟨63, 262140, [1, 2, 3, 4], wn { Win.init with hostW := [(63, wi)] }, by decide⟩,
   ⟨63, wn { Win.init with hostW := [(63, Window.init)] }, by decide⟩,
   ⟨63, 262140, [1, 2, 3, 4, 5], wn { Win.init with hostW := [(63, wi)] }, by decide, by decide, .inr (.inl (by decide))⟩,
   ⟨63, 262140, 4, wn { Win.init with hostW := [(63, wi)] }, by decide +kernel, by decide +kernel⟩,
   ⟨63, 262140, 4,
    let s := gm [(0, .stacked 0)] [];
      { s with mtc := { s.mtc with stkPoison := [(32767, true)] }, win := { Win.init with hostW := [(63, wi)] } },
    by decide +kernel, by decide +kernel⟩,
   ⟨63, 262140, 5, wn { Win.init with hostW := [(63, wi)] }, by decide, by decide, .inr (.inl (by decide))⟩,
   ⟨sg (fun g => { g with d3hot := true }), by decide⟩⟩

theorem test_premises_WindowsOpenAndClose :
  (∃ (t : Ten) (q : Que) (w0 w1 : BitVec 64) (peer : Bool) (w : Fin 64) (s : State),
    let v := s.window peer w
    w0.getLsbD 47 = peer ∧ pf w0 37 32 = w.val ∧ MayIssue s t q w0 w1 ∧ pOp w0 = 0x28 ∧ v.open_ = false ∧ v.closing = false) ∧
  (∃ (t : Ten) (q : Que) (w0 w1 : BitVec 64) (peer : Bool) (w : Fin 64) (s : State),
    let v := s.window peer w
    w0.getLsbD 47 = peer ∧ pf w0 37 32 = w.val ∧ MayIssue s t q w0 w1 ∧ pOp w0 = 0x28 ∧ (v.open_ = true ∨ v.closing = true)) ∧
  (∃ (t : Ten) (q : Que) (w0 w1 : BitVec 64) (peer : Bool) (w : Fin 64) (s : State),
    let v := s.window peer w
    w0.getLsbD 47 = peer ∧ pf w0 37 32 = w.val ∧ MayIssue s t q w0 w1 ∧ pOp w0 = 0x29 ∧ v.open_ = true ∧ v.closing = false ∧
    v.tenant.toNat = t) ∧
  (∃ (t : Ten) (q : Que) (w0 w1 : BitVec 64) (peer : Bool) (w : Fin 64) (s : State),
    let v := s.window peer w
    w0.getLsbD 47 = peer ∧ pf w0 37 32 = w.val ∧ MayIssue s t q w0 w1 ∧ pOp w0 = 0x29 ∧ v.tenant.toNat ≠ t) ∧
  (∃ (peer : Bool) (w : Fin 64) (s : State),
    let v := s.window peer w
    v.closing = true ∧ (peer = true → s.windowTraffic w = false) ∧ v.closer = none) ∧
  (∃ (t : Ten) (q : Que) (peer : Bool) (w : Fin 64) (e : Issued) (s : State),
    let v := s.window peer w
    v.closing = true ∧ (peer = true → s.windowTraffic w = false) ∧ v.closer = some (q.val, e.idx) ∧ v.tenant.toNat = t ∧
    e ∈ (s.queue t q).issued ∧ e.status = none ∧ e.cpl = true) ∧
  (∃ (s : State), s.glb.portUp = true ∧ s.glb.pcie.ecrc = true) ∧
  (∃ (s : State), s.glb.portUp = true ∧ s.glb.pcie.ecrc = false) ∧
  (∃ (s : State), s.glb.portUp = true) :=
  ⟨⟨31, 7, 0x28C0E03F00002000, 0, true, 63, { sq qu with win := { Win.init with peerW := [(63, Window.init)] } }, by decide,
    by decide, by unfold MayIssue Presents; decide, by decide⟩,
   ⟨31, 7, 0x28C0E03F00000001, 0, true, 63, { sq qu with win := { Win.init with peerW := [(63, wi)] } }, by decide, by decide,
    by unfold MayIssue Presents; decide, by decide, .inl (by decide)⟩,
   ⟨31, 7, 0x2940803F00000000, 0, true, 63, { sq qu with win := { Win.init with peerW := [(63, wi)] } }, by decide, by decide,
    by unfold MayIssue Presents; decide, by decide⟩,
   ⟨31, 7, 0x2940803F00000000, 0, true, 63, { sq qu with win := { Win.init with peerW := [(63, { wi with tenant := 30 })] } },
    by decide, by decide, by unfold MayIssue Presents; decide, by decide⟩,
   ⟨true, 63, wn { Win.init with peerW := [(63, { wc with closer := none })] }, by decide⟩,
   ⟨31, 7, true, 63, ⟨0, 0x29, true, false, none, 0, 0⟩,
    { sq { qu with issued := [⟨0, 0x29, true, false, none, 0, 0⟩] } with win := { Win.init with peerW := [(63, wc)] } }, by decide⟩,
   ⟨sg (fun g => { g with pcie := ⟨true, false, true⟩ }), by decide⟩,
   ⟨base, by decide⟩,
   ⟨base, by decide⟩⟩

theorem test_premises_PeerMessages :
  (∃ (h : FlitHdr) (payload : Bytes) (s : State),
    let n := h.mlen.toNat
    NextInOrder s h ∧ h.first = true ∧ h.last = true ∧ h.pack = false ∧ n = payload.length ∧ 1 ≤ n ∧ n ≤ 236 ∧
    PeerTakes s h 1 h.offset.toNat n) ∧
  (∃ (h : FlitHdr) (payload : Bytes) (s : State),
    let v := s.window true h.window
    let n := h.mlen.toNat
    NextInOrder s h ∧ h.first = true ∧ h.last = true ∧ h.pack = false ∧ n = payload.length ∧ 1 ≤ n ∧ n ≤ 236 ∧ v.open_ = false) ∧
  (∃ (h : FlitHdr) (s : State),
    let v := s.window true h.window
    let t := v.tenant.toNat
    let at_ := v.base + h.offset.toNat
    let n := h.mlen.toNat
    let data := (modelRead t at_ n (takeFlit 0x02 h s)).1
    NextInOrder s h ∧ PeerTakes s h 0 h.offset.toNat n ∧ 1 ≤ n ∧ n ≤ 236 ∧ data.any (·.2) = false ∧
    1 ≤ (if h.vc then s.win.credits1 else s.win.credits0)) ∧
  (∃ (h : FlitHdr) (payload : Bytes) (r : PeerRead) (s : State),
    let n := h.mlen.toNat
    NextInOrder s h ∧ h.first = true ∧ h.last = true ∧ n = payload.length ∧ sget none s.win.tags h.tag.toNat = some r) ∧
  (∃ (h : FlitHdr) (s : State),
    let v := s.window true h.window
    let t := v.tenant.toNat
    NextInOrder s h ∧ s.win.link = .up ∧ PeerTakes s h 1 0 1 ∧ (∀ q : Que, (s.queue t q).waiting = none)) ∧
  (∃ (h : FlitHdr) (payload : Bytes) (s : State),
    let v := s.window true h.window
    let n := h.mlen.toNat
    NextInOrder s h ∧ s.win.link = .legacy ∧ h.first = true ∧ h.last = true ∧ n = 6 ∧ payload.length = 6 ∧
    PeerTakes s h 1 h.offset.toNat 4 ∧
    let i := leNat (payload.take 2)
    i < 32768 ∧ h.offset.toNat + 4 * i + 4 ≤ 4096 * (v.pages.toNat + 1)) ∧
  (∃ (h : FlitHdr) (payload : Bytes) (r : PeerRead) (k : Nat) (s : State), NextInOrder s h ∧ sget none s.win.tags k = some r ∧
    BitVec.ofNat 12 (leNat ((payload.drop 2).take 2)) ∈ r.reqs ∧ r.len ≤ 4096) :=
  ⟨⟨fh 4 262140, List.replicate 4 0, wn (up), by unfold NextInOrder; decide, and6 (by decide) (by unfold PeerTakes; decide)⟩,
   ⟨fh 4 262140, List.replicate 4 0, wn ({ up with peerW := [] }), by unfold NextInOrder; decide, by decide⟩,
   ⟨fh 4 262140, wn (up), by unfold NextInOrder; decide, by unfold PeerTakes; decide, by decide, by decide, by decide +kernel,
    by decide⟩,
   ⟨fh 4 0, List.replicate 4 0, rd, wn ({ up with tags := [(255, some rd)] }), by unfold NextInOrder; decide, by decide⟩,
   ⟨fh 1 0, wn (up), by unfold NextInOrder; decide, by decide, by unfold PeerTakes; decide, by decide⟩,
   ⟨fh 6 131072, [0xFF, 0x7F, 0, 0, 0, 0], wn ({ up with link := .legacy }), by unfold NextInOrder; decide,
    and3 (by decide) ⟨by decide, by decide, by unfold PeerTakes; decide, by decide⟩⟩,
   ⟨fh 4 0, [0, 0, 5, 0], rd, 255, wn ({ up with tags := [(255, some rd)] }), by unfold NextInOrder; decide, by decide⟩⟩

theorem test_premises_PeerLink :
  (∃ (ver : Fin 3) (lanes : BitVec 8) (s : State),
    let low := lanes &&& 0x0F = 0x0F
    let high := lanes &&& 0xF0 = 0xF0
    s.firmwareRuns = true ∧ s.glb.peerPrsntN = true ∧ 1 ≤ ver.val ∧ (low ∨ high)) ∧
  (∃ (ver : Fin 3) (lanes : BitVec 8) (s : State),
    let low := lanes &&& 0x0F = 0x0F
    let high := lanes &&& 0xF0 = 0xF0
    s.firmwareRuns = true ∧ s.glb.peerPrsntN = true ∧ (ver.val = 0 ∨ (¬low ∧ ¬high))) ∧
  (∃ (h : FlitHdr) (s : State), NextInOrder s h ∧ h.ackv = false) ∧
  (∃ (h : FlitHdr) (s : State),
    let w := s.win
    w.linked = true ∧ w.txWait = [] ∧ (∀ f ∈ w.replayBuf, f.h.fseq ≠ h.ackseq) ∧ w.replayCount < 7) ∧
  (∃ (h : FlitHdr) (s : State),
    let w := s.win
    w.linked = true ∧ (∀ f ∈ w.replayBuf, f.h.fseq ≠ h.ackseq) ∧ w.replayCount = 7) ∧
  (∃ (h : FlitHdr) (s : State),
    let w := s.win
    w.linked = true ∧ w.txWait = [] ∧ h.ackv = true ∧ ∃ (a b : List TxFlit) (f : TxFlit), w.replayBuf = a ++ f :: b ∧
    f.h.fseq = h.ackseq ∧ (∀ g ∈ a, g.h.fseq ≠ h.ackseq)) ∧
  (∃ (flit : Bytes) (s : State),
    let w := s.win
    w.linked = true ∧ flitGood flit = false ∧ w.rxReplays < 7) ∧
  (∃ (flit : Bytes) (s : State),
    let w := s.win
    w.linked = true ∧ w.rxReplays = 0 ∧ flitGood flit = true ∧ flit.getD 0 0 ≠ 0x13 ∧ flit.getD 0 0 ≠ 0x1F ∧
    (hdrRead flit).fseq ≠ w.rxNext) ∧
  (∃ (h : FlitHdr) (s : State),
    let w := s.win
    w.linked = true ∧ w.rxReplays = 0 ∧ h.fseq ≠ w.rxNext) ∧
  (∃ (s : State),
    let w := s.win
    w.linked = true ∧ (64 ≤ w.sinceAck ∨ w.ackTime + 100 ≤ s.glb.devTime) ∧ w.owed0 = 0 ∧ w.owed1 = 0 ∧ 1 ≤ w.sinceAck) ∧
  (∃ (s : State),
    let w := s.win
    w.linked = true ∧ (64 ≤ w.sinceAck ∨ w.ackTime + 100 ≤ s.glb.devTime) ∧ 1 ≤ w.owed0 + w.owed1 ∧ w.txWait = [] ∧
    w.replayBuf.length < 1024) ∧
  (∃ (payload : Bytes), payload.length ≤ 236) :=
  ⟨⟨2, 0xF0, base, and3 (by decide) (.inr (by decide))⟩,
   ⟨2, 0x3C, base, by decide, by decide, .inr (by decide)⟩,
   ⟨fh 1 0, wn (up), by unfold NextInOrder; decide, by decide⟩,
   ⟨fh 1 0, wn ({ up with replayCount := 6 }), by decide⟩,
   ⟨fh 1 0, wn ({ up with replayCount := 7 }), by decide⟩,
   ⟨{ fh 1 0 with ackv := true }, wn ({ up with replayBuf := [⟨1, fh 1 0, []⟩] }), and3 (by decide) ⟨[], [], ⟨1, fh 1 0, []⟩,
    by decide⟩⟩,
   ⟨[], wn ({ up with rxReplays := 6 }), by decide +kernel⟩,
   ⟨flitImage 1 { fh 1 0 with fseq := 1 } [7], wn (up), by decide +kernel⟩,
   ⟨{ fh 1 0 with fseq := 1 }, wn (up), by decide⟩,
   ⟨wn ({ up with sinceAck := 64 }), by decide, .inl (by decide), by decide⟩,
   ⟨wn ({ up with sinceAck := 64, owed1 := 1 }), by decide, .inl (by decide), by decide⟩,
   ⟨List.replicate 236 0, by decide +kernel⟩⟩

theorem test_premises_SideBandPorts :
  (∃ (s : State),
    let g := s.glb
    g.st ≠ .off ∧ g.st ≠ .reset) ∧
  (∃ (addr : BitVec 7) (s : State),
    let g := s.glb
    let own : BitVec 7 := 0x58 + g.smbAddr.setWidth 7
    g.st ≠ .off ∧ g.st ≠ .reset ∧ addr ≠ own) ∧
  (∃ (s : State),
    let g := s.glb
    g.st ≠ .off ∧ g.st ≠ .reset ∧ g.scanUnlocked = true) ∧
  (∃ (s : State),
    let g := s.glb
    g.st ≠ .off ∧ g.st ≠ .reset ∧ g.scanUnlocked = false) :=
  ⟨⟨base, by decide⟩,
   ⟨0x59, base, by decide⟩,
   ⟨sg (fun g => { g with scanUnlocked := true }), by decide⟩,
   ⟨base, by decide⟩⟩

theorem test_premises_ResetsAndRails :
  (∃ (v : Reg32) (s : State),
    let g := s.glb
    s.hostReaches = true ∧ g.lost = false ∧ v.toNat % 65536 = 0xA96E) ∧
  (∃ (v : Reg32) (t : Nat) (s : State),
    let g := s.glb
    s.hostReaches = true ∧ g.lost = false ∧ v.toNat % 65536 = 0x69EA ∧ g.resetKey = some t ∧ g.devTime ≤ t + 100000) ∧
  (∃ (v : Reg32) (s : State),
    let g := s.glb
    s.hostReaches = true ∧ g.lost = false ∧ v.toNat % 65536 ≠ 0xA96E ∧ (v.toNat % 65536 ≠ 0x69EA ∨ g.resetKey = none)) ∧
  (∃ (t : Nat) (s : State),
    let g := s.glb
    g.resetKey = some t ∧ t + 100000 < g.devTime) ∧
  (∃ (s : State),
    let g := s.glb
    g.porN = false) ∧
  (∃ (s : State),
    let g := s.glb
    g.st = .reset ∧ g.porN = true ∧ g.railHeld = false ∧ g.thermHeld = false) ∧
  (∃ (s : State),
    let g := s.glb
    g.pllLocked = true) ∧
  (∃ (r : Rail) (s : State),
    let g := s.glb
    r ≠ 9 ∧ g.porN = true) ∧
  (∃ (s : State),
    let g := s.glb
    g.railHeld = true ∧ 100000 ≤ g.devTime) :=
  ⟨⟨0xA96E, base, by decide⟩,
   ⟨0x69EA, 99999900000, sg (fun g => { g with resetKey := some 99999900000 }), by decide⟩,
   ⟨0x69EA, base, and3 (by decide) (.inr (by decide))⟩,
   ⟨99999899999, sg (fun g => { g with resetKey := some 99999899999 }), by decide⟩,
   ⟨sg (fun g => { g with porN := false }), by decide⟩,
   ⟨sg (fun g => { g with st := .reset }), by decide⟩,
   ⟨sg (fun g => { g with st := .reset }), by decide⟩,
   ⟨8, base, by decide⟩,
   ⟨sg (fun g => { g with railHeld := true, devTime := 100000 }), by decide⟩⟩

theorem test_premises_StartUpAndThermalLimits :
  (∃ (s : State), s.glb.st = .boot) ∧
  (∃ (s : State), s.glb.st = .verify) ∧
  (∃ (ch : List (Nat × Nat × Nat)) (c : Nat × Nat × Nat) (s : State), s.glb.st = .train ∧ ch = List.replicate 8 c ∧
    c.1 ∈ [6400, 7500, 8533] ∧ 1 ≤ c.2.1 ∧ c.2.1 ≤ 2 ∧ 8 ≤ c.2.2 ∧ c.2.2 ≤ 32 ∧ s.glb.peerPrsntN = true) ∧
  (∃ (ch : List (Nat × Nat × Nat)) (s : State), s.glb.st = .train ∧ yardAccepted ch = false) ∧
  (∃ (a b : Bool) (s : State), s.glb.st = .selftest ∧ (a = false ∨ b = false)) ∧
  (∃ (s : State), s.glb.st = .selftest) ∧
  (∃ (temp : BitVec 16) (s : State),
    let alert : Int := if s.fuse.grade = 1 then 256 * 105 else 256 * 110
    s.glb.porN = true ∧ alert ≤ temp.toInt ∧ s.glb.temp.toInt < alert) ∧
  (∃ (temp : BitVec 16) (s : State),
    let alert : Int := if s.fuse.grade = 1 then 256 * 105 else 256 * 110
    s.glb.porN = true ∧ alert + 256 * 5 ≤ temp.toInt ∧ s.glb.throttle = false) ∧
  (∃ (temp : BitVec 16) (s : State),
    let alert : Int := if s.fuse.grade = 1 then 256 * 105 else 256 * 110
    s.glb.porN = true ∧ temp.toInt < alert + 256 * 5) ∧
  (∃ (temp : BitVec 16) (s : State),
    let alert : Int := if s.fuse.grade = 1 then 256 * 105 else 256 * 110
    alert + 256 * 15 ≤ temp.toInt ∧ s.glb.porN = true ∧ s.glb.thermHeld = false) ∧
  (∃ (temp : BitVec 16) (s : State),
    let alert : Int := if s.fuse.grade = 1 then 256 * 105 else 256 * 110
    s.glb.thermHeld = true ∧ temp.toInt < alert) ∧
  (∃ (s : State), s.glb.thermHeld = true) ∧
  (∃ (s : State), s.glb.porN = false) :=
  ⟨⟨sg (fun g => { g with st := .boot }), by decide⟩,
   ⟨sg (fun g => { g with st := .verify }), by decide⟩,
   ⟨List.replicate 8 (7500, 2, 32), (7500, 2, 32), sg (fun g => { g with st := .train }), by decide⟩,
   ⟨List.replicate 8 (7500, 2, 33), sg (fun g => { g with st := .train }), by decide⟩,
   ⟨true, false, sg (fun g => { g with st := .selftest }), by decide, .inr (by decide)⟩,
   ⟨sg (fun g => { g with st := .selftest }), by decide⟩,
   ⟨28160, base, by decide⟩,
   ⟨29440, base, by decide⟩,
   ⟨29439, base, by decide⟩,
   ⟨32000, base, by decide⟩,
   ⟨28159, sg (fun g => { g with thermHeld := true }), by decide⟩,
   ⟨sg (fun g => { g with thermHeld := true }), by decide⟩,
   ⟨sg (fun g => { g with porN := false }), by decide⟩⟩

theorem test_premises_RegisterAccesses :
  (∃ (off size : Nat) (s : State), off + size ≤ 2 ^ 26 ∧ s.glb.portUp = true ∧ s.glb.d3hot = false ∧ size = 4 ∧ off % 4 = 0 ∧
    isLowHalf off = true ∧ off ≠ 0x40004C ∧ off ≠ 0x24) ∧
  (∃ (off size : Nat) (h : Reg32) (s : State), off + size ≤ 2 ^ 26 ∧ s.glb.portUp = true ∧ s.glb.d3hot = false ∧ size = 4 ∧
    off % 4 = 0 ∧ 4 ≤ off ∧ isLowHalf (off - 4) = true ∧ isLowHalf off = false ∧ off ≠ 0x40004C ∧ off ≠ 0x24 ∧
    sget none s.glb.latches off = some h) ∧
  (∃ (off size : Nat) (s : State), off + size ≤ 2 ^ 26 ∧ s.glb.portUp = true ∧ s.glb.d3hot = false ∧ size = 8 ∧ off % 4 = 0) ∧
  (∃ (off size : Nat) (s : State), off + size ≤ 2 ^ 26 ∧ s.glb.portUp = true ∧ s.glb.d3hot = false ∧ 1 ≤ size ∧
    off % 4 + size ≤ 4) ∧
  (∃ (off size : Nat) (s : State), off + size ≤ 2 ^ 26 ∧ s.glb.portUp = true ∧ s.glb.d3hot = false ∧ 8 < size) ∧
  (∃ (off size : Nat) (s : State), off + size ≤ 2 ^ 26 ∧ s.glb.portUp = true ∧ s.glb.d3hot = false ∧
    accessAligned off size = false ∧ size ≤ 8) ∧
  (∃ (off size : Nat), off + size ≤ 2 ^ 26) ∧
  (∃ (off size : Nat), off + size ≤ 2 ^ 26 ∧ (off % 4 ≠ 0 ∨ (size ≠ 4 ∧ size ≠ 8))) ∧
  (∃ (off : Nat), off + 8 ≤ 2 ^ 26 ∧ off % 4 = 0) ∧
  (∃ (off size : Nat), 2 ^ 26 < off + size) :=
  ⟨⟨0x200010, 4, base, by decide⟩,
   ⟨0x200014, 4, 7, sg (fun g => { g with latches := [(0x200014, some 7)] }), by decide⟩,
   ⟨0x3FFFFF8, 8, base, by decide⟩,
   ⟨0x3FFFFFF, 1, base, by decide⟩,
   ⟨0x3FFFFF0, 16, base, by decide⟩,
   ⟨0x3FFFFF7, 2, base, by decide⟩,
   ⟨0x3FFFFFC, 4, by decide⟩,
   ⟨0x3FFFFFD, 2, by decide⟩,
   ⟨0x3FFFFF8, by decide⟩,
   ⟨0x3FFFFFF, 2, by decide⟩⟩

theorem test_premises_FaultLog :
  (∃ (t : Option Ten) (n : Ten), t = some n) ∧
  (∃ (c : BitVec 16) (t : Option Ten) (unit arg : Nat) (s : State),
    let f := s.frc
    let at_ (k : Nat) := sget LogEntry.init f.log k
    let newest := at_ ((f.logWr - 1).toNat % 1024)
    let flags := logFlags c (t.map Fin.val)
    let same := f.held ≠ 0 ∧ newest.code = c ∧ newest.flags = flags ∧ newest.unit = unit ∧ newest.arg = arg
    same ∧ s.glb.devTime < newest.time.toNat + 100000 ∧ newest.rep.toNat < 255) ∧
  (∃ (c : BitVec 16) (t : Option Ten) (unit arg : Nat) (s : State),
    let f := s.frc
    let at_ (k : Nat) := sget LogEntry.init f.log k
    let newest := at_ ((f.logWr - 1).toNat % 1024)
    let flags := logFlags c (t.map Fin.val)
    let same := f.held ≠ 0 ∧ newest.code = c ∧ newest.flags = flags ∧ newest.unit = unit ∧ newest.arg = arg
    (¬same ∨ newest.time.toNat + 100000 < s.glb.devTime ∨ newest.rep = 255)) ∧
  (∃ (c : BitVec 16) (t : Option Ten) (unit arg : Nat) (s : State),
    let f := s.frc
    let at_ (k : Nat) := sget LogEntry.init f.log k
    let newest := at_ ((f.logWr - 1).toNat % 1024)
    let flags := logFlags c (t.map Fin.val)
    let same := f.held ≠ 0 ∧ newest.code = c ∧ newest.flags = flags ∧ newest.unit = unit ∧ newest.arg = arg
    (¬same ∨ newest.time.toNat + 100000 < s.glb.devTime ∨ newest.rep = 255) ∧ s.glb.attached = true ∧ s.glb.pcie.msixOn = true ∧
    s.vectorMasked 0 = false ∧ s.glb.pcie.ecrc = false) ∧
  (∃ (c : BitVec 16) (t : Option Ten) (unit arg : Nat) (s : State),
    let f := s.frc
    let at_ (k : Nat) := sget LogEntry.init f.log k
    let newest := at_ ((f.logWr - 1).toNat % 1024)
    let flags := logFlags c (t.map Fin.val)
    let same := f.held ≠ 0 ∧ newest.code = c ∧ newest.flags = flags ∧ newest.unit = unit ∧ newest.arg = arg
    (¬same ∨ newest.time.toNat + 100000 < s.glb.devTime ∨ newest.rep = 255)) ∧
  (∃ (c : BitVec 16), 1 ≤ c.toNat / 4096) ∧
  (∃ (c : BitVec 16) (s : State),
    let f := s.frc
    let fault : Bool := !eventCodes.contains c
    fault = true ∧ f.firstValid = false) ∧
  (∃ (c : BitVec 16) (t : Option Ten) (s : State),
    let f := s.frc
    let fault : Bool := !eventCodes.contains c
    fault = true ∧ f.firstValid = false ∧ ∃ (n : Ten), t = some n) ∧
  (∃ (w : Fin 64) (s : State), s.hostReaches = true ∧ (s.window false w).open_ = false) ∧
  (∃ (s : State), s.glb.porN = true ∧ s.anyArmed = false) :=
  ⟨⟨some 31, 31, by decide⟩,
   ⟨0x1202, some 31, 63, 5,
    { base with frc := { Frc.init with log := [(0, ⟨99999900001, 0, 0x1202, 0xDF, 254, 63, 5, 0⟩)], logWr := 1, held := 1 } },
    by decide⟩,
   ⟨0x1202, some 31, 63, 4,
    { base with frc := { Frc.init with log := [(0, ⟨99999900001, 0, 0x1202, 0xDF, 254, 63, 5, 0⟩)], logWr := 1, held := 1 } },
    .inl (by decide)⟩,
   ⟨0x1202, some 31, 63, 5,
    let s := { base with frc := { Frc.init with log := [(0, ⟨99999899999, 0, 0x1202, 0xDF, 254, 63, 5, 0⟩)], logWr := 1, held := 1 } };
      { s with glb := { s.glb with pcie := ⟨true, false, false⟩, msixMask := 0 } },
    .inr (.inl (by decide)), by decide⟩,
   ⟨0x1202, some 31, 63, 5,
    { base with frc := { Frc.init with log := [(0, ⟨99999900001, 0, 0x1202, 0xDF, 255, 63, 5, 0⟩)], logWr := 1, held := 1 } },
    .inr (.inr (by decide))⟩,
   ⟨0x1202, by decide⟩,
   ⟨0x1202,
    { base with frc := { Frc.init with log := [(0, ⟨99999900001, 0, 0x1202, 0xDF, 254, 63, 5, 0⟩)], logWr := 1, held := 1 } },
    by decide⟩,
   ⟨0x1202, some 31,
    { base with frc := { Frc.init with log := [(0, ⟨99999900001, 0, 0x1202, 0xDF, 254, 63, 5, 0⟩)], logWr := 1, held := 1 } },
    by decide, by decide, 31, by decide⟩,
   ⟨63, base, by decide⟩,
   ⟨base, by decide⟩⟩

theorem test_premises_RegisterFields :
  (∃ (s : State), s.hostReaches = true ∧ s.glb.attached = true ∧ s.glb.lost = false) ∧
  (∃ (v : Reg32) (s : State),
    let fresh : BitVec 10 := if s.frc.setTime = s.glb.devTime then s.frc.setBits else 0
    s.hostReaches = true ∧ s.glb.attached = true ∧ s.glb.lost = false ∧ v.getLsbD 31 = true ∧ fresh = 0) ∧
  (∃ (s : State), s.glb.lost = true ∧ ∃ (off : Nat), off + 4 ≤ 2 ^ 26 ∧ off ≠ 0x14 ∧ off ≠ 0x18) ∧
  (∃ (a : Ary) (s : State), s.firmwareRuns = true ∧ ((s.arr a).st = .idle ∨ (s.arr a).st = .bound ∨ (s.arr a).st = .loaded)) :=
  ⟨⟨base, by decide⟩,
   ⟨0x80000000, base, by decide⟩,
   ⟨sg (fun g => { g with lost := true }), by decide, 0x3FFFFFC, by decide⟩,
   ⟨63, base, by decide, .inl (by decide)⟩⟩

/-! ## Vector slot: each operation's code waits in a bundle that carries it -/

theorem test_premises_VectorOperations : ∀ op ∈ List.range' 1 14,
    SlotWaits ((sa (ac (kur 0 0 op 0 0 0))).arr 63) (kur 0 0 op 0 0 0) Cur.v vOp op := by unfold SlotWaits; decide

theorem test_premises_IndexOperations : ∀ op ∈ [0x20, 0x21, 0x22, 0x23, 0x24, 0x25, 0x26],
    SlotWaits ((sa (ac (kur 0 0 op 0 0 0))).arr 63) (kur 0 0 op 0 0 0) Cur.v vOp op := by unfold SlotWaits; decide

/-! ## Commands that no sender can send -/

/-- One ill-formed command for each bound of `Instr.wf`. -/
theorem test_wf_refuses :
    ([.lowHalfReadLatch 2 4, .registerWrite .host 0x4000000 0 4, .unalignedAccess false 0 4, .ldp 63 [] [0x600000],
      .mma 63 [] [(0, 65536)] [], .mmaz 63 [] [(0, 65536)] [], .drain 63 [] [65536] [] [], .drain 63 [] [] [] [0x600000],
      .transferDescriptorComplete ⟨31, none, .conToSid 63 0 0 0, none⟩ ⟨[], [], []⟩,
      .dispatch 31 7 0 0 ⟨0, [], [], [], [], [[]], 0, [], [], [], []⟩,
      .dispatch 31 7 0 0 ⟨0, [], [], [], [], [], 0, List.replicate 257 0, [], [], []⟩,
      .bindingWrite 31 0x8000 0, .bindingWrite 31 0x102 0, .plannerBalance [0] 31, .gather 0 31 0 1 0 true 0 0 1 0 ⟨[], [], []⟩,
      .gather 0 31 (2 ^ 48) 1 32 true 0 0 1 0 ⟨[], [], []⟩] : List Instr).all (fun i => !i.wf) = true := by decide +kernel

theorem test_wf_refuses_more :
    ([.yardPageWrite 31 1 [], .yardPageWrite 31 0 [0], .yardPageRead 31 1 [] [] false, .stackedMemoryRead 31 (2 ^ 48) 0 false false,
      .patrolScrub 128 0 false [], .instructionFetchMiss 7 none (2 ^ 48), .armw 31 7 0 0 [] (List.replicate 17 0), .req .a [], .keep .b [],
      .receivedFrameDiscard .a [], .getCertificate 0 65536 0, .challenge 0 [], .getMeasurements 0 [],
      .keyExchange 0 [] [], .deliverEncapsulatedResponse 0 ⟨true, []⟩, .keyDeliver 0 0 0 0 [] [] [],
      .mgtTlsHandshake ⟨true, []⟩ true ⟨1500, 1⟩, .badFlit [], .mgtRecord [⟨2 ^ 31, false, 0⟩], .hostWindowWrite 63 0 [], .hostWindowRead 63 0 0,
      .hostWindowWrite 63 0 (List.replicate 513 0), .hostWindowRead 63 0 4097,
      .wr (fh 0 0) (List.replicate 237 0), .bootDone [], .trainDone true [] 0 0, .bar0OversizeRead 0 8] : List Instr).all
      (fun i => !i.wf) = true := by decide +kernel

/-- Commands at the bounds that a sender can send. -/
theorem test_wf_accepts :
    ([.lowHalfReadLatch 0x3FFFFF8 8, .unalignedAccess true 3 2, .ldp 63 [] [0x5FFFFF], .mma 63 [3] [(0, 65535)] [],
      .bindingWrite 31 0x7FFC 0, .patrolScrub 127 0 true [31], .req .a (List.replicate 64 (.k 28 5)), .bar0OversizeRead 0 9,
      .hostWindowWrite 63 0 (List.replicate 512 0), .hostWindowRead 63 0 4096, .gather 0 31 (2 ^ 48 - 1) 1 1 true 0 0 1 0 ⟨[], [], []⟩] : List Instr).all
      (fun i => i.wf) = true := by decide +kernel

/-! ## The spec's worked examples and fixed values -/

/-- Chapter 2, decoding an MXFP4 block: 0.5, 3, 6 and −1.5 under the exponent 0x7C − 127. -/
theorem test_mxfp4_block :
    let r := expandKstep 6 ([(0x51, false), (0xB7, false)] ++ List.replicate 14 (0, false)) 32 [(0x7C, false)]
    r.exp = -3 ∧ r.elems.take 4 = [.fin false 1 (-1), .fin false 3 0, .fin false 3 1, .fin true 3 (-1)] := by decide +kernel

/-- Chapter 2, decoding the start of a K3 block: 1.0 and 0 through the codebook. -/
theorem test_k3_block :
    (expandKstep 9 ([(0x5E, false), (0x71, false), (0x31, false)] ++ List.replicate 9 (0, false)) 32
      ([0xB8, 0xB0, 0xA8, 0x00, 0x28, 0x30, 0x38, 0x3C].map (fun b => (b, false)))).elems.take 2 =
      [decodeFp e4m3 0x38, decodeFp e4m3 0x00] := by decide +kernel

/-- Chapter 2, an activation slot with W = 4: amaxes 2.9, 4.2, 5.7, 3.1 give 2⁶, and 7.5 before them 2⁵. -/
theorem test_scale_slot :
    (ScaleSlot.exponent ⟨4, 4, 0, [0x4039999A, 0x40866666, 0x40B66666, 0x40466666]⟩ 4 false = 6) ∧
    (ScaleSlot.exponent ⟨4, 4, 0, [0x40F00000, 0x4039999A, 0x40866666, 0x40B66666]⟩ 4 false = 5) := by decide +kernel

/-- Chapter 5, the DISPATCH of the prefill step: its fields. -/
theorem test_dispatch_word :
    let w : BitVec 64 := 0x01E0002103E80400
    pOp w = 1 ∧ pExt w = true ∧ pCpl w = true ∧ pIrq w = true ∧ pSlots w = 2 ∧ pf w 47 32 = 0x21 ∧ pf w 31 16 = 1000 ∧ pf w 15 10 = 1 := by
  decide

/-- Chapter 6, the packing of five prompts: three rows of 1,024. -/
theorem test_ragged_rows :
    let l := packLengths 1024 [900, 700, 300, 250, 60]
    packRows l = 3 ∧ l.map (fun p => (p.item, p.row, p.start, p.seg)) =
      [(0, 0, 0, 1), (1, 1, 0, 1), (2, 1, 700, 2), (3, 2, 0, 1), (4, 0, 900, 2)] ∧ segmentAt l 2 250 = 0 := by decide +kernel

/-- Chapter 6, the tiling of the down projection on 48 arrays. -/
theorem test_tiling_down_projection :
    ((tile ⟨0, [1024], [1], 9216, 27648, 6, 6, false, false, 16384, true, 0xFF808000, false⟩ 1024 48).map (fun t =>
      ([t.am, t.an, t.m0, t.n0, t.g, t.liveAcc], [t.mb, t.nb, t.kb, t.mb2, t.nb2, t.k2], t.overlap, t.ord1, t.ord2))) =
      some ([1, 48, 1, 1, 8, 2], [1, 1, 864, 8, 1, 864], true, 1, 1) := by decide +kernel

/-- Chapter 6, the tiling of the expert batch on 16 arrays: pairs of tiles. -/
theorem test_tiling_expert_batch :
    ((tile ⟨0, [128], [1], 4352, 5120, 3, 6, false, false, 8704, true, 0xFFC04000, false⟩ 128 16).map (fun t =>
      ([t.am, t.an, t.m0, t.n0, t.g, t.liveAcc], [t.mb, t.nb, t.kb, t.mb2, t.nb2, t.k2], t.overlap))) =
      some ([1, 16, 1, 2, 8, 4], [1, 6, 160, 1, 6, 160], true) := by decide +kernel

/-- An image of MXFP4 bundles that a slot each fills: LDP of two K-steps of a side, MMAZ, DRAIN with HALT. -/
def tileLdp (side rows len : Nat) : Nat :=
  (2 ^ 60 + side * 2 ^ 59 + 6 * 2 ^ 52 + 2 ^ 49 + 2 ^ 41 + (rows - 1) * 2 ^ 34 + 31 * 2 ^ 29) * 2 ^ 176 + len * 2 ^ 247
def tileMmaz : Nat := (2 ^ 45 + 6 * 2 ^ 35 + 6 * 2 ^ 31 + 2 ^ 19) * 2 ^ 128 + 100 * 2 ^ 247
def tileDrain : Nat := (2 ^ 44 + 2 ^ 34 + 2 * 2 ^ 24 + 127 * 2 ^ 17 + 63 * 2 ^ 11) * 2 ^ 32 + haltBundle
def tileImg (bs : List Nat) : Bytes :=
  leBytes 4 0x54540096 ++ leBytes 4 (bs.length * 65536 + 8192) ++ List.replicate 184 0 ++ bs.flatMap (leBytes 32)
def tileTiling : Tiling := ⟨1, 1, 1, 1, 2, 4, true, 2, 1, 1, 2, 1, 1, 2, 1, 1, 1, 1, 2, 1, 17, 17⟩
def tileRuns (bs : List Nat) (loads : List LoadTag) : Bool :=
  let j : TileJob := ⟨tileTiling, ⟨128, 128, 1⟩, 64, 64, 0⟩
  j.walk (tileImg bs) 30 (j.begin (tileImg bs) loads)

/-- R153, R154: one tile over two K-steps is an image of the tiler's; without its loads, or with A's twice, the run is not. -/
theorem test_tile_walk :
    tile ⟨0, [128], [1], 64, 64, 6, 6, false, false, 16384, true, 0xFF800200, false⟩ 128 1 = some tileTiling ∧
    tileRuns [tileLdp 0 128 200, tileLdp 1 64 100, tileMmaz, tileDrain] [⟨0, 0⟩, ⟨0, 0⟩] = true ∧
    tileRuns [tileLdp 0 128 200, tileLdp 1 64 100, tileMmaz, tileDrain] [⟨0, 0⟩, ⟨0, 1⟩] = false ∧
    tileRuns [tileLdp 0 128 200, tileLdp 0 128 100, tileMmaz, tileDrain] [⟨0, 0⟩, ⟨0, 0⟩] = false := by decide +kernel

/-- The check values of the CRC-32C of R87 and R291 (Castagnoli) and of SHA-256 (FIPS 180-4, "abc"). -/
theorem test_crc32c : crc32c ([0x31, 0x32, 0x33, 0x34, 0x35, 0x36, 0x37, 0x38, 0x39]) = 0xE3069283 := by decide +kernel
theorem test_sha256 : leNat (sha256 [0x61, 0x62, 0x63]).reverse =
    0xBA7816BF8F01CFEA414140DE5DAE2223B00361A396177A9CB410FF61F20015AD := by decide +kernel

/-- R210, its tokens: six zeros, 0x41 twice and 0x7F, with the table 41, 00. -/
theorem test_run_pack : rpTokens [0x41, 0x00] 9 0 (List.replicate 6 0 ++ [0x41, 0x41, 0x7F]) =
    [0xD, 4, 0, 0, 0xF, 0xF, 7] := by decide +kernel

/-! ## Single steps -/

/-- What a step answers, as far as a test looks at it. -/
def after {α : Type} (r : Host.Outcome State Fault Refusal) (f : State → α) : Option α := match r with | .next u => some (f u) | _ => none

/-- R1: the identification of a B1, grade X, D2 device. -/
theorem test_glb_id : after (exec (.lowHalfReadLatch 0 4) base) (·.out) = some [.regRead 0 0x0A961122] := by decide +kernel

/-- R328: no register lies at or beyond 64 MiB. -/
theorem test_beyond_bar0 : after (exec (.registerWrite .host 0x4000000 0 4) base) (·.out) = none := by decide +kernel

/-- R107: a lane of VADD, 1.5 + 2.25 = 3.75. -/
theorem test_vadd : fadd 0x3FC00000 0x40100000 = 0x40700000 := by decide +kernel

/-- R107: EXP2(−1) = 0.5, and RCP of 4 is 0.25. -/
theorem test_functions : fexp2 0xBF800000 = 0x3F000000 ∧ frcp 0x40800000 = 0x3E800000 := by decide +kernel

/-- R124, R126: a NOP at DBL_HEAD passes it and, with CPL, leaves a record to be written. -/
theorem test_nop : after (exec (.nop 31 7 0x0040000000000000 0) (sq qu)) (fun u => ((u.queue 31 7).head, (u.queue 31 7).issued.length)) =
    some (1, 1) := by decide +kernel

/-- R364: the second word of GLB_RESET resets the device with its cause. -/
theorem test_glb_reset : after (exec (.glbResetWrite 0x69EA) (sg (fun g => { g with resetKey := some g.devTime })))
    (fun u => (u.glb.st, u.ten.length)) = some (.reset, 0) := by decide +kernel

/-- The front of the queue runs with the queue's rest; on an empty queue device time passes. -/
theorem test_step_front : after (step { base with pending := [.clearAlert 0x58 false, .idcode] }) (·.pending) = some [.idcode] := by decide +kernel
theorem test_step_idle : after (step base) (·.glb.devTime) = some 100000000001 := by decide +kernel

/-- The table gives its rows no bits: no word spells a command. -/
theorem test_no_word : decodeTableWord 0 0 = none ∧ State.reset.withFetchWord 32 7 = State.reset := by decide

end Sys2Proof.Tests
end

section
/-! PROOFS, O20. No command changes a fuse or the commands that wait (spec/00_scope.md, R1; notes/assumptions/1.md). The Laws say of
every operation that it leaves both alone; here the same is said of what each command answers, and so of a step. Most commands only
choose among operations: their lemma splits the choices, and the Laws close each of them. Where a state comes out of a partial write, a
fold over pairs or a function that is handed on, the lemma says how. -/

namespace Sys2Proof.Machine

/-- The fuses and the commands that wait are the same in both states. -/
@[simp] def SameFusesAndQueue (s u : State) : Prop := u.fuse = s.fuse ∧ u.pending = s.pending

/-- If the command answers at all, the answer has the fuses and the waiting commands of `s`. -/
def KeepsFusesAndQueue (s : State) : Host.Outcome State Fault Refusal → Prop
  | .next u => SameFusesAndQueue s u
  | .fault _ => True
  | .refused _ => True

theorem SameFusesAndQueue.trans {s u v : State} (h : SameFusesAndQueue s u) (h' : SameFusesAndQueue u v) :
    SameFusesAndQueue s v := ⟨h'.1.trans h.1, h'.2.trans h.2⟩

@[simp] theorem keepsFusesAndQueue_next (s u : State) : KeepsFusesAndQueue s (.next u) ↔ SameFusesAndQueue s u := Iff.rfl
@[simp] theorem keepsFusesAndQueue_fault (s : State) (r : Fault) : KeepsFusesAndQueue s (.fault r) := trivial

theorem resState_same {s : State} {r : Res} (h : KeepsFusesAndQueue s r) : SameFusesAndQueue s (resState s r) := by
  cases r with
  | next u => exact h
  | fault _ => exact ⟨rfl, rfl⟩
  | refused _ => exact ⟨rfl, rfl⟩

@[simp] theorem resState_fuse {s : State} {r : Res} (h : KeepsFusesAndQueue s r) : (resState s r).fuse = s.fuse :=
  (resState_same h).1
@[simp] theorem resState_pending {s : State} {r : Res} (h : KeepsFusesAndQueue s r) : (resState s r).pending = s.pending :=
  (resState_same h).2

theorem foldl_fst_same {α β : Type} {g : State × α → β → State × α} (l : List β) (x : State × α)
    (h : ∀ x b, SameFusesAndQueue x.1 (g x b).1) : SameFusesAndQueue x.1 (l.foldl g x).1 :=
  ⟨foldl_keeps (fun x => x.1.fuse) g l x fun x b => (h x b).1, foldl_keeps (fun x => x.1.pending) g l x fun x b => (h x b).2⟩

theorem foldl_snd_same {α β : Type} {g : α × State → β → α × State} (l : List β) (x : α × State)
    (h : ∀ x b, SameFusesAndQueue x.2 (g x b).2) : SameFusesAndQueue x.2 (l.foldl g x).2 :=
  ⟨foldl_keeps (fun x => x.2.fuse) g l x fun x b => (h x b).1, foldl_keeps (fun x => x.2.pending) g l x fun x b => (h x b).2⟩

theorem answer_same {f : State → State} (name : String) (ok : Bool) (payload : Bytes) (s : State)
    (h : ∀ s, SameFusesAndQueue s (f s)) : SameFusesAndQueue s (answer name ok payload f s) :=
  ⟨answer_fuse name ok payload f s fun s => (h s).1, answer_pending name ok payload f s fun s => (h s).2⟩

theorem answerIn_same {f : State → State} (profile : Bool) (name : String) (ok : Bool) (payload : Bytes) (s : State)
    (h : ∀ s, SameFusesAndQueue s (f s)) : SameFusesAndQueue s (answerIn profile name ok payload f s) :=
  ⟨answerIn_fuse profile name ok payload f s fun s => (h s).1, answerIn_pending profile name ok payload f s fun s => (h s).2⟩

theorem receive_same {body : State → State} (type : BitVec 8) (h : FlitHdr) (s : State)
    (hb : ∀ s, SameFusesAndQueue s (body s)) : SameFusesAndQueue s (receive type h body s) :=
  ⟨receive_fuse type h body s fun s => (hb s).1, receive_pending type h body s fun s => (hb s).2⟩

theorem modelWrite_same {t a : Nat} {d : List MByte} {s u : State} (h : modelWrite t a d s = .ok u) : SameFusesAndQueue s u :=
  ⟨modelWrite_fuse h, modelWrite_pending h⟩

/-! ## Folds and passages of plain updates

The Laws about `foldl` and `passTo` ask for a proof about the step, which `simp` does not find where it is `rfl`. -/

@[simp] theorem foldl_modArr_fuse {β : Type} (a : β → Nat) (f : β → Arr → Arr) (l : List β) (s : State) :
    (l.foldl (fun s b => s.modArr (a b) (f b)) s).fuse = s.fuse := foldl_fuse _ l s fun _ _ => rfl
@[simp] theorem foldl_modArr_pending {β : Type} (a : β → Nat) (f : β → Arr → Arr) (l : List β) (s : State) :
    (l.foldl (fun s b => s.modArr (a b) (f b)) s).pending = s.pending := foldl_pending _ l s fun _ _ => rfl
@[simp] theorem foldl_logConRow_fuse (l : List Nat) (s : State) : (l.foldl (fun s c => logConRow c s) s).fuse = s.fuse :=
  foldl_fuse _ l s fun _ _ => rfl
@[simp] theorem foldl_logConRow_pending (l : List Nat) (s : State) :
    (l.foldl (fun s c => logConRow c s) s).pending = s.pending := foldl_pending _ l s fun _ _ => rfl
@[simp] theorem foldl_zeroKey_fuse (l : List Nat) (s : State) : (l.foldl (fun s k => zeroKey k s) s).fuse = s.fuse :=
  foldl_fuse _ l s fun _ _ => rfl
@[simp] theorem foldl_zeroKey_pending (l : List Nat) (s : State) :
    (l.foldl (fun s k => zeroKey k s) s).pending = s.pending := foldl_pending _ l s fun _ _ => rfl
@[simp] theorem passTo_modArr_fuse (a c b : Nat) (f : Arr → Arr) (s : State) :
    (passTo a c (fun s => s.modArr b f) s).fuse = s.fuse := passTo_fuse _ _ _ _ fun _ => rfl
@[simp] theorem passTo_modArr_pending (a c b : Nat) (f : Arr → Arr) (s : State) :
    (passTo a c (fun s => s.modArr b f) s).pending = s.pending := passTo_pending _ _ _ _ fun _ => rfl

/-! ## ArrayLoad -/

@[simp] theorem execLdp_keeps (a : Ary) (ce : List (Nat × Nat)) (ue : List Nat) (s : State) :
    KeepsFusesAndQueue s (execLdp a ce ue s) := by
  simp only [execLdp]; (repeat' split) <;> simp
@[simp] theorem execLdc_keeps (a : Ary) (ce ue : List Nat) (s : State) : KeepsFusesAndQueue s (execLdc a ce ue s) := by
  simp only [execLdc]; (repeat' split) <;> simp
@[simp] theorem execStc_keeps (a : Ary) (ce ue : List Nat) (s : State) : KeepsFusesAndQueue s (execStc a ce ue s) := by
  simp only [execStc]; (repeat' split) <;> simp
@[simp] theorem execLdv_keeps (a : Ary) (ce ue : List Nat) (s : State) : KeepsFusesAndQueue s (execLdv a ce ue s) := by
  simp only [execLdv]; (repeat' split) <;> simp
@[simp] theorem execStv_keeps (a : Ary) (s : State) : KeepsFusesAndQueue s (execStv a s) := by
  simp only [execStv]; (repeat' split) <;> simp
@[simp] theorem execLoadMoveDue_keeps (a : Ary) (mv : Nat) (ce : Option Nat) (s : State) :
    KeepsFusesAndQueue s (execLoadMoveDue a mv ce s) := by
  simp only [execLoadMoveDue]; (repeat' split) <;> simp
@[simp] theorem execMoveComplete_keeps (a : Ary) (mv : Nat) (held : Nat) (split : Bool) (flits : List Nat) (s : State) :
    KeepsFusesAndQueue s (execMoveComplete a mv held split flits s) := by
  simp only [execMoveComplete]; (repeat' split) <;> simp
@[simp] theorem execArrayHoldRelease_keeps (a : Ary) (src : HoldSrc) (held : Nat) (s : State) :
    KeepsFusesAndQueue s (execArrayHoldRelease a src held s) := by
  simp only [execArrayHoldRelease]; (repeat' split) <;> simp

/-! ## ArrayControl -/

@[simp] theorem execWaitqRelease_keeps (a : Ary) (waited : Nat) (s : State) : KeepsFusesAndQueue s (execWaitqRelease a waited s) := by
  simp only [execWaitqRelease]; (repeat' split) <;> simp
@[simp] theorem execSync_keeps (a : Ary) (split : Bool) (s : State) : KeepsFusesAndQueue s (execSync a split s) := by
  simp only [execSync]; (repeat' split) <;> simp
@[simp] theorem execSyncRelease_keeps (t : Ten) (bar : Fin 16) (waited : List (Ary × Nat)) (s : State) :
    KeepsFusesAndQueue s (execSyncRelease t bar waited s) := by
  simp only [execSyncRelease]; (repeat' split) <;> simp

/-! ## ArrayMatrix -/

@[simp] theorem execMma_keeps (a : Ary) (ce : List Nat) (ue : List (Nat × Nat)) (par : List PlatAddr) (s : State) :
    KeepsFusesAndQueue s (execMma a ce ue par s) := by
  simp only [execMma]; (repeat' split) <;> simp
@[simp] theorem execMmaz_keeps (a : Ary) (ce : List Nat) (ue : List (Nat × Nat)) (par : List PlatAddr) (s : State) :
    KeepsFusesAndQueue s (execMmaz a ce ue par s) := by
  simp only [execMmaz]; (repeat' split) <;> simp

/-! ## ArrayDrain -/

@[simp] theorem execDrain_keeps (a : Ary) (ce : List Nat) (ue : List Nat) (bp : List Nat) (sue : List Nat) (s : State) :
    KeepsFusesAndQueue s (execDrain a ce ue bp sue s) := by
  simp only [execDrain]; (repeat' split) <;> simp

/-! ## ArrayEvents -/

@[simp] theorem execImageComplete_keeps (a : Ary) (s : State) : KeepsFusesAndQueue s (execImageComplete a s) := by
  simp only [execImageComplete]; (repeat' split) <;> simp
@[simp] theorem execSegOverrun_keeps (a : Ary) (cycles : Nat) (s : State) : KeepsFusesAndQueue s (execSegOverrun a cycles s) := by
  simp only [execSegOverrun]; (repeat' split) <;> simp
@[simp] theorem execArrayPause_keeps (a : Ary) (s : State) : KeepsFusesAndQueue s (execArrayPause a s) := by
  simp only [execArrayPause]; (repeat' split) <;> simp
@[simp] theorem execTimetableImageSubmit_keeps (a : Ary) (slot : Fin 2) (img : Bytes) (disp : Option Nat) (s : State) :
    KeepsFusesAndQueue s (execTimetableImageSubmit a slot img disp s) := by
  simp only [execTimetableImageSubmit]; (repeat' split) <;> simp
@[simp] theorem execImageCheckDone_keeps (a : Ary) (slot : Fin 2) (s : State) : KeepsFusesAndQueue s (execImageCheckDone a slot s) := by
  simp only [execImageCheckDone]; (repeat' split) <;> simp
@[simp] theorem execImageStart_keeps (a : Ary) (s : State) : KeepsFusesAndQueue s (execImageStart a s) := by
  simp only [execImageStart]; (repeat' split) <;> simp
@[simp] theorem execAvsStretch_keeps (a : Ary) (amount : BitVec 8) (s : State) : KeepsFusesAndQueue s (execAvsStretch a amount s) := by
  simp only [execAvsStretch]; (repeat' split) <;> simp

/-! ## ArrayIssue -/

@[simp] theorem execBundleIssue_keeps (a : Ary) (ue : Bool) (s : State) : KeepsFusesAndQueue s (execBundleIssue a ue s) := by
  simp only [execBundleIssue]; (repeat' split) <;> simp

/-! ## Attention -/

@[simp] theorem execAttentionLegStart_keeps (p : Pipe) (ce ue : List Nat) (s : State) :
    KeepsFusesAndQueue s (execAttentionLegStart p ce ue s) := by
  simp only [execAttentionLegStart]; (repeat' split) <;> simp
theorem listKey_same (t : Nat) (d : PassDesc) (v : KvSeq) (w : Walk) (h : KvHdr) (es : List KvEntry) (j : Nat) (s : State) :
    SameFusesAndQueue s (listKey t d v w h es j s).2 := by
  simp only [listKey, readSlice]; (repeat' split) <;> simp

theorem blockKeys_same (g : Leg) (b : Nat) (s : State) : SameFusesAndQueue s (blockKeys g b s).2 := by
  simp only [blockKeys]
  split
  · exact ⟨rfl, rfl⟩
  · split
    · exact ⟨rfl, rfl⟩
    · split
      · exact ⟨rfl, rfl⟩
      · exact foldl_snd_same _ ([], s) fun _ _ => listKey_same ..

@[simp] theorem execKvBlockArrival_keeps (p : Pipe) (stalled : Nat) (ce ue : List Nat) (s : State) :
    KeepsFusesAndQueue s (execKvBlockArrival p stalled ce ue s) := by
  simp only [execKvBlockArrival]
  split
  · simp
  · split
    · simp
    · simp [(blockKeys_same _ _ _).1, (blockKeys_same _ _ _).2]

@[simp] theorem execAttentionLegEnd_keeps (p : Pipe) (s : State) : KeepsFusesAndQueue s (execAttentionLegEnd p s) := by
  simp only [execAttentionLegEnd]; (repeat' split) <;> simp

/-! ## Kv -/

@[simp] theorem execWalkEnd_keeps (t : Ten) (h : BitVec 16) (walk : Nat) (s : State) : KeepsFusesAndQueue s (execWalkEnd t h walk s) := by
  simp only [execWalkEnd]; (repeat' split) <;> simp
@[simp] theorem execPageSpill_keeps (t : Ten) (h : BitVec 16) (s : State) : KeepsFusesAndQueue s (execPageSpill t h s) := by
  simp only [execPageSpill]; (repeat' split) <;> simp

/-! ## Plan -/

@[simp] theorem execDblTailWrite_keeps (t : Ten) (q : Que) (v : Reg32) (s : State) : KeepsFusesAndQueue s (execDblTailWrite t q v s) := by
  simp only [execDblTailWrite]; (repeat' split) <;> simp
@[simp] theorem execDblCplHeadWrite_keeps (t : Ten) (q : Que) (v : Reg32) (s : State) :
    KeepsFusesAndQueue s (execDblCplHeadWrite t q v s) := by
  simp only [execDblCplHeadWrite]; (repeat' split) <;> simp
@[simp] theorem execSkip_keeps (t : Ten) (q : Que) (s : State) : KeepsFusesAndQueue s (execSkip t q s) := by
  simp only [execSkip]; (repeat' split) <;> simp
@[simp] theorem execRetry_keeps (t : Ten) (q : Que) (s : State) : KeepsFusesAndQueue s (execRetry t q s) := by
  simp only [execRetry]; (repeat' split) <;> simp
@[simp] theorem execFlush_keeps (t : Ten) (q : Que) (s : State) : KeepsFusesAndQueue s (execFlush t q s) := by
  simp only [execFlush]; (repeat' split) <;> simp
@[simp] theorem execQueueEnable_keeps (t : Ten) (q : Que) (v : Reg32) (s : State) : KeepsFusesAndQueue s (execQueueEnable t q v s) := by
  simp only [execQueueEnable]; (repeat' split) <;> simp
@[simp] theorem execQueueDisable_keeps (t : Ten) (q : Que) (v : Reg32) (s : State) : KeepsFusesAndQueue s (execQueueDisable t q v s) := by
  simp only [execQueueDisable]; (repeat' split) <;> simp

/-! ## XprArm -/

@[simp] theorem execXprarmComplete_keeps (x : Fin 4) (ce ue : List Nat) (s : State) :
    KeepsFusesAndQueue s (execXprarmComplete x ce ue s) := by
  simp only [execXprarmComplete]; (repeat' split) <;> simp

/-! ## Tenants -/

@[simp] theorem execPlannerBalance_keeps (shares : List Nat) (t : Ten) (s : State) :
    KeepsFusesAndQueue s (execPlannerBalance shares t s) := by
  simp only [execPlannerBalance]; (repeat' split) <;> simp
@[simp] theorem execStart_keeps (t : Ten) (s : State) : KeepsFusesAndQueue s (execStart t s) := by
  simp only [execStart]; (repeat' split) <;> simp
@[simp] theorem execArrayResume_keeps (a : Ary) (s : State) : KeepsFusesAndQueue s (execArrayResume a s) := by
  simp only [execArrayResume]; (repeat' split) <;> simp
@[simp] theorem execStop_keeps (t : Ten) (s : State) : KeepsFusesAndQueue s (execStop t s) := by
  simp only [execStop]; (repeat' split) <;> simp
@[simp] theorem execReset_keeps (t : Ten) (s : State) : KeepsFusesAndQueue s (execReset t s) := by
  simp only [execReset]; (repeat' split) <;> simp
@[simp] theorem execTenantResetDone_keeps (t : Ten) (s : State) : KeepsFusesAndQueue s (execTenantResetDone t s) := by
  simp only [execTenantResetDone]; split <;> simp
@[simp] theorem execResume_keeps (t : Ten) (s : State) : KeepsFusesAndQueue s (execResume t s) := by
  simp only [execResume]; (repeat' split) <;> simp
@[simp] theorem execBindingWrite_keeps (t : Ten) (off : Nat) (v : Reg32) (s : State) :
    KeepsFusesAndQueue s (execBindingWrite t off v s) := by
  simp only [execBindingWrite]; (repeat' split) <;> simp
@[simp] theorem execRebindAccept_keeps (t : Ten) (q : Que) (s : State) : KeepsFusesAndQueue s (execRebindAccept t q s) := by
  simp only [execRebindAccept]; (repeat' split) <;> simp
@[simp] theorem execLegQuiesceTimeout_keeps (p : Pipe) (s : State) : KeepsFusesAndQueue s (execLegQuiesceTimeout p s) := by
  simp only [execLegQuiesceTimeout]; (repeat' split) <;> simp
@[simp] theorem execScrubDone_keeps (t : Ten) (q : Que) (s : State) : KeepsFusesAndQueue s (execScrubDone t q s) := by
  simp only [execScrubDone]; (repeat' split) <;> simp

/-! ## Dispatching -/

@[simp] theorem execDispatchComplete_keeps (d : Nat) (s : State) : KeepsFusesAndQueue s (execDispatchComplete d s) := by
  simp only [execDispatchComplete]; (repeat' split) <;> simp

/-! ## Memory -/

@[simp] theorem execGranuleMove_keeps (s : State) : KeepsFusesAndQueue s (execGranuleMove s) := by
  simp only [execGranuleMove]; (repeat' split) <;> simp
@[simp] theorem execGranuleSwitch_keeps (s : State) : KeepsFusesAndQueue s (execGranuleSwitch s) := by
  simp only [execGranuleSwitch]
  split
  · simp
  · split
    · split
      · next h => simp [switchGranule_fuse h, switchGranule_pending h]
      · simp
    · simp

@[simp] theorem execHeatDecay_keeps (s : State) : KeepsFusesAndQueue s (execHeatDecay s) := by
  simp only [execHeatDecay]; (repeat' split) <;> simp
@[simp] theorem execMigrationPolicyEval_keeps (s : State) : KeepsFusesAndQueue s (execMigrationPolicyEval s) := by
  simp only [execMigrationPolicyEval]; (repeat' split) <;> simp
@[simp] theorem execStackedMemoryRead_keeps (t : Ten) (addr : Nat) (crcFails : Nat) (ue ce : Bool) (s : State) :
    KeepsFusesAndQueue s (execStackedMemoryRead t addr crcFails ue ce s) := by
  simp only [execStackedMemoryRead]
  split
  · simp
  · split
    · simp
    · split
      · simp [apply_ite State.fuse, apply_ite State.pending]
      · split <;> simp [apply_ite State.fuse, apply_ite State.pending]

@[simp] theorem execZeroFillGranuleCleared_keeps (t : Ten) (g : Nat) (s : State) :
    KeepsFusesAndQueue s (execZeroFillGranuleCleared t g s) := by
  simp only [execZeroFillGranuleCleared]; (repeat' split) <;> simp
@[simp] theorem execYardPageWrite_keeps (t : Ten) (addr : Nat) (page : Bytes) (s : State) :
    KeepsFusesAndQueue s (execYardPageWrite t addr page s) := by
  simp only [execYardPageWrite]
  split
  · simp
  · split
    · next h => exact modelWrite_same h
    · simp

@[simp] theorem execYardPageRead_keeps (t : Ten) (addr : Nat) (firstBad secondBad : List (Fin 8)) (recordUe : Bool) (s : State) :
    KeepsFusesAndQueue s (execYardPageRead t addr firstBad secondBad recordUe s) := by
  simp only [execYardPageRead]; (repeat' split) <;> simp
@[simp] theorem execStackedPhaseCal_keeps (ns : Nat) (s : State) : KeepsFusesAndQueue s (execStackedPhaseCal ns s) := by
  simp only [execStackedPhaseCal]; (repeat' split) <;> simp
@[simp] theorem execYardDriftCheck_keeps (exceeds : Bool) (ns : Nat) (s : State) :
    KeepsFusesAndQueue s (execYardDriftCheck exceeds ns s) := by
  simp only [execYardDriftCheck]; (repeat' split) <;> simp
@[simp] theorem execCalWindowAbandon_keeps (yard : Bool) (s : State) : KeepsFusesAndQueue s (execCalWindowAbandon yard s) := by
  simp only [execCalWindowAbandon]; (repeat' split) <;> simp
@[simp] theorem execGather_keeps (d : Nat) (t : Ten) (list count rowBytes : Nat) (model : Bool) (src stride limit dst : Nat)
    (e : MoveErr) (s : State) :
    KeepsFusesAndQueue s (execGather d t list count rowBytes model src stride limit dst e s) := by
  simp only [execGather]; (repeat' split) <;> simp

/-! ## Depot -/

@[simp] theorem execReadUnitLoaded_keeps (p : WscPort) (retries : Nat) (tagOk : Bool) (s : State) :
    KeepsFusesAndQueue s (execReadUnitLoaded p retries tagOk s) := by
  simp only [execReadUnitLoaded]
  split <;> simp [-List.reduceReplicate]
@[simp] theorem execWscRdataRead_keeps (p : WscPort) (s : State) : KeepsFusesAndQueue s (execWscRdataRead p s) := by
  simp only [execWscRdataRead]
  (repeat' split) <;> simp [rdataRead_fuse, rdataRead_pending]
@[simp] theorem execDepotUnitRead_keeps (sector unit : Nat) (retries : Nat) (tagOk : Bool) (s : State) :
    KeepsFusesAndQueue s (execDepotUnitRead sector unit retries tagOk s) := by
  simp only [execDepotUnitRead]
  split
  · simp
  · split
    · (repeat' split) <;> simp
    · split
      · simp
      · split
        · next h => simp [modelWrite_fuse h, modelWrite_pending h, apply_ite State.fuse, apply_ite State.pending, -List.reduceReplicate]
        · simp [apply_ite State.fuse, apply_ite State.pending, -List.reduceReplicate]

@[simp] theorem execDieProgramUnitDone_keeps (die : Fin 16) (fail : Bool) (s : State) :
    KeepsFusesAndQueue s (execDieProgramUnitDone die fail s) := by
  simp only [execDieProgramUnitDone]; (repeat' split) <;> simp
@[simp] theorem execDieEraseDone_keeps (die : Fin 16) (fail : Bool) (s : State) : KeepsFusesAndQueue s (execDieEraseDone die fail s) := by
  simp only [execDieEraseDone]; (repeat' split) <;> simp
@[simp] theorem execDepotReadRequest_keeps (die : Fin 16) (cls : Fin 5) (s : State) :
    KeepsFusesAndQueue s (execDepotReadRequest die cls s) := by
  simp only [execDepotReadRequest]; (repeat' split) <;> simp
@[simp] theorem execDieSuspended_keeps (die : Fin 16) (s : State) : KeepsFusesAndQueue s (execDieSuspended die s) := by
  simp only [execDieSuspended]; (repeat' split) <;> simp
@[simp] theorem execDieResumeDone_keeps (die : Fin 16) (s : State) : KeepsFusesAndQueue s (execDieResumeDone die s) := by
  simp only [execDieResumeDone]; (repeat' split) <;> simp

/-! ## Weights -/

@[simp] theorem execDieReadDone_keeps (die : Fin 16) (media : List UnitErr) (s : State) :
    KeepsFusesAndQueue s (execDieReadDone die media s) := by
  simp only [execDieReadDone]; (repeat' split) <;> simp
@[simp] theorem execShardDigestCheck_keeps (t : Ten) (copy : Fin 4) (shard : Nat) (media : List UnitErr) (s : State) :
    KeepsFusesAndQueue s (execShardDigestCheck t copy shard media s) := by
  unfold execShardDigestCheck
  extract_lets s0 v
  have h0 : SameFusesAndQueue s s0 := by
    simp only [s0]; split <;> simp
  clear_value s0
  split
  · split
    · exact h0
    · extract_lets got s1 at_ w
      have h1 : SameFusesAndQueue s s1 := by simp [s1, h0.1, h0.2]
      have hf : ∀ c a u, SameFusesAndQueue s u →
          SameFusesAndQueue s (startLoads (endLoad t.val copy.val .failed c a u)) := fun c a u hu => by
        simp [hu.1, hu.2]
      split
      · exact hf _ _ _ h1
      · next u hw =>
        have h2 : SameFusesAndQueue s u := h1.trans (modelWrite_same hw)
        split
        · exact hf _ _ _ h2
        · split
          · exact hf _ _ _ h2
          · split <;> simp [h2.1, h2.2]
  · exact h0

@[simp] theorem execBackgroundDigestPass_keeps (s : State) : KeepsFusesAndQueue s (execBackgroundDigestPass s) := by
  unfold execBackgroundDigestPass
  extract_lets minutes
  split
  · simp
  · split
    · exact ⟨rfl, rfl⟩
    · exact foldl_fst_same _ (_, none) fun x w => ⟨checkShard_fuse .., checkShard_pending ..⟩

@[simp] theorem execShardReloadDone_keeps (t : Ten) (copy : Fin 4) (shard : Nat) (media : List UnitErr) (s : State) :
    KeepsFusesAndQueue s (execShardReloadDone t copy shard media s) := by
  unfold execShardReloadDone
  extract_lets v
  split
  · simp
  · extract_lets addr fails
    split
    · simp
    · split
      · simp
      · extract_lets got s1
        have h1 : SameFusesAndQueue s s1 := by simp [s1]
        have hw : ∀ {a d u}, modelWrite t.val a d s1 = .ok u → SameFusesAndQueue s u := fun h =>
          h1.trans (modelWrite_same h)
        split
        · next h => simp [fails, (hw h).1, (hw h).2]
        · simp [fails, h1.1, h1.2]
        · simp [fails, h1.1, h1.2]
        · next h =>
          split <;> simp [fails, (hw h).1, (hw h).2]

/-! ## Control -/

@[simp] theorem execCoreWatchdog_keeps (core : Fin 8) (late : Option Comp) (s : State) :
    KeepsFusesAndQueue s (execCoreWatchdog core late s) := by
  simp only [execCoreWatchdog]; (repeat' split) <;> simp
@[simp] theorem execComponentAccessFault_keeps (c : Comp) (cause : StopCause) (s : State) :
    KeepsFusesAndQueue s (execComponentAccessFault c cause s) := by
  simp only [execComponentAccessFault]; (repeat' split) <;> simp
@[simp] theorem execInstructionFetchMiss_keeps (core : Fin 8) (c : Option Comp) (addr : Nat) (s : State) :
    KeepsFusesAndQueue s (execInstructionFetchMiss core c addr s) := by
  simp only [execInstructionFetchMiss]; (repeat' split) <;> simp
@[simp] theorem execGlbDrvverWrite_keeps (v : Reg32) (s : State) : KeepsFusesAndQueue s (execGlbDrvverWrite v s) := by
  simp only [execGlbDrvverWrite]; (repeat' split) <;> simp
@[simp] theorem execGlbHeartbeatWrite_keeps (v : Reg32) (s : State) : KeepsFusesAndQueue s (execGlbHeartbeatWrite v s) := by
  simp only [execGlbHeartbeatWrite]; (repeat' split) <;> simp
@[simp] theorem execHeartbeatTimeout_keeps (s : State) : KeepsFusesAndQueue s (execHeartbeatTimeout s) := by
  simp only [execHeartbeatTimeout]; (repeat' split) <;> simp

/-! ## DeviceSectors -/

@[simp] theorem execPatrolScrub_keeps (unit row : Nat) (ce : Bool) (ue : List Nat) (s : State) :
    KeepsFusesAndQueue s (execPatrolScrub unit row ce ue s) := by
  simp only [execPatrolScrub]; (repeat' split) <;> simp

/-! ## Attest -/

@[simp] theorem execGetVersion_keeps (s : State) : KeepsFusesAndQueue s (execGetVersion s) :=
  answer_same _ _ _ s fun _ => ⟨rfl, rfl⟩
@[simp] theorem execGetCapabilities_keeps (ver : BitVec 8) (s : State) : KeepsFusesAndQueue s (execGetCapabilities ver s) :=
  answerIn_same _ _ _ _ s fun _ => ⟨rfl, rfl⟩
@[simp] theorem execNegotiateAlgorithms_keeps (supported : Bool) (s : State) :
    KeepsFusesAndQueue s (execNegotiateAlgorithms supported s) :=
  answerIn_same _ _ _ _ s fun _ => ⟨rfl, rfl⟩
@[simp] theorem execChallenge_keeps (slot : BitVec 8) (nonce : Bytes) (s : State) : KeepsFusesAndQueue s (execChallenge slot nonce s) :=
  answerIn_same _ _ _ _ s fun _ => ⟨rfl, rfl⟩
@[simp] theorem execGetMeasurements_keeps (index : BitVec 8) (nonce : Bytes) (s : State) :
    KeepsFusesAndQueue s (execGetMeasurements index nonce s) :=
  answer_same _ _ _ s fun _ => ⟨rfl, rfl⟩
@[simp] theorem execKeyExchange_keeps (reqId : BitVec 16) (random exchange : Bytes) (s : State) :
    KeepsFusesAndQueue s (execKeyExchange reqId random exchange s) := by
  unfold execKeyExchange
  split
  · simp
  · exact answerIn_same _ _ _ _ s fun _ => ⟨rfl, rfl⟩

@[simp] theorem execGetEncapsulatedRequest_keeps (sid : BitVec 32) (s : State) :
    KeepsFusesAndQueue s (execGetEncapsulatedRequest sid s) :=
  answer_same _ _ _ s fun _ => ⟨rfl, rfl⟩
@[simp] theorem execDeliverEncapsulatedResponse_keeps (sid : BitVec 32) (chain : ChainResult) (s : State) :
    KeepsFusesAndQueue s (execDeliverEncapsulatedResponse sid chain s) := by
  unfold execDeliverEncapsulatedResponse
  split
  · simp
  · exact answer_same _ _ _ s fun _ => ⟨rfl, rfl⟩

@[simp] theorem execFinish_keeps (sid : BitVec 32) (macOk : Bool) (s : State) : KeepsFusesAndQueue s (execFinish sid macOk s) := by
  simp only [execFinish]; (repeat' split) <;> simp
@[simp] theorem execKeyUpdate_keeps (sid : BitVec 32) (s : State) : KeepsFusesAndQueue s (execKeyUpdate sid s) :=
  answer_same _ _ _ s fun _ => ⟨rfl, rfl⟩
@[simp] theorem execEndSession_keeps (sid : BitVec 32) (s : State) : KeepsFusesAndQueue s (execEndSession sid s) :=
  answer_same _ _ _ s fun _ => ⟨rfl, rfl⟩
@[simp] theorem execKeyDeliver_keeps (sid : BitVec 32) (slot tenant : Nat) (flags : BitVec 8) (secret signer nonce : Bytes) (s : State) :
    KeepsFusesAndQueue s (execKeyDeliver sid slot tenant flags secret signer nonce s) := by
  simp only [execKeyDeliver]; (repeat' split) <;> simp
@[simp] theorem execKeyUnwrap_keeps (sid : BitVec 32) (slot tenant : Nat) (flags : BitVec 8) (blob : Bytes) (s : State) :
    KeepsFusesAndQueue s (execKeyUnwrap sid slot tenant flags blob s) := by
  simp only [execKeyUnwrap]; (repeat' split) <;> simp
@[simp] theorem execKeyErase_keeps (sid : BitVec 32) (slot tenant : Nat) (s : State) :
    KeepsFusesAndQueue s (execKeyErase sid slot tenant s) := by
  simp only [execKeyErase]; (repeat' split) <;> simp
@[simp] theorem execKeyQuery_keeps (sid : BitVec 32) (s : State) : KeepsFusesAndQueue s (execKeyQuery sid s) := by
  simp only [execKeyQuery]; (repeat' split) <;> simp

/-! ## Express -/

@[simp] theorem execReq_keeps (lane : Lane) (slot : List LineChar) (s : State) : KeepsFusesAndQueue s (execReq lane slot s) := by
  simp only [execReq]; (repeat' split) <;> simp
@[simp] theorem execKeep_keeps (lane : Lane) (slot : List LineChar) (s : State) : KeepsFusesAndQueue s (execKeep lane slot s) := by
  simp only [execKeep]; (repeat' split) <;> simp
@[simp] theorem execReceivedFrameDiscard_keeps (lane : Lane) (slot : List LineChar) (s : State) :
    KeepsFusesAndQueue s (execReceivedFrameDiscard lane slot s) := by
  simp only [execReceivedFrameDiscard]; (repeat' split) <;> simp
@[simp] theorem execLaneCopyTimeout_keeps (x : Fin 4) (ce ue : List Nat) (s : State) :
    KeepsFusesAndQueue s (execLaneCopyTimeout x ce ue s) := by
  simp only [execLaneCopyTimeout]; (repeat' split) <;> simp
@[simp] theorem execBarrierTimeout_keeps (x : Fin 4) (role : Fin 8) (spare : Bool) (s : State) :
    KeepsFusesAndQueue s (execBarrierTimeout x role spare s) := by
  simp only [execBarrierTimeout]; (repeat' split) <;> simp
@[simp] theorem execSpareBarrier_keeps (x : Fin 4) (split : Bool) (ce ue : List Nat) (s : State) :
    KeepsFusesAndQueue s (execSpareBarrier x split ce ue s) := by
  simp only [execSpareBarrier]; (repeat' split) <;> simp
@[simp] theorem execSpareProof_keeps (x : Fin 4) (role : Fin 8) (ce ue : List Nat) (s : State) :
    KeepsFusesAndQueue s (execSpareProof x role ce ue s) := by
  simp only [execSpareProof]; (repeat' split) <;> simp
@[simp] theorem execSpareProofDone_keeps (split : Bool) (s : State) : KeepsFusesAndQueue s (execSpareProofDone split s) := by
  simp only [execSpareProofDone]; (repeat' split) <;> simp
@[simp] theorem execXprDeadline_keeps (x : Fin 4) (s : State) : KeepsFusesAndQueue s (execXprDeadline x s) := by
  simp only [execXprDeadline]; (repeat' split) <;> simp
@[simp] theorem execClockCompare_keeps (diverges : Bool) (s : State) : KeepsFusesAndQueue s (execClockCompare diverges s) := by
  simp only [execClockCompare]; (repeat' split) <;> simp
@[simp] theorem execLockstep_keeps (s : State) : KeepsFusesAndQueue s (execLockstep s) := by
  simp only [execLockstep]; (repeat' split) <;> simp
@[simp] theorem execSboxSelfCheck_keeps (reportsA reportsB : Bool) (s : State) :
    KeepsFusesAndQueue s (execSboxSelfCheck reportsA reportsB s) := by
  simp only [execSboxSelfCheck]; (repeat' split) <;> simp
@[simp] theorem execHold_keeps (s : State) : KeepsFusesAndQueue s (execHold s) := by
  simp only [execHold]; (repeat' split) <;> simp
@[simp] theorem execAlive_keeps (lane : Lane) (s : State) : KeepsFusesAndQueue s (execAlive lane s) := by
  simp only [execAlive]; (repeat' split) <;> simp
@[simp] theorem execLaneSlot_keeps (lane : Lane) (ce ue : List Nat) (s : State) : KeepsFusesAndQueue s (execLaneSlot lane ce ue s) := by
  simp only [execLaneSlot, resErrs]
  split
  · simp
  · split
    · simp
    · split <;> simp

@[simp] theorem execLaneWatchdog_keeps (lane : Lane) (s : State) : KeepsFusesAndQueue s (execLaneWatchdog lane s) := by
  simp only [execLaneWatchdog]; (repeat' split) <;> simp
@[simp] theorem execLaneRecovery_keeps (lane : Lane) (s : State) : KeepsFusesAndQueue s (execLaneRecovery lane s) := by
  simp only [execLaneRecovery]; (repeat' split) <;> simp

/-! ## Manage -/

@[simp] theorem execMgtTlsHandshake_keeps (chain : ChainResult) (profileOk : Bool) (net : NetPacket) (s : State) :
    KeepsFusesAndQueue s (execMgtTlsHandshake chain profileOk net s) := by
  simp only [execMgtTlsHandshake]; (repeat' split) <;> simp
theorem mboxGet_same (s : State) : SameFusesAndQueue s (mboxGet s).2 := by
  unfold mboxGet
  split <;> exact ⟨rfl, rfl⟩

theorem mgtAccess_same (s : State) (m : MgtAccess) : SameFusesAndQueue s (mgtAccess s m).1 := by
  unfold mgtAccess
  split
  · (repeat' split) <;> simp
  · split
    · exact ⟨rfl, rfl⟩
    · split
      · exact mboxGet_same s
      · split <;> exact ⟨rfl, rfl⟩

@[simp] theorem execMgtRecord_keeps (accesses : List MgtAccess) (s : State) : KeepsFusesAndQueue s (execMgtRecord accesses s) := by
  unfold execMgtRecord
  split
  · simp
  · extract_lets r
    have hr : SameFusesAndQueue s r.1 := foldl_fst_same accesses (s, []) fun x a => mgtAccess_same x.1 a
    split <;> simp [hr.1, hr.2]

@[simp] theorem execMgtMboxDataWrite_keeps (v : Reg32) (s : State) : KeepsFusesAndQueue s (execMgtMboxDataWrite v s) := by
  simp only [execMgtMboxDataWrite]; (repeat' split) <;> simp
@[simp] theorem execMgtMboxDataRead_keeps (s : State) : KeepsFusesAndQueue s (execMgtMboxDataRead s) := by
  unfold execMgtMboxDataRead
  split <;> simp [(mboxGet_same s).1, (mboxGet_same s).2]
@[simp] theorem execFwStage_keeps (img : ImageCheck) (s : State) : KeepsFusesAndQueue s (execFwStage img s) := by
  simp only [execFwStage]; (repeat' split) <;> simp
@[simp] theorem execLogRead_keeps (s : State) : KeepsFusesAndQueue s (execLogRead s) := by
  simp only [execLogRead]; (repeat' split) <;> simp
@[simp] theorem execScanUnlock_keeps (s : State) : KeepsFusesAndQueue s (execScanUnlock s) := by
  simp only [execScanUnlock]; (repeat' split) <;> simp
@[simp] theorem execScanLock_keeps (s : State) : KeepsFusesAndQueue s (execScanLock s) := by
  simp only [execScanLock]; (repeat' split) <;> simp
@[simp] theorem execNetcfg_keeps (s : State) : KeepsFusesAndQueue s (execNetcfg s) := by
  simp only [execNetcfg]; (repeat' split) <;> simp

/-! ## Windows -/

@[simp] theorem execHostWindowWrite_keeps (w : Fin 64) (off : Nat) (data : Bytes) (s : State) :
    KeepsFusesAndQueue s (execHostWindowWrite w off data s) := by
  simp only [execHostWindowWrite]; (repeat' split) <;> simp
@[simp] theorem execHostWindowRead_keeps (w : Fin 64) (off len : Nat) (s : State) :
    KeepsFusesAndQueue s (execHostWindowRead w off len s) := by
  simp only [execHostWindowRead]; (repeat' split) <;> simp
@[simp] theorem execWindowRetire_keeps (peer : Bool) (w : Fin 64) (s : State) : KeepsFusesAndQueue s (execWindowRetire peer w s) := by
  simp only [execWindowRetire]; (repeat' split) <;> simp
@[simp] theorem execPcieEcrc_keeps (s : State) : KeepsFusesAndQueue s (execPcieEcrc s) := by
  simp only [execPcieEcrc]; (repeat' split) <;> simp
@[simp] theorem execD3hotEntry_keeps (s : State) : KeepsFusesAndQueue s (execD3hotEntry s) := by
  simp only [execD3hotEntry]; (repeat' split) <;> simp
@[simp] theorem execD3hotExit_keeps (cfg : PcieCfg) (s : State) : KeepsFusesAndQueue s (execD3hotExit cfg s) := by
  simp only [execD3hotExit]; (repeat' split) <;> simp

/-! ## Peer -/

@[simp] theorem execNak_keeps (h : FlitHdr) (payload : Bytes) (s : State) : KeepsFusesAndQueue s (execNak h payload s) :=
  receive_same _ h s fun _ => ⟨rfl, rfl⟩
@[simp] theorem execCredit_keeps (h : FlitHdr) (payload : Bytes) (s : State) : KeepsFusesAndQueue s (execCredit h payload s) :=
  receive_same _ h s fun _ => ⟨rfl, rfl⟩
@[simp] theorem execReplay_keeps (h : FlitHdr) (s : State) : KeepsFusesAndQueue s (execReplay h s) := by
  simp only [execReplay]; (repeat' split) <;> simp
@[simp] theorem execIdle_keeps (h : FlitHdr) (s : State) : KeepsFusesAndQueue s (execIdle h s) := by
  simp only [execIdle]; (repeat' split) <;> simp
@[simp] theorem execBadFlit_keeps (flit : Bytes) (s : State) : KeepsFusesAndQueue s (execBadFlit flit s) := by
  simp only [execBadFlit]; (repeat' split) <;> simp
@[simp] theorem execPeerAcknowledge_keeps (s : State) : KeepsFusesAndQueue s (execPeerAcknowledge s) := by
  simp only [execPeerAcknowledge]; (repeat' split) <;> simp
@[simp] theorem execPeerLinkTrain_keeps (present : Bool) (version : Fin 3) (lanes : BitVec 8) (s : State) :
    KeepsFusesAndQueue s (execPeerLinkTrain present version lanes s) := by
  simp only [execPeerLinkTrain]; (repeat' split) <;> simp

/-! ## Transfer -/

@[simp] theorem execTransferDescriptorComplete_keeps (d : Descriptor) (e : MoveErr) (s : State) :
    KeepsFusesAndQueue s (execTransferDescriptorComplete d e s) := by
  simp only [execTransferDescriptorComplete]; (repeat' split) <;> simp

/-! ## Power -/

@[simp] theorem execPorNRelease_keeps (s : State) : KeepsFusesAndQueue s (execPorNRelease s) := by
  simp only [execPorNRelease]; (repeat' split) <;> simp
@[simp] theorem execPllLock_keeps (cfg : PcieCfg) (s : State) : KeepsFusesAndQueue s (execPllLock cfg s) := by
  simp only [execPllLock]; (repeat' split) <;> simp
@[simp] theorem execPllUnlock_keeps (s : State) : KeepsFusesAndQueue s (execPllUnlock s) := by
  simp only [execPllUnlock]; (repeat' split) <;> simp
@[simp] theorem execRailFault_keeps (r : Rail) (s : State) : KeepsFusesAndQueue s (execRailFault r s) := by
  simp only [execRailFault]; (repeat' split) <;> simp
@[simp] theorem execRailRecovery_keeps (s : State) : KeepsFusesAndQueue s (execRailRecovery s) := by
  simp only [execRailRecovery]; (repeat' split) <;> simp
@[simp] theorem execGlbResetWrite_keeps (v : Reg32) (s : State) : KeepsFusesAndQueue s (execGlbResetWrite v s) := by
  simp only [execGlbResetWrite]; (repeat' split) <;> simp
@[simp] theorem execGlbResetSequenceTimeout_keeps (s : State) : KeepsFusesAndQueue s (execGlbResetSequenceTimeout s) := by
  simp only [execGlbResetSequenceTimeout]; (repeat' split) <;> simp
@[simp] theorem execThermAlert_keeps (temp : BitVec 16) (s : State) : KeepsFusesAndQueue s (execThermAlert temp s) := by
  simp only [execThermAlert]; (repeat' split) <;> simp
@[simp] theorem execThermThrottle_keeps (temp : BitVec 16) (s : State) : KeepsFusesAndQueue s (execThermThrottle temp s) := by
  simp only [execThermThrottle]; (repeat' split) <;> simp
@[simp] theorem execThrottleRelease_keeps (temp : BitVec 16) (s : State) : KeepsFusesAndQueue s (execThrottleRelease temp s) := by
  simp only [execThrottleRelease]; (repeat' split) <;> simp
@[simp] theorem execThermTrip_keeps (temp : BitVec 16) (s : State) : KeepsFusesAndQueue s (execThermTrip temp s) := by
  simp only [execThermTrip]; (repeat' split) <;> simp
@[simp] theorem execThermTripRelease_keeps (temp : BitVec 16) (s : State) : KeepsFusesAndQueue s (execThermTripRelease temp s) := by
  simp only [execThermTripRelease]; (repeat' split) <;> simp
@[simp] theorem execBootDone_keeps (bnonce : Bytes) (s : State) : KeepsFusesAndQueue s (execBootDone bnonce s) := by
  simp only [execBootDone]; (repeat' split) <;> simp
@[simp] theorem execVerifyDone_keeps (ok : Bool) (s : State) : KeepsFusesAndQueue s (execVerifyDone ok s) := by
  simp only [execVerifyDone]; (repeat' split) <;> simp
@[simp] theorem execTrainDone_keeps (ok : Bool) (channels : List (Nat × Nat × Nat)) (peerVersion : Fin 3)
    (peerLanes : BitVec 8) (s : State) :
    KeepsFusesAndQueue s (execTrainDone ok channels peerVersion peerLanes s) := by
  simp only [execTrainDone]; (repeat' split) <;> simp
@[simp] theorem execSelftestDone_keeps (ok : Bool) (sboxOk : Bool) (s : State) : KeepsFusesAndQueue s (execSelftestDone ok sboxOk s) := by
  simp only [execSelftestDone]; (repeat' split) <;> simp
@[simp] theorem execSafetyLinkAlign_keeps (lane : Lane) (s : State) : KeepsFusesAndQueue s (execSafetyLinkAlign lane s) := by
  simp only [execSafetyLinkAlign]; (repeat' split) <;> simp

/-! ## Registers -/

@[simp] theorem execLowHalfReadLatch_keeps (off size : Nat) (s : State) : KeepsFusesAndQueue s (execLowHalfReadLatch off size s) := by
  simp only [execLowHalfReadLatch]; (repeat' split) <;> simp
theorem writeDbl_same (t : Ten) (q : Que) (off : Nat) (v : Reg32) (s : State) : SameFusesAndQueue s (writeDbl t q off v s) := by
  simp [writeDbl, apply_ite State.fuse, apply_ite State.pending]

theorem writeTcmd_same (t : Ten) (v : Reg32) (s : State) : SameFusesAndQueue s (writeTcmd t v s) := by
  simp [writeTcmd, apply_ite State.fuse, apply_ite State.pending]

theorem writeTcx_same (t : Ten) (off : Nat) (v : Reg32) (s : State) : SameFusesAndQueue s (writeTcx t off v s) := by
  obtain ⟨hf, hq⟩ := writeTcmd_same t v s
  simp [writeTcx, apply_ite State.fuse, apply_ite State.pending, hf, hq]

theorem hostWrite32_same (off : Nat) (v : Reg32) (s : State) : SameFusesAndQueue s (hostWrite32 off v s) := by
  simp [hostWrite32, apply_ite State.fuse, apply_ite State.pending, (writeDbl_same _ _ _ v s).1, (writeDbl_same _ _ _ v s).2,
    (writeTcx_same _ _ v s).1, (writeTcx_same _ _ v s).2]

theorem write32_same (who : Agent) (off : Nat) (v : Reg32) (s : State) : SameFusesAndQueue s (write32 who off v s) := by
  cases who with
  | host => exact hostWrite32_same off v s
  | planner => simp only [write32]; split <;> simp
  | firmware => simp only [write32]; split <;> simp

theorem writeBytes_same (who : Agent) (off size : Nat) (val : BitVec 64) (s : State) :
    SameFusesAndQueue s (writeBytes who off size val s) := by
  simp [writeBytes, apply_ite State.fuse, apply_ite State.pending, (write32_same who _ _ _).1, (write32_same who _ _ _).2]

@[simp] theorem execRegisterWrite_keeps (who : Agent) (off : Nat) (val : BitVec 64) (size : Nat) (s : State) :
    KeepsFusesAndQueue s (execRegisterWrite who off val size s) := by
  unfold execRegisterWrite
  split
  · simp
  · exact writeBytes_same ..

@[simp] theorem execUnalignedAccess_keeps (write : Bool) (off size : Nat) (s : State) :
    KeepsFusesAndQueue s (execUnalignedAccess write off size s) := by
  simp only [execUnalignedAccess]; (repeat' split) <;> simp
@[simp] theorem execBar0OversizeRead_keeps (off size : Nat) (s : State) : KeepsFusesAndQueue s (execBar0OversizeRead off size s) := by
  simp only [execBar0OversizeRead]; (repeat' split) <;> simp
@[simp] theorem execClearAlert_keeps (addr : BitVec 7) (pecOk : Bool) (s : State) : KeepsFusesAndQueue s (execClearAlert addr pecOk s) := by
  simp only [execClearAlert]; (repeat' split) <;> simp
@[simp] theorem execIdcode_keeps (s : State) : KeepsFusesAndQueue s (execIdcode s) := by
  simp only [execIdcode]; (repeat' split) <;> simp
@[simp] theorem execTelemetry_keeps (s : State) : KeepsFusesAndQueue s (execTelemetry s) := by
  simp only [execTelemetry]; (repeat' split) <;> simp

/-! ## Every command -/

/-- No command changes a fuse or the commands that wait. A command that decides something has its lemma above; one that does not is
unfolded here to the one operation that carries it out. -/
theorem exec_keeps (c : Instr) (s : State) : KeepsFusesAndQueue s (exec c s) := by
  cases c <;> dsimp only [exec] <;> simp [execLoop, execBr, execWaitq, execHalt, execAvsStretchEnd, execLnop, execMnop, execVnop,
    execDnop, execCnop, execVadd, execVsub, execVmul, execVfma, execVmax, execVmin, execVmov, execVbcast, execVsplat, execVrcp,
    execVrsqrt, execVexp2, execVrsum, execVrmax, execIset, execIseth, execIadd, execIsub, execImin, execIcmplt, execIcmpeq, execKvopen,
    execKvappend, execKveditTrunc, execKveditRemap, execKveditDrop, execKveditPos0, execKveditUnspill, execKveditSeal, execKvclose,
    execPageSealFp8, execPageSealK3, execSpillhint, execReservedPlanOpcode, execNop, execBatch, execWaitev, execSignalev, execFence,
    execTstamp, execPlanHalt, execCompletionRecordWrite, execXprarm, execXprdisarm, execSetcfg, execGetcfg, execRebind, execScrub,
    execDispatch, execMigrate, execPrefetch, execWscKeyWrite, execWscSequenceWrite, execProgramSmall, execProgramBulk, execErase,
    execWpset, execSuspend, execDepotResume, execStatus, execReadid, execReadArrayLoad, execBulkRead, execLoadw, execDigestw, execArmw,
    execPoints, execReleasew, execGetDigests, execGetCertificate, execUnsupportedSpdmRequest, execHeartbeat, execExpressRestart,
    execSetHostRoot, execSetMgtRoot, execWinopen, execWinclose, execWr, execRdreq, execRdcpl, execSignal, execGrad, execPorNAssert,
    execVddAuxLoss, execPerstNAssert, execPerstNRelease, execSmbState, execSmbIdent, execSmbTemp, execSmbPower, execSmbXpr, execBypass,
    execSamplePreload, execExtest, execClamp, execHighz]

/-- Settles O20: on an empty queue time passes; else the command at the front is carried out with the rest of the queue, and keeps it. -/
theorem stepKeepsFusesAndQueueOrder : Obligations.StepKeepsFusesAndQueueOrder := by
  unfold Obligations.StepKeepsFusesAndQueueOrder
  intro s u h
  unfold step at h
  split at h
  · next hp =>
    cases h
    exact ⟨rfl, by simp [tick, hp]⟩
  · next c r hp =>
    have hk := exec_keeps c { s with pending := r }
    rw [h] at hk
    obtain ⟨hf, hq⟩ := hk
    exact ⟨hf, by rw [hq, hp]; rfl⟩

end Sys2Proof.Machine
end

section
/-! PROOFS, O60. What a write of one register does (R9, R10, R11, R86, R227, R260, R308). -/

namespace Sys2Proof.Machine

/-- A host that is attached and not lost may write every register (R306, R308). -/
theorem State.hostMayWrite_of_attached {s : State} (hr : s.hostReaches = true) (ha : s.glb.attached = true)
    (hl : s.glb.lost = false) (off : Nat) : s.hostMayWrite off = true := by
  simp [State.hostMayWrite, hr, ha, hl]

/-- A lost host may write GLB_DRVVER and GLB_HEARTBEAT alone (R308). -/
theorem State.hostMayWrite_of_lost {s : State} (hl : s.glb.lost = true) {off : Nat} (hd : off ≠ 0x14) (hh : off ≠ 0x18) :
    s.hostMayWrite off = false := by
  simp [State.hostMayWrite, hl, hd, hh]

theorem beyondBar_eq_false {off size : Nat} (h : off + size ≤ 2 ^ 26) : beyondBar off size = false :=
  decide_eq_false (Nat.not_lt.mpr h)

/-- A write of four bytes at a word boundary within BAR0 is the write of that register. -/
theorem exec_registerWrite_word (who : Agent) {off : Nat} (v : Reg32) (s : State) (h : off + 4 ≤ 2 ^ 26) (h4 : off % 4 = 0) :
    exec (.registerWrite who off (v.setWidth 64) 4) s = .next (write32 who off v s) := by
  have hv : (v.setWidth 64).setWidth 32 = v := by simp
  simp [exec, execRegisterWrite, writeBytes, beyondBar_eq_false h, h4, hv]

theorem hostWrite32_denied {s : State} {off : Nat} (v : Reg32) (h : s.hostMayWrite off = false) : hostWrite32 off v s = s := by
  simp [hostWrite32, h]

/-- The ARY block of array `a` lies 128 KiB apart from 8 MiB on (R86). -/
theorem hostWrite32_ary {s : State} (a : Ary) {off o : Nat} (v : Reg32) (ho : off = 0x800000 + 0x20000 * a + o)
    (h17 : o < 2 ^ 17) (h : s.hostMayWrite off = true) : hostWrite32 off v s = writeAry a o v s := by
  have ha := a.isLt
  have hb : 8 ≤ off / 2 ^ 20 ∧ off / 2 ^ 20 < 16 := by omega
  have hi : (off - 2 ^ 23) / 2 ^ 17 = a := by omega
  have hm : off % 2 ^ 17 = o := by omega
  have h0 : off / 2 ^ 20 ≠ 0 ∧ off / 2 ^ 20 ≠ 1 ∧ off / 2 ^ 20 ≠ 2 ∧ off / 2 ^ 20 ≠ 3 ∧ off / 2 ^ 20 ≠ 4 ∧
      off / 2 ^ 20 ≠ 5 ∧ off / 2 ^ 20 ≠ 6 := by omega
  obtain ⟨n0, n1, n2, n3, n4, n5, n6⟩ := h0
  simp only [hostWrite32, h, hi, hm, if_neg n0, if_neg n1, if_neg n2, if_neg n3, if_neg n4, if_neg n5, if_neg n6, if_pos hb]
  rfl

theorem write32_planner_ary {s : State} (a : Ary) {off o : Nat} (v : Reg32) (ho : off = 0x800000 + 0x20000 * a + o)
    (h17 : o < 2 ^ 17) (h : s.firmwareRuns = true) : write32 .planner off v s = writeAryPlanner a o v s := by
  have ha := a.isLt
  have hlo : 2 ^ 23 ≤ off := by omega
  have hhi : off < 2 ^ 24 := by omega
  have hi : (off - 2 ^ 23) / 2 ^ 17 = a := by omega
  have hm : off % 2 ^ 17 = o := by omega
  simp only [write32, h, hlo, hhi, hi, hm, decide_true, Bool.and_self, if_true]

section
variable {s : State} (v : Reg32)

theorem hostWrite32_frcSummary (h : s.hostMayWrite 0x300000 = true) :
    hostWrite32 0x300000 v s = { s with frc := { s.frc with
      summary := s.frc.summary &&& ~~~(BitVec.ofNat 10 (bitsOf v.toNat 10 1)) ||| (s.frc.summary &&& s.freshBits) } } := by
  simp [hostWrite32, h, writeFrc, w1cBits]

theorem hostWrite32_frcFirst (h : s.hostMayWrite 0x300004 = true) (hv : v.getLsbD 31 = true) (hf : s.freshBits = 0) :
    hostWrite32 0x300004 v s = { s with frc := { s.frc with firstValid := false, firstTenant := 0, firstCode := 0 } } := by
  simp [hostWrite32, h, writeFrc, hv, hf]

theorem hostWrite32_mtcPolicy (h : s.hostMayWrite 0x500004 = true) :
    hostWrite32 0x500004 v s = { s with mtc := { s.mtc with
      autoSh := v.getLsbD 31, promoteSh := BitVec.ofNat 8 (bitsOf v.toNat 23 16), hystSh := BitVec.ofNat 8 (bitsOf v.toNat 15 8)
      rateSh := BitVec.ofNat 8 (max 1 (min 128 (bitsOf v.toNat 7 0))) } } := by
  simp [hostWrite32, h, writeMtc, bitsOf]

theorem hostWrite32_wscReload (h : s.hostMayWrite 0x40003C = true) :
    hostWrite32 0x40003C v s = { s with dep := { s.dep with
      intervalSh := BitVec.ofNat 8 (bitsOf v.toNat 15 8), shareSh := BitVec.ofNat 5 (max 1 (min 20 (bitsOf v.toNat 4 0))) } } := by
  simp [hostWrite32, h, writeWsc, bitsOf]

theorem hostWrite32_glbTherm (h : s.hostMayWrite 0x0C = true) :
    hostWrite32 0x0C v s = { s with glb := { s.glb with
      alertSeen := s.glb.alertSeen && !v.getLsbD 15, throttleSeen := s.glb.throttleSeen && !v.getLsbD 13 } } := by
  simp [hostWrite32, h, writeGlb, w1c]

theorem hostWrite32_aryId (a : Ary) (h : s.hostMayWrite (0x800000 + 0x20000 * a) = true) :
    hostWrite32 (0x800000 + 0x20000 * a) v s = s := by
  rw [hostWrite32_ary a v (o := 0) (by omega) (by decide) h]
  simp [writeAry]

theorem hostWrite32_arySeen (a : Ary) (h : s.hostMayWrite (0x80000C + 0x20000 * a) = true) :
    hostWrite32 (0x80000C + 0x20000 * a) v s = s.setArr a { s.arr a with
      holdSeen := (s.arr a).holdSeen &&& ~~~(BitVec.ofNat 6 v.toNat) ||| (s.arr a).activeSrcs } := by
  rw [hostWrite32_ary a v (o := 0x0C) (by omega) (by decide) h]
  rfl

theorem writeAryPlanner_segLimit (a : Ary) (hs : (s.arr a).st = .idle ∨ (s.arr a).st = .bound ∨ (s.arr a).st = .loaded) :
    writeAryPlanner a 0x24 v s = s.setArr a { s.arr a with segLimit := limitTaken v } := by
  have hfree : (s.arr a).limitFree = true := by
    rcases hs with hs | hs | hs <;> simp [Arr.limitFree, hs]
  simp [writeAryPlanner, hfree]

end

/-- Settles O60: within BAR0 each write is the write of one register, which the lemmas above give. -/
theorem registerFields : Obligations.RegisterFields := by
  unfold Obligations.RegisterFields
  intro v a s fresh w
  have ha := a.isLt
  refine ⟨fun hr hat hl => ?_, fun hl off hoff hd hh => ?_, fun hf hs => ?_⟩
  · have may := State.hostMayWrite_of_attached hr hat hl
    have word (off : Nat) (h : off + 4 ≤ 2 ^ 26) (h4 : off % 4 = 0) : exec (w off) s = .next (hostWrite32 off v s) :=
      exec_registerWrite_word .host v s h h4
    refine ⟨?_, fun hv hfresh => ?_, ?_, ?_, ?_, ?_, ?_⟩
    · rw [word _ (by decide) (by decide), hostWrite32_frcSummary v (may _)]; rfl
    · rw [word _ (by decide) (by decide), hostWrite32_frcFirst v (may _) hv hfresh]
    · rw [word _ (by decide) (by decide), hostWrite32_mtcPolicy v (may _)]
    · rw [word _ (by decide) (by decide), hostWrite32_wscReload v (may _)]
    · rw [word _ (by omega) (by omega), hostWrite32_aryId v a (may _)]
    · rw [word _ (by omega) (by omega), hostWrite32_arySeen v a (may _)]
    · rw [word _ (by decide) (by decide), hostWrite32_glbTherm v (may _)]
  · by_cases h4 : off % 4 = 0
    · rw [exec_registerWrite_word .host v s hoff h4]
      exact congrArg _ (hostWrite32_denied v (State.hostMayWrite_of_lost hl hd hh))
    · simp [w, exec, execRegisterWrite, writeBytes, beyondBar_eq_false hoff, h4]
  · rw [exec_registerWrite_word .planner v s (by omega) (by omega), write32_planner_ary a v (o := 0x24) (by omega) (by decide) hf,
      writeAryPlanner_segLimit v a hs]
    rfl

end Sys2Proof.Machine
end

section
/-! PROOFS, O58. A read's answer is not bare where the host has ECRC on (R331). -/

namespace Sys2Proof.Machine

/-- A device after reset whose port is up and whose host has switched ECRC on (R331). -/
def ecrcDevice : State := { State.reset with glb := { Glb.init with portUp := true, pcie := { Glb.init.pcie with ecrc := true } } }

/-- The completion of an oversize read goes out with its ECRC, not as the bare Completer Abort. -/
theorem exec_oversizeRead_ecrcDevice :
    exec (.bar0OversizeRead 0 16) ecrcDevice = .next { ecrcDevice with out := [.ecrc .cplAbort] } := rfl

/-- Refutes O58: the statement has each read answer a bare completion, but `emit` wraps every TLP in its ECRC where the host has it on
(R331), so a read of 16 bytes at offset 0 answers `.ecrc .cplAbort`. -/
theorem not_registerAccesses : ¬ Obligations.RegisterAccesses := by
  unfold Obligations.RegisterAccesses
  intro h
  obtain ⟨hread, -⟩ := h .host 0 16 0 0 ecrcDevice
  obtain ⟨-, -, -, -, hover, -⟩ := hread (by decide) rfl rfl
  have hbare := (exec_oversizeRead_ecrcDevice).symm.trans (hover (by decide))
  have hout : [Output.ecrc .cplAbort] = [.cplAbort] := congrArg State.out (Host.Outcome.next.inj hbare)
  exact absurd hout (by decide)

end Sys2Proof.Machine
end

section
/-! PROOFS, O31. A leg of a packed descriptor on an attention pipeline: its start, its blocks, its end (R16, R141, R163 to R173, R190).
First what the shared operations leave alone, then an equation for each way the three commands go, then the statement's four clauses. -/

namespace Sys2Proof.Machine

/-! ## What recording, reading and writing leave alone

`f` stands for a part of the state that the operation's own parts do not enter. -/

section
variable {γ : Type} (f : State → γ)

theorem msix_keeps (hf : ∀ s g o, f { s with glb := g, out := o } = f s) (v : Nat) (s : State) : f (msix v s) = f s := by
  unfold msix emit
  split
  · rfl
  · split
    · exact hf s _ s.out
    · exact hf s s.glb _

theorem noteBlock_keeps (hf : ∀ s d k w, f { s with dep := d, sec := k, win := w } = f s) (c : BitVec 16) (t : Option Nat)
    (unit arg : Nat) (s : State) : f (noteBlock c t unit arg s) = f s := by
  unfold noteBlock noteWin
  split
  · exact hf s _ s.sec s.win
  · split
    · exact hf s s.dep _ s.win
    · split
      · split
        · rfl
        · exact hf s s.dep s.sec _
      · rfl

/-- Recording a code enters the log, the first-fault registers of the blocks and what goes to the host alone. -/
theorem record_keeps
    (hf : ∀ s r g o d k w, f { s with frc := r, glb := g, out := o, dep := d, sec := k, win := w } = f s)
    (c : BitVec 16) (t : Option Nat) (unit arg addr : Nat) (s : State) : f (record c t unit arg addr s) = f s := by
  have hm := msix_keeps f (fun s g o => hf s s.frc g o s.dep s.sec s.win)
  have hn := noteBlock_keeps f (fun s d k w => hf s s.frc s.glb s.out d k w)
  unfold record
  split
  · exact (hn ..).trans (hf s _ s.glb s.out s.dep s.sec s.win)
  · exact (hm ..).trans ((hn ..).trans (hf s _ s.glb s.out s.dep s.sec s.win))

/-- What reads of the concourse meet is entered in the memories alone (R198). -/
theorem conErrs_keeps (hf : ∀ s m, f { s with mtc := m } = f s) (t : Nat) (ce ue : List Nat) (s : State) :
    f (conErrs t ce ue s) = f s :=
  (foldl_keeps f _ ce _ fun s _ => hf s _).trans (hf s _)

/-- A write to a partition enters the memories and the moves of arrays that it crosses (R116). -/
theorem partWrite_keeps (hf : ∀ s m a, f { s with mtc := m, ary := a } = f s) (p : Part) (x : Nat) (l : List MByte) (s : State) :
    f (partWrite p x l s) = f s :=
  foldl_keeps f _ _ s fun s _ => hf s _ _

theorem writeLeg_keeps (hf : ∀ s m a, f { s with mtc := m, ary := a } = f s) (g : Leg) (s : State) : f (writeLeg g s) = f s := by
  refine foldl_keeps f _ _ s fun s r => ?_
  dsimp only
  split
  · rw [partWrite_keeps f hf, partWrite_keeps f hf]
  · rw [partWrite_keeps f hf]

end

@[simp] theorem record_pipe (c : BitVec 16) (t : Option Nat) (unit arg addr : Nat) (s : State) :
    (record c t unit arg addr s).pipe = s.pipe := record_keeps State.pipe (fun _ _ _ _ _ _ _ => rfl) ..
@[simp] theorem record_ten (c : BitVec 16) (t : Option Nat) (unit arg addr : Nat) (s : State) :
    (record c t unit arg addr s).ten = s.ten := record_keeps State.ten (fun _ _ _ _ _ _ _ => rfl) ..
@[simp] theorem record_disp (c : BitVec 16) (t : Option Nat) (unit arg addr : Nat) (s : State) :
    (record c t unit arg addr s).disp = s.disp := record_keeps State.disp (fun _ _ _ _ _ _ _ => rfl) ..

@[simp] theorem conErrs_pipe (t : Nat) (ce ue : List Nat) (s : State) : (conErrs t ce ue s).pipe = s.pipe :=
  conErrs_keeps State.pipe (fun _ _ => rfl) ..
@[simp] theorem conErrs_ten (t : Nat) (ce ue : List Nat) (s : State) : (conErrs t ce ue s).ten = s.ten :=
  conErrs_keeps State.ten (fun _ _ => rfl) ..
@[simp] theorem conErrs_disp (t : Nat) (ce ue : List Nat) (s : State) : (conErrs t ce ue s).disp = s.disp :=
  conErrs_keeps State.disp (fun _ _ => rfl) ..
@[simp] theorem conErrs_kv (t : Nat) (ce ue : List Nat) (s : State) : (conErrs t ce ue s).kv = s.kv :=
  conErrs_keeps State.kv (fun _ _ => rfl) ..
@[simp] theorem conErrs_tenantPart (t : Nat) (ce ue : List Nat) (s : State) (t' : Nat) :
    (conErrs t ce ue s).tenantPart t' = s.tenantPart t' := conErrs_keeps (fun s => s.tenantPart t') (fun _ _ => rfl) ..

theorem State.pipeline_congr {s u : State} (h : u.pipe = s.pipe) (p : Nat) : u.pipeline p = s.pipeline p := by
  simp [State.pipeline, h]

theorem State.claimed_congr {s u : State} (h : u.ten = s.ten) (kind item : Nat) : u.claimed kind item = s.claimed kind item := by
  simp [State.claimed, h]

/-! ## Reading model memory leaves the pipelines alone -/

@[simp] theorem tagResult_pipe (t addr : Nat) (r : PageRead) (s : State) : (tagResult t addr r s).pipe = s.pipe := by
  unfold tagResult
  split
  · rfl
  · exact record_pipe ..

@[simp] theorem modelRead_pipe (t addr n : Nat) (s : State) : (modelRead t addr n s).2.pipe = s.pipe := by
  unfold modelRead
  rw [foldl_keeps (fun x : List MByte × State => x.2.pipe)]
  intro x b
  dsimp only
  split
  · rfl
  · split
    · exact tagResult_pipe ..
    · rfl

@[simp] theorem addHeat_pipe (t addr n : Nat) (s : State) : (addHeat t addr n s).pipe = s.pipe :=
  foldl_keeps State.pipe _ _ s fun _ _ => rfl

@[simp] theorem readSlice_pipe (t base : Nat) (h : KvHdr) (form n slice o : Nat) (s : State) :
    (readSlice t base h form n slice o s).2.2.pipe = s.pipe := by
  simp only [readSlice, addHeat_pipe]
  split <;> simp

@[simp] theorem listKey_pipe (t : Nat) (d : PassDesc) (v : KvSeq) (w : Walk) (h : KvHdr) (es : List KvEntry) (j : Nat) (s : State) :
    (listKey t d v w h es j s).2.pipe = s.pipe := by
  unfold listKey
  split
  · rfl
  · simp

/-- The reads of a block leave every pipeline as it was. -/
@[simp] theorem blockKeys_pipe (g : Leg) (b : Nat) (s : State) : (blockKeys g b s).2.pipe = s.pipe := by
  unfold blockKeys
  extract_lets d t part js
  split
  · rfl
  · split
    · rfl
    · split
      · rfl
      · exact foldl_keeps (fun x : List KvVec × State => x.2.pipe) _ _ ([], s) fun _ _ => listKey_pipe ..

/-! ## What a quiesce under way loses (R141) -/

@[simp] theorem loseShared_pipe (j : RebindJob) (s : State) : (loseShared j s).pipe = s.pipe := by
  unfold loseShared; split <;> rfl
@[simp] theorem loseShared_mtc (j : RebindJob) (s : State) : (loseShared j s).mtc = s.mtc := by
  unfold loseShared; split <;> rfl
@[simp] theorem settleLost_pipe (s : State) : (settleLost s).pipe = s.pipe :=
  foldl_keeps State.pipe _ _ s fun _ _ => loseShared_pipe ..
@[simp] theorem settleLost_mtc (s : State) : (settleLost s).mtc = s.mtc :=
  foldl_keeps State.mtc _ _ s fun _ _ => loseShared_mtc ..

/-- What holds of a DISPATCH and goes on holding when it faults once more, holds of one after the losses are settled. -/
theorem exists_disp_settleLost {P : Dispatch → Prop} (hP : ∀ d code unit, P d → P (d.faulted code unit)) {s : State}
    (h : ∃ d ∈ s.disp, P d) : ∃ d ∈ (settleLost s).disp, P d := by
  refine foldl_holds (fun u : State => ∃ d ∈ u.disp, P d) _ _ s (fun u j ⟨d, hd, hPd⟩ => ?_) h
  dsimp only [loseShared]
  split
  · refine ⟨_, List.mem_map_of_mem hd, ?_⟩
    split
    · exact hP _ _ _ hPd
    · exact hPd
  · exact ⟨d, hd, hPd⟩

/-- An accepted job on an array or a pipeline takes nothing that a DISPATCH shares. -/
theorem loseShared_of_kind {j : RebindJob} (h : j.accepted = true → j.kind = 0 ∨ j.kind = 2) (s : State) : loseShared j s = s := by
  unfold loseShared
  refine if_neg fun hc => ?_
  simp only [Bool.and_eq_true, Bool.or_eq_true, beq_iff_eq] at hc
  have := h hc.1.1
  omega

theorem settleLost_of_kinds {s : State}
    (h : ∀ e ∈ s.ten, ∀ j, e.2.rebind = some j → j.accepted = true → j.kind = 0 ∨ j.kind = 2) : settleLost s = s := by
  refine List.foldlRecOn (motive := fun u => u = s) _ _ rfl fun u hu j hj => ?_
  obtain ⟨e, he, hej⟩ := List.mem_filterMap.mp hj
  rw [loseShared_of_kind (h e he j hej), hu]

/-- A pipeline that no job takes is not scrubbed when it comes to rest. -/
theorem takeQuietPipe_of_unclaimed {p : Nat} {s : State} (h : s.claimed 2 p = false) : takeQuietPipe p s = settleLost s := by
  simp [takeQuietPipe, h]

theorem State.pipeClaimed_eq_claimed (s : State) (p : Nat) : s.pipeClaimed p = s.claimed 2 p := by
  unfold State.pipeClaimed State.claimed
  congr 1
  funext e
  cases e.2.rebind <;> rfl

theorem State.claimed_of_pipeFree {s : State} {p : Nat} (h : s.pipeFree p = true) : s.claimed 2 p = false := by
  simp only [State.pipeFree, State.pipeClaimed_eq_claimed, Bool.and_eq_true, Bool.not_eq_true'] at h
  exact h.2

/-! ## The start of a leg (R16, R163, R164) -/

/-- The leg has left the list, its tenant has had its turn, its DISPATCH has started. -/
def takeLeg (p : Nat) (r : LegReq) (s : State) : State :=
  startDispatch r.disp ({ s with kv := { s.kv with legs := s.kv.legs.erase r } }.modPipe p (fun x => x.served r.cls r.tenant))

@[simp] theorem takeLeg_ten (p : Nat) (r : LegReq) (s : State) : (takeLeg p r s).ten = s.ten := rfl
@[simp] theorem takeLeg_mtc (p : Nat) (r : LegReq) (s : State) : (takeLeg p r s).mtc = s.mtc := rfl
@[simp] theorem takeLeg_legs (p : Nat) (r : LegReq) (s : State) : (takeLeg p r s).kv.legs = s.kv.legs.erase r := rfl

/-- The start of a DISPATCH changes neither its number, nor its legs, nor its fault. -/
theorem exists_disp_takeLeg (p : Nat) (r : LegReq) {s : State} {y : Dispatch} (hy : y ∈ s.disp) :
    ∃ z ∈ (takeLeg p r s).disp, z.id = y.id ∧ z.legsLeft = y.legsLeft ∧ z.fault = y.fault := by
  refine ⟨_, List.mem_map_of_mem hy, ?_⟩
  dsimp only
  split
  · split <;> exact ⟨rfl, rfl, rfl⟩
  · exact ⟨rfl, rfl, rfl⟩

theorem startLeg_of_badShape {r : LegReq} (p : Nat) (s : State) (h : (passDesc r.pd).badShape = true) :
    startLeg p r s = faultLeg p r Code.attShape (takeLeg p r s) := by
  simp only [startLeg, h, if_true, takeLeg]

theorem startLeg_of_packed {r : LegReq} (p : Nat) {s : State} (hshape : (passDesc r.pd).badShape = false)
    (hcode : (passDesc r.pd).badCode = false)
    (hrange : (passDesc r.pd).ranges.all (fun x => (s.tenantPart r.tenant).allows false x.1 x.2) = true)
    (hpacked : (passDesc r.pd).packed = true) :
    startLeg p r s = beginLeg p r none (passDesc r.pd).kend
      (fun j => tokenWord ((s.partRead (s.tenantPart r.tenant) ((passDesc r.pd).tokOff + 8 * j) 8).map (·.1))) (takeLeg p r s) := by
  simp [startLeg, hshape, hcode, hrange, hpacked, takeLeg]

/-- A free pipeline starts the first leg that may start of the tenant whose turn it is. -/
theorem exec_attentionLegStart {p : Pipe} {t : Nat} {r : LegReq} {s : State} (ce ue : List Nat) (hfree : s.pipeFree p = true)
    (hturn : s.pipeTurn p = some t) (hleg : s.firstLeg p (fun r => r.tenant == t) [] s.kv.legs = some r) :
    exec (.attentionLegStart p ce ue) s = .next (startLeg p r (conErrs t ce ue s)) := by
  simp [exec, execAttentionLegStart, hfree, hturn, hleg]

/-! ## A leg that begins -/

@[simp] theorem beginLeg_mtc (p : Nat) (r : LegReq) (walk : Option Nat) (kend : Nat) (place : Nat → Nat × Nat) (s : State) :
    (beginLeg p r walk kend place s).mtc = s.mtc := rfl
@[simp] theorem beginLeg_kv (p : Nat) (r : LegReq) (walk : Option Nat) (kend : Nat) (place : Nat → Nat × Nat) (s : State) :
    (beginLeg p r walk kend place s).kv = s.kv := rfl
@[simp] theorem beginLeg_st (p : Nat) (r : LegReq) (walk : Option Nat) (kend : Nat) (place : Nat → Nat × Nat) (s : State) :
    ((beginLeg p r walk kend place s).pipeline p).st = .pass := by simp [beginLeg]
@[simp] theorem beginLeg_tenant (p : Nat) (r : LegReq) (walk : Option Nat) (kend : Nat) (place : Nat → Nat × Nat) (s : State) :
    ((beginLeg p r walk kend place s).pipeline p).tenant = BitVec.ofNat 5 r.tenant := by simp [beginLeg]

/-- The leg on the pipeline is the one asked for, with a row for each of its descriptor, and at a first leg the rows are empty (R168,
R171). -/
theorem beginLeg_leg (p : Nat) (r : LegReq) (walk : Option Nat) (kend : Nat) (place : Nat → Nat × Nat) (s : State) :
    ∃ g, ((beginLeg p r walk kend place s).pipeline p).leg = some g ∧ g.req = r ∧ g.rows.length = (passDesc r.pd).rows ∧
      g.blocks = legBlocks (passDesc r.pd) kend g.places place ∧
      ((passDesc r.pd).first = true → ∀ x ∈ g.rows, x.m = f32NegInf ∧ x.l = 0 ∧ x.bad = false) := by
  simp only [beginLeg, State.pipeline_modPipe, if_true]
  refine ⟨_, rfl, rfl, by simp, rfl, fun hfirst x hx => ?_⟩
  obtain ⟨i, -, rfl⟩ := List.mem_map.mp hx
  simp [hfirst, RowState.empty]

/-! ## A leg that faults (R131, R163) -/

theorem endWalks_pipeline (mine : Walk → Bool) (s : State) (p : Nat) : (endWalks mine s).pipeline p = s.pipeline p := rfl

/-- Where no job takes the pipeline, a leg's fault is entered on the pipeline and in the DISPATCH, and then the losses of other jobs are
settled. -/
theorem faultLeg_of_unclaimed {p : Nat} {s : State} (r : LegReq) (code : BitVec 16) (h : s.claimed 2 p = false) :
    ∃ u, faultLeg p r code s = settleLost u ∧ u.pipeline p = (s.pipeline p).rest.noteFault r.tenant code ∧ u.mtc = s.mtc ∧
      u.disp = updDispatch r.disp (fun d =>
        { d.faulted code (BitVec.ofNat 64 (unitPipe p)) with legsLeft := d.legsLeft - 1 }) s.disp :=
  ⟨_, takeQuietPipe_of_unclaimed ((State.claimed_congr (record_ten ..) ..).trans h),
    by rw [State.pipeline_congr (record_pipe ..), endWalks_pipeline, State.modDispatch_pipeline, State.pipeline_modPipe, if_pos rfl],
    record_mtc .., record_disp ..⟩

/-- A leg's fault leaves its pipeline at rest, where no job takes the pipeline. -/
theorem faultLeg_pipeline {p : Nat} {s : State} (r : LegReq) (code : BitVec 16) (h : s.claimed 2 p = false) :
    (faultLeg p r code s).pipeline p = (s.pipeline p).rest.noteFault r.tenant code := by
  obtain ⟨u, hu, hpipe, -, -⟩ := faultLeg_of_unclaimed r code h
  rw [hu, State.pipeline_congr (settleLost_pipe u), hpipe]

theorem PipeSt.noteFault_st (t : Nat) (code : BitVec 16) (x : PipeSt) : (x.noteFault t code).st = x.st := by
  unfold PipeSt.noteFault; split <;> rfl
theorem PipeSt.noteFault_leg (t : Nat) (code : BitVec 16) (x : PipeSt) : (x.noteFault t code).leg = x.leg := by
  unfold PipeSt.noteFault; split <;> rfl

theorem faultLeg_mtc {p : Nat} {s : State} (r : LegReq) (code : BitVec 16) (h : s.claimed 2 p = false) :
    (faultLeg p r code s).mtc = s.mtc := by
  obtain ⟨u, hu, -, hmtc, -⟩ := faultLeg_of_unclaimed r code h
  rw [hu, settleLost_mtc, hmtc]

/-- A leg's fault is the first of its DISPATCH, which is discarded and has one leg fewer. -/
theorem exists_disp_faultLeg {p : Nat} {s : State} {r : LegReq} {code : BitVec 16} (h : s.claimed 2 p = false)
    (hcode : code ≠ Code.uePoison) {y : Dispatch} (hy : y ∈ s.disp) (hid : y.id = r.disp) (hfault : y.fault = none) :
    ∃ z ∈ (faultLeg p r code s).disp, z.id = y.id ∧ z.legsLeft = y.legsLeft - 1 ∧
      z.fault = some (code, BitVec.ofNat 64 (unitPipe p)) ∧ z.discard = true := by
  obtain ⟨u, hu, -, -, hdisp⟩ := faultLeg_of_unclaimed r code h
  rw [hu]
  apply exists_disp_settleLost
  · rintro d code' unit ⟨hi, hl, hf, hd⟩
    simp [Dispatch.faulted, hi, hl, hf, hd]
  · rw [hdisp]
    refine ⟨_, List.mem_map_of_mem hy, ?_⟩
    simp [hid, Dispatch.faulted, hfault, hcode]

/-! ## A block that arrives (R168, R171, R190) -/

theorem exec_kvBlockArrival {p : Pipe} {g : Leg} {b : Nat} {rest : List Nat} {s : State} (stalled : Nat) (ce ue : List Nat)
    (hleg : (s.pipeline p).leg = some g) (hblocks : g.blocks = b :: rest) :
    exec (.kvBlockArrival p stalled ce ue) s =
      .next ((blockKeys g b (conErrs g.req.tenant ce ue s)).2.modPipe p (fun x => { x with
        st := if rest = [] then .pass else .stall
        leg := some (g.take (passDesc g.req.pd) (blockKeys g b (conErrs g.req.tenant ce ue s)).1)
        blocks := x.blocks + 1, late := satAdd x.late stalled })) := by
  simp [exec, execKvBlockArrival, hleg, hblocks]

@[simp] theorem Leg.take_req (d : PassDesc) (keys : List KvVec) (g : Leg) : (g.take d keys).req = g.req := rfl
@[simp] theorem Leg.take_blocks (d : PassDesc) (keys : List KvVec) (g : Leg) : (g.take d keys).blocks = g.blocks.drop 1 := rfl
@[simp] theorem Leg.take_rows_length (d : PassDesc) (keys : List KvVec) (g : Leg) :
    (g.take d keys).rows.length = g.rows.length := by simp [Leg.take]

/-- A block's keys come into each row by what the row's query token sees (R167, R171). -/
theorem Leg.take_rows_getElem? (d : PassDesc) (keys : List KvVec) (g : Leg) (i : Nat) :
    let seen := (keys.map (KvVec.entered d g.freqs)).filter (fun k => d.sees (g.places.getD (i / d.group) (0, 0)) k.place)
    (g.take d keys).rows[i]? =
      g.rows[i]?.map (fun x => if seen.isEmpty then x else x.block d.scale (g.queries.getD i []) seen) := by
  simp [Leg.take, List.getElem?_zipIdx, Function.comp_def]

/-! ## The end of a leg (R165, R172, R173) -/

/-- The end of a leg without poison: its rows written, its pipeline at rest with one pass more, its DISPATCH with one leg fewer; `k` holds
the page lists, where the walk of a last leg is over. -/
def legEnded (p : Nat) (g : Leg) (k : Kv) (s : State) : State :=
  { ((writeLeg g s).modPipe p (fun x => { x.rest with passes := satAdd x.passes 1 })).modDispatch g.req.disp
      (fun x => { x with legsLeft := x.legsLeft - 1 }) with kv := k }

theorem exec_attentionLegEnd {p : Pipe} {g : Leg} {s : State} (hleg : (s.pipeline p).leg = some g) (hblocks : g.blocks = [])
    (hclean : ∀ x ∈ g.rows, x.poison = false) :
    ∃ k, exec (.attentionLegEnd p) s = .next (takeQuietPipe p (legEnded p g k s)) := by
  have hdark : g.rows.any (·.poison) = false := by simpa using hclean
  simp only [exec, execAttentionLegEnd, hleg, hblocks, hdark, Bool.and_false, List.isEmpty_nil, Bool.not_true, if_false,
    Bool.false_eq_true]
  split
  · exact ⟨_, rfl⟩
  · exact ⟨_, rfl⟩

theorem legEnded_ten (p : Nat) (g : Leg) (k : Kv) (s : State) : (legEnded p g k s).ten = s.ten :=
  writeLeg_keeps State.ten (fun _ _ _ => rfl) g s

theorem legEnded_disp (p : Nat) (g : Leg) (k : Kv) (s : State) : (legEnded p g k s).disp =
    s.disp.map (fun y => if y.id = g.req.disp then { y with legsLeft := y.legsLeft - 1 } else y) := by
  have hw : (writeLeg g s).disp = s.disp := writeLeg_keeps State.disp (fun _ _ _ => rfl) g s
  simp [legEnded, State.modDispatch, updDispatch, hw]

theorem legEnded_pipeline (p : Nat) (g : Leg) (k : Kv) (s : State) : (legEnded p g k s).pipeline p =
    { (s.pipeline p).rest with passes := satAdd (s.pipeline p).passes 1 } := by
  have hw : (writeLeg g s).pipeline p = s.pipeline p := writeLeg_keeps (fun s => s.pipeline p) (fun _ _ _ => rfl) g s
  calc (legEnded p g k s).pipeline p
      = ((writeLeg g s).modPipe p (fun x => { x.rest with passes := satAdd x.passes 1 })).pipeline p := rfl
    _ = { (s.pipeline p).rest with passes := satAdd (s.pipeline p).passes 1 } := by simp [hw]

/-! ## The statement -/

/-- Settles O31: each clause is the equation of its command's path above, read off the pipeline, the memories and the DISPATCHes. -/
theorem attentionLegs : Obligations.AttentionLegs := by
  unfold Obligations.AttentionLegs
  intro p t stalled b ce ue r g rest s d s0 part
  refine ⟨fun hfree hturn hleg hshape hcode hrange hpacked => ?_, fun hfree hturn hleg hshape => ?_, fun hleg hblocks => ?_,
    fun hleg hblocks hclean hclaim hkinds => ?_⟩
  · have hex := exec_attentionLegStart ce ue hfree hturn hleg
    rw [startLeg_of_packed p hshape hcode (by simpa using hrange) hpacked, conErrs_tenantPart] at hex
    obtain ⟨g, hg, hreq, hrows, hgblocks, hfirst⟩ := beginLeg_leg p r none d.kend
      (fun j => tokenWord ((s0.partRead part (d.tokOff + 8 * j) 8).map (·.1))) (takeLeg p r s0)
    exact ⟨_, g, hex, beginLeg_st .., by simp, hg, hreq, hrows, by simp, by simp [s0], hgblocks, hfirst⟩
  · have hclaim : (takeLeg p r s0).claimed 2 p = false :=
      (State.claimed_congr ((takeLeg_ten ..).trans (conErrs_ten ..)) _ _).trans (State.claimed_of_pipeFree hfree)
    have hpipe := faultLeg_pipeline r Code.attShape hclaim
    refine ⟨_, (exec_attentionLegStart ce ue hfree hturn hleg).trans (congrArg _ (startLeg_of_badShape p s0 hshape)), ?_, ?_,
      faultLeg_mtc r _ hclaim, fun y hy hid hfault => ?_⟩
    · rw [hpipe, PipeSt.noteFault_st]; rfl
    · rw [hpipe, PipeSt.noteFault_leg]; rfl
    · obtain ⟨z, hz, hzid, hzlegs, hzfault⟩ := exists_disp_takeLeg p r (s := s0) (y := y) (by simpa [s0] using hy)
      have := exists_disp_faultLeg (code := Code.attShape) hclaim (by decide) hz (hzid.trans hid) (hzfault.trans hfault)
      rwa [hzid, hzlegs] at this
  · have hpipe := State.pipeline_congr ((blockKeys_pipe g b _).trans (conErrs_pipe g.req.tenant ce ue s)) p
    refine ⟨_, _, exec_kvBlockArrival stalled ce ue hleg hblocks, ?_, Leg.take_req .., by simp [hblocks], ?_, ?_, ?_,
      Leg.take_rows_length .., fun i _ => Leg.take_rows_getElem? ..⟩ <;> simp [hpipe]
  · obtain ⟨k, hex⟩ := exec_attentionLegEnd hleg hblocks hclean
    have hten := legEnded_ten p g k s
    rw [takeQuietPipe_of_unclaimed ((State.claimed_congr hten _ _).trans hclaim),
      settleLost_of_kinds (by simpa [hten] using hkinds)] at hex
    have hpipe := legEnded_pipeline p g k s
    exact ⟨_, hex, congrArg PipeSt.leg hpipe, congrArg PipeSt.st hpipe, congrArg PipeSt.passes hpipe, rfl, legEnded_disp ..⟩

end Sys2Proof.Machine
end

section
/-! PROOFS, O6. A DRAIN in the drain unit (R77, R109): when its slot is carried out, which stop condition comes first, and the array that
the drain has entered. -/

namespace Sys2Proof.Machine

/-- A slot that waits gives its operation's bundle to the command that carries the operation out. -/
theorem Arr.slotOp_of_waits {x : Arr} {k : Cur} {flag : Cur → Bool} {op : Nat → Nat} {code : Nat} (h : SlotWaits x k flag op code) :
    x.slotOp flag op code = some k.bundle.toNat := by
  obtain ⟨hcur, hflag, hop⟩ := h
  simp [Arr.slotOp, hcur, hflag, hop]

/-- The tiles of every GATE stage lie within the live accumulators (R109). -/
def DrainOp.GatesLive (d : DrainOp) (x : Arr) : Prop :=
  ∀ g ∈ d.body, g.op = 7 → bitsOf g.arg.toNat 2 0 < x.liveAcc.toNat

section
variable {x : Arr} {b : Nat} {d : DrainOp}

theorem drainStop_of_busy (hbusy : x.cyc < x.drainFree) : drainStop x b d = some Code.slotOverlap := by
  simp [drainStop, hbusy]

theorem drainStop_of_badChain (hfree : x.drainFree ≤ x.cyc) (hchain : x.chainOk.getLsbD (dChain b) = false) :
    drainStop x b d = some Code.chainInvalid := by
  simp [drainStop, Nat.not_lt.mpr hfree, hchain]

theorem any_gate_eq_false_iff :
    d.body.any (fun y => y.op == 7 && decide (x.liveAcc.toNat ≤ bitsOf y.arg.toNat 2 0)) = false ↔ d.GatesLive x := by
  simp [DrainOp.GatesLive]

theorem any_reach_eq_false_iff :
    d.reach.any (fun r => decide (sidEnd < r)) = false ↔ ∀ r ∈ d.reach, r ≤ 6 * 2 ^ 20 := by
  simp only [List.any_eq_false, decide_eq_true_eq, Nat.not_lt]
  rfl

variable (hfree : x.drainFree ≤ x.cyc) (hchain : x.chainOk.getLsbD (dChain b) = true)
include hfree hchain

theorem drainStop_of_deadGate (hgates : ¬ d.GatesLive x) : drainStop x b d = some Code.accOvercommit := by
  rw [← any_gate_eq_false_iff, Bool.not_eq_false] at hgates
  simp only [drainStop, Nat.not_lt.mpr hfree, hchain, hgates, if_true, if_false, Bool.not_true, Bool.false_eq_true]

variable (hgates : d.GatesLive x)
include hgates

theorem drainStop_of_farReach (hreach : ∃ r ∈ d.reach, 6 * 2 ^ 20 < r) : drainStop x b d = some Code.sidRange := by
  have hfar : d.reach.any (fun r => decide (sidEnd < r)) = true := by
    simp only [List.any_eq_true, decide_eq_true_eq]
    exact hreach
  simp only [drainStop, Nat.not_lt.mpr hfree, hchain, any_gate_eq_false_iff.mpr hgates, hfar, if_true, if_false, Bool.not_true,
    Bool.false_eq_true]

theorem drainStop_eq_none (hreach : ∀ r ∈ d.reach, r ≤ 6 * 2 ^ 20) : drainStop x b d = none := by
  simp only [drainStop, Nat.not_lt.mpr hfree, hchain, any_gate_eq_false_iff.mpr hgates, any_reach_eq_false_iff.mpr hreach, if_false,
    Bool.not_true, Bool.false_eq_true]

end

section
variable {a : Ary} {s : State} {k : Cur} (ce ue bp sue : List Nat) (hw : SlotWaits (s.arr a) k Cur.d dOp 1)
include hw

theorem exec_drain_of_stop {c : BitVec 16}
    (hstop : drainStop (s.arr a) k.bundle.toNat (makeDrain a s (s.arr a) k.bundle.toNat ue) = some c) :
    exec (.drain a ce ue bp sue) s = .next (stopAry a c s) := by
  simp only [exec, execDrain, Arr.slotOp_of_waits hw, hstop]

/-- A DRAIN that nothing stops enters the drain unit, and the holds it will meet are noted by their cycles (R69, R77). -/
theorem exec_drain_of_start (hstop : drainStop (s.arr a) k.bundle.toNat (makeDrain a s (s.arr a) k.bundle.toNat ue) = none) :
    exec (.drain a ce ue bp sue) s = .next (startDue a (s.setArr a
      { s.arr a with
        cur := some { k with d := false }
        drains := (s.arr a).drains ++ [makeDrain a s (s.arr a) k.bundle.toNat ue]
        drainFree := (s.arr a).cyc + 128
        sidPoison := markWords (s.arr a).sidPoison sue
        dueHolds := (s.arr a).dueHolds ++ (ce.filter (fun c => c < 128)).map (fun c => ⟨(s.arr a).cyc + c, .accCe, none⟩) ++
          (bp.filter (fun c => c < 128 + (makeDrain a s (s.arr a) k.bundle.toNat ue).delay)).map
            (fun c => ⟨(s.arr a).cyc + c, .portBp, none⟩) })) := by
  have hcur : (s.arr a).cur = some k := hw.1
  simp only [exec, execDrain, Arr.slotOp_of_waits hw, hstop, Arr.noteDue, Arr.startDrain, Arr.doneD, hcur, Option.map_some,
    List.filter_map, List.map_map, Function.comp_def]

end

/-- Settles O6: each clause is one outcome of `drainStop`, in the order of R109. -/
theorem drainTakesTheDrainUnit : Obligations.DrainTakesTheDrainUnit := by
  unfold Obligations.DrainTakesTheDrainUnit
  intro a s k ce ue bp sue x b d gates hw
  refine ⟨fun hbusy => ?_, fun hfree hchain => ?_, fun hfree hchain hgates => ?_, fun hfree hchain hgates hreach => ?_,
    fun hfree hchain hgates hreach => ?_⟩
  · exact exec_drain_of_stop ce ue bp sue hw (drainStop_of_busy hbusy)
  · exact exec_drain_of_stop ce ue bp sue hw (drainStop_of_badChain hfree hchain)
  · exact exec_drain_of_stop ce ue bp sue hw (drainStop_of_deadGate hfree hchain hgates)
  · exact exec_drain_of_stop ce ue bp sue hw (drainStop_of_farReach hfree hchain hgates hreach)
  · exact exec_drain_of_start ce ue bp sue hw (drainStop_eq_none hfree hchain hgates hreach)

end Sys2Proof.Machine
end

section
/-! PROOFS, plan instructions (R122 to R128, R136, R137). What presenting, issuing, completing and failing an instruction do to its tenant:
the rules that the statements about single plan instructions rest on. -/

namespace Sys2Proof.Machine

/-- A change of a tenant's context that leaves its queues alone. -/
theorem State.queue_modTenant_of {s : State} {t : Nat} {f : Tenant → Tenant} (h : (f (s.tenant t)).queues = (s.tenant t).queues)
    (r : Nat) : (s.modTenant t f).queue t r = s.queue t r := by
  rw [State.queue, State.tenant_modTenant, if_pos rfl, Tenant.queue, h]
  rfl

/-! ## The issued instructions of a queue -/

theorem mem_insertIssued {head : Reg32} {e x : Issued} {l : List Issued} : x ∈ insertIssued head e l ↔ x = e ∨ x ∈ l := by
  induction l with
  | nil => simp [insertIssued]
  | cons y r ih =>
    unfold insertIssued
    split
    · simp
    · simp only [List.mem_cons, ih]
      exact or_left_comm

/-- What is incomplete, or writes a record, stays among the issued (R126). -/
theorem mem_trimIssued {e : Issued} {l : List Issued} (h : e ∈ l) (hkeep : e.status = none ∨ e.records = true) :
    e ∈ trimIssued l := by
  induction l with
  | nil => exact h
  | cons x r ih =>
    unfold trimIssued at ih ⊢
    rw [List.dropWhile_cons]
    split
    · next hx =>
      rcases List.mem_cons.mp h with rfl | h
      · rcases hkeep with hk | hk <;> simp [hk] at hx
      · exact ih h
    · exact h

theorem Issued.records_of_cpl {e : Issued} (h : e.cpl = true) : e.records = true := by simp [Issued.records, h]

/-- An issued instruction after the one at an index has completed with a status. -/
def Issued.closeAt (idx : Reg32) (status : BitVec 16) (value detail : BitVec 64) (e : Issued) : Issued :=
  if e.idx = idx ∧ e.status = none then { e with status := some status, value := value, detail := detail } else e

@[simp] theorem Issued.closeAt_cpl (idx : Reg32) (status : BitVec 16) (value detail : BitVec 64) (e : Issued) :
    (e.closeAt idx status value detail).cpl = e.cpl := by unfold Issued.closeAt; split <;> rfl

/-! ## A queue whose instruction issues -/

section
variable (p : Presented) (status : Option (BitVec 16)) (value : BitVec 64) (y : Queue)

@[simp] theorem Queue.issue_enable : (y.issue p status value).enable = y.enable := rfl

/-- DBL_HEAD passes the instruction that lies at it (R124). -/
theorem Queue.issue_head (h : p.idx = y.head) : (y.issue p status value).head = y.head + BitVec.ofNat 32 p.slots := if_pos h

theorem Queue.mem_issue_open : p.entry none value 0 ∈ (y.issue p none value).issued :=
  mem_trimIssued (mem_insertIssued.mpr (.inl rfl)) (.inl rfl)

end

/-! ## Queues of a tenant that stops or that are being disabled (R128, R132, R137) -/

/-- No batch of a queue references a copy. -/
def Queue.Frees (c : Fin 4) (y : Queue) : Prop := ∀ b ∈ y.batch.toList ++ y.closing, b.copy ≠ some c

theorem Tenant.refs_eq_zero_iff {y : Tenant} {c : Fin 4} : y.refs c = 0 ↔ ∀ r < 8, (y.queue r).Frees c := by
  simp [Tenant.refs, Queue.Frees, List.sum_eq_zero_iff, or_imp, forall_and]

/-- The references to a copy are the queues' batches' alone. -/
theorem Tenant.refs_congr {y z : Tenant} (h : ∀ r, (z.queue r).batch = (y.queue r).batch ∧ (z.queue r).closing = (y.queue r).closing)
    (c : Fin 4) : z.refs c = y.refs c := by simp only [Tenant.refs, (h _).1, (h _).2]

theorem Queue.Frees.closeBatch {c : Fin 4} {y : Queue} (h : y.Frees c) : y.closeBatch.Frees c := by
  unfold Queue.closeBatch
  split
  · exact h
  · next b hb =>
    simp only [Queue.Frees, hb, Option.toList_some, List.singleton_append, List.forall_mem_cons] at h
    obtain ⟨hopen, hclosing⟩ := h
    intro x hx
    simp only [Option.toList_none, List.nil_append] at hx
    split at hx
    · exact hclosing x hx
    · rcases List.mem_append.mp hx with hx | hx
      · exact hclosing x hx
      · rw [List.mem_singleton.mp hx]
        exact hopen

/-- What a queue keeps while instructions of its tenant complete: its head, whether it is enabled, that nothing waits, and that no batch
references a copy. -/
structure Queue.Kept (y z : Queue) : Prop where
  head : z.head = y.head
  enable : z.enable = y.enable
  waiting : y.waiting = none → z.waiting = none
  frees : ∀ c, y.Frees c → z.Frees c

theorem Queue.Kept.refl (y : Queue) : y.Kept y := ⟨rfl, rfl, id, fun _ => id⟩

theorem Queue.Kept.trans {x y z : Queue} (h : x.Kept y) (h' : y.Kept z) : x.Kept z :=
  ⟨h'.head.trans h.head, h'.enable.trans h.enable, h'.waiting ∘ h.waiting, fun c => h'.frees c ∘ h.frees c⟩

theorem Tenant.kept_setQueue {y : Tenant} {q : Nat} {v : Queue} (h : (y.queue q).Kept v) (r : Nat) :
    (y.queue r).Kept ((y.setQueue q v).queue r) := by
  rw [Tenant.queue_setQueue]
  split
  · next hrq => exact hrq ▸ h
  · exact .refl _

/-- A queue that `settleStop` leaves drained. -/
def Queue.drained (v : Queue) : Queue :=
  { v.closeBatch with st := .disabled, fcode := 0, waiting := none, retry := none, stuck := none }

@[simp] theorem Queue.closeBatch_head (y : Queue) : y.closeBatch.head = y.head := by unfold Queue.closeBatch; split <;> rfl

@[simp] theorem Queue.closeBatch_enable (y : Queue) : y.closeBatch.enable = y.enable := by unfold Queue.closeBatch; split <;> rfl

theorem Queue.kept_drained (v : Queue) : v.Kept v.drained :=
  ⟨Queue.closeBatch_head v, Queue.closeBatch_enable v, fun _ => rfl, fun _ h => Queue.Frees.closeBatch h⟩

/-- The contexts differ in their queues and their state alone. -/
def Tenant.OnlyQueues (y z : Tenant) : Prop := z = { y with queues := z.queues, st := z.st }

theorem Tenant.OnlyQueues.trans {x y z : Tenant} (h : x.OnlyQueues y) (h' : y.OnlyQueues z) : x.OnlyQueues z := by
  unfold Tenant.OnlyQueues at h h' ⊢
  rw [h', h]

theorem Tenant.OnlyQueues.copy {y z : Tenant} (h : y.OnlyQueues z) (c : Nat) : z.copy c = y.copy c := by
  unfold Tenant.OnlyQueues at h
  rw [h]
  rfl

theorem Tenant.OnlyQueues.scale {y z : Tenant} (h : y.OnlyQueues z) (i : Nat) : z.scale i = y.scale i := by
  unfold Tenant.OnlyQueues at h
  rw [h]
  rfl

section
variable {y z : Tenant} (h : y.OnlyQueues z)
include h

theorem Tenant.OnlyQueues.points : z.points = y.points := by unfold Tenant.OnlyQueues at h; rw [h]
theorem Tenant.OnlyQueues.res : z.res = y.res := by unfold Tenant.OnlyQueues at h; rw [h]
theorem Tenant.OnlyQueues.seedShadow : z.seedShadow = y.seedShadow := by unfold Tenant.OnlyQueues at h; rw [h]
theorem Tenant.OnlyQueues.cfgWrBusy : z.cfgWrBusy = y.cfgWrBusy := by unfold Tenant.OnlyQueues at h; rw [h]

end

theorem Tenant.onlyQueues_setQueue (y : Tenant) (q : Nat) (v : Queue) : y.OnlyQueues (y.setQueue q v) := rfl

/-- The contexts differ in their queues and their state alone, each queue keeps what completions keep, and an enabled queue is the
same. -/
structure Tenant.StopSettled (y z : Tenant) : Prop where
  only : y.OnlyQueues z
  kept : ∀ r, (y.queue r).Kept (z.queue r)
  enabled : ∀ r, (y.queue r).enable = true → z.queue r = y.queue r

theorem Tenant.StopSettled.refl (y : Tenant) : y.StopSettled y := ⟨rfl, fun _ => .refl _, fun _ _ => rfl⟩

theorem Tenant.StopSettled.drain {y z : Tenant} (h : y.StopSettled z) (q : Nat) (hq : (z.queue q).enable = false) :
    y.StopSettled (z.setQueue q (z.queue q).drained) := by
  refine ⟨?_, fun r => ?_, fun r hr => ?_⟩
  · exact h.only.trans rfl
  · rw [Tenant.queue_setQueue]
    split
    · next hrq => exact (h.kept r).trans (hrq ▸ Queue.kept_drained _)
    · exact h.kept r
  · have hz := h.enabled r hr
    have hne : r ≠ q := fun hrq => by
      rw [hrq] at hz hr
      rw [hz, hr] at hq
      cases hq
    rw [Tenant.queue_setQueue, if_neg hne, hz]

theorem Tenant.stopSettled_settleStop (y : Tenant) : y.StopSettled y.settleStop := by
  unfold Tenant.settleStop
  extract_lets drained
  have h : y.StopSettled drained := by
    unfold drained
    refine foldl_holds (fun z => y.StopSettled z) _ _ y (fun z q hz => ?_) (.refl y)
    dsimp only
    split
    · next hc =>
      simp only [Bool.and_eq_true, Bool.not_eq_true'] at hc
      obtain ⟨⟨-, hdisabled⟩, -⟩ := hc
      exact hz.drain q hdisabled
    · exact hz
  clear_value drained
  split
  · exact ⟨h.only.trans rfl, h.kept, h.enabled⟩
  · exact h

/-! ## Completion with success (R126, R135) -/

/-- A context in which instructions have completed: nothing else of the machine differs but the tenant, whose queues keep what
completions keep. -/
structure Progressed (t : Nat) (s u : State) : Prop where
  rest : u = { s with ten := u.ten }
  others : ∀ r, r ≠ t → u.tenant r = s.tenant r
  kept : ∀ r, (s.queue t r).Kept (u.queue t r)

theorem Progressed.refl (t : Nat) (s : State) : Progressed t s s := ⟨rfl, fun _ _ => rfl, fun _ => .refl _⟩

theorem Progressed.trans {t : Nat} {s u v : State} (h : Progressed t s u) (h' : Progressed t u v) : Progressed t s v :=
  ⟨by rw [h'.rest, h.rest], fun r hr => (h'.others r hr).trans (h.others r hr), fun r => (h.kept r).trans (h'.kept r)⟩

theorem State.modTenant_setQueue_rest (t q : Nat) (v : Queue) (f : Tenant → Tenant) (s : State) :
    (s.setQueue t q v).modTenant t f = { s with ten := ((s.setQueue t q v).modTenant t f).ten } := rfl

/-- A queue is replaced, and then its tenant's stop is settled: what comes of it, said without the fold over the queues. -/
theorem exists_stopSettled (t q : Nat) (v : Queue) (s : State) :
    ∃ u, (s.setQueue t q v).modTenant t Tenant.settleStop = u ∧ u = { s with ten := u.ten } ∧
      (∀ r, r ≠ t → u.tenant r = s.tenant r) ∧ ((s.tenant t).setQueue q v).StopSettled (u.tenant t) := by
  refine ⟨_, rfl, State.modTenant_setQueue_rest .., fun r hr => ?_, ?_⟩
  · rw [State.tenant_modTenant, if_neg hr, State.setQueue, State.tenant_modTenant, if_neg hr]
  · rw [State.tenant_modTenant, if_pos rfl, State.setQueue, State.tenant_modTenant, if_pos rfl]
    exact Tenant.stopSettled_settleStop _

theorem Progressed.refs_eq_zero {t : Nat} {s u : State} (h : Progressed t s u) {c : Fin 4} (hrefs : (s.tenant t).refs c = 0) :
    (u.tenant t).refs c = 0 :=
  Tenant.refs_eq_zero_iff.mpr fun r hr => (h.kept r).frees c (Tenant.refs_eq_zero_iff.mp hrefs r hr)

/-- A status that is no fault: success, or CFG_WR_BUSY (R138). -/
def Harmless (status : BitVec 16) : Prop := status = 0 ∨ status = Code.cfgWrBusy

/-- A queue in which the instruction at an index, of an opcode, completes with a harmless status. -/
def Queue.finished (idx : Reg32) (opcode : BitVec 8) (status : BitVec 16) (value detail : BitVec 64) (y : Queue) : Queue :=
  let y1 := { y with issued := trimIssued (y.issued.map (Issued.closeAt idx status value detail)) }
  if opcode = 0x07 ∧ y1.st != .disabled ∧ y1.st != .faulted then
    { y1 with st := .halted, stuck := some ⟨idx, 0, true⟩, waiting := none }
  else y1

section
variable (idx : Reg32) (opcode : BitVec 8) (status : BitVec 16) (value detail : BitVec 64) (y : Queue)

@[simp] theorem Queue.finished_issued : (y.finished idx opcode status value detail).issued =
    trimIssued (y.issued.map (Issued.closeAt idx status value detail)) := by
  unfold Queue.finished; dsimp only; split <;> rfl

theorem Queue.kept_finished : y.Kept (y.finished idx opcode status value detail) := by
  unfold Queue.finished
  dsimp only
  split
  · exact ⟨rfl, rfl, fun _ => rfl, fun _ => id⟩
  · exact ⟨rfl, rfl, id, fun _ => id⟩

end

section
variable {t q : Nat} {idx : Reg32} {status : BitVec 16} {value : BitVec 64} {addr unit : Nat} {log : Bool} {s : State}

theorem finish_of_absent (h : (s.queue t q).issued.find? (fun e => e.idx == idx && e.status.isNone) = none) :
    finish t q idx status value addr unit log s = s := by simp only [finish, h]

variable (hs : Harmless status)
include hs

theorem finish_of_open {e : Issued} (h : (s.queue t q).issued.find? (fun e => e.idx == idx && e.status.isNone) = some e) :
    finish t q idx status value addr unit log s = (s.setQueue t q ((s.queue t q).finished idx e.opcode status value
      (if status = 0 then 0 else detailOf addr unit))).modTenant t Tenant.settleStop := by
  have hfaulty : (status != 0 && status != Code.cfgWrBusy) = false := by
    rcases hs with rfl | rfl <;> rfl
  simp only [finish, h, hfaulty, Bool.false_and, Bool.false_eq_true, if_false]
  rfl

theorem finish_only : (s.tenant t).OnlyQueues ((finish t q idx status value addr unit log s).tenant t) := by
  cases h : (s.queue t q).issued.find? (fun e => e.idx == idx && e.status.isNone) with
  | none => rw [finish_of_absent h]; rfl
  | some e =>
    rw [finish_of_open hs h]
    obtain ⟨u, hu, -, -, hstop⟩ := exists_stopSettled t q ((s.queue t q).finished idx e.opcode status value
      (if status = 0 then 0 else detailOf addr unit)) s
    rw [hu]
    exact (Tenant.onlyQueues_setQueue ..).trans hstop.only

theorem progressed_finish : Progressed t s (finish t q idx status value addr unit log s) := by
  cases h : (s.queue t q).issued.find? (fun e => e.idx == idx && e.status.isNone) with
  | none => rw [finish_of_absent h]; exact .refl t s
  | some e =>
    rw [finish_of_open hs h]
    obtain ⟨u, hu, hrest, hothers, hstop⟩ := exists_stopSettled t q ((s.queue t q).finished idx e.opcode status value
      (if status = 0 then 0 else detailOf addr unit)) s
    rw [hu]
    exact ⟨hrest, hothers, fun r => (Tenant.kept_setQueue (Queue.kept_finished ..) r).trans (hstop.kept r)⟩

/-- An issued instruction with CPL of an enabled queue stays among the issued while others complete, and is closed when it completes
(R126). -/
theorem mem_finish {r : Nat} {e : Issued} (he : e ∈ (s.queue t r).issued) (hcpl : e.cpl = true)
    (hen : (s.queue t r).enable = true) :
    (if r = q then e.closeAt idx status value (if status = 0 then 0 else detailOf addr unit) else e) ∈
      ((finish t q idx status value addr unit log s).queue t r).issued := by
  cases h : (s.queue t q).issued.find? (fun e => e.idx == idx && e.status.isNone) with
  | none =>
    rw [finish_of_absent h]
    split
    · next hrq =>
      have hopen := List.find?_eq_none.mp h e (hrq ▸ he)
      rw [Issued.closeAt, if_neg (by simpa using hopen)]
      exact he
    · exact he
  | some x =>
    rw [finish_of_open hs h]
    obtain ⟨u, hu, -, -, hstop⟩ := exists_stopSettled t q ((s.queue t q).finished idx x.opcode status value
      (if status = 0 then 0 else detailOf addr unit)) s
    have hkept := Tenant.kept_setQueue (y := s.tenant t) (Queue.kept_finished idx x.opcode status value
      (if status = 0 then 0 else detailOf addr unit) (s.queue t q)) r
    rw [hu, State.queue, hstop.enabled r (hkept.enable.trans hen), Tenant.queue_setQueue]
    split
    · next hrq =>
      rw [Queue.finished_issued]
      exact mem_trimIssued (List.mem_map_of_mem (hrq ▸ he)) (.inr (Issued.records_of_cpl (by simpa using hcpl)))
    · exact he

end

/-! ## What the rules leave alone -/

section
variable {t : Ten} {s u v : State}

theorem OnlyTenant.trans (h : OnlyTenant t s u) (h' : OnlyTenant t u v) : OnlyTenant t s v :=
  ⟨by rw [h'.1, h.1], fun r hr => (h'.2 r hr).trans (h.2 r hr)⟩

theorem Progressed.onlyTenant (h : Progressed t s u) : OnlyTenant t s u :=
  ⟨by rw [h.rest], fun r hr => h.others r (fun hrt => hr (Fin.ext hrt))⟩

theorem onlyTenant_modTenant (t : Ten) (f : Tenant → Tenant) (s : State) : OnlyTenant t s (s.modTenant t f) :=
  ⟨rfl, fun r hr => by rw [State.tenant_modTenant, if_neg (fun hrt => hr (Fin.ext hrt))]⟩

theorem onlyTenant_passTurn (t : Ten) (q : Nat) (s : State) : OnlyTenant t s (passTurn t q s) :=
  ⟨rfl, (onlyTenant_modTenant t (fun y => { y with turn := (q + 1) % 8 }) s).2⟩

theorem onlyTenant_issueOpen (t : Ten) (q : Nat) (p : Presented) (s : State) : OnlyTenant t s (issueOpen t q p s) :=
  onlyTenant_modTenant t (fun y => y.setQueue q ((s.queue t q).issue p none 0)) s

end

/-! ## What the instructions of a tenant wait for -/

/-- No instruction of the tenant waits to issue. -/
def NoneWaits (t : Nat) (s : State) : Prop := ∀ r < 8, (s.queue t r).waiting = none

theorem NoneWaits.progress {t : Nat} {s u : State} (h : NoneWaits t s) (hp : Progressed t s u) : NoneWaits t u :=
  fun r hr => (hp.kept r).waiting (h r hr)

theorem foldl_of_fixed {σ β : Type} {g : σ → β → σ} {l : List β} {s : σ} (h : ∀ b ∈ l, g s b = s) : l.foldl g s = s := by
  induction l with
  | nil => rfl
  | cons b r ih =>
    rw [List.foldl_cons, h b (List.mem_cons_self ..)]
    exact ih fun c hc => h c (List.mem_cons_of_mem _ hc)

/-- Where nothing waits, nothing issues after a completion (R124). -/
theorem settle_of_noneWaits {t : Nat} {s : State} (h : NoneWaits t s) : settle t s = s := by
  have hround : settleRound t s = s := foldl_of_fixed fun q hq => by rw [settleQueue, h q (List.mem_range.mp hq)]
  exact foldl_of_fixed fun _ _ => hround

/-! ## Presentation of the instruction at the head (R122, R124, R147) -/

/-- A tenant whose turn has passed differs in its turn alone. -/
theorem passTurn_tenant (t q : Nat) (s : State) : (passTurn t q s).tenant t = { s.tenant t with turn := (q + 1) % 8 } :=
  (State.tenant_modTenant s t t (fun y => { y with turn := (q + 1) % 8 })).trans (if_pos rfl)

@[simp] theorem passTurn_queue (t q : Nat) (s : State) (r : Nat) : (passTurn t q s).queue t r = s.queue t r := by
  rw [State.queue, passTurn_tenant]; rfl

@[simp] theorem passTurn_copy (t q : Nat) (s : State) (c : Nat) : ((passTurn t q s).tenant t).copy c = (s.tenant t).copy c := by
  rw [passTurn_tenant]; rfl
@[simp] theorem passTurn_points (t q : Nat) (s : State) : ((passTurn t q s).tenant t).points = (s.tenant t).points := by
  rw [passTurn_tenant]
@[simp] theorem passTurn_cls (t q : Nat) (s : State) : ((passTurn t q s).tenant t).cls = (s.tenant t).cls := by
  rw [passTurn_tenant]
@[simp] theorem passTurn_scale (t q : Nat) (s : State) (i : Nat) : ((passTurn t q s).tenant t).scale i = (s.tenant t).scale i := by
  rw [passTurn_tenant]; rfl
@[simp] theorem passTurn_compHeld (t q : Nat) (s : State) (c : Comp) : (passTurn t q s).compHeld c = s.compHeld c := rfl
@[simp] theorem passTurn_tenantXid (t q : Nat) (s : State) (r : Nat) : (passTurn t q s).tenantXid r = s.tenantXid r := rfl
@[simp] theorem passTurn_dep (t q : Nat) (s : State) : (passTurn t q s).dep = s.dep := rfl
@[simp] theorem passTurn_mtc (t q : Nat) (s : State) : (passTurn t q s).mtc = s.mtc := rfl

theorem NoneWaits.passTurn {t : Nat} {s : State} (h : NoneWaits t s) (q : Nat) : NoneWaits t (passTurn t q s) :=
  fun r hr => by rw [passTurn_queue, h r hr]

/-- `spans` reads the ranges alone: its recursion is opened as it stands, since the equation for a successor is too deep for the kernel. -/
theorem Tenant.spans_congr {y z : Tenant} (h : z.ranges = y.ranges) (f pos fin : Nat) : z.spans f pos fin = y.spans f pos fin := by
  have hrange : z.range = y.range := funext fun m => by rw [Tenant.range, h]; rfl
  delta Tenant.spans Tenant.spans._f
  rw [hrange]

/-- The check of an instruction's words reads the memory ranges, the class and whether the tenant is an admin alone (R122). -/
theorem planCheck_congr {y z : Tenant} (hranges : z.ranges = y.ranges) (hcls : z.cls = y.cls) (hadmin : z.admin = y.admin)
    (w0 w1 : BitVec 64) : planCheck z w0 w1 = planCheck y w0 w1 := by
  have hin (a n : Nat) : z.inRanges a n = y.inRanges a n := Tenant.spans_congr hranges ..
  have hmay (c : OpClass) : z.mayIssue c = y.mayIssue c := by cases c <;> simp [Tenant.mayIssue, hcls, hadmin]
  simp only [planCheck, hmay, badRange, hin]

/-- Whose turn it is does not enter the check of an instruction's words. -/
theorem planCheck_passTurn (t q : Nat) (s : State) (w0 w1 : BitVec 64) :
    planCheck ((passTurn t q s).tenant t) w0 w1 = planCheck (s.tenant t) w0 w1 := by
  have htenant := passTurn_tenant t q s
  generalize (passTurn t q s).tenant t = z at htenant ⊢
  exact planCheck_congr (by rw [htenant]) (by rw [htenant]) (by rw [htenant]) w0 w1

theorem issueReady_passTurn (t q : Nat) (s : State) (p : Presented) :
    issueReady (passTurn t q s) t q p = issueReady s t q p := by
  have hevent (e : Nat) : ((passTurn t q s).tenant t).event e = (s.tenant t).event e := by rw [passTurn_tenant]; rfl
  simp only [issueReady, passTurn_queue, hevent]

section
variable {t : Ten} {q : Que} {w0 w1 : BitVec 64} {s : State} (h : MayIssue s t q w0 w1)
include h

theorem MayIssue.noneWaits : NoneWaits t s := by
  obtain ⟨⟨-, -, -, -, -, -, hwait, -⟩, -, -⟩ := h
  exact fun r hr => hwait ⟨r, hr⟩

/-- Its tenant runs, and its queue is enabled and in no fault (R136, R137). -/
theorem MayIssue.runs : (s.tenant t).st = .running ∧ (s.queue t q).enable = true ∧ (s.queue t q).st = .idle := by
  obtain ⟨⟨-, hruns, -⟩, -, -⟩ := h
  simp only [State.queueRuns, Bool.and_eq_true, beq_iff_eq] at hruns
  obtain ⟨⟨⟨⟨-, htenant⟩, henable⟩, hidle⟩, -⟩ := hruns
  exact ⟨htenant, henable, hidle⟩

theorem MayIssue.tenant_st : (s.tenant t).st = .running := h.runs.1
theorem MayIssue.enable : (s.queue t q).enable = true := h.runs.2.1
theorem MayIssue.st : (s.queue t q).st = .idle := h.runs.2.2

theorem MayIssue.presented : s.presented? t q w0 w1 = some (atHead s t q w0 w1) := by
  obtain ⟨⟨hatt, hruns, -, hretry, hslots, -, hwait, -⟩, -, -⟩ := h
  simp only [State.presented?, hruns, hwait q, hatt, hretry, if_pos hslots, atHead, Bool.not_true, Bool.false_eq_true, if_false]

theorem MayIssue.taken : taken t q s = passTurn t q s := by
  obtain ⟨⟨-, -, -, -, -, hbatch, hwait, -⟩, -, -⟩ := h
  simp [Machine.taken, hwait q, Option.isNone_eq_false_iff.mpr hbatch]

/-- An instruction at the head that may issue is taken in its turn and carried out; then whatever waits may issue too. -/
theorem present_of_mayIssue (body : Presented → State → State) {mine : Bool} (hmine : mine = true) :
    present t q w0 w1 mine body s = settle t (body (atHead s t q w0 w1) (passTurn t q s)) := by
  have htaken := h.taken
  have hpresented := h.presented
  obtain ⟨⟨-, -, hturn, -⟩, hcheck, hready⟩ := h
  rw [← planCheck_passTurn t q] at hcheck
  rw [← issueReady_passTurn] at hready
  simp only [present, hpresented, hmine, hturn, htaken, hcheck, hready, Bool.or_true, Bool.not_true, Bool.or_false,
    Bool.false_eq_true, if_true, if_false]

end

/-! ## Issue and success of the instruction at the head -/

theorem OpenAtHead.congr {s u v : State} {t : Ten} {q : Que} {w0 : BitVec 64} (h : OpenAtHead s u t q w0)
    (hq : v.queue t q = u.queue t q) : OpenAtHead s v t q w0 := by
  rw [OpenAtHead, hq]
  exact h

section
variable {t : Ten} {q : Que} {w0 w1 : BitVec 64} {s s0 : State}

@[simp] theorem atHead_idx : (atHead s t q w0 w1).idx = (s.queue t q).head := rfl
@[simp] theorem atHead_w0 : (atHead s t q w0 w1).w0 = w0 := rfl
@[simp] theorem atHead_w1 : (atHead s t q w0 w1).w1 = w1 := rfl

theorem issueOpen_queue (p : Presented) (t q : Nat) (s : State) (r : Nat) :
    (issueOpen t q p s).queue t r = if r = q then (s.queue t q).issue p none 0 else s.queue t r := by
  simp [issueOpen]

@[simp] theorem issueOpen_dep (p : Presented) (t q : Nat) (s : State) : (issueOpen t q p s).dep = s.dep := rfl
@[simp] theorem issueOpen_mtc (p : Presented) (t q : Nat) (s : State) : (issueOpen t q p s).mtc = s.mtc := rfl

theorem issueOpen_only (p : Presented) (t q : Nat) (s : State) : (s.tenant t).OnlyQueues ((issueOpen t q p s).tenant t) := by
  rw [issueOpen, State.modQueue, State.setQueue, State.tenant_modTenant, if_pos rfl]
  rfl

theorem NoneWaits.issueOpen {t : Nat} {s : State} (h : NoneWaits t s) (q : Nat) (p : Presented) :
    NoneWaits t (issueOpen t q p s) := fun r hr => by
  rw [issueOpen_queue]
  split
  · rfl
  · exact h r hr

variable (hq : s0.queue t q = s.queue t q)
include hq

/-- An instruction at the head that issues is open, with the head past it (R124). -/
theorem openAtHead_issueOpen : OpenAtHead s (issueOpen t q (atHead s t q w0 w1) s0) t q w0 := by
  rw [OpenAtHead, issueOpen_queue, if_pos rfl, hq]
  exact ⟨Queue.issue_head _ _ _ _ rfl, _, Queue.mem_issue_open .., rfl, rfl, rfl⟩

/-- One that issues and completes at once is done. -/
theorem doneAtHead_issueDone (hen : (s.queue t q).enable = true) (value : Nat) :
    DoneAtHead s (issueDone t q (atHead s t q w0 w1) (BitVec.ofNat 64 value) s0) t q w0 value := by
  have hopen : (issueOpen t q (atHead s t q w0 w1) s0).queue t q = (s.queue t q).issue (atHead s t q w0 w1) none 0 := by
    rw [issueOpen_queue, if_pos rfl, hq]
  constructor
  · have hkept := ((progressed_finish (t := t) (q := q) (idx := (s.queue t q).head) (value := BitVec.ofNat 64 value) (addr := 0)
      (unit := unitNone) (log := true) (s := issueOpen t q (atHead s t q w0 w1) s0) (.inl rfl)).kept q).head
    rw [hopen] at hkept
    exact hkept.trans (Queue.issue_head _ _ _ _ rfl)
  · intro hcpl
    have hmem := mem_finish (t := t) (q := q) (idx := (s.queue t q).head) (value := BitVec.ofNat 64 value) (addr := 0)
      (unit := unitNone) (log := true) (s := issueOpen t q (atHead s t q w0 w1) s0) (.inl rfl) (r := q)
      (hopen ▸ Queue.mem_issue_open ..) hcpl (hopen ▸ hen)
    rw [if_pos rfl, Issued.closeAt, if_pos ⟨rfl, rfl⟩] at hmem
    rw [← hcpl]
    exact hmem

end

/-! ## Issue with a status, as the body of an instruction uses it -/

section
variable {t q : Nat} {p : Presented} {value : BitVec 64} {s : State}

theorem NoneWaits.issueDone (h : NoneWaits t s) : NoneWaits t (issueDone t q p value s) :=
  (h.issueOpen q p).progress (progressed_finish (.inl rfl))

theorem issueDone_only : (s.tenant t).OnlyQueues ((issueDone t q p value s).tenant t) :=
  (issueOpen_only p t q s).trans (finish_only (s := issueOpen t q p s) (.inl rfl))

variable {code : BitVec 16} {addr : Nat} (hs : Harmless code)
include hs

theorem NoneWaits.issueFault (h : NoneWaits t s) : NoneWaits t (issueFault t q p code addr s) :=
  (h.issueOpen q p).progress (progressed_finish hs)

theorem issueFault_only : (s.tenant t).OnlyQueues ((issueFault t q p code addr s).tenant t) :=
  (issueOpen_only p t q s).trans (finish_only hs)

theorem issueFault_head (h : p.idx = (s.queue t q).head) :
    ((issueFault t q p code addr s).queue t q).head = (s.queue t q).head + BitVec.ofNat 32 p.slots := by
  have hkept := (progressed_finish (t := t) (q := q) (idx := p.idx) (value := 0) (addr := addr) (unit := unitNone) (log := true)
    (s := issueOpen t q p s) hs).kept q
  rw [issueOpen_queue, if_pos rfl] at hkept
  exact hkept.head.trans (Queue.issue_head _ _ _ _ h)

end

theorem onlyTenant_issueDone (t : Ten) (q : Nat) (p : Presented) (value : BitVec 64) (s : State) :
    OnlyTenant t s (issueDone t q p value s) :=
  (onlyTenant_issueOpen t q p s).trans (progressed_finish (.inl rfl)).onlyTenant

/-- An instruction at the head that issues and completes at once, after what it did to its tenant's context alone: it is done, and the
context is as it was left, but for queues and state. -/
theorem issueDone_effect {t : Ten} {q : Que} {w0 w1 : BitVec 64} {s s0 : State} (hi : MayIssue s t q w0 w1)
    (hq : ∀ r, s0.queue t r = s.queue t r) (ho : OnlyTenant t s s0) {v : BitVec 64} {value : Nat}
    (hv : v = BitVec.ofNat 64 value) :
    let u := settle t (issueDone t q (atHead s t q w0 w1) v s0)
    DoneAtHead s u t q w0 value ∧ OnlyTenant t s u ∧ (s0.tenant t).OnlyQueues (u.tenant t) := by
  have hwait : NoneWaits t s0 := fun r hr => by rw [hq, hi.noneWaits r hr]
  rw [settle_of_noneWaits hwait.issueDone, hv]
  exact ⟨doneAtHead_issueDone (hq q) hi.enable value, ho.trans (onlyTenant_issueDone ..), issueDone_only⟩

/-! ## A fault before issue (R122, R136) -/

/-- Recording a code leaves the loads of the depot alone. -/
@[simp] theorem record_loads (c : BitVec 16) (t : Option Nat) (unit arg addr : Nat) (s : State) :
    (record c t unit arg addr s).dep.loads = s.dep.loads := by
  have hmsix (v : Nat) (s : State) : (msix v s).dep.loads = s.dep.loads := msix_keeps (fun s => s.dep.loads) (fun _ _ _ => rfl) v s
  have hblock (s : State) : (noteBlock c t unit arg s).dep.loads = s.dep.loads := by
    unfold noteBlock noteWin
    (repeat' split) <;> rfl
  unfold record
  split
  · rw [hblock]
  · rw [hmsix, hblock]

theorem State.tenant_congr {s u : State} (h : u.ten = s.ten) (t : Nat) : u.tenant t = s.tenant t := by
  simp only [State.tenant, h]

/-- An instruction that fails before it issues faults its enabled queue with the code; the rest of its tenant's context but for the
queues is the same, and nothing comes to wait. -/
theorem failUnissued_effect {t q : Nat} (p : Presented) (code : BitVec 16) (addr arg : Nat) {s : State}
    (hen : (s.queue t q).enable = true) (hst : (s.queue t q).st = .idle) (hwait : NoneWaits t s) :
    let u := failUnissued t q p code addr arg s
    (u.queue t q).st = .faulted ∧ (u.queue t q).fcode = code ∧ (s.tenant t).OnlyQueues (u.tenant t) ∧ NoneWaits t u ∧
      u.dep.loads = s.dep.loads := by
  intro u
  obtain ⟨w, hw, hrest, -, hstop⟩ := exists_stopSettled t q ((s.queue t q).failUnissued p code (detailOf addr unitNone)) s
  have hu : u = record code (some t) unitNone arg addr w := by rw [← hw]; rfl
  have hten : u.tenant t = w.tenant t := by rw [hu]; exact State.tenant_congr (record_ten ..) t
  have hqueue : u.queue t q = (s.queue t q).failUnissued p code (detailOf addr unitNone) := by
    rw [State.queue, hten, hstop.enabled q, Tenant.queue_setQueue, if_pos rfl]
    rw [Tenant.queue_setQueue, if_pos rfl]
    simpa [Queue.failUnissued, Queue.faultAt, hst] using hen
  refine ⟨?_, ?_, ?_, fun r hr => ?_, ?_⟩
  · simp [hqueue, Queue.failUnissued, Queue.faultAt, hst]
  · simp [hqueue, Queue.failUnissued, Queue.faultAt, hst]
  · rw [hten]
    exact (Tenant.onlyQueues_setQueue ..).trans hstop.only
  · rw [State.queue, hten]
    refine (hstop.kept r).waiting ?_
    rw [Tenant.queue_setQueue]
    split
    · simp [Queue.failUnissued, Queue.faultAt, hst]
    · exact hwait r hr
  · rw [hu, record_loads, hrest]

/-! ## RELEASING copies (R128, R254) -/

section
variable {t : Nat} {c : Fin 4} {s : State}

theorem progressed_modTenant_setCopy (t c : Nat) (v : Copy) (s : State) : Progressed t s (s.modTenant t (fun y => y.setCopy c v)) := by
  refine ⟨rfl, fun r hr => by rw [State.tenant_modTenant, if_neg hr], fun r => ?_⟩
  rw [State.queue_modTenant_of rfl]
  exact .refl _

theorem settleCopy_of_kept (h : ((s.tenant t).copy c).st ≠ .releasing ∨ (s.tenant t).refs c ≠ 0) : settleCopy t c s = s := by
  simp only [settleCopy]
  exact if_neg fun hc => h.elim (· hc.1) (· hc.2)

/-- A RELEASING copy that no batch holds becomes EMPTY (R254). -/
theorem settleCopy_of_free (hst : ((s.tenant t).copy c).st = .releasing) (hrefs : (s.tenant t).refs c = 0)
    (hw : ((s.tenant t).copy c).waiter = none) : settleCopy t c s = s.modTenant t (fun y => y.setCopy c Copy.init) := by
  simp only [settleCopy, hst, hrefs, hw, and_self, if_true]

/-- And the RELEASEW that waits for it completes. -/
theorem settleCopy_of_awaited (hst : ((s.tenant t).copy c).st = .releasing) (hrefs : (s.tenant t).refs c = 0) {w : Nat × Reg32}
    (hw : ((s.tenant t).copy c).waiter = some w) :
    settleCopy t c s = finish t w.1 w.2 0 0 0 unitNone true (s.modTenant t (fun y => y.setCopy c Copy.init)) := by
  simp only [settleCopy, hst, hrefs, hw, and_self, if_true]

/-- What `settleCopy` may do: nothing, or empty the copy, or empty it and complete one instruction with success. -/
theorem settleCopy_cases (t : Nat) (c : Fin 4) (s : State) :
    settleCopy t c s = s ∨ settleCopy t c s = s.modTenant t (fun y => y.setCopy c Copy.init) ∨
      ∃ w, settleCopy t c s = finish t (Prod.fst w) w.2 0 0 0 unitNone true (s.modTenant t (fun y => y.setCopy c Copy.init)) := by
  by_cases h : ((s.tenant t).copy c).st = .releasing ∧ (s.tenant t).refs c = 0
  · cases hw : ((s.tenant t).copy c).waiter with
    | none => exact .inr (.inl (settleCopy_of_free h.1 h.2 hw))
    | some w => exact .inr (.inr ⟨w, settleCopy_of_awaited h.1 h.2 hw⟩)
  · exact .inl (settleCopy_of_kept (by rwa [← not_and_or]))

theorem progressed_settleCopy (t : Nat) (c : Fin 4) (s : State) : Progressed t s (settleCopy t c s) := by
  have hcopy := progressed_modTenant_setCopy t c Copy.init s
  rcases settleCopy_cases t c s with h | h | ⟨w, h⟩ <;> rw [h]
  · exact .refl t s
  · exact hcopy
  · exact hcopy.trans (progressed_finish (.inl rfl))

theorem settleCopy_copy_of_ne (t : Nat) {c : Fin 4} (s : State) {k : Nat} (hk : k ≠ c) :
    ((settleCopy t c s).tenant t).copy k = (s.tenant t).copy k := by
  have hset : ((s.modTenant t (fun y => y.setCopy c Copy.init)).tenant t).copy k = (s.tenant t).copy k := by simp [hk]
  rcases settleCopy_cases t c s with h | h | ⟨w, h⟩ <;> rw [h]
  · exact hset
  · rw [← hset]
    exact (finish_only (.inl rfl)).copy k

/-- An EMPTY copy stays so. -/
theorem settleCopy_copy_of_init {k : Nat} (h : (s.tenant t).copy k = Copy.init) :
    ((settleCopy t c s).tenant t).copy k = Copy.init := by
  by_cases hk : k = c
  · rw [settleCopy_of_kept (.inl (by rw [← hk, h]; decide)), h]
  · rw [settleCopy_copy_of_ne t s hk, h]

/-- An instruction that has completed with success and no value. -/
def Issued.done (e : Issued) : Issued := e.closeAt e.idx 0 0 0

theorem Issued.closeAt_eq_or_done (idx : Reg32) (e : Issued) : e.closeAt idx 0 0 0 = e ∨ e.closeAt idx 0 0 0 = e.done := by
  by_cases h : e.idx = idx
  · exact .inr (by rw [← h]; rfl)
  · exact .inl (if_neg fun hc => h hc.1)

/-- While copies settle, an issued instruction with CPL of an enabled queue stays, open or done. -/
theorem mem_settleCopy {r : Nat} {e : Issued} (he : e ∈ (s.queue t r).issued) (hcpl : e.cpl = true)
    (hen : (s.queue t r).enable = true) :
    e ∈ ((settleCopy t c s).queue t r).issued ∨ e.done ∈ ((settleCopy t c s).queue t r).issued := by
  have hset : (s.modTenant t (fun y => y.setCopy c Copy.init)).queue t r = s.queue t r := State.queue_modTenant_of rfl r
  rcases settleCopy_cases t c s with h | h | ⟨w, h⟩ <;> rw [h]
  · exact .inl he
  · exact .inl (hset ▸ he)
  · have hmem := mem_finish (t := t) (q := w.1) (idx := w.2) (value := 0) (addr := 0) (unit := unitNone) (log := true) (.inl rfl)
      (hset ▸ he) hcpl (hset ▸ hen)
    rw [if_pos rfl] at hmem
    split at hmem
    · rcases Issued.closeAt_eq_or_done w.2 e with hc | hc <;> rw [hc] at hmem
      · exact .inl hmem
      · exact .inr hmem
    · exact .inl hmem

end

/-- A fold over a list reaches what the step at one member brings about, where the other steps neither hinder nor undo it. -/
theorem foldl_reaches {σ β : Type} {P Q : σ → Prop} {g : σ → β → σ} {c : β} (hP : ∀ u k, k ≠ c → P u → P (g u k))
    (hPQ : ∀ u, P u → Q (g u c)) (hQ : ∀ u k, Q u → Q (g u k)) {l : List β} (hc : c ∈ l) {s : σ} (hs : P s) :
    Q (l.foldl g s) := by
  induction l generalizing s with
  | nil => cases hc
  | cons b r ih =>
    by_cases hb : b = c
    · exact foldl_holds Q g r _ hQ (hb ▸ hPQ s hs)
    · exact ih ((List.mem_cons.mp hc).resolve_left (fun h => hb h.symm)) (hP s b hb hs)

theorem settleCopies_eq_foldl (t : Nat) (s : State) :
    settleCopies t s = [0, 1, 2, 3].foldl (fun s c => settleCopy t c s) s := by
  simp only [settleCopies, List.foldl_cons, List.foldl_nil]

theorem settleCopies_of_kept {t : Nat} {s : State}
    (h : ∀ c : Fin 4, ((s.tenant t).copy c).st ≠ .releasing ∨ (s.tenant t).refs c ≠ 0) : settleCopies t s = s := by
  rw [settleCopies_eq_foldl]
  exact foldl_of_fixed fun c _ => settleCopy_of_kept (h c)

/-- While copies settle that release `c`: since `s` only completions have come, the copy is as `v`, and `e` is open or done. -/
structure Releasing (t q : Nat) (c : Fin 4) (v : Copy) (e : Issued) (s u : State) : Prop where
  progressed : Progressed t s u
  copy : (u.tenant t).copy c = v
  mem : e.cpl = true → e ∈ (u.queue t q).issued ∨ e.done ∈ (u.queue t q).issued

/-- The release of `c` is over: the copy is EMPTY and `e` done. -/
structure Released (t q : Nat) (c : Fin 4) (e : Issued) (s u : State) : Prop where
  progressed : Progressed t s u
  copy : (u.tenant t).copy c = Copy.init
  mem : e.cpl = true → e.done ∈ (u.queue t q).issued

section
variable {t q : Nat} {c : Fin 4} {v : Copy} {e : Issued} {s u : State} (hen : (s.queue t q).enable = true)

theorem Issued.done_done (e : Issued) : e.done.done = e.done := by
  unfold Issued.done Issued.closeAt
  split <;> simp_all

theorem Issued.done_cpl (e : Issued) : e.done.cpl = e.cpl := Issued.closeAt_cpl ..

include hen

theorem Releasing.settleCopy (h : Releasing t q c v e s u) {k : Fin 4} (hk : k ≠ c) : Releasing t q c v e s (settleCopy t k u) := by
  refine ⟨h.progressed.trans (progressed_settleCopy t k u), ?_, fun hcpl => ?_⟩
  · rw [settleCopy_copy_of_ne t u (fun hck => hk (Fin.ext hck.symm)), h.copy]
  · have henu := ((h.progressed.kept q).enable.trans hen)
    rcases h.mem hcpl with hm | hm
    · exact mem_settleCopy hm hcpl henu
    · exact .inr (by simpa [Issued.done_done] using mem_settleCopy (c := k) hm (e.done_cpl.trans hcpl) henu)

theorem Released.settleCopy (h : Released t q c e s u) (k : Fin 4) : Released t q c e s (settleCopy t k u) :=
  ⟨h.progressed.trans (progressed_settleCopy t k u), settleCopy_copy_of_init h.copy, fun hcpl => by
    simpa [Issued.done_done] using
      mem_settleCopy (c := k) (h.mem hcpl) (e.done_cpl.trans hcpl) ((h.progressed.kept q).enable.trans hen)⟩

/-- The copy's own turn ends its release, when no batch holds it and its RELEASEW is `e`. -/
theorem Releasing.released (h : Releasing t q c v e s u) (hst : v.st = .releasing) (hw : v.waiter = some (q, e.idx))
    (hrefs : (s.tenant t).refs c = 0) : Released t q c e s (Machine.settleCopy t c u) := by
  have hfinish := settleCopy_of_awaited (h.copy ▸ hst) (h.progressed.refs_eq_zero hrefs) (h.copy ▸ hw)
  refine ⟨h.progressed.trans (progressed_settleCopy t c u), ?_, fun hcpl => ?_⟩
  · rw [hfinish, (finish_only (.inl rfl)).copy c]
    simp
  · have hprog := h.progressed.trans (progressed_modTenant_setCopy t c Copy.init u)
    have hset : (u.modTenant t (fun y => y.setCopy c Copy.init)).queue t q = u.queue t q := State.queue_modTenant_of rfl q
    have hmem (x : Issued) (hx : x ∈ (u.queue t q).issued) (hxcpl : x.cpl = true) :=
      mem_finish (t := t) (q := q) (idx := e.idx) (value := 0) (addr := 0) (unit := unitNone) (log := true) (.inl rfl)
        (hset ▸ hx) hxcpl ((hprog.kept q).enable.trans hen)
    simp only [if_true] at hmem
    rw [hfinish]
    rcases h.mem hcpl with hm | hm
    · exact hmem e hm hcpl
    · have hidx : e.done.idx = e.idx := by unfold Issued.done Issued.closeAt; split <;> rfl
      have hdone : e.done.closeAt e.idx 0 0 0 = e.done := by rw [← hidx]; exact e.done_done
      exact hdone ▸ hmem e.done hm (e.done_cpl.trans hcpl)

/-- Through all the copies, in whatever order they settle, the release of one comes to its end. -/
theorem Releasing.settleCopies (h : Releasing t q c v e s u) (hst : v.st = .releasing) (hw : v.waiter = some (q, e.idx))
    (hrefs : (s.tenant t).refs c = 0) : Released t q c e s (settleCopies t u) := by
  have hall : ∀ k : Fin 4, k ∈ [0, 1, 2, 3] := by decide
  rw [settleCopies_eq_foldl]
  exact foldl_reaches (P := Releasing t q c v e s) (fun _ k hk hu => hu.settleCopy hen hk)
    (fun _ hu => hu.released hen hst hw hrefs) (fun _ k hu => hu.settleCopy hen k) (hall c) h

end

end Sys2Proof.Machine
end

section
/-! PROOFS, O32. Weight copies: LOADW, ARMW, POINTS and RELEASEW at the head of a queue (R57, R128, R254, R257). -/

namespace Sys2Proof.Machine

/-! ## Loads, copies, scale slots -/

/-- While four loads run, no other starts (R254). -/
theorem startLoads_of_full {s : State} (h : 4 ≤ (s.dep.loads.filter (·.running)).length) : startLoads s = s :=
  foldl_of_fixed fun _ _ => if_pos h

/-- A load more at the depot. -/
def State.addLoad (j : LoadJob) (s : State) : State := { s with dep := { s.dep with loads := s.dep.loads ++ [j] } }

@[simp] theorem State.addLoad_loads (j : LoadJob) (s : State) : (s.addLoad j).dep.loads = s.dep.loads ++ [j] := rfl
@[simp] theorem State.addLoad_mtc (j : LoadJob) (s : State) : (s.addLoad j).mtc = s.mtc := rfl
@[simp] theorem State.addLoad_tenant (j : LoadJob) (s : State) (t : Nat) : (s.addLoad j).tenant t = s.tenant t := rfl
@[simp] theorem State.addLoad_queue (j : LoadJob) (s : State) (t q : Nat) : (s.addLoad j).queue t q = s.queue t q := rfl

theorem State.modCopy_tenant (s : State) (t c : Nat) (f : Copy → Copy) :
    (s.modCopy t c f).tenant t = (s.tenant t).setCopy c (f ((s.tenant t).copy c)) := by
  rw [State.modCopy, State.tenant_modTenant, if_pos rfl]

theorem State.modCopy_queue (s : State) (t c : Nat) (f : Copy → Copy) (r : Nat) :
    (s.modCopy t c f).queue t r = s.queue t r :=
  State.queue_modTenant_of rfl r

theorem onlyTenant_modCopy (t : Ten) (c : Nat) (f : Copy → Copy) (s : State) : OnlyTenant t s (s.modCopy t c f) :=
  onlyTenant_modTenant t (fun y => y.setCopy c (f (y.copy c))) s

theorem NoneWaits.modCopy {t : Nat} {s : State} (h : NoneWaits t s) (c : Nat) (f : Copy → Copy) : NoneWaits t (s.modCopy t c f) :=
  fun r hr => by rw [State.modCopy_queue, h r hr]

theorem NoneWaits.addLoad {t : Nat} {s : State} (h : NoneWaits t s) (j : LoadJob) : NoneWaits t (s.addLoad j) :=
  fun r hr => by rw [State.addLoad_queue, h r hr]

/-- Changing the values of the first keys of a table, each by a function of its own. -/
theorem sget_foldl_supd {α : Type} [DecidableEq α] (d : α) (f : Nat → α → α) (m : Store α) (n i : Nat) :
    sget d ((List.range n).foldl (fun m k => supd d m k (f k)) m) i = if i < n then f i (sget d m i) else sget d m i := by
  induction n with
  | zero => rfl
  | succ n ih =>
    rw [List.range_succ, List.foldl_append, List.foldl_cons, List.foldl_nil, sget_supd]
    by_cases h : i = n
    · subst h
      rw [if_pos rfl, ih, if_neg (Nat.lt_irrefl i), if_pos (Nat.lt_succ_self i)]
    · rw [if_neg h, ih]
      exact if_congr (by omega) rfl rfl

/-- The initial scales of a package come into the slots that it has one for, and the rest of a slot stays (R57). -/
theorem Tenant.scale_takeScales (l : List (BitVec 8)) (y : Tenant) {i : Nat} (hi : i < 16) :
    (y.takeScales l).scale i = { y.scale i with initExp := l.getD i (y.scale i).initExp } := by
  have hfold := sget_foldl_supd ScaleSlot.init (fun k v => { v with initExp := l.getD k v.initExp }) y.scales 16 i
  simp only [Tenant.scale, Tenant.takeScales, hfold, if_pos hi]

theorem Tenant.queue_takeScales (l : List (BitVec 8)) (y : Tenant) (r : Nat) : (y.takeScales l).queue r = y.queue r := by
  simp only [Tenant.queue, Tenant.takeScales]
theorem Tenant.copy_takeScales (l : List (BitVec 8)) (y : Tenant) (c : Nat) : (y.takeScales l).copy c = y.copy c := by
  simp only [Tenant.copy, Tenant.takeScales]
theorem Tenant.queue_setCopy (y : Tenant) (c : Nat) (v : Copy) (r : Nat) : (y.setCopy c v).queue r = y.queue r := rfl
theorem Tenant.scale_setCopy (y : Tenant) (c : Nat) (v : Copy) (i : Nat) : (y.setCopy c v).scale i = y.scale i := rfl

/-- A copy becomes ARMED with its kernels and scales, which a tenant not armed for express takes at once (R57, R257). -/
def State.armCopy (s : State) (t c : Nat) (ks : List KernelEntry) (es : List (BitVec 8)) : State :=
  let s1 := s.modCopy t c (fun v => { v with st := .armed, kernels := ks, scales := es })
  if (s.tenantXid t).isSome then s1 else s1.modTenant t (Tenant.takeScales es)

section
variable (s : State) (t c : Nat) (ks : List KernelEntry) (es : List (BitVec 8))

theorem State.armCopy_tenant : (s.armCopy t c ks es).tenant t =
    let y := (s.tenant t).setCopy c { (s.tenant t).copy c with st := .armed, kernels := ks, scales := es }
    if (s.tenantXid t).isSome then y else y.takeScales es := by
  unfold State.armCopy
  dsimp only
  split
  · rw [State.modCopy_tenant]
  · rw [State.tenant_modTenant, if_pos rfl, State.modCopy_tenant]

theorem State.armCopy_queue (r : Nat) : (s.armCopy t c ks es).queue t r = s.queue t r := by
  rw [State.queue, State.armCopy_tenant]
  dsimp only
  split
  · rw [Tenant.queue_setCopy, State.queue]
  · rw [Tenant.queue_takeScales, Tenant.queue_setCopy, State.queue]

theorem State.armCopy_copy : ((s.armCopy t c ks es).tenant t).copy c =
    { (s.tenant t).copy c with st := .armed, kernels := ks, scales := es } := by
  have hset := Tenant.copy_setCopy (s.tenant t) c c { (s.tenant t).copy c with st := .armed, kernels := ks, scales := es }
  rw [if_pos rfl] at hset
  rw [State.armCopy_tenant]
  dsimp only
  split
  · exact hset
  · rw [Tenant.copy_takeScales, hset]

theorem State.armCopy_scale {i : Nat} (hi : i < 16) : ((s.armCopy t c ks es).tenant t).scale i =
    if (s.tenantXid t).isSome then (s.tenant t).scale i
    else { (s.tenant t).scale i with initExp := es.getD i ((s.tenant t).scale i).initExp } := by
  rw [State.armCopy_tenant]
  dsimp only
  split
  · rw [Tenant.scale_setCopy]
  · rw [Tenant.scale_takeScales es _ hi, Tenant.scale_setCopy]

end

theorem onlyTenant_armCopy (s : State) (t : Ten) (c : Nat) (ks : List KernelEntry) (es : List (BitVec 8)) :
    OnlyTenant t s (s.armCopy t c ks es) := by
  unfold State.armCopy
  dsimp only
  split
  · exact onlyTenant_modCopy ..
  · exact (onlyTenant_modCopy t c _ s).trans (onlyTenant_modTenant ..)

/-- The copy that an instruction at the head names. -/
theorem copyOf_atHead {s : State} {t : Ten} {q : Que} {w0 : BitVec 64} (w1 : BitVec 64) {c : Fin 4} (h : pf w0 47 46 = c.val) :
    copyOf (atHead s t q w0 w1) = c :=
  Fin.ext (by simp only [copyOf, atHead_w0, h, Nat.mod_eq_of_lt c.isLt])

/-! ## What the bodies of the instructions do -/

section
variable {t q : Nat} {p : Presented} {c : Fin 4} {s : State} (hc : copyOf p = c)
include hc

theorem loadwBody_of_full (hheld : s.compHeld .loader = false) (hst : ((s.tenant t).copy c).st = .empty)
    (hfull : 4 ≤ (s.dep.loads.filter (·.running)).length) :
    loadwBody t q p s =
      ((issueOpen t q p s).modCopy t c (fun _ => { Copy.init with st := .loading, waiter := some (q, p.idx) })).addLoad
        ⟨t, c, (s.tenant t).cls, pf p.w0 14 0, granuleBytes * pf p.w1 47 21, false, false, [], false⟩ := by
  simp only [loadwBody, hc, hheld, hst, ne_eq, not_true_eq_false, if_false, Bool.false_eq_true]
  exact startLoads_of_full (by simpa [issueOpen] using hfull)

theorem loadwBody_of_state (hheld : s.compHeld .loader = false) (hst : ((s.tenant t).copy c).st ≠ .empty) :
    loadwBody t q p s = failUnissued t q p Code.copyState 0 0 s := by
  simp only [loadwBody, hc, hheld, hst, ne_eq, not_false_eq_true, if_false, if_true, Bool.false_eq_true]

theorem armwBody_of_loaded (ks : List KernelEntry) (es : List (BitVec 8)) (hst : ((s.tenant t).copy c).st = .loaded) :
    armwBody ks es t q p s = issueDone t q p 0 (s.armCopy t c ks es) := by
  simp only [armwBody, hc, hst, ne_eq, not_true_eq_false, if_false, State.armCopy]

theorem armwBody_of_state (ks : List KernelEntry) (es : List (BitVec 8)) (hst : ((s.tenant t).copy c).st ≠ .loaded) :
    armwBody ks es t q p s = failUnissued t q p Code.copyState 0 0 s := by
  simp only [armwBody, hc, hst, ne_eq, not_false_eq_true, if_true]

theorem pointsBody_of_armed (hst : ((s.tenant t).copy c).st = .armed) :
    pointsBody t q p s = issueDone t q p 0 (s.modTenant t (fun y => { y with points := some c })) := by
  simp only [pointsBody, hc, hst, ne_eq, not_true_eq_false, if_false]

theorem releasewBody_of_may
    (hmay : ((s.tenant t).copy c).st = .loaded ∨ ((s.tenant t).copy c).st = .failed ∨
      (((s.tenant t).copy c).st = .armed ∧ (s.tenant t).points ≠ some c)) :
    releasewBody t q p s = settleCopies t ((issueOpen t q p s).modCopy t c
      (fun v => { v with st := .releasing, waiter := some (q, p.idx) })) := by
  have hgo : (((s.tenant t).copy c).st == .loaded || ((s.tenant t).copy c).st == .failed ||
      (((s.tenant t).copy c).st == .armed && (s.tenant t).points != some c)) = true := by
    simpa [or_assoc] using hmay
  simp only [releasewBody, hc, hgo, Bool.not_true, if_false, Bool.false_eq_true]

end

/-! ## The commands at the head of a queue -/

section
variable {t : Ten} {q : Que} {w0 w1 : BitVec 64} {c : Fin 4} {s : State} (hi : MayIssue s t q w0 w1)
include hi

theorem exec_loadw (hop : pOp w0 = 0x10) :
    exec (.loadw t q w0 w1) s = .next (settle t (loadwBody t q (atHead s t q w0 w1) (passTurn t q s))) := by
  simp only [exec, execLoadw]
  rw [present_of_mayIssue hi _ (by simp [hop])]

theorem exec_armw (ks : List KernelEntry) (es : List (BitVec 8)) (hop : pOp w0 = 0x12) :
    exec (.armw t q w0 w1 ks es) s = .next (settle t (armwBody ks es t q (atHead s t q w0 w1) (passTurn t q s))) := by
  simp only [exec, execArmw]
  rw [present_of_mayIssue hi _ (by simp [hop])]

theorem exec_points (hop : pOp w0 = 0x13) :
    exec (.points t q w0 w1) s = .next (settle t (pointsBody t q (atHead s t q w0 w1) (passTurn t q s))) := by
  simp only [exec, execPoints]
  rw [present_of_mayIssue hi _ (by simp [hop])]

theorem exec_releasew (hop : pOp w0 = 0x14) :
    exec (.releasew t q w0 w1) s = .next (settle t (releasewBody t q (atHead s t q w0 w1) (passTurn t q s))) := by
  simp only [exec, execReleasew]
  rw [present_of_mayIssue hi _ (by simp [hop])]

/-- What the statement says of an instruction that the state of its copy refuses (R254, R257). -/
theorem copyState_effect (c : Fin 4) :
    let u := settle t (failUnissued t q (atHead s t q w0 w1) Code.copyState 0 0 (passTurn t q s))
    (u.queue t q).st = .faulted ∧ (u.queue t q).fcode = 0x5203 ∧ (u.tenant t).copy c = (s.tenant t).copy c ∧
      u.dep.loads = s.dep.loads := by
  obtain ⟨hst, hcode, honly, hwait, hloads⟩ := failUnissued_effect (s := passTurn t q s) (atHead s t q w0 w1) Code.copyState 0 0
    (by rw [passTurn_queue]; exact hi.enable) (by rw [passTurn_queue]; exact hi.st) (hi.noneWaits.passTurn q)
  rw [settle_of_noneWaits hwait]
  exact ⟨hst, hcode, (honly.copy c).trans (passTurn_copy ..), hloads⟩

variable (hc : pf w0 47 46 = c.val)
include hc

theorem exec_loadw_of_full (hop : pOp w0 = 0x10) (hheld : s.compHeld .loader = false) (hst : ((s.tenant t).copy c).st = .empty)
    (hfull : 4 ≤ (s.dep.loads.filter (·.running)).length) :
    ∃ u, exec (.loadw t q w0 w1) s = .next u ∧ OpenAtHead s u t q w0 ∧
      (u.tenant t).copy c = { Copy.init with st := .loading, waiter := some (q.val, (s.queue t q).head) } ∧
      u.dep.loads = s.dep.loads ++
        [⟨t, c, (s.tenant t).cls, pf w0 14 0, pf w1 47 21 * 2 ^ 21, false, false, [], false⟩] ∧ u.mtc = s.mtc := by
  have hbody := loadwBody_of_full (t := t) (q := q) (s := passTurn t q s) (copyOf_atHead (s := s) (t := t) (q := q) w1 hc)
    (by simpa using hheld) (by simpa using hst) (by simpa using hfull)
  have hopen : OpenAtHead s (issueOpen t q (atHead s t q w0 w1) (passTurn t q s)) t q w0 := openAtHead_issueOpen (passTurn_queue ..)
  have hwait := (hi.noneWaits.passTurn q).issueOpen q (atHead s t q w0 w1)
  refine ⟨_, exec_loadw hi hop, ?_⟩
  rw [hbody, settle_of_noneWaits]
  · refine ⟨hopen.congr ?_, ?_, ?_, ?_⟩
    · rw [State.addLoad_queue, State.modCopy_queue]
    · rw [State.addLoad_tenant, State.modCopy_tenant, Tenant.copy_setCopy, if_pos rfl, atHead_idx]
    · rw [State.addLoad_loads, State.modCopy_dep, issueOpen_dep, passTurn_dep, passTurn_cls, atHead_w0, atHead_w1,
        Nat.mul_comm granuleBytes (pf w1 47 21), granuleBytes]
    · rw [State.addLoad_mtc, State.modCopy_mtc, issueOpen_mtc, passTurn_mtc]
  · exact (hwait.modCopy _ _).addLoad _

/-- An instruction that the state of its copy refuses leaves the copy and the loads as they are and faults its queue (R254). -/
theorem exec_loadw_of_state (hop : pOp w0 = 0x10) (hheld : s.compHeld .loader = false)
    (hst : ((s.tenant t).copy c).st ≠ .empty) :
    ∃ u, exec (.loadw t q w0 w1) s = .next u ∧ (u.queue t q).st = .faulted ∧ (u.queue t q).fcode = 0x5203 ∧
      (u.tenant t).copy c = (s.tenant t).copy c ∧ u.dep.loads = s.dep.loads := by
  refine ⟨_, exec_loadw hi hop, ?_⟩
  rw [loadwBody_of_state (copyOf_atHead w1 hc) (by simpa using hheld) (by simpa using hst)]
  exact copyState_effect hi c

theorem exec_armw_of_loaded (ks : List KernelEntry) (es : List (BitVec 8)) (hop : pOp w0 = 0x12)
    (hst : ((s.tenant t).copy c).st = .loaded) :
    ∃ u, exec (.armw t q w0 w1 ks es) s = .next u ∧ DoneAtHead s u t q w0 0 ∧ OnlyTenant t s u ∧
      (u.tenant t).copy c = { (s.tenant t).copy c with st := .armed, kernels := ks, scales := es } ∧
      ∀ i : Fin 16, ((u.tenant t).scale i).initExp =
          (if (s.tenantXid t).isSome then ((s.tenant t).scale i).initExp else es.getD i ((s.tenant t).scale i).initExp) ∧
        ((u.tenant t).scale i).hist = ((s.tenant t).scale i).hist := by
  have hst' : (((passTurn t q s).tenant t).copy c).st = .loaded := by rw [passTurn_copy, hst]
  obtain ⟨hdone, honly, hten⟩ := issueDone_effect hi (s0 := (passTurn t q s).armCopy t c ks es)
    (fun r => by rw [State.armCopy_queue, passTurn_queue]) ((onlyTenant_passTurn t q s).trans (onlyTenant_armCopy ..))
    (v := 0) (value := 0) rfl
  refine ⟨_, exec_armw hi ks es hop, ?_⟩
  rw [armwBody_of_loaded (copyOf_atHead w1 hc) ks es hst']
  refine ⟨hdone, honly, ?_, fun i => ?_⟩
  · rw [hten.copy, State.armCopy_copy, passTurn_copy]
  · rw [hten.scale, State.armCopy_scale _ _ _ _ _ i.isLt, passTurn_scale, passTurn_tenantXid]
    by_cases harmed : (s.tenantXid t).isSome = true
    · simp only [if_pos harmed, and_self]
    · simp only [if_neg harmed, and_self]

theorem exec_armw_of_state (ks : List KernelEntry) (es : List (BitVec 8)) (hop : pOp w0 = 0x12)
    (hst : ((s.tenant t).copy c).st ≠ .loaded) :
    ∃ u, exec (.armw t q w0 w1 ks es) s = .next u ∧ (u.queue t q).st = .faulted ∧ (u.queue t q).fcode = 0x5203 ∧
      (u.tenant t).copy c = (s.tenant t).copy c := by
  obtain ⟨hfault, hcode, hcopy, -⟩ := copyState_effect hi c
  refine ⟨_, exec_armw hi ks es hop, ?_⟩
  rw [armwBody_of_state (copyOf_atHead w1 hc) ks es (by rwa [passTurn_copy])]
  exact ⟨hfault, hcode, hcopy⟩

/-! ## POINTS -/

theorem exec_points_of_armed (hop : pOp w0 = 0x13) (hst : ((s.tenant t).copy c).st = .armed) :
    ∃ u, exec (.points t q w0 w1) s = .next u ∧ DoneAtHead s u t q w0 0 ∧ OnlyTenant t s u ∧ (u.tenant t).points = some c := by
  obtain ⟨hdone, honly, hten⟩ := issueDone_effect hi (s0 := (passTurn t q s).modTenant t (fun y => { y with points := some c }))
    (fun r => (State.queue_modTenant_of rfl r).trans (passTurn_queue ..))
    ((onlyTenant_passTurn t q s).trans (onlyTenant_modTenant ..)) (v := 0) (value := 0) rfl
  have hst' : (((passTurn t q s).tenant t).copy c).st = .armed := by rw [passTurn_copy, hst]
  refine ⟨_, exec_points hi hop, ?_⟩
  rw [pointsBody_of_armed (copyOf_atHead w1 hc) hst']
  refine ⟨hdone, honly, ?_⟩
  rw [hten.points, State.tenant_modTenant, if_pos rfl]

/-! ## RELEASEW -/

omit hc in
/-- A RELEASEW at the head has issued, and its copy is RELEASING. -/
theorem releasing_effect :
    let e := (atHead s t q w0 w1).entry none 0 0
    let v := { (s.tenant t).copy c with st := .releasing, waiter := some (q.val, e.idx) }
    let u := (issueOpen t q (atHead s t q w0 w1) (passTurn t q s)).modCopy t c
      (fun v => { v with st := .releasing, waiter := some (q.val, (atHead s t q w0 w1).idx) })
    OpenAtHead s u t q w0 ∧ OnlyTenant t s u ∧ NoneWaits t u ∧ (u.queue t q).enable = true ∧ Releasing t q c v e u u ∧
      (u.tenant t).refs c = (s.tenant t).refs c ∧ ∀ k : Fin 4, k ≠ c → (u.tenant t).copy k = (s.tenant t).copy k := by
  intro e v u
  have hqueue (r : Nat) : u.queue t r = if r = q then (s.queue t q).issue (atHead s t q w0 w1) none 0 else s.queue t r := by
    rw [State.modCopy_queue, issueOpen_queue, passTurn_queue, passTurn_queue]
  have hcopy (k : Nat) : ((issueOpen t q (atHead s t q w0 w1) (passTurn t q s)).tenant t).copy k = (s.tenant t).copy k := by
    rw [(issueOpen_only ..).copy, passTurn_copy]
  have hq : u.queue t q = (s.queue t q).issue (atHead s t q w0 w1) none 0 := by rw [hqueue, if_pos rfl]
  refine ⟨(openAtHead_issueOpen (passTurn_queue ..)).congr (State.modCopy_queue ..),
    ((onlyTenant_passTurn t q s).trans (onlyTenant_issueOpen ..)).trans (onlyTenant_modCopy ..),
    ((hi.noneWaits.passTurn q).issueOpen q _).modCopy _ _, ?_, ⟨.refl t u, ?_, fun _ => .inl ?_⟩, ?_, fun k hk => ?_⟩
  · rw [hq, Queue.issue_enable, hi.enable]
  · rw [State.modCopy_tenant, Tenant.copy_setCopy, if_pos rfl, hcopy]
    rfl
  · rw [hq]
    exact Queue.mem_issue_open ..
  · refine Tenant.refs_congr (fun r => ?_) c
    have hr := hqueue r
    rw [State.queue, State.queue] at hr
    rw [hr]
    split
    · next hrq => rw [hrq]; exact ⟨rfl, rfl⟩
    · exact ⟨rfl, rfl⟩
  · rw [State.modCopy_tenant, Tenant.copy_setCopy, if_neg (fun h => hk (Fin.ext h)), hcopy]

section
variable (hop : pOp w0 = 0x14)
  (hmay : ((s.tenant t).copy c).st = .loaded ∨ ((s.tenant t).copy c).st = .failed ∨
    (((s.tenant t).copy c).st = .armed ∧ (s.tenant t).points ≠ some c))
include hop hmay

theorem exec_releasew_of_may :
    exec (.releasew t q w0 w1) s = .next (settle t (settleCopies t ((issueOpen t q (atHead s t q w0 w1) (passTurn t q s)).modCopy t c
      (fun v => { v with st := .releasing, waiter := some (q.val, (atHead s t q w0 w1).idx) })))) := by
  have hmay' : (((passTurn t q s).tenant t).copy c).st = .loaded ∨ (((passTurn t q s).tenant t).copy c).st = .failed ∨
      ((((passTurn t q s).tenant t).copy c).st = .armed ∧ ((passTurn t q s).tenant t).points ≠ some c) := by
    rwa [passTurn_copy, passTurn_points]
  rw [exec_releasew hi hop, releasewBody_of_may (copyOf_atHead w1 hc) hmay']

/-- A copy that no batch holds is EMPTY at once, whatever other copies settle with it. -/
theorem exec_releasew_of_free (hrefs : (s.tenant t).refs c = 0) :
    ∃ u, exec (.releasew t q w0 w1) s = .next u ∧ DoneAtHead s u t q w0 0 ∧ OnlyTenant t s u ∧ (u.tenant t).copy c = Copy.init := by
  obtain ⟨⟨hhead, -⟩, honly, hwait, hen, hrel, hrefs', -⟩ := releasing_effect (c := c) hi
  have hend := hrel.settleCopies hen rfl rfl (hrefs'.trans hrefs)
  refine ⟨_, exec_releasew_of_may hi hc hop hmay, ?_⟩
  rw [settle_of_noneWaits (hwait.progress hend.progressed)]
  refine ⟨⟨(hend.progressed.kept q).head.trans hhead, fun hcpl => ?_⟩, honly.trans hend.progressed.onlyTenant, hend.copy⟩
  have hmem := hend.mem hcpl
  rw [Issued.done, Issued.closeAt, if_pos ⟨rfl, rfl⟩] at hmem
  rw [← hcpl]
  exact hmem

/-- A copy that a batch holds stays RELEASING. -/
theorem exec_releasew_of_held (hrefs : (s.tenant t).refs c ≠ 0) (hnone : ∀ k : Fin 4, ((s.tenant t).copy k).st ≠ .releasing) :
    ∃ u, exec (.releasew t q w0 w1) s = .next u ∧ OpenAtHead s u t q w0 ∧ OnlyTenant t s u ∧
      ((u.tenant t).copy c).st = .releasing := by
  obtain ⟨hopen, honly, hwait, -, hrel, hrefs', hother⟩ := releasing_effect (c := c) hi
  refine ⟨_, exec_releasew_of_may hi hc hop hmay, ?_⟩
  rw [settleCopies_of_kept, settle_of_noneWaits hwait]
  · exact ⟨hopen, honly, congrArg Copy.st hrel.copy⟩
  · intro k
    by_cases hk : k = c
    · rw [hk]
      exact .inr (fun h => hrefs (hrefs'.symm.trans h))
    · rw [hother k hk]
      exact .inl (hnone k)

end

end

/-- Settles O32: each instruction's path by the state of its copy, as the lemmas above give it. -/
theorem copiesLoadArmAndRelease : Obligations.CopiesLoadArmAndRelease := by
  unfold Obligations.CopiesLoadArmAndRelease
  intro t q w0 w1 c ks es s v hi hc
  exact ⟨exec_loadw_of_full hi hc, exec_loadw_of_state hi hc, exec_armw_of_loaded hi hc ks es, exec_armw_of_state hi hc ks es,
    exec_points_of_armed hi hc, fun hop hmay => ⟨exec_releasew_of_free hi hc hop hmay, exec_releasew_of_held hi hc hop hmay⟩⟩

end Sys2Proof.Machine
end

section
/-! PROOFS, O16. Binding registers of a tenant, and its configuration page (R57, R123, R138, R139). -/

namespace Sys2Proof.Machine

/-! ## Words made bit by bit -/

/-- The number whose bits below `n` are given. -/
def wordOf (n : Nat) (f : Nat → Bool) : Nat := ((List.range n).map (fun i => if f i then 2 ^ i else 0)).sum

theorem wordOf_succ (n : Nat) (f : Nat → Bool) : wordOf (n + 1) f = wordOf n f + if f n then 2 ^ n else 0 := by
  simp [wordOf, List.range_succ]

theorem wordOf_lt (n : Nat) (f : Nat → Bool) : wordOf n f < 2 ^ n := by
  induction n with
  | zero => exact Nat.zero_lt_one
  | succ n ih =>
    rw [wordOf_succ, Nat.pow_succ]
    split <;> omega

theorem testBit_wordOf (n : Nat) (f : Nat → Bool) {i : Nat} (hi : i < n) : (wordOf n f).testBit i = f i := by
  induction n with
  | zero => omega
  | succ n ih =>
    rw [wordOf_succ]
    rcases Nat.lt_succ_iff_lt_or_eq.mp hi with h | h
    · rw [← ih h]
      split
      · rw [Nat.add_comm, Nat.testBit_two_pow_add_gt h]
      · rfl
    · subst h
      have hlow : (wordOf i f).testBit i = false := Nat.testBit_lt_two_pow (wordOf_lt i f)
      split
      · next hf => rw [Nat.add_comm, Nat.testBit_two_pow_add_eq, hlow, hf]; rfl
      · next hf => rw [Nat.add_zero, hlow]; simpa using hf

theorem getLsbD_ofNat_wordOf (f : Nat → Bool) {i : Nat} (hi : i < 32) : (BitVec.ofNat 32 (wordOf 32 f)).getLsbD i = f i := by
  rw [BitVec.getLsbD_ofNat, decide_eq_true hi, Bool.true_and, testBit_wordOf 32 f hi]

/-- A 64-bit word with its half `hi` replaced by a word made bit by bit. -/
def withHalf (hi : Bool) (x : BitVec 64) (f : Nat → Bool) : BitVec 64 :=
  BitVec.ofNat 64 (if hi then x.toNat % 2 ^ 32 + wordOf 32 f * 2 ^ 32 else x.toNat / 2 ^ 32 * 2 ^ 32 + wordOf 32 f)

theorem getLsbD_ofNat_halves {low : Nat} (high : Nat) (hlow : low < 2 ^ 32) {j : Nat} (hj : j < 64) :
    (BitVec.ofNat 64 (high * 2 ^ 32 + low)).getLsbD j = if j < 32 then low.testBit j else high.testBit (j - 32) := by
  rw [BitVec.getLsbD_ofNat, decide_eq_true hj, Bool.true_and, Nat.mul_comm, Nat.testBit_two_pow_mul_add high hlow]

theorem getLsbD_withHalf (hi : Bool) (x : BitVec 64) (f : Nat → Bool) {i : Nat} (h : i < 32) :
    (withHalf hi x f).getLsbD (b2n hi * 32 + i) = f i := by
  cases hi
  · rw [withHalf, if_neg Bool.false_ne_true, getLsbD_ofNat_halves _ (wordOf_lt 32 f) (by simp [b2n]; omega), if_pos (by simpa [b2n])]
    simpa [b2n] using testBit_wordOf 32 f h
  · rw [withHalf, if_pos rfl, Nat.add_comm, getLsbD_ofNat_halves _ (Nat.mod_lt _ (by decide)) (by simp [b2n]; omega),
      if_neg (by simp [b2n])]
    simpa [b2n] using testBit_wordOf 32 f h

theorem getLsbD_withHalf_other (hi : Bool) (x : BitVec 64) (f : Nat → Bool) {i : Nat} (h : i < 32) :
    (withHalf hi x f).getLsbD (b2n (!hi) * 32 + i) = x.getLsbD (b2n (!hi) * 32 + i) := by
  cases hi
  · rw [withHalf, if_neg Bool.false_ne_true, getLsbD_ofNat_halves _ (wordOf_lt 32 f) (by simp [b2n]; omega), if_neg (by simp [b2n]),
      Nat.testBit_div_two_pow]
    simp [b2n, BitVec.getLsbD, Nat.add_comm]
  · rw [withHalf, if_pos rfl, Nat.add_comm, getLsbD_ofNat_halves _ (Nat.mod_lt _ (by decide)) (by simp [b2n]; omega),
      if_pos (by simpa [b2n]), Nat.testBit_mod_two_pow]
    simp [b2n, BitVec.getLsbD, h]

/-! ## What the binding registers keep of each other -/

theorem autoForm_ten (s : State) : (autoForm s).ten = s.ten := by
  unfold autoForm
  split
  · rfl
  · split <;> rfl

theorem noteConflict_tenant (t : Nat) (bad : Bool) (s : State) :
    (noteConflict t bad s).tenant t = { s.tenant t with bindConflict := (s.tenant t).bindConflict || bad } := by
  unfold noteConflict
  split
  · next h => rw [State.tenant_modTenant, if_pos rfl, h, Bool.or_true]
  · next h => rw [Bool.not_eq_true] at h; rw [h, Bool.or_false]

/-- Half `hi` of TCX_BIND_ARY takes the bits of the arrays that may be bound; the others are a conflict (R139). -/
theorem bindArrays_tenant (t : Nat) (hi : Bool) (v : Reg32) (s : State) :
    (bindArrays t hi v s).tenant t = { s.tenant t with
      bindAry := withHalf hi (s.tenant t).bindAry (fun i => v.getLsbD i && s.mayBindAry t (b2n hi * 32 + i))
      bindConflict := (s.tenant t).bindConflict ||
        (List.range 32).any (fun i => v.getLsbD i && !s.mayBindAry t (b2n hi * 32 + i)) } := by
  have hbase : (if hi then 32 else 0) = b2n hi * 32 := by cases hi <;> rfl
  have hten (g : State → Nat → State) (hg : ∀ s i, (g s i).ten = s.ten) : ((List.range 32).foldl g s).tenant t = s.tenant t :=
    State.tenant_congr (foldl_keeps State.ten g _ s hg) t
  simp only [bindArrays, noteConflict_tenant, State.tenant_modTenant, if_true, hbase]
  rw [hten]
  · rfl
  · intro s i
    split
    · rfl
    · split <;> rfl

/-- TCX_BIND_KEY takes the bits of the key slots that may be bound; the others are a conflict (R139). -/
theorem bindKeys_tenant (t : Nat) (v : Reg32) (s : State) :
    (bindKeys t v s).tenant t = { s.tenant t with
      bindKey := BitVec.ofNat 32 (wordOf 32 (fun i => v.getLsbD i && s.mayBindKey t i))
      bindConflict := (s.tenant t).bindConflict || (List.range 32).any (fun i => v.getLsbD i && !s.mayBindKey t i) } := by
  have hten (g : State → Nat → State) (hg : ∀ s i, (g s i).ten = s.ten) : ((List.range 32).foldl g s).tenant t = s.tenant t :=
    State.tenant_congr (foldl_keeps State.ten g _ s hg) t
  simp only [bindKeys, noteConflict_tenant, State.tenant_modTenant, if_true]
  rw [hten]
  · rfl
  · intro s i
    split <;> rfl

/-! ## A write of a binding register -/

section
variable {t : Nat} {s : State} (v : Reg32)

/-- TCX_BIND_CON takes a span within 256 MiB that may be bound. -/
theorem bindCon_of_may (hfit : bitsOf v.toNat 7 0 + bitsOf v.toNat 16 8 ≤ 256)
    (hmay : s.mayBindCon t (bitsOf v.toNat 7 0) (bitsOf v.toNat 16 8) = true) :
    (bindCon t v s).tenant t = { s.tenant t with
      conBase := BitVec.ofNat 8 (bitsOf v.toNat 7 0), conSize := BitVec.ofNat 9 (bitsOf v.toNat 16 8) } := by
  have hgo : (decide (256 < bitsOf v.toNat 7 0 + bitsOf v.toNat 16 8) ||
      !s.mayBindCon t (bitsOf v.toNat 7 0) (bitsOf v.toNat 16 8)) = false := by simpa [hmay] using hfit
  simp only [bindCon, hgo, Bool.false_eq_true, if_false, State.tenant_modTenant, if_true]
  split <;> rfl

theorem bindCon_of_refused (hno : 256 < bitsOf v.toNat 7 0 + bitsOf v.toNat 16 8 ∨
    s.mayBindCon t (bitsOf v.toNat 7 0) (bitsOf v.toNat 16 8) = false) :
    bindCon t v s = s.modTenant t (fun y => { y with bindConflict := true }) := by
  have hstop : (decide (256 < bitsOf v.toNat 7 0 + bitsOf v.toNat 16 8) ||
      !s.mayBindCon t (bitsOf v.toNat 7 0) (bitsOf v.toNat 16 8)) = true := by simpa using hno
  simp only [bindCon, hstop, if_true, noteConflict]

variable (hfree : (s.tenant t).st = .free)
include hfree

theorem writeBind_ary (hi : Bool) : writeBind t (if hi then 0x104 else 0x100) v s = autoForm (bindArrays t hi v s) := by
  cases hi <;> simp [writeBind, hfree]

theorem writeBind_atp : writeBind t 0x108 v s = s.modTenant t (fun y => { y with bindAtp := BitVec.ofNat 16 v.toNat }) := by
  simp [writeBind, hfree]

theorem writeBind_con : writeBind t 0x10C v s = bindCon t v s := by simp [writeBind, hfree]

theorem writeBind_key : writeBind t 0x110 v s = bindKeys t v s := by simp [writeBind, hfree]

theorem writeBind_range {off : Nat} (hoff : 0x120 ≤ off) : writeBind t off v s = bindRange t off v s := by
  have h : off ≠ 0x100 ∧ off ≠ 0x104 ∧ off ≠ 0x108 ∧ off ≠ 0x10C ∧ off ≠ 0x110 := by omega
  simp [writeBind, hfree, h]

theorem writeBind_rangeBase (m : Fin 8) : writeBind t (0x120 + 8 * m) v s = s.modTenant t (fun y => { y with
    ranges := sset MemRange.init y.ranges m { y.range m with gbase := BitVec.ofNat 27 (bitsOf v.toNat 26 0) } }) := by
  have hm : (0x120 + 8 * m.val - 0x120) / 8 = m := by omega
  have h8 : (0x120 + 8 * m.val) % 8 = 0 := by omega
  rw [writeBind_range v hfree (by omega)]
  simp only [bindRange, hm, h8, if_true]
  rfl

theorem writeBind_rangeSize (m : Fin 8) : writeBind t (0x124 + 8 * m) v s = s.modTenant t (fun y => { y with
    ranges := sset MemRange.init y.ranges m { y.range m with
      tier := BitVec.ofNat 2 (bitsOf v.toNat 31 30), granules := BitVec.ofNat 16 (bitsOf v.toNat 15 0) } }) := by
  have hm : (0x124 + 8 * m.val - 0x120) / 8 = m := by omega
  have h8 : (0x124 + 8 * m.val) % 8 ≠ 0 := by omega
  rw [writeBind_range v hfree (by omega)]
  simp only [bindRange, hm, if_neg h8]
  rfl

end

theorem tcxBusy_tenant (t off : Nat) (s : State) : (tcxBusy t off s).tenant t =
    { s.tenant t with cfgWrBusy := true, cfgOff := BitVec.ofNat 15 off } := by
  rw [tcxBusy, State.tenant_congr (record_ten ..), State.tenant_modTenant, if_pos rfl]

theorem tcxBusy_queue (t off : Nat) (s : State) (r : Nat) : (tcxBusy t off s).queue t r = s.queue t r := by
  rw [State.queue, tcxBusy_tenant]; rfl

/-- A write that would change a binding register of a tenant that is not FREE is busy (R138, R139). -/
theorem writeBind_of_busy {t off : Nat} {v : Reg32} {s : State} (hst : (s.tenant t).st ≠ .free)
    (hne : v.toNat &&& bindMask off ≠ (s.tenant t).bindReg off) : writeBind t off v s = tcxBusy t off s := by
  simp only [writeBind, ne_eq, hst, not_false_eq_true, if_true, if_neg hne]

theorem exec_bindingWrite {t : Ten} {off : Nat} (v : Reg32) {s : State} (hw : s.hostWrites = true) (hoff : isBindOff off = true) :
    exec (.bindingWrite t off v) s = .next (writeBind t off v s) := by
  simp only [exec, execBindingWrite, hw, hoff, Bool.and_self, if_true]

theorem isBindOff_range {off : Nat} (h4 : off % 4 = 0) (hlo : 0x120 ≤ off) (hhi : off < 0x160) : isBindOff off = true := by
  simp [isBindOff, h4, hlo, hhi]

/-! ## The configuration page -/

section
variable (y : Tenant) {off : Nat} (v : Reg32)

theorem Tenant.cfgWrite_queues : (y.cfgWrite off v).queues = y.queues := by
  unfold Tenant.cfgWrite
  (repeat' split) <;> rfl

theorem Tenant.cfgWrite_seedLow (hoff : off = 0x1000) : (y.cfgWrite off v).seedShadow = setHalf false y.seedShadow v := by
  rw [Tenant.cfgWrite, if_pos (.inl hoff), hoff]
  rfl

theorem Tenant.cfgWrite_seedHigh (hoff : off = 0x1004) : (y.cfgWrite off v).seedShadow = setHalf true y.seedShadow v := by
  rw [Tenant.cfgWrite, if_pos (.inr hoff), hoff]
  rfl

/-- The window of a scale slot as a write leaves it (R57). -/
theorem Tenant.cfgWrite_window (i : Fin 16) (hoff : off = 0x1100 + 8 * i) :
    ((y.cfgWrite off v).scale i).windowShadow = windowTaken v := by
  have hi : (off - 0x1100) / 8 = i := by omega
  have hseed : ¬ (off = 0x1000 ∨ off = 0x1004) := by omega
  have hres : ¬ (off = 0x1008 ∨ off = 0x100C) := by omega
  have hwin : 0x1100 ≤ off ∧ off < 0x1180 ∧ off % 8 = 0 := by omega
  rw [Tenant.cfgWrite, if_neg hseed, if_neg hres, if_pos hwin, Tenant.scale, sget_supd, hi, if_pos rfl]

end

theorem setHalf_low_toNat (x : BitVec 64) (v : Reg32) : (setHalf false x v).toNat = x.toNat / 2 ^ 32 * 2 ^ 32 + v.toNat := by
  have hx := x.isLt
  have hv := v.isLt
  simp only [setHalf, Bool.false_eq_true, if_false, BitVec.toNat_ofNat]
  omega

theorem setHalf_high_toNat (x : BitVec 64) (v : Reg32) : (setHalf true x v).toNat = x.toNat % 2 ^ 32 + v.toNat * 2 ^ 32 := by
  have hv := v.isLt
  simp only [setHalf, if_true, BitVec.toNat_ofNat]
  omega

theorem windowTaken_toNat (v : Reg32) : (windowTaken v).toNat = max 1 (min 16 (bitsOf v.toNat 20 16)) := by
  simp only [windowTaken, BitVec.toNat_ofNat]
  omega

/-- The value that SETCFG's second word gives. -/
theorem toNat_ofNat_pf (w : BitVec 64) : (BitVec.ofNat 32 (pf w 31 0)).toNat = pf w 31 0 := by
  rw [BitVec.toNat_ofNat]
  exact Nat.mod_eq_of_lt (Nat.mod_lt _ (by decide))

theorem Tenant.cfgReg_passTurn (t q : Nat) (s : State) (off : Nat) :
    ((passTurn t q s).tenant t).cfgReg off = (s.tenant t).cfgReg off := by
  simp only [Tenant.cfgReg, passTurn_scale]
  rw [passTurn_tenant]

section
variable {t q : Nat} {p : Presented} {s : State}

theorem setcfgBody_of_idle (h1008 : pf p.w0 14 0 ≠ 0x1008) (h100C : pf p.w0 14 0 ≠ 0x100C) :
    setcfgBody t q p s =
      issueDone t q p 0 (s.modTenant t (fun y => y.cfgWrite (pf p.w0 14 0) (BitVec.ofNat 32 (pf p.w1 31 0)))) := by
  have hidle : (s.tenant t).cfgBusy (pf p.w0 14 0) (BitVec.ofNat 32 (pf p.w1 31 0)) = false := by
    simp [Tenant.cfgBusy, h1008, h100C]
  simp only [setcfgBody, writeCfg, hidle, Bool.false_eq_true, if_false]

/-- The resident-plan base of a running tenant is busy (R138, R150). -/
theorem setcfgBody_of_busy (hoff : pf p.w0 14 0 = 0x1008 ∨ pf p.w0 14 0 = 0x100C) (hst : (s.tenant t).st = .running)
    (hne : pf p.w1 31 0 ≠ (s.tenant t).cfgReg (pf p.w0 14 0)) :
    setcfgBody t q p s = issueFault t q p Code.cfgWrBusy 0 (tcxBusy t (pf p.w0 14 0) s) := by
  have hoff' : (pf p.w0 14 0 == 0x1008 || pf p.w0 14 0 == 0x100C) = true := by simpa using hoff
  have hne' : ((BitVec.ofNat 32 (pf p.w1 31 0)).toNat != (s.tenant t).cfgReg (pf p.w0 14 0)) = true := by
    rw [toNat_ofNat_pf]
    simpa using hne
  have hbusy : (s.tenant t).cfgBusy (pf p.w0 14 0) (BitVec.ofNat 32 (pf p.w1 31 0)) = true := by
    rw [Tenant.cfgBusy, hoff', hne', hst]
    rfl
  simp only [setcfgBody, hbusy, if_true]

end

section
variable {t : Ten} {q : Que} {w0 w1 : BitVec 64} {s : State} (hi : MayIssue s t q w0 w1)
include hi

theorem exec_setcfg (hop : pOp w0 = 0x30) :
    exec (.setcfg t q w0 w1) s = .next (settle t (setcfgBody t q (atHead s t q w0 w1) (passTurn t q s))) := by
  simp only [exec, execSetcfg]
  rw [present_of_mayIssue hi _ (by simp [hop])]

theorem exec_setcfg_of_idle (hop : pOp w0 = 0x30) (h1008 : pf w0 14 0 ≠ 0x1008) (h100C : pf w0 14 0 ≠ 0x100C) :
    ∃ u, exec (.setcfg t q w0 w1) s = .next u ∧ DoneAtHead s u t q w0 0 ∧ OnlyTenant t s u ∧
      (pf w0 14 0 = 0x1000 → (u.tenant t).seedShadow.toNat = (s.tenant t).seedShadow.toNat / 2 ^ 32 * 2 ^ 32 + pf w1 31 0) ∧
      (pf w0 14 0 = 0x1004 →
        (u.tenant t).seedShadow.toNat = (s.tenant t).seedShadow.toNat % 2 ^ 32 + pf w1 31 0 * 2 ^ 32) ∧
      (∀ i : Fin 16, pf w0 14 0 = 0x1100 + 8 * i →
        ((u.tenant t).scale i).windowShadow.toNat = max 1 (min 16 (bitsOf (pf w1 31 0) 20 16))) := by
  obtain ⟨hdone, honly, hten⟩ := issueDone_effect hi
    (s0 := (passTurn t q s).modTenant t (fun y => y.cfgWrite (pf w0 14 0) (BitVec.ofNat 32 (pf w1 31 0))))
    (fun r => (State.queue_modTenant_of (Tenant.cfgWrite_queues ..) r).trans (passTurn_queue ..))
    ((onlyTenant_passTurn t q s).trans (onlyTenant_modTenant ..)) (v := 0) (value := 0) rfl
  have hseed := hten.seedShadow
  have hscale (i : Nat) := hten.scale i
  rw [State.tenant_modTenant, if_pos rfl] at hseed
  simp only [State.tenant_modTenant, if_true] at hscale
  have hshadow : ((passTurn t q s).tenant t).seedShadow = (s.tenant t).seedShadow := by rw [passTurn_tenant]
  refine ⟨_, exec_setcfg hi hop, ?_⟩
  rw [setcfgBody_of_idle h1008 h100C, atHead_w0, atHead_w1]
  refine ⟨hdone, honly, fun hoff => ?_, fun hoff => ?_, fun i hoff => ?_⟩
  · rw [hseed, Tenant.cfgWrite_seedLow _ _ hoff, hshadow, setHalf_low_toNat, toNat_ofNat_pf]
  · rw [hseed, Tenant.cfgWrite_seedHigh _ _ hoff, hshadow, setHalf_high_toNat, toNat_ofNat_pf]
  · rw [hscale, Tenant.cfgWrite_window _ _ i hoff, windowTaken_toNat, toNat_ofNat_pf]

theorem exec_setcfg_of_busy (hop : pOp w0 = 0x30) (hoff : pf w0 14 0 = 0x1008 ∨ pf w0 14 0 = 0x100C)
    (hne : pf w1 31 0 ≠ (s.tenant t).cfgReg (pf w0 14 0)) :
    ∃ u, exec (.setcfg t q w0 w1) s = .next u ∧ (u.tenant t).res = (s.tenant t).res ∧ (u.tenant t).cfgWrBusy = true ∧
      (u.queue t q).head = (s.queue t q).head + BitVec.ofNat 32 (pSlots w0) := by
  have hst : ((passTurn t q s).tenant t).st = .running := by rw [passTurn_tenant]; exact hi.tenant_st
  have hne' : pf w1 31 0 ≠ ((passTurn t q s).tenant t).cfgReg (pf w0 14 0) := by rwa [Tenant.cfgReg_passTurn]
  have hq (r : Nat) : (tcxBusy t (pf w0 14 0) (passTurn t q s)).queue t r = s.queue t r := by
    rw [tcxBusy_queue, passTurn_queue]
  have hwait : NoneWaits t (tcxBusy t (pf w0 14 0) (passTurn t q s)) := fun r hr => by rw [hq, hi.noneWaits r hr]
  have hten := issueFault_only (t := t) (q := q) (p := atHead s t q w0 w1) (code := Code.cfgWrBusy) (addr := 0)
    (s := tcxBusy t (pf w0 14 0) (passTurn t q s)) (.inr rfl)
  refine ⟨_, exec_setcfg hi hop, ?_⟩
  rw [setcfgBody_of_busy hoff hst hne', atHead_w0, settle_of_noneWaits (hwait.issueFault (.inr rfl))]
  refine ⟨?_, ?_, ?_⟩
  · rw [hten.res, tcxBusy_tenant, passTurn_tenant]
  · rw [hten.cfgWrBusy, tcxBusy_tenant]
  · rw [← hq q]
    exact issueFault_head (.inr rfl) (by rw [hq, atHead_idx])

theorem exec_getcfg (hop : pOp w0 = 0x31) :
    ∃ u, exec (.getcfg t q w0 w1) s = .next u ∧ DoneAtHead s u t q w0 ((s.tenant t).cfgReg (pf w0 14 0)) ∧ OnlyTenant t s u := by
  obtain ⟨hdone, honly, -⟩ := issueDone_effect hi (s0 := passTurn t q s) (passTurn_queue t q s) (onlyTenant_passTurn t q s)
    (v := BitVec.ofNat 64 (((passTurn t q s).tenant t).cfgReg (pf w0 14 0))) (value := (s.tenant t).cfgReg (pf w0 14 0))
    (by rw [Tenant.cfgReg_passTurn])
  refine ⟨_, ?_, hdone, honly⟩
  simp only [exec, execGetcfg]
  rw [present_of_mayIssue hi _ (by simp [hop]), atHead_w0]

end

/-! ## The statement -/

section
variable {t : Ten} {s : State} (v : Reg32) (hw : s.hostWrites = true)
include hw

/-- What TCX_BIND_ARY takes, by halves. -/
theorem exec_bindingWrite_ary (hfree : (s.tenant t).st = .free) (hi : Bool) :
    ∃ u, exec (.bindingWrite t (if hi then 0x104 else 0x100) v) s = .next u ∧
      (∀ i, i < 32 → (u.tenant t).bindAry.getLsbD (b2n hi * 32 + i) = (v.getLsbD i && s.mayBindAry t (b2n hi * 32 + i))) ∧
      (∀ i, i < 32 → (u.tenant t).bindAry.getLsbD (b2n (!hi) * 32 + i) = (s.tenant t).bindAry.getLsbD (b2n (!hi) * 32 + i)) ∧
      ((u.tenant t).bindConflict = true ↔ (s.tenant t).bindConflict = true ∨
        ∃ i, i < 32 ∧ v.getLsbD i = true ∧ s.mayBindAry t (b2n hi * 32 + i) = false) := by
  refine ⟨_, exec_bindingWrite v hw (by cases hi <;> rfl), ?_⟩
  rw [writeBind_ary v hfree, State.tenant_congr (autoForm_ten _), bindArrays_tenant]
  exact ⟨fun i hlt => getLsbD_withHalf _ _ _ hlt, fun i hlt => getLsbD_withHalf_other _ _ _ hlt, by simp⟩

theorem exec_bindingWrite_key (hfree : (s.tenant t).st = .free) :
    ∃ u, exec (.bindingWrite t 0x110 v) s = .next u ∧
      (∀ i, i < 32 → (u.tenant t).bindKey.getLsbD i = (v.getLsbD i && s.mayBindKey t i)) ∧
      ((u.tenant t).bindConflict = true ↔ (s.tenant t).bindConflict = true ∨
        ∃ i, i < 32 ∧ v.getLsbD i = true ∧ s.mayBindKey t i = false) := by
  refine ⟨_, exec_bindingWrite v hw rfl, ?_⟩
  rw [writeBind_key v hfree, bindKeys_tenant]
  exact ⟨fun i hlt => getLsbD_ofNat_wordOf _ hlt, by simp⟩

theorem exec_bindingWrite_con (hfree : (s.tenant t).st = .free) (hfit : bitsOf v.toNat 7 0 + bitsOf v.toNat 16 8 ≤ 256)
    (hmay : s.mayBindCon t (bitsOf v.toNat 7 0) (bitsOf v.toNat 16 8) = true) :
    ∃ u, exec (.bindingWrite t 0x10C v) s = .next u ∧ (u.tenant t).conBase.toNat = bitsOf v.toNat 7 0 ∧
      (u.tenant t).conSize.toNat = bitsOf v.toNat 16 8 ∧ (u.tenant t).bindConflict = (s.tenant t).bindConflict := by
  refine ⟨_, exec_bindingWrite v hw rfl, ?_⟩
  rw [writeBind_con v hfree, bindCon_of_may v hfit hmay]
  refine ⟨?_, ?_, rfl⟩
  · rw [BitVec.toNat_ofNat]
    exact Nat.mod_eq_of_lt (Nat.mod_lt _ (by decide))
  · rw [BitVec.toNat_ofNat]
    exact Nat.mod_eq_of_lt (Nat.mod_lt _ (by decide))

theorem exec_bindingWrite_busy {off : Nat} (hst : (s.tenant t).st ≠ .free) (hoff : isBindOff off = true)
    (hne : v.toNat &&& bindMask off ≠ (s.tenant t).bindReg off) :
    ∃ u, exec (.bindingWrite t off v) s = .next u ∧ (u.tenant t).cfgWrBusy = true ∧ (u.tenant t).cfgOff = BitVec.ofNat 15 off ∧
      (u.tenant t).bindAry = (s.tenant t).bindAry ∧ (u.tenant t).bindReg = (s.tenant t).bindReg := by
  refine ⟨_, exec_bindingWrite v hw hoff, ?_⟩
  rw [writeBind_of_busy hst hne, tcxBusy_tenant]
  exact ⟨rfl, rfl, rfl, rfl⟩

end

/-- Settles O16: each register by its path, as the lemmas above give it. -/
theorem bindingsAndConfiguration : Obligations.BindingsAndConfiguration := by
  unfold Obligations.BindingsAndConfiguration
  intro t q w0 w1 s v off
  refine ⟨fun hw hfree => ⟨?_, fun m => ⟨?_, ?_⟩⟩,
    fun hw hfree => ⟨exec_bindingWrite_ary v hw hfree, exec_bindingWrite_key v hw hfree, exec_bindingWrite_con v hw hfree,
      fun hno => ?_⟩,
    fun hw => exec_bindingWrite_busy v hw, fun hop hi => exec_setcfg_of_idle hi hop, fun hop hi => exec_setcfg_of_busy hi hop,
    fun hop hi => exec_getcfg hi hop⟩
  · rw [exec_bindingWrite v hw rfl, writeBind_atp v hfree]
  · rw [exec_bindingWrite v hw (isBindOff_range (by omega) (by omega) (by omega)), writeBind_rangeBase v hfree]
  · rw [exec_bindingWrite v hw (isBindOff_range (by omega) (by omega) (by omega)), writeBind_rangeSize v hfree]
  · rw [exec_bindingWrite v hw rfl, writeBind_con v hfree, bindCon_of_refused v hno]

end Sys2Proof.Machine
end

section
/-! PROOFS, arrays: a slot carried out, cycles that pass without a hold, arrays of no pair and of one (R69, R71, R92). -/

namespace Sys2Proof.Machine

/-! ## A slot carried out -/

theorem Arr.doneL_of_cur {x : Arr} {k : Cur} (h : x.cur = some k) : x.doneL = { x with cur := some { k with l := false } } := by
  simp [Arr.doneL, h]

theorem Arr.doneM_of_cur {x : Arr} {k : Cur} (h : x.cur = some k) : x.doneM = { x with cur := some { k with m := false } } := by
  simp [Arr.doneM, h]

theorem Arr.doneV_of_cur {x : Arr} {k : Cur} (h : x.cur = some k) : x.doneV = { x with cur := some { k with v := false } } := by
  simp [Arr.doneV, h]

/-! ## Cycles that pass without a hold, and pairs -/

/-- No hold source becomes active up to a cycle that lies before all that are due. -/
theorem Arr.firstDue_eq_none {x : Arr} {c : Nat} (h : ∀ d ∈ x.dueHolds, c < d.cycle) : x.firstDue c = none := by
  simpa [Arr.firstDue] using h

theorem passTo_of_noneDue {a c : Nat} {s : State} (h : ∀ d ∈ (s.arr a).dueHolds, c < d.cycle) (k : State → State) :
    passTo a c k s = k (runTo a c s) := by
  rw [passTo, Arr.firstDue_eq_none h]

/-- To its present cycle an array passes no cycle. -/
theorem runTo_cyc (a : Nat) (s : State) : runTo a (s.arr a).cyc s = s.setArr a (s.arr a) := by
  simp [runTo, passCycles, noteCodes]

theorem Arr.movesAllow_false_iff {x : Arr} {c : Nat} : x.movesAllow false c = true ↔ ∀ m ∈ x.moves, c ≤ m.due := by
  simp [Arr.movesAllow]

theorem State.partner_of_unpaired {s : State} {a : Nat} (h : (s.arr a).paired = false) : s.partner a = none := by
  simp [State.partner, h]

theorem State.partner_of_paired {s : State} {a : Nat} (h : (s.arr a).paired = true) : s.partner a = some (s.arr a).partner.toNat := by
  simp [State.partner, h]

theorem modPair_of_unpaired {s : State} {a : Nat} (h : s.partner a = none) (f g : Arr → Arr) :
    modPair a f g s = s.setArr a (f (s.arr a)) := by
  rw [modPair, h]
  rfl

theorem modPair_of_paired {s : State} {a p : Nat} (h : s.partner a = some p) (hp : p ≠ a) (f g : Arr → Arr) :
    modPair a f g s = (s.setArr a (f (s.arr a))).setArr p (g (s.arr p)) := by
  simp [modPair, h, State.modArr, hp]

end Sys2Proof.Machine
end

section
/-! PROOFS, O1. The vector slot's operations on vector registers (R83, R96, R107, R108): what each puts on its way, lane by lane. -/

namespace Sys2Proof.Machine

/-! ## Sixty-four lanes, as a list and one by one -/

theorem Arr.lanes_eq_map (x : Arr) (r : Nat) : x.lanes r = (List.range 64).map (laneOf x r) := rfl

theorem lanes1_map (f : Reg32 → Reg32) (l : Nat → Cell32) :
    lanes1 f ((List.range 64).map l) = (List.range 64).map (fun i => ⟨f (l i).bits, (l i).poison⟩) := by
  simp only [lanes1, List.map_map, Function.comp_def]

/-- One register's operation, lane by lane. -/
theorem lanes1_srcA (f : Reg32 → Reg32) (x : Arr) (b : Nat) : lanes1 f (srcA x b) = (List.range 64).map (lane1 f x b) :=
  lanes1_map f (laneOf x (vA b))

/-- Two registers' operation, lane by lane. -/
theorem lanes2_src (f : Reg32 → Reg32 → Reg32) (x : Arr) (b : Nat) :
    lanes2 f (srcA x b) (srcB x b) = (List.range 64).map (lane2 f x b) := by
  simp only [lanes2, srcA, srcB, Arr.lanes_eq_map, List.zipWith_map, List.zipWith_self]
  rfl

theorem splat_eq_map (c : Cell32) : splat c = (List.range 64).map (fun _ => c) := by
  simp [splat]

theorem getD_lanes_mod (l : Nat → Cell32) (i : Nat) : ((List.range 64).map l).getD (i % 64) Cell32.init = l (i % 64) := by
  simp [List.getD, Nat.mod_lt]

/-- A reduction takes lane 0 first and lanes 1 to 63 after it, in ascending order (R107). -/
theorem reduceLanes_map (f : Reg32 → Reg32 → Reg32) (l : Nat → Cell32) :
    reduceLanes f ((List.range 64).map l) = splat
      ⟨((List.range 63).map (fun i => (l (i + 1)).bits)).foldl f (l 0).bits, (List.range 64).any (fun i => (l i).poison)⟩ := by
  have htail : ((List.range 64).map l).tail = (List.range 63).map (fun i => l (i + 1)) := by
    rw [List.range_succ_eq_map]
    simp [Function.comp_def]
  have hhead : ((List.range 64).map l).headD Cell32.init = l 0 := rfl
  rw [reduceLanes, htail, hhead, List.foldl_map, List.foldl_map, List.any_map]
  rfl

/-! ## The slot carried out -/

/-- A vector slot that waits is carried out, and its result is on its way to vD (R108). -/
theorem vecStep_of_waits {x : Arr} {k : Cur} {op : Nat} (h : SlotWaits x k Cur.v vOp op) (lat : Nat) (f : Arr → Nat → Lanes) :
    vecStep op lat f x = { x with
      cur := some { k with v := false }
      regw := (x.later (.vec x.cyc (x.cyc + lat) (vD k.bundle.toNat) (f x k.bundle.toNat))).regw } := by
  simp only [vecStep, Arr.slotOp_of_waits h, Arr.doneV_of_cur h.1, Arr.later]

/-- A command that carries out the vector slot with the lanes `g` answers with each lane that `f` gives. -/
theorem vectorAnswers_of_lanes {c : Ary → Instr} {op lat : Nat} {g : Arr → Nat → Lanes} {f : Arr → Nat → Nat → Cell32}
    (hexec : ∀ a s, exec (c a) s = .next (s.modArr a.val (vecStep op lat g)))
    (hlanes : ∀ x b, g x b = (List.range 64).map (f x b)) : VectorAnswers c op lat f := by
  intro a s k hw
  rw [hexec, State.modArr, vecStep_of_waits hw, hlanes]

/-- Settles O1: each operation's lanes, taken one by one. -/
theorem vectorOperations : Obligations.VectorOperations := by
  unfold Obligations.VectorOperations
  refine ⟨⟨?vadd, ?vsub, ?vmul, ?vfma, ?vmax, ?vmin, ?vmov, ?vbcast, ?vsplat⟩, ?vrcp, ?vrsqrt, ?vexp2, ?vrsum, ?vrmax⟩
  case vadd | vsub | vmul | vmax | vmin =>
    exact vectorAnswers_of_lanes (fun _ _ => rfl) (lanes2_src _)
  case vmov | vrcp | vrsqrt | vexp2 =>
    exact vectorAnswers_of_lanes (fun _ _ => rfl) (lanes1_srcA _)
  case vfma =>
    refine vectorAnswers_of_lanes (fun _ _ => rfl) (fun x b => ?_)
    simp only [srcA, srcB, Arr.lanes_eq_map, List.zip_map', List.zipWith_map, List.zipWith_self]
  case vbcast =>
    refine vectorAnswers_of_lanes (fun _ _ => rfl) (fun x b => ?_)
    rw [srcA, Arr.lanes_eq_map, getD_lanes_mod, splat_eq_map, lanes1_map]
  case vsplat => exact vectorAnswers_of_lanes (fun _ _ => rfl) (fun _ _ => splat_eq_map _)
  case vrsum =>
    refine vectorAnswers_of_lanes (fun _ _ => rfl) (fun x b => ?_)
    rw [srcA, Arr.lanes_eq_map, reduceLanes_map, splat_eq_map]
  case vrmax =>
    refine vectorAnswers_of_lanes (fun _ _ => rfl) (fun x b => ?_)
    rw [srcA, Arr.lanes_eq_map, reduceLanes_map, splat_eq_map, lanes1_map]

end Sys2Proof.Machine
end

section
/-! PROOFS, O3. The load slot (R97 to R104): for each operation the answer where a stop condition holds, and the array that it leaves where
none does. -/

namespace Sys2Proof.Machine

/-- An LDP in the operand port, and where its bundle says so KPOS on its way past the K-steps loaded (R99). -/
theorem Arr.startLdp_eq (x : Arr) (o : LdpOp) (b : Nat) : x.startLdp o b = { x with
    ldps := x.ldps ++ [o]
    ldpFree := x.cyc + cdiv o.grans.length 4
    regw := if lInc b then
        (x.later (.idx x.cyc (x.cyc + 1) (4 * lQuad b + 3) (BitVec.ofNat 32 (o.kpos + o.nk)))).regw
      else x.regw } := by
  unfold Arr.startLdp
  split <;> rfl

@[simp] theorem Arr.moveInc_moves (x : Arr) (b : Nat) : (x.moveInc b).moves = x.moves := by unfold Arr.moveInc; split <;> rfl
@[simp] theorem Arr.moveInc_cur (x : Arr) (b : Nat) : (x.moveInc b).cur = x.cur := by unfold Arr.moveInc; split <;> rfl
@[simp] theorem Arr.moveInc_fp (x : Arr) (b : Nat) : (x.moveInc b).fp = x.fp := by unfold Arr.moveInc; split <;> rfl

/-- The array that issues an STC, its siding words marked: of a member or a spare array the bytes enter the fingerprint (R277). -/
def Arr.issuesStc (x : Arr) (express : Bool) (con : Nat) (data : List MByte) (ue : List Nat) : Arr :=
  let w := { x with sidPoison := markWords x.sidPoison ue }
  if express then w.fingerprint con data else w

section
variable (x : Arr) (con : Nat) (data : List MByte) (ue : List Nat)

theorem Arr.issuesStc_keeps {γ : Type} (f : Arr → γ) (hf : ∀ (y : Arr) m p q, f { y with sidPoison := m, fp := p, fpPoison := q } = f y)
    (express : Bool) : f (x.issuesStc express con data ue) = f x := by
  unfold Arr.issuesStc
  split
  · exact hf x ..
  · exact hf x _ x.fp x.fpPoison

@[simp] theorem Arr.issuesStc_moves (express : Bool) : (x.issuesStc express con data ue).moves = x.moves :=
  x.issuesStc_keeps con data ue Arr.moves (fun _ _ _ _ => rfl) express

@[simp] theorem Arr.issuesStc_cur (express : Bool) : (x.issuesStc express con data ue).cur = x.cur :=
  x.issuesStc_keeps con data ue Arr.cur (fun _ _ _ _ => rfl) express

theorem Arr.issuesStc_fp (express : Bool) : (x.issuesStc express con data ue).fp =
    if express then crc64 x.fp (leBytes 4 con ++ data.map (·.1)) else x.fp := by
  unfold Arr.issuesStc
  split <;> rfl

/-- An STC that has started is the last of the moves, and its slot is carried out. -/
theorem Arr.startMove_issuesStc {k : Cur} (h : x.cur = some k) (express : Bool) (b : Nat) (m : MoveOp) :
    (((x.issuesStc express con data ue).doneL.moveInc b).startMove m).moves = x.moves ++ [m] ∧
    (((x.issuesStc express con data ue).doneL.moveInc b).startMove m).cur = some { k with l := false } ∧
    (((x.issuesStc express con data ue).doneL.moveInc b).startMove m).fp =
      if express then crc64 x.fp (leBytes 4 con ++ data.map (·.1)) else x.fp := by
  simp [Arr.startMove, Arr.doneL, Arr.issuesStc_fp, h]

end

/-- Settles O3: each operation's two answers, as its stop condition holds or none does. -/
theorem loadSlotOperations : Obligations.LoadSlotOperations := by
  unfold Obligations.LoadSlotOperations
  intro a s k ce ue x b sid con n vsid vn done
  refine ⟨fun hw he => ⟨fun c hstop => ?ldpStop, fun hstop => ?ldp⟩,
    fun hw => ⟨fun c hstop => ?ldcStop, fun hstop => ?ldc⟩, fun hw => ⟨fun c hstop => ?stcStop, fun hstop => ?stc⟩,
    fun hw => ⟨fun c hstop => ?ldvStop, fun hstop => ?ldv⟩, fun hw => ⟨fun c hstop => ?stvStop, fun hstop => ?stv⟩⟩
  case ldpStop => simp only [exec, execLdp, Arr.slotOp_of_waits hw, x, b, hstop]
  case ldcStop => simp only [exec, execLdc, Arr.slotOp_of_waits hw, x, b, sid, con, n, hstop]
  case stcStop => simp only [exec, execStc, Arr.slotOp_of_waits hw, x, b, sid, con, n, hstop]
  case ldvStop => simp only [exec, execLdv, Arr.slotOp_of_waits hw, vecBytes, x, b, vsid, vn, hstop]
  case stvStop => simp only [exec, execStv, Arr.slotOp_of_waits hw, vecBytes, x, b, vsid, vn, hstop]
  case ldp =>
    simp only [exec, execLdp, Arr.slotOp_of_waits hw, x, b, hstop, Arr.doneL_of_cur hw.1, Arr.noteDue, Arr.startLdp_eq,
      List.filter_map, List.map_map, Function.comp_def]
    rfl
  case ldc =>
    simp only [exec, execLdc, Arr.slotOp_of_waits hw, x, b, sid, con, n, hstop, Arr.doneL_of_cur hw.1]
    rfl
  case ldv =>
    simp only [exec, execLdv, Arr.slotOp_of_waits hw, vecBytes, x, b, vsid, vn, hstop,
      Arr.doneL_of_cur (x := { s.arr a with sidPoison := markWords (s.arr a).sidPoison ue }) hw.1]
  case stv =>
    simp only [exec, execStv, Arr.slotOp_of_waits hw, vecBytes, x, b, vsid, vn, hstop, Arr.doneL_of_cur hw.1]
    rfl
  case stc =>
    obtain ⟨hmoves, hcur, hfp⟩ := x.startMove_issuesStc con (sidRead a s.free { x with sidPoison := markWords x.sidPoison ue } sid n) ue
      hw.1 ((s.memberOf a).isSome || (s.spareOf a).isSome) b
      ⟨x.moveId, .stc, x.cyc, x.cyc + 48 + cdiv (lLen b) 8, sid, con, n, 0, 0,
        sidRead a s.free { x with sidPoison := markWords x.sidPoison ue } sid n, false⟩
    refine ⟨_, ?_, hmoves, hcur, fun he => hfp.trans (if_pos he), fun he => hfp.trans (if_neg he)⟩
    simp only [exec, execStc, Arr.slotOp_of_waits hw, x, b, sid, con, n, hstop]
    rfl

end Sys2Proof.Machine
end

section
/-! PROOFS, O5. MMA and MMAZ on the grid (R67, R69, R105, R106): the K-steps that they make, and the array whose grid they have taken. -/

namespace Sys2Proof.Machine

/-! ## The K-steps of an operation -/

section
variable (x : Arr) (b : Nat) (zero accBad : Bool) (par : List PlatAddr) (ue : List (Nat × Nat))

/-- The K-steps run one after the other, each for the operation's cycles per K-step (R105). -/
theorem makeKsteps_start : (makeKsteps x b zero accBad par ue).map (·.start) =
    (List.range (mNk b)).map (fun j => x.cyc + j * mmaCycles b) := by
  simp only [makeKsteps, List.map_map, Function.comp_def]

/-- Of an operation that replaces its tile the first K-step does so (R67). -/
theorem makeKsteps_zero : (makeKsteps x b zero accBad par ue).map (·.zero) =
    (List.range (mNk b)).map (fun j => zero && j == 0) := by
  simp only [makeKsteps, List.map_map, Function.comp_def]

variable {x b zero accBad par ue} in
theorem mem_makeKsteps {v : KstepOp} (h : v ∈ makeKsteps x b zero accBad par ue) :
    v.tile = mTile b ∧ (zero = false → v.zero = false) ∧ v.int = mmaInt b ∧ v.badA = accBad ∧ v.badB = accBad := by
  obtain ⟨j, -, rfl⟩ := List.mem_map.mp h
  exact ⟨rfl, fun hz => by simp [hz], rfl, rfl, rfl⟩

end

/-! ## The slot carried out -/

/-- The array whose grid an operation has taken for its K-steps, with the corrected accumulator errors that it will meet (R69, R105). -/
def Arr.tookGrid (x : Arr) (k : Cur) (ks : List KstepOp) (ce : List Nat) : Arr :=
  let b := k.bundle.toNat
  { x with
    cur := some { k with m := false }
    ksteps := x.ksteps ++ ks
    gridFree := x.cyc + mNk b * mmaCycles b
    dueHolds := x.dueHolds ++ (ce.filter (fun c => c < mNk b * mmaCycles b + 5)).map (fun c => ⟨x.cyc + c, .accCe, none⟩) }

theorem Arr.accErrors_startGrid {x : Arr} {k : Cur} (h : x.cur = some k) (ks : List KstepOp) (ce : List Nat) :
    (x.doneM.startGrid k.bundle.toNat ks).accErrors k.bundle.toNat ce = x.tookGrid k ks ce := by
  simp only [Arr.doneM_of_cur h, Arr.startGrid, Arr.accErrors, Arr.noteDue, Arr.tookGrid, List.filter_map, List.map_map,
    Function.comp_def]

section
variable {a : Ary} {s : State} {k : Cur} (ce : List Nat) (ue : List (Nat × Nat)) (par : List PlatAddr)

/-- On a busy grid neither operation starts: the array stops (R105). -/
theorem exec_mma_of_busy (hw : SlotWaits (s.arr a) k Cur.m mOp 1) (hbusy : (s.arr a).cyc < (s.arr a).gridFree) :
    exec (.mma a ce ue par) s = .next (stopAry a Code.slotOverlap s) := by
  simp only [exec, execMma, Arr.slotOp_of_waits hw, hbusy, if_true]

theorem exec_mmaz_of_busy (hw : SlotWaits (s.arr a) k Cur.m mOp 2) (hbusy : (s.arr a).cyc < (s.arr a).gridFree) :
    exec (.mmaz a ce ue par) s = .next (stopAry a Code.slotOverlap s) := by
  simp only [exec, execMmaz, Arr.slotOp_of_waits hw, hbusy, if_true]

theorem exec_mma_of_free (hw : SlotWaits (s.arr a) k Cur.m mOp 1) (hfree : (s.arr a).gridFree ≤ (s.arr a).cyc) :
    exec (.mma a ce ue par) s = .next (startDue a (s.setArr a ((s.arr a).tookGrid k
      (makeKsteps (s.arr a) k.bundle.toNat false
        ((s.arr a).tileInt.getLsbD (mTile k.bundle.toNat) != mmaInt k.bundle.toNat) par ue) ce))) := by
  simp only [exec, execMma, Arr.slotOp_of_waits hw, Nat.not_lt.mpr hfree, if_false, Arr.accErrors_startGrid hw.1]

theorem exec_mmaz_of_free (hw : SlotWaits (s.arr a) k Cur.m mOp 2) (hfree : (s.arr a).gridFree ≤ (s.arr a).cyc) :
    exec (.mmaz a ce ue par) s = .next (startDue a (s.setArr a
      { (s.arr a).tookGrid k (makeKsteps (s.arr a) k.bundle.toNat true false par ue) ce with
        tileInt := if mmaInt k.bundle.toNat then (s.arr a).tileInt ||| BitVec.ofNat 8 (2 ^ mTile k.bundle.toNat)
          else (s.arr a).tileInt &&& ~~~BitVec.ofNat 8 (2 ^ mTile k.bundle.toNat) })) := by
  simp only [exec, execMmaz, Arr.slotOp_of_waits hw, Nat.not_lt.mpr hfree, if_false, Arr.accErrors_startGrid hw.1]

end

theorem mmaInt_iff (b : Nat) : mmaInt b = true ↔ mAfmt b = 7 ∧ mBfmt b = 7 := by simp [mmaInt]

/-- Settles O5: on a busy grid the operation stops its array; on a free one its K-steps are those of `makeKsteps`. -/
theorem matrixOperationsTakeTheGrid : Obligations.MatrixOperationsTakeTheGrid := by
  unfold Obligations.MatrixOperationsTakeTheGrid
  intro a s k ce ue par x b p bit due
  refine ⟨fun hw => ⟨exec_mma_of_busy ce ue par hw, fun hfree => ?_⟩, fun hw => ⟨exec_mmaz_of_busy ce ue par hw, fun hfree => ?_⟩⟩
  · refine ⟨_, exec_mma_of_free ce ue par hw hfree, makeKsteps_start .., fun v hv => ?_⟩
    obtain ⟨htile, hzero, hint, hbadA, hbadB⟩ := mem_makeKsteps hv
    exact ⟨htile, hzero rfl, hint, hbadA, hbadB.trans hbadA.symm⟩
  · refine ⟨makeKsteps x b true false par ue, ?_, makeKsteps_start .., makeKsteps_zero .., fun v hv => ?_⟩
    · simp only [← mmaInt_iff]
      exact exec_mmaz_of_free ce ue par hw hfree
    · obtain ⟨htile, -, -, hbadA, hbadB⟩ := mem_makeKsteps hv
      exact ⟨htile, hbadA, hbadB⟩

end Sys2Proof.Machine
end

section
/-! PROOFS, O9. Waits that end, segments that overrun, quiesced arrays, A-clock stretches (R73, R74, R94, R111, R113, R114): an
equation for each command, and what the release of a barrier's round comes to. -/

namespace Sys2Proof.Machine

/-! ## WAITQ (R111, R114) -/

theorem Arr.waitqMet_of {x : Arr} {q n : Nat} (hwait : x.wait = .waitq q n) (hcount : n ≤ (sget 0 x.tq q).toNat) (hholds : x.holds = []) :
    x.waitqMet = some (q, n) := by
  simp only [Arr.waitqMet, hwait]
  exact if_pos ⟨hcount, by rw [hholds]; rfl⟩

/-- The array after its WAITQ: COUNT is taken, and the sequencer goes on `from_` cycles after the bundle's issue, or as scheduled. -/
def Arr.afterWaitq (x : Arr) (q n from_ : Nat) : Arr := { x with
  tq := sset 0 x.tq q (sget 0 x.tq q - BitVec.ofNat 16 n), wait := .none, nextIssue := max x.nextIssue (x.lastIssue + from_) }

theorem exec_waitqRelease_of_unpaired {a : Ary} {s : State} {q n : Nat} (waited : Nat) (hpaired : (s.arr a).paired = false)
    (hmet : (s.arr a).waitqMet = some (q, n)) (hback : s.heldBack a = false) :
    exec (.waitqRelease a waited) s =
      .next (s.setArr a ((s.arr a).afterWaitq q n ((s.arr a).waitCycles (waited + 1)))) := by
  have hpartner := State.partner_of_unpaired hpaired
  simp only [exec, execWaitqRelease, hpartner, hmet, hback, modPair_of_unpaired hpartner]
  rfl

/-- The two members of a pair go on in the later of their cycles (R114). -/
theorem exec_waitqRelease_of_paired {a : Ary} {s : State} {p q n q' n' : Nat} (waited : Nat) (hpaired : (s.arr a).paired = true)
    (hp : (s.arr a).partner.toNat = p) (hne : p ≠ a)
    (hmet : (s.arr a).waitqMet = some (q, n)) (hback : s.heldBack a = false)
    (hmet' : (s.arr p).waitqMet = some (q', n')) (hback' : s.heldBack p = false) :
    exec (.waitqRelease a waited) s =
      .next ((s.setArr a ((s.arr a).afterWaitq q n
          (max ((s.arr a).waitCycles (waited + 1)) ((s.arr p).waitCycles (waited + 1))))).setArr p
        ((s.arr p).afterWaitq q' n' (max ((s.arr a).waitCycles (waited + 1)) ((s.arr p).waitCycles (waited + 1))))) := by
  have hpartner : s.partner a = some p := (State.partner_of_paired hpaired).trans (congrArg some hp)
  simp only [exec, execWaitqRelease, hpartner, hmet, hback, hmet', hback', modPair_of_paired hpartner hne]
  rfl

/-! ## A barrier's release (R113) -/

/-- The release of one arrival: its array goes on if it waits at that barrier. -/
def releaseArrival (bar : Nat) (cycles : Arrival → Nat) (s : State) (v : Arrival) : State :=
  s.modArr v.ary (fun y => if !v.nowait && y.wait == .sync bar then y.endWait (cycles v) else y)

section
variable (bar : Nat) (cycles : Arrival → Nat)

theorem releaseArrival_arr_of_ne {v : Arrival} {b : Nat} (h : v.ary ≠ b) (s : State) :
    (releaseArrival bar cycles s v).arr b = s.arr b := by
  simp [releaseArrival, Ne.symm h]

theorem foldl_releaseArrival_arr_of_ne {l : List Arrival} {b : Nat} (h : ∀ v ∈ l, v.ary ≠ b) (s : State) :
    (l.foldl (releaseArrival bar cycles) s).arr b = s.arr b := by
  induction l generalizing s with
  | nil => rfl
  | cons v r ih =>
    obtain ⟨hv, hr⟩ := List.forall_mem_cons.mp h
    rw [List.foldl_cons, ih hr, releaseArrival_arr_of_ne bar cycles hv]

/-- A release leaves a sequencer that has gone on as it is. -/
theorem releaseArrival_keeps_none {b : Nat} {s : State} (h : (s.arr b).wait = .none) (v : Arrival) :
    ((releaseArrival bar cycles s v).arr b).wait = .none := by
  by_cases hv : b = v.ary
  · subst hv
    simp [releaseArrival, h]
  · rwa [releaseArrival_arr_of_ne bar cycles (Ne.symm hv)]

theorem foldl_releaseArrival_keeps_none {b : Nat} {s : State} (h : (s.arr b).wait = .none) (l : List Arrival) :
    ((l.foldl (releaseArrival bar cycles) s).arr b).wait = .none := by
  induction l generalizing s with
  | nil => exact h
  | cons v r ih => exact ih (releaseArrival_keeps_none bar cycles h v)

/-- A release leaves an array waiting at the barrier, or lets it go. -/
theorem releaseArrival_sync_or_none {b : Nat} {s : State} (h : (s.arr b).wait = .sync bar) (v : Arrival) :
    ((releaseArrival bar cycles s v).arr b).wait = .sync bar ∨ ((releaseArrival bar cycles s v).arr b).wait = .none := by
  by_cases hv : b = v.ary
  · subst hv
    cases hn : v.nowait
    · exact .inr (by simp [releaseArrival, h, hn, Arr.endWait])
    · exact .inl (by simp [releaseArrival, h, hn])
  · exact .inl (by rwa [releaseArrival_arr_of_ne bar cycles (Ne.symm hv)])

/-- Every waiting participant of the round goes on. -/
theorem foldl_releaseArrival_wait {l : List Arrival} {v : Arrival} (hv : v ∈ l) (hn : v.nowait = false) {s : State}
    (h : (s.arr v.ary).wait = .sync bar) : ((l.foldl (releaseArrival bar cycles) s).arr v.ary).wait = .none := by
  induction l generalizing s with
  | nil => cases hv
  | cons u r ih =>
    rw [List.foldl_cons]
    rcases List.mem_cons.mp hv with rfl | hr
    · refine foldl_releaseArrival_keeps_none bar cycles ?_ r
      simp [releaseArrival, h, hn, Arr.endWait]
    · rcases releaseArrival_sync_or_none bar cycles h u with hs | hs
      · exact ih hr hs
      · exact foldl_releaseArrival_keeps_none bar cycles hs r

end

/-- Of a round of one arrival the release comes 24 cycles after it, whatever else has been waited. -/
theorem pairSyncCycles_alone (s : State) (w : List (Ary × Nat)) (v : Arrival) :
    pairSyncCycles s [v] w v = (s.arr v.ary).waitCycles (v.cyc + 24 - (s.arr v.ary).lastIssue) := by
  have hown : syncCycles s [v] w v = (s.arr v.ary).waitCycles (v.cyc + 24 - (s.arr v.ary).lastIssue) := by
    simp [syncCycles]
  unfold pairSyncCycles
  split
  · exact hown
  next u hu =>
    obtain ⟨p, -, hfind⟩ := Option.bind_eq_some_iff.mp hu
    have hmem := List.mem_of_find?_eq_some hfind
    rw [List.mem_singleton.mp hmem, hown, max_self]

/-- The full barrier of a tenant that is not armed releases its round and starts the next. -/
theorem exec_syncRelease_of_unarmed {s : State} {t : Ten} {bar : Fin 16} (w : List (Ary × Nat))
    (hfull : ((s.tenant t).barrier bar).full = true) (hx : s.tenantXid t = none) :
    exec (.syncRelease t bar w) s = .next
      ((((s.tenant t).barrier bar).round.foldl
        (releaseArrival bar (pairSyncCycles s ((s.tenant t).barrier bar).round w)) s).modTenant t
          (fun y => { y with barriers := sset Barrier.init y.barriers bar ((s.tenant t).barrier bar).after })) := by
  simp only [exec, execSyncRelease, hfull, hx]
  rfl

/-! ## Segments (R74) -/

section
variable {a : Ary} {s : State} (hactive : (s.arr a).active.isSome = true) (hnew : (s.arr a).segNew = false)
  (hdone : (s.arr a).curDone = true) (hback : s.heldBack a = false)
include hactive hnew hdone hback

theorem exec_segOverrun_of_wait (hst : (s.arr a).st = .run) (hholds : (s.arr a).holds = []) (hwait : (s.arr a).wait ≠ .none)
    (hmoves : ∀ m ∈ (s.arr a).moves, (s.arr a).cyc + (s.arr a).segLeft ≤ m.due)
    (hdue : ∀ h ∈ (s.arr a).dueHolds, (s.arr a).cyc + (s.arr a).segLeft < h.cycle) :
    exec (.segOverrun a (s.arr a).segLeft) s =
      .next (stopAry a Code.segOverrun (runTo a ((s.arr a).cyc + (s.arr a).segLeft) s)) := by
  simp [exec, execSegOverrun, hst, hactive, hnew, hdone, hback, hholds, hwait, Arr.movesAllow_false_iff.mpr hmoves,
    passTo_of_noneDue hdue]

theorem exec_segOverrun_of_hold (hst : (s.arr a).st = .hold) (hholds : (s.arr a).holds ≠ []) (hpaired : (s.arr a).paired = false) :
    exec (.segOverrun a (s.arr a).segLeft) s =
      .next (stopAry a Code.segOverrun (s.setArr a ((s.arr a).countHeld ((s.arr a).heldNow + (s.arr a).segLeft)))) := by
  simp [exec, execSegOverrun, hst, hactive, hnew, hdone, hback, hholds, modPair_of_unpaired (State.partner_of_unpaired hpaired)]

end

/-! ## The pause and the resume (R94, R141) -/

section
variable {a : Ary} {s : State}

theorem exec_arrayPause_of_quiet (hst : (s.arr a).st = .run) (hactive : (s.arr a).active.isSome = true)
    (hstop : (s.arr a).stopHere = true) (hq : (s.arr a).quiesce = true) (hwait : (s.arr a).wait = .none) (hmoves : (s.arr a).moves = [])
    (hpass : s.canPass a (s.arr a).lastBusy = true) (hlast : (s.arr a).lastBusy = (s.arr a).cyc)
    (hdue : ∀ h ∈ (s.arr a).dueHolds, (s.arr a).cyc < h.cycle) :
    exec (.arrayPause a) s = .next (takeQuiet a ((s.setArr a (s.arr a)).setArr a { s.arr a with st := .paused })) := by
  rw [hlast] at hpass
  simp [exec, execArrayPause, hst, hactive, hstop, hq, hwait, hmoves, hpass, hlast, passTo_of_noneDue hdue, runTo_cyc, State.modArr]

/-- No tenant that a firmware restart has paused: none goes on. -/
theorem foldl_settleFw_of_none {s : State} (h : ∀ t : Ten, (s.tenant t).whyFw = false) :
    (List.range 32).foldl (fun s t => settleFw t s) s = s := by
  refine List.foldlRecOn (motive := fun u => u = s) _ _ rfl fun u hu t ht => ?_
  subst hu
  have hfw : (u.tenant t).whyFw = false := h ⟨t, List.mem_range.mp ht⟩
  simp [settleFw, hfw]

theorem exec_arrayResume_of_over (hq : (s.arr a).quiesce = true) (hst : (s.arr a).st = .paused) (hover : s.quiesced a = false)
    (hfw : ∀ t : Ten, (s.tenant t).whyFw = false) :
    exec (.arrayResume a) s =
      .next (s.setArr a { s.arr a with quiesce := false, st := .run, nextIssue := (s.arr a).cyc + 1 }) := by
  have hrest : ∀ y : Arr, (List.range 32).foldl (fun s t => settleFw t s) (s.setArr a y) = s.setArr a y :=
    fun y => foldl_settleFw_of_none hfw
  simp [exec, execArrayResume, hq, hst, hover, hrest, State.modArr]

end

/-! ## Stretches of the A-clock (R73) -/

section
variable {a : Ary} {s : State} {amount : BitVec 8}

theorem exec_avsStretch_of_express (h : s.aryExpress a = true) : exec (.avsStretch a amount) s = .next s := by
  simp [exec, execAvsStretch, h]

theorem exec_avsStretch_of_plain (h : s.aryExpress a = false) (hpos : 0 < amount.toNat) (hle : amount.toNat ≤ 60) :
    exec (.avsStretch a amount) s = .next (s.setArr a
      (if (s.arr a).stretchNow s.glb.devTime = 0 then
        { s.arr a with stretch := amount, avsEvents := satAdd (s.arr a).avsEvents 1, avsSince := s.glb.devTime }
      else { s.arr a with stretch := amount })) := by
  have hne : amount ≠ 0 := by rintro rfl; exact absurd hpos (by decide)
  have hgoes : (s.aryExpress a || decide (60 < amount.toNat) || amount == 0) = false := by
    rw [h, decide_eq_false (Nat.not_lt.mpr hle), beq_eq_false_iff_ne.mpr hne]
    rfl
  simp only [exec, execAvsStretch, hgoes, Bool.false_eq_true, if_false]
  rfl

end

/-- Settles O9: each clause by its command's equation; what the round of a barrier releases by the lemmas on `releaseArrival`. -/
theorem waitsSegmentsAndStretches : Obligations.WaitsSegmentsAndStretches := by
  unfold Obligations.WaitsSegmentsAndStretches
  refine ⟨fun a s q n waited t bar w => ⟨fun hwait hcount hholds hback => ⟨fun hpaired => ?alone, ?pair⟩, fun hfull hx => ?sync⟩,
    fun a s amount => ⟨fun hactive hnew hdone hback => ⟨?wait, ?hold⟩, ?pause, exec_arrayResume_of_over, ?stretch,
      exec_avsStretch_of_express, rfl⟩⟩
  case alone => exact exec_waitqRelease_of_unpaired waited hpaired (Arr.waitqMet_of hwait hcount hholds) hback
  case pair =>
    intro p q' n' hpaired hp hne hwait' hcount' hholds' hback'
    exact exec_waitqRelease_of_paired waited hpaired hp hne (Arr.waitqMet_of hwait hcount hholds) hback
      (Arr.waitqMet_of hwait' hcount' hholds') hback'
  case sync =>
    refine ⟨_, exec_syncRelease_of_unarmed w hfull hx, by simp [Tenant.barrier], fun b hb => ?_, fun v hv hn hwait => ?_,
      fun v hv hn hwait => ?_⟩
    · exact foldl_releaseArrival_arr_of_ne _ _ hb s
    · exact foldl_releaseArrival_wait _ _ hv hn hwait
    · simp [hv, releaseArrival, hn, hwait, Arr.endWait, pairSyncCycles_alone, Arr.waitCycles]
  case wait =>
    intro hst hholds hwait hmoves hdue
    exact exec_segOverrun_of_wait hactive hnew hdone hback hst hholds hwait hmoves hdue
  case hold =>
    intro hst hholds hpaired
    exact exec_segOverrun_of_hold hactive hnew hdone hback hst hholds hpaired
  case pause =>
    intro hst hactive hstop hq hwait hmoves hpass hlast hdue
    exact exec_arrayPause_of_quiet hst hactive hstop hq hwait hmoves hpass hlast hdue
  case stretch =>
    intro h hpos hle
    refine ⟨_, exec_avsStretch_of_plain h hpos hle, ?_, fun hnow => ?_, fun hnow => ?_⟩
    · split <;> rfl
    · rw [if_pos hnow]
      exact ⟨rfl, rfl⟩
    · rw [if_neg hnow]
      exact ⟨rfl, rfl⟩

end Sys2Proof.Machine
end

section
/-! PROOFS, bundles, moves and holds (R69 to R71, R90 to R94, R101, R103, R116, R220, R295): what BUNDLE_ISSUE, MOVE_COMPLETE,
LOAD_MOVE_DUE and ARRAY_HOLD_RELEASE do. A completed STC meets the moves of other arrays across its bytes, each byte of them as the open
constant `Config.moveTakesLater` has it (R116, notes/assumptions/9.md): that it leaves every other array as it was holds just where that
constant takes the later value nowhere, which nothing in Lean decides. The rest holds whatever the constant is. -/

namespace Sys2Proof.Machine

/-! ## The issue of a bundle (R91, R94) -/

section
variable {a : Ary} {s : State} (hst : (s.arr a).st = .run) (hholds : (s.arr a).holds = []) (hactive : (s.arr a).active.isSome = true)
  (hwait : (s.arr a).wait = .none) (hdone : (s.arr a).curDone = true) (hq : (s.arr a).stopHere = false ∨ (s.arr a).quiesce = false)
  (hmoves : ∀ m ∈ (s.arr a).moves, (s.arr a).nextIssue < m.due) (hcyc : (s.arr a).cyc ≤ (s.arr a).nextIssue)
  (hseg : (s.arr a).segNew = true ∨
    (s.arr a).segCount + ((s.arr a).nextIssue - (s.arr a).cyc) < (s.arr a).segLimit.toNat)
  (hback : s.heldBack a = false) (hcut : s.cutShort a = false) (hpair : s.pairAllows true a (s.arr a).nextIssue = true)
include hst hholds hactive hwait hdone hq hmoves hcyc hseg hback hcut hpair

/-- What keeps a bundle from issuing, each kept out (R91, R94). -/
theorem canIssue_of_unhindered : s.canIssue a = true := by
  have hallow : (s.arr a).movesAllow true (s.arr a).nextIssue = true := by simpa [Arr.movesAllow] using hmoves
  have hlimit : (s.arr a).segAllows (s.arr a).nextIssue = true := by simpa [Arr.segAllows] using hseg
  have hgoes : ((s.arr a).stopHere && (s.arr a).quiesce) = false := by rcases hq with h | h <;> simp [h]
  simp [State.canIssue, hst, hholds, hactive, hwait, hdone, hgoes, hallow, hcyc, hlimit, hback, hcut, hpair]

end

section
variable {a : Ary} {s : State} (hissue : s.canIssue a = true)
include hissue

/-- With no hold source on the way the bundle issues, or stops the array where it is uncorrectable (R90, R91). -/
theorem exec_bundleIssue_of_noneDue (hlater : ∀ h ∈ (s.arr a).dueHolds, (s.arr a).nextIssue < h.cycle) (ue : Bool) :
    exec (.bundleIssue a ue) s = .next (if ue then stopAry a Code.uePoison (runTo a (s.arr a).nextIssue s)
      else (runTo a (s.arr a).nextIssue s).modArr a (issueBundle a)) := by
  simp only [exec, execBundleIssue, hissue, if_true, passTo_of_noneDue hlater]

/-- Where one becomes active on the way, the array holds there (R69). -/
theorem exec_bundleIssue_of_due {n : Nat} (hdue : (s.arr a).firstDue (s.arr a).nextIssue = some n) (ue : Bool) :
    exec (.bundleIssue a ue) s = .next (startDue a (runTo a n s)) := by
  simp only [exec, execBundleIssue, hissue, if_true, passTo, hdue]

end

/-! ## Recording leaves the arrays alone -/

@[simp] theorem record_ary (c : BitVec 16) (t : Option Nat) (unit arg addr : Nat) (s : State) :
    (record c t unit arg addr s).ary = s.ary := record_keeps State.ary (fun _ _ _ _ _ _ _ => rfl) ..

theorem State.arr_congr {s u : State} (h : u.ary = s.ary) (b : Nat) : u.arr b = s.arr b := by
  simp [State.arr, h]

@[simp] theorem noteUe_ary (t : Option Nat) (code : BitVec 16) (addr : Nat) (s : State) : (noteUe t code addr s).ary = s.ary := by
  unfold noteUe
  split <;> rfl

@[simp] theorem noteCodes_ary (a : Nat) (l : List (BitVec 16)) (s : State) : (noteCodes a l s).ary = s.ary := by
  induction l generalizing s with
  | nil => rfl
  | cons c r ih => simp only [noteCodes, ih]; (repeat' split) <;> simp

@[simp] theorem noteCodes_arr (a : Nat) (l : List (BitVec 16)) (s : State) (b : Nat) : (noteCodes a l s).arr b = s.arr b :=
  State.arr_congr (noteCodes_ary a l s) b

/-! ## Bytes written meet the moves in flight (R116) -/

/-- Two arrays that differ in the bytes of their moves at most. -/
def Arr.SameButBytes (x y : Arr) : Prop := y = { x with moves := y.moves } ∧ y.moves.map (·.id) = x.moves.map (·.id)

theorem Arr.SameButBytes.refl (x : Arr) : x.SameButBytes x := ⟨rfl, rfl⟩

theorem Arr.SameButBytes.trans {x y z : Arr} (h : x.SameButBytes y) (h' : y.SameButBytes z) : x.SameButBytes z := by
  refine ⟨?_, h'.2.trans h.2⟩
  rw [h'.1, h.1]

@[simp] theorem MoveOp.conTouched_id (p : Part) (a f cyc addr : Nat) (l : List MByte) (m : MoveOp) :
    (MoveOp.conTouched p a f cyc addr l m).id = m.id := by
  unfold MoveOp.conTouched
  split <;> rfl

/-- An array after bytes have been written to the concourse. -/
def Arr.metBytes (p : Part) (b f addr : Nat) (l : List MByte) (x : Arr) : Arr :=
  { x with moves := x.moves.map (MoveOp.conTouched p b f x.cyc addr l) }

theorem Arr.sameButBytes_metBytes (p : Part) (b f addr : Nat) (l : List MByte) (x : Arr) : x.SameButBytes (x.metBytes p b f addr l) :=
  ⟨rfl, by simp [Arr.metBytes, Function.comp_def]⟩

theorem sget_map_val {α : Type} {d : α} (g : Nat → α → α) (hd : ∀ k, g k d = d) (m : Store α) (j : Nat) :
    sget d (m.map (fun e => (e.1, g e.1 e.2))) j = g j (sget d m j) := by
  induction m with
  | nil => exact (hd j).symm
  | cons e r ih =>
    simp only [List.map_cons, sget, ih]
    split
    next h => rw [h]
    · rfl

theorem conWrite_arr (addr : Nat) (l : List MByte) (s : State) (b : Nat) :
    (conWrite addr l s).arr b = (s.arr b).metBytes (s.part b) b s.free addr l :=
  sget_map_val (d := Arr.init) (fun b x => x.metBytes (s.part b) b s.free addr l) (fun _ => rfl) s.ary b

theorem partWrite_sameButBytes (p : Part) (x : Nat) (l : List MByte) (s : State) (b : Nat) :
    (s.arr b).SameButBytes ((partWrite p x l s).arr b) := by
  refine List.foldlRecOn (motive := fun u : State => (s.arr b).SameButBytes (u.arr b)) _ _ (.refl _) fun u hu r _ => hu.trans ?_
  rw [conWrite_arr]
  exact Arr.sameButBytes_metBytes ..

theorem partWrite_mtc_congr {s u : State} (h : u.mtc = s.mtc) (p : Part) (x : Nat) (l : List MByte) :
    (partWrite p x l u).mtc = (partWrite p x l s).mtc := by
  unfold partWrite
  generalize p.runs _ x l = rs
  induction rs generalizing s u with
  | nil => exact h
  | cons r rs ih => exact ih (by simp only [conWrite, h])

theorem Arr.metBytes_of_never (h : ∀ b c x f, Config.moveTakesLater b c x f = false) (p : Part) (b f addr : Nat) (l : List MByte)
    (x : Arr) : x.metBytes p b f addr l = x := by
  have hm : x.moves.map (MoveOp.conTouched p b f x.cyc addr l) = x.moves := by
    refine (List.map_congr_left fun m _ => ?_).trans (List.map_id _)
    unfold MoveOp.conTouched
    split
    · simp [h]
    · rfl
  rw [Arr.metBytes, hm]

theorem partWrite_arr_of_never (h : ∀ b c x f, Config.moveTakesLater b c x f = false) (p : Part) (x : Nat) (l : List MByte)
    (s : State) (b : Nat) : (partWrite p x l s).arr b = s.arr b := by
  refine List.foldlRecOn (motive := fun u : State => u.arr b = s.arr b) _ _ rfl fun u hu r _ => ?_
  rw [conWrite_arr, Arr.metBytes_of_never h, hu]

/-! ## A move lands (R101, R103) -/

@[simp] theorem MoveOp.touched_id (a f cyc addr : Nat) (l : List MByte) (m : MoveOp) : (m.touched a f cyc addr l).id = m.id := rfl

@[simp] theorem MoveOp.meetVec_id (issued due r : Nat) (m : MoveOp) : (MoveOp.meetVec issued due r m).id = m.id := by
  unfold MoveOp.meetVec
  split <;> rfl

/-- What landing results leave of an array that no result enters. -/
theorem landRegs_keeps {γ : Type} (f : Arr → γ) (hregw : ∀ (x : Arr) w, f { x with regw := w } = f x)
    (happly : ∀ (x : Arr) w, f (RegWrite.apply w x) = f x) (x : Arr) : f (landRegs x) = f x :=
  (foldl_keeps f _ _ _ happly).trans (hregw ..)

theorem Arr.setIr_keeps {γ : Type} (f : Arr → γ) (hireg : ∀ (x : Arr) w, f { x with ireg := w } = f x) (x : Arr) (r : Nat) (v : Reg32) :
    f (x.setIr r v) = f x := by
  unfold Arr.setIr
  split
  · rfl
  · exact hireg ..

@[simp] theorem landRegs_ids (x : Arr) : (landRegs x).moves.map (·.id) = x.moves.map (·.id) := by
  refine landRegs_keeps (fun y => y.moves.map (·.id)) (fun _ _ => rfl) (fun y w => ?_) x
  cases w with
  | idx i d r v => exact Arr.setIr_keeps (fun y => y.moves.map (·.id)) (fun _ _ => rfl) ..
  | vec i d r v => simp [RegWrite.apply, Function.comp_def]

@[simp] theorem landRegs_syncs (x : Arr) : (landRegs x).syncs = x.syncs := by
  refine landRegs_keeps Arr.syncs (fun _ _ => rfl) (fun y w => ?_) x
  cases w with
  | idx i d r v => exact Arr.setIr_keeps Arr.syncs (fun _ _ => rfl) ..
  | vec i d r v => rfl

@[simp] theorem Arr.later_moves (x : Arr) (w : RegWrite) : (x.later w).moves = x.moves := rfl
@[simp] theorem Arr.later_syncs (x : Arr) (w : RegWrite) : (x.later w).syncs = x.syncs := rfl

theorem Arr.lanes_setLanes (x : Arr) (r : Nat) {l : Lanes} (hl : l.length = 64) : (x.setLanes r l).lanes r = l := by
  refine List.ext_getElem (by simp [Arr.lanes, sgetRun, hl]) fun i hi hi' => ?_
  have hin : i < 64 := hl ▸ hi'
  simp [Arr.lanes, sgetRun, Arr.setLanes, sget_ssetRun, hl, hin]

/-- The one result on its way reaches its register when its cycle has come. -/
theorem lanes_landRegs_later {x : Arr} (hregw : x.regw = []) {d : Nat} (hd : d ≤ x.cyc) (i r : Nat) {l : Lanes} (hl : l.length = 64) :
    (landRegs (x.later (.vec i d r l))).lanes r = l := by
  have hcome : ((x.later (.vec i d r l)).regw.filter (fun w => decide (w.due ≤ (x.later (.vec i d r l)).cyc))) = [.vec i d r l] := by
    simp [Arr.later, hregw, RegWrite.due, hd]
  rw [landRegs, hcome]
  exact Arr.lanes_setLanes _ r hl

@[simp] theorem length_ldvLanes (fmt : Nat) (data : List MByte) : (ldvLanes fmt data).length = 64 := by simp [ldvLanes]

theorem sidWrite_ids (a f addr : Nat) (l : List MByte) (x : Arr) : (sidWrite a f addr l x).moves.map (·.id) = x.moves.map (·.id) := by
  simp [sidWrite, Function.comp_def]

theorem Arr.landLdc_keeps {γ : Type} (g : Arr → γ) (hearly : ∀ (y : Arr) e, g { y with early := e } = g y) (a f : Nat) (m : MoveOp)
    (x : Arr) : g (x.landLdc a f m) = g (sidWrite a f m.sid m.data x) := by
  unfold Arr.landLdc
  split
  · rfl
  · exact hearly ..

/-- The array without the move that completes. -/
def Arr.dropMove (x : Arr) (id : Nat) : Arr := { x with moves := x.moves.filter (fun n => n.id != id) }

section
variable {a : Nat} {m : MoveOp} (s : State)

theorem landMove_stc (hk : m.kind = .stc) :
    landMove a m s = partWrite (s.part a) m.con m.data (s.setArr a ((s.arr a).dropMove m.id)) := by
  simp only [landMove, hk]
  rfl

theorem landMove_arr_of_ne {b : Nat} (hb : b ≠ a) (hk : m.kind ≠ .stc) : (landMove a m s).arr b = s.arr b := by
  cases h : m.kind
  case stc => exact absurd h hk
  all_goals simp [landMove, h, hb]

/-- The move that lands leaves the list of moves. -/
theorem landMove_ids : ((landMove a m s).arr a).moves.map (·.id) = ((s.arr a).moves.filter (fun n => n.id != m.id)).map (·.id) := by
  cases h : m.kind
  case stc =>
    rw [landMove_stc s h, (partWrite_sameButBytes ..).2]
    simp [Arr.dropMove]
  case ldc => simp [landMove, h, Arr.landLdc_keeps (fun y => y.moves.map (·.id)), sidWrite_ids]
  case stv => simp [landMove, h, sidWrite_ids]
  case ldv => cases hb : m.beaten <;> simp [landMove, h, hb]

theorem landMove_syncs : ((landMove a m s).arr a).syncs = (s.arr a).syncs := by
  cases h : m.kind
  case stc =>
    rw [landMove_stc s h, (partWrite_sameButBytes ..).1]
    simp [Arr.dropMove]
  case ldc => simp [landMove, h, Arr.landLdc_keeps Arr.syncs, sidWrite]
  case stv => simp [landMove, h, sidWrite]
  case ldv => cases hb : m.beaten <;> simp [landMove, h, hb]

theorem landMove_sid (hk : m.kind = .ldc ∨ m.kind = .stv) : ((landMove a m s).arr a).sid = putBytes (s.arr a).sid m.sid m.data := by
  rcases hk with h | h
  · simp [landMove, h, Arr.landLdc_keeps Arr.sid, sidWrite]
  · simp [landMove, h, sidWrite]

theorem landMove_lanes (hk : m.kind = .ldv) (hb : m.beaten = false) (hdue : m.due ≤ (s.arr a).cyc) (hregw : (s.arr a).regw = []) :
    ((landMove a m s).arr a).lanes m.vreg = ldvLanes m.fmt.toNat m.data := by
  simp only [landMove, hk, hb, noteCodes_arr, State.arr_setArr, if_true, Bool.false_eq_true, if_false]
  exact lanes_landRegs_later (x := (s.arr a).dropMove m.id) hregw hdue _ _ (length_ldvLanes ..)

end

/-! ## MOVE_COMPLETE on an array that nothing holds (R101, R103, R295) -/

theorem syncIfReady_of_none {a : Nat} {s : State} (h : (s.arr a).syncs = []) (split : Bool) :
    syncIfReady a split s = s.setArr a (s.arr a) := by
  have hx : { s.arr a with syncs := [] } = s.arr a := by rw [← h]
  simp only [syncIfReady, h, List.filter_nil, List.foldl_nil, hx]

@[simp] theorem MoveOp.overFabric_id (flits : List Nat) (m : MoveOp) : (m.overFabric flits).id = m.id := by
  unfold MoveOp.overFabric
  split <;> rfl

@[simp] theorem MoveOp.overFabric_kind (flits : List Nat) (m : MoveOp) : (m.overFabric flits).kind = m.kind := by
  unfold MoveOp.overFabric
  split <;> rfl

@[simp] theorem MoveOp.overFabric_sid (flits : List Nat) (m : MoveOp) : (m.overFabric flits).sid = m.sid := by
  unfold MoveOp.overFabric
  split <;> rfl

/-- Lost flits mark the bytes of a move and leave their values (R220). -/
theorem MoveOp.overFabric_bytes (flits : List Nat) (m : MoveOp) : (m.overFabric flits).data.map (·.1) = m.data.map (·.1) := by
  unfold MoveOp.overFabric
  split
  · refine List.ext_getElem (by simp [markLost]) fun i hi hi' => ?_
    simp [markLost]
  · rfl

theorem putBytes_overFabric (sid : List Host.Cell) (addr : Nat) (flits : List Nat) (m : MoveOp) :
    putBytes sid addr (m.overFabric flits).data = putBytes sid addr m.data := by
  rw [putBytes, MoveOp.overFabric_bytes, putBytes]

/-- The move lands, and poison that an STC delivers is noted for the fingerprint (R295). -/
theorem exec_moveComplete_of_unheld {a : Ary} {s : State} {m : MoveOp} (held : Nat) (split : Bool) (flits : List Nat)
    (hfind : (s.arr a).moves.find? (fun v => v.id == m.id) = some m) (hholds : (s.arr a).holds = []) (hsyncs : (s.arr a).syncs = []) :
    ∃ t, exec (.moveComplete a m.id held split flits) s = .next t ∧ t.mtc = (landMove a (m.overFabric flits) s).mtc ∧
      t.arr a = { (landMove a (m.overFabric flits) s).arr a with
        fpPoison := ((landMove a (m.overFabric flits) s).arr a).fpPoison || (m.kind == .stc && !flits.isEmpty) } ∧
      ∀ b, b ≠ a.val → t.arr b = (landMove a (m.overFabric flits) s).arr b := by
  have hlanded : ((landMove a (m.overFabric flits) s).arr a).syncs = [] := (landMove_syncs s).trans hsyncs
  simp only [exec, execMoveComplete, hfind, hholds, List.any_nil, Bool.and_false, Bool.false_and, Bool.false_eq_true, if_false]
  cases hdark : m.kind == .stc && !flits.isEmpty
  · rw [if_neg Bool.false_ne_true, syncIfReady_of_none hlanded]
    exact ⟨_, rfl, rfl, by simp, fun b hb => by simp [hb]⟩
  · rw [if_pos rfl, syncIfReady_of_none (by simpa using hlanded)]
    exact ⟨_, rfl, rfl, by simp, fun b hb => by simp [hb]⟩

/-! ## Holds of an array of no pair (R69, R70, R72) -/

section
variable {a : Nat} {s : State} (hpaired : (s.arr a).paired = false)
include hpaired

theorem settleHolds_of_unpaired :
    settleHolds a s = s.setArr a (if (s.arr a).ownHolds.isEmpty then (s.arr a).followPartner false else s.arr a) := by
  rw [settleHolds, State.partner_of_unpaired hpaired]
  rfl

end

/-- A corrected error is counted at its array too (R72). -/
theorem startHold_ary (a : Nat) (src : HoldSrc) (len : Option Nat) (s : State) :
    let u := settleHolds a (s.setArr a ((s.arr a).addHold ⟨src, len.map (· + (s.arr a).heldNow)⟩))
    (startHold a src len s).ary =
      (if correctedSrc src then u.modArr a (fun y => { y with ceStall := satAdd y.ceStall 1 }) else u).ary := by
  simp only [startHold]
  split
  · rw [record_ary]
  · rfl

/-- A source of an array of no pair holds that array alone. -/
theorem startHold_arr_of_unpaired {a : Nat} {s : State} (hpaired : (s.arr a).paired = false) {src : HoldSrc} (hsrc : src ≠ .pair)
    (len : Option Nat) :
    let x := (s.arr a).addHold ⟨src, len.map (· + (s.arr a).heldNow)⟩
    (startHold a src len s).arr a = if correctedSrc src then { x with ceStall := satAdd x.ceStall 1 } else x := by
  intro x
  have hp : ((s.setArr a x).arr a).paired = false := by simpa [x, Arr.addHold] using hpaired
  have hown : x.ownHolds ≠ [] := by simp [x, Arr.ownHolds, Arr.addHold, hsrc]
  have hsettled : (settleHolds a (s.setArr a x)).arr a = x := by
    rw [settleHolds_of_unpaired hp]
    simp [hown]
  rw [State.arr_congr (startHold_ary a src len s)]
  split
  · rw [State.arr_modArr, if_pos rfl, hsettled]
  · exact hsettled

/-- Where nothing held it, the array holds from then on with that source (R69, R70). -/
theorem startHold_holds_of_unpaired {a : Nat} {s : State} (hpaired : (s.arr a).paired = false) (hholds : (s.arr a).holds = [])
    {src : HoldSrc} (hsrc : src ≠ .pair) :
    ((startHold a src none s).arr a).holds = [⟨src, none⟩] ∧ ((s.arr a).st = .run → ((startHold a src none s).arr a).st = .hold) := by
  rw [startHold_arr_of_unpaired hpaired hsrc]
  split <;> simp +contextual [Arr.addHold, hholds]

theorem logConRow_arr (addr : Nat) (s : State) (b : Nat) : (logConRow addr s).arr b = s.arr b := rfl

/-- A move still out in its due cycle holds its array, with CON_CE where a corrected error delays an LDC (R70). -/
theorem exec_loadMoveDue_of_unpaired {a : Ary} {s : State} {m : MoveOp} (ce : Option Nat)
    (hfind : (s.arr a).moves.find? (fun v => v.id == m.id) = some m) (hdue : (s.arr a).cyc = m.due) (hholds : (s.arr a).holds = [])
    (hpaired : (s.arr a).paired = false) (hlater : ∀ g ∈ (s.arr a).dueHolds, m.due < g.cycle) :
    ∃ t, exec (.loadMoveDue a m.id ce) s = .next t ∧
      (t.arr a).holds = [⟨if m.kind = .ldc ∧ ce.isSome then .conCe else .conLate, none⟩] ∧
      ((s.arr a).st = .run → (t.arr a).st = .hold) := by
  have hrun : runTo a m.due s = s.setArr a (s.arr a) := hdue ▸ runTo_cyc a s
  have harr : (s.setArr a (s.arr a)).arr a = s.arr a := by simp
  have hhold : ∀ src : HoldSrc, src ≠ .pair →
      ((startHold a src none (s.setArr a (s.arr a))).arr a).holds = [⟨src, none⟩] ∧
        ((s.arr a).st = .run → ((startHold a src none (s.setArr a (s.arr a))).arr a).st = .hold) := fun src hsrc => by
    have h := startHold_holds_of_unpaired (s := s.setArr a (s.arr a)) (harr.symm ▸ hpaired) (harr.symm ▸ hholds) hsrc
    rwa [harr] at h
  simp only [exec, execLoadMoveDue, hfind, hdue, hholds, List.any_nil, beq_self_eq_true, Bool.not_false, Bool.and_self, Bool.true_or,
    if_true, passTo_of_noneDue hlater, hrun]
  by_cases hk : m.kind = .ldc
  · cases ce with
    | none => exact ⟨_, rfl, by simpa [hk] using hhold .conLate (by decide)⟩
    | some addr => exact ⟨_, rfl, by simpa [hk, logConRow_arr] using hhold .conCe (by decide)⟩
  · exact ⟨_, rfl, by simpa [hk] using hhold .conLate (by decide)⟩

/-- The array whose one hold has ended after `n` held cycles. -/
def Arr.released (x : Arr) (n : Nat) : Arr := { x with
  holds := [], heldNow := 0, st := if x.st = .hold then .run else x.st
  holdCyc := satAdd x.holdCyc (n - x.heldNow), segCount := x.segCount + (n - x.heldNow) }

theorem sdel_sins {α : Type} (m : Store α) (k : Nat) (v : α) : sdel (sins k v m) k = sdel m k := by
  induction m with
  | nil => simp [sins, sdel]
  | cons e r ih =>
    unfold sins
    split
    · simp [sdel]
    · unfold sdel at ih ⊢
      rw [List.filter_cons, List.filter_cons, ih]

/-- Of two writes of one key the later one stands. -/
theorem sset_sset {α : Type} [DecidableEq α] (d : α) (m : Store α) (k : Nat) (v w : α) :
    sset d (sset d m k v) k w = sset d m k w := by
  have hdel : sdel (sset d m k v) k = sdel m k := by
    have hdd : sdel (sdel m k) k = sdel m k := by simp [sdel]
    unfold sset
    split
    · exact hdd
    · rw [sdel_sins, hdd]
  have hset : ∀ n : Store α, sset d n k w = if w = d then sdel n k else sins k w (sdel n k) := fun _ => rfl
  rw [hset, hdel, hset]

@[simp] theorem State.setArr_setArr (s : State) (a : Nat) (x y : Arr) : (s.setArr a x).setArr a y = s.setArr a y := by
  simp only [State.setArr, sset_sset]

/-- The one source of an array of no pair ends, its held cycles are counted, and the array runs on (R69, R72, R74). -/
theorem endHold_of_unpaired {a : Nat} {s : State} {h : Hold} (hpaired : (s.arr a).paired = false) (hholds : (s.arr a).holds = [h])
    (hsrc : h.src ≠ .pair) (n : Nat) : endHold a h.src n s = s.setArr a ((s.arr a).released n) := by
  have hown : (s.arr a).ownHolds.isEmpty = false := by simp [Arr.ownHolds, hholds, hsrc]
  have hfirst : settleHolds a s = s.setArr a (s.arr a) := by simp [settleHolds_of_unpaired hpaired, hown]
  have hpartner : (s.setArr a (s.arr a)).partner a = none := State.partner_of_unpaired (by simpa using hpaired)
  have hcounted : modPair a (fun x => x.countHeld n) (fun x => x.countHeld n) (settleHolds a s) =
      s.setArr a ((s.arr a).countHeld n) := by
    rw [hfirst, modPair_of_unpaired hpartner]
    simp
  simp only [endHold, hcounted]
  rw [settleHolds_of_unpaired (by simp [State.modArr, Arr.countHeld, hholds, hpaired])]
  simp [State.modArr, Arr.countHeld, Arr.ownHolds, Arr.followPartner, Arr.released, hholds]

/-- A source of fixed length, or the fabric port's back-pressure, ends on an array that nothing else holds (R69). -/
theorem exec_arrayHoldRelease_of_unpaired {a : Ary} {s : State} {h : Hold} (held : Nat) (hholds : (s.arr a).holds = [h])
    (hsrc : h.src = .sidCe ∨ h.src = .accCe ∨ h.src = .portBp) (hpaired : (s.arr a).paired = false) :
    exec (.arrayHoldRelease a h.src held) s = .next (s.setArr a ((s.arr a).released (h.ends.getD held))) := by
  have hplain : h.src ≠ .conCe ∧ h.src ≠ .conLate ∧ h.src ≠ .pair := by rcases hsrc with h | h | h <;> simp [h]
  have habreast : s.abreast a = true := by simp [State.abreast, State.mate, State.partner_of_unpaired hpaired]
  simp [exec, execArrayHoldRelease, hholds, hplain, habreast, endHold_of_unpaired hpaired hholds hplain.2.2]

/-! ## What MOVE_COMPLETE leaves of other arrays -/

/-- The bytes that an STC of array `a` has read at issue stand over those of an LDC of array `b`, in its cycle `cyc` (R116). -/
def storeOverLoad (a b cyc addr f : Nat) : State :=
  { State.reset with
    free := f
    ary := [(a, { Arr.init with moves := [⟨0, .stc, 0, 0, 0, addr, 1, 0, 0, [(1, false)], false⟩] }),
            (b, { Arr.init with cyc := cyc, moves := [⟨0, .ldc, 0, 0, 0, addr, 1, 0, 0, [(0, false)], false⟩] })] }

section
variable {a b : Nat} (hne : b ≠ a) (cyc addr f : Nat)

theorem storeOverLoad_arr_store : (storeOverLoad a b cyc addr f).arr a =
    { Arr.init with moves := [⟨0, .stc, 0, 0, 0, addr, 1, 0, 0, [(1, false)], false⟩] } := by
  simp [storeOverLoad, State.arr, sget]

include hne in
theorem storeOverLoad_arr_load : (storeOverLoad a b cyc addr f).arr b =
    { Arr.init with cyc := cyc, moves := [⟨0, .ldc, 0, 0, 0, addr, 1, 0, 0, [(0, false)], false⟩] } := by
  simp [storeOverLoad, State.arr, sget, hne.symm]

theorem storeOverLoad_part (c : Nat) : (storeOverLoad a b cyc addr f).part c = ⟨0, false, 0, none⟩ := by
  have htenant : (storeOverLoad a b cyc addr f).aryTenant c = none := by
    refine List.find?_eq_none.mpr fun t _ => ?_
    simp [State.tenant, storeOverLoad, State.reset, sget, Tenant.init]
  have hmember : (storeOverLoad a b cyc addr f).memberOf c = none := rfl
  have hspare : (storeOverLoad a b cyc addr f).spareOf c = none := rfl
  simp only [State.part, hmember, hspare, htenant]

/-- One byte is written to the concourse at once. -/
theorem partWrite_byte (v : MByte) (s : State) : partWrite ⟨0, false, 0, none⟩ addr [v] s = conWrite addr [v] s := by
  have hroom : 1 ≤ 0x2000 - addr % 0x2000 := by omega
  have htake : [v].take (0x2000 - addr % 0x2000) = [v] := List.take_of_length_le hroom
  have hdrop : [v].drop (0x2000 - addr % 0x2000) = [] := List.drop_of_length_le hroom
  simp only [partWrite, Part.runs, htake, hdrop]
  simp [Part.addr]

/-- Where the open constant takes the later value, the store's completion changes the load. -/
theorem metBytes_load_ne (h : Config.moveTakesLater b cyc addr f = true) :
    ({ Arr.init with cyc := cyc, moves := [⟨0, .ldc, 0, 0, 0, addr, 1, 0, 0, [(0, false)], false⟩] } : Arr).metBytes
      ⟨0, false, 0, none⟩ b f addr [(1, false)] ≠
    { Arr.init with cyc := cyc, moves := [⟨0, .ldc, 0, 0, 0, addr, 1, 0, 0, [(0, false)], false⟩] } := by
  intro heq
  have hdata := congrArg (fun x : Arr => x.moves.map (·.data)) heq
  simp [Arr.metBytes, MoveOp.conTouched, Part.addr, h] at hdata

end

/-- The move that completes has landed: it has left the list, and its bytes are at their places (R101, R103). Of the other arrays none
changes but by an STC. -/
theorem exec_moveComplete_lands {a : Ary} {s : State} {m : MoveOp} (held : Nat) (split : Bool) (flits : List Nat)
    (hfind : (s.arr a).moves.find? (fun v => v.id == m.id) = some m) (hholds : (s.arr a).holds = []) (hsyncs : (s.arr a).syncs = []) :
    ∃ t, exec (.moveComplete a m.id held split flits) s = .next t ∧
      (m.kind ≠ .stc → ∀ b, b ≠ a.val → t.arr b = s.arr b) ∧
      (t.arr a).moves.map (·.id) = ((s.arr a).moves.filter (fun v => v.id != m.id)).map (·.id) ∧
      (m.kind = .ldc ∨ m.kind = .stv → (t.arr a).sid = putBytes (s.arr a).sid m.sid m.data) ∧
      (m.kind = .stc → t.mtc = (partWrite (s.part a) m.con (markLost flits m.data) s).mtc ∧
        (flits ≠ [] → (t.arr a).fpPoison = true)) ∧
      (m.kind = .ldv → m.beaten = false → m.due ≤ (s.arr a).cyc → (s.arr a).regw = [] →
        (t.arr a).lanes m.vreg = ldvLanes m.fmt.toNat m.data) := by
  obtain ⟨t, hexec, hmtc, hself, hothers⟩ := exec_moveComplete_of_unheld held split flits hfind hholds hsyncs
  refine ⟨t, hexec, fun hk b hb => (hothers b hb).trans (landMove_arr_of_ne s hb (by simpa using hk)), ?_, fun hk => ?_,
    fun hk => ⟨?_, fun hf => ?_⟩, fun hk hb hdue hregw => ?_⟩
  · rw [hself, landMove_ids, MoveOp.overFabric_id]
  · rw [hself, landMove_sid s (by simpa using hk), MoveOp.overFabric_sid, putBytes_overFabric]
  · have hdata : m.overFabric flits = { m with data := markLost flits m.data } := by simp [MoveOp.overFabric, hk]
    rw [hmtc, landMove_stc s (by simpa using hk), hdata]
    exact partWrite_mtc_congr (State.setArr_mtc ..) ..
  · simp [hself, hk, hf]
  · have hdata : m.overFabric flits = m := by simp [MoveOp.overFabric, hk]
    rw [hself, hdata]
    exact landMove_lanes s hk hb hdue hregw

/-- MOVE_COMPLETE on an array that nothing holds leaves every other array as it was. -/
def MoveCompleteKeepsOthers : Prop :=
  ∀ (a : Ary) (s t : State) (m : MoveOp) (held : Nat) (split : Bool) (flits : List Nat),
    (s.arr a).moves.find? (fun v => v.id == m.id) = some m → (s.arr a).holds = [] → (s.arr a).syncs = [] →
    exec (.moveComplete a m.id held split flits) s = .next t → ∀ b, b ≠ a.val → t.arr b = s.arr b

/-- A byte for which the constant takes the later value is one of `storeOverLoad` that another array's load then carries. -/
theorem never_later_of_moveCompleteKeepsOthers (hkeeps : MoveCompleteKeepsOthers) (b cyc addr f : Nat) :
    Config.moveTakesLater b cyc addr f = false := by
  by_contra hlater
  rw [Bool.not_eq_false] at hlater
  obtain ⟨a, hne⟩ : ∃ a : Ary, b ≠ a.val := by
    by_cases hb : b = 0
    · exact ⟨1, by rw [hb]; decide⟩
    · exact ⟨0, hb⟩
  let m : MoveOp := ⟨0, .stc, 0, 0, 0, addr, 1, 0, 0, [(1, false)], false⟩
  let s := storeOverLoad a b cyc addr f
  have harr : s.arr a = { Arr.init with moves := [m] } := storeOverLoad_arr_store ..
  have hfind : (s.arr a).moves.find? (fun v => v.id == m.id) = some m := by rw [harr]; rfl
  have hholds : (s.arr a).holds = [] := by rw [harr]; rfl
  have hsyncs : (s.arr a).syncs = [] := by rw [harr]; rfl
  obtain ⟨t, hexec, -, -, hothers⟩ := exec_moveComplete_of_unheld (m := m) 0 false [] hfind hholds hsyncs
  have hload := (hothers b hne).symm.trans (hkeeps a s t m 0 false [] hfind hholds hsyncs hexec b hne)
  have hfab : m.overFabric [] = m := by simp [MoveOp.overFabric, m, markLost]
  have hpart : (s.setArr a ((s.arr a).dropMove m.id)).part b = ⟨0, false, 0, none⟩ := storeOverLoad_part (a := a) (b := b) cyc addr f b
  rw [hfab, landMove_stc s rfl, storeOverLoad_part, partWrite_byte, conWrite_arr, State.arr_setArr, if_neg hne, hpart,
    storeOverLoad_arr_load hne] at hload
  exact metBytes_load_ne cyc addr f hlater hload

theorem moveCompleteKeepsOthers_of_never_later (hnever : ∀ b cyc addr f, Config.moveTakesLater b cyc addr f = false) :
    MoveCompleteKeepsOthers := by
  intro a s t m held split flits hfind hholds hsyncs hexec b hb
  obtain ⟨t', hexec', -, -, hothers⟩ := exec_moveComplete_of_unheld held split flits hfind hholds hsyncs
  obtain rfl : t = t' := by simpa using hexec.symm.trans hexec'
  rw [hothers b hb]
  by_cases hk : m.kind = .stc
  · rw [landMove_stc s (by simpa using hk), partWrite_arr_of_never hnever, State.arr_setArr, if_neg hb]
  · exact landMove_arr_of_ne s hb (by simpa using hk)

theorem moveCompleteKeepsOthers_iff_never_later :
    MoveCompleteKeepsOthers ↔ ∀ b cyc addr f, Config.moveTakesLater b cyc addr f = false :=
  ⟨never_later_of_moveCompleteKeepsOthers, moveCompleteKeepsOthers_of_never_later⟩

end Sys2Proof.Machine
end

section
/-! PROOFS, O2. Idle slots and index operations (R91, R93, R95, R107): each slot's operation carried out and nothing else changed. -/

namespace Sys2Proof.Machine

theorem Arr.doneD_of_cur {x : Arr} {k : Cur} (h : x.cur = some k) : x.doneD = { x with cur := some { k with d := false } } := by
  simp [Arr.doneD, h]

theorem Arr.doneC_of_cur {x : Arr} {k : Cur} (h : x.cur = some k) : x.doneC = { x with cur := some { k with c := false } } := by
  simp [Arr.doneC, h]

/-- A slot that waits for an operation that does nothing but be carried out. -/
theorem modArr_done_of_waits {a : Nat} {s : State} {k : Cur} {flag : Cur → Bool} {op : Nat → Nat} {code : Nat}
    (hw : SlotWaits (s.arr a) k flag op code) {done : Arr → Arr} {y : Arr} (hdone : done (s.arr a) = y) :
    s.modArr a (fun x => if (x.slotOp flag op code).isSome then done x else x) = s.setArr a y := by
  simp only [State.modArr, Arr.slotOp_of_waits hw, Option.isSome_some, if_true, hdone]

/-! ## Index operations (R93, R95, R107) -/

/-- A vector slot with an index operation is carried out, and its result is on its way to iD (R93). -/
theorem idxStep_of_waits {x : Arr} {k : Cur} {op : Nat} (h : SlotWaits x k Cur.v vOp op) (f : Arr → Nat → Reg32) :
    idxStep op f x = { x with
      cur := some { k with v := false }
      regw := (x.later (.idx x.cyc (x.cyc + 1) (vD k.bundle.toNat) (f x k.bundle.toNat))).regw } := by
  simp only [idxStep, Arr.slotOp_of_waits h, Arr.doneV_of_cur h.1, Arr.later]

/-- A command that carries out the vector slot with the value `g` answers with the value `f`, where the two are equal. -/
theorem indexAnswers_of_value {c : Ary → Instr} {op : Nat} {g f : Arr → Nat → Reg32}
    (hexec : ∀ a s, exec (c a) s = .next (s.modArr a.val (idxStep op g))) (hvalue : ∀ x b, g x b = f x b) : IndexAnswers c op f := by
  intro a s k hw
  rw [hexec, State.modArr, idxStep_of_waits hw, hvalue]

/-- Settles O2: each idle slot as one that is only carried out, each index operation by its value, unsigned comparisons by those of
numbers. -/
theorem idleSlotsAndIndexOperations : Obligations.IdleSlotsAndIndexOperations := by
  unfold Obligations.IdleSlotsAndIndexOperations
  refine ⟨fun a s k => ⟨?lnop, ?mnop, ?vnop, ?dnop, ?cnop⟩, ?iset, ?iseth, ?iadd, ?isub, ?imin, ?icmplt, ?icmpeq, fun _ => rfl⟩
  case lnop => exact fun hw => congrArg Host.Outcome.next (modArr_done_of_waits hw (Arr.doneL_of_cur hw.1))
  case mnop => exact fun hw => congrArg Host.Outcome.next (modArr_done_of_waits hw (Arr.doneM_of_cur hw.1))
  case vnop => exact fun hw => congrArg Host.Outcome.next (modArr_done_of_waits hw (Arr.doneV_of_cur hw.1))
  case dnop => exact fun hw => congrArg Host.Outcome.next (modArr_done_of_waits hw (Arr.doneD_of_cur hw.1))
  case cnop => exact fun hw => congrArg Host.Outcome.next (modArr_done_of_waits hw (Arr.doneC_of_cur hw.1))
  case iset | iseth | iadd | isub | icmpeq => exact indexAnswers_of_value (fun _ _ => rfl) (fun _ _ => rfl)
  case imin | icmplt =>
    refine indexAnswers_of_value (fun _ _ => rfl) (fun x b => ?_)
    simp [idxValue, vImmS, BitVec.lt_def]

end Sys2Proof.Machine
end

section
/-! PROOFS, O7. The control slot (R110, R111, R113, R115): LOOP, BR, WAITQ and HALT by one equation each; a SYNC waits for its array's
STCs, or arrives at once, and what its arrival does to the barrier follows R113. -/

namespace Sys2Proof.Machine

/-! ## LOOP, BR, WAITQ, HALT -/

section
variable {a : Ary} {s : State} {k : Cur}

theorem exec_loop_of_waits (hw : SlotWaits (s.arr a) k Cur.c cOp 1) :
    exec (.loop a) s = .next (s.setArr a { s.arr a with
      cur := some { k with c := false }
      regw := ((s.arr a).later (.idx (s.arr a).cyc ((s.arr a).cyc + 1) (cCnt k.bundle.toNat)
        ((s.arr a).ir (cCnt k.bundle.toNat) - 1))).regw
      next := if (s.arr a).ir (cCnt k.bundle.toNat) - 1 = 0 then (s.arr a).next else cLoopTarget k.bundle.toNat }) := by
  simp only [exec, execLoop, State.modArr, Arr.slotOp_of_waits hw, Arr.doneC_of_cur hw.1, Arr.later]
  split <;> rfl

theorem exec_br_of_waits (hw : SlotWaits (s.arr a) k Cur.c cOp 2) :
    exec (.br a) s = .next (s.setArr a { s.arr a with
      cur := some { k with c := false }
      next := if ((s.arr a).ir (cCnt k.bundle.toNat) == 0) != cNeg k.bundle.toNat then cBrTarget k.bundle.toNat
        else (s.arr a).next }) := by
  simp only [exec, execBr, State.modArr, Arr.slotOp_of_waits hw, Arr.doneC_of_cur hw.1]
  split <;> rfl

section
variable (hw : SlotWaits (s.arr a) k Cur.c cOp 3)
include hw

theorem exec_waitq_of_met (hpaired : (s.arr a).paired = false)
    (hcount : cCount k.bundle.toNat ≤ (sget 0 (s.arr a).tq (cQ k.bundle.toNat)).toNat) :
    exec (.waitq a) s = .next (s.setArr a { s.arr a with
      cur := some { k with c := false }
      tq := sset 0 (s.arr a).tq (cQ k.bundle.toNat)
        (sget 0 (s.arr a).tq (cQ k.bundle.toNat) - BitVec.ofNat 16 (cCount k.bundle.toNat)) }) := by
  simp only [exec, execWaitq, State.modArr, Arr.slotOp_of_waits hw, Arr.doneC_of_cur hw.1, Arr.tqCount,
    if_pos (And.intro hpaired hcount)]
  rfl

theorem exec_waitq_of_unmet
    (hunmet : (s.arr a).paired = true ∨ (sget 0 (s.arr a).tq (cQ k.bundle.toNat)).toNat < cCount k.bundle.toNat) :
    exec (.waitq a) s = .next (s.setArr a { s.arr a with
      cur := some { k with c := false }
      wait := .waitq (cQ k.bundle.toNat) (cCount k.bundle.toNat) }) := by
  have hnot : ¬((s.arr a).paired = false ∧ cCount k.bundle.toNat ≤ (sget 0 (s.arr a).tq (cQ k.bundle.toNat)).toNat) := by
    rintro ⟨hpaired, hcount⟩
    rcases hunmet with h | h
    · rw [hpaired] at h
      cases h
    · exact absurd hcount (Nat.not_le.mpr h)
  simp only [exec, execWaitq, State.modArr, Arr.slotOp_of_waits hw, Arr.doneC_of_cur hw.1, Arr.tqCount, if_neg hnot]

end

theorem exec_halt_of_waits (hw : SlotWaits (s.arr a) k Cur.c cOp 5) :
    exec (.halt a) s = .next (s.setArr a { s.arr a with cur := some { k with c := false }, wait := .halted }) :=
  congrArg Host.Outcome.next
    (modArr_done_of_waits hw (done := fun x => { x.doneC with wait := .halted }) (by rw [Arr.doneC_of_cur hw.1]))

end

/-! ## An arrival at a barrier whose round is not full (R113) -/

/-- The arrival that an array registers with a SYNC. -/
def Arr.arrival (x : Arr) (a n : Nat) (nowait : Bool) : Arrival := ⟨a, n, x.fp, x.fpPoison, nowait, x.cyc⟩

theorem barrier_modTenant_sset (t bar : Nat) (b : Barrier) (s : State) :
    ((s.modTenant t (fun y => { y with barriers := sset Barrier.init y.barriers bar b })).tenant t).barrier bar = b := by
  simp [Tenant.barrier]

section
variable {a t bar n : Nat} {nowait split : Bool} {s : State} (hten : s.aryTenant a = some t)
  (hopen : ((s.tenant t).barrier bar).full = false)
include hten hopen

/-- Another N than that of the round stops the array. -/
theorem registerArrival_of_mismatch (hother : ∃ v ∈ ((s.tenant t).barrier bar).arrivals, v.n ≠ n) :
    registerArrival a bar n nowait split s = stopAry a Code.syncMismatch s := by
  have hany : ((s.tenant t).barrier bar).arrivals.any (fun v => v.n != n) = true := by simpa using hother
  simp only [registerArrival, hten, hopen, hany, Bool.false_eq_true, if_true, if_false]

/-- The same N joins the round; its N-th arrival makes the release due, where the signal box has nothing to compare. -/
theorem registerArrival_of_agreement (hsame : ∀ v ∈ ((s.tenant t).barrier bar).arrivals, v.n = n)
    (hplain : (((s.tenant t).barrier bar).arrivals ++ [(s.arr a).arrival a n nowait]).length < n ∨ s.tenantXid t = none) :
    (registerArrival a bar n nowait split s).ary = s.ary ∧
      ((registerArrival a bar n nowait split s).tenant t).barrier bar =
        ⟨((s.tenant t).barrier bar).arrivals ++ [(s.arr a).arrival a n nowait],
          decide (n ≤ (((s.tenant t).barrier bar).arrivals ++ [(s.arr a).arrival a n nowait]).length)⟩ := by
  have hany : ((s.tenant t).barrier bar).arrivals.any (fun v => v.n != n) = false := by simpa using hsame
  simp only [List.length_append, List.length_singleton] at hplain ⊢
  by_cases hmore : ((s.tenant t).barrier bar).arrivals.length + 1 < n
  · have hnot : ¬n ≤ ((s.tenant t).barrier bar).arrivals.length + 1 := Nat.not_le.mpr hmore
    simp only [registerArrival, hten, hopen, hany, hmore, hnot, decide_true, decide_false, Bool.or_true, Bool.false_eq_true, if_true,
      if_false, barrier_modTenant_sset]
    exact ⟨rfl, rfl⟩
  · have hxid : s.tenantXid t = none := hplain.resolve_left hmore
    simp only [registerArrival, hten, hopen, hany, hmore, hxid, Nat.not_lt.mp hmore, decide_true, decide_false, Bool.or_false,
      Bool.false_eq_true, if_false, barrier_modTenant_sset]
    exact ⟨rfl, rfl⟩

end

/-! ## SYNC -/

/-- The STCs of an array that have not completed. -/
def Arr.openStcs (x : Arr) : List Nat := (x.moves.filter (fun m => m.kind == .stc)).map (·.id)

/-- The SYNC of bundle `b` with the STCs that it takes note of. -/
def Arr.pendingSync (x : Arr) (b : Nat) : PendingSync := ⟨cBar b, cN b, cNowait b, x.openStcs⟩

/-- A SYNC waits for the STCs outstanding as it is carried out, if there are any. -/
theorem waits_pendingSync (x : Arr) (b : Nat) : (x.pendingSync b).waits x = true ↔ x.openStcs ≠ [] := by
  constructor
  · intro h hnil
    simp [PendingSync.waits, Arr.pendingSync, hnil] at h
  · intro h
    obtain ⟨i, hi⟩ := List.exists_mem_of_ne_nil _ h
    obtain ⟨m, hm, rfl⟩ := List.mem_map.mp hi
    exact List.any_eq_true.mpr ⟨m, List.mem_of_mem_filter hm, List.contains_iff_mem.mpr hi⟩

theorem State.setArr_spareOf (s : State) (a : Nat) (x : Arr) (b : Nat) : (s.setArr a x).spareOf b = s.spareOf b := rfl

section
variable {a : Nat} {s : State} {p : PendingSync} (hsyncs : (s.arr a).syncs = [p]) (split : Bool)
include hsyncs

theorem syncIfReady_of_waits (hp : p.waits (s.arr a) = true) : syncIfReady a split s = s.setArr a (s.arr a) := by
  have hkept : (s.arr a).syncs.filter (fun p => p.waits (s.arr a)) = (s.arr a).syncs := by simp [hsyncs, hp]
  have hnone : (s.arr a).syncs.filter (fun p => !p.waits (s.arr a)) = [] := by simp [hsyncs, hp]
  simp only [syncIfReady, hkept, hnone, List.foldl_nil]

theorem syncIfReady_of_ready (hp : p.waits (s.arr a) = false) (hspare : s.spareOf a = none) (hst : (s.arr a).st = .run) :
    syncIfReady a split s = registerArrival a p.bar p.n p.nowait split (s.setArr a { s.arr a with syncs := [] }) := by
  have hkept : (s.arr a).syncs.filter (fun p => p.waits (s.arr a)) = [] := by simp [hsyncs, hp]
  have hready : (s.arr a).syncs.filter (fun p => !p.waits (s.arr a)) = [p] := by simp [hsyncs, hp]
  have hruns : (AryState.run == AryState.fault) = false := rfl
  simp only [syncIfReady, hkept, hready, List.foldl_cons, List.foldl_nil, State.setArr_spareOf, hspare, State.arr_setArr, if_true, hst,
    hruns, Option.isSome_none, Bool.or_self, Bool.false_eq_true, if_false]

end

theorem onlyArray_setArr (a : Ary) (s : State) (x : Arr) : OnlyArray a s (s.setArr a x) :=
  ⟨rfl, fun b hb => by simp [hb]⟩

theorem OnlyArray.trans {a : Ary} {s t u : State} (h : OnlyArray a s t) (h' : OnlyArray a t u) : OnlyArray a s u :=
  ⟨by rw [h'.1, h.1], fun b hb => (h'.2 b hb).trans (h.2 b hb)⟩

/-- The array after the SYNC of its bundle: without NOWAIT the sequencer waits. -/
def Arr.afterSync (x : Arr) (k : Cur) : Arr := { x with
  cur := some { k with c := false }, wait := if cNowait k.bundle.toNat then .none else .sync (cBar k.bundle.toNat) }

section
variable {a : Ary} {s : State} {k : Cur} (hw : SlotWaits (s.arr a) k Cur.c cOp 4) (split : Bool)
include hw

theorem exec_sync_of_waits : exec (.sync a split) s = .next (syncIfReady a split (s.setArr a { (s.arr a).afterSync k with
    syncs := (s.arr a).syncs ++ [(s.arr a).pendingSync k.bundle.toNat] })) := by
  simp only [exec, execSync, Arr.slotOp_of_waits hw, Arr.doneC_of_cur hw.1]
  rfl

variable (hsyncs : (s.arr a).syncs = [])
include hsyncs

/-- With STCs outstanding nothing but the array changes: it takes note of them and of its barrier. -/
theorem exec_sync_of_openStcs (hstcs : (s.arr a).openStcs ≠ []) :
    ∃ u, exec (.sync a split) s = .next u ∧ OnlyArray a s u ∧ u.arr a = { (s.arr a).afterSync k with
      syncs := [(s.arr a).pendingSync k.bundle.toNat] } := by
  have hwaits := (waits_pendingSync (s.arr a) k.bundle.toNat).mpr hstcs
  rw [exec_sync_of_waits hw split, hsyncs, List.nil_append]
  refine ⟨_, rfl, ?_⟩
  rw [syncIfReady_of_waits (p := (s.arr a).pendingSync k.bundle.toNat) (by simp) split (by rw [State.arr_setArr, if_pos rfl]; exact hwaits)]
  exact ⟨(onlyArray_setArr ..).trans (onlyArray_setArr ..), by simp⟩

/-- With none it arrives at its barrier. -/
theorem exec_sync_of_noOpenStcs (hstcs : (s.arr a).openStcs = []) (hst : (s.arr a).st = .run) (hspare : s.spareOf a = none) :
    ∃ u, exec (.sync a split) s =
        .next (registerArrival a (cBar k.bundle.toNat) (cN k.bundle.toNat) (cNowait k.bundle.toNat) split u) ∧
      OnlyArray a s u ∧ u.arr a = (s.arr a).afterSync k := by
  have hdone : { (s.arr a).afterSync k with syncs := [] } = (s.arr a).afterSync k := by rw [← hsyncs]; rfl
  rw [exec_sync_of_waits hw split, hsyncs, List.nil_append]
  rw [syncIfReady_of_ready (p := (s.arr a).pendingSync k.bundle.toNat) (by simp) split
    (by simp [PendingSync.waits, Arr.pendingSync, hstcs]) (by rwa [State.setArr_spareOf]) (by rwa [State.arr_setArr, if_pos rfl])]
  exact ⟨_, rfl, (onlyArray_setArr ..).trans (onlyArray_setArr ..), by simpa using hdone⟩

end

section
variable {a : Ary} {s u : State} (h : OnlyArray a s u)
include h

theorem OnlyArray.aryTenant (b : Nat) : u.aryTenant b = s.aryTenant b := by rw [h.1]; rfl
theorem OnlyArray.tenant (t : Nat) : u.tenant t = s.tenant t := by rw [h.1]; rfl
theorem OnlyArray.tenantXid (t : Nat) : u.tenantXid t = s.tenantXid t := by rw [h.1]; rfl

end

/-- Settles O7: each operation by its equation; a SYNC that arrives by what its arrival does to the barrier. -/
theorem controlSlotOperations : Obligations.ControlSlotOperations := by
  unfold Obligations.ControlSlotOperations
  intro a s k split x b done left
  refine ⟨exec_loop_of_waits, exec_br_of_waits, fun hw => ⟨exec_waitq_of_met hw, exec_waitq_of_unmet hw⟩,
    fun hw => ⟨fun hstcs hsyncs => exec_sync_of_openStcs hw split hsyncs hstcs, ?arrives⟩, exec_halt_of_waits⟩
  case arrives =>
    intro t hstcs hsyncs hst hten hspare bar came hopen
    obtain ⟨u, hexec, honly, harr⟩ := exec_sync_of_noOpenStcs hw split hsyncs hstcs hst hspare
    have hten' : u.aryTenant a = some t.val := (honly.aryTenant a).trans hten
    have hbar : (u.tenant t).barrier (cBar b) = bar := by rw [honly.tenant]
    have hcame : bar.arrivals ++ [(u.arr a).arrival a (cN b) (cNowait b)] = came := by rw [harr]; rfl
    rw [← hbar] at hopen
    refine ⟨fun hsame hplain => ?_, fun hother => ?_⟩
    · rw [← hbar] at hsame
      rw [← hcame, ← hbar, ← honly.tenantXid] at hplain
      obtain ⟨hary, hjoined⟩ := registerArrival_of_agreement (split := split) hten' hopen hsame hplain
      rw [hbar, hcame] at hjoined
      exact ⟨_, hexec, (State.arr_congr hary a).trans harr, hjoined⟩
    · rw [← hbar] at hother
      rw [registerArrival_of_mismatch hten' hopen hother] at hexec
      exact ⟨u, hexec, honly, harr⟩

end Sys2Proof.Machine
end

section
/-! PROOFS, O8. Timetable images (R87, R88, R95, R115, R119): submitted, checked, started, completed, an equation for each; and what the
cycles up to an image's end leave of its array. -/

namespace Sys2Proof.Machine

/-! ## Submission and check (R87, R119) -/

section
variable {a : Ary} {s : State} {slot : Fin 2} (img : Bytes)
  (hfree : ((s.arr a).slot slot).st = .empty ∨ ((s.arr a).slot slot).st = .rejected) (hscrub : (s.arr a).st ≠ .scrub)
include hfree hscrub

theorem exec_imageSubmit_alone : exec (.timetableImageSubmit a slot img none) s = .next (s.setArr a
    { (s.arr a).setSlot slot ⟨.checking, img, none, (s.arr a).submits⟩ with submits := (s.arr a).submits + 1 }) := by
  simp [exec, execTimetableImageSubmit, hfree, hscrub, State.modArr]

/-- An image of a DISPATCH that waits for one there; where it has a plan, the plan's image. -/
theorem exec_imageSubmit_of_dispatch {d : Dispatch} (hd : s.dispatch? d.id = some d) (hkept : d.discard = false)
    (hten : s.aryTenant a = some d.tenant) (hawaits : (s.arr a).awaitsImage a d = true)
    (hplan : d.tiling = none ∨ img = sget [] d.images a) :
    exec (.timetableImageSubmit a slot img (some d.id)) s = .next (s.setArr a
      { (s.arr a).setSlot slot ⟨.checking, img, some d.id, (s.arr a).submits⟩ with submits := (s.arr a).submits + 1 }) := by
  simp [exec, execTimetableImageSubmit, hfree, hscrub, hd, hkept, hten, hawaits, hplan, State.modArr]

end

@[simp] theorem Arr.setSlot_st (x : Arr) (i : Nat) (v : ImageSlot) : (x.setSlot i v).st = x.st := by
  unfold Arr.setSlot
  split <;> rfl

section
variable {a : Ary} {s : State} {slot : Fin 2} (hst : ((s.arr a).slot slot).st = .checking)
include hst

theorem exec_imageCheckDone_of_pass (hcheck : checkImage ((s.arr a).slot slot).img (s.aryExpress a) = none) :
    exec (.imageCheckDone a slot) s = .next (s.setArr a
      { (s.arr a).setSlot slot { (s.arr a).slot slot with st := .ready } with
        st := if (s.arr a).st = .idle ∨ (s.arr a).st = .bound then .loaded else (s.arr a).st }) := by
  simp only [exec, execImageCheckDone, hst, hcheck, if_true, State.modArr, Arr.setSlot_st]

theorem exec_imageCheckDone_of_fail {c : BitVec 16}
    (hcheck : checkImage ((s.arr a).slot slot).img (s.aryExpress a) = some c) (hdisp : ((s.arr a).slot slot).disp = none) :
    exec (.imageCheckDone a slot) s = .next (record c (s.aryTenant a) (unitArray a) 0 0 (s.setArr a
      { (s.arr a).setSlot slot ⟨.rejected, [], none, ((s.arr a).slot slot).order⟩ with rejCode := c })) := by
  simp only [exec, execImageCheckDone, hst, hcheck, hdisp, if_true, State.modArr]

end

/-! ## The start of an image (R88, R95) -/

/-- A table listed key by key reads what is listed. -/
theorem sget_map_self {α : Type} (d : α) (g : Nat → α) {l : List Nat} {j : Nat} (h : j ∈ l) :
    sget d (l.map (fun k => (k, g k))) j = g j := by
  induction l with
  | nil => cases h
  | cons k r ih =>
    simp only [List.map_cons, sget]
    split
    · next hk => rw [hk]
    · next hk => exact ih ((List.mem_cons.mp h).resolve_left (Ne.symm hk))

/-- The preset block stands in i1 to i31 (R88). -/
theorem startImage_ir (a i : Nat) (x : Arr) {r : Nat} (hpos : 1 ≤ r) (hlt : r < 32) :
    (startImage a i x).ir r = BitVec.ofNat 32 (imgPreset (x.slot i).img r) := by
  have hkeys : (List.range 31).map (fun k => (k + 1, BitVec.ofNat 32 (imgPreset (x.slot i).img (k + 1)))) =
      ((List.range 31).map (· + 1)).map (fun k => (k, BitVec.ofNat 32 (imgPreset (x.slot i).img k))) := by
    rw [List.map_map]
    rfl
  have hnodup : ((((List.range 31).map (· + 1)).map (fun k => (k, BitVec.ofNat 32 (imgPreset (x.slot i).img k)))).map Prod.fst).Nodup := by
    rw [List.map_map]
    exact (by decide : (((List.range 31).map (· + 1)).map id).Nodup)
  have hmem : r ∈ (List.range 31).map (· + 1) := List.mem_map.mpr ⟨r - 1, List.mem_range.mpr (by omega), by omega⟩
  rw [Arr.ir, if_neg (by omega)]
  change sget 0 (List.filter _ _) r = _
  rw [hkeys, sget_filter_ne _ _ hnodup, sget_map_self _ _ hmem]

theorem startImage_slot (a i : Nat) (x : Arr) : (startImage a i x).slot i = { x.slot i with st := .running } := by
  by_cases h : i = 0 <;> simp [startImage, Arr.slot, Arr.setSlot, h]

theorem startImage_nextIssue (a i : Nat) (x : Arr) : (startImage a i x).nextIssue = x.cyc + 1 := rfl

theorem startImage_active (a : Nat) (i : Fin 2) (x : Arr) : (startImage a i x).active = some i := by
  fin_cases i <;> rfl

/-- An image of no DISPATCH starts on an array of no armed tenant. -/
theorem exec_imageStart_of_next {a : Ary} {s : State} {slot : Fin 2} (hnext : s.nextImage a = some slot)
    (hdisp : ((s.arr a).slot slot).disp = none) (hactive : (s.arr a).active = none) (hmember : s.memberOf a = none)
    (hspare : s.spareOf a = none) (hq : (s.arr a).quiesce = false) (hscrub : (s.arr a).st ≠ .scrub) (hpaused : (s.arr a).st ≠ .paused) :
    exec (.imageStart a) s = .next (s.setArr a (startImage a slot (s.arr a))) := by
  simp [exec, execImageStart, hnext, hdisp, hactive, hmember, hspare, hq, hscrub, hpaused, State.modArr]

/-! ## Cycles leave an array's DISPATCH (R69) -/

@[simp] theorem platWrite_disp (side buf slot row : Nat) (v : PlatRow) (x : Arr) : (platWrite side buf slot row v x).disp = x.disp := rfl

@[simp] theorem sidWrite_disp (a f addr : Nat) (l : List MByte) (x : Arr) : (sidWrite a f addr l x).disp = x.disp := rfl

theorem LdpOp.writeRow_disp (o : LdpOp) (r : Nat) (n : Noted) : (o.writeRow r n).1.disp = n.1.disp := by
  unfold LdpOp.writeRow
  extract_lets fc
  split
  extract_lets poisoned y z tagged
  have hrow : y.disp = n.1.disp := foldl_keeps Arr.disp _ _ _ fun _ _ => rfl
  have hrest : z.disp = y.disp := by
    unfold z
    split
    · refine foldl_keeps Arr.disp _ _ _ fun _ _ => ?_
      exact foldl_keeps Arr.disp _ _ _ fun _ _ => rfl
    · rfl
  exact hrest.trans hrow

theorem LdpOp.writeCycle_disp (o : LdpOp) (n : Noted) : (o.writeCycle n).1.disp = n.1.disp := by
  refine foldl_keeps (fun n : Noted => n.1.disp) _ _ n fun n r => ?_
  split
  · exact LdpOp.writeRow_disp ..
  · rfl

theorem DrainOp.readRow_disp (a f r : Nat) (d : DrainOp) (x : Arr) : (d.readRow a f r x).2.disp = x.disp := by
  unfold DrainOp.readRow
  extract_lets
  split
  · rfl
  · split
    extract_lets
    split <;> rfl

theorem DrainOp.readCycle_disp (a f : Nat) (d : DrainOp) (x : Arr) : (d.readCycle a f x).2.disp = x.disp := by
  unfold DrainOp.readCycle
  split
  · exact DrainOp.readRow_disp ..
  · rfl

theorem DrainOp.writeCycle_disp (a f : Nat) (d : DrainOp) (n : Noted) : (d.writeCycle a f n).1.disp = n.1.disp :=
  foldl_keeps (fun n : Noted => n.1.disp) _ _ n fun _ _ => foldl_keeps Arr.disp _ _ _ fun _ _ => rfl

theorem DrainOp.finish_disp (d : DrainOp) (x : Arr) : (d.finish x).disp = x.disp := by
  unfold DrainOp.finish
  split <;> rfl

@[simp] theorem cycleReads_disp (a f : Nat) (n : Noted) : (cycleReads a f n).1.disp = n.1.disp :=
  foldl_keeps (fun q : List DrainOp × Arr => q.2.disp) _ _ _ fun _ _ => DrainOp.readCycle_disp ..

@[simp] theorem cycleWrites_disp (a f : Nat) (n : Noted) : (cycleWrites a f n).1.disp = n.1.disp := by
  unfold cycleWrites
  extract_lets n1 x1 acc n2 n3 x3
  calc x3.disp = n3.1.disp := foldl_keeps Arr.disp _ _ _ fun y d => DrainOp.finish_disp d y
    _ = n2.1.disp := foldl_keeps (fun n : Noted => n.1.disp) _ _ _ fun n d => DrainOp.writeCycle_disp a f d n
    _ = n.1.disp := foldl_keeps (fun n : Noted => n.1.disp) _ _ _ fun n o => LdpOp.writeCycle_disp o n

@[simp] theorem landRegs_disp (x : Arr) : (landRegs x).disp = x.disp := by
  refine landRegs_keeps Arr.disp (fun _ _ => rfl) (fun y w => ?_) x
  cases w with
  | idx i d r v => exact Arr.setIr_keeps Arr.disp (fun _ _ => rfl) ..
  | vec i d r v => rfl

theorem passCycles_disp (a f k : Nat) (n : Noted) : (passCycles a f k n).1.disp = n.1.disp := by
  induction k generalizing n with
  | zero => rfl
  | succ k ih => rw [passCycles, ih]; simp [nextCycle]

@[simp] theorem runTo_disp (a c : Nat) (s : State) : ((runTo a c s).arr a).disp = (s.arr a).disp := by
  simp [runTo, passCycles_disp]

/-! ## Cycles leave the express indices -/

@[simp] theorem record_xpr (c : BitVec 16) (t : Option Nat) (unit arg addr : Nat) (s : State) :
    (record c t unit arg addr s).xpr = s.xpr := record_keeps State.xpr (fun _ _ _ _ _ _ _ => rfl) ..

@[simp] theorem noteUe_xpr (t : Option Nat) (code : BitVec 16) (addr : Nat) (s : State) : (noteUe t code addr s).xpr = s.xpr := by
  unfold noteUe
  split <;> rfl

@[simp] theorem noteCodes_xpr (a : Nat) (l : List (BitVec 16)) (s : State) : (noteCodes a l s).xpr = s.xpr := by
  induction l generalizing s with
  | nil => rfl
  | cons c r ih => simp only [noteCodes, ih]; (repeat' split) <;> simp

@[simp] theorem runTo_xpr (a c : Nat) (s : State) : (runTo a c s).xpr = s.xpr := by simp [runTo]

/-- Which arrays are members, and which are the spare, the express indices say alone. -/
theorem State.memberOf_congr {s u : State} (h : u.xpr = s.xpr) (a : Nat) : u.memberOf a = s.memberOf a := by
  simp only [State.memberOf, State.armedXids, State.xid, h]

theorem State.spareOf_congr {s u : State} (h : u.xpr = s.xpr) (a : Nat) : u.spareOf a = s.spareOf a := by
  simp only [State.spareOf, h]

/-! ## The end of an image (R115) -/

/-- An image of no DISPATCH, on an array of no armed tenant, ends with its slot. -/
theorem imageDone_of_alone {a : Nat} {s : State} (hmember : s.memberOf a = none) (hspare : s.spareOf a = none)
    (hdisp : (s.arr a).disp = none) : imageDone a s = s.modArr a (fun y => y.imageEnds false (s.aryTenant a).isSome) := by
  simp [imageDone, hmember, hspare, hdisp]

theorem exec_imageComplete_of_halted {a : Ary} {s : State} (hwait : (s.arr a).wait = .halted) (hactive : (s.arr a).active.isSome = true)
    (hmoves : (s.arr a).moves = []) (hsyncs : (s.arr a).syncs = []) (hpass : s.canPass a ((s.arr a).lastBusy + 1) = true)
    (hdue : ∀ h ∈ (s.arr a).dueHolds, (s.arr a).lastBusy + 1 < h.cycle) :
    exec (.imageComplete a) s = .next (takeQuiet a (imageDone a (runTo a ((s.arr a).lastBusy + 1) s))) := by
  simp [exec, execImageComplete, State.imageOver, State.canEnd, hwait, hactive, hmoves, hsyncs, hpass, passTo_of_noneDue hdue]

/-- Settles O8: each clause by its command's equation; a started image's registers by its preset block, and at its end by what the last
cycles leave alone. -/
theorem timetableImagesLive : Obligations.TimetableImagesLive := by
  unfold Obligations.TimetableImagesLive
  intro a s slot img d x sl
  refine ⟨fun hfree hscrub => ⟨exec_imageSubmit_alone img hfree hscrub, exec_imageSubmit_of_dispatch img hfree hscrub⟩,
    fun hst => ⟨exec_imageCheckDone_of_pass hst, fun c => exec_imageCheckDone_of_fail hst⟩, ?start, ?complete⟩
  case start =>
    intro hnext hdisp hactive hmember hspare hq hscrub hpaused
    exact ⟨_, exec_imageStart_of_next hnext hdisp hactive hmember hspare hq hscrub hpaused, rfl, startImage_active ..,
      congrArg ImageSlot.st (startImage_slot ..), rfl, startImage_nextIssue .., fun r => startImage_ir a slot x⟩
  case complete =>
    intro hwait hactive hmoves hsyncs hdisp hmember hspare hpass hdue
    have hxpr := runTo_xpr a (x.lastBusy + 1) s
    rw [exec_imageComplete_of_halted hwait (by rw [hactive]; rfl) hmoves hsyncs hpass hdue,
      imageDone_of_alone ((State.memberOf_congr hxpr a).trans hmember) ((State.spareOf_congr hxpr a).trans hspare)
        ((runTo_disp ..).trans hdisp)]

end Sys2Proof.Machine
end

section
/-! PROOFS, O26. Transfers and gathers (R112, R153, R201, R208, R209): a level-2 transfer of a DISPATCH, the copy of a PREFETCH, a gather
from the partition; and what completing an instruction leaves of memory and of the migrations. -/

namespace Sys2Proof.Machine

/-! ## DISPATCHes one after another -/

theorem mem_updDispatch {id : Nat} {f : Dispatch → Dispatch} {l : List Dispatch} {y : Dispatch} (hy : y ∈ l) (hid : y.id = id) :
    f y ∈ updDispatch id f l := by
  have hf : (if y.id == id then f y else y) = f y := by simp [hid]
  exact hf ▸ List.mem_map_of_mem (f := fun d => if d.id == id then f d else d) hy

/-- A DISPATCH changed twice: a change of it leaves its number. -/
theorem updDispatch_updDispatch {id : Nat} {f g : Dispatch → Dispatch} (hf : ∀ d, (f d).id = d.id) (l : List Dispatch) :
    updDispatch id g (updDispatch id f l) = l.map (fun d => if d.id = id then g (f d) else d) := by
  simp only [updDispatch, List.map_map]
  refine List.map_congr_left fun d _ => ?_
  by_cases h : d.id = id <;> simp [h, hf]

@[simp] theorem startDispatch_mtc (i : Nat) (s : State) : (startDispatch i s).mtc = s.mtc := rfl
@[simp] theorem startDispatch_ten (i : Nat) (s : State) : (startDispatch i s).ten = s.ten := rfl

/-- A DISPATCH that starts keeps its number and its fault. -/
theorem mem_startDispatch {i : Nat} {s : State} {y : Dispatch} (hy : y ∈ s.disp) (hid : y.id = i) :
    ∃ z ∈ (startDispatch i s).disp, z.id = y.id ∧ z.fault = y.fault := by
  refine ⟨_, mem_updDispatch hy hid, ?_⟩
  split <;> exact ⟨rfl, rfl⟩

/-! ## Reading and writing memory leave the tenants alone -/

@[simp] theorem tagResult_ten (t addr : Nat) (r : PageRead) (s : State) : (tagResult t addr r s).ten = s.ten := by
  unfold tagResult
  split
  · rfl
  · exact record_ten ..

@[simp] theorem modelRead_ten (t addr n : Nat) (s : State) : (modelRead t addr n s).2.ten = s.ten := by
  unfold modelRead
  rw [foldl_keeps (fun x : List MByte × State => x.2.ten)]
  intro x b
  dsimp only
  split
  · rfl
  · split
    · exact tagResult_ten ..
    · rfl

@[simp] theorem addHeat_ten (t addr n : Nat) (s : State) : (addHeat t addr n s).ten = s.ten :=
  foldl_keeps State.ten _ _ s fun _ _ => rfl

@[simp] theorem partWrite_ten (p : Part) (x : Nat) (l : List MByte) (s : State) : (partWrite p x l s).ten = s.ten :=
  partWrite_keeps State.ten (fun _ _ _ => rfl) ..

theorem moveBytes_memToCon_ten {t m c n : Nat} {e : MoveErr} {s s1 : State} (h : moveBytes t (.memToCon m c n) e s = .ok s1) :
    s1.ten = s.ten := by
  obtain rfl := Except.ok.inj h
  simp [conPut]

theorem State.aryTenant_congr {s u : State} (h : u.ten = s.ten) (a : Nat) : u.aryTenant a = s.aryTenant a := by
  simp only [State.aryTenant, State.tenant, h]

/-! ## A level-2 transfer of a DISPATCH (R112, R153) -/

@[simp] theorem countTq_mtc (t : Nat) (tq : Option (Ary × Fin 16)) (s : State) : (countTq t tq s).mtc = s.mtc := by
  unfold countTq
  split
  · rfl
  · split <;> rfl

@[simp] theorem countTq_disp (t : Nat) (tq : Option (Ary × Fin 16)) (s : State) : (countTq t tq s).disp = s.disp := by
  unfold countTq
  split
  · rfl
  · split <;> rfl

theorem countTq_count {t : Nat} {a : Ary} {s : State} (h : s.aryTenant a = some t) (k : Fin 16) :
    sget 0 ((countTq t (some (a, k)) s).arr a).tq k = satAdd (sget 0 (s.arr a).tq k) 1 := by
  simp [countTq, h]

/-- Read, and counted off as a block of level 2 while one is due, else as a descriptor. -/
def Dispatch.afterRead (d : Descriptor) (m n : Nat) (y : Dispatch) : Dispatch :=
  { y with
    reads := (y.haveRead [(m, n)]).reads
    descsLeft := if y.due2 d = 0 then y.descsLeft - 1 else y.descsLeft
    blocks2 := if y.due2 d = 0 then y.blocks2 else y.blocks2 - 1 }

theorem Dispatch.countOff_memToCon {d : Descriptor} {m c n : Nat} (hmove : d.move = .memToCon m c n) (y : Dispatch) :
    (y.haveRead [(m, n)]).countOff d = y.afterRead d m n := by
  have hdue : (y.haveRead [(m, n)]).due2 d = y.due2 d := rfl
  simp only [Dispatch.countOff, hmove, hdue, Dispatch.afterRead]
  split <;> rfl

theorem exec_transfer_of_dispatch {d : Descriptor} {e : MoveErr} {i m c n : Nat} {s : State} {x : Dispatch} (hi : d.disp = some i)
    (hmove : d.move = .memToCon m c n) (hx : s.dispatch? i = some x) (hten : x.tenant = d.tenant) (hexpects : x.expects d = true)
    (hfinish : s.mayFinish i = true) (hfits : s.moveFits d.tenant d.move = true) :
    exec (.transferDescriptorComplete d e) s = .next (dispatchMove x d e (startDispatch i s)) := by
  have hkv : x.writesKv d.move = true := by rw [hmove]; rfl
  have hpeer : x.mayPeer d.move = true := by rw [hmove]; rfl
  simp [exec, execTransferDescriptorComplete, hi, hx, hten, hexpects, hfinish, hfits, hkv, hpeer]

/-- The bytes are there: read from no poisoned shard, and counted off. -/
theorem dispatchMove_of_memToCon {d : Descriptor} {e : MoveErr} {m c n : Nat} {s s1 : State} {x : Dispatch}
    (hmove : d.move = .memToCon m c n)
    (hclean : x.copy.bind (fun k => poisonedRead ((s.tenant x.tenant).copy k.val) [(m, n)]) = none)
    (hbytes : moveBytes x.tenant d.move e s = .ok s1) :
    dispatchMove x d e s = descDone x.id x.tenant d (s1.modDispatch x.id (Dispatch.haveRead [(m, n)])) := by
  rw [hmove] at hbytes
  simp only [dispatchMove, hmove, moveReads, hclean, hbytes]

theorem descDone_disp {i t m c n : Nat} {d : Descriptor} (hmove : d.move = .memToCon m c n) (s : State) :
    (descDone i t d (s.modDispatch i (Dispatch.haveRead [(m, n)]))).disp =
      s.disp.map (fun y => if y.id = i then y.afterRead d m n else y) := by
  rw [descDone, countTq_disp]
  change updDispatch i (Dispatch.countOff d) (updDispatch i (Dispatch.haveRead [(m, n)]) s.disp) = _
  rw [updDispatch_updDispatch (f := Dispatch.haveRead [(m, n)]) (fun _ => rfl)]
  simp only [Dispatch.countOff_memToCon hmove]

/-! ## Completion leaves memory and migrations alone (R126) -/

/-- Of the contexts of tenants this part of the state shows the migrations alone. -/
def SeesOnlyMigrations {γ : Type} (f : State → γ) : Prop :=
  ∀ (s : State) (t : Nat) (g : Tenant → Tenant), (∀ y, (g y).migrates = y.migrates) → f (s.modTenant t g) = f s

theorem seesOnlyMigrations_mtc : SeesOnlyMigrations State.mtc := fun _ _ _ _ => rfl

theorem seesOnlyMigrations_migrates (r : Nat) : SeesOnlyMigrations (fun s => (s.tenant r).migrates) := by
  intro s t g hg
  by_cases h : r = t
  · subst h
    simp [hg]
  · simp [h]

@[simp] theorem Tenant.settleStop_migrates (y : Tenant) : y.settleStop.migrates = y.migrates := by
  have honly : y.settleStop = { y with queues := y.settleStop.queues, st := y.settleStop.st } := (Tenant.stopSettled_settleStop y).only
  rw [honly]

section
variable {γ : Type} {f : State → γ} (hf : SeesOnlyMigrations f)
include hf

theorem SeesOnlyMigrations.setQueue (t q : Nat) (v : Queue) (s : State) : f (s.setQueue t q v) = f s := hf s t _ fun _ => rfl

theorem SeesOnlyMigrations.modQueue (t q : Nat) (g : Queue → Queue) (s : State) : f (s.modQueue t q g) = f s := hf.setQueue ..

theorem SeesOnlyMigrations.finish {status : BitVec 16} (hs : Harmless status) (t q : Nat) (idx : Reg32) (value : BitVec 64)
    (addr unit : Nat) (log : Bool) (s : State) : f (finish t q idx status value addr unit log s) = f s := by
  cases h : (s.queue t q).issued.find? (fun e => e.idx == idx && e.status.isNone) with
  | none => rw [finish_of_absent h]
  | some e => rw [finish_of_open hs h, hf _ t _ Tenant.settleStop_migrates, hf.setQueue]

theorem SeesOnlyMigrations.settleCopy (t : Nat) (c : Fin 4) (s : State) : f (settleCopy t c s) = f s := by
  have hcopy : f (s.modTenant t (fun y => y.setCopy c Copy.init)) = f s := hf s t _ fun _ => rfl
  rcases settleCopy_cases t c s with h | h | ⟨w, h⟩ <;> rw [h]
  · exact hcopy
  · rw [hf.finish (.inl rfl), hcopy]

theorem SeesOnlyMigrations.settleCopies (t : Nat) (s : State) : f (settleCopies t s) = f s := by
  simp only [Machine.settleCopies, hf.settleCopy]

theorem SeesOnlyMigrations.issueDone (t q : Nat) (p : Presented) (value : BitVec 64) (s : State) : f (issueDone t q p value s) = f s := by
  rw [Machine.issueDone, hf.finish (.inl rfl), hf.modQueue]

theorem SeesOnlyMigrations.simpleBody (t q : Nat) (p : Presented) (s : State) : f (simpleBody t q p s) = f s := by
  unfold Machine.simpleBody
  extract_lets op s1
  split
  · rw [hf.issueDone, hf.settleCopies, hf.modQueue]
  · split
    · rw [hf.issueDone]
      exact hf s t _ fun _ => rfl
    · split <;> exact hf.issueDone ..

theorem SeesOnlyMigrations.settleQueue (t q : Nat) (s : State) : f (settleQueue t q s) = f s := by
  unfold Machine.settleQueue
  split
  · rfl
  · split
    · exact hf.simpleBody ..
    · rfl

theorem SeesOnlyMigrations.settle (t : Nat) (s : State) : f (settle t s) = f s :=
  foldl_keeps f _ _ s fun _ _ => foldl_keeps f _ _ _ fun s q => hf.settleQueue t q s

/-- An instruction that completes with success. -/
theorem SeesOnlyMigrations.complete (t q : Nat) (idx : Reg32) (value : BitVec 64) (addr unit : Nat) (log : Bool) (s : State) :
    f (complete t q idx 0 value addr unit log s) = f s := by
  rw [Machine.complete, hf.settle, hf.settleCopies, hf.finish (.inl rfl)]

end

/-! ## The copy of a PREFETCH (R208) -/

theorem exec_transfer_of_prefetch {d : Descriptor} {e : MoveErr} {m c n : Nat} {s s1 : State} {j : MigrateJob} (hi : d.disp = none)
    (hmove : d.move = .memToCon m c n)
    (hjob : (s.tenant d.tenant).migrates.find? (fun j => j.copy == some (m, c, n)) = some j)
    (hbytes : moveBytes d.tenant d.move e s = .ok s1) :
    exec (.transferDescriptorComplete d e) s = .next (complete d.tenant j.q j.idx 0 0 0 unitNone true
      (s1.modTenant d.tenant (fun y => { y with migrates := y.migrates.filter (· != j) }))) := by
  rw [hmove] at hbytes
  simp only [exec, execTransferDescriptorComplete, hi, prefetchMove, hmove, hjob, hbytes]

/-! ## GATHER from the partition (R201, R209) -/

theorem conErrs_nil (t : Nat) (s : State) : conErrs t [] [] s = s := rfl

theorem markLost_nil (l : List MByte) : markLost [] l = l := by
  refine List.ext_getElem (by simp [markLost]) fun i hi hi' => ?_
  simp [markLost]

theorem poisonedRead_nil (c : Copy) : poisonedRead c [] = none := by simp [poisonedRead]

theorem Mtc.noteFault_memories (v : Mtc) (code : BitVec 16) (t addr : Nat) :
    (v.noteFault code t addr).con = v.con ∧ (v.noteFault code t addr).stk = v.stk ∧ (v.noteFault code t addr).yard = v.yard := by
  unfold Mtc.noteFault
  split <;> exact ⟨rfl, rfl, rfl⟩

/-- A GATHER's DISPATCH has started, and one descriptor fewer is left. -/
def gatherTaken (i : Nat) (s : State) : State :=
  (startDispatch i s).modDispatch i (fun x => { x with descsLeft := x.descsLeft - 1 })

/-- One row of a gather from the partition: the `k.2`-th of the list, read by index `k.1`. -/
def gatherRow (p : Part) (src stride bytes dst : Nat) (u : State) (k : Nat × Nat) : State :=
  partWrite p (dst + k.2 * bytes) (u.partRead p (src + k.1 * stride) bytes) u

section
variable {i : Nat} {t : Ten} {s : State} {x : Dispatch} {list count bytes src stride limit dst : Nat}
  (hx : s.dispatch? i = some x) (hten : x.tenant = t.val) (hleft : x.descsLeft ≠ 0) (hfinish : s.mayFinish i = true)
  (hcount : 1 ≤ count) (hcount' : count ≤ 65536) (hmod : bytes % 32 = 0) (hbytes : 32 ≤ bytes) (hbytes' : bytes ≤ 65536)
  (hlist : (s.tenantPart t).allows false list (4 * count) = true) (hdst : (s.tenantPart t).allows true dst (bytes * count) = true)
include hx hten hleft hfinish hcount hcount' hmod hbytes hbytes' hlist hdst

/-- With every index good its rows are written one after the other. -/
theorem exec_gather_of_good {is : List Nat}
    (hidx : gatherIndices ((gatherTaken i s).partRead (s.tenantPart t) list (4 * count)) = is.map (fun k => (k, false)))
    (hlimit : ∀ k ∈ is, k < limit) (hin : ∀ k ∈ is, (s.tenantPart t).allows false (src + k * stride) bytes = true) :
    exec (.gather i t list count bytes false src stride limit dst ⟨[], [], []⟩) s =
      .next (is.zipIdx.foldl (gatherRow (s.tenantPart t) src stride bytes dst) (gatherTaken i s)) := by
  have hbelow : (is.map (fun k => (k, false))).any (fun k => !k.2 && decide (limit ≤ k.1)) = false := by
    simpa using hlimit
  have hnamed : (((is.map (fun k => (k, false))).filter (fun k => !k.2)).map (fun k => src + k.1 * stride)).all
      (fun a => (s.tenantPart t).allows false a bytes) = true := by
    simpa using hin
  have hclean : x.copy.bind (fun c => poisonedRead ((s.tenant t).copy c.val) []) = none := by
    cases x.copy <;> simp [poisonedRead_nil]
  have hgood : (is.map (fun k => (k, false))).any (·.2) = false := by simp
  simp only [gatherTaken] at hidx
  simp [exec, execGather, conErrs_nil, hx, hten, hleft, hfinish, hcount, hcount', hmod, hbytes, hbytes', hlist, hdst, hidx, hbelow,
    hnamed, hgood, hclean, List.zipIdx_map, List.foldl_map, markLost_nil, gatherTaken]
  rfl

/-- An index at or above the limit faults the DISPATCH, and no row is written. -/
theorem exec_gather_of_beyond
    (hbeyond : ∃ k ∈ gatherIndices ((gatherTaken i s).partRead (s.tenantPart t) list (4 * count)), k.2 = false ∧ limit ≤ k.1) :
    exec (.gather i t list count bytes false src stride limit dst ⟨[], [], []⟩) s =
      .next (record Code.gatherIndex (some t.val) unitNone 0 0
        { (gatherTaken i s).modDispatch i (Dispatch.faulted Code.gatherIndex (BitVec.ofNat 64 unitNone)) with
          mtc := s.mtc.noteFault Code.gatherIndex t.val 0 }) := by
  have hany : (gatherIndices ((gatherTaken i s).partRead (s.tenantPart t) list (4 * count))).any
      (fun k => !k.2 && decide (limit ≤ k.1)) = true := by
    simpa using hbeyond
  simp only [gatherTaken] at hany
  simp [exec, execGather, conErrs_nil, hx, hten, hleft, hfinish, hcount, hcount', hmod, hbytes, hbytes', hlist, hdst, hany, gatherTaken]

end

/-- A DISPATCH without a fault takes the one of its GATHER. -/
theorem mem_gatherTaken_faulted {i : Nat} {s : State} {y : Dispatch} (hy : y ∈ s.disp) (hid : y.id = i) (hfault : y.fault = none)
    {code : BitVec 16} (hcode : code ≠ Code.uePoison) (unit : BitVec 64) :
    ∃ z ∈ ((gatherTaken i s).modDispatch i (Dispatch.faulted code unit)).disp,
      z.id = i ∧ z.discard = true ∧ z.fault = some (code, unit) := by
  obtain ⟨z, hz, hzid, hzfault⟩ := mem_startDispatch hy hid
  refine ⟨_, mem_updDispatch (mem_updDispatch hz (hzid.trans hid)) (hzid.trans hid), hzid.trans hid, ?_, ?_⟩
  · simp [Dispatch.faulted, hcode]
  · simp [Dispatch.faulted, hzfault, hfault]

/-- Settles O26: each clause by its command's equation; the copy of a PREFETCH by what its completion leaves alone, a faulted GATHER by the
DISPATCH that takes its fault. -/
theorem transfersAndGathers : Obligations.TransfersAndGathers := by
  unfold Obligations.TransfersAndGathers
  intro d e i t a k s s1 x j m c n list count bytes src stride limit dst is s0
  refine ⟨?transfer, ?prefetch, ?gather⟩
  case transfer =>
    rintro hi rfl hmove htq hx rfl hten hexpects hfinish hfits hclean hary hbytes
    rw [← hten] at hbytes hclean hary
    refine ⟨_, (exec_transfer_of_dispatch hi hmove hx hten hexpects hfinish hfits).trans
      (congrArg _ (dispatchMove_of_memToCon hmove hclean hbytes)), by simp [descDone], descDone_disp hmove s1, ?_⟩
    rw [hmove] at hbytes
    rw [descDone, htq, countTq_count]
    · rfl
    · exact (State.aryTenant_congr (moveBytes_memToCon_ten hbytes) a).trans hary
  case prefetch =>
    rintro hi rfl hmove hjob hbytes
    refine ⟨_, exec_transfer_of_prefetch hi hmove hjob hbytes, ?_, ?_⟩
    · rw [seesOnlyMigrations_mtc.complete]
      rfl
    · rw [(seesOnlyMigrations_migrates _).complete]
      simp
  case gather =>
    intro hx hten hleft hfinish hcount hcount' hmod hbytes hbytes' hlist hdst
    refine ⟨exec_gather_of_good hx hten hleft hfinish hcount hcount' hmod hbytes hbytes' hlist hdst, fun hbeyond => ?_⟩
    obtain ⟨hcon, hstk, hyard⟩ := s.mtc.noteFault_memories Code.gatherIndex t.val 0
    refine ⟨_, exec_gather_of_beyond hx hten hleft hfinish hcount hcount' hmod hbytes hbytes' hlist hdst hbeyond, ?_⟩
    simp only [record_mtc, record_disp]
    exact ⟨hcon, hstk, hyard, fun y hy hid hfault => mem_gatherTaken_faulted hy hid hfault (by decide) _⟩

end Sys2Proof.Machine
end

section
/-! PROOFS, plan queues. The instruction that a queue presents at its head, whatever becomes of it; queues while the instructions of their
tenant complete; what a stop leaves of a queue (R122, R124, R128, R132, R136, R137, R147). -/

namespace Sys2Proof.Machine

/-! ## The instruction that a queue presents -/

/-- The command of a plan instruction presents its words; those of a DISPATCH are its own where it is given what the tiler may make of
it. -/
theorem exec_eq_present {i : Instr} {t : Ten} {q : Que} {w0 w1 : BitVec 64} (h : planWords i = some (t, q, w0, w1, true)) (s : State) :
    ∃ mine body, exec i s = .next (present t q w0 w1 mine body s) ∧ ((∀ e, s.emits t q w0 w1 e = true) → mine = true) := by
  unfold planWords at h
  split at h
  case h_3 =>
    simp only [Option.some.injEq, Prod.mk.injEq] at h
    obtain ⟨rfl, rfl, rfl, rfl, hop⟩ := h
    exact ⟨_, _, rfl, fun he => by rw [hop, he]; rfl⟩
  case h_35 => cases h
  all_goals
    simp only [Option.some.injEq, Prod.mk.injEq] at h
    obtain ⟨rfl, rfl, rfl, rfl, hop⟩ := h
    exact ⟨_, _, rfl, fun _ => hop⟩

section
variable {t : Ten} {q : Que} {w0 : BitVec 64} {s : State} (h : Presents s t q w0)
include h

theorem Presents.noneWaits : NoneWaits t s := by
  obtain ⟨-, -, -, -, -, -, hwait, -⟩ := h
  exact fun r hr => hwait ⟨r, hr⟩

theorem Presents.presented (w1 : BitVec 64) : s.presented? t q w0 w1 = some (atHead s t q w0 w1) := by
  obtain ⟨hatt, hruns, -, hretry, hslots, -, hwait, -⟩ := h
  simp only [State.presented?, hruns, hwait q, hatt, hretry, if_pos hslots, atHead, Bool.not_true, Bool.false_eq_true, if_false]

theorem Presents.taken : taken t q s = passTurn t q s := by
  obtain ⟨-, -, -, -, -, hbatch, hwait, -⟩ := h
  simp [Machine.taken, hwait q, Option.isNone_eq_false_iff.mpr hbatch]

theorem Presents.queue_enable : (s.queue t q).enable = true ∧ (s.queue t q).st = .idle := by
  obtain ⟨-, hruns, -⟩ := h
  simp only [State.queueRuns, Bool.and_eq_true, beq_iff_eq] at hruns
  obtain ⟨⟨⟨-, henable⟩, hidle⟩, -⟩ := hruns
  exact ⟨henable, hidle⟩

/-- An instruction whose words fail a check does no work: it fails before it issues (R122). -/
theorem present_of_failing {w1 : BitVec 64} {c : BitVec 16} {addr : Nat} (hcheck : planCheck (s.tenant t) w0 w1 = some (c, addr))
    (body : Presented → State → State) :
    present t q w0 w1 true body s = failUnissued t q (atHead s t q w0 w1) c addr 0 (passTurn t q s) := by
  have hpresented := h.presented w1
  have htaken := h.taken
  obtain ⟨-, -, hturn, -⟩ := h
  rw [← planCheck_passTurn t q] at hcheck
  simp only [present, hpresented, hturn, htaken, hcheck, Bool.or_true, Bool.not_true, Bool.or_false, Bool.false_eq_true, if_false]

/-- One that passes them waits where its condition has not come (R124). -/
theorem present_of_unready {w1 : BitVec 64} (hcheck : planCheck (s.tenant t) w0 w1 = none)
    (hready : issueReady s t q (atHead s t q w0 w1) = false) {mine : Bool} (hmine : mine = true) (body : Presented → State → State) :
    present t q w0 w1 mine body s =
      (passTurn t q s).modQueue t q (fun y => { y with waiting := some (atHead s t q w0 w1) }) := by
  have hpresented := h.presented w1
  have htaken := h.taken
  obtain ⟨-, -, hturn, -⟩ := h
  rw [← planCheck_passTurn t q] at hcheck
  rw [← issueReady_passTurn] at hready
  simp only [present, hpresented, hmine, hturn, htaken, hcheck, hready, Bool.or_true, Bool.not_true, Bool.or_false,
    Bool.false_eq_true, if_false]

end

/-- Where the queue of an instruction at its head runs, the failure leaves it FAULTED at the head with the code, its record waiting (R136). -/
theorem Queue.failUnissued_of_idle {p : Presented} {y : Queue} (hst : y.st = .idle) (hidx : p.idx = y.head) (code : BitVec 16)
    (detail : BitVec 64) : y.failUnissued p code detail = { y with
      st := .faulted, fcode := code, stuck := some ⟨y.head, p.slots, false⟩, waiting := none, retry := none
      issued := insertIssued y.head (p.entry (some code) 0 detail) y.issued } := by
  simp [Queue.failUnissued, Queue.faultAt, hst, hidx]

/-- An instruction that fails before it issues: what it leaves of an enabled queue that runs, and that nothing else of the machine but
its tenant and the log is touched. -/
theorem exists_failUnissued {t q : Nat} (p : Presented) (code : BitVec 16) (addr arg : Nat) {s : State}
    (hen : (s.queue t q).enable = true) (hst : (s.queue t q).st = .idle) :
    ∃ u, failUnissued t q p code addr arg s = record code (some t) unitNone arg addr u ∧ u = { s with ten := u.ten } ∧
      (∀ r, r ≠ t → u.tenant r = s.tenant r) ∧
      u.queue t q = (s.queue t q).failUnissued p code (detailOf addr unitNone) := by
  obtain ⟨u, hu, hrest, hothers, hstop⟩ := exists_stopSettled t q ((s.queue t q).failUnissued p code (detailOf addr unitNone)) s
  refine ⟨u, by rw [← hu]; rfl, hrest, hothers, ?_⟩
  rw [State.queue, hstop.enabled q, Tenant.queue_setQueue, if_pos rfl]
  rw [Tenant.queue_setQueue, if_pos rfl]
  simpa [Queue.failUnissued, Queue.faultAt, hst] using hen

/-! ## What a stop leaves of the queues (R128, R132, R137) -/

/-- A queue that is being disabled and has nothing incomplete: a stop that settles leaves it DISABLED. -/
def Queue.mayDrain (v : Queue) : Bool := v.st != .disabled && !v.enable && v.allDone

def Tenant.drainQueue (y : Tenant) (q : Nat) : Tenant :=
  if (y.queue q).mayDrain then y.setQueue q (y.queue q).drained else y

def Tenant.drainQueues (n : Nat) (y : Tenant) : Tenant := (List.range n).foldl Tenant.drainQueue y

theorem Tenant.drainQueues_succ (n : Nat) (y : Tenant) : y.drainQueues (n + 1) = (y.drainQueues n).drainQueue n := by
  rw [Tenant.drainQueues, List.range_succ, List.foldl_append]
  rfl

theorem Tenant.queue_drainQueues (n : Nat) (y : Tenant) (r : Nat) :
    (y.drainQueues n).queue r = if r < n ∧ (y.queue r).mayDrain = true then (y.queue r).drained else y.queue r := by
  induction n generalizing r with
  | zero => simp [Tenant.drainQueues]
  | succ n ih =>
    have hn : (y.drainQueues n).queue n = y.queue n := by rw [ih, if_neg fun h => Nat.lt_irrefl n h.1]
    rw [Tenant.drainQueues_succ, Tenant.drainQueue, hn]
    by_cases hr : r = n
    · subst hr
      split
      · next hd => rw [Tenant.queue_setQueue, if_pos rfl, if_pos ⟨Nat.lt_succ_self r, hd⟩]
      · next hd => rw [hn, if_neg fun h => hd h.2]
    · have hlt : r < n + 1 ↔ r < n := by omega
      simp only [hlt, ← ih]
      split
      · rw [Tenant.queue_setQueue, if_neg hr]
      · rfl

@[simp] theorem Tenant.drainQueues_st (n : Nat) (y : Tenant) : (y.drainQueues n).st = y.st :=
  foldl_keeps Tenant.st _ _ y fun y q => by
    unfold Tenant.drainQueue
    split <;> rfl

theorem Tenant.settleStop_eq (y : Tenant) : y.settleStop =
    if (y.drainQueues 8).st = .stopping ∧ (List.range 8).all (fun q => ((y.drainQueues 8).queue q).allDone) then
      { y.drainQueues 8 with st := .stopped }
    else y.drainQueues 8 := rfl

@[simp] theorem Queue.closeBatch_issued (y : Queue) : y.closeBatch.issued = y.issued := by unfold Queue.closeBatch; split <;> rfl

@[simp] theorem Queue.drained_allDone (v : Queue) : v.drained.allDone = v.allDone := by
  simp only [Queue.allDone, Queue.drained, Queue.closeBatch_issued]

theorem Tenant.queue_settleStop (y : Tenant) (r : Nat) :
    y.settleStop.queue r = if r < 8 ∧ (y.queue r).mayDrain = true then (y.queue r).drained else y.queue r := by
  rw [← Tenant.queue_drainQueues, Tenant.settleStop_eq]
  generalize y.drainQueues 8 = z
  split <;> rfl

/-- A stop is over when nothing of the eight queues is incomplete (R137). -/
theorem Tenant.settleStop_st (y : Tenant) : y.settleStop.st =
    if y.st = .stopping ∧ (List.range 8).all (fun r => (y.queue r).allDone) = true then .stopped else y.st := by
  have hdone (r : Nat) : ((y.drainQueues 8).queue r).allDone = (y.queue r).allDone := by
    rw [Tenant.queue_drainQueues]
    split
    · exact Queue.drained_allDone _
    · rfl
  simp only [Tenant.settleStop_eq, Tenant.drainQueues_st, hdone, apply_ite Tenant.st]

/-! ## What goes on in a tenant while its instructions complete and issue -/

/-- A queue that nothing goes on in: nothing of it is incomplete or waits, and a stop has nothing to settle there. -/
structure Queue.Idle (v : Queue) : Prop where
  allDone : v.allDone = true
  waiting : v.waiting = none
  settled : v.enable = true ∨ v.st = .disabled

theorem Queue.Idle.not_mayDrain {v : Queue} (h : v.Idle) : v.mayDrain = false := by
  rcases h.settled with h | h <;> simp [Queue.mayDrain, h]

theorem Queue.Idle.find_eq_none {v : Queue} (h : v.Idle) (idx : Reg32) :
    v.issued.find? (fun e => e.idx == idx && e.status.isNone) = none := by
  have hall := h.allDone
  simp only [Queue.allDone, List.all_eq_true] at hall
  refine List.find?_eq_none.mpr fun e he => ?_
  simp [Option.isSome_iff_ne_none.mp (hall e he)]

/-- A context whose instructions have gone on: it differs in queues, copies, events and state alone, and in its state only by a stop
that is over. What had completed and asks for a record stays issued, and the queues in `Q` are as they were. -/
structure Tenant.GoesOn (Q : Nat → Prop) (y z : Tenant) : Prop where
  only : z = { y with queues := z.queues, copies := z.copies, events := z.events, st := z.st }
  st : y.st ≠ .stopping → z.st = y.st
  closed : ∀ r, ∀ e ∈ (y.queue r).issued, e.status.isSome = true → e.cpl = true → e ∈ (z.queue r).issued
  same : ∀ r, Q r → z.queue r = y.queue r

section
variable {Q : Nat → Prop} {x y z : Tenant}

theorem Tenant.GoesOn.refl (Q : Nat → Prop) (y : Tenant) : y.GoesOn Q y := ⟨rfl, fun _ => rfl, fun _ _ he _ _ => he, fun _ _ => rfl⟩

theorem Tenant.GoesOn.trans (h : x.GoesOn Q y) (h' : y.GoesOn Q z) : x.GoesOn Q z where
  only := by rw [h'.only, h.only]
  st hst := (h'.st (by rwa [h.st hst])).trans (h.st hst)
  closed r e he hdone hcpl := h'.closed r e (h.closed r e he hdone hcpl) hdone hcpl
  same r hr := (h'.same r hr).trans (h.same r hr)

theorem Tenant.GoesOn.idle (h : y.GoesOn Q z) (hQ : ∀ r, Q r → (y.queue r).Idle) (r : Nat) (hr : Q r) : (z.queue r).Idle := by
  rw [h.same r hr]
  exact hQ r hr

/-- A queue outside `Q` is replaced by one in which what had completed and asks for a record stays. -/
theorem Tenant.goesOn_setQueue {q : Nat} {v : Queue} (hq : ¬ Q q)
    (hv : ∀ e ∈ (y.queue q).issued, e.status.isSome = true → e.cpl = true → e ∈ v.issued) : y.GoesOn Q (y.setQueue q v) where
  only := rfl
  st _ := rfl
  closed r e he hdone hcpl := by
    rw [Tenant.queue_setQueue]
    split
    · next hrq => exact hv e (hrq ▸ he) hdone hcpl
    · exact he
  same r hr := by
    rw [Tenant.queue_setQueue, if_neg]
    rintro rfl
    exact hq hr

theorem Tenant.goesOn_settleStop (hQ : ∀ r, Q r → (y.queue r).Idle) : y.GoesOn Q y.settleStop where
  only := by
    have honly : y.settleStop = { y with queues := y.settleStop.queues, st := y.settleStop.st } := (Tenant.stopSettled_settleStop y).only
    rw [honly]
  st hst := by rw [Tenant.settleStop_st, if_neg fun h => hst h.1]
  closed r e he _ _ := by
    rw [Tenant.queue_settleStop]
    split
    · simpa [Queue.drained] using he
    · exact he
  same r hr := by
    rw [Tenant.queue_settleStop, if_neg]
    simp [(hQ r hr).not_mayDrain]

end

/-- The machine after instructions of a tenant have gone on: nothing but the tenant's context differs. -/
structure GoesOn (Q : Nat → Prop) (t : Nat) (s u : State) : Prop where
  rest : u = { s with ten := u.ten }
  others : ∀ r, r ≠ t → u.tenant r = s.tenant r
  tenant : (s.tenant t).GoesOn Q (u.tenant t)

section
variable {Q : Nat → Prop} {t : Nat} {s u v : State}

theorem GoesOn.refl (Q : Nat → Prop) (t : Nat) (s : State) : GoesOn Q t s s := ⟨rfl, fun _ _ => rfl, .refl Q _⟩

theorem GoesOn.trans (h : GoesOn Q t s u) (h' : GoesOn Q t u v) : GoesOn Q t s v :=
  ⟨by rw [h'.rest, h.rest], fun r hr => (h'.others r hr).trans (h.others r hr), h.tenant.trans h'.tenant⟩

theorem GoesOn.idle (h : GoesOn Q t s u) (hQ : ∀ r, Q r → (s.queue t r).Idle) (r : Nat) (hr : Q r) : (u.queue t r).Idle :=
  h.tenant.idle hQ r hr

theorem goesOn_modTenant {f : Tenant → Tenant} (h : (s.tenant t).GoesOn Q (f (s.tenant t))) : GoesOn Q t s (s.modTenant t f) :=
  ⟨rfl, fun r hr => by rw [State.tenant_modTenant, if_neg hr], by rwa [State.tenant_modTenant, if_pos rfl]⟩

theorem goesOn_modQueue {q : Nat} {f : Queue → Queue} (hq : ¬ Q q)
    (hf : ∀ e ∈ (s.queue t q).issued, e.status.isSome = true → e.cpl = true → e ∈ (f (s.queue t q)).issued) :
    GoesOn Q t s (s.modQueue t q f) :=
  goesOn_modTenant (f := fun y => y.setQueue q (f (s.queue t q))) (Tenant.goesOn_setQueue hq hf)

/-- A copy of the tenant changes. -/
theorem goesOn_setCopy (c : Nat) (v : Copy) : GoesOn Q t s (s.modTenant t (fun y => y.setCopy c v)) :=
  goesOn_modTenant ⟨rfl, fun _ => rfl, fun _ _ he _ _ => he, fun _ _ => rfl⟩

variable (hQ : ∀ r, Q r → (s.queue t r).Idle)
include hQ

theorem goesOn_finish {status : BitVec 16} (hs : Harmless status) (q : Nat) (idx : Reg32) (value : BitVec 64) (addr unit : Nat)
    (log : Bool) : GoesOn Q t s (finish t q idx status value addr unit log s) := by
  cases h : (s.queue t q).issued.find? (fun e => e.idx == idx && e.status.isNone) with
  | none => rw [finish_of_absent h]; exact .refl Q t s
  | some e =>
    have hq : ¬ Q q := fun hq => by simp [(hQ q hq).find_eq_none idx] at h
    rw [finish_of_open hs h]
    have hset : GoesOn Q t s (s.setQueue t q ((s.queue t q).finished idx e.opcode status value
        (if status = 0 then 0 else detailOf addr unit))) := by
      refine goesOn_modTenant (Tenant.goesOn_setQueue hq fun x hx hdone hcpl => ?_)
      have hclose : x.closeAt idx status value (if status = 0 then 0 else detailOf addr unit) = x :=
        if_neg fun hc => by simp [hc.2] at hdone
      rw [Queue.finished_issued]
      exact mem_trimIssued (List.mem_map.mpr ⟨x, hx, hclose⟩) (.inr (Issued.records_of_cpl hcpl))
    exact hset.trans (goesOn_modTenant (Tenant.goesOn_settleStop (hset.idle hQ)))

theorem goesOn_settleCopy (c : Fin 4) : GoesOn Q t s (settleCopy t c s) := by
  have hcopy : GoesOn Q t s (s.modTenant t (fun y => y.setCopy c Copy.init)) := goesOn_setCopy ..
  rcases settleCopy_cases t c s with h | h | ⟨w, h⟩ <;> rw [h]
  · exact .refl Q t s
  · exact hcopy
  · exact hcopy.trans (goesOn_finish (hcopy.idle hQ) (.inl rfl) ..)

theorem goesOn_settleCopies : GoesOn Q t s (settleCopies t s) := by
  rw [settleCopies_eq_foldl]
  exact foldl_holds (GoesOn Q t s) _ _ s (fun u c hu => hu.trans (goesOn_settleCopy (hu.idle hQ) c)) (.refl Q t s)

theorem goesOn_issueDone {q : Nat} (hq : ¬ Q q) (p : Presented) (value : BitVec 64) : GoesOn Q t s (issueDone t q p value s) := by
  have hissue : GoesOn Q t s (s.modQueue t q (Queue.issue p none 0)) := goesOn_modQueue hq fun e he _ hcpl =>
    mem_trimIssued (mem_insertIssued.mpr (.inr he)) (.inr (Issued.records_of_cpl hcpl))
  exact hissue.trans (goesOn_finish (hissue.idle hQ) (.inl rfl) ..)

theorem goesOn_simpleBody {q : Nat} (hq : ¬ Q q) (p : Presented) : GoesOn Q t s (simpleBody t q p s) := by
  unfold simpleBody
  extract_lets op s1
  split
  · have hbatch : GoesOn Q t s s1 := goesOn_modQueue hq fun e he _ _ => by simpa [Queue.openBatch] using he
    have hcopies := hbatch.trans (goesOn_settleCopies (hbatch.idle hQ))
    exact hcopies.trans (goesOn_issueDone (hcopies.idle hQ) hq ..)
  · split
    · have hevent : GoesOn Q t s (s.modTenant t (fun y => y.addEvent (pf p.w0 39 32) (pf p.w0 15 0))) :=
        goesOn_modTenant ⟨rfl, fun _ => rfl, fun _ _ he _ _ => he, fun _ _ => rfl⟩
      exact hevent.trans (goesOn_issueDone (hevent.idle hQ) hq ..)
    · split <;> exact goesOn_issueDone hQ hq ..

theorem goesOn_settleQueue (q : Nat) : GoesOn Q t s (settleQueue t q s) := by
  unfold settleQueue
  split
  · exact .refl Q t s
  · next p hp =>
    split
    · exact goesOn_simpleBody hQ (fun hq => by simp [(hQ q hq).waiting] at hp) p
    · exact .refl Q t s

theorem goesOn_settle : GoesOn Q t s (settle t s) :=
  foldl_holds (GoesOn Q t s) _ _ s (fun _ _ hu => foldl_holds (GoesOn Q t s) _ _ _
    (fun _ q hv => hv.trans (goesOn_settleQueue (hv.idle hQ) q)) hu) (.refl Q t s)

theorem goesOn_complete {status : BitVec 16} (hs : Harmless status) (q : Nat) (idx : Reg32) (value : BitVec 64) (addr unit : Nat)
    (log : Bool) : GoesOn Q t s (complete t q idx status value addr unit log s) := by
  have hfinish : GoesOn Q t s (finish t q idx status value addr unit log s) := goesOn_finish hQ hs ..
  have hcopies := hfinish.trans (goesOn_settleCopies (hfinish.idle hQ))
  exact hcopies.trans (goesOn_settle (hcopies.idle hQ))

end

end Sys2Proof.Machine
end

section
/-! PROOFS, O10. A plan instruction whose words fail a check (R122, R136). -/

namespace Sys2Proof.Machine

/-- What of the machine the contexts, the log and the blocks' first faults do not enter is as it was before the instruction was taken. -/
theorem failUnissued_passTurn_keeps {γ : Type} (f : State → γ)
    (hf : ∀ s x r g o d k w, f { s with ten := x, frc := r, glb := g, out := o, dep := d, sec := k, win := w } = f s)
    (t q : Nat) (p : Presented) (code : BitVec 16) (addr arg : Nat) (s : State) :
    f (failUnissued t q p code addr arg (passTurn t q s)) = f s :=
  (record_keeps f (fun s r g o d k w => hf s s.ten r g o d k w) ..).trans (hf s _ s.frc s.glb s.out s.dep _ s.win)

/-- Settles O10: every plan instruction presents its words, and one whose words fail a check fails before it issues. -/
theorem planChecksHaveNoEffectButTheFault : Obligations.PlanChecksHaveNoEffectButTheFault := by
  unfold Obligations.PlanChecksHaveNoEffectButTheFault
  intro i s t q w0 w1 c addr hi hp hcheck
  obtain ⟨mine, body, hexec, hmine⟩ := exec_eq_present hi s
  have hemits (e : Emission) : s.emits t q w0 w1 e = true := by
    rw [← planCheck_passTurn t q] at hcheck
    simp [State.emits, hp.presented w1, hp.taken, hcheck]
  rw [hmine hemits, present_of_failing hp hcheck] at hexec
  obtain ⟨hen, hst⟩ := hp.queue_enable
  obtain ⟨u, hu, -, hothers, hq⟩ := exists_failUnissued (s := passTurn t q s) (atHead s t q w0 w1) c addr 0
    (by rw [passTurn_queue, hen]) (by rw [passTurn_queue, hst])
  have htenant (r : Nat) :
      (failUnissued t q (atHead s t q w0 w1) c addr 0 (passTurn t q s)).tenant r = u.tenant r := by
    rw [hu]
    exact State.tenant_congr (record_ten ..) r
  have hqueue : (failUnissued t q (atHead s t q w0 w1) c addr 0 (passTurn t q s)).queue t q =
      (s.queue t q).failUnissued (atHead s t q w0 w1) c (detailOf addr unitNone) := by
    rw [State.queue, htenant, ← passTurn_queue, ← hq, State.queue]
  refine ⟨_, hexec, ?_, ?_, ?_, ?_, ?_, fun r hr => ?_, failUnissued_passTurn_keeps State.ary (fun _ _ _ _ _ _ _ _ => rfl) ..,
    failUnissued_passTurn_keeps State.pipe (fun _ _ _ _ _ _ _ _ => rfl) ..,
    failUnissued_passTurn_keeps State.kv (fun _ _ _ _ _ _ _ _ => rfl) ..,
    failUnissued_passTurn_keeps State.disp (fun _ _ _ _ _ _ _ _ => rfl) ..,
    failUnissued_passTurn_keeps State.mtc (fun _ _ _ _ _ _ _ _ => rfl) ..,
    failUnissued_passTurn_keeps State.xpr (fun _ _ _ _ _ _ _ _ => rfl) ..,
    failUnissued_passTurn_keeps State.dispNext (fun _ _ _ _ _ _ _ _ => rfl) ..⟩
  · rw [hqueue, Queue.failUnissued_of_idle hst rfl]
  · rw [hqueue, Queue.failUnissued_of_idle hst rfl]
  · rw [hqueue, Queue.failUnissued_of_idle hst rfl]
  · rw [hqueue, Queue.failUnissued_of_idle hst rfl]
    rfl
  · rw [hqueue, Queue.failUnissued_of_idle hst rfl]
    exact ⟨_, mem_insertIssued.mpr (.inl rfl), rfl, rfl⟩
  · rw [htenant, hothers r (fun hrt => hr (Fin.ext hrt)), (onlyTenant_passTurn t q s).2 r hr]

end Sys2Proof.Machine
end

section
/-! PROOFS, O11. The plan instructions of no resource, and opcodes that are not listed (R122 to R124, R126 to R128, R135). -/

namespace Sys2Proof.Machine

/-! ## Batches while instructions complete -/

section
variable {t q : Nat} {s : State}

theorem Queue.finished_batch (idx : Reg32) (opcode : BitVec 8) (status : BitVec 16) (value detail : BitVec 64) (y : Queue) :
    (y.finished idx opcode status value detail).batch = y.batch := by
  unfold Queue.finished
  dsimp only
  split <;> rfl

/-- A stop that settles leaves an enabled queue alone. -/
theorem Tenant.queue_settleStop_of_enabled {y : Tenant} {r : Nat} (h : (y.queue r).enable = true) :
    y.settleStop.queue r = y.queue r := by
  rw [Tenant.queue_settleStop, if_neg]
  simp [Queue.mayDrain, h]

/-- The queue after an open instruction of it has completed. -/
theorem finish_queue_of_open {idx : Reg32} {status : BitVec 16} (hs : Harmless status) {value : BitVec 64} {addr unit : Nat} {log : Bool}
    {e : Issued} (h : (s.queue t q).issued.find? (fun e => e.idx == idx && e.status.isNone) = some e) {r : Nat}
    (hen : (s.queue t r).enable = true) :
    (finish t q idx status value addr unit log s).queue t r = if r = q then
      (s.queue t q).finished idx e.opcode status value (if status = 0 then 0 else detailOf addr unit) else s.queue t r := by
  have hset := Tenant.queue_setQueue (s.tenant t) q r
    ((s.queue t q).finished idx e.opcode status value (if status = 0 then 0 else detailOf addr unit))
  rw [finish_of_open hs h, State.queue, State.tenant_modTenant, if_pos rfl, State.setQueue, State.tenant_modTenant, if_pos rfl,
    Tenant.queue_settleStop_of_enabled, hset]
  · rfl
  · rw [hset]
    split
    · next hrq => rw [(Queue.kept_finished ..).enable, ← hrq, hen]
    · exact hen

/-- What completes leaves the open batch of an enabled queue. -/
theorem finish_batch {r : Nat} (hen : (s.queue t r).enable = true) (idx : Reg32) (value : BitVec 64) (addr unit : Nat) (log : Bool) :
    ((finish t q idx 0 value addr unit log s).queue t r).batch = (s.queue t r).batch := by
  cases h : (s.queue t q).issued.find? (fun e => e.idx == idx && e.status.isNone) with
  | none => rw [finish_of_absent h]
  | some e =>
    rw [finish_queue_of_open (.inl rfl) h hen]
    split
    · next hrq => rw [Queue.finished_batch, hrq]
    · rfl

theorem settleCopy_batch {r : Nat} (hen : (s.queue t r).enable = true) (c : Fin 4) :
    ((settleCopy t c s).queue t r).batch = (s.queue t r).batch := by
  have hcopy : (s.modTenant t (fun y => y.setCopy c Copy.init)).queue t r = s.queue t r := State.queue_modTenant_of rfl r
  rcases settleCopy_cases t c s with h | h | ⟨w, h⟩ <;> rw [h]
  · rw [hcopy]
  · rw [finish_batch (by rwa [hcopy]), hcopy]

theorem progressed_settleCopies (t : Nat) (s : State) : Progressed t s (settleCopies t s) := by
  rw [settleCopies_eq_foldl]
  exact foldl_holds (Progressed t s) _ _ s (fun u c hu => hu.trans (progressed_settleCopy t c u)) (.refl t s)

theorem settleCopies_batch {r : Nat} (hen : (s.queue t r).enable = true) :
    ((settleCopies t s).queue t r).batch = (s.queue t r).batch := by
  have hen' (u : State) (c : Fin 4) (hu : (u.queue t r).enable = true) : ((settleCopy t c u).queue t r).enable = true :=
    ((progressed_settleCopy t c u).kept r).enable.trans hu
  unfold settleCopies
  rw [settleCopy_batch (hen' _ _ (hen' _ _ (hen' _ _ hen))), settleCopy_batch (hen' _ _ (hen' _ _ hen)), settleCopy_batch (hen' _ _ hen),
    settleCopy_batch hen]

end

theorem issueDone_batch {t q : Nat} {s : State} (hen : (s.queue t q).enable = true) (p : Presented) (value : BitVec 64) :
    ((issueDone t q p value s).queue t q).batch = (s.queue t q).batch := by
  have hissue : (s.modQueue t q (Queue.issue p none 0)).queue t q = (s.queue t q).issue p none 0 := by simp
  rw [issueDone, finish_batch (by rw [hissue]; exact hen), hissue]
  rfl

/-! ## An instruction at the head that completes as it issues -/

section
variable {t : Ten} {q : Que} {w0 w1 : BitVec 64} {s s0 : State}

/-- The instruction at the head, once it has issued, is the one that its index finds. -/
theorem find_issue_atHead (hfresh : ∀ e ∈ (s.queue t q).issued, e.idx ≠ (s.queue t q).head) :
    ((s.queue t q).issue (atHead s t q w0 w1) none 0).issued.find? (fun e => e.idx == (s.queue t q).head && e.status.isNone) =
      some ((atHead s t q w0 w1).entry none 0 0) := by
  have hmem := Queue.mem_issue_open (atHead s t q w0 w1) 0 (s.queue t q)
  have hfound : (((s.queue t q).issue (atHead s t q w0 w1) none 0).issued.find?
      (fun e => e.idx == (s.queue t q).head && e.status.isNone)).isSome = true :=
    List.find?_isSome.mpr ⟨_, hmem, by simp [Presented.entry]⟩
  obtain ⟨e, he⟩ := Option.isSome_iff_exists.mp hfound
  have hidx : e.idx = (s.queue t q).head := by
    have := List.find?_some he
    simp only [Bool.and_eq_true, beq_iff_eq] at this
    exact this.1
  rw [he]
  rcases mem_insertIssued.mp ((List.dropWhile_suffix _).mem (List.mem_of_find?_eq_some he)) with h | h
  · rw [h]
  · exact absurd hidx (hfresh e h)

/-- Where other work has left the head of its queue in place, an instruction there that issues and completes at once is done. -/
theorem doneAtHead_issueDone_of_head (hhead : (s0.queue t q).head = (s.queue t q).head) (hen : (s0.queue t q).enable = true) (value : Nat) :
    DoneAtHead s (issueDone t q (atHead s t q w0 w1) (BitVec.ofNat 64 value) s0) t q w0 value := by
  have hatHead : atHead s t q w0 w1 = atHead s0 t q w0 w1 := by rw [atHead, atHead, hhead]
  have h := doneAtHead_issueDone (t := t) (q := q) (w0 := w0) (w1 := w1) (s := s0) (s0 := s0) rfl hen value
  rw [DoneAtHead, ← hhead, hatHead]
  exact h

/-- An instruction that takes nothing but its words, done and its record's value. -/
theorem plain_effect (hi : MayIssue s t q w0 w1) {value : Nat} {v : BitVec 64} (hv : v = BitVec.ofNat 64 value) :
    let u := settle t (issueDone t q (atHead s t q w0 w1) v (passTurn t q s))
    DoneAtHead s u t q w0 value ∧ OnlyTenant t s u := by
  obtain ⟨hdone, honly, -⟩ := issueDone_effect hi (passTurn_queue t q s) (onlyTenant_passTurn t q s) hv
  exact ⟨hdone, honly⟩

end

/-! ## What each of them does when it issues -/

section
variable {t q : Nat} {p : Presented} {s : State}

theorem simpleBody_plain (h2 : pOp p.w0 ≠ 0x02) (h4 : pOp p.w0 ≠ 0x04) (h6 : pOp p.w0 ≠ 0x06) :
    simpleBody t q p s = issueDone t q p 0 s := by simp only [simpleBody, if_neg h2, if_neg h4, if_neg h6]

theorem simpleBody_batch (h : pOp p.w0 = 0x02) :
    simpleBody t q p s = issueDone t q p (BitVec.ofNat 64 (pf p.w0 31 0))
      (settleCopies t (s.modQueue t q (fun y => y.closeBatch.openBatch (s.tenant t).pointed))) := by
  simp only [simpleBody, if_pos h]

theorem simpleBody_signal (h : pOp p.w0 = 0x04) :
    simpleBody t q p s = issueDone t q p 0 (s.modTenant t (fun y => y.addEvent (pf p.w0 39 32) (pf p.w0 15 0))) := by
  simp [simpleBody, h]

theorem simpleBody_stamp (h : pOp p.w0 = 0x06) : simpleBody t q p s = issueDone t q p (BitVec.ofNat 64 s.glb.devTime) s := by
  simp [simpleBody, h]

end

theorem Queue.closeBatch_waiting (y : Queue) : y.closeBatch.waiting = y.waiting := by unfold Queue.closeBatch; split <;> rfl

/-- The copy that the points select does not depend on whose turn it is. -/
theorem pointed_passTurn (t q : Nat) (s : State) : ((passTurn t q s).tenant t).pointed = (s.tenant t).pointed := by
  rw [passTurn_tenant]
  rfl

theorem toNat_satAdd_32 (x : Reg32) (k : Nat) : (satAdd x k).toNat = min (2 ^ 32 - 1) (x.toNat + k) := by
  unfold satAdd
  split
  · rw [BitVec.toNat_ofNat]
    omega
  · rw [BitVec.toNat_allOnes]
    omega

section
variable {t : Ten} {q : Que} {w0 w1 : BitVec 64} {s : State} (hi : MayIssue s t q w0 w1)
include hi

/-- A NOP, WAITEV, FENCE or HALT that may issue is done. -/
theorem simple_plain_effect (h2 : pOp w0 ≠ 0x02) (h4 : pOp w0 ≠ 0x04) (h6 : pOp w0 ≠ 0x06) {mine : Bool} (hmine : mine = true) :
    let u := present t q w0 w1 mine (simpleBody t q) s
    DoneAtHead s u t q w0 0 ∧ OnlyTenant t s u := by
  rw [present_of_mayIssue hi _ hmine, simpleBody_plain (p := atHead s t q w0 w1) h2 h4 h6]
  exact plain_effect hi rfl

/-- R128: the batch closes, and one opens on the copy pointed to. -/
theorem batch_effect (hop : pOp w0 = 0x02) {mine : Bool} (hmine : mine = true) :
    let u := present t q w0 w1 mine (simpleBody t q) s
    DoneAtHead s u t q w0 (pf w0 31 0) ∧ (u.queue t q).batch = some ⟨(s.tenant t).pointed, true, 0⟩ ∧ OnlyTenant t s u := by
  rw [present_of_mayIssue hi _ hmine, simpleBody_batch (p := atHead s t q w0 w1) hop]
  have honly : OnlyTenant t s ((passTurn t q s).modQueue t q (fun y => y.closeBatch.openBatch ((passTurn t q s).tenant t).pointed)) :=
    (onlyTenant_passTurn t q s).trans (onlyTenant_modTenant t (fun y => y.setQueue q _) _)
  have hqueue (r : Nat) :
      ((passTurn t q s).modQueue t q (fun y => y.closeBatch.openBatch ((passTurn t q s).tenant t).pointed)).queue t r =
        if r = q then (s.queue t q).closeBatch.openBatch (s.tenant t).pointed else s.queue t r := by
    rw [State.queue_modQueue, passTurn_queue, passTurn_queue, pointed_passTurn]
    simp
  generalize (passTurn t q s).modQueue t q _ = s1 at honly hqueue ⊢
  have hq : s1.queue t q = (s.queue t q).closeBatch.openBatch (s.tenant t).pointed := (hqueue q).trans (if_pos rfl)
  have hwait : NoneWaits t s1 := fun r hr => by
    rw [hqueue]
    split
    · next hrq => simpa [Queue.openBatch, Queue.closeBatch_waiting] using hi.noneWaits q q.isLt
    · exact hi.noneWaits r hr
  have hen : (s1.queue t q).enable = true := by simpa [hq, Queue.openBatch] using hi.enable
  have hhead : (s1.queue t q).head = (s.queue t q).head := by simp [hq, Queue.openBatch]
  have hcopies := progressed_settleCopies t s1
  have hen2 := (hcopies.kept q).enable.trans hen
  rw [settle_of_noneWaits (hwait.progress hcopies).issueDone]
  refine ⟨doneAtHead_issueDone_of_head ((hcopies.kept q).head.trans hhead) hen2 _, ?_,
    (honly.trans hcopies.onlyTenant).trans (onlyTenant_issueDone ..)⟩
  rw [issueDone_batch hen2, settleCopies_batch hen, hq]
  rfl

/-- R127: the event rises, saturating. -/
theorem signal_effect (hop : pOp w0 = 0x04) {mine : Bool} (hmine : mine = true) :
    let u := present t q w0 w1 mine (simpleBody t q) s
    DoneAtHead s u t q w0 0 ∧ OnlyTenant t s u ∧
      ((u.tenant t).event (pf w0 39 32)).toNat = min (2 ^ 32 - 1) (((s.tenant t).event (pf w0 39 32)).toNat + pf w0 15 0) := by
  rw [present_of_mayIssue hi _ hmine, simpleBody_signal (p := atHead s t q w0 w1) hop, atHead_w0]
  obtain ⟨hdone, honly, hten⟩ := issueDone_effect hi
    (s0 := (passTurn t q s).modTenant t (fun y => y.addEvent (pf w0 39 32) (pf w0 15 0)))
    (fun r => (State.queue_modTenant_of rfl r).trans (passTurn_queue ..))
    ((onlyTenant_passTurn t q s).trans (onlyTenant_modTenant ..)) (v := 0) (value := 0) rfl
  refine ⟨hdone, honly, ?_⟩
  have hevents (y z : Tenant) (h : y.OnlyQueues z) (e : Nat) : z.event e = y.event e := by
    unfold Tenant.OnlyQueues at h
    rw [h]
    rfl
  rw [hevents _ _ hten, State.tenant_modTenant, if_pos rfl, Tenant.addEvent, Tenant.event, sget_supd, if_pos rfl, toNat_satAdd_32,
    passTurn_tenant]
  rfl

/-- R135: the record tells device time. -/
theorem stamp_effect (hop : pOp w0 = 0x06) {mine : Bool} (hmine : mine = true) :
    let u := present t q w0 w1 mine (simpleBody t q) s
    DoneAtHead s u t q w0 s.glb.devTime ∧ OnlyTenant t s u := by
  rw [present_of_mayIssue hi _ hmine, simpleBody_stamp (p := atHead s t q w0 w1) hop]
  exact plain_effect hi rfl

/-- R123: a HALT that is done leaves its queue HALTED. -/
theorem halt_effect (hop : pOp w0 = 0x07) {mine : Bool} (hmine : mine = true) :
    ((present t q w0 w1 mine (simpleBody t q) s).queue t q).st = .halted := by
  have hst := hi.st
  have hen := hi.enable
  have hwait := (hi.noneWaits.passTurn q).issueDone (q := q) (p := atHead s t q w0 w1) (value := 0)
  rw [present_of_mayIssue hi _ hmine, simpleBody_plain (p := atHead s t q w0 w1) (by simp [hop]) (by simp [hop]) (by simp [hop]),
    settle_of_noneWaits hwait]
  obtain ⟨⟨-, -, -, -, -, -, -, hfresh⟩, -, -⟩ := hi
  have hissue : ((passTurn t q s).modQueue t q (Queue.issue (atHead s t q w0 w1) none 0)).queue t q =
      (s.queue t q).issue (atHead s t q w0 w1) none 0 := by simp
  have hfind := find_issue_atHead (w0 := w0) (w1 := w1) hfresh
  rw [← hissue] at hfind
  rw [issueDone, atHead_idx, finish_queue_of_open (.inl rfl) hfind (by rw [hissue]; exact hen), if_pos rfl, hissue]
  simp [Queue.finished, Queue.issue, Presented.entry, hop, hst]

end

/-- Settles O11: an opcode that is not listed fails its first check; the others issue and are done, each with its own effect. -/
theorem simpleAndReservedPlanInstructions : Obligations.SimpleAndReservedPlanInstructions := by
  unfold Obligations.SimpleAndReservedPlanInstructions
  refine ⟨fun t q w0 w1 s hp hform => ?_, fun t q w0 w1 s => ⟨fun hop hi => ?_, fun hop hi => ?_, fun hop hi => ?_,
    fun hop hp hcheck hlt => ?_, fun hop hi => ?_, fun hop hi => ?_, fun hop hi => ?_, fun hop hi => ?_⟩⟩
  · have hcheck : planCheck (s.tenant t) w0 w1 = some (Code.planOpcode, 0) := by simp only [planCheck, hform]
    obtain ⟨u, hu, hst, hcode, hhead, -⟩ := planChecksHaveNoEffectButTheFault (.reservedPlanOpcode t q w0 w1) s t q w0 w1
      Code.planOpcode 0 (by simp [planWords, hform]) hp hcheck
    exact ⟨u, hu, hst, hcode, hhead⟩
  · exact ⟨_, rfl, simple_plain_effect hi (by simp [hop]) (by simp [hop]) (by simp [hop]) (by simp [hop])⟩
  · exact ⟨_, rfl, batch_effect hi hop (by simp [hop])⟩
  · exact ⟨_, rfl, simple_plain_effect hi (by simp [hop]) (by simp [hop]) (by simp [hop]) (by simp [hop])⟩
  · have hready : issueReady s t q (atHead s t q w0 w1) = false := by simp [issueReady, hop, Nat.not_le.mpr hlt]
    exact congrArg Host.Outcome.next (present_of_unready hp hcheck hready (by simp [hop]) _)
  · exact ⟨_, rfl, signal_effect hi hop (by simp [hop])⟩
  · exact ⟨_, rfl, simple_plain_effect hi (by simp [hop]) (by simp [hop]) (by simp [hop]) (by simp [hop])⟩
  · exact ⟨_, rfl, stamp_effect hi hop (by simp [hop])⟩
  · obtain ⟨hdone, honly⟩ := simple_plain_effect hi (mine := pOp w0 == 0x07) (by simp [hop]) (by simp [hop]) (by simp [hop]) (by simp [hop])
    exact ⟨_, rfl, hdone, honly, halt_effect hi hop (by simp [hop])⟩

end Sys2Proof.Machine
end

section
/-! PROOFS, O12. A completion record is not bare where the host has ECRC on (R135, R331). -/

namespace Sys2Proof.Machine

/-- A device whose host is attached and has ECRC on, with the NOP of queue 0 of tenant 0 complete, its record still to be written. -/
def ecrcRecord : State := { State.reset with
  glb := { Glb.init with attached := true, pcie := { Glb.init.pcie with ecrc := true } }
  ten := [(0, { Tenant.init with queues := [(0, { Queue.init with issued := [⟨0, 0, true, false, some 0, 0, 0⟩] })] })] }

/-- The record goes out with its ECRC, and nothing else does. -/
theorem exec_completionRecordWrite_ecrcRecord :
    ∃ u, exec (.completionRecordWrite 0 0) ecrcRecord = .next u ∧ u.out = [.ecrc (.record 0 0 0 0x0000000000000001 0 0 0)] :=
  ⟨_, rfl, by decide⟩

/-- Refutes O12: the statement has the bare record among what the device sends, but `emit` wraps every TLP in its ECRC where the host has
it on (R331), so the record of the complete NOP goes out as `.ecrc (.record …)`. -/
theorem not_completionRecordsAndDoorbells : ¬ Obligations.CompletionRecordsAndDoorbells := by
  unfold Obligations.CompletionRecordsAndDoorbells
  intro h
  obtain ⟨hrecord, -⟩ := h 0 0 ecrcRecord 0 ⟨0, 0, true, false, some 0, 0, 0⟩ [] 0
  obtain ⟨u, hu, -, -, hmem⟩ := hrecord (by decide) rfl (by decide) (by decide)
  obtain ⟨v, hv, hout⟩ := exec_completionRecordWrite_ecrcRecord
  rw [Host.Outcome.next.inj (hu.symm.trans hv), hout, List.mem_singleton] at hmem
  cases hmem

end Sys2Proof.Machine
end

section
/-! PROOFS, O13. Commands of a queue, and its ENABLE bit (R128, R132, R136). -/

namespace Sys2Proof.Machine

theorem Queue.stoppedShort_iff (y : Queue) : y.stoppedShort = true ↔ y.st = .faulted ∨ y.st = .halted := by
  simp [Queue.stoppedShort]

theorem Queue.closeBatch_batch (y : Queue) : y.closeBatch.batch = none := by
  unfold Queue.closeBatch
  split
  · next h => exact h
  · rfl

theorem Queue.closeBatch_st (y : Queue) : y.closeBatch.st = y.st := by unfold Queue.closeBatch; split <;> rfl
theorem Queue.closeBatch_qcmd (y : Queue) : y.closeBatch.qcmd = y.qcmd := by unfold Queue.closeBatch; split <;> rfl

/-- A stopped queue that FLUSH lets run again at its tail, with its batch closed. -/
def Queue.flushed (y : Queue) : Queue := { ({ y with qcmd := 3 } : Queue).rerun.closeBatch with head := y.tail, retry := none }

theorem State.setQueue_copy (s : State) (t q : Nat) (v : Queue) (c : Nat) :
    ((s.setQueue t q v).tenant t).copy c = (s.tenant t).copy c := by
  rw [State.setQueue, State.tenant_modTenant, if_pos rfl]
  rfl

theorem State.queue_setQueue_same (s : State) (t q : Nat) (v : Queue) : (s.setQueue t q v).queue t q = v := by
  rw [State.queue_setQueue, if_pos ⟨rfl, rfl⟩]

section
variable {t : Ten} {q : Que} {s : State} (hw : s.hostWrites = true)
include hw

theorem exec_skip_of_stuck {k : Stuck} (hst : (s.queue t q).stoppedShort = true) (hk : (s.queue t q).stuck = some k) :
    exec (.skip t q) s = .next (s.setQueue t q
      (if k.issued then { s.queue t q with qcmd := 1 }.rerun
       else { ({ s.queue t q with qcmd := 1 } : Queue).rerun with head := k.idx + BitVec.ofNat 32 k.slots })) := by
  simp only [exec, execSkip, hw, State.modQueue, hst, hk, Bool.not_true, Bool.false_eq_true, if_false]

theorem exec_retry_of_stuck {k : Stuck} (hst : (s.queue t q).st = .faulted) (hk : (s.queue t q).stuck = some k) :
    exec (.retry t q) s = .next (s.setQueue t q
      (if k.issued then { ({ s.queue t q with qcmd := 2 } : Queue).rerun with retry := some ⟨k.idx, k.slots, 0, 0⟩ }
       else { s.queue t q with qcmd := 2 }.rerun)) := by
  simp only [exec, execRetry, hw, State.modQueue, hst, hk, Bool.not_true, Bool.false_eq_true, if_false, bne_self_eq_false]

theorem exec_flush_of_stopped (hst : (s.queue t q).stoppedShort = true) :
    exec (.flush t q) s = .next (settleCopies t (s.setQueue t q (s.queue t q).flushed)) := by
  simp only [exec, execFlush, hw, State.modQueue, hst, Bool.not_true, Bool.false_eq_true, if_false]
  rfl

theorem exec_queueEnable {v : Reg32} (hv : v.getLsbD 31 = true) : exec (.queueEnable t q v) s = .next (writeQcfg t q v s) := by
  simp only [exec, execQueueEnable, hw, hv, Bool.and_self, if_true]

theorem exec_queueDisable {v : Reg32} (hv : v.getLsbD 31 = false) : exec (.queueDisable t q v) s = .next (writeQcfg t q v s) := by
  simp only [exec, execQueueDisable, hw, hv, Bool.not_false, Bool.and_self, if_true]

end

/-! ## TCX_Qq_CFG (R128, R132) -/

/-- A queue with the vector and the sizes that a write of TCX_Qq_CFG gives it. -/
def Queue.sized (v : Reg32) (y : Queue) : Queue := { y with
  vector := BitVec.ofNat 6 (bitsOf v.toNat 25 20), size := BitVec.ofNat 4 (bitsOf v.toNat 19 16)
  csize := BitVec.ofNat 4 (bitsOf v.toNat 15 12) }

/-- A DISABLED queue that is enabled takes its sizes and vector, and starts anew with a batch on the copy pointed to. -/
theorem writeQcfg_of_enable {t q : Nat} {v : Reg32} {s : State} (hen : (s.queue t q).enable = false) (hst : (s.queue t q).st = .disabled)
    (hv : v.getLsbD 31 = true) (hsize : bitsOf v.toNat 19 16 ≤ 10) (hcsize : bitsOf v.toNat 15 12 ≤ 10) :
    writeQcfg t q v s =
      settleCopies t ((s.setQueue t q ((s.queue t q).sized v)).modQueue t q (Queue.enabled (s.tenant t).pointed)) := by
  have h19 : ¬ 10 < (BitVec.ofNat 4 (bitsOf v.toNat 19 16)).toNat := by rw [BitVec.toNat_ofNat]; omega
  have h15 : ¬ 10 < (BitVec.ofNat 4 (bitsOf v.toNat 15 12)).toNat := by rw [BitVec.toNat_ofNat]; omega
  simp only [writeQcfg, Queue.sized, hen, hst, hv, h19, h15, if_true, Bool.false_and, Bool.or_self, bne_self_eq_false, decide_false,
    Bool.false_eq_true, if_false]

/-- A write that clears ENABLE disables the queue once nothing of it is incomplete; then what waits elsewhere goes on. -/
theorem writeQcfg_of_disable {t q : Nat} {v : Reg32} {s : State} (hen : (s.queue t q).enable = true) (hv : v.getLsbD 31 = false) :
    ∃ s2 : State, s2.queue t q = s.queue t q ∧ writeQcfg t q v s = settle t (settleCopies t
      ((s2.modQueue t q (fun y => { y with enable := false, waiting := none })).modTenant t Tenant.settleStop)) := by
  simp only [writeQcfg, hen, hv, Bool.true_and, if_true, Bool.false_eq_true, if_false]
  refine ⟨_, ?_, rfl⟩
  split
  · exact tcxBusy_queue ..
  · rfl

/-- Nothing of a queue that is just enabled is incomplete, so what completes elsewhere leaves it as it is. -/
theorem queue_writeQcfg_of_enable {t q : Nat} {v : Reg32} {s : State} (hen : (s.queue t q).enable = false)
    (hst : (s.queue t q).st = .disabled) (hv : v.getLsbD 31 = true) (hsize : bitsOf v.toNat 19 16 ≤ 10)
    (hcsize : bitsOf v.toNat 15 12 ≤ 10) :
    (writeQcfg t q v s).queue t q = ((s.queue t q).sized v).enabled (s.tenant t).pointed := by
  rw [writeQcfg_of_enable hen hst hv hsize hcsize, State.modQueue, State.queue_setQueue_same]
  generalize hs1 : (s.setQueue t q ((s.queue t q).sized v)).setQueue t q _ = s1
  have hq : s1.queue t q = ((s.queue t q).sized v).enabled (s.tenant t).pointed := by rw [← hs1, State.queue_setQueue_same]
  have hidle : ∀ r, r = q → (s1.queue t r).Idle := by
    rintro r rfl
    rw [hq]
    exact ⟨rfl, rfl, .inl rfl⟩
  rw [← hq]
  exact (goesOn_settleCopies hidle).tenant.same q rfl

/-- A queue that is drained stays as it is, whatever goes on elsewhere. -/
theorem queue_writeQcfg_of_disable {t : Nat} {q : Que} {v : Reg32} {s : State} (hen : (s.queue t q).enable = true)
    (hst : (s.queue t q).st ≠ .disabled) (hdone : (s.queue t q).allDone = true) (hv : v.getLsbD 31 = false) :
    (writeQcfg t q v s).queue t q = { s.queue t q with enable := false, waiting := none }.drained := by
  obtain ⟨s2, hs2, hcfg⟩ := writeQcfg_of_disable (q := q) hen hv
  have hdrain : ({ s.queue t q with enable := false, waiting := none } : Queue).mayDrain = true := by
    simp [Queue.mayDrain, hst]
    exact hdone
  rw [hcfg]
  generalize hs3 : (s2.modQueue t q _).modTenant t Tenant.settleStop = s3
  have hq : s3.queue t q = { s.queue t q with enable := false, waiting := none }.drained := by
    have hset := State.queue_setQueue_same s2 t q { s.queue t q with enable := false, waiting := none }
    rw [State.queue] at hset
    rw [← hs3, State.queue, State.tenant_modTenant, if_pos rfl, State.modQueue, hs2, Tenant.queue_settleStop, hset,
      if_pos ⟨q.isLt, hdrain⟩]
  have hidle : ∀ r, r = q.val → (s3.queue t r).Idle := by
    rintro r rfl
    rw [hq]
    exact ⟨(Queue.drained_allDone _).trans hdone, rfl, .inr rfl⟩
  have hcopies := goesOn_settleCopies hidle
  rw [← hq]
  exact (hcopies.trans (goesOn_settle (hcopies.idle hidle))).tenant.same q rfl

/-- Settles O13: each command by its equation; a queue just enabled or just drained has nothing that what goes on elsewhere touches. -/
theorem queueCommands : Obligations.QueueCommands := by
  unfold Obligations.QueueCommands
  intro t q s k v y hw
  refine ⟨fun hst hk => ⟨_, exec_skip_of_stuck hw ((Queue.stoppedShort_iff _).mpr hst) hk, ?_⟩,
    fun hst hk => ⟨_, exec_retry_of_stuck hw hst hk, ?_⟩,
    fun hst hkept => ⟨_, exec_flush_of_stopped hw ((Queue.stoppedShort_iff _).mpr hst), ?_⟩,
    fun hen hst hv hsize hcsize => ⟨_, exec_queueEnable hw hv, ?_⟩,
    fun hen hst hdone hv => ⟨_, exec_queueDisable hw hv, ?_⟩⟩
  · split <;> exact ⟨rfl, rfl, rfl, rfl, rfl⟩
  · split <;> exact ⟨rfl, rfl, rfl, rfl, rfl, rfl⟩
  · rw [settleCopies_of_kept fun c => .inl (by rw [State.setQueue_copy]; exact hkept c), State.queue_setQueue_same]
    exact ⟨Queue.closeBatch_st _, rfl, Queue.closeBatch_batch _, Queue.closeBatch_qcmd _⟩
  · rw [queue_writeQcfg_of_enable hen hst hv hsize hcsize]
    refine ⟨rfl, rfl, rfl, rfl, rfl, rfl, ?_, ?_, ?_, rfl, rfl, rfl⟩
    · exact (BitVec.toNat_ofNat ..).trans (Nat.mod_eq_of_lt (by omega))
    · exact (BitVec.toNat_ofNat ..).trans (Nat.mod_eq_of_lt (by omega))
    · exact (BitVec.toNat_ofNat ..).trans (Nat.mod_eq_of_lt (Nat.mod_lt _ (by decide)))
  · rw [queue_writeQcfg_of_disable hen hst hdone hv]
    exact ⟨Queue.closeBatch_enable _, rfl⟩

end Sys2Proof.Machine
end

section
/-! PROOFS, O30. Heat and the migration policy, cleared granules, visits of the patrol scrub, live calibration (R143, R202, R203, R222 to
R227). -/

namespace Sys2Proof.Machine

/-! ## Tables in canonical form -/

section
variable {α : Type} [DecidableEq α] {d : α} {m : Store α}

theorem nodup_keys_of_swf (h : swf d m = true) : (m.map Prod.fst).Nodup :=
  List.Pairwise.imp Nat.ne_of_lt (List.pairwise_map.mpr ((swf_iff d m).mp h).1)

/-- A canonical table that is changed value by value, by changes that leave an unlisted value unlisted. -/
theorem sget_smap (f : Nat → α → α) (hf : ∀ k, f k d = d) (h : swf d m = true) (j : Nat) :
    sget d (smap d m f) j = f j (sget d m j) := by
  have hkeys : ((m.map (fun e => (e.1, f e.1 e.2))).map Prod.fst).Nodup := by
    simpa [Function.comp_def] using nodup_keys_of_swf h
  rw [smap, sget_filter_ne d _ hkeys, sget_map_val f hf]

omit [DecidableEq α] in
/-- What a canonical table lists is what it reads. -/
theorem sget_of_mem (h : (m.map Prod.fst).Nodup) {e : Nat × α} (he : e ∈ m) : sget d m e.1 = e.2 := by
  induction m with
  | nil => cases he
  | cons x r ih =>
    obtain ⟨hx, hr⟩ := List.nodup_cons.mp h
    rcases List.mem_cons.mp he with rfl | he
    · simp [sget]
    · rw [sget, if_neg, ih hr he]
      rintro hk
      exact hx (List.mem_map.mpr ⟨e, he, hk.symm⟩)

end

/-! ## Heat and the policy (R202, R203) -/

theorem exec_heatDecay {s : State} (h : s.mtc.heatTime + 10000000 ≤ s.glb.devTime) :
    exec .heatDecay s = .next { s with mtc := { s.mtc with
      heatTime := s.glb.devTime
      map := smap Granule.init s.mtc.map (fun _ (v : Granule) => { v with heat := v.heat >>> 1 }) } } := by
  have hdue : ¬ s.glb.devTime < s.mtc.heatTime + 100 * ms := by unfold ms; omega
  simp only [exec, execHeatDecay, if_neg hdue]

theorem demotions_of_free (n : Nat) {free : Nat} (h : 256 ≤ free) (cold : List Cand) : demotions n free cold = ([], free, cold) := by
  cases n with
  | zero => rfl
  | succ n => rw [demotions, if_pos h]

/-- One candidate hot enough is promoted while 256 granules are free, and then there is no other. -/
theorem promotions_single {hyst promote free : Nat} {c : Cand} (hheat : promote ≤ c.heat) (hfree : 256 ≤ free) (cold : List Cand) :
    promotions hyst promote 2 free cold [c] = [c.move false] := by
  simp [promotions, hottest, Nat.not_lt.mpr hheat, hfree]

theorem candidates_congr {s u : State} (hmap : u.mtc.map = s.mtc.map) (hmoves : u.mtc.moves = s.mtc.moves) (hten : u.ten = s.ten)
    (hsec : u.sec = s.sec) (yard : Bool) : u.candidates yard = s.candidates yard := by
  have htenant (t : Nat) : u.tenant t = s.tenant t := State.tenant_congr hten t
  have hkey (t : Nat) : u.firstKey t = s.firstKey t := by simp only [State.firstKey, htenant, State.keySlot, hsec]
  simp only [State.candidates, hmap, hmoves, htenant, hkey]

/-- A yard candidate's granule is in the yard, in a range that lets it go to stacked memory. -/
theorem mem_candidates_yard {s : State} (hwf : swf Granule.init s.mtc.map = true) {c : Cand} (hc : c ∈ s.candidates true) :
    (∃ p, (s.mtc.granule c.tenant c.g).st = .yard p) ∧
      (((s.tenant c.tenant).rangeOf c.g).getD MemRange.init).allowsStacked = true := by
  obtain ⟨e, he, hcand⟩ := List.mem_filterMap.mp hc
  obtain ⟨hfits, hc⟩ := Option.ite_none_right_eq_some.mp hcand
  obtain rfl := Option.some.inj hc
  have hkey : gkey (e.1 / 2 ^ 27) (e.1 % 2 ^ 27) = e.1 := by unfold gkey; omega
  have hgran : s.mtc.granule (e.1 / 2 ^ 27) (e.1 % 2 ^ 27) = e.2 := by
    rw [Mtc.granule, hkey, sget_of_mem (nodup_keys_of_swf hwf) he]
  rw [hgran]
  cases hst : e.2.st with
  | yard p =>
    simp only [hst, Bool.true_and, Bool.and_eq_true] at hfits
    obtain ⟨hallows, -⟩ := hfits
    refine ⟨⟨p, rfl⟩, ?_⟩
    cases hr : (s.tenant (e.1 / 2 ^ 27)).rangeOf (e.1 % 2 ^ 27) with
    | none =>
      rw [hr] at hallows
      simp [MemRange.allowsStacked] at hallows
    | some r => rwa [hr] at hallows
  | _ => simp [hst] at hfits

/-- Its move, alone in the queue, can be made while stacked granules are free. -/
theorem turn_of_promotion {s : State} {c : Cand} {p : Nat} (hst : (s.mtc.granule c.tenant c.g).st = .yard p)
    (hrange : (((s.tenant c.tenant).rangeOf c.g).getD MemRange.init).allowsStacked = true) (hfree : s.mtc.stkFree ≠ 0) :
    s.turn (c.move false) = .go ⟨true, p⟩ := by
  have hgo : ((((s.tenant c.tenant).rangeOf c.g).getD MemRange.init).allowsStacked && s.mtc.stkFree != 0) = true := by
    rw [hrange, bne_iff_ne.mpr hfree, Bool.and_self]
  simp only [State.turn, Cand.move, hst, hgo, Bool.not_false, Bool.not_true, Bool.and_false, Bool.false_and,
    Bool.false_eq_true, if_false, if_true, reduceCtorEq]

/-- The state with these moves to come. -/
def State.withMoves (s : State) (l : List GMove) : State := { s with mtc := { s.mtc with moves := l } }

theorem trimMoves_of_go {s : State} {v : GMove} {src : Loc} (hmoves : s.mtc.moves = [v]) (hturn : s.turn v = .go src) : trimMoves s = s := by
  cases hv : v.running <;> simp [trimMoves, hmoves, hturn, hv]

/-- The state in which the policy weighs: its values taken, no move to come. -/
def State.weighing (s : State) : State :=
  { s with mtc := { s.mtc.takePolicy with evalTime := s.glb.devTime, moves := [] } }

/-- The moves that the two loops of R203 make of the candidates. -/
def State.weighed (s : State) : List GMove :=
  let d := demotions 256 s.mtc.stkFree.toNat (s.candidates false)
  d.1 ++ promotions s.mtc.hyst.toNat s.mtc.promote.toNat ((s.candidates true).length + 1) d.2.1 d.2.2 (s.candidates true)

section
variable {s : State} (hdue : s.mtc.evalTime + 100000 ≤ s.glb.devTime) (hheld : s.compHeld .shunt = false) (hmoves : s.mtc.moves = [])
include hdue hheld hmoves

theorem exec_policyEval_of_weighed (hauto : s.mtc.autoSh = true) :
    exec .migrationPolicyEval s =
      .next (trimMoves (s.weighing.withMoves s.weighing.weighed)) := by
  have hnow : ¬ (s.glb.devTime < s.mtc.evalTime + ms ∨ s.compHeld .shunt = true) := by
    rw [hheld]
    simpa [ms] using hdue
  have hon : ¬ (!s.mtc.takePolicy.auto) = true := by simpa [Mtc.takePolicy] using hauto
  have htaken : s.mtc.takePolicy.moves = [] := hmoves
  simp only [exec, execMigrationPolicyEval, if_neg hnow, hmoves, List.any_nil, htaken, List.filter_nil, Bool.false_eq_true, if_false,
    List.nil_append]
  rw [if_neg hon]
  rfl

theorem exec_policyEval_of_single (hauto : s.mtc.autoSh = true) (hwf : swf Granule.init s.mtc.map = true)
    (hcold : s.candidates false = []) {c : Cand} (hhot : s.candidates true = [c]) (hheat : s.mtc.promoteSh.toNat ≤ c.heat)
    (hfree : 256 ≤ s.mtc.stkFree.toNat) :
    exec .migrationPolicyEval s = .next { s with mtc := { s.mtc.takePolicy with
      evalTime := s.glb.devTime, moves := [⟨c.tenant, c.g, false, .policy, false⟩] } } := by
  obtain ⟨⟨p, hst⟩, hrange⟩ := mem_candidates_yard hwf (c := c) (by rw [hhot]; exact List.mem_singleton.mpr rfl)
  have hcand (b : Bool) : s.weighing.candidates b = s.candidates b := candidates_congr (s := s) (u := s.weighing) rfl hmoves.symm rfl rfl b
  have hweighed : s.weighing.weighed = [c.move false] := by
    rw [State.weighed, hcand, hcand, hcold, hhot, demotions_of_free 256 (free := s.weighing.mtc.stkFree.toNat) hfree]
    exact promotions_single hheat hfree []
  have hstk : s.mtc.stkFree ≠ 0 := by
    intro h
    simp [h] at hfree
  rw [exec_policyEval_of_weighed hdue hheld hmoves hauto, hweighed,
    trimMoves_of_go (s := s.weighing.withMoves [c.move false]) rfl (turn_of_promotion (p := p) hst hrange hstk)]
  rfl

theorem exec_policyEval_of_off (hauto : s.mtc.autoSh = false) :
    exec .migrationPolicyEval s = .next { s with mtc := { s.mtc.takePolicy with evalTime := s.glb.devTime } } := by
  have hnow : ¬ (s.glb.devTime < s.mtc.evalTime + ms ∨ s.compHeld .shunt = true) := by
    rw [hheld]
    simpa [ms] using hdue
  have hoff : s.mtc.takePolicy.auto = false := hauto
  simp only [exec, execMigrationPolicyEval, if_neg hnow, hmoves, List.any_nil, Bool.false_eq_true, if_false, hoff, Bool.not_false, if_true]

end

/-! ## Cleared granules and visits of the patrol scrub (R143, R222, R223) -/

theorem exec_granuleCleared {t : Ten} {g : Nat} {l : Loc} {s : State} (h : (s.gran t g).st = .zeroFill (some l)) :
    exec (.zeroFillGranuleCleared t g) s = .next { s with
      mtc := ((s.mtc.clearLoc l).giveBack l).setGranule t g { s.gran t g with st := .zeroFill none } } := by
  change execZeroFillGranuleCleared t g s = _
  rw [execZeroFillGranuleCleared]
  change (s.mtc.granule t.val g).st = _ at h
  rw [h]
  rfl

theorem rowDue_of_few {row : Nat} {l : List RowLog} (h : ∀ e ∈ l, e.row = row → e.count < 3) : rowDue row l = false := by
  simpa [rowDue] using h

theorem rowDue_of_three {row : Nat} {l : List RowLog} (h : ∃ e ∈ l, e.row = row ∧ 3 ≤ e.count) : rowDue row l = true := by
  simpa [rowDue] using h

/-- A visit that leaves what the configuration holds as it is ends with the work of the firmware port that waits. -/
theorem exec_patrolScrub_of_kept {unit row : Nat} {ce : Bool} {ue : List Nat} {s : State}
    (h : (patrolVisit unit row ce ue s).toStore = s.toStore) :
    exec (.patrolScrub unit row ce ue) s = .next (fwGo (patrolVisit unit row ce ue s)) := by
  change execPatrolScrub unit row ce ue s = _
  simp only [execPatrolScrub, h, true_or, if_true]

/-- What a visit stores: the spares of the banks and of the sidings are all that it can change. -/
theorem toStore_congr {s u : State} (hsec : u.sec.hostRoot = s.sec.hostRoot) (hmgt : u.sec.mgtRoot = s.sec.mgtRoot)
    (hnet : u.mgt.net = s.mgt.net)
    (hbanks : ∀ b, (sget Bank.init u.mtc.banks b).spareField = (sget Bank.init s.mtc.banks b).spareField)
    (hary : ∀ a, (u.arr a).spareMib = (s.arr a).spareMib) : u.toStore = s.toStore := by
  simp only [State.toStore, hsec, hmgt, hnet, hbanks, hary]

section
variable {unit row : Nat} {s : State} (hunit : unit < 64)
include hunit

theorem patrolVisit_of_few (h : ∀ e ∈ (sget Bank.init s.mtc.banks unit).rowLog, e.row = row → e.count < 3) (ce : Bool) :
    patrolVisit unit row ce [] s = if ce then logBankRow unit row s else s := by
  rw [patrolVisit, if_pos hunit]
  dsimp only
  rw [rowDue_of_few h]
  rfl

theorem patrolVisit_of_uncorrectable (h : ∀ e ∈ (sget Bank.init s.mtc.banks unit).rowLog, e.row = row → e.count < 3)
    {ue : List Nat} (hue : ∀ w ∈ ue, w < 32) :
    patrolVisit unit row false ue s = { s with mtc := { s.mtc with
      conPoison := markWords s.mtc.conPoison (ue.map (fun w => row * 2 ^ 14 + unit * 256 + 8 * w)) } } := by
  have hall : ue.filter (· < 32) = ue := List.filter_eq_self.mpr fun w hw => decide_eq_true (hue w hw)
  rw [patrolVisit, if_pos hunit, hall]
  dsimp only
  rw [rowDue_of_few h]
  rfl

end

/-- Logging a row's error leaves the spares in use as they are. -/
theorem logBankRow_toStore (b row : Nat) (s : State) : (logBankRow b row s).toStore = s.toStore := by
  refine toStore_congr rfl rfl rfl (fun c => ?_) fun _ => rfl
  by_cases h : c = b <;> simp [logBankRow, sget_sset, h]

theorem noteBlock_roots (c : BitVec 16) (t : Option Nat) (unit arg : Nat) (s : State) :
    (noteBlock c t unit arg s).sec.hostRoot = s.sec.hostRoot ∧ (noteBlock c t unit arg s).sec.mgtRoot = s.sec.mgtRoot := by
  unfold noteBlock noteWin
  split
  · exact ⟨rfl, rfl⟩
  · split
    · exact ⟨rfl, rfl⟩
    · split
      · split <;> exact ⟨rfl, rfl⟩
      · exact ⟨rfl, rfl⟩

theorem record_roots (c : BitVec 16) (t : Option Nat) (unit arg addr : Nat) (s : State) :
    (record c t unit arg addr s).sec.hostRoot = s.sec.hostRoot ∧ (record c t unit arg addr s).sec.mgtRoot = s.sec.mgtRoot := by
  unfold record
  split
  · exact noteBlock_roots ..
  · rw [msix_keeps State.sec (fun _ _ _ => rfl)]
    exact noteBlock_roots ..

theorem record_toStore (c : BitVec 16) (t : Option Nat) (unit arg addr : Nat) (s : State) :
    (record c t unit arg addr s).toStore = s.toStore :=
  toStore_congr (record_roots ..).1 (record_roots ..).2 (record_keeps (fun s => s.mgt.net) (fun _ _ _ _ _ _ _ => rfl) ..)
    (fun b => by rw [record_mtc]) fun a => by rw [State.arr_congr (record_ary ..)]

theorem spare_used_toStore {b : Nat} {v : Bank} {s u : State} (hb : b < 64) (hv : sget Bank.init u.mtc.banks b = v)
    (hne : v.spareField ≠ (sget Bank.init s.mtc.banks b).spareField) : u.toStore ≠ s.toStore := by
  intro h
  have hlist : u.toStore.banks = s.toStore.banks := by rw [h]
  have hat := congrArg (fun l => l[b]?) hlist
  have hfield : v.spareField.toNat = (sget Bank.init s.mtc.banks b).spareField.toNat := by
    simpa [State.toStore, hb, hv] using hat
  exact hne (BitVec.eq_of_toNat_eq hfield)

/-- A bank's row retired on a spare: the row leaves the log, the spare is in use, and its record is entered (R222, R223). -/
def retireRow (unit row : Nat) (s : State) : State :=
  let b := sget Bank.init s.mtc.banks unit
  record 0x1101 none (0x300 + unit) 0 0 { s with mtc := { s.mtc with
    banks := sset Bank.init s.mtc.banks unit ⟨b.rowLog.filter (fun e => e.row != row), b.spareField + 1⟩
    conRetired := satAdd s.mtc.conRetired 1 } }

section
variable {unit row : Nat} {s : State}

theorem exec_patrolScrub_of_retired (hunit : unit < 64)
    (h : ∃ e ∈ (sget Bank.init s.mtc.banks unit).rowLog, e.row = row ∧ 3 ≤ e.count)
    (hused : (sget 0 s.fuse.conSpareTest unit).toNat + (sget Bank.init s.mtc.banks unit).spareField.toNat < 32) :
    exec (.patrolScrub unit row false []) s =
      .next (if s.compHeld .bootmon then fwGo (retireRow unit row s) else storeConfig false (retireRow unit row s)) := by
  have hvisit : patrolVisit unit row false [] s = retireRow unit row s := by
    rw [patrolVisit, if_pos hunit]
    dsimp only
    rw [rowDue_of_three h]
    exact if_neg (Nat.not_le.mpr hused)
  have hstore : (retireRow unit row s).toStore ≠ s.toStore := by
    rw [retireRow, record_toStore]
    refine spare_used_toStore hunit ((sget_sset ..).trans (if_pos rfl)) ?_
    bv_omega
  change execPatrolScrub unit row false [] s = _
  simp only [execPatrolScrub, hvisit, hstore, false_or]

theorem exec_patrolScrub_of_sidingOut (hlow : 64 ≤ unit) (hhigh : unit < 128)
    (h : ∃ e ∈ (s.arr (unit - 64)).rowLog, e.row = row ∧ 3 ≤ e.count)
    (hused : 16 ≤ (sget 0 s.fuse.sidSpareTest (8 * (unit - 64) + row * 32 / 2 ^ 20)).toNat +
      sget 0 (s.arr (unit - 64)).spareMib (row * 32 / 2 ^ 20)) :
    exec (.patrolScrub unit row false []) s =
      .next (fwGo (record 0x1102 (s.aryTenant (unit - 64)) (unit - 64) 0 0 (s.setArr (unit - 64) (s.arr (unit - 64))))) := by
  have hvisit : patrolVisit unit row false [] s =
      record 0x1102 (s.aryTenant (unit - 64)) (unit - 64) 0 0 (s.setArr (unit - 64) (s.arr (unit - 64))) := by
    rw [patrolVisit, if_neg (Nat.not_lt.mpr hlow), if_pos hhigh]
    dsimp only
    simp only [List.filter_nil, List.map_nil, markWords, List.foldl_nil, State.modArr, State.arr_setArr, if_true,
      rowDue_of_three h, Bool.not_true, Bool.false_eq_true, if_false]
    exact if_pos hused
  rw [← hvisit]
  refine exec_patrolScrub_of_kept ?_
  rw [hvisit, record_toStore]
  refine toStore_congr rfl rfl rfl (fun _ => rfl) fun a => ?_
  rw [State.arr_setArr]
  split
  · next h => rw [h]
  · rfl

end

/-! ## Live calibration (R226) -/

theorem exec_phaseCal {ns : Nat} {s : State} (hdue : s.mtc.phaseTime + 200000 ≤ s.glb.devTime) (hout : s.mtc.phaseOut = none) :
    exec (.stackedPhaseCal ns) s = .next { s with mtc :=
      let m := { s.mtc with phaseTime := s.glb.devTime, phaseNext := (s.mtc.phaseNext + 1) % 64 }
      if ns ≤ 1200 then { m with smMax := BitVec.ofNat 16 (max s.mtc.smMax.toNat ns) } else { m with phaseOut := some s.mtc.phaseNext } } := by
  have hopen : ¬ (s.glb.devTime < s.mtc.phaseTime + 2 * ms ∨ s.mtc.phaseOut.isSome = true) := by
    rw [hout]
    simpa [ms] using hdue
  change execStackedPhaseCal ns s = _
  rw [execStackedPhaseCal, if_neg hopen]
  split <;> rfl

section
variable {s : State} (hdue : s.mtc.driftTime + 200000 ≤ s.glb.devTime) (hout : s.mtc.driftOut = none)
include hdue hout

theorem exec_yardDriftCheck_of_due (exceeds : Bool) (ns : Nat) :
    exec (.yardDriftCheck exceeds ns) s = .next { s with mtc :=
      let m := { s.mtc with driftTime := s.glb.devTime, driftNext := (s.mtc.driftNext + 1) % 8 }
      if !exceeds then m
      else if ns ≤ 4000 then { m with yardMax := BitVec.ofNat 16 (max s.mtc.yardMax.toNat ns) }
      else { m with driftOut := some s.mtc.driftNext } } := by
  have hopen : ¬ (s.glb.devTime < s.mtc.driftTime + 2 * ms ∨ s.mtc.driftOut.isSome = true) := by
    rw [hout]
    simpa [ms] using hdue
  change execYardDriftCheck exceeds ns s = _
  rw [execYardDriftCheck, if_neg hopen]
  split
  · rfl
  · split <;> rfl

end

/-- A window that is open ends, the longest one as it was or its limit. -/
theorem exec_calWindowAbandon_stacked {s : State} (h : s.mtc.phaseOut ≠ none) :
    exec (.calWindowAbandon false) s = .next { s with mtc := { s.mtc with
      phaseOut := none, smMax := BitVec.ofNat 16 (max s.mtc.smMax.toNat 1200) } } := by
  change execCalWindowAbandon false s = _
  rw [execCalWindowAbandon, if_neg Bool.false_ne_true, if_neg (by simpa using h)]
  rfl

theorem exec_calWindowAbandon_yard {s : State} (h : s.mtc.driftOut ≠ none) :
    exec (.calWindowAbandon true) s = .next { s with mtc := { s.mtc with
      driftOut := none, yardMax := BitVec.ofNat 16 (max s.mtc.yardMax.toNat 4000) } } := by
  change execCalWindowAbandon true s = _
  rw [execCalWindowAbandon, if_pos rfl, if_neg (by simpa using h)]
  rfl

/-- Settles O30: heat through the canonical map, the policy through its two loops at one candidate, a patrol visit through what the
configuration holds before and after it. -/
theorem heatRepairAndCalibration : Obligations.HeatRepairAndCalibration := by
  unfold Obligations.HeatRepairAndCalibration
  refine ⟨fun t g unit row ce l s c => ⟨?_, ?_, ?_, exec_granuleCleared, ?_, ?_, ?_, ?_⟩, fun ns s => ⟨?_, ?_, ?_, ?_⟩⟩
  case refine_1 =>
    intro hdue hwf
    have hhalf (k : Nat) (m : Store Granule) (h : swf Granule.init m = true) :
        sget Granule.init (smap Granule.init m (fun _ (v : Granule) => { v with heat := v.heat >>> 1 })) k =
          { sget Granule.init m k with heat := (sget Granule.init m k).heat >>> 1 } := sget_smap _ (fun _ => by rfl) h k
    refine ⟨_, exec_heatDecay hdue, rfl, rfl, ?_, ?_⟩
    · exact congrArg Granule.heat (hhalf (gkey t g) _ hwf)
    · exact (congrArg Granule.st (hhalf (gkey t g) _ hwf)).trans rfl
  case refine_2 =>
    intro hdue hheld hmoves hauto hwf hcold hhot hheat hfree
    exact exec_policyEval_of_single hdue hheld hmoves hauto hwf hcold hhot hheat hfree
  case refine_3 =>
    intro hdue hheld hmoves hauto
    exact exec_policyEval_of_off hdue hheld hmoves hauto
  case refine_4 =>
    intro hunit b hfew
    have hvisit := patrolVisit_of_few hunit hfew ce
    rw [← hvisit]
    refine exec_patrolScrub_of_kept ?_
    rw [hvisit]
    cases ce
    · rfl
    · exact logBankRow_toStore ..
  case refine_5 =>
    intro hunit hfew ue hue
    have hvisit := patrolVisit_of_uncorrectable hunit hfew hue
    rw [← hvisit]
    refine exec_patrolScrub_of_kept ?_
    rw [hvisit]
    rfl
  case refine_6 =>
    intro hunit b hthree hused
    exact exec_patrolScrub_of_retired hunit hthree hused
  case refine_7 =>
    intro hlow hhigh x hthree hused
    exact exec_patrolScrub_of_sidingOut hlow hhigh hthree hused
  case refine_8 =>
    intro hdue hout m
    refine ⟨fun hns => ?_, fun hns => ?_⟩
    · rw [exec_phaseCal hdue hout, if_pos hns]
    · rw [exec_phaseCal hdue hout, if_neg (Nat.not_le.mpr hns)]
  case refine_9 =>
    intro hdue hout m
    refine ⟨?_, fun hns => ?_, fun hns => ?_⟩
    · exact exec_yardDriftCheck_of_due hdue hout false ns
    · rw [exec_yardDriftCheck_of_due hdue hout]
      simp only [Bool.not_true, Bool.false_eq_true, if_false, if_pos hns, m]
    · rw [exec_yardDriftCheck_of_due hdue hout]
      simp only [Bool.not_true, Bool.false_eq_true, if_false, if_neg (Nat.not_le.mpr hns), m]
  case refine_10 => exact exec_calWindowAbandon_stacked
  case refine_11 => exact exec_calWindowAbandon_yard

end Sys2Proof.Machine
end

section
/-! PROOFS, O17. Re-binding, scrubs, legs that are lost, balance of the planners (R140 to R146). -/

namespace Sys2Proof.Machine

/-! ## What a re-binding asks of the bindings (R144) -/

section
variable {t q : Nat} {s : State}

/-- A context other than for whose turn it is. -/
theorem passTurn_tenant_any (t q : Nat) (s : State) (r : Nat) :
    (passTurn t q s).tenant r = { s.tenant r with turn := ((passTurn t q s).tenant r).turn } := by
  have h : (passTurn t q s).tenant r = if r = t then { s.tenant t with turn := (q + 1) % 8 } else s.tenant r :=
    State.tenant_modTenant s t r (fun y => { y with turn := (q + 1) % 8 })
  rw [h]
  split
  · next hr => rw [hr]
  · rfl

/-- Whose turn it is does not enter what a re-binding asks. -/
theorem rebindRefused_passTurn (t q : Nat) (s : State) (j : RebindJob) : rebindRefused j (passTurn t q s) = rebindRefused j s := by
  have hy := passTurn_tenant_any t q s
  have hst (r : Nat) : ((passTurn t q s).tenant r).st = (s.tenant r).st := by rw [hy]
  have hcls (r : Nat) : ((passTurn t q s).tenant r).cls = (s.tenant r).cls := by rw [hy]
  have hary (r : Nat) : ((passTurn t q s).tenant r).bindAry = (s.tenant r).bindAry := by rw [hy]
  have hatp (r : Nat) : ((passTurn t q s).tenant r).bindAtp = (s.tenant r).bindAtp := by rw [hy]
  have hkey (r : Nat) : ((passTurn t q s).tenant r).bindKey = (s.tenant r).bindKey := by rw [hy]
  have hbase (r : Nat) : ((passTurn t q s).tenant r).conBase = (s.tenant r).conBase := by rw [hy]
  have hsize (r : Nat) : ((passTurn t q s).tenant r).conSize = (s.tenant r).conSize := by rw [hy]
  have hrange (r m : Nat) : ((passTurn t q s).tenant r).range m = (s.tenant r).range m := by rw [hy]; rfl
  have hidle (a : Nat) : (passTurn t q s).idleArray a = s.idleArray a := by
    simp only [State.idleArray, State.aryTenant, hary]
    rfl
  have hcon : conRefused j (passTurn t q s) = conRefused j s := by
    simp only [conRefused, State.conFree, hbase, hsize, hcls]
    rfl
  have hmem : rangeRefused j (passTurn t q s) = rangeRefused j s := by
    simp only [rangeRefused, RebindJob.range, hrange]
    rfl
  simp only [rebindRefused, State.keyFree, hst, hary, hatp, hkey, hidle, hcon, hmem]
  rfl

end

/-! ## REBIND issues, or is refused (R140, R144) -/

theorem NoneWaits.modTenant_of {t : Nat} {s : State} (h : NoneWaits t s) {f : Tenant → Tenant}
    (hf : (f (s.tenant t)).queues = (s.tenant t).queues) : NoneWaits t (s.modTenant t f) :=
  fun r hr => by rw [State.queue_modTenant_of hf, h r hr]

@[simp] theorem passTurn_dispNext (t q : Nat) (s : State) : (passTurn t q s).dispNext = s.dispNext := rfl

/-- The job of an instruction that issues stands with its tenant. -/
def beginJob (t q : Nat) (p : Presented) (j : RebindJob) (s : State) : State :=
  (issueOpen t q p s).modTenant t (fun y => { y with rebind := some j })

section
variable {t : Ten} {q : Que} {w0 w1 : BitVec 64} {s : State} (h : MayIssue s t q w0 w1)
include h

theorem MayIssue.noneWaits_beginJob (j : RebindJob) : NoneWaits t (beginJob t q (atHead s t q w0 w1) j (passTurn t q s)) :=
  ((h.noneWaits.passTurn q).issueOpen q _).modTenant_of rfl

omit h in
theorem openAtHead_beginJob (j : RebindJob) :
    OpenAtHead s (beginJob t q (atHead s t q w0 w1) j (passTurn t q s)) t q w0 :=
  (openAtHead_issueOpen (passTurn_queue ..)).congr (State.queue_modTenant_of rfl _)

omit h in
theorem onlyTenant_beginJob (p : Presented) (j : RebindJob) : OnlyTenant t s (beginJob t q p j (passTurn t q s)) :=
  (onlyTenant_passTurn t q s).trans ((onlyTenant_issueOpen t q p _).trans (onlyTenant_modTenant ..))

theorem exec_rebind_of_begun (hop : pOp w0 = 0x20) (hfree : (s.tenant t).rebind = none) (hnow : w0.getLsbD 43 = false)
    (hlet : rebindRefused (rebindJobOf q (atHead s t q w0 w1) s.dispNext) s = false) :
    exec (.rebind t q w0 w1) s = .next (beginJob t q (atHead s t q w0 w1) (rebindJobOf q (atHead s t q w0 w1) s.dispNext)
      (passTurn t q s)) := by
  have hidle : ((passTurn t q s).tenant t).rebind = none := by rw [passTurn_tenant, hfree]
  have hbody : rebindBody t q (atHead s t q w0 w1) (passTurn t q s) =
      beginJob t q (atHead s t q w0 w1) (rebindJobOf q (atHead s t q w0 w1) s.dispNext) (passTurn t q s) := by
    rw [← rebindRefused_passTurn t q s] at hlet
    rw [rebindBody, passTurn_dispNext]
    dsimp only
    rw [if_neg (by rw [hidle]; decide), if_neg (by simpa using hlet), if_neg]
    · rfl
    · simpa [rebindJobOf] using hnow
  change Host.Outcome.next (present t q w0 w1 (pOp w0 == 0x20) (rebindBody t.val q.val) s) = _
  rw [present_of_mayIssue h _ (by rw [hop]; rfl), hbody, settle_of_noneWaits (h.noneWaits_beginJob _)]

theorem exec_rebind_of_refused (hop : pOp w0 = 0x20) (hfree : (s.tenant t).rebind = none)
    (hrefused : rebindRefused (rebindJobOf q (atHead s t q w0 w1) s.dispNext) s = true) :
    ∃ u, exec (.rebind t q w0 w1) s = .next u ∧ (u.queue t q).st = .faulted ∧ (u.queue t q).fcode = 0x3301 ∧
      (u.queue t q).head = (s.queue t q).head := by
  have hidle : ((passTurn t q s).tenant t).rebind = none := by rw [passTurn_tenant, hfree]
  have hen : ((passTurn t q s).queue t q).enable = true := by rw [passTurn_queue, h.enable]
  have hst : ((passTurn t q s).queue t q).st = .idle := by rw [passTurn_queue, h.st]
  have hbody : rebindBody t q (atHead s t q w0 w1) (passTurn t q s) =
      failUnissued t q (atHead s t q w0 w1) 0x3301 0 0 (passTurn t q s) := by
    rw [← rebindRefused_passTurn t q s] at hrefused
    rw [rebindBody, passTurn_dispNext]
    dsimp only
    rw [if_neg (by rw [hidle]; decide), if_pos hrefused]
    rfl
  obtain ⟨-, -, -, hnone, -⟩ := failUnissued_effect (atHead s t q w0 w1) 0x3301 0 0 hen hst (h.noneWaits.passTurn q)
  obtain ⟨u, hu, -, -, hq⟩ := exists_failUnissued (atHead s t q w0 w1) 0x3301 0 0 hen hst
  have hqueue : (failUnissued t q (atHead s t q w0 w1) 0x3301 0 0 (passTurn t q s)).queue t q =
      (s.queue t q).failUnissued (atHead s t q w0 w1) 0x3301 (detailOf 0 unitNone) := by
    rw [hu, State.queue, State.tenant_congr (record_ten ..), ← passTurn_queue t q, ← hq]
    rfl
  have hexec : exec (.rebind t q w0 w1) s = .next (failUnissued t q (atHead s t q w0 w1) 0x3301 0 0 (passTurn t q s)) := by
    change Host.Outcome.next (present t q w0 w1 (pOp w0 == 0x20) (rebindBody t.val q.val) s) = _
    rw [present_of_mayIssue h _ (by rw [hop]; rfl), hbody, settle_of_noneWaits hnone]
  refine ⟨_, hexec, ?_⟩
  rw [hqueue, Queue.failUnissued_of_idle h.st rfl]
  exact ⟨rfl, rfl, rfl⟩

end

/-! ## Acceptance: the quiesce begins (R141) -/

@[simp] theorem loseShared_ten (j : RebindJob) (s : State) : (loseShared j s).ten = s.ten := by
  unfold loseShared
  split <;> rfl
@[simp] theorem loseShared_ary (j : RebindJob) (s : State) : (loseShared j s).ary = s.ary := by
  unfold loseShared
  split <;> rfl
@[simp] theorem settleLost_ten (s : State) : (settleLost s).ten = s.ten :=
  foldl_keeps State.ten _ _ s fun _ _ => loseShared_ten ..
@[simp] theorem settleLost_ary (s : State) : (settleLost s).ary = s.ary :=
  foldl_keeps State.ary _ _ s fun _ _ => loseShared_ary ..

@[simp] theorem takeQuiet_ten (a : Nat) (s : State) : (takeQuiet a s).ten = s.ten := by
  rw [takeQuiet, settleLost_ten]
  split
  · rfl
  · split <;> rfl

/-- The array that is taken goes on quiescing. -/
theorem takeQuiet_quiesce (a : Nat) (s : State) (b : Nat) : ((takeQuiet a s).arr b).quiesce = (s.arr b).quiesce := by
  rw [takeQuiet, State.arr_congr (settleLost_ary _)]
  split
  · rfl
  · split
    · rw [State.arr_modArr]
      split
      · next h => rw [h]; rfl
      · rfl
    · rfl

theorem loseLegs_keeps {γ : Type} (f : State → γ) (hf : ∀ s d, f { s with disp := d } = f s) (p : Nat) (j : RebindJob) (s : State) :
    f (loseLegs p j s) = f s := by
  unfold loseLegs
  split
  · rfl
  · dsimp only
    split
    · rfl
    · exact hf s _

@[simp] theorem takeQuietPipe_ten (p : Nat) (s : State) : (takeQuietPipe p s).ten = s.ten := by
  rw [takeQuietPipe, settleLost_ten]
  split
  · exact foldl_keeps State.ten _ _ _ fun _ _ => loseLegs_keeps State.ten (fun _ _ => rfl) ..
  · rfl

@[simp] theorem takeQuietPipe_ary (p : Nat) (s : State) : (takeQuietPipe p s).ary = s.ary := by
  rw [takeQuietPipe, settleLost_ary]
  split
  · exact foldl_keeps State.ary _ _ _ fun _ _ => loseLegs_keeps State.ary (fun _ _ => rfl) ..
  · rfl

/-- One array asked to quiesce for a job that has been accepted. -/
def askArray (j : RebindJob) (bound : BitVec 64) (s : State) (a : Nat) : State :=
  if RebindJob.quiesces { j with accepted := true } bound a then takeQuiet a (s.modArr a (fun x => { x with quiesce := true })) else s

section
variable (j : RebindJob) (bound : BitVec 64)

theorem askArray_ten (s : State) (a : Nat) : (askArray j bound s a).ten = s.ten := by
  unfold askArray
  split
  · rw [takeQuiet_ten]
    rfl
  · rfl

theorem askArray_quiesce {s : State} {b : Nat} (h : (s.arr b).quiesce = true) (a : Nat) : ((askArray j bound s a).arr b).quiesce = true := by
  unfold askArray
  split
  · rw [takeQuiet_quiesce, State.arr_modArr]
    split
    · rfl
    · exact h
  · exact h

theorem askArray_quiesce_self {s : State} {a : Nat} (h : RebindJob.quiesces { j with accepted := true } bound a = true) :
    ((askArray j bound s a).arr a).quiesce = true := by
  rw [askArray, if_pos h, takeQuiet_quiesce, State.arr_modArr, if_pos rfl]

/-- Of arrays asked in their order, each that the job takes quiesces. -/
theorem foldl_askArray_quiesce {l : List Nat} {a : Nat} (ha : a ∈ l) (h : RebindJob.quiesces { j with accepted := true } bound a = true)
    (s : State) : ((l.foldl (askArray j bound) s).arr a).quiesce = true := by
  induction l generalizing s with
  | nil => cases ha
  | cons b r ih =>
    rw [List.foldl_cons]
    rcases List.mem_cons.mp ha with rfl | ha
    · exact foldl_holds (fun u : State => (u.arr a).quiesce = true) _ r _ (fun u b hu => askArray_quiesce j bound hu b)
        (askArray_quiesce_self j bound h)
    · exact ih ha _

end

/-! ## The tenant that loses goes on, or pauses -/

theorem Tenant.settlePause_only (y : Tenant) : y.settlePause = { y with st := y.settlePause.st } := by
  unfold Tenant.settlePause
  dsimp only
  split
  · rfl
  · split <;> rfl

/-- A losing tenant as it pauses, or runs again. -/
def Tenant.pauseFor (why : Bool) (y : Tenant) : Tenant := { y with whyRebind := why }.settlePause

theorem Tenant.pauseFor_only (why : Bool) (y : Tenant) : y.pauseFor why = { y with whyRebind := why, st := (y.pauseFor why).st } := by
  rw [Tenant.pauseFor, Tenant.settlePause_only]

theorem Tenant.pauseFor_queues (why : Bool) (y : Tenant) : (y.pauseFor why).queues = y.queues := by rw [Tenant.pauseFor_only]

/-- The pause of a losing tenant, before what waits issues. -/
def pauseFrom (f : Nat) (s : State) : State := s.modTenant f (Tenant.pauseFor (s.rebindHolds f))

theorem settleFrom_eq (f : Nat) (s : State) : settleFrom f s = settle f (pauseFrom f s) := rfl

theorem pauseFrom_only (f : Nat) (s : State) : (pauseFrom f s).tenant f =
    { s.tenant f with whyRebind := s.rebindHolds f, st := ((pauseFrom f s).tenant f).st } := by
  have h : (pauseFrom f s).tenant f = (s.tenant f).pauseFor (s.rebindHolds f) := (State.tenant_modTenant ..).trans (if_pos rfl)
  rw [h, Tenant.pauseFor_only]

/-- Queues alone, copies, events, the reason to pause and the state of the losing tenant may differ. -/
theorem settleFrom_only (f : Nat) (s : State) : (settleFrom f s).tenant f =
    { s.tenant f with
      queues := ((settleFrom f s).tenant f).queues, copies := ((settleFrom f s).tenant f).copies
      events := ((settleFrom f s).tenant f).events, st := ((settleFrom f s).tenant f).st
      whyRebind := s.rebindHolds f } := by
  have hgo : GoesOn (fun _ => False) f (pauseFrom f s) (settleFrom f s) := goesOn_settle fun _ h => h.elim
  rw [hgo.tenant.only, pauseFrom_only]

theorem settleFrom_others {f r : Nat} (hr : r ≠ f) (s : State) : (settleFrom f s).tenant r = s.tenant r := by
  have hgo : GoesOn (fun _ => False) f (pauseFrom f s) (settleFrom f s) := goesOn_settle fun _ h => h.elim
  rw [hgo.others r hr, pauseFrom, State.tenant_modTenant, if_neg hr]

theorem settleFrom_rest (f : Nat) (s : State) : settleFrom f s = { s with ten := (settleFrom f s).ten } := by
  have hgo : GoesOn (fun _ => False) f (pauseFrom f s) (settleFrom f s) := goesOn_settle fun _ h => h.elim
  exact hgo.rest

theorem settleFrom_ary (f : Nat) (s : State) : (settleFrom f s).ary = s.ary := by
  have h := settleFrom_rest f s
  generalize settleFrom f s = u at h ⊢
  rw [h]

theorem settleFrom_rebind (f : Nat) (s : State) (r : Nat) : ((settleFrom f s).tenant r).rebind = (s.tenant r).rebind := by
  by_cases hr : r = f
  · rw [hr, settleFrom_only]
  · rw [settleFrom_others hr]

/-- Where nothing of a tenant waits, a losing tenant's pause leaves its queues as they are. -/
theorem settleFrom_queue {t f : Nat} {s : State} (h : NoneWaits t s) (r : Nat) : (settleFrom f s).queue t r = s.queue t r := by
  by_cases ht : t = f
  · subst ht
    rw [settleFrom_eq, pauseFrom, settle_of_noneWaits (h.modTenant_of (Tenant.pauseFor_queues ..)),
      State.queue_modTenant_of (Tenant.pauseFor_queues ..)]
  · rw [State.queue, settleFrom_others ht]
    rfl

/-! ## What an accepted job leaves (R141) -/

/-- The job as it stands once it is accepted. -/
def RebindJob.acceptedAt (now : Nat) (j : RebindJob) : RebindJob := { j with accepted := true, acceptTime := now }

/-- The losses that are settled at once when a job is accepted that takes from a tenant. -/
def takeFor (j : RebindJob) (f : Ten) (s : State) : State :=
  let s2 := (List.range 64).foldl (askArray j (s.tenant f).bindAry) s
  if j.kind = 2 then takeQuietPipe j.item s2 else settleLost s2

theorem takeFor_ten (j : RebindJob) (f : Ten) (s : State) : (takeFor j f s).ten = s.ten := by
  have hask : ((List.range 64).foldl (askArray j (s.tenant f).bindAry) s).ten = s.ten :=
    foldl_keeps State.ten _ _ s fun u a => askArray_ten ..
  unfold takeFor
  dsimp only
  split
  · rw [takeQuietPipe_ten, hask]
  · rw [settleLost_ten, hask]

theorem takeFor_quiesce {j : RebindJob} {f : Ten} {a : Nat} (ha : a < 64)
    (h : RebindJob.quiesces { j with accepted := true } ((s : State).tenant f).bindAry a = true) :
    ((takeFor j f s).arr a).quiesce = true := by
  have hask := foldl_askArray_quiesce j (s.tenant f).bindAry (List.mem_range.mpr ha) h s
  unfold takeFor
  dsimp only
  split
  · rwa [State.arr_congr (takeQuietPipe_ary ..)]
  · rwa [State.arr_congr (settleLost_ary ..)]

section
variable {t : Nat} {s : State} {j : RebindJob} (hjob : (s.tenant t).rebind = some j) (hfree : s.contested t j = false)
  (hstands : s.jobStands t j = true)
include hjob hfree hstands

theorem acceptJob_eq : acceptJob t s =
    let s1 := s.modTenant t (fun y => { y with rebind := some (j.acceptedAt s.glb.devTime) })
    match j.fromT with
    | none => s1
    | some f => settleFrom f (takeFor j f s1) := by
  have hstays : ¬ (!s.jobStands t j) = true := by rw [hstands]; decide
  rw [acceptJob]
  simp only [hjob, hfree, hstays, if_false, Bool.false_eq_true] <;> rfl

theorem acceptJob_rebind : ((acceptJob t s).tenant t).rebind = some (j.acceptedAt s.glb.devTime) := by
  have hmod : ((s.modTenant t (fun y => { y with rebind := some (j.acceptedAt s.glb.devTime) })).tenant t).rebind =
      some (j.acceptedAt s.glb.devTime) := by rw [State.tenant_modTenant, if_pos rfl]
  rw [acceptJob_eq hjob hfree hstands]
  dsimp only
  split
  · exact hmod
  · rw [settleFrom_rebind, State.tenant_congr (takeFor_ten ..), hmod]

theorem acceptJob_quiesce (hkind : j.kind = 0) (hfrom : j.fromT.isSome = true) (hitem : j.item < 64) :
    ((acceptJob t s).arr j.item).quiesce = true := by
  obtain ⟨f, hf⟩ := Option.isSome_iff_exists.mp hfrom
  have hq (b : BitVec 64) : RebindJob.quiesces { j with accepted := true } b j.item = true := by simp [RebindJob.quiesces, hkind]
  rw [acceptJob_eq hjob hfree hstands]
  dsimp only
  rw [hf]
  dsimp only
  rw [State.arr_congr (settleFrom_ary ..)]
  exact takeFor_quiesce hitem (hq _)

theorem acceptJob_queue (hwait : NoneWaits t s) (r : Nat) : (acceptJob t s).queue t r = s.queue t r := by
  have hmod (r : Nat) : (s.modTenant t (fun y => { y with rebind := some (j.acceptedAt s.glb.devTime) })).queue t r = s.queue t r :=
    State.queue_modTenant_of rfl r
  rw [acceptJob_eq hjob hfree hstands]
  dsimp only
  split
  · exact hmod r
  · next f hf =>
    have htake (r : Nat) : (takeFor j f (s.modTenant t (fun y => { y with rebind := some (j.acceptedAt s.glb.devTime) }))).queue t r =
        s.queue t r := by
      rw [← hmod, State.queue, State.tenant_congr (takeFor_ten ..)]
      rfl
    rw [settleFrom_queue fun r hr => by rw [htake, hwait r hr], htake]

end

/-! ## SCRUB, and acceptance of a REBIND (R141, R145) -/

theorem mem_of_mem_sset {α : Type} [DecidableEq α] {d : α} {m : Store α} {k : Nat} {v : α} {e : Nat × α} (he : e ∈ sset d m k v)
    (hk : e.1 ≠ k) : e ∈ m := by
  have hkey : e ≠ (k, v) := by
    rintro rfl
    exact hk rfl
  unfold sset at he
  split at he
  · exact (List.mem_filter.mp he).1
  · exact (List.mem_filter.mp ((mem_sins he).resolve_left hkey)).1

/-- What other tenants' jobs claim is no more where their contexts and the memory ranges are the same. -/
theorem contested_of_others {t : Nat} {j : RebindJob} {s u : State} (hmem : ∀ e ∈ u.ten, e.1 ≠ t → e ∈ s.ten)
    (hranges : ∀ r m, (u.tenant r).range m = (s.tenant r).range m) (h : s.contested t j = false) : u.contested t j = false := by
  have hrange (k : RebindJob) : k.range u = k.range s := by simp only [RebindJob.range, hranges]
  simp only [State.contested, RebindJob.clash, RebindJob.target, hrange, List.any_eq_false] at h ⊢
  intro e he hother
  have hne : e.1 ≠ t := by
    intro hk
    simp [hk] at hother
  exact h e (hmem e he hne) hother

section
variable {t : Ten} {q : Que} {w0 w1 : BitVec 64} {s : State}

theorem contested_beginJob (p : Presented) (j : RebindJob) {k : RebindJob} (h : s.contested t k = false) :
    (beginJob t q p j (passTurn t q s)).contested t k = false := by
  refine contested_of_others (fun e he hne => ?_) (fun r m => ?_) h
  · exact mem_of_mem_sset (mem_of_mem_sset (mem_of_mem_sset he hne) hne) hne
  · by_cases hr : r = t.val
    · subst hr
      have hy : (beginJob t q p j (passTurn t q s)).tenant t =
          { ((passTurn t q s).tenant t).setQueue q (((passTurn t q s).queue t q).issue p none 0) with rebind := some j } := by
        rw [beginJob, State.tenant_modTenant, if_pos rfl, issueOpen, State.modQueue, State.setQueue, State.tenant_modTenant, if_pos rfl]
      rw [hy, passTurn_tenant]
      rfl
    · rw [beginJob, State.tenant_modTenant, if_neg hr, issueOpen, State.modQueue, State.setQueue, State.tenant_modTenant, if_neg hr,
        passTurn_tenant_any]
      rfl

/-- The job of a SCRUB. -/
def scrubJob (q : Nat) (idx : Reg32) (mark kind : Nat) (t : Ten) (item : Nat) : RebindJob :=
  ⟨q, idx, mark, true, kind, true, some t, some t, item, 0, false, 0⟩

theorem scrubBody_of_free {p : Presented} (hfails : scrubFails t (pf p.w0 47 44) (pf p.w0 7 0) s = none)
    (hidle : (s.tenant t).rebind = none) :
    scrubBody t q p s =
      acceptJob t (beginJob t q p (scrubJob q p.idx s.dispNext (pf p.w0 47 44) t (pf p.w0 7 0)) s) := by
  have hme : Fin.ofNat 32 t.val = t := Fin.ext (Nat.mod_eq_of_lt t.isLt)
  simp only [scrubBody, hfails, hidle, hme, Option.isSome_none, Bool.false_eq_true, if_false]
  rfl

theorem scrubFails_passTurn (t q : Nat) (s : State) (kind item : Nat) :
    scrubFails t kind item (passTurn t q s) = scrubFails t kind item s := by
  have hrange : ((passTurn t q s).tenant t).range item = (s.tenant t).range item := by
    rw [passTurn_tenant]
    rfl
  simp only [scrubFails, passTurn_tenantXid, hrange]
  rw [passTurn_tenant]

/-- A SCRUB of an array is of one of the 64. -/
theorem item_lt_of_scrubs {t kind item : Nat} (h : scrubFails t kind item s = none) (hkind : kind = 0) : item < 64 := by
  subst hkind
  unfold scrubFails at h
  dsimp only at h
  split at h
  · cases h
  · rw [if_pos rfl] at h
    split at h
    · next hbit => exact BitVec.lt_of_getLsbD hbit
    · cases h

variable (h : MayIssue s t q w0 w1)
include h

theorem exec_scrub_of_free (hop : pOp w0 = 0x21) (hfree : (s.tenant t).rebind = none)
    (hfails : scrubFails t (pf w0 47 44) (pf w0 7 0) s = none)
    (hclear : s.contested t (scrubJob q (s.queue t q).head s.dispNext (pf w0 47 44) t (pf w0 7 0)) = false) :
    ∃ u, exec (.scrub t q w0 w1) s = .next u ∧ OpenAtHead s u t q w0 ∧
      (u.tenant t).rebind = some ((scrubJob q (s.queue t q).head s.dispNext (pf w0 47 44) t (pf w0 7 0)).acceptedAt s.glb.devTime) ∧
      (pf w0 47 44 = 0 → (u.arr (pf w0 7 0)).quiesce = true) := by
  let j := scrubJob q (s.queue t q).head s.dispNext (pf w0 47 44) t (pf w0 7 0)
  let v := beginJob t q (atHead s t q w0 w1) j (passTurn t q s)
  have hjob : (v.tenant t).rebind = some j := (congrArg Tenant.rebind (State.tenant_modTenant ..)).trans (by rw [if_pos rfl])
  have hcont : v.contested t j = false := contested_beginJob _ _ hclear
  have hwait : NoneWaits t v := h.noneWaits_beginJob j
  have hqueue (r : Nat) : (acceptJob t v).queue t r = v.queue t r := acceptJob_queue hjob hcont rfl hwait r
  have hbody : scrubBody t q (atHead s t q w0 w1) (passTurn t q s) = acceptJob t v :=
    scrubBody_of_free (by rw [scrubFails_passTurn]; exact hfails) (by rw [passTurn_tenant, hfree])
  refine ⟨acceptJob t v, ?_, (openAtHead_beginJob j).congr (hqueue _), acceptJob_rebind hjob hcont rfl, fun hkind =>
    acceptJob_quiesce hjob hcont rfl hkind rfl (item_lt_of_scrubs hfails hkind)⟩
  change Host.Outcome.next (present t q w0 w1 (pOp w0 == 0x21) (scrubBody t.val q.val) s) = _
  rw [present_of_mayIssue h _ (by rw [hop]; rfl), hbody, settle_of_noneWaits fun r hr => by rw [hqueue, hwait r hr]]

end

/-- A REBIND whose DISPATCHes are done is accepted. -/
theorem exec_rebindAccept_of_done {t : Ten} {q : Que} {s : State} {j : RebindJob} (hjob : (s.tenant t).rebind = some j)
    (hq : j.q = q.val) (hopen : j.accepted = false) (hdone : ∀ d ∈ s.disp, j.usedBy s d = false) :
    exec (.rebindAccept t q) s = .next (acceptJob t s) := by
  have hall : s.disp.all (fun d => !j.usedBy s d) = true := by simpa using hdone
  change execRebindAccept t q s = _
  simp only [execRebindAccept, hjob, hq, hopen, hall, Bool.or_true, and_self, if_true]

/-! ## The switch of a pipeline (R141, R142) -/

theorem getLsbD_setBit {n : Nat} (b : BitVec n) {i : Nat} (hi : i < n) (on : Bool) : (setBit b i on).getLsbD i = on := by
  have hbit : (BitVec.ofNat n (2 ^ i)).getLsbD i = true := by
    rw [BitVec.getLsbD_ofNat, Nat.testBit_two_pow_self, decide_eq_true hi, Bool.and_self]
  cases on
  · rw [setBit, if_neg Bool.false_ne_true, BitVec.getLsbD_and, BitVec.getLsbD_not, hbit]
    simp
  · rw [setBit, if_pos rfl, BitVec.getLsbD_or, hbit, Bool.or_true]

theorem switchJob_of_pipe {t f : Ten} {s : State} {j : RebindJob} (hkind : j.kind = 2) (hfrom : j.fromT = some f) (hto : j.toT = some t) :
    switchJob j s =
      ((s.modPipe j.item PipeSt.rest).modTenant f (fun y => { y with bindAtp := setBit y.bindAtp j.item false })).modTenant t
        (fun y => { y with bindAtp := setBit y.bindAtp j.item true }) := by
  have h0 : ¬ j.kind = 0 := by omega
  have h1 : ¬ j.kind = 1 := by omega
  rw [switchJob, if_neg h0, if_neg h1, if_pos hkind, hfrom, hto]
  rfl

/-- The bindings of a pipeline that goes from one tenant to another, once the job is at its end. -/
theorem switchJob_bindAtp {t f : Ten} {s : State} {j : RebindJob} (hkind : j.kind = 2) (hfrom : j.fromT = some f) (hto : j.toT = some t)
    (hne : f ≠ t) (hitem : j.item < 16) :
    ((switchJob j s).tenant t).bindAtp.getLsbD j.item = true ∧ ((switchJob j s).tenant f).bindAtp.getLsbD j.item = false := by
  have hval : f.val ≠ t.val := fun h => hne (Fin.ext h)
  rw [switchJob_of_pipe hkind hfrom hto]
  refine ⟨?_, ?_⟩
  · rw [State.tenant_modTenant, if_pos rfl]
    exact getLsbD_setBit _ hitem true
  · rw [State.tenant_modTenant, if_neg hval, State.tenant_modTenant, if_pos rfl]
    exact getLsbD_setBit _ hitem false

theorem settleFrom_bindAtp (f : Nat) (s : State) (r : Nat) : ((settleFrom f s).tenant r).bindAtp = (s.tenant r).bindAtp := by
  by_cases hr : r = f
  · rw [hr, settleFrom_only]
  · rw [settleFrom_others hr]

/-- The end of a job with success: the instruction completes, and nothing of the bindings changes by it. -/
theorem complete_bindings {status : BitVec 16} (hs : Harmless status) (t q : Nat) (idx : Reg32) (value : BitVec 64) (addr unit : Nat)
    (log : Bool) (s : State) (r : Nat) :
    ((complete t q idx status value addr unit log s).tenant r).rebind = (s.tenant r).rebind ∧
      ((complete t q idx status value addr unit log s).tenant r).bindAtp = (s.tenant r).bindAtp := by
  have hgo : GoesOn (fun _ => False) t s (complete t q idx status value addr unit log s) := goesOn_complete (fun _ h => h.elim) hs ..
  by_cases hr : r = t
  · subst hr
    have honly := hgo.tenant.only
    generalize (complete r q idx status value addr unit log s).tenant r = z at honly ⊢
    rw [honly]
    exact ⟨rfl, rfl⟩
  · rw [hgo.others r hr]
    exact ⟨rfl, rfl⟩

theorem exec_scrubDone_of_pipe {t f : Ten} {q : Que} {s : State} {j : RebindJob} (hjob : (s.tenant t).rebind = some j)
    (hq : j.q = q.val) (hacc : j.accepted = true) (hstands : s.jobStands t j = true) (hquiet : s.quiesceOver j = true)
    (hkind : j.kind = 2) (hitem : j.item < 16) (hfrom : j.fromT = some f) (hto : j.toT = some t) (hne : f ≠ t) :
    ∃ u, exec (.scrubDone t q) s = .next u ∧ (u.tenant t).rebind = none ∧
      (u.tenant t).bindAtp.getLsbD j.item = true ∧ (u.tenant f).bindAtp.getLsbD j.item = false := by
  let s1 := (switchJob j s).modTenant t (fun y => { y with rebind := none })
  let u := complete t q j.idx 0 0 0 unitNone true (settleFrom f s1)
  have hexec : exec (.scrubDone t q) s = .next (autoForm u) := by
    change execScrubDone t q s = _
    simp only [execScrubDone, hjob, hq, hacc, hstands, hquiet, Bool.not_true, Bool.false_eq_true, and_false, and_self, if_false, if_true]
    rw [hfrom]
  have hfinal (r : Nat) : ((autoForm u).tenant r).rebind = (s1.tenant r).rebind ∧ ((autoForm u).tenant r).bindAtp = (s1.tenant r).bindAtp := by
    obtain ⟨hrebind, hbind⟩ := complete_bindings (.inl rfl) t q j.idx 0 0 unitNone true (settleFrom f s1) r
    rw [State.tenant_congr (autoForm_ten u)]
    exact ⟨hrebind.trans (settleFrom_rebind ..), hbind.trans (settleFrom_bindAtp ..)⟩
  have hbind (r : Nat) : (s1.tenant r).bindAtp = ((switchJob j s).tenant r).bindAtp := by
    rw [State.tenant_modTenant]
    split
    · next h => rw [h]
    · rfl
  obtain ⟨hgains, hloses⟩ := switchJob_bindAtp (s := s) hkind hfrom hto hne hitem
  refine ⟨_, hexec, ?_, ?_, ?_⟩
  · rw [(hfinal t).1, State.tenant_modTenant, if_pos rfl]
  · rw [(hfinal t).2, hbind, hgains]
  · rw [(hfinal f).2, hbind, hloses]

/-! ## The balance of the planners (R146) -/

/-- The planner of the smallest share, where one is smaller than the three others. -/
theorem leastPlanner_eq {shares : List Nat} {c : Nat} (hlow : 1 ≤ c) (hhigh : c ≤ 4)
    (hleast : ∀ i, i < 4 → i ≠ c - 1 → shares.getD (c - 1) 0 < shares.getD i 0) :
    [2, 3, 4].foldl (fun b c => if shares.getD (c - 1) 0 < shares.getD (b - 1) 0 then c else b) 1 = c := by
  have h0 := hleast 0
  have h1 := hleast 1
  have h2 := hleast 2
  have h3 := hleast 3
  obtain rfl | rfl | rfl | rfl : c = 1 ∨ c = 2 ∨ c = 3 ∨ c = 4 := by omega
  all_goals
    simp only [List.foldl_cons, List.foldl_nil]
    grind

theorem exec_plannerBalance_of_busier {shares : List Nat} {t : Ten} {c : Nat} {s : State}
    (hdue : s.sec.balanceTime + 10000000 ≤ s.glb.devTime) (hlow : 1 ≤ c) (hhigh : c ≤ 4)
    (hleast : ∀ i, i < 4 → i ≠ c - 1 → shares.getD (c - 1) 0 < shares.getD i 0)
    (hfirst : 1 ≤ (s.tenant t).planner.toNat) (hlast : (s.tenant t).planner.toNat ≤ 4)
    (hbusy : shares.getD (c - 1) 0 + 25 < shares.getD ((s.tenant t).planner.toNat - 1) 0)
    (hrested : (s.tenant t).movedAt = 0 ∨ (s.tenant t).movedAt + 100000000 ≤ s.glb.devTime)
    (hmgmt : s.compHeld .mgmt = false) (hcore : s.compHeld (plannerComp c) = false)
    (hwait : ∀ r : Que, (s.queue t r).waiting = none) :
    exec (.plannerBalance shares t) s = .next { (s.setTenant t { s.tenant t with
      planner := BitVec.ofNat 3 c, movedAt := s.glb.devTime }) with sec := { s.sec with balanceTime := s.glb.devTime } } := by
  have hnone : (List.range 8).all (fun r => ((s.tenant t).queue r).waiting.isNone) = true := by
    rw [List.all_eq_true]
    intro r hr
    exact Option.isNone_iff_eq_none.mpr (hwait ⟨r, List.mem_range.mp hr⟩)
  have hfree : ((s.tenant t).movedAt == 0 || decide ((s.tenant t).movedAt + 1000 * ms ≤ s.glb.devTime)) = true := by
    rw [Bool.or_eq_true, beq_iff_eq, decide_eq_true_iff]
    exact hrested
  have hms : s.sec.balanceTime + 100 * ms ≤ s.glb.devTime := by
    unfold ms
    omega
  change execPlannerBalance shares t s = _
  simp only [execPlannerBalance, leastPlanner_eq hlow hhigh hleast]
  rw [if_pos]
  exact ⟨hms, hfirst, hlast, hfree, hbusy, by rw [hmgmt]; rfl, by rw [hcore]; rfl, hnone⟩

/-! ## A leg that is lost (R141) -/

/-- What holds of a DISPATCH and goes on holding when it faults once more, holds of one after a quiet pipeline is taken. -/
theorem exists_disp_takeQuietPipe {P : Dispatch → Prop} (hP : ∀ d code unit, P d → P (d.faulted code unit)) {p : Nat} {s : State}
    (h : ∃ d ∈ s.disp, P d) : ∃ d ∈ (takeQuietPipe p s).disp, P d := by
  rw [takeQuietPipe]
  refine exists_disp_settleLost hP ?_
  split
  · refine foldl_holds (fun u : State => ∃ d ∈ u.disp, P d) _ _ _ (fun u j hu => ?_) h
    obtain ⟨d, hd, hPd⟩ := hu
    unfold loseLegs
    split
    · exact ⟨d, hd, hPd⟩
    · dsimp only
      split
      · exact ⟨d, hd, hPd⟩
      · refine ⟨_, List.mem_map_of_mem hd, ?_⟩
        split
        · exact hP _ _ _ hPd
        · exact hPd
  · exact h

theorem takeQuietPipe_leg (p : Nat) (s : State) : ((takeQuietPipe p s).pipeline p).leg = (s.pipeline p).leg := by
  rw [takeQuietPipe, State.pipeline_congr (settleLost_pipe _)]
  split
  · rw [State.pipeline_congr (s := s.modPipe p (fun x => { x with st := .scrub }))
      (foldl_keeps State.pipe _ _ _ fun _ _ => loseLegs_keeps State.pipe (fun _ _ => rfl) ..), State.pipeline_modPipe, if_pos rfl]
  · rfl

/-- A DISPATCH that has lost a leg to a re-binding. -/
def Dispatch.lostLeg (p : Nat) (d : Dispatch) : Dispatch :=
  { d.faulted 0x3302 (BitVec.ofNat 64 (unitPipe p)) with legsLeft := d.legsLeft - 1 }

/-- A leg is discarded: the pipeline is without it, and its DISPATCH faults with REBIND_LOST where it had not faulted. -/
theorem discardLeg_effect {p : Nat} {s : State} {g : Leg} (hleg : (s.pipeline p).leg = some g) :
    ((discardLeg p s).pipeline p).leg = none ∧
      ∀ d ∈ s.disp, d.id = g.req.disp → d.fault = none → ∃ d' ∈ (discardLeg p s).disp,
        d'.id = d.id ∧ d'.discard = true ∧ d'.fault = some (0x3302, BitVec.ofNat 64 (unitPipe p)) := by
  have heq : discardLeg p s = takeQuietPipe p (endWalks (fun w => w.disp == g.req.disp && w.pass == (passDesc g.req.pd).key)
      ((s.modPipe p PipeSt.rest).modDispatch g.req.disp (Dispatch.lostLeg p))) := by
    rw [discardLeg, hleg]
    rfl
  rw [heq]
  refine ⟨?_, fun d hd hid hfault => ?_⟩
  · rw [takeQuietPipe_leg, endWalks_pipeline]
    change ((s.modPipe p PipeSt.rest).pipeline p).leg = none
    rw [State.pipeline_modPipe, if_pos rfl]
    rfl
  · refine exists_disp_takeQuietPipe (fun x code unit hx => ?_) ⟨_, mem_updDispatch hd hid, ?_⟩
    · obtain ⟨hx1, hx2, hx3⟩ := hx
      exact ⟨hx1, by simp [Dispatch.faulted, hx2], by simp [Dispatch.faulted, hx3]⟩
    · refine ⟨rfl, ?_, ?_⟩
      · simp [Dispatch.lostLeg, Dispatch.faulted, Code.uePoison]
      · simp [Dispatch.lostLeg, Dispatch.faulted, hfault]

/-- What a table reads as is listed, where it is not what an unlisted key reads as. -/
theorem mem_of_sget_ne {α : Type} {d : α} {m : Store α} {k : Nat} (h : sget d m k ≠ d) : (k, sget d m k) ∈ m := by
  induction m with
  | nil => exact absurd rfl h
  | cons e r ih =>
    rw [sget] at h ⊢
    split
    · next hk =>
      subst hk
      exact List.mem_cons_self ..
    · next hk =>
      rw [if_neg hk] at h
      exact List.mem_cons_of_mem _ (ih h)

theorem exec_legQuiesceTimeout_of_due {t : Ten} {p : Pipe} {s : State} {g : Leg} {j : RebindJob} (hleg : (s.pipeline p).leg = some g)
    (hjob : (s.tenant t).rebind = some j) (hstops : j.stopsLeg p g.req.tenant = true) (hdue : j.acceptTime + 100000 ≤ s.glb.devTime) :
    exec (.legQuiesceTimeout p) s = .next (discardLeg p s) := by
  have hlisted : (t.val, s.tenant t) ∈ s.ten := mem_of_sget_ne fun h => by
    have hnone : (s.tenant t).rebind = none := congrArg Tenant.rebind h
    simp [hnone] at hjob
  change execLegQuiesceTimeout p s = _
  simp only [execLegQuiesceTimeout, hleg]
  refine if_pos (List.any_eq_true.mpr ⟨_, hlisted, ?_⟩)
  simp only [hjob, hstops, Bool.true_and]
  exact decide_eq_true (by simpa [ms] using hdue)

/-- Settles O17, a lemma for each of the commands. -/
theorem rebindAndScrub : Obligations.RebindAndScrub := by
  unfold Obligations.RebindAndScrub
  intro t q w0 w1 s j p g f
  refine ⟨?_, ?_, ?_, ?_, ?_, ?_, ?_⟩
  case refine_1 =>
    intro hop h hfree hnow hlet
    exact ⟨_, exec_rebind_of_begun h hop hfree hnow hlet, openAtHead_beginJob _, onlyTenant_beginJob _ _,
      (congrArg Tenant.rebind (State.tenant_modTenant ..)).trans (by rw [if_pos rfl])⟩
  case refine_2 =>
    intro hop h hfree hrefused
    exact exec_rebind_of_refused h hop hfree hrefused
  case refine_3 =>
    intro hop h hfree hfails hclear
    exact exec_scrub_of_free h hop hfree hfails hclear
  case refine_4 =>
    intro hjob hq hopen hdone hclear hstands
    exact ⟨_, exec_rebindAccept_of_done hjob hq hopen hdone, acceptJob_rebind hjob hclear hstands,
      acceptJob_quiesce hjob hclear hstands⟩
  case refine_5 =>
    intro hjob hq hacc hstands hquiet hkind _ hitem hfrom hto hne
    exact exec_scrubDone_of_pipe hjob hq hacc hstands hquiet hkind hitem hfrom hto hne
  case refine_6 =>
    intro hleg hjob hstops hdue
    obtain ⟨hnone, hlost⟩ := discardLeg_effect hleg
    exact ⟨_, exec_legQuiesceTimeout_of_due hleg hjob hstops hdue, hnone, hlost⟩
  case refine_7 =>
    intro shares c hdue hlow hhigh hleast hfirst hlast hbusy hrested hmgmt hcore hwait
    exact exec_plannerBalance_of_busier hdue hlow hhigh hleast hfirst hlast hbusy hrested hmgmt hcore hwait

end Sys2Proof.Machine
end

section
/-! PROOFS, O15. START, STOP, RESET and RESUME of a tenant, and the end of a reset (R137, R142, R146). -/

namespace Sys2Proof.Machine

/-! ## A context replaced -/

theorem State.setTenant_setTenant (s : State) (t : Nat) (x y : Tenant) : (s.setTenant t x).setTenant t y = s.setTenant t y := by
  simp only [State.setTenant, sset_sset]

/-- A command that is read back leaves the context with its number. -/
theorem setCmd_tenant (t : Nat) (v : BitVec 4) (s : State) : (setCmd t v s).tenant t = { s.tenant t with cmd := v } :=
  (State.tenant_modTenant ..).trans (if_pos rfl)

theorem setTenant_setCmd (t : Nat) (v : BitVec 4) (s : State) (x : Tenant) : (setCmd t v s).setTenant t x = s.setTenant t x :=
  State.setTenant_setTenant ..

/-! ## START, RESET -/

section
variable {t : Ten} {s : State} (hwrites : s.hostWrites = true) (hst : (s.tenant t).st = .free ∨ (s.tenant t).st = .stopped)
include hwrites hst

theorem exec_start_of_class (hcls : (s.tenant t).cls = 2 ∨ (s.tenant t).cls = 3) (hrebind : (s.tenant t).whyRebind = false)
    (hhost : (s.tenant t).whyHost = false) (hfw : (s.tenant t).whyFw = false)
    (hheld : s.compHeld (plannerComp (s.planTenant t (s.tenant t))) = false) :
    exec (.start t) s = .next (s.setTenant t { s.tenant t with
      cmd := 1, st := .running, planner := BitVec.ofNat 3 (s.planTenant t (s.tenant t)) }) := by
  have hnone : ¬ ((s.tenant t).cls = 0 ∨ ((s.tenant t).cls = 1 ∧ 4 ≤ (setCmd t 1 s).otherExpress t)) := by
    rcases hcls with h | h <;> simp [h]
  have hon : ¬ (!s.hostWrites) = true := by simp [hwrites]
  change execStart t s = _
  rw [execStart, if_neg hon]
  dsimp only
  rw [setCmd_tenant, if_pos hst, if_neg hnone, setTenant_setCmd]
  change Host.Outcome.next (s.setTenant t (Tenant.settlePause { s.tenant t with
    cmd := 1, st := .running, planner := BitVec.ofNat 3 (s.planTenant t (s.tenant t))
    whyFw := (s.tenant t).whyFw || s.compHeld (plannerComp (s.planTenant t (s.tenant t))) })) = _
  simp [Tenant.settlePause, hrebind, hhost, hfw, hheld]

theorem exec_start_of_classless (hcls : (s.tenant t).cls = 0) :
    exec (.start t) s = .next (s.setTenant t { s.tenant t with cmd := 1, startRefused := true }) := by
  change execStart t s = _
  simp only [execStart, hwrites, setCmd_tenant, hst, hcls, setTenant_setCmd, Bool.not_true, Bool.false_eq_true, true_or, if_true, if_false]

theorem exec_reset_of_unarmed (hxid : s.tenantXid t = none) :
    exec (.reset t) s = .next (s.setTenant t { s.tenant t with cmd := 3, st := .resetting }) := by
  have hx (x : Tenant) : (s.setTenant t x).tenantXid t = none := hxid
  change execReset t s = _
  simp only [execReset, hwrites, setCmd_tenant, hst.symm, setTenant_setCmd, hx, Bool.not_true, Bool.false_eq_true, if_true, if_false]

end

/-! ## STOP -/

section
variable {α : Type} [DecidableEq α] {d : α} {m : Store α} {f : Nat → α → α}

/-- A value of a table changed throughout is one that is listed, changed, or that of an unlisted key. -/
theorem sget_smap_or (m : Store α) (f : Nat → α → α) (k : Nat) :
    sget d (smap d m f) k = d ∨ ∃ e ∈ m, sget d (smap d m f) k = f e.1 e.2 := by
  by_cases hd : sget d (smap d m f) k = d
  · exact .inl hd
  · refine .inr ?_
    obtain ⟨e, he, heq⟩ := List.mem_map.mp (List.mem_filter.mp (mem_of_sget_ne hd)).1
    exact ⟨e, he, (congrArg Prod.snd heq).symm⟩

/-- A listed value that the change does not make unlisted is changed where it is read. -/
theorem sget_smap_of_ne {k : Nat} (h : sget d m k ≠ d) (hf : f k (sget d m k) ≠ d) : sget d (smap d m f) k = f k (sget d m k) := by
  induction m with
  | nil => exact absurd rfl h
  | cons e r ih =>
    rw [sget] at h hf ⊢
    by_cases hk : e.1 = k
    · rw [if_pos hk] at hf ⊢
      rw [smap, List.map_cons, List.filter_cons_of_pos (by simpa [hk] using hf), sget, if_pos hk, hk]
    · rw [if_neg hk] at h hf ⊢
      have hskip : sget d (smap d (e :: r) f) k = sget d (smap d r f) k := by
        rw [smap, List.map_cons, List.filter_cons]
        split
        · rw [sget, if_neg hk]
          rfl
        · rfl
      rw [hskip, ih h hf]

end

/-- A queue whose instruction that waits to issue is given up. -/
def Queue.unwaited (v : Queue) : Queue := { v with waiting := none }

/-- A running tenant that stops: what waits to issue is given up. -/
def Tenant.givenUp (y : Tenant) : Tenant :=
  { y with cmd := 2, st := .stopping, queues := smap Queue.init y.queues (fun _ v => v.unwaited) }

theorem Tenant.givenUp_allDone {y : Tenant} (h : ∀ e ∈ y.queues, e.2.allDone = true) (r : Nat) : (y.givenUp.queue r).allDone = true := by
  rcases sget_smap_or (d := Queue.init) y.queues (fun _ v => v.unwaited) r with hr | ⟨e, he, hr⟩
  · rw [Tenant.queue, Tenant.givenUp, hr]
    rfl
  · rw [Tenant.queue, Tenant.givenUp, hr]
    exact h e he

theorem Tenant.givenUp_not_allDone {y : Tenant} {r : Nat} (h : (y.queue r).allDone = false) : (y.givenUp.queue r).allDone = false := by
  have hlisted (v : Queue) (hv : v.allDone = false) : v ≠ Queue.init := by
    rintro rfl
    exact Bool.noConfusion hv
  have hr : y.givenUp.queue r = (y.queue r).unwaited :=
    sget_smap_of_ne (f := fun _ (v : Queue) => v.unwaited) (hlisted _ h) (hlisted (y.queue r).unwaited h)
  rw [hr]
  exact h

section
variable {t : Ten} {s : State} (hwrites : s.hostWrites = true) (hst : (s.tenant t).st = .running)
include hwrites hst

theorem exec_stop_of_running : exec (.stop t) s = .next (s.setTenant t (s.tenant t).givenUp.settleStop) := by
  have hon : ¬ (!s.hostWrites) = true := by simp [hwrites]
  have hpause : ¬ ((s.tenant t).st = .paused ∧ (s.tenant t).whyHost = true) := by simp [hst]
  change execStop t s = _
  rw [execStop, if_neg hon]
  dsimp only
  rw [setCmd_tenant, if_neg hpause, if_pos (.inl hst), setTenant_setCmd]
  rfl

theorem exec_stop_effect : ∃ u, exec (.stop t) s = .next u ∧ (u.tenant t).st = (s.tenant t).givenUp.settleStop.st ∧
    (u.tenant t).cmd = 2 ∧ OnlyTenant t s u := by
  have htenant : (s.setTenant t (s.tenant t).givenUp.settleStop).tenant t = (s.tenant t).givenUp.settleStop :=
    (State.tenant_setTenant ..).trans (if_pos rfl)
  have honly : (s.tenant t).givenUp.OnlyQueues (s.tenant t).givenUp.settleStop := (Tenant.stopSettled_settleStop _).only
  refine ⟨_, exec_stop_of_running hwrites hst, by rw [htenant], ?_, onlyTenant_modTenant t (fun y => y.givenUp.settleStop) s⟩
  rw [htenant, honly]
  rfl

end

/-! ## RESUME -/

theorem writeRecord_tenant (t q : Nat) (s : State) :
    ((writeRecord t q s).tenant t).st = (s.tenant t).st ∧ ((writeRecord t q s).tenant t).whyHost = (s.tenant t).whyHost := by
  have hset (v : Queue) : ((s.setQueue t q v).tenant t).st = (s.tenant t).st ∧
      ((s.setQueue t q v).tenant t).whyHost = (s.tenant t).whyHost := by
    rw [State.setQueue, State.tenant_modTenant, if_pos rfl]
    exact ⟨rfl, rfl⟩
  have hmsix (n : Nat) (u : State) : (msix n u).tenant t = u.tenant t :=
    State.tenant_congr (msix_keeps State.ten (fun _ _ _ => rfl) n u) t
  unfold writeRecord
  dsimp only
  split
  · exact ⟨rfl, rfl⟩
  · split
    · exact ⟨rfl, rfl⟩
    · split
      · exact hset _
      · split
        · rw [hmsix, emit_tenant]
          exact hset _
        · rw [emit_tenant]
          exact hset _

/-- Records that are written leave the tenant's state and its reason to pause. -/
theorem writeRecords_tenant (t q : Nat) (s : State) :
    ((writeRecords t q s).tenant t).st = (s.tenant t).st ∧ ((writeRecords t q s).tenant t).whyHost = (s.tenant t).whyHost := by
  refine foldl_holds (fun u : State => (u.tenant t).st = (s.tenant t).st ∧ (u.tenant t).whyHost = (s.tenant t).whyHost) _ _ s
    (fun u _ hu => ?_) ⟨rfl, rfl⟩
  obtain ⟨hst, hhost⟩ := writeRecord_tenant t q u
  exact ⟨hst.trans hu.1, hhost.trans hu.2⟩

theorem foldl_writeRecords_tenant (t : Nat) (l : List Nat) (s : State) :
    ((l.foldl (fun s q => writeRecords t q s) s).tenant t).st = (s.tenant t).st ∧
      ((l.foldl (fun s q => writeRecords t q s) s).tenant t).whyHost = (s.tenant t).whyHost :=
  ⟨foldl_keeps (fun u : State => (u.tenant t).st) _ _ _ fun u q => (writeRecords_tenant t q u).1,
    foldl_keeps (fun u : State => (u.tenant t).whyHost) _ _ _ fun u q => (writeRecords_tenant t q u).2⟩

/-- What goes on in a tenant that runs leaves it running, and the reason of the host to pause. -/
theorem settle_running {t : Nat} {s : State} (h : (s.tenant t).st = .running) :
    ((settle t s).tenant t).st = .running ∧ ((settle t s).tenant t).whyHost = (s.tenant t).whyHost := by
  have hgo : GoesOn (fun _ => False) t s (settle t s) := goesOn_settle fun _ h => h.elim
  have hst := hgo.tenant.st (by rw [h]; decide)
  have honly := hgo.tenant.only
  generalize (settle t s).tenant t = z at hst honly ⊢
  refine ⟨hst.trans h, ?_⟩
  rw [honly]

/-- A tenant from which WHY_HOST is lifted, its only reason to pause. -/
def Tenant.resumed (y : Tenant) : Tenant := { y with cmd := 4, st := .running, whyHost := false }

theorem exec_resume_of_held {t : Ten} {s : State} (hwrites : s.hostWrites = true) (hst : (s.tenant t).st = .paused)
    (hhost : (s.tenant t).whyHost = true) (hrebind : (s.tenant t).whyRebind = false) (hfw : (s.tenant t).whyFw = false) :
    exec (.resume t) s =
      .next (settle t ((List.range 8).foldl (fun s q => writeRecords t q s) (s.setTenant t (s.tenant t).resumed))) := by
  have hon : ¬ (!s.hostWrites) = true := by simp [hwrites]
  have hlifted : Tenant.settlePause { s.tenant t with cmd := 4, whyHost := false } = (s.tenant t).resumed := by
    simp [Tenant.settlePause, hst, hrebind, hfw, Tenant.resumed]
  change execResume t s = _
  rw [execResume, if_neg hon]
  dsimp only
  rw [setCmd_tenant, if_pos ⟨hst, hhost⟩, setTenant_setCmd, hlifted]

theorem resumed_runs (t : Nat) (s : State) :
    let u := settle t ((List.range 8).foldl (fun s q => writeRecords t q s) (s.setTenant t (s.tenant t).resumed))
    (u.tenant t).st = .running ∧ (u.tenant t).whyHost = false := by
  have hset : (s.setTenant t (s.tenant t).resumed).tenant t = (s.tenant t).resumed := (State.tenant_setTenant ..).trans (if_pos rfl)
  obtain ⟨hst, hhost⟩ := foldl_writeRecords_tenant t (List.range 8) (s.setTenant t (s.tenant t).resumed)
  rw [hset] at hst hhost
  generalize (List.range 8).foldl (fun s q => writeRecords t q s) (s.setTenant t (s.tenant t).resumed) = v at hst hhost ⊢
  obtain ⟨hruns, hwhy⟩ := settle_running (hst : _ = TenState.running)
  exact ⟨hruns, hwhy.trans hhost⟩

/-! ## The end of a reset (R137, R142, R379) -/

section
variable {γ : Type} (f : State → γ)

/-- What neither contexts nor memories enter, a scrub of a memory range leaves. -/
theorem scrubRange_keeps (hf : ∀ s x m, f { s with ten := x, mtc := m } = f s) (t : Nat) (r : MemRange) (s : State) :
    f (scrubRange t r s) = f s := by
  have hten (s : State) (x : Store Tenant) : f { s with ten := x } = f s := hf s x s.mtc
  have hgran : ∀ (l : List Nat) (s : State), f (l.foldl (fun s g => scrubGranule t g s) s) = f s :=
    fun l s => foldl_keeps f _ l s fun s g => hf s s.ten _
  have hmk (s : State) : f (settleMk t s) = f s := by
    unfold settleMk
    split
    · exact hten s _
    · rfl
  have hmigr (s : State) : f (settleMigrates t s) = f s := by
    refine foldl_keeps f _ _ s fun s j => ?_
    dsimp only
    split
    · rfl
    · have hgo := (goesOn_complete (Q := fun _ => False) (t := t)
        (s := s.modTenant t (fun y => { y with migrates := y.migrates.filter (· != j) })) (fun _ h => h.elim)
        (.inl rfl : Harmless 0) j.q j.idx 0 0 unitNone true).rest
      rw [hgo]
      exact hten s _
  exact (hten _ _).trans ((hmigr _).trans ((hmk _).trans (hgran _ _)))

end

theorem settleFrom_disp (f : Nat) (s : State) : (settleFrom f s).disp = s.disp := by
  have h := settleFrom_rest f s
  generalize settleFrom f s = u at h ⊢
  rw [h]

/-- Nothing is left of what a tenant has dispatched once its work is abandoned. -/
theorem abandonWork_disp (t : Nat) (s : State) : ∀ d ∈ (abandonWork t s).disp, d.tenant ≠ t := by
  have hfilter : (abandonWork t s).disp = s.disp.filter (fun d => d.tenant != t) := by
    unfold abandonWork
    dsimp only
    split
    · rfl
    · rw [settleFrom_disp]
      rfl
  intro d hd
  rw [hfilter] at hd
  simpa using (List.mem_filter.mp hd).2

/-- An array without siding bytes, accumulators and vector registers. -/
def Arr.Clear (x : Arr) : Prop := x.sid = [] ∧ x.acc = [] ∧ x.vreg = []

theorem scrubArr_clear (x : Arr) : (scrubArr x).Clear := ⟨rfl, rfl, rfl⟩

theorem modArr_scrubArr_clear {s : State} {a : Nat} (b : Nat) (h : (s.arr a).Clear) : ((s.modArr b scrubArr).arr a).Clear := by
  rw [State.arr_modArr]
  split
  · exact scrubArr_clear _
  · exact h

theorem foldl_scrubArr_clear {l : List Nat} {a : Nat} (ha : a ∈ l) (s : State) :
    ((l.foldl (fun s a => s.modArr a scrubArr) s).arr a).Clear := by
  induction l generalizing s with
  | nil => cases ha
  | cons b r ih =>
    rw [List.foldl_cons]
    rcases List.mem_cons.mp ha with rfl | ha
    · refine foldl_holds (fun u : State => (u.arr a).Clear) _ r _ (fun u b hu => modArr_scrubArr_clear b hu) ?_
      rw [State.arr_modArr, if_pos rfl]
      exact scrubArr_clear _
    · exact ih ha _

/-- Forming a spare pair enters arrays and the spare alone. -/
theorem autoForm_keeps {γ : Type} (f : State → γ) (hf : ∀ s a x, f { s with ary := a, xpr := x } = f s) (s : State) :
    f (autoForm s) = f s := by
  unfold autoForm
  split
  · rfl
  · split
    · exact hf s _ _
    · rfl

/-- An array scrubbed for the spare pair. -/
def Arr.spareFor (p : Nat) (x : Arr) : Arr := { scrubArr x with paired := true, partner := BitVec.ofNat 6 p, spare := true }

theorem formSpare_ary (b c : Nat) (s : State) :
    (formSpare b c s).ary = ((s.modArr b (Arr.spareFor c)).modArr c (Arr.spareFor b)).ary := rfl

theorem autoForm_clear {s : State} {a : Nat} (h : (s.arr a).Clear) : ((autoForm s).arr a).Clear := by
  have hspare (p : Nat) (x : Arr) : (x.spareFor p).Clear := ⟨rfl, rfl, rfl⟩
  unfold autoForm
  split
  · exact h
  · split
    · rw [State.arr_congr (formSpare_ary ..), State.arr_modArr]
      split
      · exact hspare _ _
      · rw [State.arr_modArr]
        split
        · exact hspare _ _
        · exact h
    · exact h

/-- The resources of a context's binding scrubbed, one kind after the other. -/
def scrubBinding (t : Nat) (y : Tenant) (s : State) : State :=
  let s2 := y.arrays.foldl (fun s a => s.modArr a scrubArr) s
  let s3 := zeroCon y.conBase.toNat y.conSize.toNat s2
  let s4 := (List.range 8).foldl (fun s m => scrubRange t (y.range m) s) s3
  ((List.range 32).filter (fun k => y.bindKey.getLsbD k)).foldl (fun s k => zeroKey k s) s4

theorem scrubBinding_keeps {γ : Type} (f : State → γ) (hf : ∀ s x m k, f { s with ten := x, mtc := m, sec := k } = f s) (t : Nat)
    (y : Tenant) (s : State) : f (scrubBinding t y s) = f (y.arrays.foldl (fun s a => s.modArr a scrubArr) s) := by
  refine (foldl_keeps f _ _ _ fun u k => hf u u.ten u.mtc _).trans ?_
  refine (foldl_keeps f _ _ _ fun u m => scrubRange_keeps f (fun u x m => hf u x m u.sec) ..).trans ?_
  exact hf _ _ _ _

/-- A tenant whose resources are scrubbed is FREE: its context as reset leaves it, its sequences and package loads gone. -/
def freed (t : Nat) (s : State) : State :=
  let s6 := { s with
    kv := { s.kv with seqs := s.kv.seqs.filter (fun e => e.1 / 65536 != t) }
    dep := { s.dep with loads := s.dep.loads.filter (fun j => j.tenant != t) } }
  s6.setTenant t (s6.tenant t).wiped

section
variable {t : Ten} {s : State}

theorem exec_tenantResetDone_of_unnamed (hst : (s.tenant t).st = .resetting) (hxid : s.tenantXid t = none)
    (harm : ∀ x : Fin 4, (s.xid x).st ≠ .arming) (hnamed : s.unnamed t = true) :
    exec (.tenantResetDone t) s = .next (autoForm (freed t (scrubBinding t (s.tenant t) (abandonWork t s)))) := by
  have harming : (List.range 4).any (fun x => (s.xid x).st == .arming && (s.xid x).tenant.toNat == t.val) = false := by
    rw [List.any_eq_false]
    intro x hx
    have := harm ⟨x, List.mem_range.mp hx⟩
    simp [this]
  change execTenantResetDone t s = _
  rw [execTenantResetDone]
  dsimp only
  rw [if_neg]
  · rfl
  · simp [hst, hxid, harming, hnamed]

/-- What a reset that is done leaves of its context. -/
theorem freed_tenant (t : Nat) (s : State) : (freed t s).tenant t = (s.tenant t).wiped :=
  (State.tenant_setTenant ..).trans (if_pos rfl)

/-- Of its sequences none is open. -/
theorem freed_kvSeq (t : Nat) (s : State) {h : Nat} (hh : h < 65536) : (freed t s).kvSeq t h = none := by
  have hkey : kvKey t h / 65536 = t := by unfold kvKey; omega
  exact (sget_filter_key none s.kv.seqs (fun k => k / 65536 != t) (kvKey t h)).trans (if_neg (by simp [hkey]))

end

/-- Settles O15: the commands by the branch that the tenant's state takes, the reset by what each scrub leaves alone. -/
theorem tenantCommandsAndReset : Obligations.TenantCommandsAndReset := by
  unfold Obligations.TenantCommandsAndReset
  refine ⟨fun t s => ?_, fun t s hst hxid harm hnamed => ?_⟩
  · intro y hwrites
    refine ⟨?_, ?_, ?_, ?_, ?_, ?_⟩
    case refine_1 =>
      intro hst hcls hrebind hhost hfw hheld
      exact exec_start_of_class hwrites hst hcls hrebind hhost hfw hheld
    case refine_2 =>
      intro hst hcls
      exact exec_start_of_classless hwrites hst hcls
    case refine_3 =>
      intro hst hdone
      obtain ⟨u, hexec, hu, hcmd, honly⟩ := exec_stop_effect hwrites hst
      refine ⟨u, hexec, hu.trans ?_, hcmd, honly⟩
      rw [Tenant.settleStop_st, if_pos]
      exact ⟨rfl, List.all_eq_true.mpr fun r _ => Tenant.givenUp_allDone hdone r⟩
    case refine_4 =>
      rintro hst ⟨r, hopen⟩
      obtain ⟨u, hexec, hu, hcmd, honly⟩ := exec_stop_effect hwrites hst
      refine ⟨u, hexec, hu.trans ?_, hcmd, honly⟩
      rw [Tenant.settleStop_st, if_neg]
      · rfl
      · rintro ⟨-, hall⟩
        have hr := List.all_eq_true.mp hall r (List.mem_range.mpr r.isLt)
        rw [Tenant.givenUp_not_allDone hopen] at hr
        exact Bool.noConfusion hr
    case refine_5 =>
      intro hst hxid
      exact exec_reset_of_unarmed hwrites hst hxid
    case refine_6 =>
      intro hst hhost hrebind hfw
      exact ⟨_, exec_resume_of_held hwrites hst hhost hrebind hfw, resumed_runs t s⟩
  · have hexec := exec_tenantResetDone_of_unnamed hst hxid harm hnamed
    have htenant (v : State) : (autoForm (freed t v)).tenant t = (v.tenant t).wiped := by
      rw [State.tenant_congr (autoForm_ten _), freed_tenant]
    have hdisp : (autoForm (freed t (scrubBinding t (s.tenant t) (abandonWork t s)))).disp = (abandonWork t s).disp :=
      (autoForm_keeps State.disp (fun _ _ _ => rfl) _).trans ((scrubBinding_keeps State.disp (fun _ _ _ _ => rfl) ..).trans
        (foldl_keeps State.disp _ _ _ fun _ _ => rfl))
    refine ⟨_, hexec, ?_⟩
    rw [htenant, hdisp]
    refine ⟨rfl, rfl, rfl, rfl, rfl, rfl, rfl, rfl, rfl, rfl, rfl, rfl, rfl, rfl, rfl, fun _ => rfl, fun h hh => ?_, abandonWork_disp t s,
      fun a hbound => autoForm_clear ?_⟩
    · have hkv (v : State) : (autoForm v).kvSeq t h = v.kvSeq t h := autoForm_keeps (fun u => u.kvSeq t h) (fun _ _ _ => rfl) v
      rw [hkv, freed_kvSeq t _ hh]
    · have hary : (freed t (scrubBinding t (s.tenant t) (abandonWork t s))).ary =
          ((s.tenant t).arrays.foldl (fun s a => s.modArr a scrubArr) (abandonWork t s)).ary :=
        scrubBinding_keeps State.ary (fun _ _ _ _ => rfl) ..
      rw [State.arr_congr hary]
      exact foldl_scrubArr_clear (List.mem_filter.mpr ⟨List.mem_range.mpr a.isLt, hbound⟩) _

end Sys2Proof.Machine
end

section
/-! PROOFS, O14. A DISPATCH whose tenant's context is listed twice (R141). -/

namespace Sys2Proof.Machine

/-- A kernel that is not tiled, for sequences of 128 and a batch of 1. -/
def plainKernel : KernelEntry := ⟨0, [128], [1], 64, 32, 1, 1, false, false, 16384, false, 0x4000, false⟩

/-- A tenant that runs on planner 1 and holds array 0 and 16 granules, its copy 0 armed and pointed to by the open batch of queue 0. -/
def plainTenant : Tenant :=
  { Tenant.init with
    st := .running, cls := 2, planner := 1, bindAry := 1, ranges := [(0, ⟨0, 0, 16⟩)]
    copies := [(0, { Copy.init with st := .armed, kernels := [plainKernel] })]
    queues := [(0, { Queue.init with enable := true, st := .idle, tail := 2, batch := some ⟨some 0, true, 0⟩ })] }

/-- A context with a re-binding in progress that takes array 0 from tenant 0. -/
def leavingTenant : Tenant := { Tenant.init with rebind := some ⟨0, 0, 0, false, 0, false, some 0, none, 0, 0, false, 0⟩ }

/-- Tenant 0 is listed twice: what reads its context sees the first, what goes through all jobs sees the second too. -/
def listedTwice : State :=
  { State.reset with glb := { Glb.init with attached := true }, ten := [(0, plainTenant), (0, leavingTenant)] }

/-- The kernel gives array 0 one image. -/
def oneImage : Emission := ⟨64, [0], [], [], [], [], 0, [], [], [], []⟩

/-- The DISPATCH of kernel 0 for a sequence of 128 and a batch of 1. -/
def plainDispatch : BitVec 64 := 0x01C0000000800400

theorem exec_dispatch_listedTwice :
    ∃ u, exec (.dispatch 0 0 plainDispatch 0 oneImage) listedTwice = .next u ∧ u.disp.map (·.imagesLeft) = [[0]] :=
  ⟨_, rfl, by decide +kernel⟩

theorem tileArrays_listedTwice : listedTwice.tileArrays (0 : Ten) = [] := by decide +kernel

theorem mayIssue_plainDispatch : MayIssue listedTwice 0 0 plainDispatch 0 := by
  unfold MayIssue Presents
  decide +kernel

/-- Refutes O14: the statement reads the arrays that stay with the tenant before the turn passes on, the model after it, and the turn's
write of tenant 0's context drops a second entry of that tenant, with it the re-binding that takes array 0: the image of array 0 is
to be done, while the statement leaves none. It takes a table of contexts that is not in canonical form. -/
theorem not_dispatchIssuesAndCompletes : ¬ Obligations.DispatchIssuesAndCompletes := by
  unfold Obligations.DispatchIssuesAndCompletes
  intro h
  obtain ⟨u, hu, himages⟩ := exec_dispatch_listedTwice
  obtain ⟨x, hdisp, hx⟩ := List.map_eq_singleton_iff.mp himages
  obtain ⟨hissue, -⟩ := h 0 0 plainDispatch 0 oneImage listedTwice 0 0 plainKernel 128 1 [] 0 x
  obtain ⟨v, y, hv, -, hdisp', -, -, -, -, -, -, -, -, -, -, -, -, -, -, hleft, -⟩ :=
    hissue (by decide) mayIssue_plainDispatch (by decide) (by decide) rfl (by decide +kernel) (by decide)
      (fun w hw => absurd hw (List.not_mem_nil)) (by decide +kernel)
  obtain rfl : v = u := Host.Outcome.next.inj (hv.symm.trans hu)
  have hy : y = x := by
    rw [hdisp] at hdisp'
    exact (List.singleton_inj.mp hdisp').symm
  have hnone := hleft (by decide +kernel)
  rw [hy, hx, tileArrays_listedTwice] at hnone
  exact absurd hnone (by decide)

end Sys2Proof.Machine
end

section
/-! PROOFS, O28. The switch of a granule that moves within stacked memory (R204, R205). -/

namespace Sys2Proof.Machine

/-! ## Bytes of a memory -/

theorem length_getMarked (m : List Host.Cell) (p : Store Bool) (a n : Nat) : (getMarked m p a n).length = n := by simp [getMarked]

/-- Bytes read at one place and written at another read there as they did; every other byte reads as before. -/
theorem sget_putBytes_getMarked (m : List Host.Cell) (p : Store Bool) (a b n j : Nat) :
    sget 0 (putBytes m b (getMarked m p a n)) j = if b ≤ j ∧ j < b + n then sget 0 m (a + (j - b)) else sget 0 m j := by
  rw [putBytes, sget_ssetRun, List.length_map, length_getMarked]
  refine if_ctx_congr Iff.rfl (fun hj => ?_) fun _ => rfl
  have hlt : j - b < n := by omega
  simp [getMarked, hlt]

/-! ## The copy of a granule, page by page (R205) -/

/-- The first `n` pages of a granule copied from its old place to its new one. -/
def copyPages (t g : Nat) (src dst : Loc) (n : Nat) (s : State) : State :=
  (List.range n).foldl (fun s i => copyLocPage t src dst (granuleBytes * g + 4096 * i) s) s

theorem copyPages_succ (t g : Nat) (src dst : Loc) (n : Nat) (s : State) :
    copyPages t g src dst (n + 1) s = copyLocPage t src dst (granuleBytes * g + 4096 * n) (copyPages t g src dst n s) := by
  simp [copyPages, List.range_succ]

/-- What a page read finds enters counters and the fault registers alone. -/
theorem tagResult_stk (t addr : Nat) (r : PageRead) (s : State) : (tagResult t addr r s).mtc.stk = s.mtc.stk := by
  unfold tagResult
  split
  · rfl
  · rw [record_mtc]
    exact (Mtc.noteFault_memories _ _ _ _).2.1

/-- Within stacked memory a page's bytes go from the one granule to the other as they stand. -/
theorem copyLocPage_stacked (t g p p' : Nat) {i : Nat} (hi : i < 512) (s : State) :
    (copyLocPage t ⟨false, p⟩ ⟨false, p'⟩ (granuleBytes * g + 4096 * i) s).mtc.stk =
      putBytes s.mtc.stk (granuleBytes * p' + 4096 * i)
        (getMarked s.mtc.stk s.mtc.stkPoison (granuleBytes * p + 4096 * i) 4096) := by
  have hoff : (granuleBytes * g + 4096 * i) % granuleBytes = 4096 * i := by unfold granuleBytes; omega
  have hpage : 4096 * i / 4096 * 4096 = 4096 * i := by omega
  simp only [copyLocPage, State.locPage, hoff, hpage, Bool.false_eq_true, if_false, tagResult_stk]

/-- After the first `n` pages their bytes read at the new place as they did at the old one; every other byte reads as before. -/
theorem sget_copyPages_stacked (t g p p' : Nat) {n : Nat} (hn : n ≤ 512) (s : State) (j : Nat) :
    sget 0 (copyPages t g ⟨false, p⟩ ⟨false, p'⟩ n s).mtc.stk j =
      if granuleBytes * p' ≤ j ∧ j < granuleBytes * p' + 4096 * n then sget 0 s.mtc.stk (granuleBytes * p + (j - granuleBytes * p'))
      else sget 0 s.mtc.stk j := by
  induction n generalizing j with
  | zero => rw [if_neg (by omega)]; rfl
  | succ n ih =>
    rw [copyPages_succ, copyLocPage_stacked t g p p' (by omega), sget_putBytes_getMarked]
    by_cases hpage : granuleBytes * p' + 4096 * n ≤ j ∧ j < granuleBytes * p' + 4096 * n + 4096
    · have hsource : ¬ (granuleBytes * p' ≤ granuleBytes * p + 4096 * n + (j - (granuleBytes * p' + 4096 * n)) ∧
          granuleBytes * p + 4096 * n + (j - (granuleBytes * p' + 4096 * n)) < granuleBytes * p' + 4096 * n) := by
        unfold granuleBytes at *
        omega
      rw [if_pos hpage, ih (by omega), if_neg hsource, if_pos (by omega)]
      congr 1
      omega
    · rw [if_neg hpage, ih (by omega)]
      exact if_congr (by omega) rfl rfl

/-! ## What the switch leaves alone besides -/

theorem settleMk_mtc (t : Nat) (s : State) : (settleMk t s).mtc = s.mtc := by
  unfold settleMk
  split <;> rfl

theorem setGranule_stk (m : Mtc) (t g : Nat) (v : Granule) : (m.setGranule t g v).stk = m.stk := rfl

theorem giveBack_stk (m : Mtc) (l : Loc) : (m.giveBack l).stk = m.stk := by
  unfold Mtc.giveBack
  (repeat' split) <;> rfl

/-- MIGRATEs that complete leave every memory and the queue of moves as they were. -/
theorem settleMigrates_mtc (t : Nat) (s : State) : (settleMigrates t s).mtc = s.mtc := by
  refine foldl_keeps State.mtc _ _ s fun s j => ?_
  extract_lets waits
  split
  · rfl
  · rw [seesOnlyMigrations_mtc.complete]
    rfl

theorem dropMove_stk (v : GMove) (s : State) : (dropMove v s).mtc.stk = s.mtc.stk := by rw [dropMove, settleMigrates_mtc]

theorem trimMoves_stk (s : State) : (trimMoves s).mtc.stk = s.mtc.stk := by
  refine foldl_keeps (fun acc : State × Bool => acc.1.mtc.stk) _ _ (s, false) fun acc v => ?_
  split
  · rfl
  · split
    · exact dropMove_stk v acc.1
    · rfl

/-! ## The switch (R204) -/

theorem switchGranule_to_stacked (t g p' : Nat) (src : Loc) (s : State) :
    ∃ u, switchGranule t g src ⟨false, p'⟩ s = some u ∧ u.mtc.stk = (copyPages t g src ⟨false, p'⟩ 512 s).mtc.stk := by
  simp only [switchGranule, Bool.false_eq_true, if_false, Option.map_some, Option.some.injEq, exists_eq_left', settleMk_mtc,
    giveBack_stk, setGranule_stk, copyPages]

/-- The state without a move that has ended, and without those at the front that cannot be made now. -/
def endMove (v : GMove) (s : State) : State :=
  trimMoves (settleMigrates v.tenant { s with mtc := { s.mtc with moves := s.mtc.moves.erase v } })

theorem endMove_stk (v : GMove) (s : State) : (endMove v s).mtc.stk = s.mtc.stk := by rw [endMove, trimMoves_stk, settleMigrates_mtc]

theorem exec_granuleSwitch_of_moving {s u : State} {v : GMove} {src dst : Loc} (hheld : s.compHeld .shunt = false)
    (hrun : s.mtc.moves.find? (·.running) = some v) (hst : (s.mtc.granule v.tenant v.g).st = .moving src dst)
    (hswitch : switchGranule v.tenant v.g src dst s = some u) : exec .granuleSwitch s = .next (endMove v u) := by
  change execGranuleSwitch s = _
  simp only [execGranuleSwitch, hheld, Bool.not_false, Bool.and_true, hrun, hst, hswitch]
  rfl

/-- Settles O28: the switch copies all 512 pages, so a byte of the granule reads at the new place as it did at the old one, and nothing
that follows in the command enters stacked memory. -/
theorem movedGranuleKeepsItsBytes : Obligations.MovedGranuleKeepsItsBytes := by
  unfold Obligations.MovedGranuleKeepsItsBytes
  intro s v p p' o hheld hrun hst ho
  obtain ⟨u, hswitch, hstk⟩ := switchGranule_to_stacked v.tenant v.g p' ⟨false, p⟩ s
  refine ⟨_, exec_granuleSwitch_of_moving hheld hrun hst hswitch, ?_⟩
  have hplace : granuleBytes * p' ≤ p' * 2 ^ 21 + o ∧ p' * 2 ^ 21 + o < granuleBytes * p' + 4096 * 512 := by
    unfold granuleBytes
    omega
  rw [endMove_stk, hstk, sget_copyPages_stacked _ _ _ _ (Nat.le_refl 512), if_pos hplace]
  congr 1
  unfold granuleBytes
  omega

end Sys2Proof.Machine
end

section
/-! PROOFS, O27. A MIGRATE beside one that is still listed and waits for no move (R207). -/

namespace Sys2Proof.Machine

/-- A tenant that runs on planner 1 and holds granule 0 and a memory key; a MIGRATE of its queue 1 is still listed. -/
def strandedTenant : Tenant :=
  { Tenant.init with
    st := .running, cls := 2, planner := 1, mkSlot := some 0, ranges := [(0, ⟨0, 0, 16⟩)], migrates := [⟨1, 0, none⟩]
    queues := [(0, { Queue.init with enable := true, st := .idle, tail := 2, batch := some ⟨none, true, 0⟩ })] }

/-- No move is to come, so the listed MIGRATE waits for none; a yard granule is free. -/
def strandedMigrate : State :=
  { State.reset with
    glb := { Glb.init with attached := true }, ten := [(0, strandedTenant)]
    mtc := { Mtc.init with map := [(0, ⟨.stacked 0, 0, 0⟩)], yardFree := 1 } }

/-- The MIGRATE of granule 0 to the yard. -/
def migrateToYard : BitVec 64 := 0x22C0400000000000

theorem exec_migrate_strandedMigrate : ∃ u, exec (.migrate 0 0 migrateToYard 0) strandedMigrate = .next u ∧
    (u.tenant (0 : Ten)).migrates = [⟨0, 0, none⟩] :=
  ⟨_, rfl, by decide +kernel⟩

theorem mayIssue_migrateToYard : MayIssue strandedMigrate 0 0 migrateToYard 0 := by
  unfold MayIssue Presents
  decide +kernel

/-- Refutes O27: the statement has a MIGRATE join whatever MIGRATEs of its tenant are listed, but the model completes at the same
time each of them that waits for no move, and takes it from the list. The state lists such a MIGRATE while no move is to come, which no
command is meant to leave. -/
theorem not_granulesMoveBetweenTiers : ¬ Obligations.GranulesMoveBetweenTiers := by
  unfold Obligations.GranulesMoveBetweenTiers
  intro h
  obtain ⟨u, hu, hlisted⟩ := exec_migrate_strandedMigrate
  obtain ⟨hmigrate, -⟩ := h 0 0 migrateToYard 0 strandedMigrate ⟨0, 0, true, .repair, false⟩ 0 0 [] ⟨false, 0⟩ ⟨false, 0⟩ [] 0
  obtain ⟨v, hv, -, -, hjoined⟩ := hmigrate (by decide) mayIssue_migrateToYard (by decide +kernel) rfl (by decide +kernel)
  obtain rfl : v = u := Host.Outcome.next.inj (hv.symm.trans hu)
  rw [hlisted] at hjoined
  exact absurd (congrArg List.length hjoined) (by decide +kernel)

end Sys2Proof.Machine
end

section
/-! PROOFS, O29. Yard page writes and reads, stacked memory reads (R206, R214, R218 to R220, R225). -/

namespace Sys2Proof.Machine

/-! ## What a recorded fault leaves (R227, R372, R378) -/

theorem Frc.count_summary (f : Frc) (now : Nat) {c : BitVec 16} (h : isFault c = true) (t : Option Nat) :
    (f.count now c t).summary = f.summary ||| BitVec.ofNat 10 (2 ^ (codeClass c - 1)) := by
  unfold Frc.count
  extract_lets g bit k
  have hg : g.summary = f.summary := by unfold g; split <;> rfl
  have hk : k.summary = f.summary ||| bit := by rw [← hg]
  rw [if_pos h]
  split
  · exact hk
  · exact hk

/-- A memory fault sets the summary bit of its class, coalesced or not. -/
theorem record_summary_memory {c : BitVec 16} (h : isFault c = true) (hclass : codeClass c = 1) (t : Option Nat)
    (unit arg addr : Nat) (s : State) : (record c t unit arg addr s).frc.summary.getLsbD 0 = true := by
  have hnote := noteBlock_keeps State.frc (fun _ _ _ _ => rfl) c t unit arg
  have hbit (f : Frc) (now : Nat) : (f.count now c t).summary.getLsbD 0 = true := by simp [Frc.count_summary f now h, hclass]
  unfold record
  split
  · rw [hnote]
    exact hbit ..
  · rw [msix_keeps State.frc (fun _ _ _ => rfl), hnote]
    exact hbit ..

/-- Recording holds no component and releases none. -/
theorem record_compHeld (c : BitVec 16) (t : Option Nat) (unit arg addr : Nat) (s : State) (k : Comp) :
    (record c t unit arg addr s).compHeld k = s.compHeld k := by
  have hnote (s : State) : (noteBlock c t unit arg s).compHeld k = s.compHeld k := by
    unfold noteBlock noteWin
    (repeat' split) <;> rfl
  unfold record
  split
  · exact hnote _
  · exact (msix_keeps (State.compHeld · k) (fun _ _ _ => rfl) ..).trans (hnote _)

/-- MTC_FAULT enters the four fields of the first memory fault alone. -/
theorem Mtc.noteFault_keeps {γ : Type} (f : Mtc → γ)
    (hf : ∀ m v t c a, f { m with faultValid := v, faultTenant := t, faultCode := c, faultAddr := a } = f m)
    (m : Mtc) (c : BitVec 16) (t addr : Nat) : f (m.noteFault c t addr) = f m := by
  unfold Mtc.noteFault
  split
  · rfl
  · exact hf ..

theorem Mtc.noteFault_of_clear {m : Mtc} (h : m.faultValid = false) (c : BitVec 16) (t addr : Nat) :
    (m.noteFault c t addr).faultCode = c ∧ (m.noteFault c t addr).faultTenant = BitVec.ofNat 5 t := by
  unfold Mtc.noteFault
  rw [if_neg (by simp [h])]
  exact ⟨rfl, rfl⟩

/-! ## A page written (R214) -/

theorem granulesOf_page {addr : Nat} (h : addr % 4096 = 0) : granulesOf addr 4096 = [addr / granuleBytes] := by
  have hone : (addr + 4095) / granuleBytes + 1 - addr / granuleBytes = 1 := by unfold granuleBytes; omega
  simp [granulesOf, hone]

theorem piecesOf_page {addr : Nat} (h : addr % 4096 = 0) : piecesOf addr 4096 = [(addr, 4096)] := by simp [piecesOf, pieces, h]

theorem unmarked_length (l : Bytes) : (unmarked l).length = l.length := by simp [unmarked]

/-- The yard frame that a model address names in a physical granule. -/
def frameAt (p addr : Nat) : Nat := p * 512 + addr % granuleBytes / 4096

/-- The state with this page at a yard frame. -/
def State.putPage (s : State) (f : Nat) (p : YPage) : State :=
  { s with mtc := { s.mtc with yard := sset YPage.init s.mtc.yard f p } }

section
variable {t addr : Nat} {p : Nat} {s : State}

/-- A whole page written goes to its frame packed, encrypted and tagged; nothing of the old page is kept. -/
theorem writeLoc_page {k : Bytes × Bytes} {data : List MByte} (haddr : addr % 4096 = 0) (hdata : data.length = 4096)
    (hold : (s.locPage t ⟨true, p⟩ addr [] []).bytes.length = 4096) (hkey : s.tenantKeys t = some k) :
    writeLoc t ⟨true, p⟩ addr data s = s.putPage (frameAt p addr)
      (encodePage k t (frameAt p addr) addr (s.mtc.page (frameAt p addr)) data) := by
  have hstart : addr % granuleBytes % 4096 = 0 := by unfold granuleBytes; omega
  have hpage : addr / 4096 * 4096 = addr := by omega
  have hrest : (s.locPage t ⟨true, p⟩ addr [] []).bytes.drop 4096 = [] := List.drop_of_length_le (by omega)
  simp only [writeLoc, if_true, hkey, hdata, hstart, hpage, List.take_zero, List.nil_append, Nat.zero_add, hrest, List.append_nil]
  rfl

/-- A page of a yard granule that is not worn out is written in place. -/
theorem modelWrite_page {data : List MByte} (hst : (s.mtc.granule t (addr / granuleBytes)).st = .yard p)
    (hworn : s.mtc.wornFrame p = false) (haddr : addr % 4096 = 0) (hdata : data.length = 4096)
    (hkey : (s.tenantKeys t).isSome = true) : modelWrite t addr data s = .ok (writeLoc t ⟨true, p⟩ addr data s) := by
  have hslot : (s.tenant t).mkSlot.isNone = false := by
    rw [State.tenantKeys, Option.isSome_map] at hkey
    rw [← Option.not_isSome, hkey, Bool.not_true]
  have hgive : giveGranule t (addr / granuleBytes) s = .ok s := by simp only [giveGranule, hst]
  have hfresh : refreshGranule t (addr / granuleBytes) s = .ok s := by simp [refreshGranule, hst, hworn]
  have hwhole : data.take 4096 = data := List.take_of_length_le (by omega)
  simp [modelWrite, needsKey, hdata, granulesOf_page haddr, piecesOf_page haddr, hslot, giveGranules, refreshGranules, hgive, hfresh,
    Except.bind, hst, GState.home, hwhole]

end

section
variable {t : Ten} {addr : Nat} {s : State} {l : Loc}

theorem inYardAt_of_home (hhome : (s.gran t (addr / 2 ^ 21)).st.home = some l) (hyard : l.yard = true) :
    s.inYardAt t addr = some l := by
  have hhome' : (s.mtc.granule t (addr / granuleBytes)).st.home = some l := hhome
  rw [State.inYardAt, hhome']
  exact if_pos hyard

theorem exec_yardPageWrite_of_fit {page : Bytes} {k : Bytes × Bytes} (hst : (s.gran t (addr / 2 ^ 21)).st = .yard l.p)
    (hyard : l.yard = true) (hworn : s.mtc.wornFrame l.p = false) (haddr : addr % 4096 = 0) (hpage : page.length = 4096)
    (hkey : s.tenantKeys t = some k) (hold : (s.locPage t l addr [] []).bytes.length = 4096) :
    exec (.yardPageWrite t addr page) s = .next (s.putPage (frameAt l.p addr)
      (encodePage k t (frameAt l.p addr) addr (s.mtc.page (frameAt l.p addr)) (unmarked page))) := by
  obtain ⟨yard, p⟩ := l
  obtain rfl : yard = true := hyard
  have hdata : (unmarked page).length = 4096 := (unmarked_length page).trans hpage
  have hin : s.inYardAt t addr = some ⟨true, p⟩ := inYardAt_of_home (by rw [hst]; rfl) rfl
  have hwrite := modelWrite_page hst hworn haddr hdata (by rw [hkey]; rfl)
  rw [writeLoc_page haddr hdata hold hkey] at hwrite
  change execYardPageWrite t addr page s = _
  simp only [execYardPageWrite, hin, haddr, hpage, hwrite]
  rfl

/-! ## A page read (R214, R219) -/

/-- What failed tags leave: YARD_TAG_FAIL recorded, and as many units counted. -/
def TagsFailed (t : Ten) (n : Nat) (s u : State) : Prop :=
  u.mtc.tagFail = satAdd s.mtc.tagFail n ∧ u.frc.summary.getLsbD 0 = true ∧
    (s.mtc.faultValid = false → u.mtc.faultCode = 0x1301 ∧ u.mtc.faultTenant = BitVec.ofNat 5 t)

theorem tagResult_of_good {r : PageRead} (h : r.fails = 0) :
    tagResult t addr r s = { s with mtc := { s.mtc with tagReread := satAdd s.mtc.tagReread r.rereads } } := if_pos h

theorem tagsFailed_tagResult {r : PageRead} (h : r.fails ≠ 0) : TagsFailed t r.fails s (tagResult t addr r s) := by
  simp only [TagsFailed, tagResult, if_neg h, record_mtc]
  refine ⟨?_, record_summary_memory (by decide) (by decide) .., fun hclear => ?_⟩
  · exact Mtc.noteFault_keeps Mtc.tagFail (fun _ _ _ _ _ => rfl) ..
  · apply Mtc.noteFault_of_clear
    exact hclear

theorem tagResult_yard {t : Nat} (r : PageRead) : (tagResult t addr r s).mtc.yard = s.mtc.yard := by
  unfold tagResult
  split
  · rfl
  · rw [record_mtc]
    exact (Mtc.noteFault_memories _ _ _ _).2.2

theorem decodePage_of_badRecord {keys : Option (Bytes × Bytes)} {t f : Nat} {p : YPage} (hmode : p.mode = 3) (b1 b2 : List Nat) :
    decodePage keys t f addr b1 b2 p = ⟨List.replicate 4096 (0, true), max 1 p.units.length, 0, 0⟩ := by
  have hother (m : BitVec 3) (hm : m ≠ 3) : ¬ p.mode = m := fun h => hm (h.symm.trans hmode)
  unfold decodePage
  simp only [if_neg (hother 2 (by decide)), if_neg (hother 1 (by decide)), if_neg (hother 0 (by decide))]

/-- The units of a page that failed on both readings. -/
def lostUnits (b1 b2 : List (Fin 8)) (p : YPage) : List Nat :=
  ((b1.map (·.val)).filter (b2.map (·.val)).contains).filter (fun u => decide (u < p.units.length))

variable (hhome : (s.gran t (addr / 2 ^ 21)).st.home = some l) (hyard : l.yard = true) (b1 b2 : List (Fin 8))
include hhome hyard

/-- A read of which no unit is lost enters what its tags gave. -/
theorem exec_yardPageRead_of_kept (hlost : lostUnits b1 b2 (s.mtc.page (frameAt l.p addr)) = []) :
    exec (.yardPageRead t addr b1 b2 false) s =
      .next (tagResult t addr (s.locPage t l addr (b1.map (·.val)) (b2.map (·.val))) s) := by
  change execYardPageRead t addr b1 b2 false s = _
  simp only [execYardPageRead, inYardAt_of_home hhome hyard, Bool.false_eq_true, if_false, List.isEmpty_iff]
  exact if_pos hlost

/-- Units that are lost stay so with their page. -/
theorem exec_yardPageRead_of_lost (hlost : lostUnits b1 b2 (s.mtc.page (frameAt l.p addr)) ≠ []) :
    exec (.yardPageRead t addr b1 b2 false) s =
      .next ((tagResult t addr (s.locPage t l addr (b1.map (·.val)) (b2.map (·.val))) s).putPage (frameAt l.p addr)
        ((s.mtc.page (frameAt l.p addr)).broken (lostUnits b1 b2 (s.mtc.page (frameAt l.p addr))))) := by
  change execYardPageRead t addr b1 b2 false s = _
  simp only [execYardPageRead, inYardAt_of_home hhome hyard, Bool.false_eq_true, if_false, List.isEmpty_iff]
  exact if_neg hlost

/-- A page whose record is uncorrectable has failed with every unit that it stored, one at least, and stays so. -/
theorem exec_yardPageRead_of_record :
    let f := frameAt l.p addr
    ∃ u, exec (.yardPageRead t addr b1 b2 true) s = .next u ∧
      u.mtc.yard = sset YPage.init s.mtc.yard f { s.mtc.page f with mode := 3 } ∧
      TagsFailed t (max 1 (s.mtc.page f).units.length) s u := by
  intro f
  have hread : ((s.putPage f { s.mtc.page f with mode := 3 }).locPage t l addr [] []).fails = max 1 (s.mtc.page f).units.length := by
    have hpage : (s.putPage f { s.mtc.page f with mode := 3 }).mtc.page f = { s.mtc.page f with mode := 3 } := by
      simp [State.putPage, Mtc.page]
    rw [State.locPage, if_pos hyard]
    change (decodePage _ _ _ _ _ _ ((s.putPage f { s.mtc.page f with mode := 3 }).mtc.page f)).fails = _
    rw [hpage, decodePage_of_badRecord rfl]
  have hexec : exec (.yardPageRead t addr b1 b2 true) s = .next (tagResult t addr
      ((s.putPage f { s.mtc.page f with mode := 3 }).locPage t l addr [] []) (s.putPage f { s.mtc.page f with mode := 3 })) := by
    change execYardPageRead t addr b1 b2 true s = _
    simp only [execYardPageRead, inYardAt_of_home hhome hyard, if_true]
    rfl
  refine ⟨_, hexec, tagResult_yard _, ?_⟩
  rw [← hread]
  exact tagsFailed_tagResult (s := s.putPage f { s.mtc.page f with mode := 3 }) (by rw [hread]; omega)

end

/-! ## Stacked memory read (R206, R220, R225) -/

/-- The byte of stacked memory that a model address names in a physical granule. -/
def stackedAt (p addr : Nat) : Nat := granuleBytes * p + addr % granuleBytes

/-- Three retries at most have been counted. -/
def State.retried (s : State) (crc : Nat) : State :=
  { s with mtc := { s.mtc with linkRetry := satAdd s.mtc.linkRetry (min crc 3) } }

/-- The word at a byte of stacked memory reads as poison from now on. -/
def State.poisonWord (s : State) (a : Nat) : State :=
  { s with mtc := { s.mtc with stkPoison := sset false s.mtc.stkPoison (a / 8) true } }

/-- The state after the transmissions of a read: its retries counted and, where a fourth failed, SM_LINK_FAIL recorded. -/
def State.transmitted (s : State) (t : Ten) (addr crc a : Nat) : State :=
  if crc ≤ 3 then s.retried crc
  else record Code.smLinkFail (some t.val) (unitChannel (a / 512 % 64)) 0 addr
    { s.retried crc with mtc := { (s.retried crc).mtc with
      linkFail := satAdd s.mtc.linkFail 1 }.noteFault Code.smLinkFail t addr }

section
variable (s : State) (t : Ten) (addr crc a : Nat)

/-- A read's transmissions enter counters and the fault registers alone. -/
theorem transmitted_keeps {γ : Type} (f : Mtc → γ)
    (hcount : ∀ m n k, f { m with linkRetry := n, linkFail := k } = f m)
    (hfault : ∀ m v t c a, f { m with faultValid := v, faultTenant := t, faultCode := c, faultAddr := a } = f m) :
    f (s.transmitted t addr crc a).mtc = f s.mtc := by
  unfold State.transmitted
  split
  · exact hcount s.mtc _ s.mtc.linkFail
  · rw [record_mtc, Mtc.noteFault_keeps f hfault]
    exact hcount s.mtc (satAdd s.mtc.linkRetry (min crc 3)) (satAdd s.mtc.linkFail 1)

theorem transmitted_compHeld (k : Comp) : (s.transmitted t addr crc a).compHeld k = s.compHeld k := by
  unfold State.transmitted
  split
  · rfl
  · exact record_compHeld ..

theorem transmitted_of_fourth (h : 3 < crc) :
    (s.transmitted t addr crc a).mtc.linkFail = satAdd s.mtc.linkFail 1 ∧
      (s.transmitted t addr crc a).mtc.linkRetry = satAdd s.mtc.linkRetry 3 ∧
      (s.transmitted t addr crc a).frc.summary.getLsbD 0 = true := by
  have hthree : min crc 3 = 3 := by omega
  rw [State.transmitted, if_neg (by omega), record_mtc]
  refine ⟨?_, ?_, record_summary_memory (by decide) (by decide) ..⟩
  · exact Mtc.noteFault_keeps Mtc.linkFail (fun _ _ _ _ _ => rfl) ..
  · refine (Mtc.noteFault_keeps Mtc.linkRetry (fun _ _ _ _ _ => rfl) ..).trans ?_
    rw [State.retried, hthree]

end

section
variable {s : State} {t : Ten} {addr : Nat} {l : Loc} (hhome : (s.gran t (addr / 2 ^ 21)).st.home = some l)
  (hstacked : l.yard = false)
include hhome hstacked

theorem exec_stackedMemoryRead_of_retried {crc : Nat} (hcrc : crc ≤ 3) :
    exec (.stackedMemoryRead t addr crc false false) s = .next (s.retried crc) := by
  have hhome' : (s.mtc.granule t.val (addr / granuleBytes)).st.home = some l := hhome
  have hthree : decide (3 < crc) = false := decide_eq_false (by omega)
  change execStackedMemoryRead t addr crc false false s = _
  simp only [execStackedMemoryRead, hhome', hstacked, hthree, hcrc, Bool.or_false, Bool.false_eq_true, if_false, if_true]
  rfl

/-- The word of a transmission that failed four times is poison. -/
theorem exec_stackedMemoryRead_of_linkFail {crc : Nat} (hcrc : 3 < crc) : exec (.stackedMemoryRead t addr crc false false) s =
    .next ((s.transmitted t addr crc (stackedAt l.p addr)).poisonWord (stackedAt l.p addr)) := by
  have hhome' : (s.mtc.granule t.val (addr / granuleBytes)).st.home = some l := hhome
  change execStackedMemoryRead t addr crc false false s = _
  simp only [execStackedMemoryRead, hhome', hstacked, hcrc, decide_true, Bool.or_true, Bool.false_eq_true, if_false, if_true]
  rfl

/-- The word of an uncorrectable error is poison, and its granule is to be retired. -/
theorem exec_stackedMemoryRead_of_ue (crc : Nat) (ce : Bool) : exec (.stackedMemoryRead t addr crc true ce) s =
    .next (retireGranule t (addr / granuleBytes) l.p
      ((s.transmitted t addr crc (stackedAt l.p addr)).poisonWord (stackedAt l.p addr))) := by
  have hhome' : (s.mtc.granule t.val (addr / granuleBytes)).st.home = some l := hhome
  change execStackedMemoryRead t addr crc true ce s = _
  simp only [execStackedMemoryRead, hhome', hstacked, Bool.false_eq_true, if_false, Bool.true_or, if_true]
  rfl

end

/-! ## Retirement of a granule (R206) -/

@[simp] theorem granule_setGranule_same (m : Mtc) (t g : Nat) (v : Granule) : (m.setGranule t g v).granule t g = v := by
  simp [Mtc.setGranule, Mtc.granule]

theorem takeSpare_of_some {m : Mtc} (h : m.spares ≠ 0) :
    ∃ p r, m.takeSpare = some (p, { m with spareBack := r, spares := m.spares - 1 }) := by
  rw [Mtc.takeSpare, if_neg h]
  cases hback : m.spareBack with
  | nil => exact ⟨_, m.spareBack, by rw [hback]⟩
  | cons p r => exact ⟨p, r, rfl⟩

/-- A repair takes its granule to a spare. -/
theorem beginMove_of_spare {v : GMove} {src : Loc} {s : State} (hwhy : v.why = .repair) (hsrc : src.yard = false)
    (hspare : s.mtc.spares ≠ 0) :
    (beginMove v src s).mtc.bad = s.mtc.bad ∧ (beginMove v src s).mtc.stkPoison = s.mtc.stkPoison ∧
      (beginMove v src s).mtc.spares = s.mtc.spares - 1 ∧
      ∃ p, ((beginMove v src s).mtc.granule v.tenant v.g).st = .moving src ⟨v.toYard, p⟩ := by
  obtain ⟨p, r, htake⟩ := takeSpare_of_some hspare
  unfold beginMove
  extract_lets got
  have hgot : got = some (p, { s with mtc := { s.mtc with spareBack := r, spares := s.mtc.spares - 1 } }) := by
    simp only [got, hwhy, hsrc, htake, Bool.not_false, and_self, if_true, Option.map_some]
  rw [hgot]
  refine ⟨rfl, rfl, rfl, p, ?_⟩
  simp [Mtc.granule, Mtc.setGranule]

theorem retireGranule_of_known {s : State} {p : Nat} (h : p ∈ s.mtc.bad) (t g : Nat) : retireGranule t g p s = s := if_pos h

/-- The state with a stacked granule listed as failing. -/
def State.listBad (s : State) (p : Nat) : State :=
  { s with mtc := { s.mtc with bad := s.mtc.bad ++ [p], granCe := sdel s.mtc.granCe p } }

/-- The move of a failing granule to a spare. -/
def repairMove (t g : Nat) : GMove := ⟨t, g, false, .repair, false⟩

section
variable {s : State} {t g p : Nat} (hst : (s.mtc.granule t g).st = .stacked p) (hgood : p ∉ s.mtc.bad)
include hst hgood

/-- With no spare left the granule stays in use, retired, and an event says so. -/
theorem retireGranule_of_noSpare (h : s.mtc.spares = 0) : retireGranule t g p s =
    record Code.granuleRetired (some t) unitNone 0 (granuleBytes * g)
      { s with mtc := (s.listBad p).mtc.setGranule t g { s.mtc.granule t g with st := .retired p } } := by
  have hentry : (sget Granule.init s.mtc.map (gkey t g)).st = .stacked p := hst
  simp only [retireGranule, if_neg hgood, Mtc.granule, hentry, if_pos h]
  rfl

/-- With a spare left the granule's move to it begins at once. -/
theorem retireGranule_of_spare (h : s.mtc.spares ≠ 0) (hheld : s.compHeld .shunt = false) : retireGranule t g p s =
    beginMove (repairMove t g) ⟨false, p⟩
      { s with mtc := { (s.listBad p).mtc with moves := repairMove t g :: s.mtc.moves }.takePolicy } := by
  have hentry : (sget Granule.init s.mtc.map (gkey t g)).st = .stacked p := hst
  simp only [retireGranule, if_neg hgood, Mtc.granule, hentry, if_neg h, hheld, Bool.false_eq_true, if_false]
  rfl

end

/-- A good granule that fails is listed; it stays in use, retired, where no spare is left, and else moves to one (R206). -/
theorem retireGranule_effect {s : State} {t g p : Nat} (hst : (s.mtc.granule t g).st = .stacked p) (hgood : p ∉ s.mtc.bad)
    (hheld : s.compHeld .shunt = false) :
    (retireGranule t g p s).mtc.bad = s.mtc.bad ++ [p] ∧ (retireGranule t g p s).mtc.stkPoison = s.mtc.stkPoison ∧
      (s.mtc.spares = 0 → ((retireGranule t g p s).mtc.granule t g).st = .retired p) ∧
      (s.mtc.spares ≠ 0 → (retireGranule t g p s).mtc.spares = s.mtc.spares - 1 ∧
        ∃ p', ((retireGranule t g p s).mtc.granule t g).st = .moving ⟨false, p⟩ ⟨false, p'⟩) := by
  by_cases h : s.mtc.spares = 0
  · rw [retireGranule_of_noSpare hst hgood h, record_mtc]
    exact ⟨rfl, rfl, fun _ => by rw [granule_setGranule_same], fun hsome => absurd h hsome⟩
  · rw [retireGranule_of_spare hst hgood h hheld]
    obtain ⟨hbad, hpoison, hspares, hmoving⟩ := beginMove_of_spare (v := repairMove t g) (src := ⟨false, p⟩)
      (s := { s with mtc := { (s.listBad p).mtc with moves := repairMove t g :: s.mtc.moves }.takePolicy }) rfl rfl h
    exact ⟨hbad, hpoison, fun hnone => absurd hnone h, fun _ => ⟨hspares, hmoving⟩⟩

/-- Settles O29: each access by its command's equation; failed tags and transmissions by what recording them leaves, an uncorrectable error
by the two ways of retiring its granule. -/
theorem pageAndStackedAccesses : Obligations.PageAndStackedAccesses := by
  unfold Obligations.PageAndStackedAccesses
  intro t addr crc page k l b1 b2 s f r home lost retried poisoned
  have hplace : stackedAt l.p addr = l.p * 2 ^ 21 + addr % 2 ^ 21 := by unfold stackedAt granuleBytes; omega
  have hread {γ : Type} (f : Mtc → γ) := transmitted_keeps s t addr crc (stackedAt l.p addr) f
  have hpoison : ((s.transmitted t addr crc (stackedAt l.p addr)).poisonWord (stackedAt l.p addr)).mtc.stkPoison = poisoned := by
    rw [State.poisonWord, hread Mtc.stkPoison (fun _ _ _ => rfl) (fun _ _ _ _ _ => rfl), hplace]
  refine ⟨exec_yardPageWrite_of_fit, ?good, ?failed, ?badRecord, ?crc, ?linkFail, ?known, ?retire⟩
  case good =>
    intro hhome hyard hfails hlost
    exact (exec_yardPageRead_of_kept hhome hyard b1 b2 hlost).trans (congrArg _ (tagResult_of_good hfails))
  case failed =>
    intro hhome hyard hfails
    obtain ⟨hcount, hbit, hfault⟩ := tagsFailed_tagResult (t := t) (addr := addr) (s := s) hfails
    by_cases hlost : lost = []
    · exact ⟨_, exec_yardPageRead_of_kept hhome hyard b1 b2 hlost, hcount, hbit, hfault, fun hsome => absurd hlost hsome⟩
    · refine ⟨_, exec_yardPageRead_of_lost hhome hyard b1 b2 hlost, hcount, hbit, hfault, fun _ => ?_⟩
      rw [State.putPage, tagResult_yard]
      rfl
  case badRecord => exact fun hhome hyard => exec_yardPageRead_of_record hhome hyard b1 b2
  case crc => exact fun hhome hstacked hcrc => exec_stackedMemoryRead_of_retried hhome hstacked hcrc
  case linkFail =>
    intro hhome hstacked hcrc
    obtain ⟨hfail, hretry, hbit⟩ := transmitted_of_fourth s t addr crc (stackedAt l.p addr) hcrc
    exact ⟨_, exec_stackedMemoryRead_of_linkFail hhome hstacked hcrc, hfail, hretry, hbit, hpoison⟩
  case known =>
    intro hhome hstacked hcrc hbad
    have hsent : s.transmitted t addr crc (stackedAt l.p addr) = s.retried crc := if_pos hcrc
    rw [exec_stackedMemoryRead_of_ue hhome hstacked, hsent, retireGranule_of_known (s := (s.retried crc).poisonWord _) hbad,
      State.poisonWord, hplace]
    rfl
  case retire =>
    intro hst hgood hheld
    have hhome : (s.gran t (addr / 2 ^ 21)).st.home = some ⟨false, l.p⟩ := by rw [hst]; rfl
    have hbadKept := hread Mtc.bad (fun _ _ _ => rfl) (fun _ _ _ _ _ => rfl)
    have hspares := hread Mtc.spares (fun _ _ _ => rfl) (fun _ _ _ _ _ => rfl)
    have hgran := hread (Mtc.granule · t (addr / granuleBytes)) (fun _ _ _ => rfl) (fun _ _ _ _ _ => rfl)
    obtain ⟨hbad, hmarks, hnone, hsome⟩ := retireGranule_effect (t := t) (g := addr / granuleBytes) (p := l.p)
      (s := (s.transmitted t addr crc (stackedAt l.p addr)).poisonWord (stackedAt l.p addr))
      ((congrArg Granule.st hgran).trans hst) (fun hmem => hgood (hbadKept ▸ hmem)) ((transmitted_compHeld ..).trans hheld)
    refine ⟨_, exec_stackedMemoryRead_of_ue hhome rfl crc false, hbad.trans (congrArg (· ++ [l.p]) hbadKept), hmarks.trans hpoison,
      fun h => hnone (hspares.trans h), fun h => ?_⟩
    obtain ⟨hleft, hmoving⟩ := hsome (hspares.trans_ne h)
    exact ⟨hleft.trans (congrArg (· - 1) hspares), hmoving⟩

end Sys2Proof.Machine
end

section
/-! PROOFS, O33. A reload whose key slot is not among its keys (R255, R259, R372). -/

namespace Sys2Proof.Machine

/-- A shard of one byte at the depot's first byte, poisoned; its reload took no key. -/
def keylessShard : Shard := ⟨0, 1, 2, 0, [], true, true, some []⟩

/-- Tenant 0 holds that shard in its copy 0; no die has a read of its reload still to serve. -/
def keylessReload : State :=
  { State.reset with ten := [(0, { Tenant.init with copies := [(0, { Copy.init with st := .armed, shards := [keylessShard] })] })] }

/-- The reload's read ends at its first sector: the sector's key slot is not one of its keys. -/
theorem depotRead_keylessReload : keylessReload.depotRead [] true 0 1 [] = ⟨[], some (Code.depotKey, 0), []⟩ := by decide +kernel

theorem modelWrite_keylessReload : modelWrite (0 : Ten) 0 (unmarked []) keylessReload = .ok keylessReload := rfl

/-- A key that is missing is no failed unit, which alone is recorded apart, and RELOAD_FAIL is an event, which sets no summary bit. -/
theorem exec_shardReloadDone_keylessReload :
    ∃ u, exec (.shardReloadDone 0 0 0 []) keylessReload = .next u ∧ u.frc.summary.getLsbD 4 = false :=
  ⟨_, rfl, by decide +kernel⟩

/-- Refutes O33: the statement has each reload that fails set the summary bit of class 5. That is so where a unit fails, whose DEPOT_UE or
DEPOT_TAG_FAIL is a fault (R233); a reload that fails on its key slot, or on a busy sector, leaves RELOAD_FAIL alone, an event (R259, R372). -/
theorem not_shardsAreCheckedByDigest : ¬ Obligations.ShardsAreCheckedByDigest := by
  unfold Obligations.ShardsAreCheckedByDigest
  intro h
  obtain ⟨u, hu, hclear⟩ := exec_shardReloadDone_keylessReload
  have hread := depotRead_keylessReload
  obtain ⟨-, -, -, hreload⟩ := h 0 0 0 0 0 0 [] keylessReload keylessReload keylessReload
    ⟨0, 0, 0, 0, 0, false, false, [], false⟩ keylessShard [] 0 (Code.depotKey, 0)
  obtain ⟨-, hfail⟩ := hreload rfl rfl rfl (by simp only [keylessShard]; rw [hread]; exact modelWrite_keylessReload)
  obtain ⟨v, hv, -, hset, -⟩ := hfail (congrArg DepotGot.fail hread)
  obtain rfl : v = u := Host.Outcome.next.inj (hv.symm.trans hu)
  rw [hclear] at hset
  cases hset

end Sys2Proof.Machine
end

section
/-! PROOFS, the depot (R231, R238, R245 to R247, R372 to R378). -/

namespace Sys2Proof.Machine

/-! ## Recording, as the depot sees it -/

/-- The messages that a state has sent or has pending replaced. -/
def State.messaged (s : State) (o : List Output) (m : BitVec 64) : State :=
  { s with out := o, glb := { s.glb with msixPba := m } }

theorem msix_messaged (v : Nat) (s : State) : ∃ o m, msix v s = s.messaged o m := by
  unfold msix emit
  split
  · exact ⟨s.out, s.glb.msixPba, rfl⟩
  · split
    · exact ⟨s.out, _, rfl⟩
    · exact ⟨_, s.glb.msixPba, rfl⟩

/-- The log replaced, and what of the depot tells its first fault. -/
def State.noted (s : State) (r : Frc) (v : Bool) (k : BitVec 16) : State :=
  { s with frc := r, dep := { s.dep with faultValid := v, faultCode := k } }

theorem noteBlock_depot {c : BitVec 16} (hc : codeClass c = 5) (t : Option Nat) (unit arg : Nat) (s : State) :
    ∃ v k, noteBlock c t unit arg s = s.noted s.frc v k := by
  unfold noteBlock
  split
  · exact ⟨_, _, rfl⟩
  · rw [if_neg (by simp [hc]), if_neg (by simp [hc])]
    exact ⟨s.dep.faultValid, s.dep.faultCode, rfl⟩

/-- The log after an occurrence. -/
def State.logged (s : State) (c : BitVec 16) (t : Option Nat) (unit arg addr : Nat) : Frc :=
  if s.frc.coalesces s.glb.devTime c t unit arg then s.frc.bump.count s.glb.devTime c t
  else (s.frc.append s.glb.devTime c t unit arg addr).count s.glb.devTime c t

/-- Recording a code of the depot's class enters the log, WSC_FAULT and the messages alone. -/
theorem record_depot {c : BitVec 16} (hc : codeClass c = 5) (t : Option Nat) (unit arg addr : Nat) (s : State) :
    ∃ v k o m, record c t unit arg addr s = (s.noted (s.logged c t unit arg addr) v k).messaged o m := by
  unfold record State.logged
  split
  · obtain ⟨v, k, h⟩ := noteBlock_depot hc t unit arg { s with frc := s.frc.bump.count s.glb.devTime c t }
    exact ⟨v, k, s.out, s.glb.msixPba, h⟩
  · obtain ⟨v, k, h⟩ := noteBlock_depot hc t unit arg
      { s with frc := (s.frc.append s.glb.devTime c t unit arg addr).count s.glb.devTime c t }
    obtain ⟨o, m, h'⟩ := msix_messaged 0 (noteBlock c t unit arg
      { s with frc := (s.frc.append s.glb.devTime c t unit arg addr).count s.glb.devTime c t })
    exact ⟨v, k, o, m, h'.trans (by rw [h]; rfl)⟩

/-! ## Dies that go on -/

/-- What dies bring about as they go on: the dies themselves, erase counts with their headers' CRC, wear told, records and messages. No
port, no unit, no cached line, no job and nothing outside the depot changes, and no summary bit is lost. -/
structure DiesGoOn (s u : State) : Prop where
  rest : u = { s with
    frc := u.frc, out := u.out, glb := { s.glb with msixPba := u.glb.msixPba }
    dep := { s.dep with
      dies := u.dep.dies, sectors := u.dep.sectors, headers := u.dep.headers, eraseAged := u.dep.eraseAged
      wearNear := u.dep.wearNear, wearOut := u.dep.wearOut, mediaSector := u.dep.mediaSector
      faultValid := u.dep.faultValid, faultCode := u.dep.faultCode } }
  sector : ∀ k, u.sector k = { s.sector k with erases := (u.sector k).erases, crc := (u.sector k).crc }
  summary : ∀ i, s.frc.summary.getLsbD i = true → u.frc.summary.getLsbD i = true

theorem DiesGoOn.refl (s : State) : DiesGoOn s s := ⟨rfl, fun _ => rfl, fun _ => id⟩

theorem DiesGoOn.trans {s u v : State} (h : DiesGoOn s u) (h' : DiesGoOn u v) : DiesGoOn s v :=
  ⟨by rw [h'.rest, h.rest], fun k => by rw [h'.sector k, h.sector k], fun i hi => h'.summary i (h.summary i hi)⟩

theorem Frc.summary_count (f : Frc) (now : Nat) (c : BitVec 16) (t : Option Nat) {i : Nat} (h : f.summary.getLsbD i = true) :
    (f.count now c t).summary.getLsbD i = true := by
  by_cases hc : isFault c = true
  · rw [Frc.count_summary f now hc t, BitVec.getLsbD_or, h, Bool.true_or]
  · unfold Frc.count
    extract_lets g
    rw [if_neg hc]
    unfold g
    split <;> exact h

/-- An occurrence loses no summary bit. -/
theorem State.summary_logged (s : State) (c : BitVec 16) (t : Option Nat) (unit arg addr : Nat) {i : Nat}
    (h : s.frc.summary.getLsbD i = true) : (s.logged c t unit arg addr).summary.getLsbD i = true := by
  unfold State.logged
  split <;> exact Frc.summary_count _ _ _ _ h

theorem diesGoOn_record {c : BitVec 16} (hc : codeClass c = 5) (t : Option Nat) (unit arg addr : Nat) (s : State) :
    DiesGoOn s (record c t unit arg addr s) := by
  obtain ⟨v, k, o, m, h⟩ := record_depot hc t unit arg addr s
  rw [h]
  exact ⟨rfl, fun _ => rfl, fun _ => s.summary_logged c t unit arg addr⟩

theorem diesGoOn_modDie (d : Nat) (f : Die → Die) (s : State) : DiesGoOn s (s.modDie d f) := ⟨rfl, fun _ => rfl, fun _ => id⟩

theorem diesGoOn_dropReads (w : Reader) (s : State) : DiesGoOn s (dropReads w s) := ⟨rfl, fun _ => rfl, fun _ => id⟩

/-- A header that is written stands in its sector with its CRC; the other sectors stay. -/
theorem State.sector_writeHeader (s : State) (k j : Nat) (f : Sector → Sector) :
    (s.writeHeader k f).sector j = if j = k then { f (s.sector k) with crc := headerCrc (f (s.sector k)) } else s.sector j := by
  simp [State.writeHeader, State.modSector, State.sector]

theorem diesGoOn_countErase (sec : Nat) (s : State) :
    DiesGoOn s (s.writeHeader sec (fun h => { h with erases := h.erases + 1 })) := by
  refine ⟨rfl, fun k => ?_, fun _ => id⟩
  rw [State.sector_writeHeader]
  split
  · next hk => rw [hk]
  · rfl

theorem diesGoOn_beginErase (sec : Nat) (s : State) : DiesGoOn s (beginErase sec s) := by
  have hcount := diesGoOn_countErase sec s
  unfold beginErase
  extract_lets s1 n die
  split
  · refine .trans ?_ (diesGoOn_record (by decide) ..)
    exact hcount.trans ⟨rfl, fun _ => rfl, fun _ => id⟩
  · split
    · refine .trans ?_ (diesGoOn_record (by decide) ..)
      exact hcount.trans ⟨rfl, fun _ => rfl, fun _ => id⟩
    · exact hcount

theorem diesGoOn_dieNext (d : Nat) (s : State) : DiesGoOn s (dieNext d s) := by
  unfold dieNext
  extract_lets r s1
  have h : DiesGoOn s s1 := diesGoOn_modDie ..
  split
  · exact h
  · exact h.trans (diesGoOn_beginErase ..)

theorem diesGoOn_autoSuspend (d : Nat) (e : EraseOp) (s : State) : DiesGoOn s (autoSuspend d e s) := by
  unfold autoSuspend
  extract_lets n s1
  have h : DiesGoOn s s1 := diesGoOn_modDie ..
  split
  · refine .trans ?_ (diesGoOn_record (by decide) ..)
    exact h.trans ⟨rfl, fun _ => rfl, fun _ => id⟩
  · exact h

theorem diesGoOn_queueRead (d : Nat) (r : DieRead) (s : State) : DiesGoOn s (queueRead d r s) := by
  unfold queueRead
  extract_lets s1 x
  have h : DiesGoOn s s1 := diesGoOn_modDie ..
  split
  · split
    · split
      · exact h
      · exact h.trans (diesGoOn_autoSuspend ..)
    · exact h.trans (diesGoOn_dieNext ..)
  · exact h.trans (diesGoOn_dieNext ..)

/-- Dies of a list go on one after another. -/
theorem diesGoOn_foldl {β : Type} (g : State → β → State) (hg : ∀ u b, DiesGoOn u (g u b)) (l : List β) (s : State) :
    DiesGoOn s (l.foldl g s) :=
  foldl_holds (DiesGoOn s) g l s (fun u b h => h.trans (hg u b)) (.refl s)

section
variable {s u : State} (h : DiesGoOn s u)
include h

theorem DiesGoOn.mtc : u.mtc = s.mtc := by rw [h.rest]
theorem DiesGoOn.ten : u.ten = s.ten := by rw [h.rest]
theorem DiesGoOn.sec : u.sec = s.sec := by rw [h.rest]
theorem DiesGoOn.mgt : u.mgt = s.mgt := by rw [h.rest]
theorem DiesGoOn.fuse : u.fuse = s.fuse := by rw [h.rest]
theorem DiesGoOn.units : u.dep.units = s.dep.units := by rw [h.rest]
theorem DiesGoOn.line : u.dep.line = s.dep.line := by rw [h.rest]
theorem DiesGoOn.icache : u.dep.icache = s.dep.icache := by rw [h.rest]
theorem DiesGoOn.wsc (p : WscPort) : u.wsc p = s.wsc p := by rw [h.rest]; cases p <;> rfl
theorem DiesGoOn.wptr (k : Nat) : (u.sector k).wptr = (s.sector k).wptr := by rw [h.sector]
theorem DiesGoOn.kslot (k : Nat) : (u.sector k).kslot = (s.sector k).kslot := by rw [h.sector]
theorem DiesGoOn.undef (k : Nat) : (u.sector k).undef = (s.sector k).undef := by rw [h.sector]

end

/-! ## What becomes of each die -/

theorem die_record {c : BitVec 16} (hc : codeClass c = 5) (t : Option Nat) (unit arg addr : Nat) (s : State) (d : Nat) :
    (record c t unit arg addr s).die d = s.die d := by
  obtain ⟨v, k, o, m, h⟩ := record_depot hc t unit arg addr s
  rw [h]
  rfl

theorem die_beginErase (sec : Nat) (s : State) (d : Nat) : (beginErase sec s).die d = s.die d := by
  unfold beginErase
  extract_lets s1 n die
  split
  · exact die_record (by decide) ..
  · split
    · exact die_record (by decide) ..
    · rfl

/-- A die that goes on does what it chooses; the others stay as they are. -/
theorem die_dieNext (d e : Nat) (s : State) : (dieNext d s).die e = if e = d then (s.die d).choose.1 else s.die e := by
  unfold dieNext
  extract_lets r s1
  have h : s1.die e = if e = d then (s.die d).choose.1 else s.die e := State.die_modDie ..
  split
  · exact h
  · rw [die_beginErase, h]

theorem die_autoSuspend (d : Nat) (e : EraseOp) (s : State) : (autoSuspend d e s).die d =
    { s.die d with st := .suspending, erase := some { e with autoSusp := e.autoSusp + 1, aged := e.aged || e.autoSusp + 1 == 10000 } } := by
  unfold autoSuspend
  extract_lets n s1
  have h : s1.die d = { s.die d with st := .suspending, erase := some { e with autoSusp := n, aged := e.aged || n == 10000 } } := by
    simp [s1]
  split
  · exact (die_record (by decide) ..).trans h
  · exact h

/-- Each of the first `n` dies goes on once. -/
theorem die_foldl_dieNext (n d : Nat) (s : State) :
    ((List.range n).foldl (fun s d => dieNext d s) s).die d = if d < n then (s.die d).choose.1 else s.die d := by
  induction n with
  | zero => rfl
  | succ n ih =>
    rw [List.range_succ, List.foldl_append, List.foldl_cons, List.foldl_nil, die_dieNext]
    by_cases h : d = n
    · subst h
      rw [if_pos rfl, ih, if_neg (Nat.lt_irrefl d), if_pos (Nat.lt_succ_self d)]
    · rw [if_neg h, ih]
      exact if_congr (by omega) rfl rfl

/-! ## Ports that settle -/

theorem State.wsc_messaged (s : State) (o : List Output) (m : BitVec 64) (p : WscPort) : (s.messaged o m).wsc p = s.wsc p := by
  cases p <;> rfl

theorem State.modWsc_setWsc (s : State) (p : WscPort) (v : WscP) (f : WscP → WscP) :
    (s.setWsc p v).modWsc p f = s.setWsc p (f v) := by cases p <;> rfl

theorem wscEnds_messaged (p : WscPort) (s : State) : ∃ o m, wscEnds p s = s.messaged o m := by
  cases p with
  | host => exact msix_messaged 0 s
  | fw => exact ⟨s.out, s.glb.msixPba, rfl⟩

/-- What settling a port makes of it. -/
def WscP.settled (v : WscP) (st : WscState) : WscP := { v with st := st, userSusp := v.userSusp && !v.eraseLeft.isEmpty }

/-- The state that a port is in by what it has still to do (R246, notes/assumptions/62.md). -/
def State.portState (s : State) (v : WscP) : WscState :=
  let works := decide (v.progLeft ≠ 0) || decide (v.bulkPos < v.bulkEnd)
  if v.eraseLeft.isEmpty then (if works then .busy else .ready)
  else if !works && v.userSusp && v.eraseLeft.all s.eraseRests then .suspended
  else if !works && !v.userSusp && v.eraseOver then .ready
  else .busy

theorem settlePort_messaged (p : WscPort) (s : State) :
    ∃ o m, settlePort p s = (s.setWsc p ((s.wsc p).settled (s.portState (s.wsc p)))).messaged o m := by
  unfold settlePort
  extract_lets v works st s1
  have h : s1 = s.setWsc p ((s.wsc p).settled (s.portState (s.wsc p))) := rfl
  split
  · rw [← h]
    exact wscEnds_messaged p s1
  · exact ⟨s1.out, s1.glb.msixPba, h⟩

/-- The port that settles is as `portState` says. -/
theorem wsc_settlePort (p : WscPort) (s : State) : (settlePort p s).wsc p = (s.wsc p).settled (s.portState (s.wsc p)) := by
  obtain ⟨o, m, h⟩ := settlePort_messaged p s
  rw [h, State.wsc_messaged, State.wsc_setWsc, if_pos rfl]

/-- A port with program units or a bulk read to do is BUSY. -/
theorem State.portState_of_works (s : State) {v : WscP} (h : v.progLeft ≠ 0 ∨ v.bulkPos < v.bulkEnd) : s.portState v = .busy := by
  have hworks : (decide (v.progLeft ≠ 0) || decide (v.bulkPos < v.bulkEnd)) = true := by simpa using h
  simp only [State.portState, hworks, Bool.not_true, Bool.false_and, Bool.false_eq_true, if_true, if_false, ite_self]

/-- A port with erases left, none of them suspended or failed, is BUSY. -/
theorem State.portState_of_erases (s : State) {v : WscP} (hleft : v.eraseLeft ≠ []) (hsusp : v.userSusp = false)
    (hover : v.eraseOver = false) : s.portState v = .busy := by
  simp [State.portState, hleft, hsusp, hover]

/-- What ports bring about as they settle: their state, whether a suspension still holds, and messages. -/
structure PortsSettle (s u : State) : Prop where
  rest : u = { s with
    out := u.out, glb := { s.glb with msixPba := u.glb.msixPba }, dep := { s.dep with host := u.dep.host, fw := u.dep.fw } }
  wsc : ∀ p, u.wsc p = { s.wsc p with st := (u.wsc p).st, userSusp := (u.wsc p).userSusp }

theorem PortsSettle.trans {s u v : State} (h : PortsSettle s u) (h' : PortsSettle u v) : PortsSettle s v :=
  ⟨by rw [h'.rest, h.rest], fun p => by rw [h'.wsc p, h.wsc p]⟩

theorem portsSettle_settlePort (p : WscPort) (s : State) : PortsSettle s (settlePort p s) := by
  obtain ⟨o, m, h⟩ := settlePort_messaged p s
  rw [h]
  refine ⟨by cases p <;> rfl, fun r => ?_⟩
  rw [State.wsc_messaged, State.wsc_setWsc]
  split
  · next hr => rw [hr]; rfl
  · rfl

theorem portsSettle_settlePorts (s : State) : PortsSettle s (settlePorts s) :=
  (portsSettle_settlePort .host s).trans (portsSettle_settlePort .fw _)

section
variable {s u : State} (h : PortsSettle s u)
include h

theorem PortsSettle.mtc : u.mtc = s.mtc := by rw [h.rest]
theorem PortsSettle.frc : u.frc = s.frc := by rw [h.rest]
theorem PortsSettle.units : u.dep.units = s.dep.units := by rw [h.rest]
theorem PortsSettle.line : u.dep.line = s.dep.line := by rw [h.rest]
theorem PortsSettle.icache : u.dep.icache = s.dep.icache := by rw [h.rest]
theorem PortsSettle.die (d : Nat) : u.die d = s.die d := by rw [h.rest]; rfl
theorem PortsSettle.sector (k : Nat) : u.sector k = s.sector k := by rw [h.rest]; rfl

end

/-! ## Writes to a port's sequence registers (R236, R237) -/

/-- The command that a port's last write starts, from the state with that write latched; one that is over at once is a device event
(R246, R333). -/
def wscRun (p : WscPort) (v : WscP) (f : State → State) (go : State) : State :=
  if v.overAtOnce ((f go).wsc p) then wscEnds p (f go) else f go

theorem wscRun_messaged (p : WscPort) (v : WscP) (f : State → State) (go : State) :
    ∃ o m, wscRun p v f go = (f go).messaged o m := by
  unfold wscRun
  split
  · exact wscEnds_messaged ..
  · exact ⟨(f go).out, (f go).glb.msixPba, rfl⟩

theorem wscRun_of_over {p : WscPort} {v : WscP} {f : State → State} {go : State} (h : v.overAtOnce ((f go).wsc p) = true) :
    wscRun p v f go = wscEnds p (f go) := if_pos h

/-- A command whose port's part is the sequence's end: what it has done stands, the sequence is over, and messages may have gone. -/
structure SequenceEnds (p : WscPort) (s u : State) : Prop where
  rest : u = { s with
    out := u.out, glb := { s.glb with msixPba := u.glb.msixPba }, dep := { s.dep with host := u.dep.host, fw := u.dep.fw } }
  wsc : u.wsc p = (s.wsc p).ended

theorem sequenceEnds_wscRun (p : WscPort) (v : WscP) (f : State → State) (go : State) :
    SequenceEnds p (f go) ((wscRun p v f go).modWsc p WscP.ended) := by
  obtain ⟨o, m, h⟩ := wscRun_messaged p v f go
  rw [h]
  refine ⟨by cases p <;> rfl, ?_⟩
  rw [State.wsc_modWsc, if_pos rfl, State.wsc_messaged]

section
variable {p : WscPort} {s u : State} (h : SequenceEnds p s u)
include h

theorem SequenceEnds.mtc : u.mtc = s.mtc := by rw [h.rest]
theorem SequenceEnds.units : u.dep.units = s.dep.units := by rw [h.rest]
theorem SequenceEnds.icache : u.dep.icache = s.dep.icache := by rw [h.rest]
theorem SequenceEnds.die (d : Nat) : u.die d = s.die d := by rw [h.rest]; rfl
theorem SequenceEnds.sector (k : Nat) : u.sector k = s.sector k := by rw [h.rest]; rfl

end

/-- The commands that end their sequence as they start, and what they do (R236). -/
def portStarts (p : WscPort) : List (WscAct × (State → State)) :=
  [(.programSmall, startProgram p true), (.programBulk, startProgram p false), (.erase, startErase p), (.wpset, startWpset p),
   (.suspend, startSuspend p), (.resume, startResume p), (.status, fun s => showWord p 0x70 s.dieMaps s),
   (.readid, fun s => showWord p 0x90 s.depotId s)]

section
variable {p : WscPort} {r : Option WscReg} {x : Reg32} {s : State} {a : WscAct} (hact : (s.wsc p).act r x = a)
include hact

theorem portRow_of_act {mine : WscAct → Bool} (hopen : s.portOpen p = true) (hmine : mine a = true) :
    portRow p r x mine s = wscWrite p r x s := by
  simp only [portRow, hopen, hact, hmine, Bool.and_self, if_true]

/-- The write of a command's starting register: its sequence is over when it has run. -/
theorem wscWrite_of_start {f : State → State} (hf : (a, f) ∈ portStarts p) :
    wscWrite p r x s = (wscRun p (s.wsc p) f (s.setWsc p ((s.wsc p).latch r x))).modWsc p WscP.ended := by
  simp only [portStarts, List.mem_cons, Prod.mk.injEq, List.not_mem_nil, or_false] at hf
  rcases hf with ⟨rfl, rfl⟩ | ⟨rfl, rfl⟩ | ⟨rfl, rfl⟩ | ⟨rfl, rfl⟩ | ⟨rfl, rfl⟩ | ⟨rfl, rfl⟩ | ⟨rfl, rfl⟩ |
      ⟨rfl, rfl⟩ <;>
    simp only [wscWrite, hact, wscRun]

/-- A write in its place is latched, and the sequence goes on. -/
theorem wscWrite_of_place (h : a = .key ∨ a = .operand) :
    wscWrite p r x s = s.setWsc p (((s.wsc p).latch r x).advance r) := by
  rcases h with rfl | rfl <;> simp only [wscWrite, hact]

/-- A write out of its place is latched, WSC_SEQ, and ends the sequence. -/
theorem wscWrite_of_bad (h : a = .bad) (hr : r ≠ some .cmd) :
    wscWrite p r x s = wscFail p 0 Code.wscSeq unitNone 0 (s.setWsc p ((s.wsc p).latch r x).ended) := by
  subst h
  simp only [wscWrite, hact, if_neg hr]

end

end Sys2Proof.Machine
end

section
/-! PROOFS, O34. The sequences of a depot port, WPSET, STATUS, READID (R236, R237, R242). -/

namespace Sys2Proof.Machine

theorem wscFail_setWsc (p : WscPort) (bit : Nat) (code : BitVec 16) (unit addr : Nat) (s : State) (v : WscP) :
    wscFail p bit code unit addr (s.setWsc p v) =
      record code none unit 0 addr (s.setWsc p { v with err := v.err ||| BitVec.ofNat 13 (2 ^ bit) }) := by
  rw [wscFail, State.modWsc_setWsc]

/-! ## Which write is which -/

section
variable {v : WscP} {x : Reg32}

theorem WscP.act_firstKey (h : v.step = 0) (hx : x.toNat % 65536 = 0x5A3C) : v.act none x = .key := by simp [WscP.act, h, hx]
theorem WscP.act_secondKey (h : v.step = 1) (hx : x.toNat % 65536 = 0xC3A5) : v.act none x = .key := by simp [WscP.act, h, hx]

theorem WscP.act_thirdKey (h : 2 ≤ v.step) : v.act none x = .bad := by
  obtain ⟨n, hn⟩ : ∃ n, v.step = n + 2 := ⟨v.step - 2, by omega⟩
  simp only [WscP.act, hn]

theorem WscP.act_command (h : v.step = 2) (hx : x.toNat % 256 = 0x10 ∨ x.toNat % 256 = 0x20 ∨ x.toNat % 256 = 0x60) :
    v.act (some .cmd) x = .operand := by simp only [WscP.act, h, if_pos hx]

theorem WscP.act_status (h : v.step = 2) : v.act (some .cmd) 0x70 = .status := by simp [WscP.act, h]
theorem WscP.act_readid (h : v.step = 2) : v.act (some .cmd) 0x90 = .readid := by simp [WscP.act, h]
theorem WscP.act_suspend (h : v.step = 2) : v.act (some .cmd) 0xB0 = .suspend := by simp [WscP.act, h]
theorem WscP.act_resume (h : v.step = 2) : v.act (some .cmd) 0xD0 = .resume := by simp [WscP.act, h]

theorem WscP.act_firstAddrLo (h : v.step = 3) (hpos : v.pos = 0) : v.act (some .addrLo) x = .operand := by simp [WscP.act, h, hpos]
theorem WscP.act_firstLen (h : v.step = 3) (hpos : v.pos = 0) : v.act (some .len) x = .bad := by simp [WscP.act, h, hpos]

theorem WscP.act_wpset (h : v.step = 3) (hpos : v.pos = 3) (hprog : v.cmd ≠ 0x10) (herase : v.cmd ≠ 0x20) :
    v.act (some .data) x = .wpset := by
  simp only [WscP.act, h, hpos, beq_iff_eq, if_neg hprog, if_neg herase]

end

/-! ## WPSET (R242) -/

theorem State.portSector_setWsc (s : State) (p r : WscPort) (v : WscP) (k : Nat) :
    (s.setWsc p v).portSector r k = s.portSector r k := by cases p <;> rfl

/-- The sectors of a port among those that a WPSET names. -/
def State.protects (s : State) (p : WscPort) (first n : Nat) : List Nat :=
  ((List.range s.userSectors) ++ (List.range s.deviceSectors).map (0x7F00 + ·)).filter (fun k =>
    decide (first ≤ k) && decide (k < first + n) && s.portSector p k)

theorem State.mem_protects {s : State} {p : WscPort} {first n k : Nat} :
    k ∈ s.protects p first n ↔ first ≤ k ∧ k < first + n ∧ s.portSector p k = true := by
  have hlisted (h : s.portSector p k = true) :
      k ∈ (List.range s.userSectors) ++ (List.range s.deviceSectors).map (0x7F00 + ·) := by
    simp only [State.portSector, State.isUser, State.isDevice, Bool.or_eq_true, Bool.and_eq_true, decide_eq_true_eq] at h
    simp only [List.mem_append, List.mem_range, List.mem_map]
    rcases h with h | ⟨-, hlo, hhi⟩
    · exact .inl h
    · exact .inr ⟨k - 0x7F00, by omega, by omega⟩
  simp only [State.protects, List.mem_filter, Bool.and_eq_true, decide_eq_true_eq, and_assoc]
  exact ⟨And.right, fun h => ⟨hlisted h.2.2, h⟩⟩

/-- The protection of the sectors of a list set: that of the others, and the rest of a sector, stay. -/
theorem State.sector_protected (b : Bool) (l : List Nat) (s : State) (k : Nat) :
    (l.foldl (fun s k => s.modSector k (fun h => { h with wp := b })) s).sector k =
      if k ∈ l then { s.sector k with wp := b } else s.sector k := by
  have hone (s : State) (j : Nat) : (s.modSector j (fun h => { h with wp := b })).sector k =
      if k = j then { s.sector k with wp := b } else s.sector k := by
    by_cases h : k = j <;> simp [State.modSector, State.sector, h]
  induction l generalizing s with
  | nil => rfl
  | cons j r ih =>
    rw [List.foldl_cons, ih, hone]
    by_cases hj : k = j <;> by_cases hr : k ∈ r <;> simp [hj, hr]

theorem startWpset_of_free {p : WscPort} {s : State} (h : (s.wsc p).st ≠ .busy) :
    startWpset p s = (s.protects p ((s.wsc p).addr.toNat / 2 ^ 26) (s.wsc p).len.toNat).foldl
      (fun t k => t.modSector k (fun y => { y with wp := (s.wsc p).data.getLsbD 0 }))
      (s.setWsc p { s.wsc p with op := 0x60, done := 0 }) := if_neg h

theorem wsc_startWpset {p : WscPort} {s : State} (h : (s.wsc p).st ≠ .busy) :
    (startWpset p s).wsc p = { s.wsc p with op := 0x60, done := 0 } := by
  rw [startWpset_of_free h, foldl_keeps (State.wsc · p) _ _ _ (fun u k => by cases p <;> rfl), State.wsc_setWsc, if_pos rfl]

section
variable {p : WscPort} {s : State} (hopen : s.portOpen p = true)
include hopen

/-- A command that its last write starts: what it comes to, with its sequence over. -/
theorem exec_start {r : Option WscReg} {x : Reg32} {a : WscAct} {f : State → State} (hact : (s.wsc p).act r x = a)
    (hf : (a, f) ∈ portStarts p) :
    portRow p r x (· == a) s = (wscRun p (s.wsc p) f (s.setWsc p ((s.wsc p).latch r x))).modWsc p WscP.ended :=
  (portRow_of_act (mine := (· == a)) hact hopen (beq_self_eq_true a)).trans (wscWrite_of_start hact hf)

theorem exec_wscKeyWrite_of_third (x : Reg32) (h : 2 ≤ (s.wsc p).step) :
    exec (.wscKeyWrite p x) s = .next (record 0x5101 none 0xFFFF 0 0 (s.setWsc p { s.wsc p with
      key := BitVec.ofNat 16 x.toNat, step := 0, pos := 0, words := [], err := (s.wsc p).err ||| 1 })) := by
  have hact := WscP.act_thirdKey (x := x) h
  refine congrArg _ ((portRow_of_act hact hopen rfl).trans ?_)
  rw [wscWrite_of_bad hact rfl (by simp), wscFail_setWsc]
  rfl

theorem exec_wscSequenceWrite_of_place {r : WscReg} {x : Reg32} (hact : (s.wsc p).act (some r) x = .operand) :
    exec (.wscSequenceWrite p r x) s = .next (s.setWsc p (((s.wsc p).latch (some r) x).advance (some r))) :=
  congrArg _ ((portRow_of_act hact hopen rfl).trans (wscWrite_of_place hact (.inr rfl)))

theorem exec_wpset_of_last {x : Reg32} (hstep : (s.wsc p).step = 3) (hpos : (s.wsc p).pos = 3) (hprog : (s.wsc p).cmd ≠ 0x10)
    (herase : (s.wsc p).cmd ≠ 0x20) (hst : (s.wsc p).st ≠ .busy) (k : Nat) :
    let v := s.wsc p
    ∃ u, exec (.wpset p x) s = .next u ∧ (u.wsc p).step = 0 ∧ (u.wsc p).op = 0x60 ∧
      (s.portSector p k = true → v.addr.toNat / 2 ^ 26 ≤ k → k < v.addr.toNat / 2 ^ 26 + v.len.toNat →
        (u.sector k).wp = x.getLsbD 0) ∧
      (k < v.addr.toNat / 2 ^ 26 ∨ v.addr.toNat / 2 ^ 26 + v.len.toNat ≤ k ∨ s.portSector p k = false →
        u.sector k = s.sector k) := by
  intro v
  let go := s.setWsc p (v.latch (some .data) x)
  have hgo : go.wsc p = v.latch (some .data) x := by rw [State.wsc_setWsc, if_pos rfl]
  have hst' : (go.wsc p).st ≠ .busy := hgo ▸ hst
  have hends := sequenceEnds_wscRun p v (startWpset p) go
  have hsector : (startWpset p go).sector k = if k ∈ go.protects p (v.addr.toNat / 2 ^ 26) v.len.toNat
      then { s.sector k with wp := x.getLsbD 0 } else s.sector k := by
    rw [startWpset_of_free hst', State.sector_protected, hgo]
    cases p <;> rfl
  have hport : go.portSector p k = s.portSector p k := State.portSector_setWsc ..
  refine ⟨_, congrArg Host.Outcome.next (exec_start hopen (WscP.act_wpset hstep hpos hprog herase) (f := startWpset p)
    (by simp [portStarts])), ?_, ?_, ?_, ?_⟩
  · rw [hends.wsc]; rfl
  · rw [hends.wsc, wsc_startWpset hst']; rfl
  · intro hp hlo hhi
    rw [hends.sector, hsector, if_pos (State.mem_protects.mpr ⟨hlo, hhi, hport.trans hp⟩)]
  · intro hout
    rw [hends.sector, hsector, if_neg]
    intro hk
    obtain ⟨hlo, hhi, hp⟩ := State.mem_protects.mp hk
    rw [hport] at hp
    rcases hout with h | h | h
    · omega
    · omega
    · rw [h] at hp; cases hp

/-! ## Results shown (R236) -/

/-- A command that shows a word: the word, computed once the command has been latched, stands in WSC_RDATA. -/
theorem exec_show {x : Reg32} {a : WscAct} {op : BitVec 8} {w : State → Reg32} (hact : (s.wsc p).act (some .cmd) x = a)
    (hf : (a, fun s => showWord p op (w s) s) ∈ [(WscAct.status, fun s => showWord p 0x70 s.dieMaps s),
      (.readid, fun s => showWord p 0x90 s.depotId s)]) (hw : ∀ v, w (s.setWsc p v) = w s) :
    let u := portRow p (some .cmd) x (· == a) s
    (u.wsc p).rdata = w s ∧ (u.wsc p).op = op ∧ (u.wsc p).step = 0 ∧ (u.wsc p).shown = true := by
  intro u
  have hu := exec_start hopen hact (f := fun s => showWord p op (w s) s) (by
    simp only [portStarts, List.mem_cons, List.not_mem_nil, or_false] at hf ⊢
    tauto)
  have hends := sequenceEnds_wscRun p (s.wsc p) (fun s => showWord p op (w s) s) (s.setWsc p ((s.wsc p).latch (some .cmd) x))
  rw [← hu] at hends
  have hwsc := hends.wsc
  simp only [showWord, State.modWsc_setWsc, State.wsc_setWsc, if_true] at hwsc
  rw [show u.wsc p = _ from hwsc]
  exact ⟨hw _, rfl, rfl, rfl⟩

end

/-- Settles O34: each write by which of its sequence's writes it is; WPSET by the sectors that it names. -/
theorem portSequences : Obligations.PortSequences := by
  unfold Obligations.PortSequences
  intro p x k s v key low hopen
  refine ⟨fun hstep hx => ?_, fun hstep hx => ?_, exec_wscKeyWrite_of_third hopen x, fun hstep hx => ?_, fun hstep hpos => ⟨?_, ?_⟩,
    fun hstep hpos hprog herase hst => exec_wpset_of_last hopen hstep hpos hprog herase hst k, fun hstep => ?_, fun hstep => ?_⟩
  · have hact := WscP.act_firstKey hstep hx
    refine congrArg _ ((portRow_of_act hact hopen rfl).trans ((wscWrite_of_place hact (.inl rfl)).trans ?_))
    simp [WscP.latch, WscP.advance, v, key, show (s.wsc p).step = 0 from hstep]
  · have hact := WscP.act_secondKey hstep hx
    refine congrArg _ ((portRow_of_act hact hopen rfl).trans ((wscWrite_of_place hact (.inl rfl)).trans ?_))
    simp [WscP.latch, WscP.advance, v, key, show (s.wsc p).step = 1 from hstep]
  · exact exec_wscSequenceWrite_of_place hopen (WscP.act_command hstep hx)
  · refine (exec_wscSequenceWrite_of_place hopen (WscP.act_firstAddrLo hstep hpos)).trans ?_
    simp [WscP.latch, WscP.advance, v, low, show (s.wsc p).step = 3 from hstep, show (s.wsc p).pos = 0 from hpos]
  · have hact := WscP.act_firstLen (x := x) hstep hpos
    refine congrArg _ ((portRow_of_act hact hopen rfl).trans ?_)
    rw [wscWrite_of_bad hact rfl (by simp), wscFail_setWsc]
    rfl
  · exact ⟨_, rfl, exec_show hopen (WscP.act_status hstep) (op := 0x70) (w := State.dieMaps) (by simp) (fun _ => by cases p <;> rfl)⟩
  · obtain ⟨hword, hop, hstep', hshown⟩ := exec_show hopen (WscP.act_readid hstep) (op := 0x90) (w := State.depotId) (by simp)
      (fun _ => by cases p <;> rfl)
    exact ⟨_, rfl, hop, hstep', hshown, hword⟩

end Sys2Proof.Machine
end

section
/-! PROOFS, O35. PROGRAM, ERASE, SUSPEND and RESUME of a depot port (R238 to R241, R246). -/

namespace Sys2Proof.Machine

/-! ## What the registers of a port do not enter -/

section
variable (s : State) (p : WscPort) (v : WscP)

theorem State.portRange_setWsc (r : WscPort) (a n : Nat) : (s.setWsc p v).portRange r a n = s.portRange r a n := by cases p <;> rfl
theorem State.sector_setWsc (k : Nat) : (s.setWsc p v).sector k = s.sector k := by cases p <;> rfl
theorem State.wptrDue_setWsc (k : Nat) : (s.setWsc p v).wptrDue k = s.wptrDue k := by cases p <;> rfl
theorem State.sectorErasing_setWsc (k : Nat) : (s.setWsc p v).sectorErasing k = s.sectorErasing k := by cases p <;> rfl
theorem State.sectorBusy_setWsc (k : Nat) : (s.setWsc p v).sectorBusy k = s.sectorBusy k := by cases p <;> rfl
theorem State.dies_setWsc : (s.setWsc p v).dies = s.dies := by cases p <;> rfl
theorem State.stageStacked_setWsc (t a n : Nat) : (s.setWsc p v).stageStacked t a n = s.stageStacked t a n := by
  cases p <;> rfl

theorem State.readRun_setWsc (keys : Store Bytes) (shard : Bool) (m : List UnitErr) (l : List (Nat × Nat)) :
    (s.setWsc p v).readRun keys shard m l = s.readRun keys shard m l := by
  have hbars (k : Nat) : (s.setWsc p v).sectorBars keys shard k = s.sectorBars keys shard k := by cases p <;> rfl
  have hunit (sec u n : Nat) (ok : Bool) : (s.setWsc p v).readUnit keys sec u n ok = s.readUnit keys sec u n ok := by cases p <;> rfl
  induction l with
  | nil => rfl
  | cons e r ih => simp only [State.readRun, hbars, hunit, ih]

/-- What has yet to be read, of manifests and shards, is in no port's registers. -/
theorem State.toRead_setWsc (k : Nat) : (s.setWsc p v).toRead k = s.toRead k := by
  have hread (keys : Store Bytes) (shard : Bool) (a n : Nat) (m : List UnitErr) :
      (s.setWsc p v).depotRead keys shard a n m = s.depotRead keys shard a n m := by
    simp only [State.depotRead, State.readRun_setWsc]
  have hkeys (j : LoadJob) : (s.setWsc p v).jobKeys j = s.jobKeys j := by cases p <;> rfl
  have hloads : (s.setWsc p v).dep.loads = s.dep.loads := by cases p <;> rfl
  simp only [State.toRead, State.jobShards, hread, hkeys, hloads, State.setWsc_tenant, State.setWsc_ten]

end

/-! ## A command that is refused -/

theorem wsc_record {c : BitVec 16} (hc : codeClass c = 5) (t : Option Nat) (unit arg addr : Nat) (s : State) (p : WscPort) :
    (record c t unit arg addr s).wsc p = s.wsc p := (diesGoOn_record hc t unit arg addr s).wsc p

theorem wsc_wscFail {c : BitVec 16} (hc : codeClass c = 5) (p : WscPort) (bit unit addr : Nat) (s : State) :
    (wscFail p bit c unit addr s).wsc p = { s.wsc p with err := (s.wsc p).err ||| BitVec.ofNat 13 (2 ^ bit) } := by
  rw [wscFail, wsc_record hc, State.wsc_modWsc, if_pos rfl]

/-- A command that leaves its port's state and suspension is over with its last write. -/
theorem WscP.overAtOnce_of_same {v w : WscP} (hst : w.st = v.st) (hsusp : w.userSusp = v.userSusp) : v.overAtOnce w = true := by
  cases h : v.userSusp <;> simp [WscP.overAtOnce, hst, hsusp, h]

/-- A refused command: its error, the end of its port's command, the end of its sequence. -/
theorem wscRun_of_refused {p : WscPort} {v : WscP} {f : State → State} {go : State} {bit unit addr : Nat} {c : BitVec 16}
    (hc : codeClass c = 5) (hf : f go = wscFail p bit c unit addr go) (hst : (go.wsc p).st = v.st)
    (hsusp : (go.wsc p).userSusp = v.userSusp) : wscRun p v f go = wscEnds p (wscFail p bit c unit addr go) := by
  rw [wscRun_of_over, hf]
  rw [hf, wsc_wscFail hc]
  exact WscP.overAtOnce_of_same hst hsusp

/-! ## PROGRAM (R238, R239, R256) -/

/-- What the registers of a port have a PROGRAM meet before its sectors are looked at (R239). -/
structure ProgramFits (s : State) (p : WscPort) (v : WscP) (small : Bool) : Prop where
  free : v.st ≠ .busy
  aligned : v.addr.toNat % 4096 = 0
  whole : v.len.toNat % 4096 = 0
  some : v.len ≠ 0
  most : v.len.toNat ≤ if small then 65536 else 2 ^ 30
  range : s.portRange p v.addr.toNat v.len.toNat = true
  stage : small = false → v.stage.toNat % 4096 = 0 ∧ s.stageStacked v.stageTenant.toNat v.stage.toNat v.len.toNat = true

/-- A sector takes a PROGRAM at an address: not protected, in order, not being erased, with no load to read it yet (R239, R242, R256). -/
def State.takesProgram (s : State) (addr k : Nat) : Prop :=
  (s.sector k).wp = false ∧ s.wptrDue k * 131072 ≤ (if k = addr / 2 ^ 26 then addr % 2 ^ 26 else 0) ∧ s.sectorErasing k = false ∧
    s.toRead k = false

theorem ProgramFits.setWsc {s : State} {p : WscPort} {v : WscP} {small : Bool} (h : ProgramFits s p v small) (w : WscP) :
    ProgramFits (s.setWsc p w) p v small :=
  ⟨h.free, h.aligned, h.whole, h.some, h.most, by rw [State.portRange_setWsc, h.range],
    fun hs => by rw [State.stageStacked_setWsc]; exact h.stage hs⟩

theorem State.takesProgram_setWsc {s : State} {addr k : Nat} (h : s.takesProgram addr k) (p : WscPort) (w : WscP) :
    (s.setWsc p w).takesProgram addr k := by
  simpa only [State.takesProgram, State.sector_setWsc, State.wptrDue_setWsc, State.sectorErasing_setWsc, State.toRead_setWsc] using h

section
variable {s : State} {p : WscPort} {small : Bool} (hfits : ProgramFits s p (s.wsc p) small)
include hfits

theorem ProgramFits.len_pos : (s.wsc p).len.toNat ≠ 0 := fun h => hfits.some (BitVec.eq_of_toNat_eq h)

/-- The checks of a PROGRAM's registers pass. -/
theorem ProgramFits.in_range :
    ((s.wsc p).addr.toNat % 4096 != 0 ||
      ((s.wsc p).len.toNat % 4096 != 0 || (s.wsc p).len.toNat == 0 ||
        decide ((if small then 65536 else 2 ^ 30) < (s.wsc p).len.toNat)) ||
      !s.portRange p (s.wsc p).addr.toNat (s.wsc p).len.toNat ||
      (!small && ((s.wsc p).stage.toNat % 4096 != 0 ||
        !s.stageStacked (s.wsc p).stageTenant.toNat (s.wsc p).stage.toNat (s.wsc p).len.toNat))) = false := by
  have hlen := hfits.len_pos
  have hmost := hfits.most
  have hstage := hfits.stage
  cases small
  · obtain ⟨halign, hstacked⟩ := hstage rfl
    simpa [hfits.aligned, hfits.whole, hfits.range, hlen, halign, hstacked] using hmost
  · simpa [hfits.aligned, hfits.whole, hfits.range, hlen] using hmost

theorem startProgram_of_protected (hprot : ∃ k ∈ sectorsOf (s.wsc p).addr.toNat (s.wsc p).len.toNat, (s.sector k).wp = true) :
    startProgram p small s = wscFail p 1 Code.wscProtected unitNone (s.wsc p).addr.toNat s := by
  unfold startProgram
  extract_lets v addr n t secs badLen badStage starts data us s1 s2
  rw [if_neg hfits.free, if_neg (by simp only [addr, badLen, n, badStage, t, v, hfits.in_range]; decide),
    if_pos (List.any_eq_true.mpr hprot)]

/-- A PROGRAM that may start: its units are queued, its port counts them, and the dies go on. -/
theorem startProgram_of_fits (hsecs : ∀ k ∈ sectorsOf (s.wsc p).addr.toNat (s.wsc p).len.toNat, s.takesProgram (s.wsc p).addr.toNat k)
    (hkey : (s.keySlot (s.wsc p).ksel.toNat).installed = true) :
    ∃ m w, m ≠ 0 ∧ startProgram p small s = settlePort p w ∧
      DiesGoOn (dropLines (sectorsOf (s.wsc p).addr.toNat (s.wsc p).len.toNat)
        (s.setWsc p { s.wsc p with op := 0x10, done := 0, progLeft := m, progNo := (s.wsc p).progNo + 1 })) w := by
  have hlen := hfits.len_pos
  unfold startProgram
  extract_lets v addr n t secs badLen badStage starts data us s1 s2
  have hprot : secs.any (fun k => (s.sector k).wp) = false := List.any_eq_false.mpr fun k hk => by simp [(hsecs k hk).1]
  have horder : secs.any (fun k => decide (starts k < s.wptrDue k * 131072)) = false :=
    List.any_eq_false.mpr fun k hk hlt => by
      obtain ⟨-, hle, -⟩ := hsecs k hk
      exact absurd (of_decide_eq_true hlt) (Nat.not_lt.mpr hle)
  have hbusy : secs.any (fun k => s.sectorErasing k || s.toRead k) = false := List.any_eq_false.mpr fun k hk => by
    obtain ⟨-, -, herase, hread⟩ := hsecs k hk
    simp [herase, hread]
  rw [if_neg hfits.free, if_neg (by simp only [addr, badLen, n, badStage, t, v, hfits.in_range]; decide), hprot, if_neg (by decide),
    horder, if_neg (by decide), hbusy, if_neg (by decide), hkey, if_neg (by decide)]
  refine ⟨us.length, _, ?_, rfl, ?_⟩
  · simp only [us, programUnits, List.length_map, List.length_range, n, addr, v]
    omega
  · exact (diesGoOn_foldl _ (fun u _ => diesGoOn_modDie _ _ u) us _).trans (diesGoOn_foldl _ (fun u d => diesGoOn_dieNext d u) _ _)

end

/-- What the statement says of a PROGRAM that starts at its last write. -/
theorem program_effect {s : State} {p : WscPort} {r : Option WscReg} {x : Reg32} (small : Bool) {last : WscP}
    (hlast : (s.wsc p).latch r x = last) (hfits : ProgramFits s p last small)
    (hsecs : ∀ k ∈ sectorsOf last.addr.toNat last.len.toNat, s.takesProgram last.addr.toNat k)
    (hkey : (s.keySlot last.ksel.toNat).installed = true) :
    let u := (wscRun p (s.wsc p) (startProgram p small) (s.setWsc p ((s.wsc p).latch r x))).modWsc p WscP.ended
    (u.wsc p).st = .busy ∧ (u.wsc p).op = 0x10 ∧ (u.wsc p).step = 0 ∧ (u.wsc p).done = 0 ∧ (u.wsc p).progLeft ≠ 0 ∧
      u.mtc = s.mtc ∧ u.dep.units = s.dep.units := by
  intro u
  let go := s.setWsc p last
  have hgo : go.wsc p = last := by rw [State.wsc_setWsc, if_pos rfl]
  have hends : SequenceEnds p (startProgram p small go) u := by
    simp only [u, hlast]
    exact sequenceEnds_wscRun ..
  obtain ⟨m, w, hm, hstart, hdies⟩ := startProgram_of_fits (s := go) (p := p) (small := small) (hgo.symm ▸ hfits.setWsc last)
    (hgo.symm ▸ fun k hk => State.takesProgram_setWsc (hsecs k hk) p last) (by rw [hgo, State.setWsc_keySlot, hkey])
  have hw : w.wsc p = { last with op := 0x10, done := 0, progLeft := m, progNo := last.progNo + 1 } := by
    rw [hdies.wsc, hgo]
    exact (State.wsc_setWsc ..).trans (if_pos rfl)
  have hsettle := portsSettle_settlePort p w
  have hwsc : (startProgram p small go).wsc p = (w.wsc p).settled .busy := by
    rw [hstart, wsc_settlePort, State.portState_of_works _ (.inl (by rw [hw]; exact hm))]
  rw [hends.wsc, hwsc, hw, hends.mtc, hends.units, hstart, hsettle.mtc, hsettle.units, hdies.mtc, hdies.units]
  exact ⟨rfl, rfl, rfl, rfl, hm, by cases p <;> rfl, by cases p <;> rfl⟩

/-! ## ERASE (R241, R248, R256) -/

/-- What the registers of a port have an ERASE meet before its sectors are looked at (R241). -/
structure EraseFits (s : State) (p : WscPort) (v : WscP) : Prop where
  ready : v.st = .ready
  aligned : v.addr.toNat % 2 ^ 26 = 0
  whole : v.len.toNat % 2 ^ 26 = 0
  some : v.len ≠ 0
  most : v.len.toNat ≤ s.dies * 2 ^ 26
  range : s.portRange p v.addr.toNat v.len.toNat = true

/-- A sector takes an ERASE (R241, R242, R256). -/
def State.takesErase (s : State) (k : Nat) : Prop := (s.sector k).wp = false ∧ s.sectorBusy k = false ∧ s.toRead k = false

theorem EraseFits.setWsc {s : State} {p : WscPort} {v : WscP} (h : EraseFits s p v) (w : WscP) : EraseFits (s.setWsc p w) p v :=
  ⟨h.ready, h.aligned, h.whole, h.some, by rw [State.dies_setWsc]; exact h.most, by rw [State.portRange_setWsc, h.range]⟩

theorem State.takesErase_setWsc {s : State} {k : Nat} (h : s.takesErase k) (p : WscPort) (w : WscP) :
    (s.setWsc p w).takesErase k := by
  simpa only [State.takesErase, State.sector_setWsc, State.sectorBusy_setWsc, State.toRead_setWsc] using h

theorem sectorsOf_ne_nil {addr n : Nat} (h : n ≠ 0) : sectorsOf addr n ≠ [] := by
  simp only [sectorsOf, if_neg h, ne_eq, List.map_eq_nil_iff, List.range_eq_nil, sectorBytes]
  omega

/-- An ERASE that may start: the lines of its sectors leave the cache, its erases are queued, and the dies go on. -/
theorem startErase_of_fits {s : State} {p : WscPort} (hfits : EraseFits s p (s.wsc p))
    (hsecs : ∀ k ∈ sectorsOf (s.wsc p).addr.toNat (s.wsc p).len.toNat, s.takesErase k) :
    let secs := sectorsOf (s.wsc p).addr.toNat (s.wsc p).len.toNat
    ∃ w, startErase p s = settlePort p w ∧ DiesGoOn (dropLines secs (s.setWsc p { s.wsc p with
      op := 0x20, done := 0, eraseLeft := secs, userSusp := false, eraseNo := (s.wsc p).eraseNo + 1, eraseOver := false })) w := by
  intro secs'
  have hlen : (s.wsc p).len.toNat ≠ 0 := fun h => hfits.some (BitVec.eq_of_toNat_eq h)
  have hrange : ((s.wsc p).addr.toNat % sectorBytes != 0 || (s.wsc p).len.toNat % sectorBytes != 0 || (s.wsc p).len.toNat == 0 ||
      decide (sectorBytes * s.dies < (s.wsc p).len.toNat) || !s.portRange p (s.wsc p).addr.toNat (s.wsc p).len.toNat) = false := by
    have haligned : (s.wsc p).addr.toNat % sectorBytes = 0 := hfits.aligned
    have hwhole : (s.wsc p).len.toNat % sectorBytes = 0 := hfits.whole
    have hmost : (s.wsc p).len.toNat ≤ sectorBytes * s.dies := by rw [Nat.mul_comm]; exact hfits.most
    simp [haligned, hwhole, hmost, hfits.range, hlen]
  unfold startErase
  extract_lets v addr n secs s1 s2
  have hprot : secs.any (fun k => (s.sector k).wp) = false := List.any_eq_false.mpr fun k hk => by simp [(hsecs k hk).1]
  have hbusy : secs.any (fun k => s.sectorBusy k || s.toRead k) = false := List.any_eq_false.mpr fun k hk => by
    obtain ⟨-, hwork, hread⟩ := hsecs k hk
    simp [hwork, hread]
  rw [if_neg (not_not_intro hfits.ready), if_neg (by simp only [addr, n, v, hrange]; decide), hprot, if_neg (by decide), hbusy,
    if_neg (by decide)]
  exact ⟨_, rfl, (diesGoOn_foldl _ (fun u _ => diesGoOn_modDie _ _ u) secs _).trans
    (diesGoOn_foldl _ (fun u d => diesGoOn_dieNext d u) _ _)⟩

/-- What the statement says of an ERASE that starts at its last write. -/
theorem erase_effect {s : State} {p : WscPort} {r : Option WscReg} {x : Reg32} {last : WscP} (hlast : (s.wsc p).latch r x = last)
    (hfits : EraseFits s p last) (hsecs : ∀ k ∈ sectorsOf last.addr.toNat last.len.toNat, s.takesErase k) :
    let u := (wscRun p (s.wsc p) (startErase p) (s.setWsc p ((s.wsc p).latch r x))).modWsc p WscP.ended
    (u.wsc p).st = .busy ∧ (u.wsc p).op = 0x20 ∧ (u.wsc p).step = 0 ∧
      (u.wsc p).eraseLeft = sectorsOf last.addr.toNat last.len.toNat ∧ u.dep.units = s.dep.units ∧
      ∀ k, k / 16384 ∈ sectorsOf last.addr.toNat last.len.toNat → k ∉ u.dep.icache := by
  intro u
  let go := s.setWsc p last
  have hgo : go.wsc p = last := by rw [State.wsc_setWsc, if_pos rfl]
  have hends : SequenceEnds p (startErase p go) u := by
    simp only [u, hlast]
    exact sequenceEnds_wscRun ..
  obtain ⟨w, hstart, hdies⟩ := startErase_of_fits (s := go) (p := p) (hgo.symm ▸ hfits.setWsc last)
    (hgo.symm ▸ fun k hk => State.takesErase_setWsc (hsecs k hk) p last)
  rw [hgo] at hdies
  have hw : w.wsc p = { last with
      op := 0x20, done := 0, eraseLeft := sectorsOf last.addr.toNat last.len.toNat, userSusp := false
      eraseNo := last.eraseNo + 1, eraseOver := false } := by
    rw [hdies.wsc]
    exact (State.wsc_setWsc ..).trans (if_pos rfl)
  have hleft : (w.wsc p).eraseLeft ≠ [] := by
    rw [hw]
    exact sectorsOf_ne_nil fun h => hfits.some (BitVec.eq_of_toNat_eq h)
  have hsettle := portsSettle_settlePort p w
  have hwsc : (startErase p go).wsc p = (w.wsc p).settled .busy := by
    rw [hstart, wsc_settlePort, State.portState_of_erases _ hleft (by rw [hw]) (by rw [hw])]
  rw [hends.wsc, hwsc, hw, hends.units, hends.icache, hstart, hsettle.units, hsettle.icache, hdies.units, hdies.icache]
  refine ⟨rfl, rfl, rfl, rfl, by cases p <;> rfl, fun k hk hmem => ?_⟩
  have hkept := (List.mem_filter.mp hmem).2
  rw [List.contains_iff_mem.mpr hk] at hkept
  cases hkept

/-! ## SUSPEND and RESUME (R246) -/

/-- An erase of a port's last ERASE, changed. -/
def WscP.onErase (v : WscP) (p : WscPort) (f : EraseOp → EraseOp) (e : EraseOp) : EraseOp := if v.owns p e then f e else e

theorem WscP.onErase_of_owns {v : WscP} {p : WscPort} {e : EraseOp} (h : v.owns p e = true) (f : EraseOp → EraseOp) :
    v.onErase p f e = f e := if_pos h

/-- Every erase of a die changed. -/
def Die.mapErases (x : Die) (f : EraseOp → EraseOp) : Die := { x with erase := x.erase.map f, eraseQ := x.eraseQ.map f }

/-- A die that holds an erase holds it changed, and is else as it was but for the erases that wait. -/
theorem die_modErases {s : State} {d : Nat} {e : EraseOp} (p : WscPort) (f : EraseOp → EraseOp) (h : (s.die d).erase = some e) :
    (modErases p f s).die d =
      { s.die d with erase := some ((s.wsc p).onErase p f e), eraseQ := (s.die d).eraseQ.map ((s.wsc p).onErase p f) } := by
  have hlisted : s.die d ≠ Die.init := fun hinit => by rw [hinit] at h; cases h
  have hchanged : (s.die d).mapErases ((s.wsc p).onErase p f) =
      { s.die d with erase := some ((s.wsc p).onErase p f e), eraseQ := (s.die d).eraseQ.map ((s.wsc p).onErase p f) } := by
    rw [Die.mapErases, h]
    rfl
  have hread : (modErases p f s).die d = (s.die d).mapErases ((s.wsc p).onErase p f) :=
    sget_smap_of_ne (f := fun _ x => Die.mapErases x ((s.wsc p).onErase p f)) hlisted fun hinit => by
      cases congrArg Die.erase (hchanged.symm.trans hinit)
  exact hread.trans hchanged

/-- A die whose erase is one of a port's last ERASE begins to suspend it, where that erase runs. -/
def WscP.stops (v : WscP) (p : WscPort) (x : Die) : Die :=
  match x.erase with
  | some e => if v.owns p e ∧ (x.st = .erasing ∨ x.st = .resuming) then { x with st := .suspending } else x
  | none => x

theorem startSuspend_of_erases {p : WscPort} {s : State} (hleft : (s.wsc p).eraseLeft ≠ []) (hsusp : (s.wsc p).userSusp = false) :
    ∃ w, startSuspend p s = settlePort p w ∧ w.wsc p = { s.wsc p with op := 0xB0, userSusp := true } ∧
      ∀ d o, (s.die d).st = .erasing → (s.die d).erase = some o → (s.wsc p).owns p o = true →
        (w.die d).st = .suspending ∧ (w.die d).erase = some { o with userSusp := true } := by
  unfold startSuspend
  extract_lets v s1 stop
  have hgo : (v.eraseLeft.isEmpty || v.userSusp) = false := by simpa [v] using ⟨hleft, hsusp⟩
  rw [hgo, if_neg (by decide)]
  refine ⟨_, rfl, ?_, fun d o hst ho howns => ?_⟩
  · cases p <;> rfl
  · let t := s.setWsc p { v with op := 0xB0, userSusp := true }
    have ht : t.die d = s.die d := State.die_setWsc ..
    have hs1 : s1.die d = _ := die_modErases p (fun e => { e with userSusp := true }) (ht.symm ▸ ho)
    have hown : (t.wsc p).onErase p (fun e => { e with userSusp := true }) o = { o with userSusp := true } := by
      refine WscP.onErase_of_owns ?_ _
      rw [State.wsc_setWsc, if_pos rfl]
      exact howns
    rw [hown, ht] at hs1
    have hstop : v.stops p (s1.die d) = { s1.die d with st := .suspending } := by
      rw [hs1]
      exact if_pos ⟨howns, .inl hst⟩
    have hlisted : s1.die d ≠ Die.init := fun hinit => by
      have := congrArg Die.erase (hs1.symm.trans hinit)
      cases this
    have hdie : sget Die.init (smap Die.init s1.dep.dies (fun _ => v.stops p)) d = v.stops p (s1.die d) := by
      refine sget_smap_of_ne hlisted ?_
      change v.stops p (s1.die d) ≠ Die.init
      rw [hstop]
      exact fun hinit => by cases congrArg Die.st hinit
    rw [hstop, hs1] at hdie
    change (sget Die.init (smap Die.init s1.dep.dies (fun _ => v.stops p)) d).st = _ ∧
      (sget Die.init (smap Die.init s1.dep.dies (fun _ => v.stops p)) d).erase = _
    rw [hdie]
    exact ⟨rfl, rfl⟩

/-- A die whose suspended erase may go on, with nothing else to do, resumes it (R245). -/
theorem Die.choose_resume {x : Die} {e : EraseOp} (hst : x.st = .suspended) (hreads : x.reads = []) (hprogs : x.progs = [])
    (he : x.erase = some e) (hsusp : e.userSusp = false) : x.choose.1 = { x with st := .resuming } := by
  simp [Die.choose, hst, hreads, hprogs, he, hsusp, firstRead]

theorem startResume_of_erases {p : WscPort} {s : State} (hleft : (s.wsc p).eraseLeft ≠ []) (hsusp : (s.wsc p).userSusp = true) :
    ∃ w, startResume p s = settlePort p w ∧ w.wsc p = { s.wsc p with op := 0xD0, userSusp := false, eraseOver := false } ∧
      ∀ d o, d < s.dies → (s.die d).st = .suspended → (s.die d).erase = some o → (s.wsc p).owns p o = true →
        (s.die d).reads = [] → (s.die d).progs = [] → (w.die d).st = .resuming := by
  unfold startResume
  extract_lets v s1
  have hgo : (v.eraseLeft.isEmpty || !v.userSusp) = false := by simpa [v] using ⟨hleft, hsusp⟩
  rw [hgo, if_neg (by decide)]
  refine ⟨_, rfl, ?_, fun d o hd hst ho howns hreads hprogs => ?_⟩
  · rw [(diesGoOn_foldl _ (fun u d => diesGoOn_dieNext d u) _ _).wsc]
    cases p <;> rfl
  · let t := s.setWsc p { v with op := 0xD0, userSusp := false, eraseOver := false }
    have ht : t.die d = s.die d := State.die_setWsc ..
    have hs1 : s1.die d = _ := die_modErases p (fun e => { e with userSusp := false }) (ht.symm ▸ ho)
    have hown : (t.wsc p).onErase p (fun e => { e with userSusp := false }) o = { o with userSusp := false } := by
      refine WscP.onErase_of_owns ?_ _
      rw [State.wsc_setWsc, if_pos rfl]
      exact howns
    rw [hown, ht] at hs1
    rw [die_foldl_dieNext, if_pos hd, Die.choose_resume (by rw [hs1]; exact hst) (by rw [hs1]; exact hreads)
      (by rw [hs1]; exact hprogs) (by rw [hs1]) rfl]

/-! ## The statement -/

/-- The high word of a stage enters nothing else of the port, whatever its value: the kernel must not compute that. -/
theorem WscP.latch_stageHi (v : WscP) (x : Reg32) :
    ∃ a t, v.latch (some .stageHi) x = { v with stage := a, stageTenant := t } := by
  simp only [WscP.latch]
  exact ⟨_, _, rfl⟩

section
variable {v : WscP} {x : Reg32}

theorem WscP.act_programSmall (h : v.step = 3) (hpos : v.pos = 4) (hlen : v.len.toNat / 4 ≤ v.words.length + 1) :
    v.act (some .data) x = .programSmall := by simp only [WscP.act, h, hpos, if_pos hlen]

theorem WscP.act_programBulk (h : v.step = 3) (hpos : v.pos = 5) : v.act (some .stageHi) x = .programBulk := by
  simp only [WscP.act, h, hpos]

theorem WscP.act_erase (h : v.step = 3) (hpos : v.pos = 2) (hcmd : v.cmd = 0x20) : v.act (some .len) x = .erase := by
  simp only [WscP.act, h, hpos, hcmd, beq_self_eq_true, if_true]

end

/-- Settles O35: PROGRAM and ERASE by what their registers and sectors meet, SUSPEND and RESUME by what becomes of a die's erase. -/
theorem portProgramsAndErases : Obligations.PortProgramsAndErases := by
  unfold Obligations.PortProgramsAndErases
  intro p x s d o v bulk last addr free hopen
  refine ⟨?small, ?barred, ?bulk, ?erase, ?suspend, ?resume, ?idle⟩
  case small =>
    intro hstep _ hpos hwords hst halign hwhole hlen hmost hrange hsecs hkey
    refine ⟨_, congrArg Host.Outcome.next (exec_start hopen (WscP.act_programSmall hstep hpos hwords) (f := startProgram p true)
      (by simp [portStarts])), ?_⟩
    exact program_effect true (last := last) rfl ⟨hst, halign, hwhole, hlen, hmost, hrange, fun h => by cases h⟩ hsecs hkey
  case barred =>
    intro hstep _ hpos hwords hst halign hwhole hlen hmost hrange hprot
    refine congrArg Host.Outcome.next ((exec_start hopen (WscP.act_programSmall hstep hpos hwords) (f := startProgram p true)
      (by simp [portStarts])).trans ?_)
    have hgo : (s.setWsc p last).wsc p = last := by rw [State.wsc_setWsc, if_pos rfl]
    have hfits : ProgramFits s p last true := ⟨hst, halign, hwhole, hlen, hmost, hrange, fun h => by cases h⟩
    have hrefused := startProgram_of_protected (s := s.setWsc p last) (p := p) (small := true) (hgo.symm ▸ hfits.setWsc last)
      (by rw [hgo]; exact hprot.imp fun k hk => ⟨hk.1, by rw [State.sector_setWsc]; exact hk.2⟩)
    rw [hgo] at hrefused
    exact congrArg (State.modWsc · p WscP.ended) (wscRun_of_refused (by decide) hrefused (by rw [hgo]; rfl) (by rw [hgo]; rfl))
  case bulk =>
    intro hstep hpos hst halign hwhole hlen hmost hrange hstage hstacked hsecs hkey
    refine ⟨_, congrArg Host.Outcome.next (exec_start hopen (WscP.act_programBulk hstep hpos) (f := startProgram p false)
      (by simp [portStarts])), ?_⟩
    obtain ⟨a, t, hbulk⟩ := WscP.latch_stageHi v x
    rw [show bulk = _ from hbulk] at hstage hstacked
    exact program_effect false hbulk ⟨hst, halign, hwhole, hlen, hmost, hrange, fun _ => ⟨hstage, hstacked⟩⟩ hsecs hkey
  case erase =>
    intro hstep hpos hcmd hst halign hwhole hlen hmost hrange hsecs
    refine ⟨_, congrArg Host.Outcome.next (exec_start hopen (WscP.act_erase hstep hpos hcmd) (f := startErase p) (by simp [portStarts])), ?_⟩
    exact erase_effect (last := v.latch (some .len) x) rfl ⟨hst, halign, hwhole, hlen, hmost, hrange⟩ hsecs
  case suspend =>
    intro hstep hleft hsusp
    refine ⟨_, congrArg Host.Outcome.next (exec_start hopen (WscP.act_suspend hstep) (f := startSuspend p) (by simp [portStarts])), ?_⟩
    let go := s.setWsc p (v.latch (some .cmd) 0xB0)
    have hgo : go.wsc p = v.latch (some .cmd) 0xB0 := by rw [State.wsc_setWsc, if_pos rfl]
    have hends := sequenceEnds_wscRun p v (startSuspend p) go
    obtain ⟨w, hstart, hw, hdies⟩ := startSuspend_of_erases (s := go) (p := p) (hgo.symm ▸ hleft) (hgo.symm ▸ hsusp)
    rw [hends.wsc, hends.die, hstart, wsc_settlePort, (portsSettle_settlePort p w).die, hw, hgo]
    refine ⟨?_, rfl, rfl, fun hst ho howns => hdies d o ?_ ?_ ?_⟩
    · simpa [WscP.ended, WscP.settled, WscP.latch] using hleft
    · rw [State.die_setWsc, hst]
    · rw [State.die_setWsc, ho]
    · rw [hgo]; exact howns
  case resume =>
    intro hstep hleft hsusp
    refine ⟨_, congrArg Host.Outcome.next (exec_start hopen (WscP.act_resume hstep) (f := startResume p) (by simp [portStarts])), ?_⟩
    let go := s.setWsc p (v.latch (some .cmd) 0xD0)
    have hgo : go.wsc p = v.latch (some .cmd) 0xD0 := by rw [State.wsc_setWsc, if_pos rfl]
    have hends := sequenceEnds_wscRun p v (startResume p) go
    obtain ⟨w, hstart, hw, hdies⟩ := startResume_of_erases (s := go) (p := p) (hgo.symm ▸ hleft) (hgo.symm ▸ hsusp)
    rw [hends.wsc, hends.die, hstart, wsc_settlePort, (portsSettle_settlePort p w).die,
      State.portState_of_erases _ (by rw [hw, hgo]; exact hleft) (by rw [hw]) (by rw [hw]), hw]
    refine ⟨rfl, rfl, rfl, fun hd hst ho howns hreads hprogs => hdies d o ?_ ?_ ?_ ?_ ?_ ?_⟩
    · rw [State.dies_setWsc]; exact hd
    · rw [State.die_setWsc, hst]
    · rw [State.die_setWsc, ho]
    · rw [hgo]; exact howns
    · rw [State.die_setWsc, hreads]
    · rw [State.die_setWsc, hprogs]
  case idle =>
    intro hstep hleft
    refine congrArg Host.Outcome.next ((exec_start hopen (WscP.act_suspend hstep) (f := startSuspend p) (by simp [portStarts])).trans ?_)
    have hgo : (s.setWsc p (v.latch (some .cmd) 0xB0)).wsc p = v.latch (some .cmd) 0xB0 := by rw [State.wsc_setWsc, if_pos rfl]
    have hrefused : startSuspend p (s.setWsc p (v.latch (some .cmd) 0xB0)) =
        wscFail p 0 Code.wscSeq unitNone 0 (s.setWsc p (v.latch (some .cmd) 0xB0)) :=
      if_pos (by rw [hgo]; simpa [WscP.latch] using .inl hleft)
    exact congrArg (State.modWsc · p WscP.ended) (wscRun_of_refused (by decide) hrefused (by rw [hgo]; rfl) (by rw [hgo]; rfl))

end Sys2Proof.Machine
end

section
/-! PROOFS, O36. Reads of a depot port (R233, R236, R243, R330); and what a write to model memory leaves alone (R199 to R205). -/

namespace Sys2Proof.Machine

/-! ## A write to model memory enters the memories, memory keys and records alone -/

section
variable {γ : Type} {f : State → γ} (hmem : ∀ s m y, f { s with mtc := m, ten := y } = f s)
  (hrec : ∀ c t unit arg addr s, f (record c t unit arg addr s) = f s)
include hmem

theorem fixMk_keeps {t : Nat} {s u : State} (h : fixMk t s = some u) : f u = f s := by
  unfold fixMk at h
  split at h
  · cases h; rfl
  · obtain ⟨k, -, rfl⟩ := Option.map_eq_some_iff.mp h
    exact hmem s s.mtc _

theorem takeYardFor_keeps {t p : Nat} {s u : State} (h : takeYardFor t s = some (p, u)) : f u = f s := by
  unfold takeYardFor at h
  split at h
  · cases h
  · next w hw =>
    obtain ⟨r, -, hr⟩ := Option.map_eq_some_iff.mp h
    cases hr
    exact (hmem w _ w.ten).trans (fixMk_keeps hmem hw)

theorem giveGranule_keeps {t g : Nat} {s u : State} (h : giveGranule t g s = .ok u) : f u = f s := by
  unfold giveGranule at h
  extract_lets v at h
  split at h
  · next =>
    extract_lets m0 at h
    split at h
    · cases h; exact hmem s _ s.ten
    · split at h
      · cases h
      · split at h
        · cases h
        · split at h
          · cases h
          · next p w hw =>
            cases h
            exact (hmem w _ w.ten).trans ((takeYardFor_keeps hmem hw).trans (hmem s m0 s.ten))
  · cases h; rfl

theorem giveGranules_keeps {t : Nat} {l : List Nat} {s u : State} (h : giveGranules t l s = .ok u) : f u = f s := by
  induction l generalizing s with
  | nil => cases h; rfl
  | cons g r ih =>
    unfold giveGranules at h
    split at h
    · next w hw => exact (ih h).trans (giveGranule_keeps hmem hw)
    · cases h

theorem settleMk_keeps (t : Nat) (s : State) : f (settleMk t s) = f s := by
  unfold settleMk
  split
  · exact hmem s s.mtc _
  · rfl

include hrec

theorem tagResult_keeps (t addr : Nat) (r : PageRead) (s : State) : f (tagResult t addr r s) = f s := by
  unfold tagResult
  split
  · exact hmem s _ s.ten
  · exact (hrec ..).trans (hmem s _ s.ten)

theorem copyLocPage_keeps (t : Nat) (src dst : Loc) (addr : Nat) (s : State) : f (copyLocPage t src dst addr s) = f s := by
  unfold copyLocPage
  extract_lets r s1 off
  have h : f s1 = f s := tagResult_keeps hmem hrec ..
  split
  · split
    · exact h
    · exact (hmem s1 _ s1.ten).trans h
  · exact (hmem s1 _ s1.ten).trans h

theorem switchGranule_keeps {t g : Nat} {src dst : Loc} {s u : State} (h : switchGranule t g src dst s = some u) : f u = f s := by
  obtain ⟨w, hw, rfl⟩ := Option.map_eq_some_iff.mp h
  have hfix : f w = f s := by
    split at hw
    · exact fixMk_keeps hmem hw
    · cases hw; rfl
  refine (settleMk_keeps hmem ..).trans ((hmem _ _ (State.ten _)).trans ?_)
  exact (foldl_keeps f _ _ w fun u i => copyLocPage_keeps hmem hrec ..).trans hfix

theorem refreshGranule_keeps {t g : Nat} {s u : State} (h : refreshGranule t g s = .ok u) : f u = f s := by
  unfold refreshGranule at h
  split at h
  · split at h
    · cases h; rfl
    · split at h
      · cases h
      · next hyard =>
        split at h
        · cases h
        · next hswitch =>
          cases h
          exact (switchGranule_keeps hmem hrec hswitch).trans ((takeYardFor_keeps hmem hyard).trans (hmem s _ s.ten))
  · split at h
    · cases h; rfl
    · split at h
      · cases h
      · next hswitch => cases h; exact switchGranule_keeps hmem hrec hswitch
  · cases h; rfl

theorem refreshGranules_keeps {t : Nat} {l : List Nat} {s u : State} (h : refreshGranules t l s = .ok u) : f u = f s := by
  induction l generalizing s with
  | nil => cases h; rfl
  | cons g r ih =>
    unfold refreshGranules at h
    split at h
    · next w hw => exact (ih h).trans (refreshGranule_keeps hmem hrec hw)
    · cases h

theorem writeLoc_keeps (t : Nat) (l : Loc) (addr : Nat) (data : List MByte) (s : State) : f (writeLoc t l addr data s) = f s := by
  unfold writeLoc
  extract_lets off frame r new s0
  have h : f s0 = f s := by
    unfold s0
    split
    · rfl
    · exact tagResult_keeps hmem hrec ..
  split
  · split
    · rfl
    · exact (hmem s0 _ s0.ten).trans h
  · exact hmem s _ s.ten

theorem modelWrite_keeps {t addr : Nat} {data : List MByte} {s u : State} (h : modelWrite t addr data s = .ok u) : f u = f s := by
  simp only [modelWrite] at h
  split at h
  · cases h
  · next w hw =>
    have hkey : f w = f s := by
      split at hw
      · exact fixMk_keeps hmem hw
      · cases hw; rfl
    cases hgive : giveGranules t (granulesOf addr data.length) w with
    | error c => rw [hgive] at h; cases h
    | ok w1 =>
      rw [hgive] at h
      split at h
      · cases h
      · next w2 hrefresh =>
        cases h
        refine (foldl_keeps f _ _ w2 fun v pc => ?_).trans
          ((refreshGranules_keeps hmem hrec hrefresh).trans ((giveGranules_keeps hmem hgive).trans hkey))
        split
        · rfl
        · exact writeLoc_keeps hmem hrec ..

end

/-- Recording leaves every port's registers as they were. -/
theorem record_wsc (c : BitVec 16) (t : Option Nat) (unit arg addr : Nat) (s : State) (p : WscPort) :
    (record c t unit arg addr s).wsc p = s.wsc p := by
  have hmsix (v : Nat) (s : State) : (msix v s).wsc p = s.wsc p := msix_keeps (State.wsc · p) (fun _ _ _ => by cases p <;> rfl) v s
  have hblock (s : State) : (noteBlock c t unit arg s).wsc p = s.wsc p := by
    unfold noteBlock noteWin
    (repeat' split) <;> cases p <;> rfl
  unfold record
  split
  · rw [hblock]
    cases p <;> rfl
  · rw [hmsix, hblock]
    cases p <;> rfl

theorem modelWrite_wsc {t addr : Nat} {data : List MByte} {s u : State} (h : modelWrite t addr data s = .ok u) (p : WscPort) :
    u.wsc p = s.wsc p :=
  modelWrite_keeps (f := (State.wsc · p)) (fun _ _ _ => by cases p <;> rfl) (fun _ _ _ _ _ _ => record_wsc ..) h

/-! ## Loading the read buffer (R243) -/

theorem WscP.latch_addrHi (v : WscP) (x : Reg32) : ∃ a, v.latch (some .addrHi) x = { v with addr := a } := by
  simp only [WscP.latch]
  exact ⟨_, rfl⟩

section
variable {v : WscP} {x : Reg32} (hstep : v.step = 0) (hst : v.st = .ready)
include hstep hst

theorem WscP.act_readArray : v.act (some .addrHi) x = .readArray := by simp [WscP.act, hstep, hst]
theorem WscP.act_bulkRead : v.act (some .stageHi) x = .bulkRead := by simp [WscP.act, hstep, hst]

end

/-- A port whose read buffer is to be loaded with the unit at a depot address, where it may read that. -/
def WscP.loading (v : WscP) (addr : Nat) (fits : Bool) (keys : Store Bytes) : WscP :=
  { v with
    raddr := addr / 4096 * 4096, rptr := addr % 4096 / 4, rbuf := [], rdReady := false, rpend := fits, shown := false, rkeys := keys }

/-- The port waits for the unit, and its die is asked for it. -/
theorem diesGoOn_loadUnit (p : WscPort) (addr : Nat) (s : State) :
    DiesGoOn (s.setWsc p ((s.wsc p).loading addr (s.portSector p (addr / 2 ^ 26)) s.secrets)) (loadUnit p addr s) := by
  unfold loadUnit
  extract_lets fits s1
  have hdrop : DiesGoOn (s.setWsc p ((s.wsc p).loading addr fits s.secrets)) (dropReads (.port p) s1) := diesGoOn_dropReads ..
  split
  · exact hdrop.trans (diesGoOn_queueRead ..)
  · exact hdrop

theorem wsc_loadUnit (p : WscPort) (addr : Nat) (s : State) :
    (loadUnit p addr s).wsc p = (s.wsc p).loading addr (s.portSector p (addr / 2 ^ 26)) s.secrets := by
  rw [(diesGoOn_loadUnit p addr s).wsc, State.wsc_setWsc, if_pos rfl]

theorem exec_readArrayLoad_of_ready {p : WscPort} {x : Reg32} {s : State} {w : WscP} (hopen : s.portOpen p = true)
    (hstep : (s.wsc p).step = 0) (hst : (s.wsc p).st = .ready) (hw : (s.wsc p).latch (some .addrHi) x = w) :
    exec (.readArrayLoad p x) s = .next (loadUnit p w.addr.toNat (s.setWsc p w)) := by
  have hact := WscP.act_readArray (x := x) hstep hst
  refine congrArg Host.Outcome.next ((portRow_of_act (mine := (· == .readArray)) hact hopen rfl).trans ?_)
  simp only [wscWrite, hact, hw, State.wsc_setWsc, if_true]

/-! ## Bulk reads (R243) -/

/-- A bulk read of the range that a port's registers give. -/
def WscP.reading (v : WscP) (keys : Store Bytes) : WscP :=
  { v with
    done := 0, bulkPos := v.addr.toNat, bulkEnd := v.addr.toNat + v.len.toNat, bulkTenant := v.stageTenant.toNat
    bulkStage := v.stage.toNat, bulkKeys := keys }

theorem diesGoOn_bulkNext {p : WscPort} {s : State} (h : (s.wsc p).bulkPos < (s.wsc p).bulkEnd) : DiesGoOn s (bulkNext p s) := by
  unfold bulkNext
  extract_lets v sec
  rw [if_neg (Nat.not_le.mpr h)]
  split
  · exact .refl s
  · exact diesGoOn_queueRead ..

/-- A bulk read's next unit, or its end, leaves the memories as they are, and of its port all but the key slots' secrets that it held. -/
theorem bulkNext_keeps (p : WscPort) (s : State) :
    (bulkNext p s).mtc = s.mtc ∧ ∃ keys, (bulkNext p s).wsc p = { s.wsc p with bulkKeys := keys } := by
  by_cases h : (s.wsc p).bulkPos < (s.wsc p).bulkEnd
  · have hgo := diesGoOn_bulkNext h
    exact ⟨hgo.mtc, _, hgo.wsc p⟩
  · unfold bulkNext
    extract_lets v sec
    rw [if_pos (Nat.not_lt.mp h)]
    exact ⟨by cases p <;> rfl, [], by rw [State.wsc_modWsc, if_pos rfl]⟩

/-- A bulk read in range starts: its port has it to do. -/
theorem startBulkRead_of_fits {p : WscPort} {s : State} (hlen : (s.wsc p).len ≠ 0) (hmost : (s.wsc p).len.toNat ≤ 2 ^ 30)
    (hstage : (s.wsc p).stage.toNat % 4096 = 0) (hrange : s.portRange p (s.wsc p).addr.toNat (s.wsc p).len.toNat = true) :
    ∃ w, startBulkRead p s = settlePort p w ∧ w.wsc p = (s.wsc p).reading s.secrets := by
  have hpos : (s.wsc p).len.toNat ≠ 0 := fun h => hlen (BitVec.eq_of_toNat_eq h)
  unfold startBulkRead
  extract_lets v n
  rw [if_neg (by simp only [n, v, hstage, hrange, Bool.not_true, Bool.false_eq_true, or_false, ne_eq, not_true_eq_false]; omega)]
  refine ⟨_, rfl, ?_⟩
  have hset : (s.setWsc p (v.reading s.secrets)).wsc p = v.reading s.secrets := by rw [State.wsc_setWsc, if_pos rfl]
  have hlt : (v.reading s.secrets).bulkPos < (v.reading s.secrets).bulkEnd := Nat.lt_add_of_pos_right (Nat.pos_of_ne_zero hpos)
  rw [← hset] at hlt
  exact ((diesGoOn_bulkNext hlt).wsc p).trans hset

theorem exec_bulkRead_of_fits {p : WscPort} {x : Reg32} {s : State} {b : WscP} (hopen : s.portOpen p = true)
    (hstep : (s.wsc p).step = 0) (hst : (s.wsc p).st = .ready) (hb : (s.wsc p).latch (some .stageHi) x = b) (hlen : b.len ≠ 0)
    (hmost : b.len.toNat ≤ 2 ^ 30) (hstage : b.stage.toNat % 4096 = 0)
    (hrange : s.portRange p b.addr.toNat b.len.toNat = true) :
    ∃ u keys, exec (.bulkRead p x) s = .next u ∧ u.wsc p = (b.reading keys).settled .busy := by
  have hact := WscP.act_bulkRead (x := x) hstep hst
  have hgo : (s.setWsc p b).wsc p = b := by rw [State.wsc_setWsc, if_pos rfl]
  obtain ⟨w, hstart, hw⟩ := startBulkRead_of_fits (p := p) (s := s.setWsc p b) (by rw [hgo]; exact hlen) (by rw [hgo]; exact hmost)
    (by rw [hgo]; exact hstage) (by rw [hgo, State.portRange_setWsc, hrange])
  rw [hgo] at hw
  obtain ⟨o, m, hrun⟩ := wscRun_messaged p (s.wsc p) (startBulkRead p) (s.setWsc p b)
  have hwrite : wscWrite p (some .stageHi) x s = wscRun p (s.wsc p) (startBulkRead p) (s.setWsc p b) := by
    simp only [wscWrite, hact, hb, wscRun]
  refine ⟨_, (s.setWsc p b).secrets, congrArg Host.Outcome.next
    ((portRow_of_act (mine := (· == .bulkRead)) hact hopen rfl).trans hwrite), ?_⟩
  have hpos : b.len.toNat ≠ 0 := fun h => hlen (BitVec.eq_of_toNat_eq h)
  have hworks : (w.wsc p).progLeft ≠ 0 ∨ (w.wsc p).bulkPos < (w.wsc p).bulkEnd := by
    rw [hw]
    exact .inr (Nat.lt_add_of_pos_right (Nat.pos_of_ne_zero hpos))
  rw [hrun, State.wsc_messaged, hstart, wsc_settlePort, State.portState_of_works _ hworks, hw]

/-! ## A unit that comes (R233, R243) -/

/-- The retry counters are all of a state that a reading enters. -/
theorem noteRetries_keeps {γ : Type} (f : State → γ) (hf : ∀ s m r k, f { s with dep := { s.dep with
    retryMax := m, retried := r, uncorr := k } } = f s) (sec unit retries : Nat) (s : State) :
    f (noteRetries sec unit retries s) = f s := by
  unfold noteRetries
  extract_lets lost n
  split
  · rfl
  · exact hf ..

@[simp] theorem noteRetries_frc (sec unit retries : Nat) (s : State) : (noteRetries sec unit retries s).frc = s.frc :=
  noteRetries_keeps State.frc (fun _ _ _ _ => rfl) ..
@[simp] theorem noteRetries_wsc (sec unit retries : Nat) (s : State) (p : WscPort) :
    (noteRetries sec unit retries s).wsc p = s.wsc p :=
  noteRetries_keeps (State.wsc · p) (fun _ _ _ _ => by cases p <;> rfl) ..

/-- A unit without an error stands in the read buffer. -/
def WscP.loaded (v : WscP) (words : List Reg32) : WscP := { v with rdReady := true, rpend := false, rbuf := words, rkeys := [] }

theorem exec_readUnitLoaded_of_good {p : WscPort} {retries : Nat} {ok : Bool} {s : State} (hpend : (s.wsc p).rpend = true)
    (hbusy : s.sectorBusy ((s.wsc p).raddr / sectorBytes) = false)
    (howes : (s.die (s.dieOf ((s.wsc p).raddr / sectorBytes))).owes (.port p) = false)
    (hgot : (s.readUnit (s.wsc p).rkeys ((s.wsc p).raddr / sectorBytes) ((s.wsc p).raddr / 4096 % 16384) retries ok).2 = none) :
    exec (.readUnitLoaded p retries ok) s = .next (fwGo
      ((noteRetries ((s.wsc p).raddr / sectorBytes) ((s.wsc p).raddr / 4096 % 16384) retries s).setWsc p ((s.wsc p).loaded
        (unitWords (s.readUnit (s.wsc p).rkeys ((s.wsc p).raddr / sectorBytes) ((s.wsc p).raddr / 4096 % 16384) retries ok).1)))) := by
  have hready : (!(s.wsc p).rpend || s.sectorBusy ((s.wsc p).raddr / sectorBytes) ||
      (s.die (s.dieOf ((s.wsc p).raddr / sectorBytes))).owes (.port p)) = false := by rw [hpend, hbusy, howes]; rfl
  change execReadUnitLoaded p retries ok s = _
  unfold execReadUnitLoaded
  extract_lets v sec unit r words
  have hr : r.2 = none := hgot
  have hwords : words = unitWords r.1 := if_neg (by rw [hr]; decide)
  rw [show (!v.rpend || s.sectorBusy sec || (s.die (s.dieOf sec)).owes (.port p)) = false from hready, if_neg (by decide), hr,
    hwords, State.modWsc, noteRetries_wsc]
  rfl

/-! ## Reads of WSC_RDATA (R236, R243, R330) -/

/-- The word that a read returns goes to the host, where it is the host's read. -/
def rdataAnswered (p : WscPort) (r : Reg32 × State) : State :=
  match p with
  | .host => emit (.regRead 0x40004C (r.1.setWidth 64)) r.2
  | .fw => r.2

section
variable {p : WscPort} {s : State}

theorem exec_wscRdataRead_of_reads (h : s.portReads p = true) :
    exec (.wscRdataRead p) s = .next (rdataAnswered p (rdataRead p s)) := by
  change execWscRdataRead p s = _
  have hd3 : ¬ (p = .host ∧ s.glb.portUp = true ∧ s.glb.d3hot = true) := by
    rintro ⟨rfl, -, hd3⟩
    simp [State.portReads, hd3] at h
  simp only [execWscRdataRead, if_neg hd3, h, Bool.not_true, Bool.false_eq_true, if_false]
  cases p <;> rfl

theorem rdataRead_of_shown (h : (s.wsc p).shown = true) : rdataRead p s = ((s.wsc p).rdata, s) := by
  simp only [rdataRead, h, Bool.true_or, if_true]

variable (hshown : (s.wsc p).shown = false) (hst : (s.wsc p).st = .ready) (hstep : (s.wsc p).step = 0)
  (hbusy : s.sectorBusy ((s.wsc p).raddr / sectorBytes) = false)
include hshown hst hstep hbusy

theorem rdataRead_of_word {w : Reg32} (hready : (s.wsc p).rdReady = true) (hptr : (s.wsc p).rptr < 1023)
    (hw : (s.wsc p).rbuf[(s.wsc p).rptr]? = some w) :
    rdataRead p s = (w, s.setWsc p { s.wsc p with rptr := (s.wsc p).rptr + 1, rdata := w }) := by
  have hmore : (s.wsc p).rptr + 1 < 1024 := by omega
  simp [rdataRead, hshown, hst, hstep, hbusy, hready, List.getD_eq_getElem?_getD, hw, if_pos hmore, State.modWsc]

theorem rdataRead_of_unready (hready : (s.wsc p).rdReady = false) :
    rdataRead p s = (0xFFFFFFFF, s.setWsc p { s.wsc p with err := (s.wsc p).err ||| 0x400 }) := by
  simp [rdataRead, hshown, hst, hstep, hbusy, hready, State.modWsc]

end

/-! ## Units read (R233, R243) -/

section
variable {sector unit retries : Nat} {ok : Bool} {s : State} (huser : s.isUser sector = true) (hunit : unit < 16384)
  (hbusy : s.sectorBusy sector = false)
include huser hunit hbusy

theorem exec_depotUnitRead_of_nobody (hhost : (s.wsc .host).bulkEnd ≤ (s.wsc .host).bulkPos)
    (hfw : (s.wsc .fw).bulkEnd ≤ (s.wsc .fw).bulkPos) (hgot : (s.readUnit s.secrets sector unit retries ok).2 = none) :
    exec (.depotUnitRead sector unit retries ok) s = .next (noteRetries sector unit retries s) := by
  change execDepotUnitRead sector unit retries ok s = _
  simp [execDepotUnitRead, huser, hunit, hbusy, hgot, Nat.not_lt.mpr hhost, Nat.not_lt.mpr hfw]

/-- A port's bulk read after a unit of 4 KiB has gone to its stage. -/
def WscP.unitOn (v : WscP) : WscP :=
  { v with bulkPos := v.bulkPos + 4096, bulkStage := v.bulkStage + 4096, done := v.done + 4096 }

/-- The unit that a port's bulk read waited for is there, and the read goes on. -/
def bulkUnitOn (p : WscPort) (s : State) : State :=
  settlePort p (bulkNext p (dropReads (.bulk p) (s.modWsc p WscP.unitOn)))

omit huser hunit hbusy in
theorem bulkUnitOn_keeps (p : WscPort) (s : State) :
    (bulkUnitOn p s).mtc = s.mtc ∧ ((bulkUnitOn p s).wsc p).bulkPos = (s.wsc p).bulkPos + 4096 ∧
      ((bulkUnitOn p s).wsc p).bulkStage = (s.wsc p).bulkStage + 4096 ∧ ((bulkUnitOn p s).wsc p).done = (s.wsc p).done + 4096 := by
  have hdrop := diesGoOn_dropReads (.bulk p) (s.modWsc p WscP.unitOn)
  have hset := portsSettle_settlePort p (bulkNext p (dropReads (.bulk p) (s.modWsc p WscP.unitOn)))
  obtain ⟨hmtc, keys, hwsc⟩ := bulkNext_keeps p (dropReads (.bulk p) (s.modWsc p WscP.unitOn))
  have hon : (s.modWsc p WscP.unitOn).wsc p = (s.wsc p).unitOn := by rw [State.wsc_modWsc, if_pos rfl]
  refine ⟨hset.mtc.trans (hmtc.trans (hdrop.mtc.trans (by cases p <;> rfl))), ?_⟩
  rw [bulkUnitOn, hset.wsc p, hwsc, hdrop.wsc p, hon]
  exact ⟨rfl, rfl, rfl⟩

theorem exec_depotUnitRead_of_host {s2 : State} (hpos : (s.wsc .host).bulkPos = sector * 2 ^ 26 + unit * 4096)
    (hend : (s.wsc .host).bulkPos + 4096 ≤ (s.wsc .host).bulkEnd)
    (howes : (s.die (s.dieOf sector)).owes (.bulk .host) = false)
    (hgot : (s.readUnit (s.wsc .host).bulkKeys sector unit retries ok).2 = none)
    (hwrite : modelWrite (s.wsc .host).bulkTenant (s.wsc .host).bulkStage
      ((s.readUnit (s.wsc .host).bulkKeys sector unit retries ok).1.take 4096) (noteRetries sector unit retries s) = .ok s2) :
    exec (.depotUnitRead sector unit retries ok) s = .next (bulkUnitOn .host s2) := by
  have haddr : (s.wsc .host).bulkPos = sectorBytes * sector + unit * 4096 := by rw [hpos, sectorBytes, Nat.mul_comm]
  have hmine : (decide ((s.wsc .host).bulkPos < (s.wsc .host).bulkEnd) &&
      (s.wsc .host).bulkPos / 4096 * 4096 == sectorBytes * sector + unit * 4096) = true := by
    have hlt : (s.wsc .host).bulkPos < (s.wsc .host).bulkEnd := by omega
    have hwhole : (sectorBytes * sector + unit * 4096) / 4096 * 4096 = sectorBytes * sector + unit * 4096 := by
      unfold sectorBytes
      omega
    rw [haddr] at hlt ⊢
    simp [hlt, hwhole]
  have hn : min 4096 ((s.wsc .host).bulkEnd - (s.wsc .host).bulkPos) = 4096 := by omega
  change execDepotUnitRead sector unit retries ok s = _
  have hoff : (s.wsc .host).bulkPos - (sectorBytes * sector + unit * 4096) = 0 := by rw [haddr]; exact Nat.sub_self _
  simp only [execDepotUnitRead, huser, Bool.true_or, Bool.not_true, Bool.false_or, Nat.not_le.mpr hunit, decide_false,
    Bool.false_eq_true, if_false, hmine, if_true, hbusy, howes, Bool.and_false, hgot, noteUnit, hoff, Nat.sub_zero, hn,
    List.drop_zero, hwrite]
  rfl

end

/-- Settles O36: each command by its equation; what the read buffer, the bulk read and the retries make of the port by the lemmas above. -/
theorem portReads : Obligations.PortReads := by
  unfold Obligations.PortReads
  intro p x w retries sector unit ok s s2 v sec got addr bulk
  refine ⟨?load, ?bulk, ?loaded, ?shown, ?word, ?unready, ?d3hot, ?nobody, ?host⟩
  case load =>
    intro hopen hstep hst hsector
    obtain ⟨a, hlatch⟩ := WscP.latch_addrHi v x
    rw [show addr = a.toNat from congrArg (fun v => v.addr.toNat) hlatch] at hsector ⊢
    refine ⟨_, exec_readArrayLoad_of_ready hopen hstep hst hlatch, ?_⟩
    rw [wsc_loadUnit, State.wsc_setWsc, if_pos rfl, State.portSector_setWsc]
    exact ⟨rfl, rfl, rfl, rfl, hsector⟩
  case bulk =>
    intro hopen hstep hst hlen hmost hstage hrange
    obtain ⟨a, t, hlatch⟩ := WscP.latch_stageHi v x
    rw [show bulk = _ from hlatch] at hstage ⊢
    obtain ⟨u, keys, hu, hwsc⟩ := exec_bulkRead_of_fits hopen hstep hst hlatch hlen hmost hstage hrange
    refine ⟨u, hu, ?_⟩
    rw [hwsc]
    exact ⟨rfl, rfl, rfl, rfl, rfl, rfl⟩
  case loaded =>
    intro hpend hbusy howes hgot
    refine ⟨_, exec_readUnitLoaded_of_good hpend hbusy howes hgot, ?_, ?_⟩
    · rw [State.setWsc_frc, noteRetries_frc]
    · rw [State.wsc_setWsc, if_pos rfl]
      rfl
  case shown =>
    intro hreads hshown
    rw [exec_wscRdataRead_of_reads hreads, rdataRead_of_shown hshown]
    cases p <;> rfl
  case word =>
    intro hreads hshown hst hstep hbusy hready hptr hw
    rw [exec_wscRdataRead_of_reads hreads, rdataRead_of_word hshown hst hstep hbusy hready hptr hw]
    cases p <;> rfl
  case unready =>
    intro hreads hshown hst hstep hbusy hready
    rw [exec_wscRdataRead_of_reads hreads, rdataRead_of_unready hshown hst hstep hbusy hready]
    cases p <;> rfl
  case d3hot => exact fun hup hd3 => if_pos ⟨rfl, hup, hd3⟩
  case nobody => exact fun huser hunit hbusy hhost hfw hgot => exec_depotUnitRead_of_nobody huser hunit hbusy hhost hfw hgot
  case host =>
    intro huser hunit hbusy hpos h r hend howes hgot hwrite
    refine ⟨_, exec_depotUnitRead_of_host huser hunit hbusy hpos hend howes hgot hwrite, ?_⟩
    obtain ⟨hmtc, hwsc⟩ := bulkUnitOn_keeps .host s2
    have hs2 : s2.wsc .host = h := (modelWrite_wsc hwrite .host).trans (noteRetries_wsc ..)
    rw [hs2] at hwsc
    exact ⟨hmtc, hwsc⟩

end Sys2Proof.Machine
end

section
/-! PROOFS, O37. What the flash dies finish, and the cores' fetches (R239, R241, R244 to R248, R302). -/

namespace Sys2Proof.Machine

/-! ## Faults and the summary -/

/-- A fault sets its class's summary bit (R378). -/
theorem record_summary_of_fault {c : BitVec 16} (h : isFault c = true) {i : Nat} (hclass : codeClass c = i + 1) (hi : i < 10)
    (t : Option Nat) (unit arg addr : Nat) (s : State) : (record c t unit arg addr s).frc.summary.getLsbD i = true := by
  have hnote := noteBlock_keeps State.frc (fun _ _ _ _ => rfl) c t unit arg
  have hbit (f : Frc) (now : Nat) : (f.count now c t).summary.getLsbD i = true := by
    rw [Frc.count_summary f now h, BitVec.getLsbD_or, BitVec.getLsbD_ofNat, hclass, Nat.add_sub_cancel, Nat.testBit_two_pow_self]
    simp [hi]
  unfold record
  split
  · rw [hnote]
    exact hbit ..
  · rw [msix_keeps State.frc (fun _ _ _ => rfl), hnote]
    exact hbit ..

/-- A command of a port that fails with a fault of the depot sets its error bit and the depot's summary bit, and enters nothing else but
records and messages. -/
theorem wscFail_of_fault {c : BitVec 16} (h : isFault c = true) (hclass : codeClass c = 5) (p : WscPort) (bit unit addr : Nat) (s : State) :
    DiesGoOn (s.modWsc p (fun v => { v with err := v.err ||| BitVec.ofNat 13 (2 ^ bit) })) (wscFail p bit c unit addr s) ∧
      (wscFail p bit c unit addr s).frc.summary.getLsbD 4 = true :=
  ⟨diesGoOn_record hclass .., record_summary_of_fault h (i := 4) hclass (by decide) ..⟩

theorem State.modWsc_congr {s : State} {p : WscPort} {f g : WscP → WscP} (h : f (s.wsc p) = g (s.wsc p)) :
    s.modWsc p f = s.modWsc p g := congrArg (s.setWsc p) h

/-- What a change elsewhere in the depot leaves of a port. -/
theorem State.wsc_of_dep (s : State) (x : Dep) (p : WscPort) (hhost : x.host = s.dep.host) (hfw : x.fw = s.dep.fw) :
    ({ s with dep := x } : State).wsc p = s.wsc p := by
  cases p
  · exact hhost
  · exact hfw

theorem wsc_modSector (k : Nat) (f : Sector → Sector) (s : State) (p : WscPort) : (s.modSector k f).wsc p = s.wsc p :=
  State.wsc_of_dep s _ p rfl rfl

theorem wsc_writeHeader (k : Nat) (f : Sector → Sector) (s : State) (p : WscPort) : (s.writeHeader k f).wsc p = s.wsc p :=
  State.wsc_of_dep s _ p rfl rfl

theorem State.units_modWsc (s : State) (p : WscPort) (f : WscP → WscP) : (s.modWsc p f).dep.units = s.dep.units := by
  cases p <;> rfl
theorem State.line_modWsc (s : State) (p : WscPort) (f : WscP → WscP) : (s.modWsc p f).dep.line = s.dep.line := by
  cases p <;> rfl

/-! ## Every die goes on, and the ports settle -/

/-- What every command of the dies ends with: each die goes on, and the ports settle. -/
def diesOn (n : Nat) (s : State) : State := settlePorts ((List.range n).foldl (fun s d => dieNext d s) s)

section
variable (n : Nat) (s : State)

theorem diesGoOn_range : DiesGoOn s ((List.range n).foldl (fun s d => dieNext d s) s) := diesGoOn_foldl _ (fun u d => diesGoOn_dieNext d u) ..

theorem diesOn_wsc (p : WscPort) :
    (diesOn n s).wsc p = { s.wsc p with st := ((diesOn n s).wsc p).st, userSusp := ((diesOn n s).wsc p).userSusp } := by
  have h := (portsSettle_settlePorts ((List.range n).foldl (fun s d => dieNext d s) s)).wsc p
  rw [(diesGoOn_range n s).wsc] at h
  exact h

theorem diesOn_units : (diesOn n s).dep.units = s.dep.units := (portsSettle_settlePorts _).units.trans (diesGoOn_range n s).units
theorem diesOn_line : (diesOn n s).dep.line = s.dep.line := (portsSettle_settlePorts _).line.trans (diesGoOn_range n s).line

theorem diesOn_wptr (k : Nat) : ((diesOn n s).sector k).wptr = (s.sector k).wptr := by
  rw [diesOn, (portsSettle_settlePorts _).sector, (diesGoOn_range n s).wptr]

theorem diesOn_kslot (k : Nat) : ((diesOn n s).sector k).kslot = (s.sector k).kslot := by
  rw [diesOn, (portsSettle_settlePorts _).sector, (diesGoOn_range n s).kslot]

theorem diesOn_undef (k : Nat) : ((diesOn n s).sector k).undef = (s.sector k).undef := by
  rw [diesOn, (portsSettle_settlePorts _).sector, (diesGoOn_range n s).undef]

theorem diesOn_summary {i : Nat} (h : s.frc.summary.getLsbD i = true) : (diesOn n s).frc.summary.getLsbD i = true := by
  rw [diesOn, (portsSettle_settlePorts _).frc]
  exact (diesGoOn_range n s).summary i h

end

/-! ## Program units (R239, R244) -/

section
variable {d : Fin 16} {u : ProgUnit} {s : State}

/-- The 32 units of a program unit stand in its sector. -/
theorem sget_putUnits (u : ProgUnit) (s : State) {i : Nat} (hi : i < 32) :
    sget none (putUnits u s).dep.units (unitKey u.sector (u.unit * 32 + i)) = some (s.unitData u i) := by
  have hkey : unitKey u.sector (u.unit * 32 + i) = unitKey u.sector (u.unit * 32) + i := by simp only [unitKey]; omega
  simp only [putUnits]
  rw [sget_ssetRun, hkey, if_pos (by simp only [List.length_map, List.length_range]; omega), Nat.add_sub_cancel_left,
    List.getD_eq_getElem?_getD]
  simp [hi]

theorem State.unitData_of_filler {i : Nat} (h : i < u.lo ∨ u.hi ≤ i) (s : State) : s.unitData u i = .filler := if_pos h

/-- A program unit's place and key, entered in its sector while its die is freed. -/
def unitTouched (d : Nat) (u : ProgUnit) (s : State) : State :=
  touchUnit u (s.modDie d (fun x => { x.free with progs := x.progs.tail }))

theorem sector_unitTouched (d : Nat) (u : ProgUnit) (s : State) :
    ((unitTouched d u s).sector u.sector).wptr = max (s.sector u.sector).wptr (u.unit + 1) ∧
      ((unitTouched d u s).sector u.sector).kslot = u.slot := by
  rw [unitTouched, touchUnit, State.sector_writeHeader, if_pos rfl]
  exact ⟨rfl, rfl⟩

/-- The port of a program unit that has been written. -/
def WscP.unitDone (v : WscP) (u : ProgUnit) : WscP := { v with progLeft := v.progLeft - 1, done := v.done + 4096 * (u.hi - u.lo) }

/-- What a program unit that is done leaves before the dies go on. -/
def unitWritten (d : Nat) (u : ProgUnit) (s : State) : State :=
  (putUnits u (unitTouched d u s)).modWsc u.port (fun v => v.unitDone u)

theorem wsc_unitTouched (d : Nat) (u : ProgUnit) (s : State) (p : WscPort) : (putUnits u (unitTouched d u s)).wsc p = s.wsc p :=
  (State.wsc_of_dep (unitTouched d u s) _ p rfl rfl).trans ((wsc_writeHeader ..).trans (State.wsc_of_dep s _ p rfl rfl))

theorem wsc_unitWritten (d : Nat) (u : ProgUnit) (s : State) : (unitWritten d u s).wsc u.port = (s.wsc u.port).unitDone u := by
  rw [unitWritten, State.wsc_modWsc, if_pos rfl, wsc_unitTouched]

theorem sector_unitWritten (d : Nat) (u : ProgUnit) (s : State) (k : Nat) :
    (unitWritten d u s).sector k = (unitTouched d u s).sector k := State.sector_setWsc ..

theorem sget_unitWritten (d : Nat) (u : ProgUnit) (s : State) {i : Nat} (hi : i < 32) :
    sget none (unitWritten d u s).dep.units (unitKey u.sector (u.unit * 32 + i)) = some ((unitTouched d u s).unitData u i) := by
  rw [← sget_putUnits u (unitTouched d u s) hi, unitWritten, State.units_modWsc]

variable (hrun : (s.die d).running = some u) (hin : s.inHand u = true)
include hrun hin

theorem exec_dieProgramUnitDone_of_written : exec (.dieProgramUnitDone d false) s =
    .next (fwGo (diesOn s.dies (unitWritten d u s))) := by
  change execDieProgramUnitDone d false s = _
  simp only [execDieProgramUnitDone, hrun, hin, Bool.not_false, if_true]
  rfl

/-- The units of the same PROGRAM that no die has begun are withdrawn. -/
def progsDropped (u : ProgUnit) (s : State) : State :=
  { s with dep := { s.dep with dies := smap Die.init s.dep.dies (fun d (x : Die) => { x with
      progs := x.progs.zipIdx.filterMap (fun e =>
        if e.1.port ≠ u.port ∨ e.1.no ≠ u.no ∨ (e.2 = 0 ∧ (s.die d).running.isSome) then some e.1 else none) }) } }

theorem exec_dieProgramUnitDone_of_failed : exec (.dieProgramUnitDone d true) s =
    .next (fwGo (diesOn s.dies (wscFail u.port 6 Code.programFail (unitDie d) (sectorBytes * u.sector + u.unit * 131072)
      ((progsDropped u (unitTouched d u s)).modWsc u.port (fun v => { v with progLeft := 0 }))))) := by
  change execDieProgramUnitDone d true s = _
  simp only [execDieProgramUnitDone, hrun, hin, Bool.not_true, Bool.false_eq_true, if_false]
  rfl

end

/-! ## Erases (R241) -/

section
variable {d : Fin 16} {e : EraseOp} {s : State}

/-- A die's erase is over. -/
def eraseOff (d : Nat) (s : State) : State := s.modDie d (fun x => { x with st := .idle, erase := none })

theorem wsc_eraseOff (d : Nat) (s : State) (p : WscPort) : (eraseOff d s).wsc p = s.wsc p := State.wsc_of_dep s _ p rfl rfl

/-- A sector's header after an erase: no write pointer, no key slot, and its units are defined. -/
def headerCleared (k : Nat) (s : State) : State :=
  (s.writeHeader k (fun h => { h with wptr := 0, kslot := 0x3F })).modSector k (fun h => { h with undef := false })

/-- A sector cleared: its header, its units and its cached line. -/
def sectorCleared (k : Nat) (s : State) : State :=
  let s1 := headerCleared k s
  { s1 with dep := { s1.dep with
      units := sclear s1.dep.units (unitKey k 0) (unitKey (k + 1) 0)
      line := s1.dep.line.filter (fun j => j != k) } }

theorem sector_sectorCleared (k : Nat) (s : State) : ((sectorCleared k s).sector k).wptr = 0 ∧
    ((sectorCleared k s).sector k).kslot = 0x3F ∧ ((sectorCleared k s).sector k).undef = false := by
  simp [sectorCleared, headerCleared, State.sector, State.modSector, State.writeHeader]

theorem wsc_sectorCleared (k : Nat) (s : State) (p : WscPort) : (sectorCleared k s).wsc p = s.wsc p :=
  (State.wsc_of_dep (headerCleared k s) _ p rfl rfl).trans ((wsc_modSector ..).trans (wsc_writeHeader ..))

/-- A sector that is not in the line and of whose units none is stored holds nothing. -/
theorem State.storedUnit_of_cleared {s u : State} {k i : Nat} (hunits : u.dep.units = (sectorCleared k s).dep.units)
    (hline : u.dep.line = (sectorCleared k s).dep.line) (hi : i < 16384) : u.storedUnit k i = none := by
  have hunit : sget none u.dep.units (unitKey k i) = none := by
    rw [hunits]
    simp only [sectorCleared]
    rw [sget_sclear, if_pos (by simp only [unitKey]; omega)]
  have hout : u.dep.line.contains k = false := by
    rw [hline]
    simp [sectorCleared]
  rw [State.storedUnit, hunit, hout]
  rfl

/-- The port of an erase that is done: the sector is no longer among those left, and counts while no erase of its ERASE has failed. -/
def WscP.sectorDone (v : WscP) (e : EraseOp) : WscP :=
  { v with eraseLeft := v.eraseLeft.erase e.sector, done := if v.eraseOver then v.done else v.done + sectorBytes }

/-- The port of an erase that has failed. -/
def WscP.sectorLost (v : WscP) (e : EraseOp) : WscP := { v with eraseLeft := v.eraseLeft.erase e.sector, eraseOver := true }

theorem wsc_drawn (s : State) (p : WscPort) : (drawn s).wsc p = s.wsc p := by cases p <;> rfl
theorem sector_drawn (s : State) (k : Nat) : (drawn s).sector k = s.sector k := rfl

theorem WscP.done_sectorDone {v : WscP} (h : v.eraseOver = false) : (v.sectorDone e).done = v.done + sectorBytes := by
  simp [WscP.sectorDone, h]

/-- What an erase that is done leaves before the dies go on. -/
def erased (d : Nat) (e : EraseOp) (s : State) : State :=
  drawn ((sectorCleared e.sector (eraseOff d s)).modWsc e.port (fun v => v.sectorDone e))

theorem wsc_erased (d : Nat) (e : EraseOp) (s : State) : (erased d e s).wsc e.port = (s.wsc e.port).sectorDone e := by
  rw [erased, wsc_drawn, State.wsc_modWsc, if_pos rfl, wsc_sectorCleared, wsc_eraseOff]

theorem sector_erased (d : Nat) (e : EraseOp) (s : State) : ((erased d e s).sector e.sector).wptr = 0 ∧
    ((erased d e s).sector e.sector).kslot = 0x3F ∧ ((erased d e s).sector e.sector).undef = false := by
  rw [erased, sector_drawn, State.modWsc, State.sector_setWsc]
  exact sector_sectorCleared ..

theorem storedUnit_erased {d : Nat} {e : EraseOp} {s u : State} {i : Nat} (hunits : u.dep.units = (erased d e s).dep.units)
    (hline : u.dep.line = (erased d e s).dep.line) (hi : i < 16384) : u.storedUnit e.sector i = none :=
  State.storedUnit_of_cleared (s := eraseOff d s) (hunits.trans (by rw [erased, drawn, State.units_modWsc]))
    (hline.trans (by rw [erased, drawn, State.line_modWsc])) hi

variable (hst : (s.die d).st = .erasing) (he : (s.die d).erase = some e) (howns : (s.wsc e.port).owns e.port e = true)
include hst he howns

theorem exec_dieEraseDone_of_erased : exec (.dieEraseDone d false) s =
    .next (fwGo (diesOn s.dies (erased d e s))) := by
  have hpart : ((sectorCleared e.sector (eraseOff d s)).wsc e.port).owns e.port e = true := by
    rw [wsc_sectorCleared, wsc_eraseOff, howns]
  change execDieEraseDone d false s = _
  simp only [execDieEraseDone, hst, he, if_true, Bool.false_eq_true, if_false]
  refine congrArg (fun s2 => Host.Outcome.next (fwGo (diesOn s.dies (drawn s2))))
    (State.modWsc_congr (s := sectorCleared e.sector (eraseOff d s)) ?_)
  exact if_pos hpart

theorem exec_dieEraseDone_of_failed : exec (.dieEraseDone d true) s =
    .next (fwGo (diesOn s.dies (drawn (wscFail e.port 7 Code.eraseFail (unitDie d) (sectorBytes * e.sector)
      (((eraseOff d s).modSector e.sector (fun h => { h with undef := true })).modWsc e.port (fun v => v.sectorLost e)))))) := by
  have hpart : (((eraseOff d s).modSector e.sector (fun h => { h with undef := true })).wsc e.port).owns e.port e = true := by
    rw [wsc_modSector, wsc_eraseOff, howns]
  change execDieEraseDone d true s = _
  simp only [execDieEraseDone, hst, he, if_true]
  refine congrArg (fun s2 => Host.Outcome.next (fwGo (diesOn s.dies (drawn (wscFail e.port 7 Code.eraseFail (unitDie d)
    (sectorBytes * e.sector) s2))))) (State.modWsc_congr ?_)
  exact if_pos hpart

end

/-! ## Reads at a die (R244, R245, R247) -/

/-- A die that has read chooses anew, with what is left of the run among its reads. -/
def Die.readDone (x : Die) : Die := { x.free with reads := x.rest ++ x.reads }

/-- A die that was changed, and then went on, does what it chooses. -/
theorem die_settled_dieNext (d : Nat) (f : Die → Die) (s : State) :
    (settlePorts (dieNext d (s.modDie d f))).die d = (f (s.die d)).choose.1 := by
  rw [(portsSettle_settlePorts _).die, die_dieNext, if_pos rfl, State.die_modDie, if_pos rfl]

section
variable {d : Fin 16} {s : State}

theorem exec_dieReadDone_of_reading {m : List UnitErr} (hst : (s.die d).st = .reading)
    (hman : (s.die d).rest = [] → ∀ a b, (s.die d).reading.map DieRead.who ≠ some (.manifest a b)) :
    exec (.dieReadDone d m) s = .next (settlePorts (dieNext d (s.modDie d Die.readDone))) := by
  change execDieReadDone d m s = _
  unfold execDieReadDone
  extract_lets x s1
  rw [if_pos (.inl hst)]
  refine congrArg Host.Outcome.next ?_
  split
  · next t c hread =>
    split at hread
    · next hrest => exact absurd hread (hman hrest t c)
    · cases hread
  · rfl

theorem exec_dieSuspended_of_suspending (hst : (s.die d).st = .suspending) :
    exec (.dieSuspended d) s = .next (settlePorts (dieNext d (s.modDie d (fun x => { x with st := .suspended })))) := if_pos hst

theorem exec_depotReadRequest_of_lt {c : Fin 5} (hd : d.val < s.dies) :
    exec (.depotReadRequest d c) s = .next (settlePorts (queueRead d ⟨c, .other, 0⟩ s)) := if_pos hd

end

section
variable {x : Die} {r v : DieRead}

/-- What a die that has read chooses where nothing waits. -/
theorem Die.choose_readDone_of_idle (hst : x.st = .reading) (hrest : x.rest = []) (hreads : x.reads = []) (hprogs : x.progs = [])
    (herase : x.eraseQ = []) : x.readDone.choose.1 = { x with st := .idle, reading := none } := by
  simp [Die.choose, Die.readDone, Die.free, hst, hrest, hreads, hprogs, herase, firstRead]

theorem Die.rest_of_more (hr : x.reading = some r) (hmore : r.more ≠ 0) : x.rest = [{ r with more := r.more - 1 }] := by
  simp [Die.rest, hr, hmore]

/-- The rest of a run goes on where nothing else waits. -/
theorem Die.choose_readDone_of_run (hst : x.st = .reading) (hrest : x.rest = [v]) (hreads : x.reads = []) :
    x.readDone.choose.1 = { x with reading := some v } := by
  simp [Die.choose, Die.readDone, Die.free, hst, hrest, hreads, firstRead]

/-- A read of a higher class goes before the rest of a run. -/
theorem Die.choose_readDone_of_higher (hst : x.st = .reading) (hrest : x.rest = [r]) (hreads : x.reads = [v]) (hcls : v.cls < r.cls) :
    x.readDone.choose.1 = { x with reading := some v, reads := [r] } := by
  have hne : r ≠ v := fun h => by rw [h] at hcls; exact lt_irrefl _ hcls
  simp [Die.choose, Die.readDone, Die.free, hst, hrest, hreads, firstRead, hcls, hne]

/-- A die that has suspended its erase serves the read that waits. -/
theorem Die.choose_suspended (hreads : x.reads = [r]) :
    ({ x with st := .suspended } : Die).choose.1 = { x with st := .suspReading, reading := some r, reads := [] } := by
  simp [Die.choose, hreads, firstRead]

end

section
variable {d : Nat} {e : EraseOp} {r : DieRead} {s : State} (hst : (s.die d).st = .erasing) (he : (s.die d).erase = some e)
include hst he

/-- A read at a die that erases: the erase is suspended unless it is aged and guarded. -/
theorem queueRead_of_erasing : queueRead d r s =
    if e.aged && (s.wsc e.port).ageGuard then s.modDie d (fun x => { x with reads := x.reads ++ [r] })
    else autoSuspend d e (s.modDie d (fun x => { x with reads := x.reads ++ [r] })) := by
  have hdie : (s.modDie d (fun x => { x with reads := x.reads ++ [r] })).die d = { s.die d with reads := (s.die d).reads ++ [r] } := by
    rw [State.die_modDie, if_pos rfl]
  unfold queueRead
  extract_lets s1 x
  have hx : x = { s.die d with reads := (s.die d).reads ++ [r] } := hdie
  have hxe : x.erase = some e := by rw [hx, he]
  rw [hxe]
  exact if_pos (.inl (by rw [hx]; exact hst))

theorem die_queueRead_of_suspends (hopen : e.aged = false ∨ (s.wsc e.port).ageGuard = false) :
    (settlePorts (queueRead d r s)).die d = { s.die d with
      st := .suspending, reads := (s.die d).reads ++ [r]
      erase := some { e with autoSusp := e.autoSusp + 1, aged := e.aged || e.autoSusp + 1 == 10000 } } := by
  have hguard : (e.aged && (s.wsc e.port).ageGuard) = false := by rcases hopen with h | h <;> simp [h]
  rw [(portsSettle_settlePorts _).die, queueRead_of_erasing hst he, hguard, if_neg (by decide), die_autoSuspend, State.die_modDie,
    if_pos rfl]

theorem die_queueRead_of_guarded (haged : e.aged = true) (hguard : (s.wsc e.port).ageGuard = true) :
    (settlePorts (queueRead d r s)).die d = { s.die d with reads := (s.die d).reads ++ [r] } := by
  rw [(portsSettle_settlePorts _).die, queueRead_of_erasing hst he, haged, hguard, if_pos (by decide), State.die_modDie, if_pos rfl]

end

/-! ## Fetches (R248, R302) -/

/-- A component is the only one of its name on its core. -/
theorem comps_of_core (cm : Comp) : (allComps.filter (fun c => compCore c == compCore cm)).filter (· == cm) = [cm] := by
  cases cm <;> decide

section
variable {core : Fin 8} {cm : Comp} {addr : Nat} {s : State} (hseven : core.val ≠ 7) (hcore : compCore cm = core.val)
  (hruns : s.firmwareRuns = true) (hdev : s.isDevice (addr / sectorBytes) = true)
  (hmiss : unitKey (addr / sectorBytes) (addr / 4096 % 16384) ∉ s.dep.icache)
include hseven hcore hruns hdev hmiss

/-- A line that is not held is fetched for its component, or stops it where its sector is in use. -/
theorem exec_instructionFetchMiss_of_miss : exec (.instructionFetchMiss core (some cm) addr) s =
    .next (if s.sectorBusy (addr / sectorBytes) = true then
      restartComp cm (.stop .fetch) (record Code.sectorBusyFetch none (unitCore core) (addr / sectorBytes) addr s)
    else settlePorts (queueRead (s.dieOf (addr / sectorBytes)) ⟨0, .fetch, 0⟩ { s with dep := { s.dep with
      icache := (unitKey (addr / sectorBytes) (addr / 4096 % 16384) :: s.dep.icache).take 64 } })) := by
  have hwho : (allComps.filter (fun c => compCore c == core.val)).filter (· == cm) = [cm] := hcore ▸ comps_of_core cm
  have hheld : s.dep.icache.contains (unitKey (addr / sectorBytes) (addr / 4096 % 16384)) = false := by
    rw [← Bool.not_eq_true, List.contains_iff_mem]
    exact hmiss
  change execInstructionFetchMiss core (some cm) addr s = _
  simp only [execInstructionFetchMiss, hwho, hruns, hdev, hheld, hseven, List.isEmpty_cons, Bool.not_true, Bool.or_false, decide_false,
    Bool.false_eq_true, if_false, List.foldl_cons, List.foldl_nil]
  split <;> rfl

end

/-! ## The statement -/

/-- Settles O37: each command by its equation; what is left of it after the dies have gone on and the ports have settled. -/
theorem diesProgramEraseAndRead : Obligations.DiesProgramEraseAndRead := by
  unfold Obligations.DiesProgramEraseAndRead
  intro d core c cm m r addr i pu e s x
  refine ⟨?written, ?failed, ?erased, ?lost, ?rests, ?run, ?suspends, ?guarded, ?serves, ?resumes, ?fetch⟩
  case written =>
    intro hrun hin
    obtain ⟨hwptr, hslot⟩ := sector_unitTouched d pu s
    refine ⟨_, exec_dieProgramUnitDone_of_written hrun hin, ?_, ?_, ?_, ?_, fun hi => ?_⟩
    · rw [diesOn_wptr, sector_unitWritten, hwptr]
    · rw [diesOn_kslot, sector_unitWritten, hslot]
    · rw [diesOn_wsc, wsc_unitWritten]
      rfl
    · rw [diesOn_wsc, wsc_unitWritten]
      rfl
    · rw [diesOn_units, sget_unitWritten d pu s hi]
      exact ⟨rfl, fun hout => congrArg some (State.unitData_of_filler hout _)⟩
  case failed =>
    intro hrun hin
    obtain ⟨hgo, hsum⟩ := wscFail_of_fault (c := Code.programFail) (by decide) (by decide) pu.port 6 (unitDie d)
      (sectorBytes * pu.sector + pu.unit * 131072) ((progsDropped pu (unitTouched d pu s)).modWsc pu.port (fun v => { v with progLeft := 0 }))
    refine ⟨_, exec_dieProgramUnitDone_of_failed hrun hin, ?_, ?_, ?_, diesOn_summary _ _ hsum⟩
    · rw [diesOn_wsc, hgo.wsc, State.wsc_modWsc, if_pos rfl, State.wsc_modWsc, if_pos rfl]
    · rw [diesOn_wsc, hgo.wsc, State.wsc_modWsc, if_pos rfl, BitVec.getLsbD_or]
      exact Bool.or_true _
    · rw [diesOn_units, hgo.units, State.units_modWsc, State.units_modWsc]
      rfl
  case erased =>
    intro hst he howns hover
    have hport := wsc_erased d e s
    obtain ⟨hwptr, hslot, hundef⟩ := sector_erased d e s
    refine ⟨_, exec_dieEraseDone_of_erased hst he howns, ?_, ?_, ?_, ?_, ?_, fun hi => ?_⟩
    · rw [diesOn_wptr, hwptr]
    · rw [diesOn_kslot, hslot]
    · rw [diesOn_undef, hundef]
    · rw [diesOn_wsc, hport]
      rfl
    · rw [diesOn_wsc, hport]
      exact WscP.done_sectorDone (e := e) hover
    · exact storedUnit_erased (diesOn_units ..) (diesOn_line ..) hi
  case lost =>
    intro hst he howns
    obtain ⟨hgo, hsum⟩ := wscFail_of_fault (c := Code.eraseFail) (by decide) (by decide) e.port 7 (unitDie d) (sectorBytes * e.sector)
      (((eraseOff d s).modSector e.sector (fun h => { h with undef := true })).modWsc e.port (fun v => v.sectorLost e))
    have hport := hgo.wsc e.port
    rw [State.wsc_modWsc, if_pos rfl, State.wsc_modWsc, if_pos rfl] at hport
    refine ⟨_, exec_dieEraseDone_of_failed hst he howns, ?_, ?_, ?_, diesOn_summary _ _ hsum⟩
    · rw [diesOn_undef, sector_drawn, hgo.undef, State.modWsc, State.sector_setWsc, State.modWsc, State.sector_setWsc]
      simp [State.modSector, State.sector]
    · rw [diesOn_wsc, wsc_drawn, hport, wsc_modSector, wsc_eraseOff]
      rfl
    · rw [diesOn_wsc, wsc_drawn, hport, BitVec.getLsbD_or]
      exact Bool.or_true _
  case rests =>
    intro hst hrest hreads hprogs herase hman
    refine ⟨_, exec_dieReadDone_of_reading hst (fun _ => hman), ?_⟩
    rw [die_settled_dieNext, Die.choose_readDone_of_idle hst hrest hreads hprogs herase]
    exact ⟨rfl, rfl⟩
  case run =>
    intro v hst hr hmore left
    have hrest : x.rest = [left] := Die.rest_of_more hr hmore
    have hexec := exec_dieReadDone_of_reading (m := m) hst (fun h => by rw [hrest] at h; cases h)
    refine ⟨fun hreads => ⟨_, hexec, ?_⟩, fun hreads hcls => ⟨_, hexec, ?_⟩⟩
    · rw [die_settled_dieNext, Die.choose_readDone_of_run hst hrest hreads]
      exact ⟨hst, rfl, hreads⟩
    · rw [die_settled_dieNext, Die.choose_readDone_of_higher hst hrest hreads hcls]
      exact ⟨hst, rfl, rfl⟩
  case suspends =>
    intro hd hst he hopen
    refine ⟨_, exec_depotReadRequest_of_lt hd, ?_⟩
    rw [die_queueRead_of_suspends hst he hopen]
    exact ⟨rfl, rfl, rfl⟩
  case guarded =>
    intro hd hst he haged hguard
    refine ⟨_, exec_depotReadRequest_of_lt hd, ?_⟩
    rw [die_queueRead_of_guarded hst he haged hguard]
    exact ⟨hst, rfl⟩
  case serves =>
    intro hst hreads
    refine ⟨_, exec_dieSuspended_of_suspending hst, ?_⟩
    rw [die_settled_dieNext, Die.choose_suspended hreads]
    exact ⟨rfl, rfl, rfl, rfl⟩
  case resumes => exact fun hst => if_pos hst
  case fetch =>
    intro hseven hcore hruns hdev key hmiss
    have hexec := exec_instructionFetchMiss_of_miss hseven hcore hruns hdev hmiss
    refine ⟨fun hbusy => ⟨_, hexec.trans (congrArg Host.Outcome.next (if_neg (Bool.eq_false_iff.mp hbusy))), ?_⟩,
      fun hbusy => hexec.trans (congrArg Host.Outcome.next (if_pos hbusy))⟩
    exact (portsSettle_settlePorts _).icache.trans (diesGoOn_queueRead ..).icache

end Sys2Proof.Machine
end

section
/-! PROOFS, O50. The operations of the management mailbox, and core 0's work for them at the firmware port (R240, R323, R324, R350). -/

namespace Sys2Proof.Machine

/-! ## What work at a port leaves alone -/

/-- No write at a depot port changes the management port, the security state, the memories or core 0's jobs. -/
structure PortWorks (s u : State) : Prop where
  mgt : u.mgt = s.mgt
  sec : u.sec = s.sec
  mtc : u.mtc = s.mtc
  jobs : u.dep.jobs = s.dep.jobs

theorem PortWorks.refl (s : State) : PortWorks s s := ⟨rfl, rfl, rfl, rfl⟩

theorem PortWorks.trans {s u v : State} (h : PortWorks s u) (h' : PortWorks u v) : PortWorks s v :=
  ⟨h'.mgt.trans h.mgt, h'.sec.trans h.sec, h'.mtc.trans h.mtc, h'.jobs.trans h.jobs⟩

theorem PortWorks.ite {s u v : State} {c : Prop} [Decidable c] (h : PortWorks s u) (h' : PortWorks s v) :
    PortWorks s (if c then u else v) := by
  split
  · exact h
  · exact h'

theorem DiesGoOn.portWorks {s u : State} (h : DiesGoOn s u) : PortWorks s u := ⟨h.mgt, h.sec, h.mtc, by rw [h.rest]⟩

theorem PortsSettle.portWorks {s u : State} (h : PortsSettle s u) : PortWorks s u :=
  ⟨by rw [h.rest], by rw [h.rest], h.mtc, by rw [h.rest]⟩

theorem portWorks_messaged (s : State) (o : List Output) (m : BitVec 64) : PortWorks s (s.messaged o m) := ⟨rfl, rfl, rfl, rfl⟩

theorem portWorks_setWsc (p : WscPort) (v : WscP) (s : State) : PortWorks s (s.setWsc p v) := by cases p <;> exact ⟨rfl, rfl, rfl, rfl⟩

theorem portWorks_modWsc (p : WscPort) (f : WscP → WscP) (s : State) : PortWorks s (s.modWsc p f) := portWorks_setWsc ..

theorem portWorks_dropLines (l : List Nat) (s : State) : PortWorks s (dropLines l s) := ⟨rfl, rfl, rfl, rfl⟩

theorem portWorks_wscFail {c : BitVec 16} (hc : codeClass c = 5) (p : WscPort) (bit unit addr : Nat) (s : State) :
    PortWorks s (wscFail p bit c unit addr s) := (portWorks_modWsc ..).trans (diesGoOn_record hc ..).portWorks

theorem portWorks_wscRange (p : WscPort) (unit addr : Nat) (s : State) : PortWorks s (wscFail p 2 Code.wscRange unit addr s) :=
  portWorks_wscFail (by decide) ..
theorem portWorks_wscBusy (p : WscPort) (unit addr : Nat) (s : State) : PortWorks s (wscFail p 3 Code.wscBusy unit addr s) :=
  portWorks_wscFail (by decide) ..
theorem portWorks_wscProtected (p : WscPort) (unit addr : Nat) (s : State) : PortWorks s (wscFail p 1 Code.wscProtected unit addr s) :=
  portWorks_wscFail (by decide) ..
theorem portWorks_wscSeq (p : WscPort) (unit addr : Nat) (s : State) : PortWorks s (wscFail p 0 Code.wscSeq unit addr s) :=
  portWorks_wscFail (by decide) ..

/-- A list of changes at a port, none of which changes more. -/
theorem portWorks_foldl {β : Type} (g : State → β → State) (hg : ∀ u b, PortWorks u (g u b)) (l : List β) (s : State) :
    PortWorks s (l.foldl g s) :=
  foldl_holds (PortWorks s) g l s (fun u b h => h.trans (hg u b)) (.refl s)

section
variable (p : WscPort) (s : State)

/-- Every die goes on, and the port settles. -/
theorem portWorks_settled (n : Nat) : PortWorks s (settlePort p ((List.range n).foldl (fun s d => dieNext d s) s)) :=
  (diesGoOn_range n s).portWorks.trans (portsSettle_settlePort ..).portWorks

theorem portWorks_startProgram (small : Bool) : PortWorks s (startProgram p small s) := by
  unfold startProgram
  extract_lets v addr n t secs badLen badStage starts data us s1 s2
  have hqueued : PortWorks s s2 := (portWorks_setWsc ..).trans ((portWorks_dropLines ..).trans
    (portWorks_foldl _ (fun u _ => (diesGoOn_modDie _ _ u).portWorks) us _))
  exact .ite (portWorks_wscBusy ..) (.ite (portWorks_wscRange ..) (.ite (portWorks_wscProtected ..)
    (.ite (portWorks_wscFail (by decide) ..) (.ite (portWorks_wscBusy ..) (.ite (portWorks_wscFail (by decide) ..)
      (hqueued.trans (portWorks_settled ..)))))))

theorem portWorks_startErase : PortWorks s (startErase p s) := by
  unfold startErase
  extract_lets v addr n secs s1 s2
  have hqueued : PortWorks s s2 := (portWorks_setWsc ..).trans ((portWorks_dropLines ..).trans
    (portWorks_foldl _ (fun u _ => (diesGoOn_modDie _ _ u).portWorks) secs _))
  exact .ite (portWorks_wscBusy ..) (.ite (portWorks_wscRange ..) (.ite (portWorks_wscProtected ..)
    (.ite (portWorks_wscBusy ..) (hqueued.trans (portWorks_settled ..)))))

theorem portWorks_modSector (k : Nat) (f : Sector → Sector) : PortWorks s (s.modSector k f) := ⟨rfl, rfl, rfl, rfl⟩

theorem portWorks_startWpset : PortWorks s (startWpset p s) := by
  unfold startWpset
  extract_lets v first n named
  exact .ite (portWorks_wscBusy ..) ((portWorks_setWsc ..).trans (portWorks_foldl _ (fun u k => portWorks_modSector u k _) named _))

theorem portWorks_modErases (f : EraseOp → EraseOp) : PortWorks s (modErases p f s) := ⟨rfl, rfl, rfl, rfl⟩

theorem portWorks_startSuspend : PortWorks s (startSuspend p s) := by
  unfold startSuspend
  extract_lets v s1 stop
  have hmarked : PortWorks s s1 := (portWorks_setWsc ..).trans (portWorks_modErases ..)
  have hstopped (l : Store Die) : PortWorks s1 { s1 with dep := { s1.dep with dies := l } } := ⟨rfl, rfl, rfl, rfl⟩
  exact .ite (portWorks_wscSeq ..) (hmarked.trans ((hstopped _).trans (portsSettle_settlePort ..).portWorks))

theorem portWorks_startResume : PortWorks s (startResume p s) := by
  unfold startResume
  extract_lets v s1
  have hmarked : PortWorks s s1 := (portWorks_setWsc ..).trans (portWorks_modErases ..)
  exact .ite (portWorks_wscSeq ..) (hmarked.trans (portWorks_settled ..))

theorem portWorks_loadUnit (addr : Nat) : PortWorks s (loadUnit p addr s) :=
  (portWorks_setWsc ..).trans (diesGoOn_loadUnit ..).portWorks

theorem portWorks_bulkNext : PortWorks s (bulkNext p s) := by
  by_cases h : (s.wsc p).bulkPos < (s.wsc p).bulkEnd
  · exact (diesGoOn_bulkNext h).portWorks
  · unfold bulkNext
    extract_lets v sec
    rw [if_pos (Nat.not_lt.mp h)]
    exact portWorks_modWsc ..

theorem portWorks_startBulkRead : PortWorks s (startBulkRead p s) := by
  unfold startBulkRead
  extract_lets v n
  exact .ite (portWorks_wscRange ..) ((portWorks_setWsc ..).trans ((portWorks_bulkNext ..).trans (portsSettle_settlePort ..).portWorks))

end

section
variable {p : WscPort} {f : State → State} (hf : ∀ s, PortWorks s (f s))
include hf

theorem portWorks_wscRun (v : WscP) (go : State) : PortWorks go (wscRun p v f go) := by
  obtain ⟨o, m, h⟩ := wscRun_messaged p v f go
  rw [h]
  exact (hf go).trans (portWorks_messaged ..)

theorem portWorks_started {r : Option WscReg} {x : Reg32} {s : State} {a : WscAct} (hact : (s.wsc p).act r x = a)
    (hstart : (a, f) ∈ portStarts p) :
    PortWorks s (wscWrite p r x s) := by
  rw [wscWrite_of_start hact hstart]
  exact (portWorks_setWsc ..).trans ((portWorks_wscRun hf ..).trans (portWorks_modWsc ..))

end

/-- A write to a port, whatever it is in its sequence. -/
theorem portWorks_wscWrite (p : WscPort) (r : Option WscReg) (x : Reg32) (s : State) : PortWorks s (wscWrite p r x s) := by
  cases hact : (s.wsc p).act r x with
  | key => rw [wscWrite_of_place hact (.inl rfl)]; exact portWorks_setWsc ..
  | operand => rw [wscWrite_of_place hact (.inr rfl)]; exact portWorks_setWsc ..
  | bad =>
    simp only [wscWrite, hact]
    exact (portWorks_setWsc ..).trans (portWorks_wscSeq ..)
  | readArray =>
    simp only [wscWrite, hact]
    exact (portWorks_setWsc ..).trans (portWorks_loadUnit ..)
  | bulkRead =>
    simp only [wscWrite, hact]
    exact (portWorks_setWsc ..).trans (portWorks_wscRun (portWorks_startBulkRead p) (s.wsc p) _)
  | programSmall => exact portWorks_started (fun s => portWorks_startProgram p s true) hact (by simp [portStarts])
  | programBulk => exact portWorks_started (fun s => portWorks_startProgram p s false) hact (by simp [portStarts])
  | erase => exact portWorks_started (portWorks_startErase p) hact (by simp [portStarts])
  | wpset => exact portWorks_started (portWorks_startWpset p) hact (by simp [portStarts])
  | suspend => exact portWorks_started (portWorks_startSuspend p) hact (by simp [portStarts])
  | resume => exact portWorks_started (portWorks_startResume p) hact (by simp [portStarts])
  | status => exact portWorks_started (f := fun s => showWord p 0x70 s.dieMaps s) (fun s => portWorks_modWsc ..) hact (by simp [portStarts])
  | readid => exact portWorks_started (f := fun s => showWord p 0x90 s.depotId s) (fun s => portWorks_modWsc ..) hact (by simp [portStarts])

theorem portWorks_fwWrites (l : List (Option WscReg × Reg32)) (s : State) : PortWorks s (fwWrites l s) :=
  portWorks_foldl (β := Option WscReg × Reg32) _ (fun u w => portWorks_wscWrite .fw w.1 w.2 u) l s

theorem portWorks_protect (j : FwJob) (v : Bool) (s : State) : PortWorks s (j.protect v s) := portWorks_fwWrites ..

/-! ## Jobs -/

/-- Core 0 begins the first job's next step, or the port is left as it is. -/
theorem fwStart_cases (s : State) : fwStart s = s ∨ ∃ j l w, s.dep.jobs.head? = some j ∧ s.stepsOf j = l ∧ PortWorks s w ∧
    fwStart s = w.setJob { j with steps := l, running := true } := by
  unfold fwStart
  split
  · exact .inl rfl
  · next j hj =>
    split
    · exact .inl rfl
    · next f r hsteps =>
      split
      · exact .inl rfl
      · exact .inr ⟨j, f :: r, _, hj, hsteps,
          (portWorks_modWsc ..).trans ((portWorks_protect ..).trans (portWorks_fwWrites ..)), rfl⟩

theorem fwStart_of_idle {s : State} (h : s.dep.jobs = []) : fwStart s = s := by simp [fwStart, h]

/-- A job as it stands in the queue: what it is for is as it was given. -/
structure FwJob.Queued (j k : FwJob) (steps : List FwStep) : Prop where
  slot : k.slot = j.slot
  mbox : k.mbox = j.mbox
  image : k.image = j.image
  steps : k.steps = j.steps ∨ k.steps = steps

/-- A job that is queued stands last, begun where it is the only one. -/
theorem storeJob_effect (j : FwJob) (s : State) :
    (storeJob j s).mgt = s.mgt ∧ (storeJob j s).sec = s.sec ∧ (storeJob j s).mtc = s.mtc ∧
      ∃ k, (storeJob j s).dep.jobs.getLast? = some k ∧
        j.Queued k (({ s with dep := { s.dep with jobs := s.dep.jobs ++ [j] } } : State).stepsOf j) := by
  let t : State := { s with dep := { s.dep with jobs := s.dep.jobs ++ [j] } }
  rcases fwStart_cases t with h | ⟨a, l, w, ha, hl, hw, h⟩
  · rw [show storeJob j s = t from h]
    exact ⟨rfl, rfl, rfl, j, List.getLast?_concat, rfl, rfl, rfl, .inl rfl⟩
  · rw [show storeJob j s = _ from h]
    have hjobs : w.dep.jobs = s.dep.jobs ++ [j] := hw.jobs
    refine ⟨hw.mgt, hw.sec, hw.mtc, ?_⟩
    have hset : (w.setJob { a with steps := l, running := true }).dep.jobs =
        { a with steps := l, running := true } :: (s.dep.jobs ++ [j]).tail := by rw [← hjobs]; rfl
    rw [hset]
    cases hold : s.dep.jobs with
    | nil =>
      have haj : a = j := by
        have ha' : (s.dep.jobs ++ [j]).head? = some a := ha
        rw [hold] at ha'
        exact (Option.some.inj ha').symm
      subst haj
      exact ⟨_, rfl, rfl, rfl, rfl, .inr hl.symm⟩
    | cons b r =>
      exact ⟨j, List.getLast?_concat (l := _ :: r), rfl, rfl, rfl, .inl rfl⟩

/-- An image's steps begin with an erase, which is what is left to do of them. -/
theorem State.stepsOf_imageSteps (s t : State) (img : Bytes) {j : FwJob} (h : j.steps = s.imageSteps img) : t.stepsOf j = j.steps := by
  simp [State.stepsOf, h, State.imageSteps]

/-- An image that is staged gives core 0 its steps; the mailbox, the roots and the memories stay. -/
theorem storeImage_effect (img : Bytes) (s : State) :
    (storeImage img s).mgt = s.mgt ∧ (storeImage img s).sec = s.sec ∧ (storeImage img s).mtc = s.mtc ∧
      ∃ k, (storeImage img s).dep.jobs.getLast? = some k ∧ k.slot = 0x20 ∧ k.image = some img ∧ k.mbox = true ∧
        k.steps = s.imageSteps img := by
  obtain ⟨hmgt, hsec, hmtc, k, hk, hslot, hmbox, himage, hsteps⟩ := storeJob_effect
    ⟨0x20, s.halfBase s.spareHalf, 1 + imageSectors img.length, s.imageSteps img, false, some img, true, false⟩ s
  rw [State.stepsOf_imageSteps s _ img rfl, or_self] at hsteps
  exact ⟨hmgt, hsec, hmtc, k, hk, hslot, himage, hmbox, hsteps⟩

/-- The configuration to be stored, for an operation of the mailbox. -/
theorem storeConfig_effect (s : State) :
    (storeConfig true s).mgt = s.mgt ∧ (storeConfig true s).sec = s.sec ∧
      ∃ k, (storeConfig true s).dep.jobs.getLast? = some k ∧ k.slot = 0x21 ∧ k.mbox = true ∧ k.image = none := by
  obtain ⟨hmgt, hsec, -, k, hk, hslot, hmbox, himage, -⟩ := storeJob_effect
    ⟨0x21, s.configSector, 1, [.record (padUnits s.toStore.bytes)], false, none, true, false⟩ s
  exact ⟨hmgt, hsec, k, hk, hslot, hmbox, himage⟩

/-! ## The end of an operation (R324) -/

section
variable {s : State} (hpend : s.mgt.pend = [])
include hpend

theorem mgtEnd_of_silent (r : BitVec 4) : mgtEnd r [] s = { s with mgt := { s.mgt with result := r, inp := [], busy := false } } := by
  simp [mgtEnd, State.modMgt, Mgt.refill, hpend]

/-- An operation with output words: they go to the receive FIFO as there is room, and the operation ends with the last. -/
theorem mgtEnd_of_words (l : List Reg32) :
    (mgtEnd 0 l s).mgt.result = 0 ∧ (mgtEnd 0 l s).mgt.rx ++ (mgtEnd 0 l s).mgt.pend = s.mgt.rx ++ l ∧
      (s.mgt.rx.length ≤ 256 → (mgtEnd 0 l s).mgt.rx.length ≤ 256) ∧
      (mgtEnd 0 l s).mgt.busy = !(mgtEnd 0 l s).mgt.pend.isEmpty ∧ (mgtEnd 0 l s).mgt.tx = s.mgt.tx := by
  cases l with
  | nil => simp [mgtEnd, State.modMgt, Mgt.refill, hpend]
  | cons w r =>
    have hmgt : (mgtEnd 0 (w :: r) s).mgt = { s.mgt with
        result := 0, inp := [], rx := s.mgt.rx ++ (w :: r).take (256 - s.mgt.rx.length)
        pend := (w :: r).drop (256 - s.mgt.rx.length), busy := !((w :: r).drop (256 - s.mgt.rx.length)).isEmpty } := by
      simp [mgtEnd, State.modMgt, Mgt.refill, hpend]
    rw [hmgt]
    refine ⟨rfl, ?_, fun hroom => ?_, rfl, rfl⟩
    · rw [List.append_assoc, List.take_append_drop]
    · rw [List.length_append, List.length_take]
      omega

omit hpend

/-- The first job is out of the queue. -/
def State.jobOver (s : State) : State := { s with dep := { s.dep with jobs := s.dep.jobs.tail } }

theorem State.jobOver_jobs (s : State) : s.jobOver.dep.jobs = s.dep.jobs.tail := rfl
theorem State.jobOver_mgt (s : State) : s.jobOver.mgt = s.mgt := rfl

theorem State.mgt_modMgt (s : State) (f : Mgt → Mgt) : (s.modMgt f).mgt = f s.mgt := rfl

/-- The image that is staged, where there is a new one. -/
def Mgt.stages (new : Bool) (img : Option Bytes) (m : Mgt) : Mgt := { m with staged := if new then img else m.staged }

theorem State.modMgt_stages (new : Bool) (img : Option Bytes) (s : State) :
    (if new then s.modMgt (fun m => { m with staged := img }) else s) = s.modMgt (Mgt.stages new img) := by
  cases new <;> rfl

theorem fwEnd_of_mbox {j : FwJob} (hmbox : j.mbox = true) (ok : Bool) : fwEnd j ok s =
    mgtEnd (if ok then 0 else 2) [] ((j.protect true s).jobOver.modMgt (Mgt.stages (ok && j.image.isSome) j.image)) :=
  (if_pos hmbox).trans (congrArg (mgtEnd _ []) (State.modMgt_stages ..))

include hpend in
/-- A job that is over leaves the queue; what it says of the operation that waits for it. -/
theorem fwEnd_effect {j : FwJob} (hmbox : j.mbox = true) (ok : Bool) : (fwEnd j ok s).dep.jobs = s.dep.jobs.tail ∧
    (fwEnd j ok s).mgt = { s.mgt with
      staged := if ok && j.image.isSome then j.image else s.mgt.staged
      result := if ok then 0 else 2, inp := [], busy := false } := by
  have hwork := portWorks_protect j true s
  have hmgt : ((j.protect true s).jobOver.modMgt (Mgt.stages (ok && j.image.isSome) j.image)).mgt =
      s.mgt.stages (ok && j.image.isSome) j.image := by
    rw [State.mgt_modMgt, State.jobOver_mgt, hwork.mgt]
  rw [fwEnd_of_mbox hmbox, mgtEnd_of_silent (by rw [hmgt]; exact hpend)]
  refine ⟨?_, by rw [hmgt]; rfl⟩
  rw [State.modMgt_dep, State.jobOver_jobs, hwork.jobs]

end

/-! ## Records of the mailbox -/

theorem record_mgt (c : BitVec 16) (t : Option Nat) (unit arg addr : Nat) (s : State) : (record c t unit arg addr s).mgt = s.mgt :=
  record_keeps State.mgt (fun _ _ _ _ _ _ _ => rfl) ..

theorem record_scanUnlocked (c : BitVec 16) (t : Option Nat) (unit arg addr : Nat) (s : State) :
    (record c t unit arg addr s).glb.scanUnlocked = s.glb.scanUnlocked := by
  have hnote := noteBlock_keeps State.glb (fun _ _ _ _ => rfl) c t unit arg
  unfold record
  split
  · rw [hnote]
  · obtain ⟨o, m, h⟩ := msix_messaged 0 (noteBlock c t unit arg
      { s with frc := (s.frc.append s.glb.devTime c t unit arg addr).count s.glb.devTime c t })
    rw [h, State.messaged, hnote]

/-! ## The unit read back (R240) -/

section
variable {job : FwJob} {data : Bytes} {s : State} (hjobs : s.dep.jobs = [job]) (hrun : job.running = true)
  (hsteps : job.steps = [.check s.dep.fw.raddr data]) (hdead : job.dead = false) (hfree : s.fwFree = true)
  (hready : s.dep.fw.rdReady = true)
include hjobs hrun hsteps hdead hfree hready

/-- The last check of a job ends it: well where the port reads what was written, and badly where it does not. -/
theorem fwSettle_of_lastCheck : fwSettle s = fwEnd job (decide (s.dep.fw.rbuf = unitWords (unmarked data))) s := by
  have hdone : fwDone job s = fwEnd job true s := by simp [fwDone, hdead, hsteps]
  have hsettle : fwSettle s = if s.dep.fw.rbuf = unitWords (unmarked data) then fwDone job s else fwEnd job false s := by
    simp only [fwSettle, hjobs, hrun, hsteps, hfree, hready, List.head?_cons, Bool.not_true, Bool.or_self, Bool.false_eq_true, if_false,
      ne_eq, not_true_eq_false]
    rfl
  rw [hsettle, hdone]
  split
  · next h => rw [decide_eq_true h]
  · next h => rw [decide_eq_false h]

/-- Core 0 then has nothing more to do. -/
theorem fwGo_of_lastCheck (hmbox : job.mbox = true) (hpend : s.mgt.pend = []) :
    fwGo s = fwEnd job (decide (s.dep.fw.rbuf = unitWords (unmarked data))) s := by
  rw [fwGo, fwSettle_of_lastCheck hjobs hrun hsteps hdead hfree hready]
  refine fwStart_of_idle ?_
  obtain ⟨hleft, -⟩ := fwEnd_effect hpend hmbox (decide (s.dep.fw.rbuf = unitWords (unmarked data)))
  rw [hleft, hjobs]
  rfl

end

theorem State.fwFree_of_ready {s : State} (hst : s.dep.fw.st = .ready) (hstep : s.dep.fw.step = 0)
    (hboot : s.compHeld .bootmon = false) : s.fwFree = true := by simp [State.fwFree, hst, hstep, hboot]

/-- A good unit comes to core 0's port, and it was the last to be read back. -/
theorem fwGo_unitLoaded {job : FwJob} {data : Bytes} {s : State} {words : List Reg32} (sec unit retries : Nat)
    (hjobs : s.dep.jobs = [job]) (hrun : job.running = true) (hsteps : job.steps = [.check s.dep.fw.raddr data])
    (hdead : job.dead = false) (hfree : s.fwFree = true) (hmbox : job.mbox = true) (hpend : s.mgt.pend = []) :
    let same := decide (words = unitWords (unmarked data))
    let u := fwGo ((noteRetries sec unit retries s).setWsc .fw (s.dep.fw.loaded words))
    u.dep.jobs = [] ∧ u.mgt = { s.mgt with
      staged := if same && job.image.isSome then job.image else s.mgt.staged, result := if same then 0 else 2, inp := [], busy := false } := by
  intro same u
  let t := (noteRetries sec unit retries s).setWsc .fw (s.dep.fw.loaded words)
  have htjobs : t.dep.jobs = [job] := (noteRetries_keeps (fun s => s.dep.jobs) (fun _ _ _ _ => rfl) ..).trans hjobs
  have htmgt : t.mgt = s.mgt := noteRetries_keeps State.mgt (fun _ _ _ _ => rfl) ..
  have htfree : t.fwFree = true := by
    have hsec : t.sec = s.sec := noteRetries_keeps State.sec (fun _ _ _ _ => rfl) ..
    rw [State.fwFree, State.compHeld, hsec]
    exact hfree
  have hgo : u = fwEnd job same t := fwGo_of_lastCheck htjobs hrun hsteps hdead htfree rfl hmbox (by rw [htmgt, hpend])
  obtain ⟨hleft, hend⟩ := fwEnd_effect (s := t) (by rw [htmgt, hpend]) hmbox same
  rw [hgo]
  exact ⟨by rw [hleft, htjobs]; rfl, by rw [hend, htmgt]⟩

/-! ## Operations -/

section
variable {s : State} {op : BitVec 4}

theorem State.mgtRuns_of_busy (hman : s.manages = true) (hbusy : s.mgt.busy = true) (hpend : s.mgt.pend = []) (hop : s.mgt.op = op) :
    s.mgtRuns op = true := by simp [State.mgtRuns, hman, hbusy, hpend, hop]

/-- An operation refused by its condition. -/
theorem mgtRefuse_effect (hpend : s.mgt.pend = []) :
    (mgtRefuse s).mgt = { s.mgt with result := 1, inp := [], busy := false } ∧
      (mgtRefuse s).glb.scanUnlocked = s.glb.scanUnlocked ∧ (mgtRefuse s).frc.summary.getLsbD 7 = true := by
  unfold mgtRefuse
  rw [record_mgt, record_scanUnlocked, mgtEnd_of_silent hpend]
  exact ⟨rfl, rfl, record_summary_of_fault (by decide) (i := 7) (by decide) (by decide) ..⟩

section
variable (hruns : s.mgtRuns op = true) {l : List Reg32} (hinput : s.mgt.input = some l)
include hruns hinput

theorem setRoot_of_waits (f : Bytes → State → State) (hwaits : s.mboxWaits = true) : setRoot op f s = fwGo s := by
  simp [setRoot, hruns, hinput, hwaits]

theorem setRoot_of_digest (f : Bytes → State → State) (hwaits : s.mboxWaits = false) (hlen : l.length = 12)
    (hboot : s.compHeld .bootmon = false) : setRoot op f s = storeConfig true (f (wordBytes l) s) := by
  simp [setRoot, hruns, hinput, hwaits, hlen, hboot]

end

section
variable {l : List Reg32} (hinput : s.mgt.input = some l)
include hinput

theorem exec_fwStage_of_waits {img : ImageCheck} (hruns : s.mgtRuns 1 = true) (hwaits : s.mboxWaits = true) :
    exec (.fwStage img) s = .next (fwGo s) := by
  change execFwStage img s = _
  rw [execFwStage, hruns, hinput]
  simp [hwaits]

theorem exec_netcfg_of_waits (hruns : s.mgtRuns 8 = true) (hwaits : s.mboxWaits = true) : exec .netcfg s = .next (fwGo s) := by
  change execNetcfg s = _
  rw [execNetcfg, hruns, hinput]
  simp [hwaits]

variable (hwaits : s.mboxWaits = false) (hboot : s.compHeld .bootmon = false)
include hwaits hboot

theorem exec_fwStage_of_good {img : ImageCheck} (hruns : s.mgtRuns 1 = true) (hsig : img.signatureOk = true)
    (hver : s.fuse.minSecVersion ≤ img.secVersion) (hfits : s.imageFits (wordBytes l) = true) :
    exec (.fwStage img) s = .next (storeImage (wordBytes l) s) := by
  change execFwStage img s = _
  rw [execFwStage, hruns, hinput]
  simp [hwaits, hboot, hsig, hfits, Nat.not_lt.mpr hver]

theorem exec_fwStage_of_bad {img : ImageCheck} (hruns : s.mgtRuns 1 = true)
    (hbad : img.signatureOk = false ∨ img.secVersion < s.fuse.minSecVersion) :
    exec (.fwStage img) s = .next (record Code.mgtImage none unitMgt 0 0 (mgtEnd 3 [] s)) := by
  have hrefused : (!img.signatureOk || decide (img.secVersion < s.fuse.minSecVersion)) = true := by simpa using hbad
  change execFwStage img s = _
  rw [execFwStage, hruns, hinput]
  simp [hwaits, hboot, hrefused]

theorem exec_netcfg_of_words (hruns : s.mgtRuns 8 = true) (hlen : l.length ≤ 15000) :
    exec .netcfg s = .next (storeConfig true (s.modMgt (fun m => { m with net := l }))) := by
  change execNetcfg s = _
  rw [execNetcfg, hruns, hinput]
  simp [hwaits, hboot, netRoom, hlen]

end

theorem exec_scanUnlock_of_awaitHost (hruns : s.mgtRuns 6 = true) (hst : s.glb.st = .awaitHost) :
    exec .scanUnlock s = .next (mgtEnd 0 [] { s with glb := { s.glb with scanUnlocked := true } }) := by
  change execScanUnlock s = _
  rw [execScanUnlock, hruns]
  simp [hst]

theorem exec_scanUnlock_of_other (hruns : s.mgtRuns 6 = true) (hst : s.glb.st ≠ .awaitHost) :
    exec .scanUnlock s = .next (mgtRefuse s) := by
  change execScanUnlock s = _
  rw [execScanUnlock, hruns]
  simp [hst]

theorem exec_scanLock_of_runs (hruns : s.mgtRuns 7 = true) :
    exec .scanLock s = .next (mgtEnd 0 [] { s with glb := { s.glb with
      scanUnlocked := false, tapInstr := if 1 < s.glb.tapInstr.val then 0 else s.glb.tapInstr } }) := by
  change execScanLock s = _
  rw [execScanLock, hruns]
  simp

theorem exec_logRead_of_runs (hruns : s.mgtRuns 2 = true) (htelem : s.compHeld .telem = false) :
    exec .logRead s = .next (mgtEnd 0 (s.frc.entries.flatMap LogEntry.words) s) := by
  change execLogRead s = _
  rw [execLogRead, hruns]
  simp [htelem]

theorem exec_telemetry_of_runs (hruns : s.mgtRuns 3 = true) : exec .telemetry s = .next (drawn (mgtEnd 0 s.telemetry s)) :=
  congrArg Host.Outcome.next (if_pos hruns)

end

/-- Settles O50: each operation by its equation; core 0's work by what a write at its port leaves alone. -/
theorem mailboxOperations : Obligations.MailboxOperations := by
  unfold Obligations.MailboxOperations
  intro img l job data retries ok s m ended gave stored hman hbusy hpend
  have hruns {op : BitVec 4} (hop : m.op = op) : s.mgtRuns op = true := State.mgtRuns_of_busy hman hbusy hpend hop
  have hgave (words : List Reg32) : gave (mgtEnd 0 words s) words := mgtEnd_of_words hpend words
  refine ⟨?stage, ?waits, ?readBack, ?badImage, ?log, ?telemetry, ?hostRoot, ?mgtRoot, ?unlock, ?barred, ?lock, ?net⟩
  case stage =>
    intro hop hinput hboot hsig hver hfits hwaits
    obtain ⟨hmgt, hsec, hmtc, hjob⟩ := storeImage_effect (wordBytes l) s
    exact ⟨_, exec_fwStage_of_good hinput hwaits hboot (hruns hop) hsig hver hfits, hmgt, hsec, hmtc, hjob⟩
  case waits =>
    intro hwaits i hi hinput
    rcases hi with ⟨hop, rfl⟩ | ⟨hop, rfl⟩ | ⟨hop, rfl⟩ | ⟨hop, rfl⟩
    · exact exec_fwStage_of_waits hinput (hruns hop) hwaits
    · exact congrArg Host.Outcome.next (setRoot_of_waits (hruns hop) hinput _ hwaits)
    · exact congrArg Host.Outcome.next (setRoot_of_waits (hruns hop) hinput _ hwaits)
    · exact exec_netcfg_of_waits hinput (hruns hop) hwaits
  case readBack =>
    intro v sec got same hrpend hsector howes hgot hst hstep hboot hjobs hrun hsteps hdead hmbox
    have hexec := exec_readUnitLoaded_of_good (p := .fw) hrpend hsector howes hgot
    obtain ⟨hleft, hmgt⟩ := fwGo_unitLoaded (words := unitWords got.1) sec (v.raddr / 4096 % 16384) retries hjobs hrun hsteps hdead
      (State.fwFree_of_ready hst hstep hboot) hmbox hpend
    refine ⟨_, hexec, hleft, fun heq => ?_, fun hne => ?_⟩
    · refine hmgt.trans ?_
      rw [decide_eq_true heq]
      rfl
    · refine hmgt.trans ?_
      rw [decide_eq_false hne]
      rfl
  case badImage =>
    intro hop hinput hwaits hboot hbad
    refine ⟨_, exec_fwStage_of_bad hinput hwaits hboot (hruns hop) hbad, ?_,
      record_summary_of_fault (by decide) (i := 7) (by decide) (by decide) ..⟩
    rw [record_mgt, mgtEnd_of_silent hpend]
  case log => exact fun hop htelem => ⟨_, exec_logRead_of_runs (hruns hop) htelem, hgave _, rfl⟩
  case telemetry => exact fun hop => ⟨_, exec_telemetry_of_runs (hruns hop), hgave _, rfl⟩
  case hostRoot =>
    intro hop hinput hlen hboot hwaits
    obtain ⟨hmgt, hsec, hjob⟩ := storeConfig_effect { s with sec := { s.sec with hostRoot := some (wordBytes l) } }
    exact ⟨_, congrArg Host.Outcome.next (setRoot_of_digest (hruns hop) hinput _ hwaits hlen hboot), hmgt, hsec, hjob⟩
  case mgtRoot =>
    intro hop hinput hlen hboot hwaits
    obtain ⟨hmgt, hsec, hjob⟩ := storeConfig_effect { s with sec := { s.sec with mgtRoot := some (wordBytes l) } }
    exact ⟨_, congrArg Host.Outcome.next (setRoot_of_digest (hruns hop) hinput _ hwaits hlen hboot), hmgt, hsec, hjob⟩
  case unlock =>
    intro hop hst
    rw [exec_scanUnlock_of_awaitHost (hruns hop) hst, mgtEnd_of_silent (by exact hpend)]
  case barred => exact fun hop hst => ⟨_, exec_scanUnlock_of_other (hruns hop) hst, mgtRefuse_effect hpend⟩
  case lock =>
    intro hop
    refine ⟨_, exec_scanLock_of_runs (hruns hop), ?_⟩
    rw [mgtEnd_of_silent (by exact hpend)]
    refine ⟨rfl, rfl, ?_⟩
    split
    · exact Nat.zero_le 1
    · next h => exact Nat.not_lt.mp h
  case net =>
    intro hop hinput hlen hboot hwaits
    obtain ⟨hmgt, hsec, hjob⟩ := storeConfig_effect (s.modMgt (fun m => { m with net := l }))
    exact ⟨_, exec_netcfg_of_words hinput hwaits hboot (hruns hop) hlen, hmgt, hsec, hjob⟩

end Sys2Proof.Machine
end

section
/-! PROOFS, express: what recording, SAFE_HOLD, READY and DEGRADED, frames and completions leave alone; and what SAFE_HOLD asserted
brings about (R126, R288 to R291, R333, R362, R374). -/

namespace Sys2Proof.Machine

/-! ## Recording, and a change of the device state -/

section
variable {γ : Type} (f : Glb → γ)

/-- A message, of the global registers, enters the pending bits alone (R333). -/
theorem msix_glb_keeps (hf : ∀ g m, f { g with msixPba := m } = f g) (v : Nat) (s : State) : f (msix v s).glb = f s.glb := by
  obtain ⟨o, m, h⟩ := msix_messaged v s
  rw [h]
  exact hf ..

theorem record_glb_keeps (hf : ∀ g m, f { g with msixPba := m } = f g) (c : BitVec 16) (t : Option Nat) (unit arg addr : Nat)
    (s : State) : f (record c t unit arg addr s).glb = f s.glb := by
  have hnote := noteBlock_keeps State.glb (fun _ _ _ _ => rfl) c t unit arg
  unfold record
  split
  · rw [hnote]
  · rw [msix_glb_keeps f hf, hnote]

theorem setDev_glb_keeps (hf : ∀ g d p m, f { g with st := d, prev := p, msixPba := m } = f g) (d : DevState) (s : State) :
    f (setDev d s).glb = f s.glb := by
  unfold setDev
  split
  · rfl
  · rw [msix_glb_keeps f fun g m => hf g g.st g.prev m]
    exact hf s.glb d _ s.glb.msixPba

end

@[simp] theorem record_st (c : BitVec 16) (t : Option Nat) (unit arg addr : Nat) (s : State) :
    (record c t unit arg addr s).glb.st = s.glb.st := record_glb_keeps Glb.st (fun _ _ => rfl) ..

@[simp] theorem record_devTime (c : BitVec 16) (t : Option Nat) (unit arg addr : Nat) (s : State) :
    (record c t unit arg addr s).glb.devTime = s.glb.devTime := record_glb_keeps Glb.devTime (fun _ _ => rfl) ..

@[simp] theorem setDev_st (d : DevState) (s : State) : (setDev d s).glb.st = d := by
  unfold setDev
  split
  · next h => exact h
  · exact msix_glb_keeps Glb.st (fun _ _ => rfl) ..

section
variable {γ : Type} (f : State → γ) (hf : ∀ s g o, f { s with glb := g, out := o } = f s)
include hf

theorem setDev_keeps (d : DevState) (s : State) : f (setDev d s) = f s := by
  unfold setDev
  split
  · rfl
  · rw [msix_keeps f hf]
    exact hf s _ s.out

/-- READY and DEGRADED follow the spare and the lanes in the device state alone (R289). -/
theorem updDegraded_keeps (s : State) : f (updDegraded s) = f s := by
  unfold updDegraded
  extract_lets bad
  split
  · split
    · exact setDev_keeps f hf ..
    · rfl
  · split
    · rfl
    · exact setDev_keeps f hf ..
  · rfl

end

@[simp] theorem setDev_xpr (d : DevState) (s : State) : (setDev d s).xpr = s.xpr := setDev_keeps State.xpr (fun _ _ _ => rfl) ..
@[simp] theorem updDegraded_xpr (s : State) : (updDegraded s).xpr = s.xpr := updDegraded_keeps State.xpr (fun _ _ _ => rfl) s

/-- SAFE_HOLD is neither entered nor left there. -/
theorem updDegraded_st_ne {s : State} (h : s.glb.st ≠ .safeHold) : (updDegraded s).glb.st ≠ .safeHold := by
  unfold updDegraded
  extract_lets bad
  split
  · split
    · simp
    · exact h
  · split
    · exact h
    · simp
  · exact h

/-! ## Express indices and lanes -/

theorem State.xid_congr {s u : State} (h : u.xpr.xids = s.xpr.xids) (x : Nat) : u.xid x = s.xid x := by simp only [State.xid, h]

theorem State.lane_congr {s u : State} (h : u.xpr = s.xpr) (l : Lane) : u.lane l = s.lane l := by simp only [State.lane, h]

theorem State.armedXids_congr {s u : State} (h : u.xpr.xids = s.xpr.xids) : u.armedXids = s.armedXids := by
  simp only [State.armedXids, State.xid_congr h]

theorem State.anyArmed_congr {s u : State} (h : u.xpr.xids = s.xpr.xids) : u.anyArmed = s.anyArmed := by
  rw [State.anyArmed, State.armedXids_congr h, State.anyArmed]

theorem State.windowOpen_congr {s u : State} (h : u.xpr.xids = s.xpr.xids) : u.windowOpen = s.windowOpen := by
  simp only [State.windowOpen, State.xid_congr h]

theorem State.mem_armedXids {s : State} {x : Nat} : x ∈ s.armedXids ↔ x < 4 ∧ (s.xid x).armed = true := by
  simp [State.armedXids]

theorem State.anyArmed_of_armed {s : State} {x : Fin 4} (h : (s.xid x).armed = true) : s.anyArmed = true := by
  have hmem : x.val ∈ s.armedXids := State.mem_armedXids.mpr ⟨x.isLt, h⟩
  unfold State.anyArmed
  cases hl : s.armedXids with
  | nil => rw [hl] at hmem; cases hmem
  | cons => rfl

theorem State.exists_armed {s : State} (h : s.anyArmed = true) : ∃ x : Fin 4, (s.xid x).armed = true := by
  cases hl : s.armedXids with
  | nil => simp [State.anyArmed, hl] at h
  | cons x r =>
    obtain ⟨hx, harmed⟩ := State.mem_armedXids.mp (hl ▸ List.mem_cons_self : x ∈ s.armedXids)
    exact ⟨⟨x, hx⟩, harmed⟩

/-- What queues frames on the lanes enters nothing but the lanes. -/
theorem bothLanes_keeps {γ : Type} (f : State → γ) (hf : ∀ s a b, f { s with xpr := { s.xpr with laneA := a, laneB := b } } = f s)
    (src : Nat) (fr : Bytes) (s : State) : f (bothLanes src fr s) = f s := hf s _ _

@[simp] theorem bothLanes_glb (src : Nat) (fr : Bytes) (s : State) : (bothLanes src fr s).glb = s.glb := rfl
@[simp] theorem bothLanes_xid (src : Nat) (fr : Bytes) (s : State) (x : Nat) : (bothLanes src fr s).xid x = s.xid x := rfl
theorem bothLanes_lane (src : Nat) (fr : Bytes) (s : State) (l : Lane) :
    (bothLanes src fr s).lane l = { s.lane l with txq := supd [] (s.lane l).txq src (fun q => q ++ [fr]) } := by cases l <;> rfl

/-! ## SAFE_HOLD asserted (R288, R289) -/

theorem Xid.held_of_armed {v : Xid} (h : v.armed = true) :
    v.held = { v with st := .held, inv := none, waitSeq := none, rerun := none } := if_pos h

/-- What an armed index is once all are held: the entries that vanish are of no armed index. -/
theorem sget_held {l : Store Xid} {x : Nat} (h : (sget Xid.init l x).armed = true) :
    sget Xid.init ((l.map (fun e => (e.1, e.2.held))).filter (fun e => decide (e.2 ≠ Xid.init))) x = (sget Xid.init l x).held := by
  induction l with
  | nil => cases h
  | cons e r ih =>
    rw [List.map_cons, List.filter_cons]
    by_cases hx : e.1 = x
    · simp only [sget, if_pos hx] at h ⊢
      have hne : e.2.held ≠ Xid.init := fun he => by simp [Xid.held_of_armed h, Xid.init] at he
      simp [hne, sget, hx]
    · simp only [sget, if_neg hx] at h ⊢
      split
      · simpa only [sget, if_neg hx] using ih h
      · exact ih h

theorem safeHold_of_silent {c : BitVec 16} {s : State} (h : s.anyArmed = false ∨ s.glb.st = .safeHold) : safeHold c s = s := by
  unfold safeHold
  exact if_pos (by rcases h with h | h <;> simp [h])

/-- Nothing but the device state, the pins, the express path, the log and what goes to the host changes with SAFE_HOLD. -/
theorem safeHold_keeps {γ : Type} (f : State → γ)
    (hf : ∀ s r g o d k w x, f { s with frc := r, glb := g, out := o, dep := d, sec := k, win := w, xpr := x } = f s)
    (c : BitVec 16) (s : State) : f (safeHold c s) = f s := by
  unfold safeHold
  split
  · rfl
  · extract_lets g v s1
    have hlanes (u : State) : f (bothLanes 4 (holdFrame c) u) = f u := hf u u.frc u.glb u.out u.dep u.sec u.win _
    rw [hlanes, record_keeps f fun u r g o d k w => hf u r g o d k w u.xpr,
      setDev_keeps f fun u g o => hf u u.frc g o u.dep u.sec u.win u.xpr]
    exact hf s s.frc _ s.out s.dep s.sec s.win _

/-- Of the express path it leaves all but the indices, the proof, its own code and time, and the frames that wait. -/
theorem safeHold_xpr_keeps {γ : Type} (f : Xpr → γ)
    (hf : ∀ v i c t p a b, f { v with xids := i, holdCode := c, holdTime := t, proof := p, laneA := { v.laneA with txq := a },
                                      laneB := { v.laneB with txq := b } } = f v) (c : BitVec 16) (s : State) :
    f (safeHold c s).xpr = f s.xpr := by
  unfold safeHold
  split
  · rfl
  · extract_lets g v s1
    have hlanes (u : State) : f (bothLanes 4 (holdFrame c) u).xpr = f u.xpr :=
      hf u.xpr u.xpr.xids u.xpr.holdCode u.xpr.holdTime u.xpr.proof _ _
    rw [hlanes, record_xpr, setDev_xpr]
    exact hf ..

/-- SAFE_HOLD is asserted where a tenant is armed and it is not asserted yet; `s` is the state in which its cause was met. -/
theorem held_safeHold {c : BitVec 16} {s w : State} (hst : w.glb.st ≠ .safeHold)
    (hsame : ∀ y : Fin 4, (s.xid y).armed = true → (w.xid y).armed = true) (harm : s.anyArmed = true) : Held c s (safeHold c w) := by
  obtain ⟨x, hx⟩ := State.exists_armed harm
  have hany : w.anyArmed = true := State.anyArmed_of_armed (hsame x hx)
  unfold safeHold
  rw [if_neg (by simp [hany, hst])]
  extract_lets g v s1
  refine ⟨?_, ?_, ?_, fun y hy => ?_⟩
  · simp
  · rw [bothLanes_glb, record_glb_keeps Glb.safeHoldN fun _ _ => rfl, setDev_glb_keeps Glb.safeHoldN fun _ _ _ _ => rfl]
  · rw [bothLanes_keeps (fun u => u.xpr.holdCode) fun _ _ _ => rfl, record_xpr, setDev_xpr]
  · have hxids : (record Code.safeHoldEntered none unitSbox c.toNat 0 (setDev .safeHold s1)).xpr.xids = s1.xpr.xids := by
      rw [record_xpr, setDev_xpr]
    rw [bothLanes_xid, State.xid_congr hxids]
    have hheld : s1.xid y = (w.xid y).held := sget_held (hsame y hy)
    rw [hheld, Xid.held_of_armed (hsame y hy)]

/-- A cause that is recorded as it is met. -/
theorem held_safeHold_record {c k : BitVec 16} {s w : State} (t : Option Nat) (unit arg addr : Nat) (hst : w.glb.st ≠ .safeHold)
    (hsame : ∀ y : Fin 4, (s.xid y).armed = true → (w.xid y).armed = true) (harm : s.anyArmed = true) :
    Held c s (safeHold c (record k t unit arg addr w)) :=
  held_safeHold (by rwa [record_st]) (fun y hy => by rw [State.xid_congr (congrArg Xpr.xids (record_xpr ..))]; exact hsame y hy) harm

/-! ## Completion (R126, R135) -/

/-- What marks an instruction as complete enters the contexts of tenants, and, where its status is a fault, the first memory fault and
a record. -/
theorem finish_cases (t q : Nat) (idx : Reg32) (status : BitVec 16) (value : BitVec 64) (addr unit : Nat) (log : Bool) (s : State) :
    ∃ y, finish t q idx status value addr unit log s = { s with ten := y } ∨
      finish t q idx status value addr unit log s =
        record status (some t) unit (fwArg status) addr (noteMem status t addr { s with ten := y }) := by
  cases h : (s.queue t q).issued.find? (fun e => e.idx == idx && e.status.isNone) with
  | none => exact ⟨s.ten, .inl (finish_of_absent h)⟩
  | some e =>
    simp only [finish, h]
    by_cases hlog : ((status != 0 && status != Code.cfgWrBusy) && log) = true
    · simp only [if_pos hlog]
      exact ⟨_, .inr rfl⟩
    · simp only [if_neg hlog]
      exact ⟨_, .inl rfl⟩

/-- So does the completion of an instruction, with all that it settles. -/
theorem complete_cases (t q : Nat) (idx : Reg32) (status : BitVec 16) (value : BitVec 64) (addr unit : Nat) (log : Bool) (s : State) :
    ∃ y z, complete t q idx status value addr unit log s = { s with ten := z } ∨
      complete t q idx status value addr unit log s =
        { record status (some t) unit (fwArg status) addr (noteMem status t addr { s with ten := y }) with ten := z } := by
  have hsettle (u : State) : settle t (settleCopies t u) = { u with ten := (settle t (settleCopies t u)).ten } := by
    have hidle (v : State) : ∀ r, (fun _ => False) r → (v.queue t r).Idle := fun _ h => h.elim
    exact ((goesOn_settleCopies (hidle u)).trans (goesOn_settle (hidle _))).rest
  unfold complete
  rw [hsettle]
  generalize (settle t (settleCopies t (finish t q idx status value addr unit log s))).ten = z
  obtain ⟨y, h | h⟩ := finish_cases t q idx status value addr unit log s
  · exact ⟨y, z, .inl (by rw [h])⟩
  · exact ⟨y, z, .inr (by rw [h])⟩

/-- What a completion leaves of a part of the state that shows no tenant. -/
theorem complete_keeps {γ : Type} (f : State → γ) (hten : ∀ s z, f { s with ten := z } = f s)
    (hrec : ∀ c t unit arg addr s, f (record c t unit arg addr s) = f s) (hmem : ∀ c t addr s, f (noteMem c t addr s) = f s)
    (t q : Nat) (idx : Reg32) (status : BitVec 16) (value : BitVec 64) (addr unit : Nat) (log : Bool) (s : State) :
    f (complete t q idx status value addr unit log s) = f s := by
  obtain ⟨y, z, h | h⟩ := complete_cases t q idx status value addr unit log s
  · rw [h, hten]
  · rw [h, hten, hrec, hmem, hten]

theorem noteMem_keeps {γ : Type} (f : State → γ) (hf : ∀ s v t c a, f { s with mtc := { s.mtc with
    faultValid := v, faultTenant := t, faultCode := c, faultAddr := a } } = f s) (c : BitVec 16) (t addr : Nat) (s : State) :
    f (noteMem c t addr s) = f s := by
  unfold noteMem
  split
  · unfold Mtc.noteFault
    split
    · rfl
    · exact hf ..
  · rfl

@[simp] theorem complete_xpr (t q : Nat) (idx : Reg32) (status : BitVec 16) (value : BitVec 64) (addr unit : Nat) (log : Bool)
    (s : State) : (complete t q idx status value addr unit log s).xpr = s.xpr :=
  complete_keeps State.xpr (fun _ _ => rfl) record_xpr (noteMem_keeps State.xpr fun _ _ _ _ _ => rfl) ..

end Sys2Proof.Machine
end

section
/-! PROOFS, O41. What gives SAFE_HOLD, and the HOLD frames that follow (R272, R283, R286 to R289, R374). -/

namespace Sys2Proof.Machine

/-! ## Disarming that was asked for (R272) -/

@[simp] theorem autoForm_xids (s : State) : (autoForm s).xpr.xids = s.xpr.xids := by
  unfold autoForm
  split
  · rfl
  · split <;> rfl

@[simp] theorem freeSpare_xids (s : State) : (freeSpare s).xpr.xids = s.xpr.xids := by
  unfold freeSpare
  split <;> rfl

/-- An index whose disarming has ended. -/
def Xid.disarmed (v : Xid) : Xid :=
  { v with
    st := if v.st = .held then .held else .disarmed
    roles := [], inv := none, waitSeq := none, rerun := none, record := [], reqA := none, reqB := none, copies := []
    window := false, windowSeq := none, disarmJobs := [], resetAfter := false }

/-- Disarming ends one index and leaves the others alone. -/
theorem disarmNow_xid (x y : Nat) (s : State) : (disarmNow x s).xid y = if y = x then (s.xid x).disarmed else s.xid y := by
  unfold disarmNow
  extract_lets v t p s0 s1 s2 s3 q g s4 s5
  have h0 : s0.xpr.xids = s.xpr.xids := by
    unfold s0
    split
    · split <;> rfl
    · rfl
  have h1 : s1.xpr.xids = s.xpr.xids :=
    (foldl_keeps (fun u : State => u.xpr.xids) (fun u a => u.modArr a Arr.leavePair) v.arrays s0 fun _ _ => rfl).trans h0
  have h2 : (zeroCon v.mbase v.size s2).xpr.xids = s.xpr.xids := h1
  have h3 : s3.xid y = if y = x then (s.xid x).disarmed else s.xid y := by
    unfold s3
    rw [State.xid_modXid, State.xid_congr h2, State.xid_congr h2]
    rfl
  have h4 : s4.xpr.xids = s3.xpr.xids := by
    unfold s4
    split
    · exact autoForm_xids _
    · exact freeSpare_xids _
  have h5 : s5.xpr.xids = s3.xpr.xids := (congrArg Xpr.xids (updDegraded_xpr s4)).trans h4
  rw [State.xid_congr ((foldl_keeps (fun u : State => u.xpr.xids) _ _ s5 fun u j => congrArg Xpr.xids (complete_xpr ..)).trans h5), h3]

theorem tryDisarm_of_unasked {x : Nat} {s : State} (h : (s.xid x).disarmJobs = [] ∧ (s.xid x).resetAfter = false) :
    tryDisarm x s = s := by
  unfold tryDisarm
  extract_lets v
  exact if_neg (by simp [v, h])

/-- An index that SAFE_HOLD has stopped, with an XPRDISARM that waits, is disarmed. -/
theorem tryDisarm_of_held {x : Nat} {s : State} (hst : (s.xid x).st = .held) (hroles : (s.xid x).roles ≠ [])
    (hjobs : (s.xid x).disarmJobs ≠ []) : tryDisarm x s = disarmNow x s := by
  unfold tryDisarm
  extract_lets v
  exact if_pos (by simp [v, Xid.armed, hst, hroles, hjobs])

theorem tryDisarm_xid_of_ne {x y : Nat} (h : y ≠ x) (s : State) : (tryDisarm x s).xid y = s.xid y := by
  unfold tryDisarm
  extract_lets v
  split
  · rw [disarmNow_xid, if_neg h]
  · rfl

/-- An index without pairs is not armed while HELD, and so not disarmed again. -/
theorem tryDisarm_of_roleless {x : Nat} {s : State} (hst : (s.xid x).st = .held) (hroles : (s.xid x).roles = []) : tryDisarm x s = s := by
  unfold tryDisarm
  extract_lets v
  exact if_neg (by simp [v, Xid.armed, hst, hroles])

/-! ## HOLD (R288) -/

/-- Both lanes are given a HOLD frame. -/
def holdSent (s : State) : State := bothLanes 4 (holdFrame s.xpr.holdCode) { s with xpr := { s.xpr with holdTime := s.glb.devTime } }

theorem exec_hold_of_due {s : State} (hst : s.glb.st = .safeHold) (hdue : s.xpr.holdTime + 200 * us ≤ s.glb.devTime) :
    exec .hold s = .next ((List.range 4).foldl (fun s x => tryDisarm x s) (holdSent s)) := if_pos ⟨hst, hdue⟩

/-- The statement's four conditions of a disarmed index, through the turns of the others. -/
theorem foldl_tryDisarm_disarms {s : State} {z : Fin 4} (hst : (s.xid z).st = .held) (hroles : (s.xid z).roles ≠ [])
    (hjobs : (s.xid z).disarmJobs ≠ []) :
    ((List.range 4).foldl (fun s x => tryDisarm x s) s).xid z = (s.xid z).disarmed := by
  refine foldl_reaches (P := fun u : State => u.xid z = s.xid z) (Q := fun u : State => u.xid z = (s.xid z).disarmed)
    (fun u k hk hu => ?_) (fun u hu => ?_) (fun u k hu => ?_) (List.mem_range.mpr z.isLt) rfl
  · rw [tryDisarm_xid_of_ne (Ne.symm hk), hu]
  · rw [← hu] at hst hroles hjobs ⊢
    rw [tryDisarm_of_held hst hroles hjobs, disarmNow_xid, if_pos rfl]
  · by_cases hk : z.val = k
    · rw [← hk, tryDisarm_of_roleless, hu]
      · rw [hu]; exact if_pos hst
      · rw [hu]; rfl
    · rw [tryDisarm_xid_of_ne hk, hu]

/-- Settles O41: each cause records and asserts SAFE_HOLD; HOLD sends its frames and ends the disarmings that wait. -/
theorem safeHoldCauses : Obligations.SafeHoldCauses := by
  unfold Obligations.SafeHoldCauses
  intro x i ra rb s now
  refine ⟨fun harmed hst => ?causes, ?clockPasses, ?unarmed, ?inReset, ?boxPasses, ?disarms, ?frames⟩
  case causes =>
    have hany : s.anyArmed = true := State.anyArmed_of_armed harmed
    refine ⟨fun hheld hinv hres hlate => ?deadline, fun hdue => ?clock, fun hpor => ?lockstep, fun hdue hbad => ?check⟩
    case deadline =>
      refine ⟨_, if_pos ?_, held_safeHold_record _ _ _ _ hst (fun _ => id) hany⟩
      have hlate' : i.avail + 480 * us ≤ s.glb.devTime := hlate
      rcases hinv with h | h <;> simp [harmed, hheld, h, hres, hlate']
    case clock =>
      refine ⟨_, if_neg (Nat.not_lt.mpr hdue), held_safeHold_record _ _ _ _ hst (fun _ => id) hany, ?_⟩
      exact (safeHold_xpr_keeps Xpr.clockTime (fun _ _ _ _ _ _ _ => rfl) ..).trans (congrArg Xpr.clockTime (record_xpr ..))
    case lockstep =>
      exact ⟨_, if_neg (by simp [hpor]), held_safeHold_record _ _ _ _ hst (fun _ => id) hany⟩
    case check =>
      refine ⟨_, (if_neg (Nat.not_lt.mpr hdue)).trans (congrArg Host.Outcome.next (if_neg (Bool.eq_false_iff.mp hbad))),
        held_safeHold_record _ _ _ _ hst (fun _ => id) hany, ?_⟩
      exact (safeHold_xpr_keeps Xpr.checkTime (fun _ _ _ _ _ _ _ => rfl) ..).trans (congrArg Xpr.checkTime (record_xpr ..))
  case clockPasses => exact fun hdue => if_neg (Nat.not_lt.mpr hdue)
  case unarmed =>
    intro hpor hnone
    refine (if_neg (by simp [hpor])).trans (congrArg Host.Outcome.next (safeHold_of_silent (.inl ?_)))
    rw [State.anyArmed_congr (congrArg Xpr.xids (record_xpr ..)), hnone]
  case inReset => exact fun hpor => if_pos (by simp [hpor])
  case boxPasses => exact fun hdue => if_neg (Nat.not_lt.mpr hdue)
  case disarms =>
    intro hst hdue z hheld hroles hjobs
    refine ⟨_, exec_hold_of_due hst hdue, ?_⟩
    rw [foldl_tryDisarm_disarms (s := holdSent s) hheld hroles hjobs]
    exact ⟨rfl, rfl, if_pos hheld⟩
  case frames =>
    intro hst hdue hunasked
    have hidle : (List.range 4).foldl (fun s x => tryDisarm x s) (holdSent s) = holdSent s :=
      foldl_of_fixed fun y hy => tryDisarm_of_unasked (hunasked ⟨y, List.mem_range.mp hy⟩)
    refine ⟨_, exec_hold_of_due hst hdue, ?_⟩
    rw [hidle]
    exact ⟨rfl, rfl, rfl, rfl, fun l => bothLanes_lane 4 _ _ l⟩

end Sys2Proof.Machine
end

section
/-! PROOFS, O38. An XPRARM whose tenant's context is listed twice (R271). -/

namespace Sys2Proof.Machine

/-- The parameter table of a package for one pair and one step, in the first bytes of a granule (R267, R271). -/
def tableCells : List Host.Cell := [(0, 0x96), (2, 0x50), (3, 0x58), (4, 1), (5, 1)]

/-- A tenant of class express that runs on planner 1 with arrays 62 and 63 and an armed express copy whose package is at address 0. -/
def armingTenant : Tenant :=
  { Tenant.init with
    st := .running, cls := 1, planner := 1, conSize := 64, bindAry := 0xC000000000000000, ranges := [(0, ⟨0, 0, 16⟩)]
    copies := [(3, { Copy.init with st := .armed, express := true })]
    queues := [(0, { Queue.init with enable := true, st := .idle, tail := 2, batch := some ⟨none, true, 0⟩ })] }

/-- A context with an accepted re-binding of array 1. -/
def claimingTenant : Tenant := { Tenant.init with rebind := some ⟨0, 0, 0, false, 0, false, some 0, none, 1, 0, true, 0⟩ }

/-- Tenant 0 is listed twice: what reads its context sees the first, what goes through all jobs sees the second too. -/
def listedToArm : State :=
  { State.reset with
    glb := { Glb.init with attached := true }, ten := [(0, armingTenant), (0, claimingTenant)]
    mtc := { Mtc.init with map := [(0, ⟨.stacked 0, 0, 0⟩)], stk := tableCells } }

/-- XPRARM of index 0 from copy 3, mirrored from 192 MiB on, with a period of 100 µs and the spare pair 1 and 0. -/
def armWord : BitVec 64 := 0x3800F00102064000

theorem mayIssue_armWord : MayIssue listedToArm 0 0 armWord 0 := by
  unfold MayIssue Presents
  decide +kernel

theorem armFails_listedToArm : armFails (0 : Ten) armWord listedToArm = some 1 := by decide +kernel

theorem exec_xprarm_listedToArm : ∃ u, exec (.xprarm 0 0 armWord 0) listedToArm = .next u ∧ (u.queue 0 0).st = .idle :=
  ⟨_, rfl, by decide +kernel⟩

/-- Refutes O38: the statement asks R271's checks before the turn passes on, the model after it, and the turn's write of tenant 0's
context drops a second entry of that tenant, with it the re-binding that claims array 1: the model arms, while the statement has the
XPRARM fail at that array. It takes a table of contexts that is not in canonical form. -/
theorem not_expressArmsAndDisarms : ¬ Obligations.ExpressArmsAndDisarms := by
  unfold Obligations.ExpressArmsAndDisarms
  intro h
  obtain ⟨u, hu, hidle⟩ := exec_xprarm_listedToArm
  obtain ⟨-, hfails, -⟩ := h 0 0 armWord 0 0 1 ⟨0, 0, false, false, none, 0, 0⟩ [] [] listedToArm
  obtain ⟨v, hv, hfaulted, -⟩ := hfails (by decide) mayIssue_armWord armFails_listedToArm rfl
  obtain rfl : v = u := Host.Outcome.next.inj (hv.symm.trans hu)
  exact absurd (hidle.symm.trans hfaulted) (by decide)

end Sys2Proof.Machine
end

section
/-! PROOFS, O42. The slots of a lane, ALIVE, and a lane's watchdog, recovery and alignment (R282, R283, R290, R292, R293, R345). -/

namespace Sys2Proof.Machine

/-! ## Slots -/

theorem LaneSt.slotFree_of {v : LaneSt} {now : Nat} (h : ∀ t, v.slotTime = some t → t + 256 ≤ now) : v.slotFree now = true := by
  unfold LaneSt.slotFree
  cases hv : v.slotTime with
  | none => rfl
  | some t => exact decide_eq_true (h t hv)

/-- A frame goes out with the lane's LINKSEQ and takes its slot; nothing else changes. -/
theorem sendFrame_eq (l : Lane) (f : Bytes) (s : State) :
    sendFrame l f s = { s with out := s.out ++ [Output.frame l (frameChars (sealFrame l (s.lane l).txSeq f))] }.setLane l
      { s.lane l with txSeq := (s.lane l).txSeq + 1, txTime := some s.glb.devTime, slotTime := some s.glb.devTime } := by cases l <;> rfl

@[simp] theorem sendFrame_xid (l : Lane) (f : Bytes) (s : State) (x : Nat) : (sendFrame l f s).xid x = s.xid x := by cases l <;> rfl
@[simp] theorem sendFrame_glb (l : Lane) (f : Bytes) (s : State) : (sendFrame l f s).glb = s.glb := by cases l <;> rfl
@[simp] theorem sendFrame_mtc (l : Lane) (f : Bytes) (s : State) : (sendFrame l f s).mtc = s.mtc := by cases l <;> rfl
@[simp] theorem sendFrame_ary (l : Lane) (f : Bytes) (s : State) : (sendFrame l f s).ary = s.ary := by cases l <;> rfl
@[simp] theorem sendFrame_txq (l : Lane) (f : Bytes) (s : State) : ((sendFrame l f s).lane l).txq = (s.lane l).txq := by cases l <;> rfl

theorem sendIdle_eq (l : Lane) (s : State) :
    sendIdle l s = { s with out := s.out ++ [Output.frame l (List.replicate 64 idleChar)] }.setLane l
      { s.lane l with slotTime := some s.glb.devTime } := by cases l <;> rfl

/-- The turn of source `k`: its next frame leaves the queue. -/
def takeNext (l : Lane) (k : Nat) (s : State) : State :=
  s.setLane l { s.lane l with
    txq := sset [] (s.lane l).txq k ((sget [] (s.lane l).txq k).drop 1)
    txNext := if k = 4 then (s.lane l).txNext else (k + 1) % 4 }

/-- A slot that a queued frame takes. -/
theorem exec_laneSlot_of_queued {l : Lane} {k : Nat} {f : Bytes} {rest : List Bytes} {ce ue : List Nat} {s : State} (hup : s.linkUp = true)
    (hfree : (s.lane l).slotFree s.glb.devTime = true)
    (hk : (s.lane l).order.find? (fun k => !(sget [] (s.lane l).txq k).isEmpty) = some k)
    (hq : sget [] (s.lane l).txq k = f :: rest) (hf : frType f ≠ 0x2E) :
    exec (.laneSlot l ce ue) s = .next (resErrs f ce ue (resSent f (sendFrame l f (takeNext l k s)))) := by
  refine (if_neg (by simp [hup, hfree])).trans ?_
  simp only [hk, hq, List.headD_cons, if_neg hf]
  simp only [takeNext, State.modLane, hq]

/-- With nothing of source 4 the turn is that of `txNext`. -/
theorem LaneSt.find_order {v : LaneSt} {f : Bytes} {rest : List Bytes} (h4 : sget [] v.txq 4 = []) (hnext : v.txNext < 4)
    (hq : sget [] v.txq v.txNext = f :: rest) :
    v.order.find? (fun k => !(sget [] v.txq k).isEmpty) = some v.txNext := by
  have horder : v.order = 4 :: v.txNext :: [(v.txNext + 1) % 4, (v.txNext + 2) % 4, (v.txNext + 3) % 4] := by
    simp [LaneSt.order, List.range_succ, Nat.mod_eq_of_lt hnext]
  rw [horder, List.find?_cons_of_neg (by simp [h4]), List.find?_cons_of_pos (by simp [hq])]

theorem resSent_of_other {f : Bytes} {s : State} (hf : frType f ≠ 0x21) : resSent f s = s := if_neg fun h => hf h.1

/-! ## The end of an invocation (R283) -/

/-- The index of a result frame once both lanes have sent the last one. -/
def invocationEnds (f : Bytes) (s : State) : State :=
  (s.modXid (frXid f) (fun v => if frFrag f = 0 then v.resBegins s.glb.devTime else v)).modXid (frXid f) Xid.resEnds

@[simp] theorem invocationEnds_glb (f : Bytes) (s : State) : (invocationEnds f s).glb = s.glb := by
  simp only [invocationEnds, State.modXid_glb]
@[simp] theorem invocationEnds_mtc (f : Bytes) (s : State) : (invocationEnds f s).mtc = s.mtc := by
  simp only [invocationEnds, State.modXid_mtc]
@[simp] theorem invocationEnds_ary (f : Bytes) (s : State) : (invocationEnds f s).ary = s.ary := by
  simp only [invocationEnds, State.modXid_ary]
@[simp] theorem invocationEnds_lane (f : Bytes) (s : State) (l : Lane) : (invocationEnds f s).lane l = s.lane l := by
  simp only [invocationEnds, State.lane_modXid]

theorem Xid.resBegins_eq (now : Nat) {v : Xid} {i : Invocation} (hinv : v.inv = some i) :
    ∃ r a b, v.resBegins now = { v with inv := some { i with resStarted := r }, latLast := a, latMax := b } := by
  simp only [Xid.resBegins, hinv]
  split
  · exact ⟨i.resStarted, v.latLast, v.latMax, congrArg (fun o => { v with inv := o }) hinv⟩
  · exact ⟨true, _, _, rfl⟩

theorem Xid.resEnds_of_oneLane {v : Xid} {i : Invocation} (hinv : v.inv = some i) (hone : i.oneLane = true) :
    v.resEnds = { v with st := .idle, inv := none, valid := satAdd v.valid 1 } := by
  simp only [Xid.resEnds, hinv, hone, if_true]

section
variable {f : Bytes} {i : Invocation} {s : State} (hinv : (s.xid (frXid f)).inv = some i) (hone : i.oneLane = true)
include hinv hone

/-- The index is IDLE again; but for its latencies nothing else of it changes. -/
theorem invocationEnds_xid : ∃ a b, (invocationEnds f s).xid (frXid f) =
    { s.xid (frXid f) with
      st := .idle, inv := none, valid := satAdd (s.xid (frXid f)).valid 1, latLast := a, latMax := b } := by
  simp only [invocationEnds, State.xid_modXid, if_true]
  split
  · obtain ⟨r, a, b, h⟩ := Xid.resBegins_eq s.glb.devTime hinv
    exact ⟨a, b, by rw [h, Xid.resEnds_of_oneLane (i := { i with resStarted := r }) rfl hone]⟩
  · exact ⟨_, _, Xid.resEnds_of_oneLane hinv hone⟩

/-- The second lane sends the last result frame, and no disarming waits. -/
theorem resSent_of_last (hf : frType f = 0x21) (hfrag : frFrag f = frNfrag f) (hseq : i.seq = frSeq f)
    (hjobs : (s.xid (frXid f)).disarmJobs = []) (hreset : (s.xid (frXid f)).resetAfter = false) : resSent f s = invocationEnds f s := by
  obtain ⟨a, b, hends⟩ := invocationEnds_xid hinv hone
  refine (if_pos ⟨hf, by simp [hinv, hseq]⟩).trans ((if_pos hfrag).trans ?_)
  exact tryDisarm_of_unasked (s := invocationEnds f s) (by rw [hends]; exact ⟨hjobs, hreset⟩)

end

/-! ## Errors of the reads of a result buffer (R198) -/

theorem conErrsIn_keeps {γ : Type} (f : State → γ) (hf : ∀ s m, f { s with mtc := m } = f s) (base size : Nat) (ce ue : List Nat)
    (s : State) : f (conErrsIn base size ce ue s) = f s :=
  (foldl_keeps f _ ce _ fun s _ => hf s _).trans (hf s _)

theorem xidErrs_keeps {γ : Type} (f : State → γ) (hf : ∀ s m, f { s with mtc := m } = f s) (x : Nat) (ce ue : List Nat) (s : State) :
    f (xidErrs x ce ue s) = f s :=
  (conErrsIn_keeps f hf ..).trans (conErrsIn_keeps f hf ..)

theorem conErrsIn_mtc_congr {s u : State} (hm : u.mtc = s.mtc) (hg : u.glb.devTime = s.glb.devTime) (base size : Nat) (ce ue : List Nat) :
    (conErrsIn base size ce ue u).mtc = (conErrsIn base size ce ue s).mtc := by
  have hrows : ∀ (l : List Nat) (u s : State), u.mtc = s.mtc → u.glb.devTime = s.glb.devTime →
      (l.foldl (fun s a => logConRow a s) u).mtc = (l.foldl (fun s a => logConRow a s) s).mtc := by
    intro l
    induction l with
    | nil => exact fun u s hm _ => hm
    | cons a r ih => exact fun u s hm hg => ih _ _ (by simp only [logConRow, logBankRow, hm, hg]) hg
  exact hrows ce _ _ (by rw [hm]) hg

/-- They enter the memories by the partition, its mirror and the time alone. -/
theorem xidErrs_mtc_congr {s u : State} {x : Nat} (hm : u.mtc = s.mtc) (hg : u.glb = s.glb) (hbase : (u.xid x).base = (s.xid x).base)
    (hmbase : (u.xid x).mbase = (s.xid x).mbase) (hsize : (u.xid x).size = (s.xid x).size) (ce ue : List Nat) :
    (xidErrs x ce ue u).mtc = (xidErrs x ce ue s).mtc := by
  unfold xidErrs
  extract_lets v w
  simp only [v, w, hbase, hmbase, hsize]
  have hglb (v : State) (base : Nat) : (conErrsIn base (s.xid x).size ce ue v).glb = v.glb := conErrsIn_keeps State.glb (fun _ _ => rfl) ..
  exact conErrsIn_mtc_congr (conErrsIn_mtc_congr hm (by rw [hg]) ..) (by rw [hglb, hglb, hg]) ..

/-! ## Faulted lanes (R292) -/

theorem linkLost_keeps {γ : Type} (f : State → γ)
    (hf : ∀ s r g o d k w x, f { s with frc := r, glb := g, out := o, dep := d, sec := k, win := w, xpr := x } = f s) (s : State) :
    f (linkLost s) = f s := by
  unfold linkLost
  split
  · rw [safeHold_keeps f hf, record_keeps f fun u r g o d k w => hf u r g o d k w u.xpr]
  · rfl

section
variable {γ : Type} (f : LaneSt → γ)

/-- SAFE_HOLD leaves all of a lane but the frames that wait on it. -/
theorem safeHold_lane_keeps (hf : ∀ v q, f { v with txq := q } = f v) (c : BitVec 16) (s : State) (l : Lane) :
    f ((safeHold c s).lane l) = f (s.lane l) := by
  have hkeeps := safeHold_xpr_keeps (fun v => f (State.lane { s with xpr := v } l)) (by intros; cases l <;> exact hf ..) c s
  cases l <;> exact hkeeps

theorem linkLost_lane_keeps (hf : ∀ v q, f { v with txq := q } = f v) (s : State) (l : Lane) :
    f ((linkLost s).lane l) = f (s.lane l) := by
  unfold linkLost
  split
  · rw [safeHold_lane_keeps f hf, State.lane_congr (record_xpr ..)]
  · rfl

/-- What a lane found bad is beside FAULTED, whatever SAFE_HOLD it brings. -/
theorem faultLane_lane (hf : ∀ v q, f { v with txq := q } = f v) (l : Lane) (s : State) :
    f ((faultLane l s).lane l) = f { s.lane l with faulted := true, cleanSince := s.glb.devTime } := by
  unfold faultLane
  split
  · next h => rw [State.lane_modLane, if_pos rfl, ← h]
  · extract_lets s1 s2
    have h1 : s1.lane l = { s.lane l with faulted := true, cleanSince := s.glb.devTime } := by
      rw [State.lane_congr (record_xpr ..), State.lane_modLane, if_pos rfl]
    have h2 : f (s2.lane l) = f (s1.lane l) := by
      unfold s2
      split
      · rw [safeHold_lane_keeps f hf]
      · rfl
    rw [State.lane_congr (updDegraded_xpr _), linkLost_lane_keeps f hf, h2, h1]

end

theorem faultLane_faulted (l : Lane) (s : State) : ((faultLane l s).lane l).faulted = true :=
  faultLane_lane LaneSt.faulted (fun _ _ => rfl) l s

theorem faultLane_keeps {γ : Type} (f : State → γ)
    (hf : ∀ s r g o d k w x, f { s with frc := r, glb := g, out := o, dep := d, sec := k, win := w, xpr := x } = f s)
    (l : Lane) (s : State) : f (faultLane l s) = f s := by
  have hlane (g : LaneSt → LaneSt) : f (s.modLane l g) = f s := by cases l <;> exact hf s s.frc s.glb s.out s.dep s.sec s.win _
  unfold faultLane
  split
  · exact hlane _
  · extract_lets s1 s2
    have h1 : f s1 = f s := (record_keeps f (fun u r g o d k w => hf u r g o d k w u.xpr) ..).trans (hlane _)
    have h2 : f s2 = f s := by
      unfold s2
      split
      · rw [safeHold_keeps f hf, h1]
      · exact h1
    rw [updDegraded_keeps f fun u g o => hf u u.frc g o u.dep u.sec u.win u.xpr, linkLost_keeps f hf, h2]

@[simp] theorem faultLane_mtc (l : Lane) (s : State) : (faultLane l s).mtc = s.mtc :=
  faultLane_keeps State.mtc (fun _ _ _ _ _ _ _ _ => rfl) l s
@[simp] theorem faultLane_ary (l : Lane) (s : State) : (faultLane l s).ary = s.ary :=
  faultLane_keeps State.ary (fun _ _ _ _ _ _ _ _ => rfl) l s

/-- Settles O42: each job of a lane's transmitter and receiver, by the conditions it looks at. -/
theorem lanesTransmit : Obligations.LanesTransmit := by
  unfold Obligations.LanesTransmit
  intro l f rest t x i ce ue s
  dsimp only
  refine ⟨?alive, ?frame, ?idle, ?ends, ?watchdog, ?recovery, ?align⟩
  case alive =>
    intro hup hnone hslot hquiet
    have hlong : (s.lane l).txTime.all (fun t => decide (t + 256 + 194 * us ≤ s.glb.devTime)) = true := by
      cases htime : (s.lane l).txTime with
      | none => rfl
      | some t => exact decide_eq_true (hquiet t htime)
    refine (if_pos ?_).trans (congrArg Host.Outcome.next (sendFrame_eq ..))
    rw [hup, LaneSt.slotFree_of hslot, hlong, hnone]
    rfl
  case frame =>
    intro hup hslot h4 hnext hq hres halive
    rw [exec_laneSlot_of_queued hup (LaneSt.slotFree_of hslot) (LaneSt.find_order h4 hnext hq) hq halive, resSent_of_other hres, resErrs,
      if_neg hres, sendFrame_eq, takeNext, hq, if_neg (Nat.ne_of_lt hnext)]
    cases l <;> rfl
  case idle =>
    intro hup hslot hnone
    have hfind : (s.lane l).order.find? (fun k => !(sget [] (s.lane l).txq k).isEmpty) = none :=
      List.find?_eq_none.mpr fun k _ => by simp [hnone]
    refine (if_neg (by simp [hup, LaneSt.slotFree_of hslot])).trans ?_
    simp only [hfind]
    exact congrArg Host.Outcome.next (sendIdle_eq ..)
  case ends =>
    intro hup hslot h4 hnext hq hres hxid hfrag hinv hseq hone hjobs hreset
    have hq' : sget [] (s.lane l).txq (s.lane l).txNext = f :: rest := by rw [hnext, hq]
    have hnext4 : (s.lane l).txNext < 4 := hnext ▸ x.isLt
    have hsent : (sendFrame l f (takeNext l (s.lane l).txNext s)).xid (frXid f) = s.xid x := by
      rw [sendFrame_xid, takeNext, State.xid_setLane, hxid]
    rw [← hsent] at hinv hjobs hreset
    obtain ⟨a, b, hends⟩ := invocationEnds_xid hinv hone
    refine ⟨_, exec_laneSlot_of_queued hup (LaneSt.slotFree_of hslot) (LaneSt.find_order h4 hnext4 hq') hq' (by rw [hres]; decide), ?_⟩
    rw [resSent_of_last hinv hone hres hfrag hseq hjobs hreset, resErrs, if_pos hres, hxid]
    rw [hsent, hxid] at hends
    have hmemory (y : Nat) : (xidErrs x ce ue (invocationEnds f (sendFrame l f (takeNext l (s.lane l).txNext s)))).xid y =
        (invocationEnds f (sendFrame l f (takeNext l (s.lane l).txNext s))).xid y := xidErrs_keeps (fun u => u.xid y) (fun _ _ => rfl) ..
    refine ⟨?_, ?_, ?_, ?_, ?_, ?_⟩
    · rw [hmemory, hends]
    · rw [hmemory, hends]
    · rw [hmemory, hends]
    · rw [xidErrs_keeps (fun u => (u.lane l).txq) fun _ _ => rfl]
      rw [invocationEnds_lane, sendFrame_txq, takeNext, State.lane_setLane, if_pos rfl, hnext, hq]
      simp
    · refine xidErrs_mtc_congr ?_ ?_ (by rw [hends]) (by rw [hends]) (by rw [hends]) ce ue
      · rw [invocationEnds_mtc, sendFrame_mtc, takeNext, State.setLane_mtc]
      · rw [invocationEnds_glb, sendFrame_glb, takeNext, State.setLane_glb]
    · rw [xidErrs_keeps State.ary fun _ _ => rfl, invocationEnds_ary, sendFrame_ary, takeNext, State.setLane_ary]
  case watchdog =>
    intro hlast
    have hor : (s.lane l).lastValid.or s.xpr.watchdogFrom = some t := by
      rcases hlast with h | ⟨h, hw⟩
      · rw [h]; rfl
      · rw [h, hw]; rfl
    have hexec : exec (.laneWatchdog l) s = .next (if t + 500 * us ≤ s.glb.devTime then faultLane l s else s) := by
      change execLaneWatchdog l s = _
      simp only [execLaneWatchdog, hor]
    refine ⟨fun hdue => ⟨_, hexec.trans (congrArg _ (if_pos hdue)), faultLane_faulted l s, faultLane_mtc l s⟩, fun hdue => ?_⟩
    exact hexec.trans (congrArg _ (if_neg (Nat.not_le.mpr hdue)))
  case recovery =>
    intro hbad hclean hlast hrecent
    have hclean' : (s.lane l).cleanSince + 100 * ms ≤ s.glb.devTime := hclean
    have hrecent' : s.glb.devTime < t + 500 * us := hrecent
    refine ⟨_, if_pos (by simp [hbad, hlast, hclean', hrecent']), ?_, ?_, ?_⟩
    · rw [State.lane_congr (updDegraded_xpr _)]
      cases l <;> rfl
    · rw [State.lane_congr (updDegraded_xpr _)]
      cases l <;> rfl
    · rw [updDegraded_xpr]
      cases l <;> rfl
  case align => exact fun hup => congrArg Host.Outcome.next (if_pos hup)

end Sys2Proof.Machine
end

section
/-! PROOFS, O39. Frames received on the safety link, and the fragments of requests (R274, R275, R291, R292, R345). -/

namespace Sys2Proof.Machine

/-! ## A change of several arrays -/

/-- Each array of a list that names none twice takes a change once; the others stay. -/
theorem foldl_modArr_arr (f : Nat → Arr → Arr) {l : List Nat} (hl : l.Nodup) (a : Nat) (s : State) :
    (l.foldl (fun s b => s.modArr b (f b)) s).arr a = if a ∈ l then f a (s.arr a) else s.arr a := by
  induction l generalizing s with
  | nil => rfl
  | cons b r ih =>
    obtain ⟨hb, hr⟩ := List.nodup_cons.mp hl
    rw [List.foldl_cons, ih hr, State.arr_modArr]
    by_cases h : a = b
    · subst h
      simp [hb]
    · simp [h]

/-! ## Frames as characters -/

theorem frameOk_iff {l : Lane} {f : Bytes} : frameOk l f = true ↔
    f.length = 64 ∧ leNat (f.drop 60) = crc32c (f.take 60) ∧ (f.getD 1 0).toNat / 32 % 2 = laneBit l ∧
      (frType f = 0x11 ∨ frType f = 0x1E) := by
  simp [frameOk, and_assoc]

/-- A slot that carries a frame that a receiver takes spells that frame. -/
theorem slotBytes_frameChars {l : Lane} {f : Bytes} (h : frameOk l f = true) : slotBytes (frameChars f) = some f := by
  obtain ⟨hlen, -, -, htype⟩ := frameOk_iff.mp h
  obtain ⟨b, r, rfl⟩ : ∃ b r, f = b :: r := by
    cases f with
    | nil => cases hlen
    | cons b r => exact ⟨b, r, rfl⟩
  have hr : r.length = 63 := by simpa using hlen
  have hb : b = 0x11 ∨ b = 0x1E := htype.imp (fun h => BitVec.eq_of_toNat_eq h) fun h => BitVec.eq_of_toNat_eq h
  rcases hb with rfl | rfl <;> simp [slotBytes, frameChars, typeChars, idleChar, hr, Function.comp_def]

/-! ## Received frames -/

/-- A valid frame, in the words of R291 and R292. -/
theorem LaneSt.receive_eq (seq : BitVec 16) (now : Nat) (z : LaneSt) [Decidable (∀ t, z.lastValid = some t → t + 50000 ≤ now)] :
    z.receive seq now = { z with
      cleanSince := if ∀ t, z.lastValid = some t → t + 50000 ≤ now then now else z.cleanSince
      discards := if z.rxSeq = none ∨ z.rxSeq = some (seq - 1) then z.discards else satAdd z.discards 1
      rxSeq := some seq, lastValid := some now } := by
  have hquiet : (z.lastValid.all (fun t => decide (t + 500 * us ≤ now)) = true) ↔
      ∀ t, z.lastValid = some t → t + 50000 ≤ now := by
    cases z.lastValid with
    | none => simp
    | some t =>
      have h : t + 500 * us ≤ now ↔ t + 50000 ≤ now := Iff.rfl
      simp [h]
  have hjump : (z.rxSeq.any (fun p => p + 1 != seq) = true) ↔ ¬ (z.rxSeq = none ∨ z.rxSeq = some (seq - 1)) := by
    cases z.rxSeq with
    | none => simp
    | some p =>
      simpa using not_congr (eq_sub_iff_add_eq (a := p) (b := seq) (c := 1)).symm
  unfold LaneSt.receive
  simp only [hquiet, hjump, ite_not]

/-- A lane's receiver after a valid frame. -/
def hearFrame (l : Lane) (f : Bytes) (s : State) : State := s.modLane l (LaneSt.receive (frLinkSeq f) s.glb.devTime)

@[simp] theorem hearFrame_xid (l : Lane) (f : Bytes) (s : State) (x : Nat) : (hearFrame l f s).xid x = s.xid x := State.xid_modLane ..
@[simp] theorem hearFrame_glb (l : Lane) (f : Bytes) (s : State) : (hearFrame l f s).glb = s.glb := State.setLane_glb ..
@[simp] theorem hearFrame_mtc (l : Lane) (f : Bytes) (s : State) : (hearFrame l f s).mtc = s.mtc := State.setLane_mtc ..
@[simp] theorem hearFrame_arr (l : Lane) (f : Bytes) (s : State) (a : Nat) : (hearFrame l f s).arr a = s.arr a := State.setLane_arr ..
@[simp] theorem hearFrame_ary (l : Lane) (f : Bytes) (s : State) : (hearFrame l f s).ary = s.ary := State.setLane_ary ..
theorem hearFrame_txq (l k : Lane) (f : Bytes) (s : State) : ((hearFrame l f s).lane k).txq = (s.lane k).txq := by
  rw [hearFrame, State.lane_modLane]
  split
  · next h => rw [h]; rfl
  · rfl

section
variable {l : Lane} {f : Bytes} {s : State} (hup : s.linkUp = true) (halign : (s.lane l).aligned = true) (hok : frameOk l f = true)
include hup halign hok

theorem exec_keep_of_frame (htype : frType f = 0x1E) : exec (.keep l (frameChars f)) s = .next (hearFrame l f s) := by
  change execKeep l (frameChars f) s = _
  simp only [execKeep, slotBytes_frameChars hok, Option.getD_some]
  exact if_pos (by simp [hup, halign, hok, htype])

variable (htype : frType f = 0x11)
include htype

/-- A REQ to an index that is not armed. -/
theorem exec_req_of_frame :
    exec (.req l (frameChars f)) s =
      if !(s.xid (frXid f)).armed then .next (answerDisarmed (frXid f) l (frSeq f) false (hearFrame l f s))
      else if (s.xid (frXid f)).st = .held ∨ (s.lane l).faulted then .next (hearFrame l f s)
      else if !(s.xid (frXid f)).disarmJobs.isEmpty || (s.xid (frXid f)).resetAfter then
        .next (answerDisarmed (frXid f) l (frSeq f) true (hearFrame l f s))
      else .next (takeFragment (frXid f) l f (hearFrame l f s)) := by
  change execReq l (frameChars f) s = _
  simp only [execReq, slotBytes_frameChars hok, Option.getD_some]
  refine (if_neg (by simp [hup, halign, hok, htype])).trans ?_
  rw [← hearFrame, hearFrame_xid]

theorem exec_req_of_unarmed (harm : (s.xid (frXid f)).armed = false) :
    exec (.req l (frameChars f)) s = .next (answerDisarmed (frXid f) l (frSeq f) false (hearFrame l f s)) := by
  rw [exec_req_of_frame hup halign hok htype, if_pos (by simp [harm])]

/-- A REQ that a lane serves. -/
theorem exec_req_of_armed (harm : (s.xid (frXid f)).armed = true) (hst : (s.xid (frXid f)).st ≠ .held)
    (hfault : (s.lane l).faulted = false)
    (hjobs : (s.xid (frXid f)).disarmJobs = []) (hreset : (s.xid (frXid f)).resetAfter = false) :
    exec (.req l (frameChars f)) s = .next (takeFragment (frXid f) l f (hearFrame l f s)) := by
  rw [exec_req_of_frame hup halign hok htype, if_neg (by simp [harm]), if_neg (by simp [hst, hfault]), if_neg (by simp [hjobs, hreset])]

end

/-! ## Fragments and requests (R274, R275) -/

theorem restartXid_of_unasked {x : Nat} {s : State} (h : (s.xid x).waitSeq = none) : restartXid x s = s := by
  unfold restartXid
  extract_lets v
  split
  · simp only [v, h]
  · rfl

/-- The first request of an index: what its members and the index are once it is accepted. -/
theorem deliver_of_first {x : Nat} {seq : BitVec 16} {s : State} (hfirst : (s.xid x).first = true) (hwait : (s.xid x).waitSeq = none)
    (hnodup : (s.xid x).arrays.Nodup) :
    (deliver x seq s).xid x = { Xid.dropSeq seq (s.xid x) with
        seq := seq, first := false, lastAccept := s.glb.devTime
        waitSeq := some ⟨seq, s.glb.devTime, false, 0, false, false, false, 0⟩ } ∧
      (∀ a ∈ (s.xid x).arrays, sget 0 ((deliver x seq s).arr a).tq 15 = satAdd (sget 0 (s.arr a).tq 15) 1) ∧
      (deliver x seq s).mtc = s.mtc := by
  have harr : (Xid.dropSeq seq (s.xid x)).arrays = (s.xid x).arrays := rfl
  unfold deliver
  rw [restartXid_of_unasked hwait]
  extract_lets s' v ahead early s1
  have hv : v = Xid.dropSeq seq (s.xid x) := (State.xid_modXid ..).trans (if_pos rfl)
  have hfirst' : v.first = true := by rw [hv]; exact hfirst
  have hwait' : v.waitSeq = none := by rw [hv]; exact hwait
  rw [if_neg (by simp [hfirst']), if_neg (by simp [hwait'])]
  have hxid : s1.xid x = v := foldl_keeps (fun u : State => u.xid x) _ _ s' fun _ _ => rfl
  refine ⟨?_, fun a ha => ?_, ?_⟩
  · rw [State.xid_modXid, if_pos rfl, hxid, if_neg (by simp [early, hfirst']), hv]
    rfl
  · have hs1 : s1.arr a = { s.arr a with tq := supd 0 (s.arr a).tq 15 (fun n => satAdd n 1) } := by
      refine (foldl_modArr_arr (fun _ y => { y with tq := supd 0 y.tq 15 (fun n => satAdd n 1) }) ?_ a s').trans (if_pos ?_)
      · rwa [hv, harr]
      · rwa [hv, harr]
    rw [State.modXid_arr, hs1]
    simp
  · rw [State.modXid_mtc]
    exact foldl_keeps State.mtc _ _ s' fun _ _ => rfl

/-- The copy that fragment 0 of a request opens. -/
theorem ReqCopy.next_none {f : Bytes} {m now : Nat} (hfrag : frFrag f = 0) (hmax : frNfrag f + 1 ≤ m) :
    ReqCopy.next f m now none = (⟨frSeq f, frNfrag f, 1, decide (0 = frNfrag f), false, now, true, false⟩, true) := by
  simp [ReqCopy.next, hfrag, hmax]

/-- A copy that a later fragment goes on with. -/
theorem ReqCopy.next_some {f : Bytes} {m now : Nat} {c : ReqCopy}
    (hc : c = ⟨frSeq f, frNfrag f, frFrag f, false, false, c.time, c.first, false⟩) (hfrag : frFrag f ≠ 0) (hmax : frNfrag f + 1 ≤ m) :
    ReqCopy.next f m now (some c) = ({ c with got := c.got + 1, complete := decide (c.got = c.nfrag), time := now }, true) := by
  rw [hc]
  simp [ReqCopy.next, hfrag, hmax]

/-- A first fragment opens a lane's copy, and the rest of the request is to come. -/
theorem takeFragment_of_first {x : Nat} {l : Lane} {f : Bytes} {s : State} (hhold : (s.xid x).holds l (frSeq f) = false)
    (hA : (s.xid x).reqA = none) (hB : (s.xid x).reqB = none) (hfrag : frFrag f = 0) (hmore : frNfrag f ≠ 0)
    (hmax : frNfrag f + 1 ≤ (s.xid x).table.reqFrags) :
    takeFragment x l f s = (partWrite ((s.xid x).part (laneBit l)) ((s.xid x).reqPreset (frSeq f))
      ((frPayload f).map (fun b => (b, false))) s).modXid x
        (fun z => z.setReq l (some ⟨frSeq f, frNfrag f, 1, false, false, s.glb.devTime, true, false⟩)) := by
  have hold : (s.xid x).reqCopy l = none := by cases l <;> assumption
  have hmore' : (0 = frNfrag f) = False := eq_false (Ne.symm hmore)
  unfold takeFragment
  extract_lets v seq old r s1 s2 left s3
  have hr : r = (⟨frSeq f, frNfrag f, 1, false, false, s.glb.devTime, true, false⟩, true) := by
    refine (congrArg _ hold).trans ((ReqCopy.next_none hfrag hmax).trans ?_)
    simp [hmore']
  have hs2 : s2 = (partWrite ((s.xid x).part (laneBit l)) ((s.xid x).reqPreset (frSeq f))
      ((frPayload f).map (fun b => (b, false))) s).modXid x
        (fun z => z.setReq l (some ⟨frSeq f, frNfrag f, 1, false, false, s.glb.devTime, true, false⟩)) := by
    simp only [s2, s1, hr, if_true, hfrag]
    rfl
  have hs3 : s3 = s2 := by
    have hleft : left = none := congrArg (Option.filter _) hold
    simp only [s3, hleft, Option.elim_none]
  have hpart (u : State) (p : Part) (a : Nat) (b : List MByte) : (partWrite p a b u).xid x = u.xid x :=
    partWrite_keeps (fun u => u.xid x) (fun _ _ _ => rfl) ..
  rw [if_neg (by simp [v, seq, hhold]), if_pos (by rw [hr]; rfl), hs3, ← hs2]
  unfold bothDead
  have hreq : (s2.xid x).reqA = none ∨ (s2.xid x).reqB = none := by
    rw [hs2, State.xid_modXid, if_pos rfl, hpart]
    cases l
    · exact .inr hB
    · exact .inl hA
  extract_lets w
  split
  · next ha hb => rcases hreq with h | h <;> simp [w, h] at ha hb
  · rfl

/-- A last fragment completes a lane's copy, and with the other lane's the request. -/
theorem takeFragment_of_last {x : Nat} {l : Lane} {f : Bytes} {c : ReqCopy} {s : State} (hhold : (s.xid x).holds l (frSeq f) = false)
    (hold : (s.xid x).reqCopy l = some c) (hc : c = ⟨frSeq f, frNfrag f, frFrag f, false, false, c.time, c.first, false⟩)
    (hlast : frFrag f = frNfrag f) (hfrag : frFrag f ≠ 0) (hmax : frNfrag f + 1 ≤ (s.xid x).table.reqFrags)
    (hother : (s.xid x).holds (otherLane l) (frSeq f) = true) :
    takeFragment x l f s = deliver x (frSeq f) ((partWrite ((s.xid x).part (laneBit l)) ((s.xid x).reqPreset (frSeq f) + 52 * frFrag f)
      ((frPayload f).map (fun b => (b, false))) s).modXid x
        (fun z => z.setReq l (some { c with got := c.got + 1, complete := true, time := s.glb.devTime }))) := by
  unfold takeFragment
  extract_lets v seq old r s1 s2 left s3
  have hr : r = ({ c with got := c.got + 1, complete := true, time := s.glb.devTime }, true) := by
    refine (congrArg _ hold).trans ((ReqCopy.next_some hc hfrag hmax).trans ?_)
    have hdone : c.got = c.nfrag := by rw [hc]; exact hlast
    simp [hdone]
  have hs3 : s3 = s2 := by
    have hleft : left = none := by
      simp only [left, old, v, hold, hr]
      simp
    simp only [s3, hleft, Option.elim_none]
  rw [if_neg (by simp [v, seq, hhold]), if_neg (by rw [hr]; simp), if_pos (by simpa [v, seq] using hother), hs3]
  simp only [s2, s1, hr, if_true]
  rfl

/-! ## Copies that are late (R274) -/

@[simp] theorem partWrite_xid (p : Part) (a : Nat) (b : List MByte) (s : State) (x : Nat) : (partWrite p a b s).xid x = s.xid x :=
  partWrite_keeps (fun u => u.xid x) (fun _ _ _ => rfl) ..

@[simp] theorem partWrite_glb (p : Part) (a : Nat) (b : List MByte) (s : State) : (partWrite p a b s).glb = s.glb :=
  partWrite_keeps State.glb (fun _ _ _ => rfl) ..

theorem partWrite_tq (p : Part) (a : Nat) (b : List MByte) (s : State) (r : Nat) : ((partWrite p a b s).arr r).tq = (s.arr r).tq := by
  rw [(partWrite_sameButBytes p a b s r).1]

/-- A copy that is complete alone is set into the other lane's buffer; the lane that has none is entered in the log. -/
def aloneCopied (x : Nat) (l : Lane) (c : ReqCopy) (s : State) : State :=
  record Code.laneFault (some (s.xid x).tenant.toNat) (unitLane (otherLane l)) 0 0 (copyRequest x l c s)

section
variable (x : Nat) (l : Lane) (c : ReqCopy) (s : State)

@[simp] theorem aloneCopied_xpr : (aloneCopied x l c s).xpr = s.xpr :=
  (record_xpr ..).trans (partWrite_keeps State.xpr (fun _ _ _ => rfl) ..)
theorem aloneCopied_xid (y : Nat) : (aloneCopied x l c s).xid y = s.xid y := State.xid_congr (congrArg Xpr.xids (aloneCopied_xpr ..)) y
@[simp] theorem aloneCopied_devTime : (aloneCopied x l c s).glb.devTime = s.glb.devTime :=
  (record_devTime ..).trans (congrArg Glb.devTime (partWrite_glb ..))
@[simp] theorem aloneCopied_mtc : (aloneCopied x l c s).mtc = (copyRequest x l c s).mtc := record_mtc ..
theorem aloneCopied_tq (a : Nat) : ((aloneCopied x l c s).arr a).tq = (s.arr a).tq :=
  (congrArg Arr.tq (State.arr_congr (record_ary ..) a)).trans (partWrite_tq ..)

end

/-- A copy served alone, where no recovery window is open. -/
theorem serveAlone_of_closed {x : Nat} {l : Lane} {c : ReqCopy} {s : State} (h : s.windowOpen = false) :
    serveAlone x l c s = deliver x c.seq (aloneCopied x l c s) := by
  have hopen : (aloneCopied x l c s).windowOpen = false := by rw [State.windowOpen_congr (congrArg Xpr.xids (aloneCopied_xpr ..)), h]
  unfold serveAlone
  extract_lets s1
  exact congrArg _ (if_neg (by rw [show s1 = aloneCopied x l c s from rfl, hopen]; decide))

/-- The reading of a partition meets errors that enter the memories alone. -/
theorem xidErrs_xid (x : Nat) (ce ue : List Nat) (s : State) (y : Nat) : (xidErrs x ce ue s).xid y = s.xid y :=
  xidErrs_keeps (fun u => u.xid y) (fun _ _ => rfl) ..

section
variable {x : Fin 4} {s : State} (harm : (s.xid x).armed = true) (hst : (s.xid x).st ≠ .held) (ce ue : List Nat)
include harm hst

theorem exec_laneCopyTimeout_of_alone {l : Lane} {c : ReqCopy} (hcopies : (s.xid x).copies = [(l, c)])
    (hlate : c.time + 20 * us ≤ s.glb.devTime) :
    exec (.laneCopyTimeout x ce ue) s = .next (serveAlone x l c (xidErrs x ce ue s)) := by
  refine (if_neg (by simp [harm, hst])).trans ?_
  simp [hcopies, hlate]

theorem exec_laneCopyTimeout_of_none (hcopies : (s.xid x).copies = []) :
    exec (.laneCopyTimeout x ce ue) s =
      .next ([.a, .b].foldl (giveUp x fun c => decide (c.time + 20 * us ≤ s.glb.devTime)) s) := by
  refine (if_neg (by simp [harm, hst])).trans ?_
  simp only [hcopies, List.find?_nil]

end

/-- A lone copy that has come in part and is late is answered INCOMPLETE and done with. -/
theorem giveUp_of_lone {x : Nat} {c : ReqCopy} {late : ReqCopy → Bool} {s : State} (hcopies : (s.xid x).copies = [])
    (hA : (s.xid x).reqA = some c) (hB : (s.xid x).reqB = none) (hfirst : c.first = true) (htold : c.told = false) (hlate : late c = true) :
    giveUp x late s .a = bothLanes x (invalidFrame x c.seq 0x04)
      (s.modXid x (fun z => { z with reqA := some { c with dead := true, told := true } })) := by
  have hmay : (s.xid x).mayComplete late c.seq = false := by simp [Xid.mayComplete, hcopies, hA, hB, hlate]
  have hfilter : ((s.xid x).reqCopy .a).filter
      (fun c => c.first && !c.told && late c && !(s.xid x).mayComplete late c.seq) = some c := by
    simp [Xid.reqCopy, hA, hfirst, htold, hlate, hmay]
  simp only [giveUp, hfilter, tellIncomplete, sendInvalid, State.modXid, hA, hB, Option.map_some, Option.map_none,
    beq_self_eq_true, if_true]

theorem giveUp_of_none {x : Nat} {late : ReqCopy → Bool} {s : State} {k : Lane} (h : (s.xid x).reqCopy k = none) :
    giveUp x late s k = s := by simp only [giveUp, h, Option.filter_none]

/-! ## Discarded slots (R292) -/

/-- Characters that are no idle slot and no frame, as a lane counts them. -/
def discardSlot (l : Lane) (s : State) : State :=
  s.modLane l (fun v => { v with
    discards := satAdd v.discards 1
    discardTimes := v.discardTimes.filter (fun d => decide (s.glb.devTime < d + ms)) ++ [s.glb.devTime]
    cleanSince := s.glb.devTime })

theorem exec_receivedFrameDiscard_of_bad {l : Lane} {slot : List LineChar} {s : State} (hup : s.linkUp = true)
    (halign : (s.lane l).aligned = true) (hbad : ∃ c ∈ slot, c ≠ idleChar) (hnone : frameOk l ((slotBytes slot).getD []) = false) :
    exec (.receivedFrameDiscard l slot) s =
      .next (if 4 < ((discardSlot l s).lane l).discardTimes.length then faultLane l (discardSlot l s) else discardSlot l s) := by
  have hidle : slot.all (· == idleChar) = false := by simpa using hbad
  exact if_neg (by rw [hup, halign, hidle, hnone]; decide)

/-! ## The statement -/

@[simp] theorem Xid.setReq_arrays (v : Xid) (l : Lane) (c : Option ReqCopy) : (v.setReq l c).arrays = v.arrays := by cases l <;> rfl
@[simp] theorem Xid.setReq_first (v : Xid) (l : Lane) (c : Option ReqCopy) : (v.setReq l c).first = v.first := by cases l <;> rfl
@[simp] theorem Xid.setReq_waitSeq (v : Xid) (l : Lane) (c : Option ReqCopy) : (v.setReq l c).waitSeq = v.waitSeq := by cases l <;> rfl

/-- Nothing of a SEQ that is dropped stays. -/
theorem Xid.reqCopy_dropSeq_setReq {v : Xid} {l : Lane} {c : ReqCopy} {seq : BitVec 16} (h : c.seq = seq) :
    (Xid.dropSeq seq (v.setReq l (some c))).reqCopy l = none := by
  cases l <;> simp [Xid.dropSeq, Xid.setReq, Xid.reqCopy, h]

theorem Xid.holds_dropSeq (v : Xid) (seq : BitVec 16) (k : Lane) : (Xid.dropSeq seq v).holds k seq = false := by
  simp only [Xid.holds, Xid.dropSeq, List.any_filter]
  exact List.any_eq_false.mpr fun c _ => by simp; tauto

/-- Settles O39: each received frame and each late copy, through the fragments' places and what a first request brings. -/
theorem safetyLinkRequests : Obligations.SafetyLinkRequests := by
  unfold Obligations.SafetyLinkRequests
  intro l f slot x c ce ue s now v heard
  have hheard : heard = LaneSt.receive (frLinkSeq f) now := funext fun z => (LaneSt.receive_eq ..).symm
  refine ⟨?alone, ?lone, fun hup halign => ⟨?keep, ?disarmed, ?first, ?last, ?discard⟩⟩
  case alone =>
    intro harm hst hcopies hlate hfirst hwait hclosed hnodup
    have hxid : (aloneCopied x l c (xidErrs x ce ue s)).xid x = v := by rw [aloneCopied_xid, xidErrs_xid]
    have hclosed' : (xidErrs x ce ue s).windowOpen = false := by
      rw [State.windowOpen_congr (xidErrs_keeps (fun u => u.xpr.xids) (fun _ _ => rfl) ..), hclosed]
    have htime : (aloneCopied x l c (xidErrs x ce ue s)).glb.devTime = now :=
      (aloneCopied_devTime ..).trans (xidErrs_keeps (fun u => u.glb.devTime) (fun _ _ => rfl) ..)
    obtain ⟨hdone, htq, hmtc⟩ := deliver_of_first (x := x) (seq := c.seq) (by rw [hxid]; exact hfirst) (by rw [hxid]; exact hwait)
      (by rw [hxid]; exact hnodup)
    refine ⟨_, exec_laneCopyTimeout_of_alone harm hst ce ue hcopies hlate, ?_⟩
    rw [serveAlone_of_closed hclosed', hdone, hmtc, aloneCopied_mtc, htime, hxid]
    refine ⟨rfl, ?_, fun a ha => ?_, rfl⟩
    · simp [Xid.dropSeq, v, hcopies]
    · rw [htq a (by rw [hxid]; exact ha), aloneCopied_tq, xidErrs_keeps (fun u => u.arr a) fun _ _ => rfl]
  case lone =>
    intro harm hst hcopies hA hB hfirst htold hlate
    have hlate' : c.time + 20 * us ≤ s.glb.devTime := hlate
    rw [exec_laneCopyTimeout_of_none harm hst ce ue hcopies, List.foldl_cons, List.foldl_cons, List.foldl_nil,
      giveUp_of_lone hcopies hA hB hfirst htold (decide_eq_true hlate'), giveUp_of_none]
    rw [bothLanes_xid, State.xid_modXid, if_pos rfl]
    exact hB
  case keep =>
    intro hok htype
    rw [hheard]
    exact exec_keep_of_frame hup halign hok htype
  case disarmed =>
    intro hok htype hx harm hnew
    simp only [v, ← hx] at harm hnew ⊢
    have hanswer : answerDisarmed (frXid f) l (frSeq f) false (hearFrame l f s) =
        laneQueue l (frXid f) (invalidFrame (frXid f) (frSeq f) 0x05)
          ((hearFrame l f s).modXid (frXid f) (fun v => { v with answered := v.answered ++ [(l, frSeq f)] })) := by
      unfold answerDisarmed
      extract_lets v s1
      exact if_neg (by rw [show v = s.xid (frXid f) from hearFrame_xid .., hnew]; simp)
    refine ⟨_, exec_req_of_unarmed hup halign hok htype harm, ?_⟩
    rw [hanswer]
    refine ⟨?_, ?_, ?_, ?_, ?_⟩
    · simp [laneQueue]
    · simp [laneQueue, hearFrame_txq]
    · cases l <;> rfl
    · simp [laneQueue, State.modLane]
    · simp [laneQueue, State.modLane]
  case first =>
    intro hfault hok htype hx harm hst hjobs hreset hA hB hhold hfrag hmore hmax
    simp only [v, ← hx] at harm hst hjobs hreset hA hB hhold hmax ⊢
    rw [exec_req_of_armed hup halign hok htype harm hst hfault hjobs hreset]
    have hfragment := takeFragment_of_first (x := frXid f) (s := hearFrame l f s) (f := f) (l := l)
    simp only [hearFrame_xid, hearFrame_glb] at hfragment
    rw [hfragment hhold hA hB hfrag hmore hmax, hheard]
    rfl
  case last =>
    intro hfault hok htype hx harm hst hjobs hreset hwait hfirst hhold hold hc hlast hfrag hmax hother hnodup
    simp only [v, ← hx] at harm hst hjobs hreset hwait hfirst hhold hold hmax hother hnodup ⊢
    refine ⟨_, exec_req_of_armed hup halign hok htype harm hst hfault hjobs hreset, ?_⟩
    rw [takeFragment_of_last (s := hearFrame l f s) (by rwa [hearFrame_xid]) (by rwa [hearFrame_xid]) hc hlast hfrag
      (by rwa [hearFrame_xid]) (by rwa [hearFrame_xid])]
    simp only [hearFrame_xid, hearFrame_glb]
    generalize hw : State.modXid _ _ _ = w
    have hxid : w.xid (frXid f) =
        (s.xid (frXid f)).setReq l (some { c with got := c.got + 1, complete := true, time := s.glb.devTime }) := by
      rw [← hw, State.xid_modXid, if_pos rfl, partWrite_xid, hearFrame_xid]
    have harr (a : Nat) : (w.arr a).tq = (s.arr a).tq := by rw [← hw, State.modXid_arr, partWrite_tq, hearFrame_arr]
    have htime : w.glb.devTime = now := by rw [← hw, State.modXid_glb, partWrite_glb, hearFrame_glb]
    obtain ⟨hdone, htq, hmtc⟩ := deliver_of_first (x := frXid f) (seq := frSeq f) (s := w) (by rw [hxid, Xid.setReq_first, hfirst])
      (by rw [hxid, Xid.setReq_waitSeq, hwait]) (by rw [hxid, Xid.setReq_arrays]; exact hnodup)
    refine ⟨?_, ?_, ?_, fun k => ?_, fun a ha => ?_, ?_⟩
    · rw [hdone, htime]
    · rw [hdone]
    · rw [hdone, hxid]
      exact Xid.reqCopy_dropSeq_setReq (by rw [hc])
    · rw [hdone]
      exact Xid.holds_dropSeq ..
    · rw [htq a (by rw [hxid, Xid.setReq_arrays]; exact ha), harr]
    · rw [hmtc, ← hw, State.modXid_mtc]
      exact partWrite_mtc_congr (hearFrame_mtc ..) ..
  case discard =>
    intro times hbad hnone
    have htimes : ((discardSlot l s).lane l).discardTimes = times := by rw [discardSlot, State.lane_modLane, if_pos rfl]; rfl
    have hexec := exec_receivedFrameDiscard_of_bad hup halign hbad hnone
    rw [htimes] at hexec
    refine ⟨fun hfew => hexec.trans (congrArg _ (if_neg (Nat.not_lt.mpr hfew))), fun hmany => ?_⟩
    refine ⟨_, hexec.trans (congrArg _ (if_pos hmany)), faultLane_faulted .., ?_, ?_, ?_⟩
    · rw [faultLane_lane LaneSt.discards fun _ _ => rfl, discardSlot, State.lane_modLane, if_pos rfl]
    · rw [faultLane_mtc]
      exact State.setLane_mtc ..
    · rw [faultLane_ary]
      exact State.setLane_ary ..

end Sys2Proof.Machine
end

section
/-! PROOFS, O40. Restarts of members, member faults, the re-run on the spare and its proofs (R276, R279 to R281, R284, R285, R287). -/

namespace Sys2Proof.Machine

/-! ## Restarts (R276) -/

section
variable (a : Nat) (v : Xid) (seq : BitVec 16) (x : Arr)

theorem restartMember_keeps {γ : Type} (f : Arr → γ) (hireg : ∀ (x : Arr) w, f { x with ireg := w } = f x)
    (htq : ∀ (x : Arr) w, f { x with tq := w } = f x) :
    f (restartMember a v seq x) = f (runImage a x.slot0.img { x with slot1 := x.slot1 }) := by
  refine (htq _ _).trans ?_
  rw [Arr.setIr_keeps f hireg, Arr.setIr_keeps f hireg]

theorem restartMember_st : (restartMember a v seq x).st = .run := restartMember_keeps a v seq x Arr.st (fun _ _ => rfl) fun _ _ => rfl
theorem restartMember_active : (restartMember a v seq x).active = some 0 :=
  restartMember_keeps a v seq x Arr.active (fun _ _ => rfl) fun _ _ => rfl
theorem restartMember_tq : sget 0 (restartMember a v seq x).tq 15 = sget 0 x.tq 15 - 1 := by
  simp [restartMember, Arr.setIr, runImage, startImage, boundary, Arr.setSlot]
theorem restartMember_i30 : sget 0 (restartMember a v seq x).ireg 30 = BitVec.ofNat 32 (v.resPreset seq) := by
  simp [restartMember, Arr.setIr]
theorem restartMember_i31 : sget 0 (restartMember a v seq x).ireg 31 = BitVec.ofNat 32 (v.reqPreset seq) := by
  simp [restartMember, Arr.setIr]

end

/-- All members of an index restart, at the cycle of the furthest. -/
def restarted (x : Nat) (i : Invocation) (s : State) : State :=
  let c := ((s.xid x).arrays.map (fun a => (s.arr a).cyc)).foldl max 0
  ((s.xid x).arrays.foldl (fun u a => u.modArr a (fun y => restartMember a (s.xid x) i.seq { y with cyc := c, lastIssue := c })) s).modXid x
    (fun v => { v with
      st := .running, waitSeq := none, inv := some { i with restarted := true, step := 0, stepTime := s.glb.devTime }
      windowSeq := if v.window && v.windowSeq.isNone then some i.seq else v.windowSeq })

/-- A fold of changes of arrays leaves the rest of the state alone. -/
theorem foldl_modArr_keeps {γ : Type} (p : State → γ) (hp : ∀ s l, p { s with ary := l } = p s) (f : Nat → Arr → Arr)
    (l : List Nat) (s : State) : p (l.foldl (fun u a => u.modArr a (f a)) s) = p s :=
  foldl_keeps p _ l s fun u _ => hp u _

theorem restartXid_of_ready {x : Nat} {i : Invocation} {s : State} (hst : (s.xid x).st = .idle) (hinv : (s.xid x).inv = none)
    (hwait : (s.xid x).waitSeq = some i) (hproof : s.xpr.proof = none)
    (hready : ∀ a ∈ (s.xid x).arrays, (s.arr a).active = none ∧ 1 ≤ (sget 0 (s.arr a).tq 15).toNat) :
    restartXid x s = restarted x i s := by
  have hall : (s.xid x).arrays.all (fun a => (s.arr a).active.isNone && decide (1 ≤ (sget 0 (s.arr a).tq 15).toNat)) = true :=
    List.all_eq_true.mpr fun a ha => by
      obtain ⟨hactive, htq⟩ := hready a ha
      rw [hactive]
      exact decide_eq_true htq
  have hnone : (restarted x i s).xpr.proof = none :=
    (foldl_modArr_keeps (fun u => u.xpr.proof) (fun _ _ => rfl) _ _ s).trans hproof
  unfold restartXid
  simp only [hst, hinv, hwait, hall, if_true]
  split
  · next h => exact absurd (hnone.symm.trans h) (by simp)
  · rfl

section
variable {x : Nat} {i : Invocation} {s : State}

theorem restarted_xid : (restarted x i s).xid x = { s.xid x with
      st := .running, waitSeq := none, inv := some { i with restarted := true, step := 0, stepTime := s.glb.devTime }
      windowSeq := if (s.xid x).window && (s.xid x).windowSeq.isNone then some i.seq else (s.xid x).windowSeq } := by
  unfold restarted
  extract_lets c
  rw [State.xid_modXid, if_pos rfl, foldl_modArr_keeps (fun u => u.xid x) fun _ _ => rfl]

theorem restarted_mtc : (restarted x i s).mtc = s.mtc := foldl_modArr_keeps State.mtc (fun _ _ => rfl) _ _ s

/-- Each member restarts from its own registers, at one cycle. -/
theorem restarted_arr (h : (s.xid x).arrays.Nodup) (a : Nat) : (restarted x i s).arr a = if a ∈ (s.xid x).arrays then
      restartMember a (s.xid x) i.seq { s.arr a with
        cyc := ((s.xid x).arrays.map (fun a => (s.arr a).cyc)).foldl max 0
        lastIssue := ((s.xid x).arrays.map (fun a => (s.arr a).cyc)).foldl max 0 }
    else s.arr a := by
  unfold restarted
  extract_lets c
  rw [State.modXid_arr, foldl_modArr_arr (fun a y => restartMember a (s.xid x) i.seq { y with cyc := c, lastIssue := c }) h]

end

/-! ## The spare pair (R280, R285) -/

/-- What a retired spare leaves behind (R280). -/
theorem retireSpare_xpr (s : State) : (retireSpare s).xpr = { s.xpr with
    spareValid := false, spareReady := false, spa := 0, spb := 0, spareRan := none, proved := [], proof := none
    retired := s.xpr.retired ++ [s.xpr.spa.toNat, s.xpr.spb.toNat] } := updDegraded_xpr _

theorem retireSpare_st_ne {s : State} (h : s.glb.st ≠ .safeHold) : (retireSpare s).glb.st ≠ .safeHold := updDegraded_st_ne h

/-- A spare that starts takes its own arrays and the note of whose image it ran last; nothing else changes. -/
theorem startSpare_keeps {γ : Type} (p : State → γ) (hary : ∀ s l, p { s with ary := l } = p s)
    (hran : ∀ s r, p { s with xpr := { s.xpr with spareRan := r } } = p s) (x role st : Nat) (seq : BitVec 16) (s : State) :
    p (startSpare x role st seq s) = p s := by
  unfold startSpare
  extract_lets v t clean preset img a b at_ ready s1
  have h1 : p s1 = p s := (hary ..).trans (hary ..)
  exact (hran s1 _).trans h1

theorem startSpare_ran (x role st : Nat) (seq : BitVec 16) (s : State) :
    (startSpare x role st seq s).xpr.spareRan = some (s.xid x).tenant.toNat := by
  unfold startSpare
  rfl

/-- A re-run that fails (R280). -/
theorem held_rerunFails {x : Nat} {c : BitVec 16} {s w : State} (hst : w.glb.st ≠ .safeHold) (hsame : w.xpr.xids = s.xpr.xids)
    (harm : s.anyArmed = true) : Held c s (rerunFails x c w) := by
  refine held_safeHold (retireSpare_st_ne (by rwa [record_st])) (fun y hy => ?_) harm
  rwa [State.xid_congr ((congrArg Xpr.xids (retireSpare_xpr _)).trans ((congrArg Xpr.xids (record_xpr ..)).trans hsame))]

theorem rerunFails_retired (x : Nat) (c : BitVec 16) (s : State) :
    (rerunFails x c s).xpr.retired = s.xpr.retired ++ [s.xpr.spa.toNat, s.xpr.spb.toNat] := by
  unfold rerunFails
  extract_lets s1
  rw [safeHold_xpr_keeps Xpr.retired fun _ _ _ _ _ _ _ => rfl, retireSpare_xpr, show s1.xpr = s.xpr from record_xpr ..]

theorem rerunFails_spareValid (x : Nat) (c : BitVec 16) (s : State) : (rerunFails x c s).xpr.spareValid = false := by
  unfold rerunFails
  extract_lets s1
  rw [safeHold_xpr_keeps Xpr.spareValid fun _ _ _ _ _ _ _ => rfl, retireSpare_xpr]

/-- A spare that is formed is proved for nobody; where none is, the path stays as it is (R285). -/
theorem autoForm_xpr (s : State) : (autoForm s).xpr = s.xpr ∨
    ((autoForm s).xpr.retired = s.xpr.retired ∧ (autoForm s).xpr.spareReady = false ∧ (autoForm s).xpr.proof = none) := by
  unfold autoForm
  split
  · exact .inl rfl
  · split
    · exact .inr ⟨rfl, rfl, rfl⟩
    · exact .inl rfl

/-- A proof that fails retires the spare (R284). -/
theorem proofFails_xpr (x : Nat) (s : State) : (proofFails x s).xpr.proof = none ∧ (proofFails x s).xpr.spareReady = false ∧
    (proofFails x s).xpr.retired = s.xpr.retired ++ [s.xpr.spa.toNat, s.xpr.spb.toNat] := by
  unfold proofFails
  generalize hw : retireSpare _ = w
  have hxpr : w.xpr.proof = none ∧ w.xpr.spareReady = false ∧ w.xpr.retired = s.xpr.retired ++ [s.xpr.spa.toNat, s.xpr.spb.toNat] := by
    rw [← hw, retireSpare_xpr, record_xpr]
    exact ⟨rfl, rfl, rfl⟩
  obtain ⟨hproof, hready, hretired⟩ := hxpr
  rcases autoForm_xpr w with h | ⟨hr, hs, hp⟩
  · rw [h]
    exact ⟨hproof, hready, hretired⟩
  · exact ⟨hp, hs, hr.trans hretired⟩

/-! ## Member faults (R279, R281) -/

/-- A member fault is counted and entered in the log. -/
def faultNoted (x r st : Nat) (s : State) : State :=
  record Code.pairMismatch (some (s.xid x).tenant.toNat) (unitArray ((s.xid x).roles.getD r (0, 0)).1) (st % 64 * 256 + r) 0
    (s.modXid x (fun v => { v with mismatch := satAdd v.mismatch 1 }))

theorem faultNoted_xpr (x r st : Nat) (s : State) :
    (faultNoted x r st s).xpr = (s.modXid x (fun v => { v with mismatch := satAdd v.mismatch 1 })).xpr := record_xpr ..

theorem faultNoted_xid (x r st : Nat) (s : State) (y : Nat) : (faultNoted x r st s).xid y =
    if y = x then { s.xid x with mismatch := satAdd (s.xid x).mismatch 1 } else s.xid y := by
  rw [State.xid_congr (congrArg Xpr.xids (faultNoted_xpr ..)), State.xid_modXid]

theorem faultNoted_glb {γ : Type} (f : Glb → γ) (hf : ∀ g m, f { g with msixPba := m } = f g) (x r st : Nat) (s : State) :
    f (faultNoted x r st s).glb = f s.glb := record_glb_keeps f hf ..

theorem faultNoted_armed {x r st : Nat} {s : State} {y : Nat} (h : (s.xid y).armed = true) :
    ((faultNoted x r st s).xid y).armed = true := by
  rw [faultNoted_xid]
  split
  · next hy => rw [← hy]; exact h
  · exact h

/-- A recovery window opens, and the re-run of a step is noted (R281). -/
def openRerun (x r st : Nat) (seq : BitVec 16) (now : Nat) (s : State) : State :=
  let s1 := (bothLanes x (invalidFrame x seq 0x01) s).modXid x (fun v => { v with
    st := .rerun, window := true, windowSeq := none, rerun := some ⟨r, st, now⟩ })
  { s1 with xpr := { s1.xpr with proof := none } }

theorem openRerun_xid (x r st : Nat) (seq : BitVec 16) (now : Nat) (s : State) : (openRerun x r st seq now s).xid x =
    { s.xid x with st := .rerun, window := true, windowSeq := none, rerun := some ⟨r, st, now⟩ } := by
  unfold openRerun
  extract_lets s1
  refine (State.xid_congr (s := s1) rfl x).trans ?_
  rw [State.xid_modXid, if_pos rfl, bothLanes_xid]

@[simp] theorem openRerun_glb (x r st : Nat) (seq : BitVec 16) (now : Nat) (s : State) : (openRerun x r st seq now s).glb = s.glb := by
  simp only [openRerun, State.modXid_glb, bothLanes_glb]

section
variable {x r st : Nat} {s : State} (hnew : (s.xid x).rerun = none)
include hnew

theorem memberFault_of_noSpare (hready : s.xpr.spareReady = false) : memberFault x r st s =
    safeHold Code.noSpare (record Code.noSpare (some (s.xid x).tenant.toNat) unitSbox 0 0 (faultNoted x r st s)) := by
  refine (if_neg (by simp [hnew])).trans (if_pos (by simp [hready]))

variable (hready : s.xpr.spareReady = true)
include hready

theorem memberFault_of_window (hopen : s.windowOpen = true) : memberFault x r st s = safeHold Code.pairMismatch (faultNoted x r st s) :=
  (if_neg (by simp [hnew])).trans ((if_neg (by simp [hready])).trans (if_pos hopen))

/-- The step is run again by the spare. -/
theorem memberFault_of_ready {i : Invocation} (hclosed : s.windowOpen = false) (hinv : (s.xid x).inv = some i) :
    memberFault x r st s = startSpare x r st i.seq (openRerun x r st i.seq s.glb.devTime (faultNoted x r st s)) := by
  unfold memberFault
  extract_lets v t a s1 seq s2 s3
  have hseq : seq = i.seq := by simp only [seq, v, hinv]
  rw [if_neg (by simp [v, hnew]), if_neg (by simp [hready]), if_neg (by simp [hclosed]), openRerun, ← hseq]
  rfl

end

/-- A member that is late (R279). -/
theorem exec_barrierTimeout_of_member {x : Fin 4} {r : Fin 8} {i : Invocation} {s : State} (hst : (s.xid x).st = .running)
    (hr : r.val < (s.xid x).roles.length) (hinv : (s.xid x).inv = some i) (hfinal : i.finalOk = false)
    (hlate : i.stepTime + (s.xid x).stepLimit < s.glb.devTime)
    (haway : (s.arr ((s.xid x).roles.getD r (0, 0)).1).atBarrier = none ∨ (s.arr ((s.xid x).roles.getD r (0, 0)).2).atBarrier = none) :
    exec (.barrierTimeout x r false) s = .next (memberFault x r i.step s) := by
  have hstep : (s.xid x).stepNow = i.step := by simp only [Xid.stepNow, hinv]
  change execBarrierTimeout x r false s = _
  unfold execBarrierTimeout
  extract_lets v late away p
  have haway' : away p.1 = true ∨ away p.2 = true := haway.imp Option.isNone_iff_eq_none.mpr Option.isNone_iff_eq_none.mpr
  rw [if_neg Bool.false_ne_true, if_pos ⟨.inl hst, hr, by simp [v, late, hinv, hfinal, hlate], haway'⟩, hstep]

/-- A spare array that is late in a re-run (R280). -/
theorem exec_barrierTimeout_of_spare {x : Fin 4} {r : Fin 8} {k : Rerun} {s : State} (hst : (s.xid x).st = .rerun)
    (hrerun : (s.xid x).rerun = some k) (hrole : k.role = r.val) (hlate : k.time + (s.xid x).stepLimit < s.glb.devTime)
    (haway : (s.arr s.xpr.spa.toNat).atBarrier = none ∨ (s.arr s.xpr.spb.toNat).atBarrier = none) :
    exec (.barrierTimeout x r true) s = .next (rerunFails x Code.spareFault s) := by
  change execBarrierTimeout x r true s = _
  unfold execBarrierTimeout
  extract_lets v late away p
  have haway' : (away s.xpr.spa.toNat || away s.xpr.spb.toNat) = true := by simpa [away] using haway
  rw [if_pos rfl, if_neg (by simp [haway']), if_pos ⟨hst, by simp [v, late, hrerun, hrole, hlate]⟩]

/-! ## The spare takes a role (R280) -/

theorem getD_zipIdx_replace {α : Type} {l : List α} {n : Nat} (h : n < l.length) (new d : α) :
    (l.zipIdx.map (fun e => if e.2 = n then new else e.1)).getD n d = new := by
  simp [List.getD_eq_getElem?_getD, h]

theorem State.modXid_retired (s : State) (x : Nat) (f : Xid → Xid) : (s.modXid x f).xpr.retired = s.xpr.retired := rfl

/-- What the index and the spare's registers are once the spare has taken a role and other pairs are out at the barrier. -/
theorem takeRole_of_waiting {x r bar : Nat} {s : State}
    (hwaits : (((s.tenant (s.xid x).tenant.toNat).barrier bar).arrivals.filter (fun v =>
      v.ary != ((s.xid x).roles.getD r (0, 0)).1 && v.ary != ((s.xid x).roles.getD r (0, 0)).2)).length + 2 < 2 * (s.xid x).table.pairs) :
    (takeRole x r bar s).xid x = { s.xid x with
        st := .running, rerun := none, rerunOk := satAdd (s.xid x).rerunOk 1
        roles := (s.xid x).roles.zipIdx.map (fun e => if e.2 = r then (s.xpr.spa.toNat, s.xpr.spb.toNat) else e.1) } ∧
      (takeRole x r bar s).xpr.spareValid = false ∧ (takeRole x r bar s).xpr.spareReady = false ∧
      (takeRole x r bar s).xpr.retired =
        s.xpr.retired ++ [((s.xid x).roles.getD r (0, 0)).1, ((s.xid x).roles.getD r (0, 0)).2] := by
  unfold takeRole
  extract_lets v t old new fp n wait join i0 i1 s1 s2 s3 s4 g s5 s6 b
  have h3 : s3.xpr = s.xpr := by simp only [s3, s2, s1, State.modTenant_xpr, State.modArr_xpr]
  have h4 : s4.xid x = { s.xid x with
      st := .running, rerun := none, rerunOk := satAdd (s.xid x).rerunOk 1
      roles := (s.xid x).roles.zipIdx.map (fun e => if e.2 = r then (s.xpr.spa.toNat, s.xpr.spb.toNat) else e.1) } := by
    rw [show s4 = s3.modXid x _ from rfl, State.xid_modXid, if_pos rfl, State.xid_congr (congrArg Xpr.xids h3)]
  have h6 : s6.xpr = s5.xpr := (updDegraded_xpr _).trans (record_xpr ..)
  have hretired : s4.xpr.retired = s.xpr.retired := by rw [show s4 = s3.modXid x _ from rfl, State.modXid_retired, h3]
  have hten : s6.ten = s3.ten :=
    ((updDegraded_keeps State.ten (fun _ _ _ => rfl) _).trans (record_ten ..)).trans (show s4.ten = s3.ten from State.modXid_ten s3 x _)
  have hb : b = Barrier.swapPair old new n fp ((s.tenant t).barrier bar) := by
    have h2 : s2.tenant t = s.tenant t := by simp only [s2, s1, State.modArr_tenant]
    rw [show b = (s6.tenant t).barrier bar from rfl, State.tenant_congr hten, show s3 = s2.modTenant t _ from rfl, State.tenant_modTenant,
      if_pos rfl, h2]
    simp [Tenant.barrier, Tenant.swapPair]
  have harrivals : b.arrivals.length < n := by
    rw [hb, Barrier.swapPair, List.length_append]
    exact hwaits
  have h5 : s5.xpr.xids = s4.xpr.xids := rfl
  have hxids : s6.xpr.xids = s4.xpr.xids := by rw [h6, h5]
  rw [if_neg (Nat.not_le.mpr harrivals), h6]
  refine ⟨?_, rfl, rfl, ?_⟩
  · rw [State.xid_congr hxids, h4]
  · exact congrArg (· ++ [old.1, old.2]) hretired

theorem xidErrs_xpr (x : Nat) (ce ue : List Nat) (s : State) : (xidErrs x ce ue s).xpr = s.xpr :=
  xidErrs_keeps State.xpr (fun _ _ => rfl) ..
theorem xidErrs_arr (x : Nat) (ce ue : List Nat) (s : State) (a : Nat) : (xidErrs x ce ue s).arr a = s.arr a :=
  xidErrs_keeps (fun u => u.arr a) (fun _ _ => rfl) ..
theorem xidErrs_tenant (x : Nat) (ce ue : List Nat) (s : State) (t : Nat) : (xidErrs x ce ue s).tenant t = s.tenant t :=
  xidErrs_keeps (fun u => u.tenant t) (fun _ _ => rfl) ..
theorem xidErrs_glb (x : Nat) (ce ue : List Nat) (s : State) : (xidErrs x ce ue s).glb = s.glb :=
  xidErrs_keeps State.glb (fun _ _ => rfl) ..

/-! ## What the spare's barrier and its proofs come to (R280, R284, R287) -/

/-- The verdicts of the channels disagree. -/
theorem held_splitVerdict {s w : State} (hst : w.glb.st ≠ .safeHold) (hsame : w.xpr.xids = s.xpr.xids) (harm : s.anyArmed = true) :
    Held Code.sboxFault s (splitVerdict w) :=
  held_safeHold_record _ _ _ _ hst (fun y hy => by rwa [State.xid_congr hsame]) harm

/-- A member of a pair has arrived with a fingerprint. -/
theorem seen_iff {l : List Arrival} {p : Nat × Nat} {fp : BitVec 64} :
    (l.any (fun e => e.ary == p.1 && e.fp == fp) = true ∨ l.any (fun e => e.ary == p.2 && e.fp == fp) = true) ↔
      ∃ g ∈ l, (g.ary = p.1 ∨ g.ary = p.2) ∧ g.fp = fp := by
  simp only [List.any_eq_true, Bool.and_eq_true, beq_iff_eq, ← exists_or, ← and_or_left, ← or_and_right]

/-- Both spare arrays of a re-run have come to their barrier. -/
theorem exec_spareBarrier_of_rerun {x : Fin 4} {k : Rerun} {bar bar' : Nat} {split : Bool} {ce ue : List Nat} {s : State}
    (hst : (s.xid x).st = .rerun) (hrerun : (s.xid x).rerun = some k) (ha : (s.arr s.xpr.spa.toNat).atBarrier = some bar)
    (hb : (s.arr s.xpr.spb.toNat).atBarrier = some bar') : exec (.spareBarrier x split ce ue) s =
      if split then .next (splitVerdict (xidErrs x ce ue s))
      else if (s.arr s.xpr.spa.toNat).fp = (s.arr s.xpr.spb.toNat).fp ∧ (s.arr s.xpr.spa.toNat).fpPoison = false ∧
          (s.arr s.xpr.spb.toNat).fpPoison = false ∧
          (((s.tenant (s.xid x).tenant.toNat).barrier bar).arrivals.any (fun e =>
              e.ary == ((s.xid x).roles.getD k.role (0, 0)).1 && e.fp == (s.arr s.xpr.spa.toNat).fp) = true ∨
            ((s.tenant (s.xid x).tenant.toNat).barrier bar).arrivals.any (fun e =>
              e.ary == ((s.xid x).roles.getD k.role (0, 0)).2 && e.fp == (s.arr s.xpr.spa.toNat).fp) = true) then
        .next (takeRole x k.role bar (xidErrs x ce ue s))
      else .next (rerunFails x Code.spareFault (xidErrs x ce ue s)) := by
  change execSpareBarrier x split ce ue s = _
  simp only [execSpareBarrier, if_pos hst, xidErrs_xid, xidErrs_xpr, xidErrs_arr, xidErrs_tenant, hrerun, ha, hb,
    if_neg (not_not.mpr hst)]

/-- A proof that may start does (R284). -/
theorem exec_spareProof_of_provable {x : Fin 4} {r : Fin 8} {ce ue : List Nat} {s : State} (hprovable : (s.xid x).provable = true)
    (hnew : s.xpr.proved.contains x.val = false) (hvalid : s.xpr.spareValid = true) (hproof : s.xpr.proof = none)
    (hclosed : s.windowOpen = false) (hst : s.glb.st ≠ .safeHold) (hr : r.val < (s.xid x).roles.length)
    (hidle : ∀ z : Fin 4, (s.xid z).rerun = none) :
    ∃ w, w = startSpare x r ((s.xid x).table.steps - 1) (s.xid x).seq (xidErrs x ce ue s) ∧
      exec (.spareProof x r ce ue) s = .next { w with xpr := { w.xpr with
        proof := some ⟨x, r⟩, proofTime := s.glb.devTime, proofNext := (x.val + 1) % 4 } } := by
  have hnone : (List.range 4).any (fun i => (s.xid i).rerun.isSome) = false :=
    List.any_eq_false.mpr fun z hz => by simp [hidle ⟨z, List.mem_range.mp hz⟩]
  refine ⟨_, rfl, ?_⟩
  change execSpareProof x r ce ue s = _
  unfold execSpareProof
  extract_lets v due s1
  have hdue : due = true := by simp only [due, hnew, Bool.not_false, Bool.or_true]
  exact if_pos (by simp [v, hprovable, hdue, hvalid, hproof, hclosed, hst, hr, hnone])

theorem restSpare_xpr (s : State) : (restSpare s).xpr = s.xpr := by simp only [restSpare, State.modArr_xpr]

/-- The tenants that the spare is proved for, once a proof of `x` has agreed. -/
def provedWith (x : Nat) (l : List Nat) : List Nat := if l.contains x then l else l ++ [x]

theorem mem_provedWith {x y : Nat} {l : List Nat} : y ∈ provedWith x l ↔ y = x ∨ y ∈ l := by
  unfold provedWith
  split
  · next h => exact ⟨.inr, fun hy => hy.elim (fun hy => hy ▸ List.contains_iff_mem.mp h) id⟩
  · simp [or_comm]

/-- A proof of a tenant is entered; the spare is ready once every armed tenant has one (R285). -/
def enterProof (p : Proof) (s : State) : State :=
  let s2 := { s with xpr := { s.xpr with proof := none, proved := provedWith p.x s.xpr.proved } }
  updDegraded { s2 with xpr := { s2.xpr with
    spareReady := s2.xpr.spareReady || s2.armedXids.all (fun x => (provedWith p.x s.xpr.proved).contains x) } }

theorem enterProof_xpr (p : Proof) (s : State) : (enterProof p s).xpr = { s.xpr with
    proof := none, proved := provedWith p.x s.xpr.proved
    spareReady := s.xpr.spareReady || s.armedXids.all (fun x => (provedWith p.x s.xpr.proved).contains x) } := updDegraded_xpr _

/-- Both spare arrays of a proof have come to their barrier. -/
theorem exec_spareProofDone_of_arrived {p : Proof} {bar bar' : Nat} {split : Bool} {s : State} (hproof : s.xpr.proof = some p)
    (ha : (s.arr s.xpr.spa.toNat).atBarrier = some bar) (hb : (s.arr s.xpr.spb.toNat).atBarrier = some bar') :
    exec (.spareProofDone split) s =
      if split then .next (splitVerdict s)
      else if (s.arr s.xpr.spa.toNat).fp = (s.arr s.xpr.spb.toNat).fp ∧ (s.arr s.xpr.spa.toNat).fpPoison = false ∧
          (s.arr s.xpr.spb.toNat).fpPoison = false ∧ sget 0 (s.xid p.x).record p.role = (s.arr s.xpr.spa.toNat).fp then
        .next (enterProof p (restSpare s))
      else .next (proofFails p.x s) := by
  change execSpareProofDone split s = _
  unfold execSpareProofDone
  extract_lets a b
  simp only [hproof]
  exact if_neg (by simp [a, b, ha, hb])

/-- Settles O40: restarts, member faults, re-runs and proofs, by the branches that each meets. -/
theorem expressInvocations : Obligations.ExpressInvocations := by
  unfold Obligations.ExpressInvocations
  intro x r i k p bar bar' ce ue s
  dsimp only
  refine ⟨?restart, ?member, ?late, ?barrier, ?proof, ?proofDone⟩
  case restart =>
    intro hst hinv hwait hproof hnodup hready
    refine ⟨_, congrArg Host.Outcome.next (restartXid_of_ready hst hinv hwait hproof hready), ?_⟩
    rw [restarted_xid]
    refine ⟨rfl, rfl, rfl, fun a ha => ?_, fun a ha => ?_, restarted_mtc⟩
    · rw [restarted_arr hnodup, if_pos ha]
      exact ⟨restartMember_st .., restartMember_active .., restartMember_tq .., restartMember_i30 .., restartMember_i31 ..⟩
    · rw [restarted_arr hnodup, if_neg ha]
  case member =>
    intro hst hr hinv hfinal hnew hlate haway hdev
    have hexec := exec_barrierTimeout_of_member hst hr hinv hfinal hlate haway
    have harm : s.anyArmed = true := State.anyArmed_of_armed (x := x) (by simp only [Xid.armed, hst])
    have hdev' : (faultNoted x r i.step s).glb.st ≠ .safeHold := by rwa [faultNoted_glb Glb.st fun _ _ => rfl]
    refine ⟨fun hclosed hready => ⟨_, hexec, ?_⟩, fun hready => ⟨_, hexec, ?_⟩, fun hopen hready => ⟨_, hexec, ?_⟩⟩
    · rw [memberFault_of_ready hnew hready hclosed hinv]
      generalize hw : openRerun x r i.step i.seq s.glb.devTime (faultNoted x r i.step s) = w
      have hxid : w.xid x = { s.xid x with
          mismatch := satAdd (s.xid x).mismatch 1, st := .rerun, window := true, windowSeq := none
          rerun := some ⟨r, i.step, s.glb.devTime⟩ } := by
        rw [← hw, openRerun_xid, faultNoted_xid, if_pos rfl]
      have hstart : (startSpare x r i.step i.seq w).xid x = w.xid x :=
        startSpare_keeps (fun u => u.xid x) (fun _ _ => rfl) (fun _ _ => rfl) ..
      rw [hstart, hxid, startSpare_ran, hxid]
      refine ⟨rfl, rfl, rfl, rfl, rfl, ?_⟩
      rw [startSpare_keeps State.glb (fun _ _ => rfl) fun _ _ => rfl, ← hw, openRerun_glb]
      exact faultNoted_glb Glb.st (fun _ _ => rfl) ..
    · rw [memberFault_of_noSpare hnew hready]
      exact held_safeHold_record _ _ _ _ hdev' (fun y => faultNoted_armed) harm
    · rw [memberFault_of_window hnew hready hopen]
      exact held_safeHold hdev' (fun y => faultNoted_armed) harm
  case late =>
    intro hst hrerun hrole hlate haway hdev
    have harm : s.anyArmed = true := State.anyArmed_of_armed (x := x) (by simp only [Xid.armed, hst])
    exact ⟨_, exec_barrierTimeout_of_spare hst hrerun hrole hlate haway, held_rerunFails hdev rfl harm, rerunFails_spareValid ..⟩
  case barrier =>
    intro hst hrerun hrole ha hb
    have harm : s.anyArmed = true := State.anyArmed_of_armed (x := x) (by simp only [Xid.armed, hst])
    have hxids : (xidErrs x ce ue s).xpr.xids = s.xpr.xids := by rw [xidErrs_xpr]
    refine ⟨fun hagree hwaits => ?_, fun hdev => ?_, fun hdiffer hdev => ?_⟩
    · have hwaits' := takeRole_of_waiting (x := x) (r := k.role) (bar := bar) (s := xidErrs x ce ue s)
      simp only [xidErrs_xid, xidErrs_tenant, xidErrs_xpr] at hwaits'
      obtain ⟨hxid, hvalid, hready, hretired⟩ := hwaits' hwaits
      rw [← seen_iff] at hagree
      refine ⟨_, (exec_spareBarrier_of_rerun hst hrerun ha hb).trans ((if_neg Bool.false_ne_true).trans (if_pos hagree)), ?_⟩
      rw [hxid]
      exact ⟨rfl, rfl, rfl, getD_zipIdx_replace hrole _ _, hvalid, hready, hretired⟩
    · refine ⟨_, (exec_spareBarrier_of_rerun hst hrerun ha hb).trans (if_pos rfl), held_splitVerdict ?_ hxids harm⟩
      rwa [xidErrs_glb]
    · rw [← seen_iff] at hdiffer
      refine ⟨_, (exec_spareBarrier_of_rerun hst hrerun ha hb).trans ((if_neg Bool.false_ne_true).trans (if_neg hdiffer)), ?_⟩
      refine ⟨held_rerunFails (by rwa [xidErrs_glb]) hxids harm, rerunFails_spareValid .., ?_, ?_⟩
      · simp [rerunFails_retired, xidErrs_xpr]
      · simp [rerunFails_retired, xidErrs_xpr]
  case proof =>
    intro hprovable hnew hvalid hproof hclosed hdev hr hidle
    obtain ⟨w, hw, hexec⟩ := exec_spareProof_of_provable (ce := ce) (ue := ue) hprovable hnew hvalid hproof hclosed hdev hr hidle
    have hran : w.xpr.spareRan = some (s.xid x).tenant.toNat := by rw [hw, startSpare_ran, xidErrs_xid]
    have hxids : w.xpr.xids = s.xpr.xids := by
      rw [hw, startSpare_keeps (fun u => u.xpr.xids) (fun _ _ => rfl) fun _ _ => rfl, xidErrs_xpr]
    have hmtc : w.mtc = (xidErrs x ce ue s).mtc := by
      rw [hw, startSpare_keeps State.mtc (fun _ _ => rfl) fun _ _ => rfl]
    exact ⟨_, hexec, rfl, rfl, rfl, hran, hxids, hmtc⟩
  case proofDone =>
    intro hproof ha hb
    have hexec {split : Bool} := exec_spareProofDone_of_arrived (split := split) hproof ha hb
    refine ⟨fun hfp hpa hpb hrecord => ?_, fun harm hdev => ?_, fun hdiffer => ?_⟩
    · refine ⟨_, hexec.trans ((if_neg Bool.false_ne_true).trans (if_pos ⟨hfp, hpa, hpb, hrecord⟩)), ?_⟩
      rw [enterProof_xpr, restSpare_xpr, State.armedXids_congr (congrArg Xpr.xids (restSpare_xpr s))]
      refine ⟨rfl, mem_provedWith.mpr (.inl rfl), rfl, fun hall => ?_⟩
      have hproved : s.armedXids.all (fun y => (provedWith p.x s.xpr.proved).contains y) = true :=
        List.all_eq_true.mpr fun y hy => List.contains_iff_mem.mpr (mem_provedWith.mpr (hall y hy))
      rw [hproved, Bool.or_true]
    · exact ⟨_, hexec.trans (if_pos rfl), held_splitVerdict hdev rfl harm⟩
    · obtain ⟨hnone, hready, hretired⟩ := proofFails_xpr p.x s
      refine ⟨_, hexec.trans ((if_neg Bool.false_ne_true).trans (if_neg fun h => hdiffer h.1)), hnone, ?_, ?_, hready⟩
      · simp [hretired]
      · simp [hretired]

end Sys2Proof.Machine
end

section
/-! PROOFS, O43. Components that restart, are held, or bring SAFE_HOLD (R286, R300, R302 to R304); and what the work that a component
leaves behind does to the registers of the firmware. -/

namespace Sys2Proof.Machine

/-! ## The registers of the firmware and the summary -/

/-- The states of the components with the counts and notes of their restarts, and the device time. -/
def State.fwRegs (s : State) : Store CompSt × Nat × BitVec 16 × BitVec 8 × BitVec 8 :=
  (s.sec.comps, s.glb.devTime, s.glb.fwRestarts, s.glb.fwHeld, s.glb.fwLast)

/-- The firmware's registers stay, and no class of faults leaves the summary (R378). -/
structure FirmwareKept (s u : State) : Prop where
  regs : u.fwRegs = s.fwRegs
  summary : ∀ i, s.frc.summary.getLsbD i = true → u.frc.summary.getLsbD i = true

theorem FirmwareKept.refl (s : State) : FirmwareKept s s := ⟨rfl, fun _ => id⟩

theorem FirmwareKept.trans {s u v : State} (h : FirmwareKept s u) (h' : FirmwareKept u v) : FirmwareKept s v :=
  ⟨h'.regs.trans h.regs, fun i hi => h'.summary i (h.summary i hi)⟩

/-- Where nothing is recorded. -/
theorem FirmwareKept.of_eq {s u : State} (h : (u.fwRegs, u.frc) = (s.fwRegs, s.frc)) : FirmwareKept s u := by
  obtain ⟨hregs, hfrc⟩ := Prod.mk.inj h
  exact ⟨hregs, fun i hi => hfrc ▸ hi⟩

theorem firmwareKept_foldl {β : Type} {g : State → β → State} (hg : ∀ u b, FirmwareKept u (g u b)) (l : List β) (s : State) :
    FirmwareKept s (l.foldl g s) :=
  foldl_holds (FirmwareKept s) g l s (fun u b hu => hu.trans (hg u b)) (.refl s)

section
variable {s u : State} (h : FirmwareKept s u)
include h

theorem FirmwareKept.comps : u.sec.comps = s.sec.comps := congrArg (fun r => r.1) h.regs
theorem FirmwareKept.devTime : u.glb.devTime = s.glb.devTime := congrArg (fun r => r.2.1) h.regs
theorem FirmwareKept.fwRestarts : u.glb.fwRestarts = s.glb.fwRestarts := congrArg (fun r => r.2.2.1) h.regs
theorem FirmwareKept.fwHeld : u.glb.fwHeld = s.glb.fwHeld := congrArg (fun r => r.2.2.2.1) h.regs
theorem FirmwareKept.fwLast : u.glb.fwLast = s.glb.fwLast := congrArg (fun r => r.2.2.2.2) h.regs

end

theorem record_fwRegs (c : BitVec 16) (t : Option Nat) (unit arg addr : Nat) (s : State) :
    (record c t unit arg addr s).fwRegs = s.fwRegs := by
  have hnote (s : State) : (noteBlock c t unit arg s).fwRegs = s.fwRegs := by
    unfold noteBlock noteWin
    (repeat' split) <;> rfl
  unfold record
  split
  · exact hnote _
  · generalize hw : noteBlock c t unit arg { s with frc := _ } = w
    obtain ⟨o, m, h⟩ := msix_messaged 0 w
    rw [h, ← hw]
    exact hnote _

theorem firmwareKept_record (c : BitVec 16) (t : Option Nat) (unit arg addr : Nat) (s : State) :
    FirmwareKept s (record c t unit arg addr s) := by
  have hfrc : (record c t unit arg addr s).frc = s.logged c t unit arg addr := by
    have hnote := noteBlock_keeps State.frc (fun _ _ _ _ => rfl) c t unit arg
    unfold record State.logged
    split
    · rw [hnote]
    · rw [msix_keeps State.frc fun _ _ _ => rfl, hnote]
  refine ⟨record_fwRegs .., fun i hi => ?_⟩
  rw [hfrc]
  exact s.summary_logged c t unit arg addr hi

theorem FirmwareKept.record {s u : State} (h : FirmwareKept s u) {c : BitVec 16} {t : Option Nat} {unit arg addr : Nat} :
    FirmwareKept s (record c t unit arg addr u) :=
  h.trans (firmwareKept_record ..)

theorem DiesGoOn.firmwareKept {s u : State} (h : DiesGoOn s u) : FirmwareKept s u := ⟨by rw [h.rest]; rfl, h.summary⟩

theorem PortsSettle.firmwareKept {s u : State} (h : PortsSettle s u) : FirmwareKept s u := .of_eq (by rw [h.rest]; rfl)

/-! ## Completions, and reads and writes of model memory -/

theorem firmwareKept_noteMem (c : BitVec 16) (t addr : Nat) (s : State) : FirmwareKept s (noteMem c t addr s) :=
  .of_eq (noteMem_keeps (fun u => (u.fwRegs, u.frc)) (fun _ _ _ _ _ => rfl) ..)

theorem firmwareKept_complete (t q : Nat) (idx : Reg32) (status : BitVec 16) (value : BitVec 64) (addr unit : Nat) (log : Bool)
    (s : State) : FirmwareKept s (complete t q idx status value addr unit log s) := by
  obtain ⟨y, z, h | h⟩ := complete_cases t q idx status value addr unit log s
  · rw [h]
    exact .of_eq (by rfl)
  · rw [h]
    have hnote : FirmwareKept { s with ten := y } (noteMem status t addr { s with ten := y }) := firmwareKept_noteMem ..
    exact .trans (.of_eq (by rfl)) (hnote.record.trans (.of_eq (by rfl)))

theorem FirmwareKept.complete {s u : State} (h : FirmwareKept s u) {t q : Nat} {idx : Reg32} {status : BitVec 16} {value : BitVec 64}
    {addr unit : Nat} {log : Bool} : FirmwareKept s (complete t q idx status value addr unit log u) :=
  h.trans (firmwareKept_complete ..)

theorem firmwareKept_tagResult (t addr : Nat) (r : PageRead) (s : State) : FirmwareKept s (tagResult t addr r s) := by
  unfold tagResult
  extract_lets m s1 a
  split
  · exact .of_eq (by rfl)
  · exact .record (.of_eq (by rfl))

theorem firmwareKept_copyLocPage (t : Nat) (src dst : Loc) (addr : Nat) (s : State) : FirmwareKept s (copyLocPage t src dst addr s) := by
  unfold copyLocPage
  extract_lets r s1 off
  have h : FirmwareKept s s1 := firmwareKept_tagResult ..
  split
  · split
    · exact h
    · exact h.trans (.of_eq (by rfl))
  · exact h.trans (.of_eq (by rfl))

theorem firmwareKept_switchGranule {t g : Nat} {src dst : Loc} {s u : State} (h : switchGranule t g src dst s = some u) :
    FirmwareKept s u := by
  obtain ⟨w, hw, rfl⟩ := Option.map_eq_some_iff.mp h
  have hfix : FirmwareKept s w := by
    split at hw
    · exact .of_eq (fixMk_keeps (f := fun u => (u.fwRegs, u.frc)) (fun _ _ _ => rfl) hw)
    · cases hw; exact .refl _
  have hpages : FirmwareKept w ((List.range 512).foldl (fun s i => copyLocPage t src dst (granuleBytes * g + 4096 * i) s) w) :=
    firmwareKept_foldl (fun u i => firmwareKept_copyLocPage ..) ..
  have hkey (v : State) : FirmwareKept v (settleMk t v) :=
    .of_eq (settleMk_keeps (f := fun u => (u.fwRegs, u.frc)) (fun _ _ _ => rfl) t v)
  generalize (List.range 512).foldl (fun s i => copyLocPage t src dst (granuleBytes * g + 4096 * i) s) w = v at hpages ⊢
  exact hfix.trans (hpages.trans (.trans (.of_eq (by rfl)) (hkey _)))

theorem firmwareKept_refreshGranule {t g : Nat} {s u : State} (h : refreshGranule t g s = .ok u) : FirmwareKept s u := by
  unfold refreshGranule at h
  split at h
  · split at h
    · cases h; exact .refl _
    · split at h
      · cases h
      · next hyard =>
        split at h
        · cases h
        · next hswitch =>
          cases h
          have htake := FirmwareKept.of_eq (takeYardFor_keeps (f := fun u => (u.fwRegs, u.frc)) (fun _ _ _ => rfl) hyard)
          exact .trans (.of_eq (by rfl)) (htake.trans (firmwareKept_switchGranule hswitch))
  · split at h
    · cases h; exact .refl _
    · split at h
      · cases h
      · next hswitch => cases h; exact firmwareKept_switchGranule hswitch
  · cases h; exact .refl _

theorem firmwareKept_refreshGranules {t : Nat} {l : List Nat} {s u : State} (h : refreshGranules t l s = .ok u) : FirmwareKept s u := by
  induction l generalizing s with
  | nil => cases h; exact .refl _
  | cons g r ih =>
    unfold refreshGranules at h
    split at h
    · next w hw => exact (firmwareKept_refreshGranule hw).trans (ih h)
    · cases h

theorem firmwareKept_writeLoc (t : Nat) (l : Loc) (addr : Nat) (data : List MByte) (s : State) :
    FirmwareKept s (writeLoc t l addr data s) := by
  unfold writeLoc
  extract_lets off frame r new s0
  have h : FirmwareKept s s0 := by
    unfold s0
    split
    · exact .refl _
    · exact firmwareKept_tagResult ..
  split
  · split
    · exact .refl _
    · exact h.trans (.of_eq (by rfl))
  · exact .of_eq (by rfl)

theorem firmwareKept_modelWrite {t addr : Nat} {data : List MByte} {s u : State} (h : modelWrite t addr data s = .ok u) :
    FirmwareKept s u := by
  simp only [modelWrite] at h
  split at h
  · cases h
  · next w hw =>
    have hkey : FirmwareKept s w := by
      split at hw
      · exact .of_eq (fixMk_keeps (f := fun u => (u.fwRegs, u.frc)) (fun _ _ _ => rfl) hw)
      · cases hw; exact .refl _
    cases hgive : giveGranules t (granulesOf addr data.length) w with
    | error c => rw [hgive] at h; cases h
    | ok w1 =>
      rw [hgive] at h
      split at h
      · cases h
      · next w2 hrefresh =>
        cases h
        have htaken := FirmwareKept.of_eq (giveGranules_keeps (f := fun u => (u.fwRegs, u.frc)) (fun _ _ _ => rfl) hgive)
        refine hkey.trans (htaken.trans ((firmwareKept_refreshGranules hrefresh).trans (firmwareKept_foldl (fun v pc => ?_) _ w2)))
        split
        · exact .refl v
        · exact firmwareKept_writeLoc ..

theorem firmwareKept_modelRead (t addr n : Nat) (s : State) : FirmwareKept s (modelRead t addr n s).2 := by
  refine foldl_holds (fun acc : List MByte × State => FirmwareKept s acc.2) _ _ _ (fun acc pc hacc => ?_) (.refl s)
  dsimp only
  split
  · exact hacc
  · split
    · exact hacc.trans (firmwareKept_tagResult ..)
    · exact hacc

/-! ## Sequences of the key-value cache (R186 to R189) -/

theorem firmwareKept_putModel (t addr : Nat) (data : List MByte) (s : State) : FirmwareKept s (putModel t addr data s) := by
  unfold putModel
  split
  · next h => exact firmwareKept_modelWrite h
  · exact .trans (.of_eq (by rfl)) (firmwareKept_record ..)

theorem firmwareKept_writeHdr (t addr : Nat) (h : KvHdr) (s : State) : FirmwareKept s (writeHdr t addr h s) :=
  (firmwareKept_putModel ..).trans (firmwareKept_putModel ..)

theorem firmwareKept_appendEffect (t hd n : Nat) (v : KvSeq) (s : State) : FirmwareKept s (appendEffect t hd n v s) := by
  unfold appendEffect
  extract_lets h opens s1
  have h1 : FirmwareKept s s1 := firmwareKept_writeHdr ..
  split
  · exact h1.trans (.of_eq (by rfl))
  · exact h1

theorem firmwareKept_writeList (t : Nat) (v : KvSeq) (h : KvHdr) (es : List KvEntry) (s : State) : FirmwareKept s (writeList t v h es s) :=
  (firmwareKept_writeHdr ..).trans (firmwareKept_putModel ..)

theorem firmwareKept_copyPage {t src dst n : Nat} {s u : State} (h : copyPage t src dst n s = .ok u) : FirmwareKept s u :=
  (firmwareKept_modelRead t src n s).trans (firmwareKept_modelWrite h)

/-- An edit that goes through writes the page list, and UNSPILL a page before it (R187). -/
theorem editRun_cases {t : Nat} {v w : KvSeq} {op : KvOp} {s u : State} (h : editRun t v op s = .ok (w, u)) :
    u = s ∨ ∃ s1 k e, (s1 = s ∨ ∃ src dst n, copyPage t src dst n s = .ok s1) ∧
      (u = writeList t v k e s1 ∨ u = writeHdr t v.addr k s1) := by
  unfold editRun at h
  extract_lets hd es need at h
  have hneed {r : Option (KvSeq × State)} (hr : need r = .ok (w, u)) : r = some (w, u) := by
    simp only [need] at hr
    split at hr
    · cases hr
    · cases hr; rfl
  cases op with
  | trunc n =>
    have hx := hneed h
    simp only [editTrunc] at hx
    split at hx
    · cases hx
    · cases hx
      exact .inr ⟨s, _, _, .inl rfl, .inl rfl⟩
  | remap i l f =>
    have hx := hneed h
    simp only [editRemap] at hx
    split at hx
    · cases hx
    · cases hx
      exact .inr ⟨s, _, _, .inl rfl, .inl rfl⟩
  | drop n =>
    have hx := hneed h
    simp only [editDrop] at hx
    split at hx
    · cases hx
    · cases hx
      exact .inr ⟨s, _, _, .inl rfl, .inl rfl⟩
  | unspill i f =>
    dsimp only at h
    split at h
    · generalize hw : copyPage _ _ _ _ s = r at h
      cases r with
      | error c => cases h
      | ok s1 =>
        cases h
        exact .inr ⟨s1, _, _, .inr ⟨_, _, _, hw⟩, .inl rfl⟩
    · cases h
  | pos0 n =>
    cases h
    exact .inr ⟨s, _, es, .inl rfl, .inr rfl⟩
  | _ => cases h; exact .inl rfl

theorem firmwareKept_editRun {t : Nat} {v w : KvSeq} {op : KvOp} {s u : State} (h : editRun t v op s = .ok (w, u)) : FirmwareKept s u := by
  rcases editRun_cases h with rfl | ⟨s1, k, e, hcopy, hwrite⟩
  · exact .refl _
  · have h1 : FirmwareKept s s1 := by
      rcases hcopy with rfl | ⟨src, dst, n, hc⟩
      · exact .refl _
      · exact firmwareKept_copyPage hc
    rcases hwrite with rfl | rfl
    · exact h1.trans (firmwareKept_writeList ..)
    · exact h1.trans (firmwareKept_writeHdr ..)

theorem firmwareKept_appendTurn (t hd : Nat) (v : KvSeq) (w : KvWait) (n : Nat) (pages : List Nat) (s : State) :
    FirmwareKept s (appendTurn t hd v w n pages s) := by
  unfold appendTurn
  extract_lets h v1
  split
  · exact firmwareKept_complete ..
  · split
    · exact (firmwareKept_appendEffect ..).complete
    · exact .trans (.of_eq (by rfl)) (firmwareKept_appendEffect ..)

theorem firmwareKept_closeSeq (t hd : Nat) (v : KvSeq) (s : State) : FirmwareKept s (closeSeq t hd v s) :=
  .trans (.of_eq (by rfl)) (firmwareKept_foldl (fun u w => firmwareKept_complete ..) v.waits (s.setKvSeq t hd none))

theorem firmwareKept_kvStep (t hd : Nat) (s : State) : FirmwareKept s (kvStep t hd s) := by
  unfold kvStep
  split
  · exact .refl _
  · extract_lets h es
    split
    · extract_lets v1 s1
      have h1 : FirmwareKept s s1 := .of_eq (by rfl)
      split
      · exact h1.trans (firmwareKept_appendTurn ..)
      · exact (h1.trans (firmwareKept_writeHdr ..)).complete
      · exact h1.complete
    · split
      · exact .refl _
      · extract_lets v1
        split
        · exact .of_eq (by rfl)
        · exact ((firmwareKept_writeHdr ..).trans (firmwareKept_closeSeq ..)).complete
        · split
          · exact .refl _
          · exact .complete (.of_eq (by rfl))
        · split
          · next he => exact ((firmwareKept_editRun he).trans (.of_eq (by rfl))).complete
          · exact .complete (.of_eq (by rfl))

theorem firmwareKept_settleSeq (t hd : Nat) (s : State) : FirmwareKept s (settleSeq t hd s) := by
  unfold settleSeq
  split
  · exact .refl _
  · exact firmwareKept_foldl (fun u _ => firmwareKept_kvStep ..) ..

/-! ## Moves of granules (R203 to R207) -/

theorem firmwareKept_settleMigrates (t : Nat) (s : State) : FirmwareKept s (settleMigrates t s) := by
  refine firmwareKept_foldl (fun u j => ?_) ..
  dsimp only
  split
  · exact .refl _
  · exact .complete (.of_eq (by rfl))

theorem firmwareKept_dropMove (v : GMove) (s : State) : FirmwareKept s (dropMove v s) :=
  .trans (.of_eq (by rfl)) (firmwareKept_settleMigrates ..)

theorem firmwareKept_beginMove (v : GMove) (src : Loc) (s : State) : FirmwareKept s (beginMove v src s) := by
  unfold beginMove
  extract_lets got s1
  have h1 : FirmwareKept s s1 := firmwareKept_dropMove ..
  have hgot {p : Nat} {w : State} (h : got = some (p, w)) : FirmwareKept s w := by
    simp only [got] at h
    split at h
    · obtain ⟨r, -, hr⟩ := Option.map_eq_some_iff.mp h
      cases hr
      exact .of_eq (by rfl)
    · split at h
      · exact .of_eq (takeYardFor_keeps (f := fun u => (u.fwRegs, u.frc)) (fun _ _ _ => rfl) h)
      · obtain ⟨r, -, hr⟩ := Option.map_eq_some_iff.mp h
        cases hr
        exact .of_eq (by rfl)
  clear_value got s1
  cases got with
  | none =>
    dsimp only
    split
    · exact h1.record
    · exact h1
  | some r => exact (hgot rfl).trans (.of_eq (by rfl))

theorem firmwareKept_retireGranule (t g p : Nat) (s : State) : FirmwareKept s (retireGranule t g p s) := by
  unfold retireGranule
  split
  · exact .refl _
  · extract_lets m0 m g v s1
    split
    · split
      · exact .record (.of_eq (by rfl))
      · split
        · exact .of_eq (by rfl)
        · exact .trans (.of_eq (by rfl)) (firmwareKept_beginMove ..)
    · exact .of_eq (by rfl)

theorem firmwareKept_abandonMove (v : GMove) (s : State) : FirmwareKept s (abandonMove v s) := by
  unfold abandonMove
  extract_lets g
  split
  · extract_lets m s1 s2 m2
    have h1 : FirmwareKept s s1 := .of_eq (by rfl)
    have h2 : FirmwareKept s s2 := h1.trans (firmwareKept_dropMove ..)
    split
    · exact .of_eq (by rfl)
    · split
      · exact h2
      · exact h2.trans (.trans (.of_eq (by rfl)) (firmwareKept_retireGranule ..))
  · exact firmwareKept_dropMove ..

/-! ## What a restart, or a held component, does (R151, R303, R304) -/

theorem quiesceTenant_keeps {γ : Type} (f : State → γ) (hf : ∀ s l, f { s with ary := l } = f s) (t : Nat) (s : State) :
    f (quiesceTenant t s) = f s := foldl_keeps f _ _ s fun u _ => hf u _

theorem firmwareKept_quiesceTenant (t : Nat) (s : State) : FirmwareKept s (quiesceTenant t s) :=
  .of_eq (quiesceTenant_keeps (fun u => (u.fwRegs, u.frc)) (fun _ _ => rfl) ..)

theorem firmwareKept_pausePlanner (core : Nat) (s : State) : FirmwareKept s (pausePlanner core s) := by
  refine firmwareKept_foldl (fun u t => ?_) ..
  dsimp only
  split
  · exact .trans (.of_eq (by rfl)) (firmwareKept_quiesceTenant ..)
  · exact .refl _

theorem firmwareKept_modXid (x : Nat) (f : Xid → Xid) (s : State) : FirmwareKept s (s.modXid x f) := .of_eq (by rfl)

theorem firmwareKept_armWatch (s : State) : FirmwareKept s (armWatch s) := .of_eq (by rfl)

theorem firmwareKept_zeroCon (base size : Nat) (s : State) : FirmwareKept s (zeroCon base size s) := by
  unfold zeroCon
  exact .of_eq (by rfl)

theorem firmwareKept_armUndone (x : Nat) (code : BitVec 16) (unit : Nat) (s : State) : FirmwareKept s (armUndone x code unit s) := by
  unfold armUndone
  extract_lets v s1
  have h1 : FirmwareKept s s1 := (firmwareKept_zeroCon ..).trans (firmwareKept_modXid ..)
  split
  · exact h1
  · exact h1.complete.trans (firmwareKept_armWatch _)

theorem firmwareKept_failArming (s : State) : FirmwareKept s (failArming s) := by
  refine firmwareKept_foldl (fun u x => ?_) ..
  split
  · exact firmwareKept_armUndone ..
  · exact .refl _

theorem firmwareKept_queueReads (addr n : Nat) (cls : Fin 5) (who : Reader) (s : State) : FirmwareKept s (queueReads addr n cls who s) :=
  firmwareKept_foldl (fun u d => (diesGoOn_queueRead d _ u).firmwareKept) ..

theorem firmwareKept_dropReads (w : Reader) (s : State) : FirmwareKept s (dropReads w s) := (diesGoOn_dropReads w s).firmwareKept

theorem firmwareKept_settlePorts (s : State) : FirmwareKept s (settlePorts s) := (portsSettle_settlePorts s).firmwareKept

theorem firmwareKept_queueShards (j : LoadJob) (shards : List Shard) (is : List Nat) (s : State) :
    FirmwareKept s (queueShards j shards is s) := by
  refine .trans (firmwareKept_foldl (fun u i => ?_) is s) (firmwareKept_settlePorts _)
  split
  · exact .refl _
  · exact firmwareKept_queueReads ..

/-- What goes through the shards of all copies of all tenants. -/
theorem firmwareKept_foldl_shards {g : Nat → Nat → State → Shard × Nat → State} (hg : ∀ t c u h, FirmwareKept u (g t c u h))
    (s : State) : FirmwareKept s ((List.range 32).foldl (fun s t => (List.range 4).foldl (fun s c =>
      ((s.tenant t).copy c).shards.zipIdx.foldl (g t c) s) s) s) :=
  firmwareKept_foldl (fun u t => firmwareKept_foldl (fun w c => firmwareKept_foldl (hg t c) _ w) _ u) _ s

theorem firmwareKept_rereadShards (s : State) : FirmwareKept s (rereadShards s) := by
  unfold rereadShards
  extract_lets s1
  have h1 : FirmwareKept s s1 := by
    refine firmwareKept_foldl (fun u j => ?_) ..
    dsimp only
    split
    · exact .refl _
    · exact .trans (firmwareKept_foldl (fun w i => firmwareKept_dropReads ..) _ u) (firmwareKept_queueShards ..)
  refine h1.trans (firmwareKept_foldl_shards (fun t c u h => ?_) s1)
  split
  · exact ((firmwareKept_dropReads ..).trans (firmwareKept_queueReads ..)).trans (firmwareKept_settlePorts ..)
  · exact .refl _

/-- A restart leaves the registers of the firmware as the restart set them. -/
theorem firmwareKept_onRestart (c : Comp) (s : State) : FirmwareKept s (onRestart c s) := by
  cases c with
  | planner1 => exact .trans (.of_eq (by rfl)) (firmwareKept_pausePlanner 1 (dropCache 1 s))
  | planner2 => exact .trans (.of_eq (by rfl)) (firmwareKept_pausePlanner 2 (dropCache 2 s))
  | planner3 => exact .trans (.of_eq (by rfl)) (firmwareKept_pausePlanner 3 (dropCache 3 s))
  | planner4 => exact .trans (.of_eq (by rfl)) (firmwareKept_pausePlanner 4 (dropCache 4 s))
  | spdm => exact .of_eq (by rfl)
  | mgmt => exact .of_eq (by rfl)
  | express => exact firmwareKept_failArming s
  | loader => exact firmwareKept_rereadShards s
  | bootmon | keymgr | shunt | telem => exact .refl s

theorem firmwareKept_leavePlanner (core : Nat) (s : State) : FirmwareKept s (leavePlanner core s) := by
  unfold leavePlanner
  extract_lets live
  split
  · refine firmwareKept_foldl (fun u t => ?_) ..
    dsimp only
    split
    · exact .trans (.of_eq (by rfl)) (firmwareKept_quiesceTenant ..)
    · exact .refl _
  · exact .of_eq (by rfl)

theorem firmwareKept_leaveShunt (s : State) : FirmwareKept s (leaveShunt s) := by
  unfold leaveShunt
  extract_lets s1
  have h1 : FirmwareKept s s1 := by
    refine firmwareKept_foldl (fun u v => ?_) ..
    split
    · exact firmwareKept_abandonMove ..
    · split
      · exact firmwareKept_dropMove ..
      · exact .refl _
  exact h1.trans (firmwareKept_foldl (fun u e => firmwareKept_settleSeq ..) ..)

theorem firmwareKept_endLoad (t c : Nat) (st : CopyState) (code : BitVec 16) (addr : Nat) (s : State) :
    FirmwareKept s (endLoad t c st code addr s) := by
  unfold endLoad
  extract_lets v s0 d s1 s2
  have h0 : FirmwareKept s s0 := (firmwareKept_foldl (fun u i => firmwareKept_dropReads ..) _ s).trans (firmwareKept_dropReads ..)
  have h2 : FirmwareKept s s2 := h0.trans (.of_eq (by rfl))
  split
  · split
    · exact h2
    · exact h2.record
  · exact h2.complete

theorem firmwareKept_reloadFails (t c i : Nat) (h : Shard) (code : BitVec 16) (addr : Nat) (s : State) :
    FirmwareKept s (reloadFails t c i h code addr s) :=
  .record (.trans (.of_eq (by rfl)) (firmwareKept_dropReads ..))

theorem firmwareKept_leaveLoader (s : State) : FirmwareKept s (leaveLoader s) := by
  unfold leaveLoader
  extract_lets s1
  have h1 : FirmwareKept s s1 := firmwareKept_foldl (fun u j => firmwareKept_endLoad ..) ..
  refine h1.trans (firmwareKept_foldl_shards (fun t c u h => ?_) s1)
  split
  · exact firmwareKept_reloadFails ..
  · exact .refl _

theorem firmwareKept_leaveBootmon (s : State) : FirmwareKept s (leaveBootmon s) := by
  unfold leaveBootmon
  extract_lets s1
  split
  · exact .of_eq (by rfl)
  · exact .of_eq (by rfl)

/-- So does what follows where a component stays stopped. -/
theorem firmwareKept_onHeld (c : Comp) (s : State) : FirmwareKept s (onHeld c s) := by
  cases c with
  | planner1 => exact firmwareKept_leavePlanner 1 s
  | planner2 => exact firmwareKept_leavePlanner 2 s
  | planner3 => exact firmwareKept_leavePlanner 3 s
  | planner4 => exact firmwareKept_leavePlanner 4 s
  | shunt => exact firmwareKept_leaveShunt s
  | loader => exact firmwareKept_leaveLoader s
  | bootmon => exact firmwareKept_leaveBootmon s
  | spdm => exact .of_eq (by rfl)
  | mgmt => exact .of_eq (by rfl)
  | express => exact firmwareKept_failArming s
  | keymgr | telem => exact .refl s

/-! ## A restart leaves stacked memory alone (R303) -/

theorem pausePlanner_mtc (core : Nat) (s : State) : (pausePlanner core s).mtc = s.mtc := by
  refine foldl_keeps State.mtc _ _ s fun u t => ?_
  dsimp only
  split
  · rw [quiesceTenant_keeps State.mtc fun _ _ => rfl]
    rfl
  · rfl

@[simp] theorem armWatch_mtc (s : State) : (armWatch s).mtc = s.mtc := rfl

theorem complete_stk (t q : Nat) (idx : Reg32) (status : BitVec 16) (value : BitVec 64) (addr unit : Nat) (log : Bool) (s : State) :
    (complete t q idx status value addr unit log s).mtc.stk = s.mtc.stk :=
  complete_keeps (fun u => u.mtc.stk) (fun _ _ => rfl) (fun _ _ _ _ _ _ => congrArg Mtc.stk (record_mtc ..))
    (noteMem_keeps (fun u => u.mtc.stk) fun _ _ _ _ _ => rfl) ..

theorem armUndone_stk (x : Nat) (code : BitVec 16) (unit : Nat) (s : State) : (armUndone x code unit s).mtc.stk = s.mtc.stk := by
  unfold armUndone
  extract_lets v s1
  have hzero (base size : Nat) : (zeroCon base size s).mtc.stk = s.mtc.stk := rfl
  have h1 : s1.mtc.stk = s.mtc.stk := by rw [show s1 = (zeroCon v.mbase v.size s).modXid x _ from rfl, State.modXid_mtc, hzero]
  split
  · exact h1
  · rw [armWatch_mtc, complete_stk, h1]

theorem queueReads_mtc (addr n : Nat) (cls : Fin 5) (who : Reader) (s : State) : (queueReads addr n cls who s).mtc = s.mtc :=
  foldl_keeps State.mtc _ _ s fun u d => (diesGoOn_queueRead d _ u).mtc

theorem settlePorts_mtc (s : State) : (settlePorts s).mtc = s.mtc := by rw [(portsSettle_settlePorts s).rest]

theorem rereadShards_mtc (s : State) : (rereadShards s).mtc = s.mtc := by
  unfold rereadShards
  extract_lets s1
  have h1 : s1.mtc = s.mtc := by
    refine foldl_keeps State.mtc _ _ s fun u j => ?_
    dsimp only
    split
    · rfl
    · rw [queueShards, settlePorts_mtc]
      refine (foldl_keeps State.mtc _ _ _ fun w i => ?_).trans (foldl_keeps State.mtc _ _ u fun _ _ => rfl)
      split
      · rfl
      · exact queueReads_mtc ..
  refine Eq.trans ?_ h1
  refine foldl_keeps State.mtc _ _ s1 fun u t => foldl_keeps State.mtc _ _ u fun w c => foldl_keeps State.mtc _ _ w fun z h => ?_
  split
  · rw [settlePorts_mtc, queueReads_mtc]
    rfl
  · rfl

theorem onRestart_stk (c : Comp) (s : State) : (onRestart c s).mtc.stk = s.mtc.stk := by
  cases c with
  | planner1 => exact congrArg Mtc.stk (pausePlanner_mtc 1 (dropCache 1 s))
  | planner2 => exact congrArg Mtc.stk (pausePlanner_mtc 2 (dropCache 2 s))
  | planner3 => exact congrArg Mtc.stk (pausePlanner_mtc 3 (dropCache 3 s))
  | planner4 => exact congrArg Mtc.stk (pausePlanner_mtc 4 (dropCache 4 s))
  | express =>
    refine foldl_keeps (fun u => u.mtc.stk) _ _ s fun u x => ?_
    split
    · exact armUndone_stk ..
    · rfl
  | loader => exact congrArg Mtc.stk (rereadShards_mtc s)
  | bootmon | spdm | keymgr | shunt | mgmt | telem => rfl

/-! ## Restarts (R302, R304) -/

theorem mem_allComps (c : Comp) : c ∈ allComps := by cases c <;> decide

theorem compIdx_inj {c d : Comp} (h : compIdx c = compIdx d) : c = d := by
  have hget (c : Comp) : allComps[compIdx c]? = some c := by cases c <;> rfl
  exact Option.some.inj ((hget c).symm.trans ((congrArg (allComps[·]?) h).trans (hget d)))

/-- The state of a component. -/
def State.comp (s : State) (c : Comp) : CompSt := sget CompSt.init s.sec.comps (compIdx c)

def State.setComp (s : State) (c : Comp) (v : CompSt) : State :=
  { s with sec := { s.sec with comps := sset CompSt.init s.sec.comps (compIdx c) v } }

/-- A restart, counted and entered in the log. -/
def restartNoted (c : Comp) (why : RestartCause) (s : State) : State :=
  record Code.fwRestart none (unitCore (compCore c)) (compId c) 0 {
    s.setComp c { s.comp c with restarts := s.recentRestarts c ++ [s.glb.devTime], cause := some why } with
    glb := { s.glb with fwRestarts := satAdd s.glb.fwRestarts 1, fwLast := BitVec.ofNat 8 (compId c) } }

/-- A component that is not restarted again, with its core's bit, entered in the log. -/
def holdNoted (c : Comp) (s : State) : State :=
  record Code.fwHeld none (unitCore (compCore c)) (compId c) 0 {
    s.setComp c { s.comp c with held := true } with
    glb := { s.glb with fwHeld := s.glb.fwHeld ||| BitVec.ofNat 8 (2 ^ compCore c) } }

section
variable {c : Comp} {s : State} (hheld : (s.comp c).held = false) (why : RestartCause)
include hheld

theorem restartComp_of_armed (hexpress : c = .express) (harm : s.anyArmed = true) :
    restartComp c why s = safeHold Code.lockstep (record Code.lockstep none unitCore7 0 0 s) :=
  (if_neg (by rw [show (sget CompSt.init s.sec.comps (compIdx c)).held = false from hheld]; decide)).trans (if_pos ⟨hexpress, harm⟩)

variable (harm : c = .express → s.anyArmed = false)
include harm

theorem restartComp_of_few (hfew : (s.recentRestarts c).length ≤ 2) : restartComp c why s = onRestart c (restartNoted c why s) := by
  refine (if_neg ?_).trans ((if_neg ?_).trans (if_neg ?_))
  · exact Bool.eq_false_iff.mp hheld
  · rintro ⟨hc, ha⟩
    exact absurd ha (Bool.eq_false_iff.mp (harm hc))
  · exact Nat.not_le.mpr (Nat.lt_succ_of_le hfew)

theorem restartComp_of_many (hmany : 3 ≤ (s.recentRestarts c).length) : restartComp c why s = onHeld c (holdNoted c s) := by
  refine (if_neg ?_).trans ((if_neg ?_).trans (if_pos hmany))
  · exact Bool.eq_false_iff.mp hheld
  · rintro ⟨hc, ha⟩
    exact absurd ha (Bool.eq_false_iff.mp (harm hc))

end

section
variable {c : Comp} {s : State} (hheld : (s.comp c).held = false) (harm : c = .express → s.anyArmed = false)
include hheld harm

theorem fwRegs_restartComp_of_few (why : RestartCause) (hfew : (s.recentRestarts c).length ≤ 2) :
    (restartComp c why s).fwRegs =
      (sset CompSt.init s.sec.comps (compIdx c)
        { s.comp c with restarts := s.recentRestarts c ++ [s.glb.devTime], cause := some why },
        s.glb.devTime, satAdd s.glb.fwRestarts 1, s.glb.fwHeld, BitVec.ofNat 8 (compId c)) := by
  rw [restartComp_of_few hheld why harm hfew, (firmwareKept_onRestart ..).regs]
  exact record_fwRegs ..

theorem fwRegs_restartComp_of_many (why : RestartCause) (hmany : 3 ≤ (s.recentRestarts c).length) :
    (restartComp c why s).fwRegs =
      (sset CompSt.init s.sec.comps (compIdx c) { s.comp c with held := true },
        s.glb.devTime, s.glb.fwRestarts, s.glb.fwHeld ||| BitVec.ofNat 8 (2 ^ compCore c), s.glb.fwLast) := by
  rw [restartComp_of_many hheld why harm hmany, (firmwareKept_onHeld ..).regs]
  exact record_fwRegs ..

end

/-! ## SAFE_HOLD and the firmware (R286) -/

theorem firmwareKept_msix (v : Nat) (s : State) : FirmwareKept s (msix v s) := by
  obtain ⟨o, m, h⟩ := msix_messaged v s
  rw [h]
  exact .of_eq (by rfl)

theorem firmwareKept_setDev (d : DevState) (s : State) : FirmwareKept s (setDev d s) := by
  unfold setDev
  split
  · exact .refl s
  · exact .trans (.of_eq (by rfl)) (firmwareKept_msix ..)

theorem firmwareKept_safeHold (c : BitVec 16) (s : State) : FirmwareKept s (safeHold c s) := by
  unfold safeHold
  split
  · exact .refl s
  · extract_lets g v s1
    have h1 : FirmwareKept s s1 := .of_eq (by rfl)
    have hlanes (u : State) : FirmwareKept u (bothLanes 4 (holdFrame c) u) := .of_eq (by rfl)
    exact ((h1.trans (firmwareKept_setDev ..)).record).trans (hlanes _)

/-- The restart of one component leaves the others and the time as they are. -/
theorem restartComp_other (c : Comp) (why : RestartCause) (s : State) :
    (∀ d, d ≠ c → (restartComp c why s).comp d = s.comp d) ∧ (restartComp c why s).glb.devTime = s.glb.devTime := by
  have hother {u : State} {v : CompSt} (h : u.sec.comps = sset CompSt.init s.sec.comps (compIdx c) v) {d : Comp} (hd : d ≠ c) :
      u.comp d = s.comp d := by
    rw [State.comp, h, sget_sset, if_neg fun he => hd (compIdx_inj he)]
    rfl
  by_cases hheld : (s.comp c).held = false
  · by_cases harm : c = .express ∧ s.anyArmed = true
    · have hkept : FirmwareKept s (restartComp c why s) := by
        rw [restartComp_of_armed hheld why harm.1 harm.2]
        exact (firmwareKept_record ..).trans (firmwareKept_safeHold ..)
      exact ⟨fun d _ => by rw [State.comp, hkept.comps, State.comp], hkept.devTime⟩
    · have harm' : c = .express → s.anyArmed = false := fun hc => by simpa [hc] using harm
      by_cases hmany : 3 ≤ (s.recentRestarts c).length
      · have hregs := fwRegs_restartComp_of_many hheld harm' why hmany
        exact ⟨fun d hd => hother (congrArg (fun r => r.1) hregs) hd, congrArg (fun r => r.2.1) hregs⟩
      · have hregs := fwRegs_restartComp_of_few hheld harm' why (Nat.le_of_lt_succ (Nat.not_le.mp hmany))
        exact ⟨fun d hd => hother (congrArg (fun r => r.1) hregs) hd, congrArg (fun r => r.2.1) hregs⟩
  · have hsame : restartComp c why s = s := if_pos (Bool.not_eq_false _ ▸ hheld)
    rw [hsame]
    exact ⟨fun _ _ => rfl, rfl⟩

theorem State.recentRestarts_congr {s u : State} {c : Comp} (h : u.comp c = s.comp c) (ht : u.glb.devTime = s.glb.devTime) :
    u.recentRestarts c = s.recentRestarts c := by
  unfold State.recentRestarts
  rw [ht]
  exact congrArg (fun v : CompSt => v.restarts.filter _) h

theorem comp_restartComp_of_few {c : Comp} {s : State} (hheld : (s.comp c).held = false) (harm : c = .express → s.anyArmed = false)
    (why : RestartCause) (hfew : (s.recentRestarts c).length ≤ 2) :
    (restartComp c why s).comp c = { s.comp c with restarts := s.recentRestarts c ++ [s.glb.devTime], cause := some why } := by
  have hcomps := congrArg (fun r => r.1) (fwRegs_restartComp_of_few hheld harm why hfew)
  exact (congrArg (fun l => sget CompSt.init l (compIdx c)) hcomps).trans ((sget_sset ..).trans (if_pos rfl))

/-- Among components restarted one after the other, each is restarted once. -/
theorem foldl_restartComp {d : Comp} (hd : d ≠ .express) (why : RestartCause) {l : List Comp} (hl : l.Nodup) (hmem : d ∈ l) {s : State}
    (hheld : (s.comp d).held = false) (hfew : (s.recentRestarts d).length ≤ 2) :
    (l.foldl (fun s c => restartComp c why s) s).comp d =
      { s.comp d with restarts := s.recentRestarts d ++ [s.glb.devTime], cause := some why } := by
  induction l generalizing s with
  | nil => cases hmem
  | cons k r ih =>
    obtain ⟨hk, hr⟩ := List.nodup_cons.mp hl
    rw [List.foldl_cons]
    by_cases hkd : k = d
    · subst hkd
      refine Eq.trans ?_ (comp_restartComp_of_few hheld (fun h => absurd h hd) why hfew)
      refine List.foldlRecOn (motive := fun u : State => u.comp k = (restartComp k why s).comp k) _ _ rfl fun u hu b hb => ?_
      rw [(restartComp_other b why u).1 k (fun h => hk (h ▸ hb)), hu]
    · obtain ⟨hsame, htime⟩ := restartComp_other k why s
      have hcomp := hsame d (Ne.symm hkd)
      have hrecent := State.recentRestarts_congr hcomp htime
      rw [ih hr ((List.mem_cons.mp hmem).resolve_left (Ne.symm hkd)) (by rw [hcomp, hheld]) (by rw [hrecent]; exact hfew), hcomp, hrecent,
        htime]

/-! ## The statement -/

section
variable {s : State} (hruns : s.firmwareRuns = true)
include hruns

theorem exec_coreWatchdog_of_comp {core : Fin 8} {c : Comp} (hcore : compCore c = core.val) :
    exec (.coreWatchdog core (some c)) s = .next (restartComp c .checkpoint s) := by
  have hmine : (allComps.filter (fun c => compCore c == core.val)).contains c = true :=
    List.contains_iff_mem.mpr (List.mem_filter.mpr ⟨mem_allComps c, beq_iff_eq.mpr hcore⟩)
  exact (if_neg (by rw [hruns]; decide)).trans (if_pos hmine)

theorem exec_coreWatchdog_of_kernel (core : Fin 8) : exec (.coreWatchdog core none) s =
    .next ((allComps.filter (fun c => compCore c == core.val)).foldl (fun s c => restartComp c .kernel s) s) :=
  if_neg (by rw [hruns]; decide)

theorem exec_componentAccessFault_of_free {c : Comp} (hheld : (s.comp c).held = false) (cause : StopCause) :
    exec (.componentAccessFault c cause) s = .next (restartComp c (.stop cause)
      (if cause = .protection then record Code.fwAccess none (unitCore (compCore c)) (compId c) 0 s else s)) := by
  have hfree : s.compHeld c = false := hheld
  exact if_neg (by rw [hruns, hfree]; decide)

end

/-- Settles O43: a restart, or what is held instead, with the registers that it sets; what follows leaves them alone. -/
theorem componentsRestart : Obligations.ComponentsRestart := by
  unfold Obligations.ComponentsRestart
  intro core c cause s v hruns hheld
  refine ⟨fun harm hfew => ⟨fun hcore => ?checkpoint, ?stop⟩, fun harm hmany hcore => ?held, fun harm hall => ?kernel,
    fun hc harm hdev => ?express⟩
  case checkpoint =>
    refine ⟨_, exec_coreWatchdog_of_comp hruns hcore, comp_restartComp_of_few hheld harm _ hfew, ?_⟩
    have hregs := fwRegs_restartComp_of_few hheld harm .checkpoint hfew
    refine ⟨congrArg (fun r => r.2.2.1) hregs, congrArg (fun r => r.2.2.2.2) hregs, congrArg (fun r => r.2.2.2.1) hregs, ?_, ?_⟩
    · rintro rfl
      rw [restartComp_of_few hheld _ harm hfew]
      exact ⟨rfl, rfl⟩
    · rw [restartComp_of_few hheld _ harm hfew, onRestart_stk]
      exact congrArg Mtc.stk (record_mtc ..)
  case stop =>
    obtain ⟨s1, hs1⟩ : ∃ s1,
        s1 = if cause = .protection then record Code.fwAccess none (unitCore (compCore c)) (compId c) 0 s else s :=
      ⟨_, rfl⟩
    have hkept : FirmwareKept s s1 := by
      rw [hs1]
      split
      · exact firmwareKept_record ..
      · exact .refl s
    have hxpr : s1.xpr = s.xpr := by
      rw [hs1]
      split
      · exact record_xpr ..
      · rfl
    have hcomp : s1.comp c = v := congrArg (fun l => sget CompSt.init l (compIdx c)) hkept.comps
    have hrecent : s1.recentRestarts c = s.recentRestarts c := State.recentRestarts_congr hcomp hkept.devTime
    have hheld1 : (s1.comp c).held = false := by rw [hcomp, hheld]
    have harm1 : c = .express → s1.anyArmed = false := fun hc => by rw [State.anyArmed_congr (congrArg Xpr.xids hxpr), harm hc]
    have hfew1 : (s1.recentRestarts c).length ≤ 2 := by rwa [hrecent]
    have hregs := fwRegs_restartComp_of_few hheld1 harm1 (.stop cause) hfew1
    refine ⟨_, (exec_componentAccessFault_of_free hruns hheld cause).trans (by rw [← hs1]), ?_, ?_, ?_, ?_⟩
    · rw [← hcomp, ← hrecent, ← hkept.devTime]
      exact comp_restartComp_of_few hheld1 harm1 _ hfew1
    · rw [← hkept.fwRestarts]
      exact congrArg (fun r => r.2.2.1) hregs
    · exact congrArg (fun r => r.2.2.2.2) hregs
    · intro hcause
      have hbit : s1.frc.summary.getLsbD 6 = true := by
        rw [hs1, if_pos hcause]
        exact record_summary_of_fault (by decide) (by decide) (by decide) ..
      rw [restartComp_of_few hheld1 _ harm1 hfew1]
      exact ((firmwareKept_record ..).trans (firmwareKept_onRestart ..)).summary 6 hbit
  case held =>
    have hregs := fwRegs_restartComp_of_many hheld harm .checkpoint hmany
    refine ⟨_, exec_coreWatchdog_of_comp hruns hcore, ?_, ?_, congrArg (fun r => r.2.2.1) hregs, ?_⟩
    · exact (congrArg (fun r => sget CompSt.init r.1 (compIdx c)) hregs).trans ((sget_sset ..).trans (if_pos rfl))
    · rw [← hcore]
      exact congrArg (fun r => r.2.2.2.1) hregs
    · rw [restartComp_of_many hheld _ harm hmany]
      exact (firmwareKept_onHeld ..).summary 6 (record_summary_of_fault (by decide) (by decide) (by decide) ..)
  case kernel =>
    refine ⟨_, exec_coreWatchdog_of_kernel hruns core, fun d hd => ?_⟩
    obtain ⟨hdheld, hdfew⟩ := hall d hd
    by_cases hexpress : d = .express
    · subst hexpress
      obtain rfl : core = 7 := Fin.ext hd.symm
      exact comp_restartComp_of_few hdheld (fun _ => harm rfl) .kernel hdfew
    · have hnodup : (allComps.filter (fun c => compCore c == core.val)).Nodup := List.Nodup.filter _ (by decide)
      exact foldl_restartComp hexpress .kernel hnodup (List.mem_filter.mpr ⟨mem_allComps d, beq_iff_eq.mpr hd⟩) hdheld hdfew
  case express =>
    subst hc
    have hheld' : Held Code.lockstep s (safeHold Code.lockstep (record Code.lockstep none unitCore7 0 0 s)) :=
      held_safeHold_record _ _ _ _ hdev (fun _ => id) harm
    have hkept : FirmwareKept s (safeHold Code.lockstep (record Code.lockstep none unitCore7 0 0 s)) :=
      (firmwareKept_record ..).trans (firmwareKept_safeHold ..)
    refine ⟨⟨_, exec_coreWatchdog_of_comp hruns rfl, ?_⟩, ⟨_, exec_componentAccessFault_of_free hruns hheld .illegal, ?_⟩⟩
    · rw [restartComp_of_armed hheld _ rfl harm]
      exact ⟨hheld', hkept.comps⟩
    · rw [if_neg (by decide), restartComp_of_armed hheld _ rfl harm]
      exact ⟨hheld', hkept.comps⟩

end Sys2Proof.Machine
end
